-- ==== Sys2Proof/Word.lean ====
section
/-! DEFINITION. The words of the machine. -/

namespace Sys2Proof

abbrev Byte := BitVec 8
abbrev Bytes := List Byte
/-- One element of a vector register (R10). -/
abbrev W32 := BitVec 32
/-- A scalar register, an instruction or a header (R10, R3). -/
abbrev W64 := BitVec 64

end Sys2Proof
end

