-- ==== Sys2Proof/Config.lean ====
section
/-! DEFINITION. What is fixed for the machine, and the free values: constants with no body, of which nothing can be
proved, so that a statement holds whatever they are. -/

namespace Sys2Proof.Config

/-- How many clocks after the end of a boot (the first argument its number) a core leaves reset: the cores' counters are neither
synchronised nor comparable (R95). Free. -/
opaque coreLag : Nat → Nat → Nat

/-- The free values: value n of a width, applied to the state's count of draws. Log entry 11 lists their uses. -/
opaque freeValue : Nat → W64

/-- What a barrier's quota and its arrivals due become when a group's end would take them below 0 (R175): free. -/
opaque quotaBelowZero : Nat → BitVec 9
opaque dueBelowZero : Nat → BitVec 9

/-- The scale byte of a destination block whose source a fatal fault cut short: no rule gives it (R64, R203). Free. -/
opaque partialScale : Nat → BitVec 8

/-- The hash of domain and key that an almanac entry of type 3 carries: no rule gives it (R311). Free. -/
opaque almanacHash : Nat → Nat → W64

/-- The 32 bytes of randomness of each signature (FIPS 205), by the report's number. Free. -/
opaque signRandom : Nat → BitVec 256

/-- Byte i of the 96-byte fused secret, and the four key digests fused at manufacture (R345, R347). Free. -/
opaque fusedSecret : Nat → BitVec 8
opaque fusedDigest : Nat → List (BitVec 8)

/-- The vendor's certificate for the identity key, in the I/O die's flash (R347). Free. -/
opaque certificate : List (BitVec 8)

/-- How long the firmware in a boot image's payload is, after which the fabric configuration stands (R344): no rule says. Free. -/
opaque firmwareLength : List (BitVec 8) → Nat

/-- Whether the completer behind a host address performs AtomicOps or rejects them (R323). Free. -/
opaque hostTakesAtomics : Nat → Bool

/-- Where a monitor's fields stand past 8 KiB of BAR0: no rule gives it (R349, R351). Free. -/
opaque monitorOffset : Nat → Nat

/-- What a fabric configuration says (R317): the device number, the routes (primary and alternate link of each device), the
remote timeout. No rule lays it out. Free. -/
opaque fabricFields : List (BitVec 8) → Nat × List (Nat × Nat) × Nat

end Sys2Proof.Config
end

