-- ==== Sys2Proof/Syntax.lean ====
section
/-! DEFINITION. The syntax of the Belhan: operand types, the data that the steps outside the instruction stream carry,
and `Instr`, one constructor per row of spec/opcode_table.json. -/

namespace Sys2Proof

/-- A 9-bit vector register code (R35). -/
abbrev VCode := BitVec 9
/-- An 8-bit scalar register code (R36). -/
abbrev KCode := BitVec 8
/-- A 4-bit mask register code (R36). -/
abbrev MCode := BitVec 4

/-- The operand types of R38. -/
inductive Ty where
  | s8 | s16 | s32 | s64 | n8 | n16 | n32 | n64 | f32 | f16 | bf16 | e4m3 | lns6 | b32 | b64
  deriving DecidableEq, Repr

/-- The rounding modes of R60. -/
inductive Rnd where
  | rne | rtz | rup | rdn
  deriving DecidableEq, Repr

/-- The integer conditions of R39. -/
inductive ICond where
  | eq | ne | lts | les | gts | ges | ltu | leu | gtu | geu
  deriving DecidableEq, Repr

/-- The float conditions of R39. -/
inductive FCond where
  | eq | ne | lt | le | gt | ge | ltu | leu | gtu | geu | ord | uno
  deriving DecidableEq, Repr

/-- The branch conditions of R46. -/
inductive BCond where
  | eq | ne | lt | ge | ltu | geu | gt | le | gtu | leu | vs | vc | al | mz | mnz | mall
  deriving DecidableEq, Repr

/-- The lane modes of LSHUF (R93). -/
inductive LaneMode where
  | idx | up | down | xor
  deriving DecidableEq, Repr

/-- The flag select of R41: no tag, flag A of the header, flag B. -/
inductive FSel where
  | none | a | b
  deriving DecidableEq, Repr

/-- The access widths of R47. -/
inductive Width where
  | n8 | s8 | n16 | s16 | w32 | w64 | w128
  deriving DecidableEq, Repr

/-- The scopes of R47 and R184. -/
inductive Scope where
  | team | clus | dev | sys
  deriving DecidableEq, Repr

/-- The atomic operations of R48, but for code 0. -/
inductive AtomOp where
  | add | sub | smin | min | smax | max | and | or | xor | exch | cas | inc | dec
  | fadd | bfadd | fmin | fmax | ffcs | plset | bins
  deriving DecidableEq, Repr

/-! What the steps outside the instruction stream carry. -/

/-- Where an uncorrectable error is met (R305): in a read of a copy, of a walk, of the service of a queued decoder request, of an
MPATCH, of a RASTER, of MSTAT.ford, in a group's own state, in a read of an XCHG, of a graph's dispatcher, of a tenant's launch engine, of
its host, or in state that no tenant owns. -/
inductive ErrorSite where
  | copyRead (id : Nat) | walkRead (core wid : Nat) | queuedRead (core n : Nat) | patchRead (n : Nat) | rasterRead (id : Nat)
  | mstatRead (gid : Nat) | groupRead (gid : Nat) | xchgRead (id : Nat) | batchRead (tn slot : Nat) | launchRead (tn : Nat)
  | hostRead (tn : Nat) | unowned
  deriving DecidableEq, Repr

/-- The health monitors of R351. -/
inductive MonitorName where
  | copy | load | procession | channel | queue | traps
  deriving DecidableEq, Repr

/-- A host access (R349): through BAR2, to BAR0, to an entry of the MSI-X table of a tenant's function; or what the PF reads: a
monitor of a tenant, the vendor's certificate (R347, R351). -/
inductive HostAccess where
  | read (len : Nat) | write (bytes : Bytes) | bar0Read (len : Nat) | tableWrite (bytes : Bytes) | tableRead (len : Nat)
  | pfMonitor (m : MonitorName) | pfCertificate
  deriving DecidableEq, Repr

/-- A Larune flit (R318). -/
structure Flit where
  ty : BitVec 4
  seq : BitVec 12
  ack : BitVec 12
  dest : BitVec 10
  hops : BitVec 6
  src : BitVec 10
  part : BitVec 16
  len : BitVec 4
  req : BitVec 32
  payload : Bytes
  check : BitVec 64
  deriving DecidableEq, Repr

/-- What one boot attempt obtains (R343): whether the port came up and DHCPv6 answered, and the file TFTP fetched. -/
structure BootFile where
  addressed : Bool
  file : Option Bytes
  deriving DecidableEq, Repr

/-- The kill scopes of R296 and R309. -/
inductive KillScope where
  | group | team | grid
  deriving DecidableEq, Repr

/-- The almanac modes of R311 and R312. -/
inductive AlmanacMode where
  | off | record | replay
  deriving DecidableEq, Repr

/-- A tenant's configuration (R350). -/
structure TenantConfig where
  cores : List Nat
  scratchBase : Nat
  scratchSize : Nat
  lBase : Nat
  lSize : Nat
  overflowBase : Nat
  translationRoot : Nat
  rootBlock : Nat
  inbox : Nat
  handler : Nat
  killScope : KillScope
  chanBudget : BitVec 32
  procBudget : BitVec 32
  rasterThreshold : BitVec 32
  faultLog : Nat
  partition : BitVec 16
  supervisor : Bool
  bar2Base : Nat
  bar2Size : Nat
  almanac : AlmanacMode
  almanacBuffer : Nat
  almanacSize : Nat
  saveArea : Nat
  deriving DecidableEq, Repr

/-- One mailbox write of tenant configuration (R350): the whole of it, or one field that may change live; or the power limit of the module
(R353). -/
inductive ConfigWrite where
  | all (c : TenantConfig)
  | handler (a : Nat)
  | killScope (k : KillScope)
  | chanBudget (b : BitVec 32)
  | procBudget (b : BitVec 32)
  | rasterThreshold (t : BitVec 32)
  | powerLimit (watts : Nat)
  deriving DecidableEq, Repr

/-- A request for an attestation report (R348): the function that asks (none for the PF, else a VF's tenant), the
subject (none for the module) and the nonce. -/
structure AttestRequest where
  vf : Option Nat
  subject : Option Nat
  nonce : Bytes
  deriving DecidableEq, Repr

/-- What the control cores read every millisecond (R353): power over the last 10 ms in watts, and each die's
temperature in degrees Celsius. -/
structure PowerReading where
  watts : Nat
  dieTemps : List Nat
  deriving DecidableEq, Repr

/-- One constructor per row of the opcode table: 207 encoded instructions, and the 64 steps the table lists beside
them that no word encodes; those without a field stand last (compiled code can build no other constructor beyond the 244th). -/
inductive Instr where
  /-- IADD_VR, opcode 0x001, format VR (R80): Per-lane integer add of two vector sources, with optional saturation. -/
  | iaddVr (d a b : VCode) (p : MCode) (t : Ty) (sat : Bool)
  /-- ISUB_VR, opcode 0x002, format VR (R80): Per-lane integer subtract, with optional saturation. -/
  | isubVr (d a b : VCode) (p : MCode) (t : Ty) (sat : Bool)
  /-- IMUL_VR, opcode 0x003, format VR (R80): Per-lane integer multiply, keeping the low w bits. -/
  | imulVr (d a b : VCode) (p : MCode) (t : Ty)
  /-- IMULH_VR, opcode 0x004, format VR (R80): Per-lane upper half of the 2w-bit product. -/
  | imulhVr (d a b : VCode) (p : MCode) (t : Ty)
  /-- IMAD_VR, opcode 0x005, format VR (R80): Per-lane multiply-add with a single wrap or saturation. -/
  | imadVr (d a b c : VCode) (p : MCode) (t : Ty) (sat : Bool)
  /-- IMIN_VR, opcode 0x006, format VR (R80): Per-lane integer minimum. -/
  | iminVr (d a b : VCode) (p : MCode) (t : Ty)
  /-- IMAX_VR, opcode 0x007, format VR (R80): Per-lane integer maximum. -/
  | imaxVr (d a b : VCode) (p : MCode) (t : Ty)
  /-- IABS_VR, opcode 0x008, format VR (R80): Per-lane absolute value; the most negative value wraps to itself. -/
  | iabsVr (d a : VCode) (p : MCode) (t : Ty)
  /-- INEG_VR, opcode 0x009, format VR (R80): Per-lane negation. -/
  | inegVr (d a : VCode) (p : MCode) (t : Ty)
  /-- IADDC_VR, opcode 0x00A, format VR (R81): Per-lane add with the carry taken from and returned to a carry mask. -/
  | iaddcVr (d a b : VCode) (mc p : MCode) (t : Ty)
  /-- ISUBB_VR, opcode 0x00B, format VR (R81): Per-lane subtract with the borrow taken from and returned to a carry mask. -/
  | isubbVr (d a b : VCode) (mc p : MCode) (t : Ty)
  /-- AND_VR, opcode 0x00C, format VR (R82): Per-lane bitwise AND. -/
  | andVr (d a b : VCode) (p : MCode) (t : Ty)
  /-- OR_VR, opcode 0x00D, format VR (R82): Per-lane bitwise OR. -/
  | orVr (d a b : VCode) (p : MCode) (t : Ty)
  /-- XOR_VR, opcode 0x00E, format VR (R82): Per-lane bitwise XOR. -/
  | xorVr (d a b : VCode) (p : MCode) (t : Ty)
  /-- ANDN_VR, opcode 0x00F, format VR (R82): Per-lane x AND NOT y. -/
  | andnVr (d a b : VCode) (p : MCode) (t : Ty)
  /-- BTAB_VR, opcode 0x010, format VR (R83): Per-lane three-input bit function taken from an 8-bit truth table. -/
  | btabVr (d a b c : VCode) (tt : BitVec 8) (p : MCode) (t : Ty)
  /-- SHL_VR, opcode 0x011, format VR (R82): Per-lane logical shift left. -/
  | shlVr (d a b : VCode) (p : MCode) (t : Ty)
  /-- SHR_VR, opcode 0x012, format VR (R82): Per-lane logical shift right. -/
  | shrVr (d a b : VCode) (p : MCode) (t : Ty)
  /-- SAR_VR, opcode 0x013, format VR (R82): Per-lane arithmetic shift right. -/
  | sarVr (d a b : VCode) (p : MCode) (t : Ty)
  /-- ROL_VR, opcode 0x014, format VR (R82): Per-lane rotate left. -/
  | rolVr (d a b : VCode) (p : MCode) (t : Ty)
  /-- POPC_VR, opcode 0x015, format VR (R84): Per-lane population count. -/
  | popcVr (d a : VCode) (p : MCode) (t : Ty)
  /-- CLZ_VR, opcode 0x016, format VR (R84): Per-lane count of leading zeros. -/
  | clzVr (d a : VCode) (p : MCode) (t : Ty)
  /-- CTZ_VR, opcode 0x017, format VR (R84): Per-lane count of trailing zeros. -/
  | ctzVr (d a : VCode) (p : MCode) (t : Ty)
  /-- BREV_VR, opcode 0x018, format VR (R84): Per-lane bit reversal. -/
  | brevVr (d a : VCode) (p : MCode) (t : Ty)
  /-- BFX_VR, opcode 0x019, format VR (R85): Per-lane bit-field extract. -/
  | bfxVr (d a b c : VCode) (p : MCode) (t : Ty)
  /-- BINS_VR, opcode 0x01A, format VR (R85): Per-lane insertion of bits under a select mask. -/
  | binsVr (d a b c : VCode) (p : MCode) (t : Ty)
  /-- FFCS_VR, opcode 0x01B, format VR (R86): Per-lane find of the lowest clear bit, which it sets, returning its index. -/
  | ffcsVr (d a : VCode) (p : MCode)
  /-- PLSET_VR, opcode 0x01C, format VR (R87): Per-lane set of bits, refused when the population would exceed the limit. -/
  | plsetVr (d a b c : VCode) (p : MCode) (t : Ty)
  /-- LEA_VR, opcode 0x01D, format VR (R88): Per-lane address arithmetic x + y × 2^n. -/
  | leaVr (d a b c : VCode) (p : MCode) (t : Ty)
  /-- ICMP_VR, opcode 0x01E, format VR (R89): Per-lane integer compare, writing the active lanes' bits of a mask. -/
  | icmpVr (md : MCode) (cond : ICond) (a b : VCode) (p : MCode) (t : Ty)
  /-- SEL_VR, opcode 0x01F, format VR (R92): Per-lane choice between two sources by a selector mask. -/
  | selVr (d a b : VCode) (ms p : MCode) (t : Ty)
  /-- MOV_VR, opcode 0x020, format VR (R91): Per-lane copy of any source code. -/
  | movVr (d a : VCode) (p : MCode) (t : Ty)
  /-- LSHUF, opcode 0x021, format VR (R93): Reads a value from a source lane computed by mode idx, up, down or xor. -/
  | lshuf (d a b : VCode) (mode : LaneMode) (p : MCode) (t : Ty)
  /-- BCAST, opcode 0x022, format VR (R93): Broadcasts the value of one source lane to every active lane. -/
  | bcast (d a b : VCode) (p : MCode) (t : Ty)
  /-- ELECT, opcode 0x023, format VR (R133): Writes a mask holding only the lowest active lane. -/
  | elect (md p : MCode)
  /-- RETIRE, opcode 0x024, format VR (R134): Removes its active lanes from the path, releasing their procession holdings. -/
  | retire (p : MCode)
  /-- MOVS_VR, opcode 0x025, format VR (R94): Writes a special register into each active lane. -/
  | movsVr (d : VCode) (sr : BitVec 9) (p : MCode) (t : Ty)
  /-- MOVI_VI, opcode 0x040, format VI (R91): Writes a 32-bit immediate into each active lane. -/
  | moviVi (d : VCode) (p : MCode) (imm : BitVec 32)
  /-- IADD_VI, opcode 0x041, format VI (R80): Per-lane add of an immediate. -/
  | iaddVi (d a : VCode) (p : MCode) (imm : BitVec 32)
  /-- IMUL_VI, opcode 0x042, format VI (R80): Per-lane multiply by an immediate. -/
  | imulVi (d a : VCode) (p : MCode) (imm : BitVec 32)
  /-- AND_VI, opcode 0x043, format VI (R82): Per-lane AND with an immediate. -/
  | andVi (d a : VCode) (p : MCode) (imm : BitVec 32)
  /-- OR_VI, opcode 0x044, format VI (R82): Per-lane OR with an immediate. -/
  | orVi (d a : VCode) (p : MCode) (imm : BitVec 32)
  /-- XOR_VI, opcode 0x045, format VI (R82): Per-lane XOR with an immediate. -/
  | xorVi (d a : VCode) (p : MCode) (imm : BitVec 32)
  /-- SHL_VI, opcode 0x046, format VI (R82): Per-lane shift left by an immediate. -/
  | shlVi (d a : VCode) (p : MCode) (imm : BitVec 32)
  /-- SHR_VI, opcode 0x047, format VI (R82): Per-lane logical shift right by an immediate. -/
  | shrVi (d a : VCode) (p : MCode) (imm : BitVec 32)
  /-- SAR_VI, opcode 0x048, format VI (R82): Per-lane arithmetic shift right by an immediate. -/
  | sarVi (d a : VCode) (p : MCode) (imm : BitVec 32)
  /-- ICMP_VI, opcode 0x049, format VI (R89): Per-lane compare against an immediate, into a mask. -/
  | icmpVi (md : MCode) (cond : ICond) (a : VCode) (p : MCode) (imm : BitVec 32)
  /-- FADD, opcode 0x080, format VR (R106): Per-lane f32 add, rounded once. -/
  | fadd (d a b : VCode) (p : MCode) (rnd : Rnd) (na nb aa ab : Bool)
  /-- FSUB, opcode 0x081, format VR (R106): Per-lane f32 subtract, rounded once. -/
  | fsub (d a b : VCode) (p : MCode) (rnd : Rnd) (na nb aa ab : Bool)
  /-- FMUL, opcode 0x082, format VR (R106): Per-lane f32 multiply, rounded once. -/
  | fmul (d a b : VCode) (p : MCode) (rnd : Rnd) (na nb aa ab : Bool)
  /-- FFMA, opcode 0x083, format VR (R106): Per-lane fused multiply-add, rounded once. -/
  | ffma (d a b c : VCode) (p : MCode) (rnd : Rnd) (na nb nc aa ab : Bool)
  /-- FMIN, opcode 0x084, format VR (R107): Per-lane minimumNumber. -/
  | fmin (d a b : VCode) (p : MCode) (rnd : Rnd) (na nb aa ab : Bool)
  /-- FMAX, opcode 0x085, format VR (R107): Per-lane maximumNumber. -/
  | fmax (d a b : VCode) (p : MCode) (rnd : Rnd) (na nb aa ab : Bool)
  /-- FCMP, opcode 0x086, format VR (R109): Per-lane quiet float compare into a mask. -/
  | fcmp (md : MCode) (cond : FCond) (a b : VCode) (p : MCode) (na nb aa ab : Bool)
  /-- FCLASS, opcode 0x087, format VR (R110): Per-lane classification into one-hot class bits. -/
  | fclass (d a : VCode) (p : MCode) (t : Ty)
  /-- FSCALE, opcode 0x088, format VR (R108): Per-lane x × 2^n, rounded once. -/
  | fscale (d a b : VCode) (p : MCode) (rnd : Rnd) (na aa : Bool)
  /-- FRINT, opcode 0x089, format VR (R111): Per-lane rounding to an integral value in the mode. -/
  | frint (d a : VCode) (p : MCode) (rnd : Rnd) (na aa : Bool)
  /-- FRCP, opcode 0x08A, format VR (R112): Per-lane correctly rounded reciprocal. -/
  | frcp (d a : VCode) (p : MCode) (rnd : Rnd) (na aa : Bool)
  /-- FSQRT, opcode 0x08B, format VR (R112): Per-lane correctly rounded square root. -/
  | fsqrt (d a : VCode) (p : MCode) (rnd : Rnd) (na aa : Bool)
  /-- FRSQ, opcode 0x08C, format VR (R112): Per-lane correctly rounded reciprocal square root. -/
  | frsq (d a : VCode) (p : MCode) (rnd : Rnd) (na aa : Bool)
  /-- FEXP2, opcode 0x08D, format VR (R112): Per-lane correctly rounded 2^x. -/
  | fexp2 (d a : VCode) (p : MCode) (rnd : Rnd) (na aa : Bool)
  /-- FLOG2, opcode 0x08E, format VR (R112): Per-lane correctly rounded log2 x. -/
  | flog2 (d a : VCode) (p : MCode) (rnd : Rnd) (na aa : Bool)
  /-- PKFMA, opcode 0x08F, format VR (R113): Packed fused multiply-add on two 16-bit elements. -/
  | pkfma (d a b c : VCode) (p : MCode) (t : Ty) (rnd : Rnd) (na nb nc aa ab : Bool)
  /-- FDOT2, opcode 0x090, format VR (R114): Two-element dot product plus an f32 value, rounded once. -/
  | fdot2 (d a b c : VCode) (p : MCode) (t : Ty) (rnd : Rnd) (na nb nc aa ab : Bool)
  /-- FCVT, opcode 0x091, format VR (R115): Converts between the float formats f32, f16, bf16, e4m3 and lns6. -/
  | fcvt (d a b : VCode) (p : MCode) (t src : Ty) (rnd : Rnd)
  /-- ICVT, opcode 0x092, format VR (R117): Converts between integer and float types. -/
  | icvt (d a : VCode) (p : MCode) (t src : Ty) (rnd : Rnd)
  /-- LMUL, opcode 0x093, format VR (R118): Register lns6 multiply with saturation. -/
  | lmul (d a b : VCode) (p : MCode)
  /-- LSUM, opcode 0x094, format VR (R119): Adds the exact array lns6 product to an f32 value. -/
  | lsum (d a b c : VCode) (p : MCode)
  /-- IADD_SR, opcode 0x100, format SR (R80): Scalar add, optionally writing condition codes. -/
  | iaddSr (d a b : KCode) (t : Ty) (sat cc : Bool)
  /-- ISUB_SR, opcode 0x101, format SR (R80): Scalar subtract. -/
  | isubSr (d a b : KCode) (t : Ty) (sat cc : Bool)
  /-- IMUL_SR, opcode 0x102, format SR (R80): Scalar multiply. -/
  | imulSr (d a b : KCode) (t : Ty) (cc : Bool)
  /-- IMULH_SR, opcode 0x103, format SR (R80): Scalar upper half of the product. -/
  | imulhSr (d a b : KCode) (t : Ty) (cc : Bool)
  /-- IMAD_SR, opcode 0x104, format SR (R80): Scalar multiply-add. -/
  | imadSr (d a b c : KCode) (t : Ty) (sat cc : Bool)
  /-- IMIN_SR, opcode 0x105, format SR (R80): Scalar minimum. -/
  | iminSr (d a b : KCode) (t : Ty) (cc : Bool)
  /-- IMAX_SR, opcode 0x106, format SR (R80): Scalar maximum. -/
  | imaxSr (d a b : KCode) (t : Ty) (cc : Bool)
  /-- IABS_SR, opcode 0x107, format SR (R80): Scalar absolute value. -/
  | iabsSr (d a : KCode) (t : Ty) (cc : Bool)
  /-- INEG_SR, opcode 0x108, format SR (R80): Scalar negation. -/
  | inegSr (d a : KCode) (t : Ty) (cc : Bool)
  /-- IADDC_SR, opcode 0x109, format SR (R81): Scalar add with the slot's C as carry. -/
  | iaddcSr (d a b : KCode) (t : Ty) (cc : Bool)
  /-- ISUBB_SR, opcode 0x10A, format SR (R81): Scalar subtract with the borrow taken from C. -/
  | isubbSr (d a b : KCode) (t : Ty) (cc : Bool)
  /-- AND_SR, opcode 0x10B, format SR (R82): Scalar AND. -/
  | andSr (d a b : KCode) (t : Ty) (cc : Bool)
  /-- OR_SR, opcode 0x10C, format SR (R82): Scalar OR. -/
  | orSr (d a b : KCode) (t : Ty) (cc : Bool)
  /-- XOR_SR, opcode 0x10D, format SR (R82): Scalar XOR. -/
  | xorSr (d a b : KCode) (t : Ty) (cc : Bool)
  /-- ANDN_SR, opcode 0x10E, format SR (R82): Scalar AND NOT. -/
  | andnSr (d a b : KCode) (t : Ty) (cc : Bool)
  /-- BTAB_SR, opcode 0x10F, format SR (R83): Scalar three-input truth-table function. -/
  | btabSr (d a b c : KCode) (tt : BitVec 8) (t : Ty) (cc : Bool)
  /-- SHL_SR, opcode 0x110, format SR (R82): Scalar shift left. -/
  | shlSr (d a b : KCode) (t : Ty) (cc : Bool)
  /-- SHR_SR, opcode 0x111, format SR (R82): Scalar logical shift right. -/
  | shrSr (d a b : KCode) (t : Ty) (cc : Bool)
  /-- SAR_SR, opcode 0x112, format SR (R82): Scalar arithmetic shift right. -/
  | sarSr (d a b : KCode) (t : Ty) (cc : Bool)
  /-- ROL_SR, opcode 0x113, format SR (R82): Scalar rotate left. -/
  | rolSr (d a b : KCode) (t : Ty) (cc : Bool)
  /-- POPC_SR, opcode 0x114, format SR (R84): Scalar population count. -/
  | popcSr (d a : KCode) (t : Ty) (cc : Bool)
  /-- CLZ_SR, opcode 0x115, format SR (R84): Scalar count of leading zeros. -/
  | clzSr (d a : KCode) (t : Ty) (cc : Bool)
  /-- CTZ_SR, opcode 0x116, format SR (R84): Scalar count of trailing zeros. -/
  | ctzSr (d a : KCode) (t : Ty) (cc : Bool)
  /-- BREV_SR, opcode 0x117, format SR (R84): Scalar bit reversal. -/
  | brevSr (d a : KCode) (t : Ty) (cc : Bool)
  /-- BFX_SR, opcode 0x118, format SR (R85): Scalar bit-field extract. -/
  | bfxSr (d a b c : KCode) (t : Ty) (cc : Bool)
  /-- BINS_SR, opcode 0x119, format SR (R85): Scalar bit insertion under a select mask. -/
  | binsSr (d a b c : KCode) (t : Ty) (cc : Bool)
  /-- FFCS_SR, opcode 0x11A, format SR (R86): Scalar find and set of the lowest clear bit; Z reports a full word. -/
  | ffcsSr (d a : KCode) (cc : Bool)
  /-- PLSET_SR, opcode 0x11B, format SR (R87): Scalar limited bit set; Z reports a refusal. -/
  | plsetSr (d a b c : KCode) (t : Ty) (cc : Bool)
  /-- LEA_SR, opcode 0x11C, format SR (R88): Scalar address arithmetic. -/
  | leaSr (d a b c : KCode) (t : Ty) (cc : Bool)
  /-- ICMP_SR, opcode 0x11D, format SR (R89): Scalar compare writing an all-ones or zero mask. -/
  | icmpSr (md : MCode) (cond : ICond) (a b : KCode) (t : Ty) (cc : Bool)
  /-- SEL_SR, opcode 0x11E, format SR (R92): Scalar choice by whether a mask is non-zero. -/
  | selSr (d a b : KCode) (ms : MCode) (t : Ty) (cc : Bool)
  /-- MOV_SR, opcode 0x11F, format SR (R91): Scalar move. -/
  | movSr (d a : KCode) (t : Ty) (cc : Bool)
  /-- MAND, opcode 0x120, format SR (R90): Mask AND. -/
  | mand (md ma mb : MCode) (cc : Bool)
  /-- MOR, opcode 0x121, format SR (R90): Mask OR. -/
  | mor (md ma mb : MCode) (cc : Bool)
  /-- MXOR, opcode 0x122, format SR (R90): Mask XOR. -/
  | mxor (md ma mb : MCode) (cc : Bool)
  /-- MANDN, opcode 0x123, format SR (R90): Mask AND NOT. -/
  | mandn (md ma mb : MCode) (cc : Bool)
  /-- MNOT, opcode 0x124, format SR (R90): Mask NOT. -/
  | mnot (md ma : MCode) (cc : Bool)
  /-- MMOV, opcode 0x125, format SR (R90): Mask move. -/
  | mmov (md ma : MCode) (cc : Bool)
  /-- MPOPC, opcode 0x126, format SR (R90): Writes a mask's set-bit count to a scalar. -/
  | mpopc (d : KCode) (ma : MCode) (cc : Bool)
  /-- MFIRST, opcode 0x127, format SR (R90): Writes the index of a mask's lowest set bit, or 32. -/
  | mfirst (d : KCode) (ma : MCode) (cc : Bool)
  /-- MOVS_SR, opcode 0x128, format SR (R94): Reads a special register into a scalar. -/
  | movsSr (d : KCode) (sr : BitVec 8)
  /-- MOVS_FFLAGS_WRITE, opcode 0x128, format SR (R94): Replaces %fflags with the low bits of a scalar. -/
  | movsFflagsWrite (a : KCode)
  /-- CLOCK, opcode 0x129, format SR (R95): Reads the core's cycle counter. -/
  | clock (d : KCode)
  /-- JMP, opcode 0x12A, format SR (R98): Continues at the header address held in a scalar. -/
  | jmp (a : KCode)
  /-- MOVI_SI, opcode 0x140, format SI (R91): Writes an extended immediate to a scalar. -/
  | moviSi (d : KCode) (t : Ty) (cc : Bool) (imm : BitVec 32)
  /-- IADD_SI, opcode 0x141, format SI (R80): Scalar add of an immediate. -/
  | iaddSi (d a : KCode) (t : Ty) (cc : Bool) (imm : BitVec 32)
  /-- ISUB_SI, opcode 0x142, format SI (R80): Scalar subtract of an immediate. -/
  | isubSi (d a : KCode) (t : Ty) (cc : Bool) (imm : BitVec 32)
  /-- IMUL_SI, opcode 0x143, format SI (R80): Scalar multiply by an immediate. -/
  | imulSi (d a : KCode) (t : Ty) (cc : Bool) (imm : BitVec 32)
  /-- AND_SI, opcode 0x144, format SI (R82): Scalar AND with an immediate. -/
  | andSi (d a : KCode) (t : Ty) (cc : Bool) (imm : BitVec 32)
  /-- OR_SI, opcode 0x145, format SI (R82): Scalar OR with an immediate. -/
  | orSi (d a : KCode) (t : Ty) (cc : Bool) (imm : BitVec 32)
  /-- XOR_SI, opcode 0x146, format SI (R82): Scalar XOR with an immediate. -/
  | xorSi (d a : KCode) (t : Ty) (cc : Bool) (imm : BitVec 32)
  /-- SHL_SI, opcode 0x147, format SI (R82): Scalar shift left by an immediate. -/
  | shlSi (d a : KCode) (t : Ty) (cc : Bool) (imm : BitVec 32)
  /-- SHR_SI, opcode 0x148, format SI (R82): Scalar logical shift right by an immediate. -/
  | shrSi (d a : KCode) (t : Ty) (cc : Bool) (imm : BitVec 32)
  /-- SAR_SI, opcode 0x149, format SI (R82): Scalar arithmetic shift right by an immediate. -/
  | sarSi (d a : KCode) (t : Ty) (cc : Bool) (imm : BitVec 32)
  /-- IMIN_SI, opcode 0x14A, format SI (R80): Scalar minimum with an immediate. -/
  | iminSi (d a : KCode) (t : Ty) (cc : Bool) (imm : BitVec 32)
  /-- IMAX_SI, opcode 0x14B, format SI (R80): Scalar maximum with an immediate. -/
  | imaxSi (d a : KCode) (t : Ty) (cc : Bool) (imm : BitVec 32)
  /-- ICMP_SI, opcode 0x14C, format SI (R89): Scalar compare against an immediate, into a mask. -/
  | icmpSi (md : MCode) (cond : ICond) (a : KCode) (t : Ty) (cc : Bool) (imm : BitVec 32)
  /-- FRAME, opcode 0x14D, format SI (R17): Sets the frame extent E, checking it against the resident range and the register area. -/
  | frame (e : BitVec 32)
  /-- RHEAD, opcode 0x14E, format SI (R96): Stages up to two register ranges in the near operand buffer. -/
  | rhead (s1 : VCode) (n1 : BitVec 6) (s2 : VCode) (n2 : BitVec 6)
  /-- BRA, opcode 0x160, format BR (R97): Branches to a clause header on a condition-code or mask condition. -/
  | bra (cond : BCond) (mk : MCode) (off : BitVec 32)
  /-- CALL, opcode 0x161, format BR (R17): Pushes a link, shifts the register window and branches. -/
  | call (sh : BitVec 9) (off : BitVec 32)
  /-- FORK, opcode 0x163, format BR (R128): Splits the path by a mask, creating a join record and a fragment. -/
  | fork (kt : KCode) (ms : MCode) (off : BitVec 32)
  /-- JOIN, opcode 0x164, format BR (R129): Ends a path's side of a join record, parking or merging. -/
  | join (kt : KCode) (off : BitVec 32)
  /-- LDL, opcode 0x180, format MEM (R166): Loads from the group's L program area. -/
  | ldl (data addr : VCode) (base : KCode) (p : MCode) (wd : Width) (fs : FSel) (off : BitVec 12)
  /-- STL, opcode 0x181, format MEM (R166): Posted store to L-space. -/
  | stl (data addr : VCode) (base : KCode) (p : MCode) (wd : Width) (off : BitVec 12)
  /-- LDT, opcode 0x182, format MEM (R166): Loads from team shared memory. -/
  | ldt (data addr : VCode) (base : KCode) (p : MCode) (wd : Width) (fs : FSel) (off : BitVec 12)
  /-- STT, opcode 0x183, format MEM (R166): Posted store to T-space. -/
  | stt (data addr : VCode) (base : KCode) (p : MCode) (wd : Width) (off : BitVec 12)
  /-- LDD, opcode 0x184, format MEM (R166): Loads from a D window of scratch. -/
  | ldd (data addr : VCode) (base : KCode) (p : MCode) (wd : Width) (fs : FSel) (off : BitVec 12)
  /-- STD, opcode 0x185, format MEM (R166): Posted store to D-space. -/
  | std (data addr : VCode) (base : KCode) (p : MCode) (wd : Width) (off : BitVec 12)
  /-- ATOM_T, opcode 0x188, format MEM (R169): Atomic on T-space at the T banks, returning the old value. -/
  | atomT (op : AtomOp) (data addr : VCode) (base : KCode) (p : MCode) (wd : Width) (fs : FSel) (off : BitVec 12)
  /-- RED_T, opcode 0x18B, format MEM (R169): Posted reduction on T-space. -/
  | redT (op : AtomOp) (data addr : VCode) (base : KCode) (p : MCode) (wd : Width) (off : BitVec 12)
  /-- ATOM_D, opcode 0x189, format MEM (R169): Atomic on D-space at the home slice, returning the old value. -/
  | atomD (op : AtomOp) (data addr : VCode) (base : KCode) (p : MCode) (wd : Width) (sc : Scope) (fs : FSel) (off : BitVec 12)
  /-- RED_D, opcode 0x18C, format MEM (R169): Posted reduction on D-space. -/
  | redD (op : AtomOp) (data addr : VCode) (base : KCode) (p : MCode) (wd : Width) (sc : Scope) (off : BitVec 12)
  /-- ATOM_M, opcode 0x18A, format MEM (R169): Atomic on M-space after translation of every lane, returning the old value. -/
  | atomM (op : AtomOp) (data addr : VCode) (base : KCode) (p : MCode) (wd : Width) (sc : Scope) (fs : FSel) (off : BitVec 12)
  /-- RED_M, opcode 0x18D, format MEM (R169): Posted reduction on M-space. -/
  | redM (op : AtomOp) (data addr : VCode) (base : KCode) (p : MCode) (wd : Width) (sc : Scope) (off : BitVec 12)
  /-- BARINIT, opcode 0x190, format MEM (R176): Registers or removes a barrier and resets its state, cancelling bound copies. -/
  | barinit (data : VCode) (base : KCode) (off : BitVec 12)
  /-- BAREXP, opcode 0x191, format MEM (R176): Adds declared bytes to a barrier's owed count. -/
  | barexp (data : VCode) (base : KCode) (off : BitVec 12)
  /-- BARARR, opcode 0x192, format MEM (R176): Records the group's arrival at a barrier. -/
  | bararr (base : KCode) (off : BitVec 12)
  /-- BARWAIT, opcode 0x193, format MEM (R176): Parks until the phase of the last arrival completes, reporting its fault. -/
  | barwait (base : KCode) (off : BitVec 12)
  /-- BARAW, opcode 0x194, format MEM (R176): Arrives at a barrier, then waits on it. -/
  | baraw (base : KCode) (off : BitVec 12)
  /-- MWAIT, opcode 0x198, format MEM (R177): Waits at the home slice until a D word differs from an expected value. -/
  | mwait (data : VCode) (base : KCode) (p : MCode) (wd : Width) (fs : FSel) (off : BitVec 12)
  /-- FENCE, opcode 0x199, format MEM (R178): Full fence at a scope: both release and acquire. -/
  | fence (sc : Scope)
  /-- FENCE_ACQ, opcode 0x199, format MEM (R178): Acquire fence: earlier loads return before later accesses perform. -/
  | fenceAcq (sc : Scope)
  /-- FENCE_REL, opcode 0x199, format MEM (R178): Release fence: earlier accesses perform before later writes. -/
  | fenceRel (sc : Scope)
  /-- TIDSET, opcode 0x200, format AS (R198): Checks a 64-byte descriptor from T-space and installs it in the tensor table. -/
  | tidset (t : BitVec 6) (kb : KCode) (off : BitVec 12)
  /-- TIDINV, opcode 0x201, format AS (R198): Invalidates a tensor table entry. -/
  | tidinv (t : BitVec 6)
  /-- COPY, opcode 0x202, format AS (R200): Accepts a bulk tensor copy described by a parameter block. -/
  | copy (ka kb : KCode) (fs : FSel) (off : BitVec 12)
  /-- COPYG, opcode 0x203, format AS (R206): Accepts a gather copy of one source row per active lane. -/
  | copyg (ka kb : KCode) (v : VCode) (p : MCode) (fs : FSel) (off : BitVec 12)
  /-- COPYS, opcode 0x204, format AS (R206): Accepts a scatter copy of one row per active lane. -/
  | copys (ka kb : KCode) (v : VCode) (p : MCode) (fs : FSel) (off : BitVec 12)
  /-- CBATCH, opcode 0x205, format AS (R207): Closes the open copy batch and returns its number. -/
  | cbatch (ka : KCode)
  /-- WAITB, opcode 0x206, format AS (R207): Parks until every batch up to a number has completed. -/
  | waitb (kb : KCode)
  /-- ROUTE, opcode 0x207, format AS (R209): Sorts (token, slot) pairs stably by expert and writes the permutation and counts. -/
  | route (ka kb : KCode) (fs : FSel) (off : BitVec 12)
  /-- XCHG, opcode 0x208, format AS (R326): Accepts an all-to-all exchange of counts and rows among peer devices. -/
  | xchg (ka kb : KCode) (fs : FSel) (off : BitVec 12)
  /-- SCLAIM, opcode 0x240, format MX (R216): Claims a range of operand slots, all or nothing. -/
  | sclaim (x : BitVec 2) (sl n : BitVec 4)
  /-- SREL, opcode 0x241, format MX (R216): Frees claimed operand slots once their copies and jobs are done. -/
  | srel (x : BitVec 2) (sl n : BitVec 4)
  /-- ACQ, opcode 0x242, format MX (R217): Takes an accumulator tile's token to the group side. -/
  | acq (x : BitVec 2) (acc : BitVec 3)
  /-- REL, opcode 0x243, format MX (R217): Hands an accumulator tile's token to the array. -/
  | rel (x : BitVec 2) (acc : BitVec 3)
  /-- REL_FREE, opcode 0x243, format MX (R217): Frees an accumulator tile once no job or MSTORE uses it. -/
  | relFree (x : BitVec 2) (acc : BitVec 3)
  /-- MZERO, opcode 0x244, format MX (R217): Clears a group-held accumulator tile to +0. -/
  | mzero (x : BitVec 2) (acc : BitVec 3)
  /-- MLOOP, opcode 0x245, format MX (R219): Queues a matrix job of K steps on an array. -/
  | mloop (x : BitVec 2) (acc : BitVec 3) (sa sb inc : BitVec 4) (ks1 ks2 : KCode) (pi : BitVec 5) (fs : FSel) (ra rb : Bool)
  /-- MREAD, opcode 0x246, format MX (R223): Reads a half-row of a tile into a vector register. -/
  | mread (x : BitVec 2) (acc : BitVec 3) (ks1 : KCode) (v : VCode) (fs : FSel)
  /-- MWRITE, opcode 0x247, format MX (R223): Writes a half-row of a tile from a vector register. -/
  | mwrite (x : BitVec 2) (acc : BitVec 3) (ks1 : KCode) (v : VCode)
  /-- MSTORE, opcode 0x248, format MX (R224): Accepts a copy of a tile box to a tensor. -/
  | mstore (x : BitVec 2) (acc : BitVec 3) (ks1 ks2 : KCode) (fs : FSel)
  /-- RINIT, opcode 0x280, format RY (R253): Validates a ray and writes its ray record. -/
  | rinit (d a : VCode) (p aux : MCode) (fs : FSel)
  /-- RBOX, opcode 0x281, format RY (R258): Tests a ray record against a node's four child boxes. -/
  | rbox (d a b : VCode) (p : MCode) (fs : FSel)
  /-- RTRI, opcode 0x282, format RY (R261): Tests a ray record against a triangle buffer entry. -/
  | rtri (d a b : VCode) (buf : BitVec 2) (p : MCode) (fs : FSel)
  /-- MDEC, opcode 0x288, format RY (R243): Requests decoding of a triangle range into a triangle buffer. -/
  | mdec (a b : VCode) (t : BitVec 6) (buf : BitVec 2) (p : MCode) (fs : FSel)
  /-- TBREAD, opcode 0x289, format RY (R243): Reads words of a triangle buffer into lanes. -/
  | tbread (d a : VCode) (buf : BitVec 2) (p : MCode) (fs : FSel)
  /-- MPATCH, opcode 0x28A, format RY (R245): Holds a stream, rewrites a vertex correction and invalidates later fords. -/
  | mpatch (d a b : VCode) (t : BitVec 6) (p : MCode) (fs : FSel)
  /-- MSTAT_BUF, opcode 0x28B, format RY (R244): Returns a triangle buffer's status word. -/
  | mstatBuf (d : VCode) (buf : BitVec 2) (p : MCode) (fs : FSel)
  /-- MSTAT_FORD, opcode 0x28B, format RY (R244): Reads a ford directory entry's generation and state. -/
  | mstatFord (d a : VCode) (t : BitVec 6) (p : MCode) (fs : FSel)
  /-- RASTER, opcode 0x290, format RY (R246): Starts the die rasteriser on a triangle range of a stream. -/
  | raster (d a : VCode) (t : BitVec 6) (p : MCode) (fs : FSel)
  /-- SEND, opcode 0x2C0, format CH (R144): Pushes a 32-lane entry toward a neighbour channel queue, consuming a credit. -/
  | send (ch : BitVec 6) (data : VCode) (p : MCode)
  /-- RECV, opcode 0x2C1, format CH (R144): Takes an entry from a receiving queue and returns a credit. -/
  | recv (ch : BitVec 6) (data : VCode) (p : MCode) (fs : FSel)
  /-- PEEK, opcode 0x2C2, format CH (R144): Reads the head entry of a receiving queue without taking it. -/
  | peek (ch : BitVec 6) (data : VCode) (p : MCode) (fs : FSel)
  /-- OOPEN, opcode 0x2D0, format PR (R149): Opens a procession domain and returns its handle. -/
  | oopen (seq : VCode) (dom : KCode) (dev tr : Bool)
  /-- OCLOSE, opcode 0x2D1, format PR (R157): Discards every entry of a domain and closes its index. -/
  | oclose (dom : KCode)
  /-- OENTER_ALL, opcode 0x2D2, format PR (R152): Requests admission of every entrant and parks until admitted or timed out. -/
  | oenterAll (key seq : VCode) (dom : KCode) (mr p : MCode) (fs : FSel)
  /-- OENTER_PART, opcode 0x2D2, format PR (R152): Requests admission, keeping only entrants admitted at once. -/
  | oenterPart (key seq : VCode) (dom : KCode) (mr p : MCode) (fs : FSel)
  /-- OWAIT, opcode 0x2D3, format PR (R152): Blocking admission that counts already-held keys as admitted. -/
  | owait (key seq : VCode) (dom : KCode) (mr p : MCode) (fs : FSel)
  /-- OWAIT_PART, opcode 0x2D3, format PR (R152): Non-blocking form of OWAIT. -/
  | owaitPart (key seq : VCode) (dom : KCode) (mr p : MCode) (fs : FSel)
  /-- OLEAVE, opcode 0x2D4, format PR (R153): Ends holdings, advancing next expected as a release. -/
  | oleave (key : VCode) (dom : KCode) (p : MCode)
  /-- OSKIP, opcode 0x2D5, format PR (R154): Waits for a sequence number and passes it without entering. -/
  | oskip (key seq : VCode) (dom : KCode) (p : MCode)
  /-- LAUNCH, opcode 0x300, format SY (R270): Checks a launch block and queues its grid on a tenant queue. -/
  | launch (ka : KCode) (q : BitVec 2)
  /-- GLAUNCH, opcode 0x301, format SY (R276): Checks a graph block, takes a graph slot and queues its entry grid. -/
  | glaunch (ka kb : KCode) (q : BitVec 2)
  /-- EMIT, opcode 0x302, format SY (R278): Allocates reservoir record slots for a graph node. -/
  | emit (vd : VCode) (kb : KCode) (p : MCode) (fs : FSel)
  /-- COMMIT, opcode 0x303, format SY (R279): Publishes records to their node's open batch as a release. -/
  | commit (vs : VCode) (p : MCode)
  /-- SIGNAL, opcode 0x304, format SY (R283): Releases, adds to a word at .sys and optionally sends an MSI-X vector. -/
  | signal (ka kb : KCode) (irq : Bool) (vec : BitVec 11)
  /-- WAITG, opcode 0x305, format SY (R277): Owes a graph's final status once the graph has ended. -/
  | waitg (ka kb : KCode) (fs : FSel)
  /-- REORDER, opcode 0x308, format SY (R135): Re-sorts threads by key across the team's groups on a core. -/
  | reorder (ka kb : KCode) (key : VCode) (p : MCode)
  /-- ROLE, opcode 0x309, format SY (R125): Drains the group and restarts it in another role with its budget. -/
  | role (n : BitVec 2)
  /-- TRAP, opcode 0x310, format SY (R295): Raises software trap 0x15 with an argument. -/
  | trap (n : BitVec 8)
  /-- CXSAVE, opcode 0x318, format SY (R309): Pre-empts a tenant and writes its context area. -/
  | cxsave (ka kb kc : KCode) (fs : FSel)
  /-- CXLOAD, opcode 0x319, format SY (R309): Restores a saved tenant context ahead of its queues. -/
  | cxload (ka kb kc : KCode) (fs : FSel)
  /-- CXKILL, opcode 0x31A, format SY (R309): Kills a group, team, grid or context of another tenant. -/
  | cxkill (ka kb : KCode) (fs : FSel)
  /-- CLAUSE_SELECTION (R285): The partition scheduler selects eligible clauses into free issue slots. -/
  | clauseSelection (core part : Nat)
  /-- RESULT_ARRIVAL (R24): A variable-latency result is written and its flag counter decremented. -/
  | resultArrival (id : Nat)
  /-- CHANNEL_ENTRY_ARRIVAL (R142): A sent entry arrives in its receiving queue after L clocks. -/
  | channelEntryArrival (n : Nat)
  /-- CHANNEL_CREDIT_RETURN (R142): A credit returned by RECV reaches the sender. -/
  | channelCreditReturn (n : Nat)
  /-- CHANNEL_STALL_BUDGET (R146): A parked channel instruction exceeds the stall budget and traps 0x0E. -/
  | channelStallBudget (gid : Nat)
  /-- PROCESSION_HOME_REQUEST (R152): An entrant's request reaches its key's home and is admitted or waits. -/
  | processionHomeRequest (n : Nat)
  /-- PROCESSION_LEAVE_ARRIVAL (R153): A leave reaches the home, advances next expected and admits the next entrant. -/
  | processionLeaveArrival (n : Nat)
  /-- PROCESSION_ADMISSION_RETURN (R152): An admission returns to the requesting group, writing mR and resuming it. -/
  | processionAdmissionReturn (n : Nat)
  /-- PROCESSION_STALL_BUDGET (R155): A blocking procession wait exceeds its budget and times out or traps. -/
  | processionStallBudget (gid : Nat)
  /-- MWAIT_WAKE (R177): A write that makes a watched word differ returns it to a waiting MWAIT. -/
  | mwaitWake (id : Nat)
  /-- ROLE_GRANT (R126): A parked budget request is granted when registers become free. -/
  | roleGrant (gid : Nat)
  /-- REORDER_MOVE (R136): Once every participant has arrived, threads move and groups resume. -/
  | reorderMove (tm core : Nat)
  /-- COPY_DELIVERY (R203): The copy engine delivers a copy's elements in linear order. -/
  | copyDelivery (id : Nat)
  /-- COPY_COMPLETION (R204): A copy completes and writes its status word. -/
  | copyCompletion (id : Nat)
  /-- MLOOP_K_STEP (R220): The sequencer runs one K step of a queued job. -/
  | mloopKStep (core x : Nat)
  /-- MSTORE_TILE_READ (R224): An accepted MSTORE finishes reading its tile, unparking REL and MWRITE. -/
  | mstoreTileRead (id : Nat)
  /-- DECODER_SERVE (R236): A decoder request is served by joining, resuming or starting a walk. -/
  | decoderServe (core n : Nat)
  /-- WALK_STEP (R234): A decoding automaton reads one symbol and emits a triangle. -/
  | walkStep (core wid : Nat)
  /-- STREAM_HOLD_GRANT (R238): An MPATCH hold is granted once the stream's walks finish, and the patch applies. -/
  | streamHoldGrant (n : Nat)
  /-- RASTER_TRIANGLE (R247): The rasteriser classifies a triangle and launches fragment groups or a small-path record. -/
  | rasterTriangle (id : Nat)
  /-- RASTER_COMPLETE (R246): A RASTER ends once all its triangles, fragment groups and records are done. -/
  | rasterComplete (id : Nat)
  /-- FAULT_REPLY (R303): The fault server's reply resumes or fails the parked accesses. -/
  | faultReply (tn n : Nat)
  /-- TEAM_START (R273): A placed team's groups begin issuing after 64 clocks. -/
  | teamStart (tm : Nat)
  /-- DEPENDENCE_WORD_CHECK (R271): A write to a dependence word is re-read to decide whether the head is ready. -/
  | dependenceWordCheck (tn q : Nat)
  /-- GRID_COMPLETION (R274): A grid ends and its completion word is incremented. -/
  | gridCompletion (gr : Nat)
  /-- ROOT_PROGRAM_LAUNCH (R267): The control cores launch a tenant's root program at start and after its grid ends. -/
  | rootProgramLaunch (tn : Nat)
  /-- BATCH_TIMEOUT (R280): A node's time-out expires and its open batch launches. -/
  | batchTimeout (tn gs node : Nat)
  /-- BATCH_IDLE_CLOSE (R280): A partly filled batch closes at once when the graph is idle. -/
  | batchIdleClose (tn gs node : Nat)
  /-- GRAPH_COMPLETION (R277): A graph ends; its completion word and final status are written. -/
  | graphCompletion (tn gs : Nat)
  /-- REMOTE_REQUEST_SERVE (R317): A request from another device is served in the tenant holding its partition. -/
  | remoteRequestServe (n : Nat)
  /-- PARKED_NOTICE (R320): A parked notice stops a remote request's timer. -/
  | parkedNotice (n : Nat)
  /-- REMOTE_RESPONSE (R320): A response to a remote request arrives. -/
  | remoteResponse (n : Nat)
  /-- REMOTE_TIMEOUT (R320): A remote request times out and takes its fatal path. -/
  | remoteTimeout (id : Nat)
  /-- XCHG_COUNT_RECEIVE (R327): A peer's COUNT message arrives. -/
  | xchgCountReceive (n : Nat)
  /-- XCHG_COUNT_RESEND (R327): A refused COUNT is sent again after 4,096 clocks. -/
  | xchgCountResend (n : Nat)
  /-- XCHG_READY_RECEIVE (R327): A peer's READY arrives and rows to it are sent. -/
  | xchgReadyReceive (n : Nat)
  /-- XCHG_ROW_RECEIVE (R327): A row from a peer is written to the receive tensor. -/
  | xchgRowReceive (n : Nat)
  /-- XCHG_ROW_ACK (R328): A row acknowledgement, or refusal, reaches the sender. -/
  | xchgRowAck (n : Nat)
  /-- XCHG_DONE_RECEIVE (R328): A peer's DONE arrives and its completion word is written. -/
  | xchgDoneReceive (n : Nat)
  /-- XCHG_FAILURE_RECEIVE (R328): A failure flit marks a peer failed. -/
  | xchgFailureReceive (n : Nat)
  /-- ACCESS_PERFORMED (R172): A bank serves a queued request, so a posted store, RED, or a load's read is performed at its execution point. -/
  | accessPerformed (id : Nat)
  /-- STARVATION_PROMOTION (R286): A candidate passed over in 256 selections is promoted. -/
  | starvationPromotion (gid slot : Nat)
  /-- CONGESTION_LEVEL_UPDATE (R287): A cluster router recomputes its congestion level every 64 clocks. -/
  | congestionLevelUpdate (cluster level : Nat)
  /-- TRANSLATION_FLUSH (R303): Tenant management drops cached translations of a page. -/
  | translationFlush (tn va : Nat)
  /-- UNCORRECTABLE_ERROR (R305): An uncorrectable ECC error is reported and the tenant machine-checked. -/
  | uncorrectableError (e : ErrorSite)
  /-- HEAD_RESERVING (R272): A head passed over for 4,096 steps becomes reserving. -/
  | headReserving (tn q : Nat)
  /-- HOST_INBOX_WRITE (R267): The host writes a tenant's inbox over its VF. -/
  | hostInboxWrite (tn off : Nat) (bytes : Bytes)
  /-- HOST_BAR2_ACCESS (R349): A host access through BAR2 is translated and performed at .sys. -/
  | hostBar2Access (tn off : Nat) (acc : HostAccess)
  /-- FLIT_RECEIVE (R319): A link receives a flit, accepting, forwarding or negatively acknowledging it. -/
  | flitReceive (link : Nat) (f : Flit)
  /-- NEGATIVE_ACKNOWLEDGEMENT (R319): A sender receives a negative acknowledgement and replays. -/
  | negativeAcknowledgement (link expected : Nat)
  /-- LINK_DOWN (R319): A link fails after 64 replays or 2^20 clocks without an intact flit. -/
  | linkDown (link : Nat)
  /-- REPLAY_DIVERGENCE (R312): A forced replay wait exceeds 2^20 clocks and stops the context. -/
  | replayDivergence (tn : Nat)
  /-- BOOT_ROM_START (R343): The control cores leave reset and boot from the network. -/
  | bootRomStart (file : BootFile)
  /-- TENANT_CONFIG_WRITE (R350): The supervisor writes tenant configuration through the PF mailbox. -/
  | tenantConfigWrite (tn : Nat) (c : ConfigWrite)
  /-- TENANT_START (R350): A tenant starts: its configuration is measured and its root program launched. -/
  | tenantStart (tn : Nat)
  /-- ATTESTATION_REQUEST (R348): A signed attestation report is produced for a requester. -/
  | attestationRequest (r : AttestRequest)
  /-- MONITOR_CLEAR (R352): Writing a monitor's clear register snapshots and resets it. -/
  | monitorClear (tn : Nat) (mon : MonitorName)
  /-- POWER_SAMPLE (R353): Every 1 ms the control cores read power and temperature and adjust the core clock. -/
  | powerSample (r : PowerReading)
  /-- THERMAL_SHUTDOWN (R353): A die at 110 °C machine-checks every context and holds the dies in reset. -/
  | thermalShutdown (die : Nat)
  /-- CORRECTED_ERROR (R305): A correctable ECC error is corrected and counted in the health monitors. -/
  | correctedError (tn : Nat)
  /-- RET, opcode 0x162, format BR (R17): Pops a link, restores the window and returns. -/
  | ret
  /-- EXIT, opcode 0x165, format BR (R100): Ends the issuing path, and the group when no path remains. -/
  | exit
  /-- NOP, opcode 0x000, format VR (R34): Does nothing in any clause class. -/
  | nop
  /-- RETT, opcode 0x311, format SY (R295): Leaves handler mode and resumes the trapping path from the trap bank. -/
  | rett
  /-- PLACEMENT_STEP (R272): The launch engines place one team from the ready queue heads every 8 clocks. -/
  | placementStep
  /-- UCIE_LINK_FAILURE (R315): An unrecoverable die link machine-checks every context. -/
  | ucieLinkFailure
  /-- BOOT_RETRY (R343): After a failed step the ROM retries on the other port after 1 second. -/
  | bootRetry
  /-- QUEUE_SAMPLE (R351): Launch-queue occupancy is sampled every 1,024 clocks. -/
  | queueSample
  deriving DecidableEq, Repr

end Sys2Proof
end

