-- ==== Sys2Proof/WellFormed.lean ====
section
/-! DEFINITION. Which instructions are well formed: the type and width tables of R75, R102, R117, R166, R168 and the
field conditions of step 3 of R34. -/

namespace Sys2Proof

/-- s8 to s64 and n8 to n64 (R75, arithmetic). -/
def Ty.isArith : Ty → Bool
  | .s8 | .s16 | .s32 | .s64 | .n8 | .n16 | .n32 | .n64 => true
  | _ => false

/-- The s-types (R75, IABS). -/
def Ty.isSigned : Ty → Bool
  | .s8 | .s16 | .s32 | .s64 => true
  | _ => false

/-- The 32- and 64-bit types of the logic, shift and move instructions (R75). -/
def Ty.isWide : Ty → Bool
  | .s32 | .n32 | .b32 | .s64 | .n64 | .b64 => true
  | _ => false

/-- The types of IADDC and ISUBB (R75). -/
def Ty.isCarry : Ty → Bool
  | .s32 | .s64 | .n32 | .n64 => true
  | _ => false

/-- The types of PLSET (R75). -/
def Ty.isBits : Ty → Bool
  | .b32 | .b64 => true
  | _ => false

/-- The float types of FCVT (R115). -/
def Ty.isFloat : Ty → Bool
  | .f32 | .f16 | .bf16 | .e4m3 | .lns6 => true
  | _ => false

/-- The float types of ICVT (R117). -/
def Ty.isPlainFloat : Ty → Bool
  | .f32 | .f16 | .bf16 => true
  | _ => false

/-- The conditions 16 to 18 of R46, which test a mask. -/
def BCond.testsMask : BCond → Bool
  | .mz | .mnz | .mall => true
  | _ => false

/-- The widths of each atomic operation (R168). -/
def AtomOp.widthOk (op : AtomOp) (w : Width) : Bool :=
  match op with
  | .fadd | .bfadd | .fmin | .fmax => w == .w32
  | .ffcs => w == .w64
  | _ => w == .w32 || w == .w64

/-- The operations RED has (R169). -/
def AtomOp.isRed : AtomOp → Bool
  | .exch | .cas | .ffcs | .plset => false
  | _ => true

/-- The conditions of step 3 of R34 on an instruction's fields that its constructor does not already carry. That the SALU MOVI takes
the types of MOV is the model's choice (log entry 67). -/
def Instr.wf : Instr → Bool
  | .iaddVr _ _ _ _ t _ => t.isArith
  | .isubVr _ _ _ _ t _ => t.isArith
  | .imulVr _ _ _ _ t => t.isArith
  | .imulhVr _ _ _ _ t => t.isArith
  | .imadVr _ _ _ _ _ t _ => t.isArith
  | .iminVr _ _ _ _ t => t.isArith
  | .imaxVr _ _ _ _ t => t.isArith
  | .iabsVr _ _ _ t => t.isSigned
  | .inegVr _ _ _ t => t.isArith
  | .iaddcVr _ _ _ _ _ t => t.isCarry
  | .isubbVr _ _ _ _ _ t => t.isCarry
  | .andVr _ _ _ _ t => t.isWide
  | .orVr _ _ _ _ t => t.isWide
  | .xorVr _ _ _ _ t => t.isWide
  | .andnVr _ _ _ _ t => t.isWide
  | .btabVr _ _ _ _ _ _ t => t.isWide
  | .shlVr _ _ _ _ t => t.isWide
  | .shrVr _ _ _ _ t => t.isWide
  | .sarVr _ _ _ _ t => t.isWide
  | .rolVr _ _ _ _ t => t.isWide
  | .popcVr _ _ _ t => t.isWide
  | .clzVr _ _ _ t => t.isWide
  | .ctzVr _ _ _ t => t.isWide
  | .brevVr _ _ _ t => t.isWide
  | .bfxVr _ _ _ _ _ t => t.isWide
  | .binsVr _ _ _ _ _ t => t.isWide
  | .ffcsVr _ _ _ => true
  | .plsetVr _ _ _ _ _ t => t.isBits
  | .leaVr _ _ _ _ _ t => t.isArith
  | .icmpVr _ _ _ _ _ t => t.isArith
  | .selVr _ _ _ _ _ t => t.isWide
  | .movVr _ _ _ t => t.isWide
  | .lshuf _ _ _ _ _ t => t.isWide
  | .bcast _ _ _ _ t => t.isWide
  | .elect _ _ => true
  | .retire _ => true
  | .movsVr _ sr _ t => (t == .b32 && sr != 10#9) || (t == .b64 && sr == 10#9)
  | .moviVi _ _ _ => true
  | .iaddVi _ _ _ _ => true
  | .imulVi _ _ _ _ => true
  | .andVi _ _ _ _ => true
  | .orVi _ _ _ _ => true
  | .xorVi _ _ _ _ => true
  | .shlVi _ _ _ _ => true
  | .shrVi _ _ _ _ => true
  | .sarVi _ _ _ _ => true
  | .icmpVi _ _ _ _ _ => true
  | .fadd _ _ _ _ _ _ _ _ _ => true
  | .fsub _ _ _ _ _ _ _ _ _ => true
  | .fmul _ _ _ _ _ _ _ _ _ => true
  | .ffma _ _ _ _ _ _ _ _ _ _ _ => true
  | .fmin _ _ _ _ _ _ _ _ _ => true
  | .fmax _ _ _ _ _ _ _ _ _ => true
  | .fcmp _ _ _ _ _ _ _ _ _ => true
  | .fclass _ _ _ t => t == .f32 || t == .f16 || t == .bf16
  | .fscale _ _ _ _ _ _ _ => true
  | .frint _ _ _ _ _ _ => true
  | .frcp _ _ _ _ _ _ => true
  | .fsqrt _ _ _ _ _ _ => true
  | .frsq _ _ _ _ _ _ => true
  | .fexp2 _ _ _ _ _ _ => true
  | .flog2 _ _ _ _ _ _ => true
  | .pkfma _ _ _ _ _ t _ _ _ _ _ _ => t == .f16 || t == .bf16
  | .fdot2 _ _ _ _ _ t _ _ _ _ _ _ => t == .f16 || t == .bf16
  | .fcvt _ _ b _ t src rnd => t.isFloat && src.isFloat && t != src && (t != .lns6 || rnd == .rne) && (t == .e4m3 || src == .e4m3 || b == 0#9)
  | .icvt _ _ _ t src _ => (t.isArith && src.isPlainFloat) || (t.isPlainFloat && src.isArith)
  | .lmul _ _ _ _ => true
  | .lsum _ _ _ _ _ => true
  | .iaddSr _ _ _ t _ _ => t.isArith
  | .isubSr _ _ _ t _ _ => t.isArith
  | .imulSr _ _ _ t _ => t.isArith
  | .imulhSr _ _ _ t _ => t.isArith
  | .imadSr _ _ _ _ t _ _ => t.isArith
  | .iminSr _ _ _ t _ => t.isArith
  | .imaxSr _ _ _ t _ => t.isArith
  | .iabsSr _ _ t _ => t.isSigned
  | .inegSr _ _ t _ => t.isArith
  | .iaddcSr _ _ _ t _ => t.isCarry
  | .isubbSr _ _ _ t _ => t.isCarry
  | .andSr _ _ _ t _ => t.isWide
  | .orSr _ _ _ t _ => t.isWide
  | .xorSr _ _ _ t _ => t.isWide
  | .andnSr _ _ _ t _ => t.isWide
  | .btabSr _ _ _ _ _ t _ => t.isWide
  | .shlSr _ _ _ t _ => t.isWide
  | .shrSr _ _ _ t _ => t.isWide
  | .sarSr _ _ _ t _ => t.isWide
  | .rolSr _ _ _ t _ => t.isWide
  | .popcSr _ _ t _ => t.isWide
  | .clzSr _ _ t _ => t.isWide
  | .ctzSr _ _ t _ => t.isWide
  | .brevSr _ _ t _ => t.isWide
  | .bfxSr _ _ _ _ t _ => t.isWide
  | .binsSr _ _ _ _ t _ => t.isWide
  | .ffcsSr _ _ _ => true
  | .plsetSr _ _ _ _ t _ => t.isBits
  | .leaSr _ _ _ _ t _ => t.isArith
  | .icmpSr _ _ _ _ t _ => t.isArith
  | .selSr _ _ _ _ t _ => t.isWide
  | .movSr _ _ t _ => t.isWide
  | .mand _ _ _ _ => true
  | .mor _ _ _ _ => true
  | .mxor _ _ _ _ => true
  | .mandn _ _ _ _ => true
  | .mnot _ _ _ => true
  | .mmov _ _ _ => true
  | .mpopc _ _ _ => true
  | .mfirst _ _ _ => true
  | .movsSr _ _ => true
  | .movsFflagsWrite _ => true
  | .clock _ => true
  | .jmp _ => true
  | .moviSi _ t _ _ => t.isWide
  | .iaddSi _ _ t _ _ => t.isArith
  | .isubSi _ _ t _ _ => t.isArith
  | .imulSi _ _ t _ _ => t.isArith
  | .andSi _ _ t _ _ => t.isWide
  | .orSi _ _ t _ _ => t.isWide
  | .xorSi _ _ t _ _ => t.isWide
  | .shlSi _ _ t _ _ => t.isWide
  | .shrSi _ _ t _ _ => t.isWide
  | .sarSi _ _ t _ _ => t.isWide
  | .iminSi _ _ t _ _ => t.isArith
  | .imaxSi _ _ t _ _ => t.isArith
  | .icmpSi _ _ _ t _ _ => t.isArith
  | .frame e => decide (e.toNat ≤ 320)
  | .rhead s1 n1 s2 n2 => decide (n1.toNat + n2.toNat ≤ 32) && (n1 != 0#6 || s1 == 0#9) && (n2 != 0#6 || s2 == 0#9)
  | .bra cond mk _ => cond.testsMask || mk == 0#4
  | .call sh _ => decide (sh.toNat ≤ 320)
  | .ret => true
  | .fork _ _ _ => true
  | .join _ _ => true
  | .exit => true
  | .nop => true
  | .ldl _ _ _ _ _ _ _ => true
  | .stl _ _ _ _ wd _ => wd != .s8 && wd != .s16
  | .ldt _ _ _ _ _ _ _ => true
  | .stt _ _ _ _ wd _ => wd != .s8 && wd != .s16
  | .ldd _ _ _ _ _ _ _ => true
  | .std _ _ _ _ wd _ => wd != .s8 && wd != .s16
  | .atomT op _ _ _ _ wd _ _ => op.widthOk wd && (true)
  | .redT op _ _ _ _ wd _ => op.widthOk wd && op.isRed && (true)
  | .atomD op _ _ _ _ wd sc _ _ => op.widthOk wd && (sc != .team)
  | .redD op _ _ _ _ wd sc _ => op.widthOk wd && op.isRed && (sc != .team)
  | .atomM op _ _ _ _ wd sc _ _ => op.widthOk wd && (sc == .dev || sc == .sys)
  | .redM op _ _ _ _ wd sc _ => op.widthOk wd && op.isRed && (sc == .dev || sc == .sys)
  | .barinit _ _ _ => true
  | .barexp _ _ _ => true
  | .bararr _ _ => true
  | .barwait _ _ => true
  | .baraw _ _ => true
  | .mwait _ _ _ wd fs _ => (wd == .w32 || wd == .w64) && fs != .none
  | .fence _ => true
  | .fenceAcq _ => true
  | .fenceRel _ => true
  | .tidset _ _ _ => true
  | .tidinv _ => true
  | .copy _ _ _ _ => true
  | .copyg _ _ _ _ _ _ => true
  | .copys _ _ _ _ _ _ => true
  | .cbatch _ => true
  | .waitb _ => true
  | .route _ _ _ _ => true
  | .xchg _ _ _ _ => true
  | .sclaim _ _ _ => true
  | .srel _ _ _ => true
  | .acq _ _ => true
  | .rel _ _ => true
  | .relFree _ _ => true
  | .mzero _ _ => true
  | .mloop _ _ _ _ _ _ _ pi _ _ _ => pi != 0#5
  | .mread _ _ _ _ fs => fs != .none
  | .mwrite _ _ _ _ => true
  | .mstore _ _ _ _ _ => true
  | .rinit _ _ _ _ fs => fs != .none
  | .rbox _ _ _ _ fs => fs != .none
  | .rtri _ _ _ _ _ fs => fs != .none
  | .mdec _ _ _ _ _ fs => fs != .none
  | .tbread _ _ _ _ fs => fs != .none
  | .mpatch _ _ _ _ _ fs => fs != .none
  | .mstatBuf _ _ _ fs => fs != .none
  | .mstatFord _ _ _ _ fs => fs != .none
  | .raster _ _ _ _ fs => fs != .none
  | .send ch _ _ => decide (ch.toNat < 56)
  | .recv ch _ _ _ => decide (ch.toNat < 56)
  | .peek ch _ _ _ => decide (ch.toNat < 56)
  | .oopen _ _ _ _ => true
  | .oclose _ => true
  | .oenterAll _ _ _ _ _ _ => true
  | .oenterPart _ _ _ _ _ _ => true
  | .owait _ _ _ _ _ _ => true
  | .owaitPart _ _ _ _ _ _ => true
  | .oleave _ _ _ => true
  | .oskip _ _ _ _ => true
  | .launch _ _ => true
  | .glaunch _ _ _ => true
  | .emit _ _ _ fs => fs != .none
  | .commit _ _ => true
  | .signal _ _ irq vec => irq || vec == 0#11
  | .waitg _ _ fs => fs != .none
  | .reorder _ _ _ _ => true
  | .role _ => true
  | .trap _ => true
  | .rett => true
  | .cxsave _ _ _ fs => fs != .none
  | .cxload _ _ _ fs => fs != .none
  | .cxkill _ _ fs => fs != .none
  | .clauseSelection _ _ => true
  | .starvationPromotion _ _ => true
  | .congestionLevelUpdate _ _ => true
  | .resultArrival _ => true
  | .channelEntryArrival _ => true
  | .channelCreditReturn _ => true
  | .channelStallBudget _ => true
  | .processionHomeRequest _ => true
  | .processionLeaveArrival _ => true
  | .processionAdmissionReturn _ => true
  | .processionStallBudget _ => true
  | .mwaitWake _ => true
  | .roleGrant _ => true
  | .reorderMove _ _ => true
  | .copyDelivery _ => true
  | .copyCompletion _ => true
  | .mloopKStep _ _ => true
  | .mstoreTileRead _ => true
  | .decoderServe _ _ => true
  | .walkStep _ _ => true
  | .streamHoldGrant _ => true
  | .rasterTriangle _ => true
  | .rasterComplete _ => true
  | .faultReply _ _ => true
  | .translationFlush _ _ => true
  | .uncorrectableError _ => true
  | .placementStep => true
  | .headReserving _ _ => true
  | .teamStart _ => true
  | .dependenceWordCheck _ _ => true
  | .gridCompletion _ => true
  | .rootProgramLaunch _ => true
  | .batchTimeout _ _ _ => true
  | .batchIdleClose _ _ _ => true
  | .graphCompletion _ _ => true
  | .hostInboxWrite _ _ _ => true
  | .hostBar2Access _ _ _ => true
  | .remoteRequestServe _ => true
  | .flitReceive _ _ => true
  | .negativeAcknowledgement _ _ => true
  | .linkDown _ => true
  | .parkedNotice _ => true
  | .remoteResponse _ => true
  | .remoteTimeout _ => true
  | .ucieLinkFailure => true
  | .xchgCountReceive _ => true
  | .xchgCountResend _ => true
  | .xchgReadyReceive _ => true
  | .xchgRowReceive _ => true
  | .xchgRowAck _ => true
  | .xchgDoneReceive _ => true
  | .xchgFailureReceive _ => true
  | .replayDivergence _ => true
  | .bootRomStart _ => true
  | .bootRetry => true
  | .tenantConfigWrite _ _ => true
  | .tenantStart _ => true
  | .attestationRequest _ => true
  | .monitorClear _ _ => true
  | .queueSample => true
  | .powerSample _ => true
  | .thermalShutdown _ => true
  | .accessPerformed _ => true
  | .correctedError _ => true

end Sys2Proof
end

