-- ==== Sys2Proof/Decode.lean ====
section
/-! DEFINITION. The decoder, total on any 64-bit word and rejecting by name, and the encoder, both from the field maps
of R38 to R55. -/

namespace Sys2Proof

/-- The field of width n at bit lo of a word (R3). -/
def f (lo n : Nat) (w : BitVec 64) : BitVec n := w.extractLsb' lo n

/-- A one-bit field. -/
def bit (b : Bool) : BitVec 1 := BitVec.ofBool b

def Ty.bits : Ty → BitVec 4
  | .s8 => 0 | .s16 => 1 | .s32 => 2 | .s64 => 3 | .n8 => 4 | .n16 => 5 | .n32 => 6 | .n64 => 7
  | .f32 => 8 | .f16 => 9 | .bf16 => 10 | .e4m3 => 11 | .lns6 => 12 | .b32 => 13 | .b64 => 14

/-- R38; code 15 is illegal. -/
def Ty.ofBits (b : BitVec 4) : Option Ty :=
  match b.toNat with
  | 0 => some .s8 | 1 => some .s16 | 2 => some .s32 | 3 => some .s64
  | 4 => some .n8 | 5 => some .n16 | 6 => some .n32 | 7 => some .n64
  | 8 => some .f32 | 9 => some .f16 | 10 => some .bf16 | 11 => some .e4m3
  | 12 => some .lns6 | 13 => some .b32 | 14 => some .b64 | _ => none

def Rnd.bits : Rnd → BitVec 2
  | .rne => 0 | .rtz => 1 | .rup => 2 | .rdn => 3

/-- R40. -/
def Rnd.ofBits (b : BitVec 2) : Rnd :=
  match b.toNat with
  | 0 => .rne | 1 => .rtz | 2 => .rup | _ => .rdn

def ICond.bits : ICond → BitVec 4
  | .eq => 0 | .ne => 1 | .lts => 2 | .les => 3 | .gts => 4 | .ges => 5 | .ltu => 6 | .leu => 7 | .gtu => 8 | .geu => 9

/-- R39, the integer column. -/
def ICond.ofBits (b : BitVec 4) : Option ICond :=
  match b.toNat with
  | 0 => some .eq | 1 => some .ne | 2 => some .lts | 3 => some .les | 4 => some .gts | 5 => some .ges
  | 6 => some .ltu | 7 => some .leu | 8 => some .gtu | 9 => some .geu | _ => none

def FCond.bits : FCond → BitVec 4
  | .eq => 0 | .ne => 1 | .lt => 2 | .le => 3 | .gt => 4 | .ge => 5 | .ltu => 6 | .leu => 7 | .gtu => 8 | .geu => 9
  | .ord => 10 | .uno => 11

/-- R39, the float column. -/
def FCond.ofBits (b : BitVec 4) : Option FCond :=
  match b.toNat with
  | 0 => some .eq | 1 => some .ne | 2 => some .lt | 3 => some .le | 4 => some .gt | 5 => some .ge
  | 6 => some .ltu | 7 => some .leu | 8 => some .gtu | 9 => some .geu | 10 => some .ord | 11 => some .uno | _ => none

def BCond.bits : BCond → BitVec 5
  | .eq => 0 | .ne => 1 | .lt => 2 | .ge => 3 | .ltu => 4 | .geu => 5 | .gt => 6 | .le => 7 | .gtu => 8 | .leu => 9
  | .vs => 10 | .vc => 11 | .al => 12 | .mz => 16 | .mnz => 17 | .mall => 18

/-- R46. -/
def BCond.ofBits (b : BitVec 5) : Option BCond :=
  match b.toNat with
  | 0 => some .eq | 1 => some .ne | 2 => some .lt | 3 => some .ge | 4 => some .ltu | 5 => some .geu | 6 => some .gt
  | 7 => some .le | 8 => some .gtu | 9 => some .leu | 10 => some .vs | 11 => some .vc | 12 => some .al
  | 16 => some .mz | 17 => some .mnz | 18 => some .mall | _ => none

def LaneMode.bits : LaneMode → BitVec 2
  | .idx => 0 | .up => 1 | .down => 2 | .xor => 3

/-- R93. -/
def LaneMode.ofBits (b : BitVec 2) : LaneMode :=
  match b.toNat with
  | 0 => .idx | 1 => .up | 2 => .down | _ => .xor

def FSel.bits : FSel → BitVec 2
  | .none => 0 | .a => 1 | .b => 2

/-- R41; 3 is illegal. -/
def FSel.ofBits (b : BitVec 2) : Option FSel :=
  match b.toNat with
  | 0 => some .none | 1 => some .a | 2 => some .b | _ => none

def Width.bits : Width → BitVec 3
  | .n8 => 0 | .s8 => 1 | .n16 => 2 | .s16 => 3 | .w32 => 4 | .w64 => 5 | .w128 => 6

/-- R47; 7 is illegal. -/
def Width.ofBits (b : BitVec 3) : Option Width :=
  match b.toNat with
  | 0 => some .n8 | 1 => some .s8 | 2 => some .n16 | 3 => some .s16 | 4 => some .w32 | 5 => some .w64
  | 6 => some .w128 | _ => none

def Scope.bits : Scope → BitVec 2
  | .team => 0 | .clus => 1 | .dev => 2 | .sys => 3

/-- R47. -/
def Scope.ofBits (b : BitVec 2) : Scope :=
  match b.toNat with
  | 0 => .team | 1 => .clus | 2 => .dev | _ => .sys

def AtomOp.bits : AtomOp → BitVec 5
  | .add => 1 | .sub => 2 | .smin => 3 | .min => 4 | .smax => 5 | .max => 6 | .and => 7 | .or => 8 | .xor => 9
  | .exch => 10 | .cas => 11 | .inc => 12 | .dec => 13 | .fadd => 14 | .bfadd => 15 | .fmin => 16 | .fmax => 17
  | .ffcs => 18 | .plset => 19 | .bins => 20

/-- R48; code 0 is no operation and 21 to 31 are illegal. -/
def AtomOp.ofBits (b : BitVec 5) : Option AtomOp :=
  match b.toNat with
  | 1 => some .add | 2 => some .sub | 3 => some .smin | 4 => some .min | 5 => some .smax | 6 => some .max
  | 7 => some .and | 8 => some .or | 9 => some .xor | 10 => some .exch | 11 => some .cas | 12 => some .inc
  | 13 => some .dec | 14 => some .fadd | 15 => some .bfadd | 16 => some .fmin | 17 => some .fmax | 18 => some .ffcs
  | 19 => some .plset | 20 => some .bins | _ => none

/-- The modifier byte with the saturate bit alone (R40). -/
def satBits (sat : Bool) : BitVec 8 := bit sat ++ 0#7

/-- The modifier byte of the float families (R40). -/
def floatMods (rnd : Rnd) (na nb nc aa ab : Bool) : BitVec 8 :=
  rnd.bits ++ bit na ++ bit nb ++ bit nc ++ bit aa ++ bit ab ++ 0#1

/-- The word of format VR (R42), most significant field first; a reserved field is 0. -/
def vrWord (opc : BitVec 10) (d a b c : BitVec 9) (p t : BitVec 4) (fs : BitVec 2) (mods : BitVec 8) : BitVec 64 :=
  opc ++ d ++ a ++ b ++ c ++ p ++ t ++ fs ++ mods

/-- The word of format VI (R43), most significant field first; a reserved field is 0. -/
def viWord (opc : BitVec 10) (d a : BitVec 9) (p : BitVec 4) (imm : BitVec 32) : BitVec 64 :=
  opc ++ d ++ a ++ p ++ imm

/-- The word of format SR (R44), most significant field first; a reserved field is 0. -/
def srWord (opc : BitVec 10) (d a b c : BitVec 8) (t : BitVec 4) (cc : Bool) (mods : BitVec 8) : BitVec 64 :=
  opc ++ d ++ a ++ b ++ c ++ t ++ bit cc ++ 0#1 ++ mods ++ 0#8

/-- The word of format SI (R44), most significant field first; a reserved field is 0. -/
def siWord (opc : BitVec 10) (d a : BitVec 8) (t : BitVec 4) (cc : Bool) (imm : BitVec 32) : BitVec 64 :=
  opc ++ d ++ a ++ t ++ bit cc ++ 0#1 ++ imm

/-- The word of format BR (R45), most significant field first; a reserved field is 0. -/
def brWord (opc : BitVec 10) (cond : BitVec 5) (mask : BitVec 4) (aux : BitVec 9) (off : BitVec 32) : BitVec 64 :=
  opc ++ cond ++ mask ++ aux ++ 0#4 ++ off

/-- The word of format MEM (R47), most significant field first; a reserved field is 0. -/
def memWord (opc : BitVec 10) (data addr : BitVec 9) (base : BitVec 8) (mask : BitVec 4) (wd : BitVec 3) (scope : BitVec 2) (op : BitVec 5) (fs : BitVec 2) (off : BitVec 12) : BitVec 64 :=
  opc ++ data ++ addr ++ base ++ mask ++ wd ++ scope ++ op ++ fs ++ off

/-- The word of format CH (R49), most significant field first; a reserved field is 0. -/
def chWord (opc : BitVec 10) (ch : BitVec 6) (data : BitVec 9) (mask : BitVec 4) (fs : BitVec 2) : BitVec 64 :=
  opc ++ ch ++ data ++ mask ++ fs ++ 0#33

/-- The word of format PR (R50), most significant field first; a reserved field is 0. -/
def prWord (opc : BitVec 10) (key seq : BitVec 9) (dom : BitVec 8) (mask mr : BitVec 4) (fs : BitVec 2) (opts : BitVec 4) : BitVec 64 :=
  opc ++ key ++ seq ++ dom ++ mask ++ mr ++ fs ++ opts ++ 0#14

/-- The word of format AS (R51), most significant field first; a reserved field is 0. -/
def asWord (opc : BitVec 10) (ka kb : BitVec 8) (v : BitVec 9) (mask : BitVec 4) (fs : BitVec 2) (t : BitVec 6) (opts : BitVec 5) (off : BitVec 12) : BitVec 64 :=
  opc ++ ka ++ kb ++ v ++ mask ++ fs ++ t ++ opts ++ off

/-- The word of format MX (R52), most significant field first; a reserved field is 0. -/
def mxWord (opc : BitVec 10) (x : BitVec 2) (acc : BitVec 3) (sa sb inc : BitVec 4) (ks1 ks2 : BitVec 8) (pi : BitVec 5) (fs : BitVec 2) (ra rb : Bool) (v : BitVec 9) : BitVec 64 :=
  opc ++ x ++ acc ++ sa ++ sb ++ inc ++ ks1 ++ ks2 ++ pi ++ fs ++ bit ra ++ bit rb ++ v ++ 0#3

/-- The word of format RY (R53), most significant field first; a reserved field is 0. -/
def ryWord (opc : BitVec 10) (d a b : BitVec 9) (mask aux : BitVec 4) (fs : BitVec 2) (t : BitVec 6) (buf : BitVec 2) (opts : BitVec 9) : BitVec 64 :=
  opc ++ d ++ a ++ b ++ mask ++ aux ++ fs ++ t ++ buf ++ opts

/-- The word of format SY (R54), most significant field first; a reserved field is 0. -/
def syWord (opc : BitVec 10) (ka kb kc : BitVec 8) (fs : BitVec 2) (mask : BitVec 4) (code : BitVec 8) (imm : BitVec 16) : BitVec 64 :=
  opc ++ ka ++ kb ++ kc ++ fs ++ mask ++ code ++ imm

/-- The VALU range of the opcode map (R55): the fields of each opcode, read out once. -/
def decodeValu (op : Nat) (w : BitVec 64) : Option Instr :=
  match op with
  | 0x001 => (Ty.ofBits (f 10 4 w)).bind fun t => some (.iaddVr (f 45 9 w) (f 36 9 w) (f 27 9 w) (f 14 4 w) t (w.getLsbD 7))
  | 0x002 => (Ty.ofBits (f 10 4 w)).bind fun t => some (.isubVr (f 45 9 w) (f 36 9 w) (f 27 9 w) (f 14 4 w) t (w.getLsbD 7))
  | 0x003 => (Ty.ofBits (f 10 4 w)).bind fun t => some (.imulVr (f 45 9 w) (f 36 9 w) (f 27 9 w) (f 14 4 w) t)
  | 0x004 => (Ty.ofBits (f 10 4 w)).bind fun t => some (.imulhVr (f 45 9 w) (f 36 9 w) (f 27 9 w) (f 14 4 w) t)
  | 0x005 => (Ty.ofBits (f 10 4 w)).bind fun t => some (.imadVr (f 45 9 w) (f 36 9 w) (f 27 9 w) (f 18 9 w) (f 14 4 w) t (w.getLsbD 7))
  | 0x006 => (Ty.ofBits (f 10 4 w)).bind fun t => some (.iminVr (f 45 9 w) (f 36 9 w) (f 27 9 w) (f 14 4 w) t)
  | 0x007 => (Ty.ofBits (f 10 4 w)).bind fun t => some (.imaxVr (f 45 9 w) (f 36 9 w) (f 27 9 w) (f 14 4 w) t)
  | 0x008 => (Ty.ofBits (f 10 4 w)).bind fun t => some (.iabsVr (f 45 9 w) (f 36 9 w) (f 14 4 w) t)
  | 0x009 => (Ty.ofBits (f 10 4 w)).bind fun t => some (.inegVr (f 45 9 w) (f 36 9 w) (f 14 4 w) t)
  | 0x00A => (Ty.ofBits (f 10 4 w)).bind fun t => some (.iaddcVr (f 45 9 w) (f 36 9 w) (f 27 9 w) (f 0 4 w) (f 14 4 w) t)
  | 0x00B => (Ty.ofBits (f 10 4 w)).bind fun t => some (.isubbVr (f 45 9 w) (f 36 9 w) (f 27 9 w) (f 0 4 w) (f 14 4 w) t)
  | 0x00C => (Ty.ofBits (f 10 4 w)).bind fun t => some (.andVr (f 45 9 w) (f 36 9 w) (f 27 9 w) (f 14 4 w) t)
  | 0x00D => (Ty.ofBits (f 10 4 w)).bind fun t => some (.orVr (f 45 9 w) (f 36 9 w) (f 27 9 w) (f 14 4 w) t)
  | 0x00E => (Ty.ofBits (f 10 4 w)).bind fun t => some (.xorVr (f 45 9 w) (f 36 9 w) (f 27 9 w) (f 14 4 w) t)
  | 0x00F => (Ty.ofBits (f 10 4 w)).bind fun t => some (.andnVr (f 45 9 w) (f 36 9 w) (f 27 9 w) (f 14 4 w) t)
  | 0x010 => (Ty.ofBits (f 10 4 w)).bind fun t => some (.btabVr (f 45 9 w) (f 36 9 w) (f 27 9 w) (f 18 9 w) (f 0 8 w) (f 14 4 w) t)
  | 0x011 => (Ty.ofBits (f 10 4 w)).bind fun t => some (.shlVr (f 45 9 w) (f 36 9 w) (f 27 9 w) (f 14 4 w) t)
  | 0x012 => (Ty.ofBits (f 10 4 w)).bind fun t => some (.shrVr (f 45 9 w) (f 36 9 w) (f 27 9 w) (f 14 4 w) t)
  | 0x013 => (Ty.ofBits (f 10 4 w)).bind fun t => some (.sarVr (f 45 9 w) (f 36 9 w) (f 27 9 w) (f 14 4 w) t)
  | 0x014 => (Ty.ofBits (f 10 4 w)).bind fun t => some (.rolVr (f 45 9 w) (f 36 9 w) (f 27 9 w) (f 14 4 w) t)
  | 0x015 => (Ty.ofBits (f 10 4 w)).bind fun t => some (.popcVr (f 45 9 w) (f 36 9 w) (f 14 4 w) t)
  | 0x016 => (Ty.ofBits (f 10 4 w)).bind fun t => some (.clzVr (f 45 9 w) (f 36 9 w) (f 14 4 w) t)
  | 0x017 => (Ty.ofBits (f 10 4 w)).bind fun t => some (.ctzVr (f 45 9 w) (f 36 9 w) (f 14 4 w) t)
  | 0x018 => (Ty.ofBits (f 10 4 w)).bind fun t => some (.brevVr (f 45 9 w) (f 36 9 w) (f 14 4 w) t)
  | 0x019 => (Ty.ofBits (f 10 4 w)).bind fun t => some (.bfxVr (f 45 9 w) (f 36 9 w) (f 27 9 w) (f 18 9 w) (f 14 4 w) t)
  | 0x01A => (Ty.ofBits (f 10 4 w)).bind fun t => some (.binsVr (f 45 9 w) (f 36 9 w) (f 27 9 w) (f 18 9 w) (f 14 4 w) t)
  | 0x01B => some (.ffcsVr (f 45 9 w) (f 36 9 w) (f 14 4 w))
  | 0x01C => (Ty.ofBits (f 10 4 w)).bind fun t => some (.plsetVr (f 45 9 w) (f 36 9 w) (f 27 9 w) (f 18 9 w) (f 14 4 w) t)
  | 0x01D => (Ty.ofBits (f 10 4 w)).bind fun t => some (.leaVr (f 45 9 w) (f 36 9 w) (f 27 9 w) (f 18 9 w) (f 14 4 w) t)
  | 0x01E => (ICond.ofBits (f 49 4 w)).bind fun cond => (Ty.ofBits (f 10 4 w)).bind fun t => some (.icmpVr (f 45 4 w) cond (f 36 9 w) (f 27 9 w) (f 14 4 w) t)
  | 0x01F => (Ty.ofBits (f 10 4 w)).bind fun t => some (.selVr (f 45 9 w) (f 36 9 w) (f 27 9 w) (f 18 4 w) (f 14 4 w) t)
  | 0x020 => (Ty.ofBits (f 10 4 w)).bind fun t => some (.movVr (f 45 9 w) (f 36 9 w) (f 14 4 w) t)
  | 0x021 => (Ty.ofBits (f 10 4 w)).bind fun t => some (.lshuf (f 45 9 w) (f 36 9 w) (f 27 9 w) (LaneMode.ofBits (f 0 2 w)) (f 14 4 w) t)
  | 0x022 => (Ty.ofBits (f 10 4 w)).bind fun t => some (.bcast (f 45 9 w) (f 36 9 w) (f 27 9 w) (f 14 4 w) t)
  | 0x023 => some (.elect (f 45 4 w) (f 14 4 w))
  | 0x024 => some (.retire (f 14 4 w))
  | 0x025 => (Ty.ofBits (f 10 4 w)).bind fun t => some (.movsVr (f 45 9 w) (f 36 9 w) (f 14 4 w) t)
  | 0x040 => some (.moviVi (f 45 9 w) (f 32 4 w) (f 0 32 w))
  | 0x041 => some (.iaddVi (f 45 9 w) (f 36 9 w) (f 32 4 w) (f 0 32 w))
  | 0x042 => some (.imulVi (f 45 9 w) (f 36 9 w) (f 32 4 w) (f 0 32 w))
  | 0x043 => some (.andVi (f 45 9 w) (f 36 9 w) (f 32 4 w) (f 0 32 w))
  | 0x044 => some (.orVi (f 45 9 w) (f 36 9 w) (f 32 4 w) (f 0 32 w))
  | 0x045 => some (.xorVi (f 45 9 w) (f 36 9 w) (f 32 4 w) (f 0 32 w))
  | 0x046 => some (.shlVi (f 45 9 w) (f 36 9 w) (f 32 4 w) (f 0 32 w))
  | 0x047 => some (.shrVi (f 45 9 w) (f 36 9 w) (f 32 4 w) (f 0 32 w))
  | 0x048 => some (.sarVi (f 45 9 w) (f 36 9 w) (f 32 4 w) (f 0 32 w))
  | 0x049 => (ICond.ofBits (f 49 4 w)).bind fun cond => some (.icmpVi (f 45 4 w) cond (f 36 9 w) (f 32 4 w) (f 0 32 w))
  | 0x080 => some (.fadd (f 45 9 w) (f 36 9 w) (f 27 9 w) (f 14 4 w) (Rnd.ofBits (f 6 2 w)) (w.getLsbD 5) (w.getLsbD 4) (w.getLsbD 2) (w.getLsbD 1))
  | 0x081 => some (.fsub (f 45 9 w) (f 36 9 w) (f 27 9 w) (f 14 4 w) (Rnd.ofBits (f 6 2 w)) (w.getLsbD 5) (w.getLsbD 4) (w.getLsbD 2) (w.getLsbD 1))
  | 0x082 => some (.fmul (f 45 9 w) (f 36 9 w) (f 27 9 w) (f 14 4 w) (Rnd.ofBits (f 6 2 w)) (w.getLsbD 5) (w.getLsbD 4) (w.getLsbD 2) (w.getLsbD 1))
  | 0x083 => some (.ffma (f 45 9 w) (f 36 9 w) (f 27 9 w) (f 18 9 w) (f 14 4 w) (Rnd.ofBits (f 6 2 w)) (w.getLsbD 5) (w.getLsbD 4) (w.getLsbD 3) (w.getLsbD 2) (w.getLsbD 1))
  | 0x084 => some (.fmin (f 45 9 w) (f 36 9 w) (f 27 9 w) (f 14 4 w) (Rnd.ofBits (f 6 2 w)) (w.getLsbD 5) (w.getLsbD 4) (w.getLsbD 2) (w.getLsbD 1))
  | 0x085 => some (.fmax (f 45 9 w) (f 36 9 w) (f 27 9 w) (f 14 4 w) (Rnd.ofBits (f 6 2 w)) (w.getLsbD 5) (w.getLsbD 4) (w.getLsbD 2) (w.getLsbD 1))
  | 0x086 => (FCond.ofBits (f 49 4 w)).bind fun cond => some (.fcmp (f 45 4 w) cond (f 36 9 w) (f 27 9 w) (f 14 4 w) (w.getLsbD 5) (w.getLsbD 4) (w.getLsbD 2) (w.getLsbD 1))
  | 0x087 => (Ty.ofBits (f 10 4 w)).bind fun t => some (.fclass (f 45 9 w) (f 36 9 w) (f 14 4 w) t)
  | 0x088 => some (.fscale (f 45 9 w) (f 36 9 w) (f 27 9 w) (f 14 4 w) (Rnd.ofBits (f 6 2 w)) (w.getLsbD 5) (w.getLsbD 2))
  | 0x089 => some (.frint (f 45 9 w) (f 36 9 w) (f 14 4 w) (Rnd.ofBits (f 6 2 w)) (w.getLsbD 5) (w.getLsbD 2))
  | 0x08A => some (.frcp (f 45 9 w) (f 36 9 w) (f 14 4 w) (Rnd.ofBits (f 6 2 w)) (w.getLsbD 5) (w.getLsbD 2))
  | 0x08B => some (.fsqrt (f 45 9 w) (f 36 9 w) (f 14 4 w) (Rnd.ofBits (f 6 2 w)) (w.getLsbD 5) (w.getLsbD 2))
  | 0x08C => some (.frsq (f 45 9 w) (f 36 9 w) (f 14 4 w) (Rnd.ofBits (f 6 2 w)) (w.getLsbD 5) (w.getLsbD 2))
  | 0x08D => some (.fexp2 (f 45 9 w) (f 36 9 w) (f 14 4 w) (Rnd.ofBits (f 6 2 w)) (w.getLsbD 5) (w.getLsbD 2))
  | 0x08E => some (.flog2 (f 45 9 w) (f 36 9 w) (f 14 4 w) (Rnd.ofBits (f 6 2 w)) (w.getLsbD 5) (w.getLsbD 2))
  | 0x08F => (Ty.ofBits (f 10 4 w)).bind fun t => some (.pkfma (f 45 9 w) (f 36 9 w) (f 27 9 w) (f 18 9 w) (f 14 4 w) t (Rnd.ofBits (f 6 2 w)) (w.getLsbD 5) (w.getLsbD 4) (w.getLsbD 3) (w.getLsbD 2) (w.getLsbD 1))
  | 0x090 => (Ty.ofBits (f 10 4 w)).bind fun t => some (.fdot2 (f 45 9 w) (f 36 9 w) (f 27 9 w) (f 18 9 w) (f 14 4 w) t (Rnd.ofBits (f 6 2 w)) (w.getLsbD 5) (w.getLsbD 4) (w.getLsbD 3) (w.getLsbD 2) (w.getLsbD 1))
  | 0x091 => (Ty.ofBits (f 10 4 w)).bind fun t => (Ty.ofBits (f 0 4 w)).bind fun src => some (.fcvt (f 45 9 w) (f 36 9 w) (f 27 9 w) (f 14 4 w) t src (Rnd.ofBits (f 6 2 w)))
  | 0x092 => (Ty.ofBits (f 10 4 w)).bind fun t => (Ty.ofBits (f 0 4 w)).bind fun src => some (.icvt (f 45 9 w) (f 36 9 w) (f 14 4 w) t src (Rnd.ofBits (f 6 2 w)))
  | 0x093 => some (.lmul (f 45 9 w) (f 36 9 w) (f 27 9 w) (f 14 4 w))
  | 0x094 => some (.lsum (f 45 9 w) (f 36 9 w) (f 27 9 w) (f 18 9 w) (f 14 4 w))
  | _ => none

/-- The SALU range of the opcode map (R55): the fields of each opcode, read out once. That
MOVS in its write form with d not 0 is no instruction is the model's choice (log entry 66). -/
def decodeSalu (op : Nat) (w : BitVec 64) : Option Instr :=
  match op with
  | 0x100 => (Ty.ofBits (f 18 4 w)).bind fun t => some (.iaddSr (f 46 8 w) (f 38 8 w) (f 30 8 w) t (w.getLsbD 15) (w.getLsbD 17))
  | 0x101 => (Ty.ofBits (f 18 4 w)).bind fun t => some (.isubSr (f 46 8 w) (f 38 8 w) (f 30 8 w) t (w.getLsbD 15) (w.getLsbD 17))
  | 0x102 => (Ty.ofBits (f 18 4 w)).bind fun t => some (.imulSr (f 46 8 w) (f 38 8 w) (f 30 8 w) t (w.getLsbD 17))
  | 0x103 => (Ty.ofBits (f 18 4 w)).bind fun t => some (.imulhSr (f 46 8 w) (f 38 8 w) (f 30 8 w) t (w.getLsbD 17))
  | 0x104 => (Ty.ofBits (f 18 4 w)).bind fun t => some (.imadSr (f 46 8 w) (f 38 8 w) (f 30 8 w) (f 22 8 w) t (w.getLsbD 15) (w.getLsbD 17))
  | 0x105 => (Ty.ofBits (f 18 4 w)).bind fun t => some (.iminSr (f 46 8 w) (f 38 8 w) (f 30 8 w) t (w.getLsbD 17))
  | 0x106 => (Ty.ofBits (f 18 4 w)).bind fun t => some (.imaxSr (f 46 8 w) (f 38 8 w) (f 30 8 w) t (w.getLsbD 17))
  | 0x107 => (Ty.ofBits (f 18 4 w)).bind fun t => some (.iabsSr (f 46 8 w) (f 38 8 w) t (w.getLsbD 17))
  | 0x108 => (Ty.ofBits (f 18 4 w)).bind fun t => some (.inegSr (f 46 8 w) (f 38 8 w) t (w.getLsbD 17))
  | 0x109 => (Ty.ofBits (f 18 4 w)).bind fun t => some (.iaddcSr (f 46 8 w) (f 38 8 w) (f 30 8 w) t (w.getLsbD 17))
  | 0x10A => (Ty.ofBits (f 18 4 w)).bind fun t => some (.isubbSr (f 46 8 w) (f 38 8 w) (f 30 8 w) t (w.getLsbD 17))
  | 0x10B => (Ty.ofBits (f 18 4 w)).bind fun t => some (.andSr (f 46 8 w) (f 38 8 w) (f 30 8 w) t (w.getLsbD 17))
  | 0x10C => (Ty.ofBits (f 18 4 w)).bind fun t => some (.orSr (f 46 8 w) (f 38 8 w) (f 30 8 w) t (w.getLsbD 17))
  | 0x10D => (Ty.ofBits (f 18 4 w)).bind fun t => some (.xorSr (f 46 8 w) (f 38 8 w) (f 30 8 w) t (w.getLsbD 17))
  | 0x10E => (Ty.ofBits (f 18 4 w)).bind fun t => some (.andnSr (f 46 8 w) (f 38 8 w) (f 30 8 w) t (w.getLsbD 17))
  | 0x10F => (Ty.ofBits (f 18 4 w)).bind fun t => some (.btabSr (f 46 8 w) (f 38 8 w) (f 30 8 w) (f 22 8 w) (f 8 8 w) t (w.getLsbD 17))
  | 0x110 => (Ty.ofBits (f 18 4 w)).bind fun t => some (.shlSr (f 46 8 w) (f 38 8 w) (f 30 8 w) t (w.getLsbD 17))
  | 0x111 => (Ty.ofBits (f 18 4 w)).bind fun t => some (.shrSr (f 46 8 w) (f 38 8 w) (f 30 8 w) t (w.getLsbD 17))
  | 0x112 => (Ty.ofBits (f 18 4 w)).bind fun t => some (.sarSr (f 46 8 w) (f 38 8 w) (f 30 8 w) t (w.getLsbD 17))
  | 0x113 => (Ty.ofBits (f 18 4 w)).bind fun t => some (.rolSr (f 46 8 w) (f 38 8 w) (f 30 8 w) t (w.getLsbD 17))
  | 0x114 => (Ty.ofBits (f 18 4 w)).bind fun t => some (.popcSr (f 46 8 w) (f 38 8 w) t (w.getLsbD 17))
  | 0x115 => (Ty.ofBits (f 18 4 w)).bind fun t => some (.clzSr (f 46 8 w) (f 38 8 w) t (w.getLsbD 17))
  | 0x116 => (Ty.ofBits (f 18 4 w)).bind fun t => some (.ctzSr (f 46 8 w) (f 38 8 w) t (w.getLsbD 17))
  | 0x117 => (Ty.ofBits (f 18 4 w)).bind fun t => some (.brevSr (f 46 8 w) (f 38 8 w) t (w.getLsbD 17))
  | 0x118 => (Ty.ofBits (f 18 4 w)).bind fun t => some (.bfxSr (f 46 8 w) (f 38 8 w) (f 30 8 w) (f 22 8 w) t (w.getLsbD 17))
  | 0x119 => (Ty.ofBits (f 18 4 w)).bind fun t => some (.binsSr (f 46 8 w) (f 38 8 w) (f 30 8 w) (f 22 8 w) t (w.getLsbD 17))
  | 0x11A => some (.ffcsSr (f 46 8 w) (f 38 8 w) (w.getLsbD 17))
  | 0x11B => (Ty.ofBits (f 18 4 w)).bind fun t => some (.plsetSr (f 46 8 w) (f 38 8 w) (f 30 8 w) (f 22 8 w) t (w.getLsbD 17))
  | 0x11C => (Ty.ofBits (f 18 4 w)).bind fun t => some (.leaSr (f 46 8 w) (f 38 8 w) (f 30 8 w) (f 22 8 w) t (w.getLsbD 17))
  | 0x11D => (ICond.ofBits (f 50 4 w)).bind fun cond => (Ty.ofBits (f 18 4 w)).bind fun t => some (.icmpSr (f 46 4 w) cond (f 38 8 w) (f 30 8 w) t (w.getLsbD 17))
  | 0x11E => (Ty.ofBits (f 18 4 w)).bind fun t => some (.selSr (f 46 8 w) (f 38 8 w) (f 30 8 w) (f 22 4 w) t (w.getLsbD 17))
  | 0x11F => (Ty.ofBits (f 18 4 w)).bind fun t => some (.movSr (f 46 8 w) (f 38 8 w) t (w.getLsbD 17))
  | 0x120 => some (.mand (f 46 4 w) (f 38 4 w) (f 30 4 w) (w.getLsbD 17))
  | 0x121 => some (.mor (f 46 4 w) (f 38 4 w) (f 30 4 w) (w.getLsbD 17))
  | 0x122 => some (.mxor (f 46 4 w) (f 38 4 w) (f 30 4 w) (w.getLsbD 17))
  | 0x123 => some (.mandn (f 46 4 w) (f 38 4 w) (f 30 4 w) (w.getLsbD 17))
  | 0x124 => some (.mnot (f 46 4 w) (f 38 4 w) (w.getLsbD 17))
  | 0x125 => some (.mmov (f 46 4 w) (f 38 4 w) (w.getLsbD 17))
  | 0x126 => some (.mpopc (f 46 8 w) (f 38 4 w) (w.getLsbD 17))
  | 0x127 => some (.mfirst (f 46 8 w) (f 38 4 w) (w.getLsbD 17))
  | 0x128 => if w.getLsbD 8 then some (.movsFflagsWrite (f 38 8 w)) else some (.movsSr (f 46 8 w) (f 38 8 w))
  | 0x129 => some (.clock (f 46 8 w))
  | 0x12A => some (.jmp (f 38 8 w))
  | 0x140 => (Ty.ofBits (f 34 4 w)).bind fun t => some (.moviSi (f 46 8 w) t (w.getLsbD 33) (f 0 32 w))
  | 0x141 => (Ty.ofBits (f 34 4 w)).bind fun t => some (.iaddSi (f 46 8 w) (f 38 8 w) t (w.getLsbD 33) (f 0 32 w))
  | 0x142 => (Ty.ofBits (f 34 4 w)).bind fun t => some (.isubSi (f 46 8 w) (f 38 8 w) t (w.getLsbD 33) (f 0 32 w))
  | 0x143 => (Ty.ofBits (f 34 4 w)).bind fun t => some (.imulSi (f 46 8 w) (f 38 8 w) t (w.getLsbD 33) (f 0 32 w))
  | 0x144 => (Ty.ofBits (f 34 4 w)).bind fun t => some (.andSi (f 46 8 w) (f 38 8 w) t (w.getLsbD 33) (f 0 32 w))
  | 0x145 => (Ty.ofBits (f 34 4 w)).bind fun t => some (.orSi (f 46 8 w) (f 38 8 w) t (w.getLsbD 33) (f 0 32 w))
  | 0x146 => (Ty.ofBits (f 34 4 w)).bind fun t => some (.xorSi (f 46 8 w) (f 38 8 w) t (w.getLsbD 33) (f 0 32 w))
  | 0x147 => (Ty.ofBits (f 34 4 w)).bind fun t => some (.shlSi (f 46 8 w) (f 38 8 w) t (w.getLsbD 33) (f 0 32 w))
  | 0x148 => (Ty.ofBits (f 34 4 w)).bind fun t => some (.shrSi (f 46 8 w) (f 38 8 w) t (w.getLsbD 33) (f 0 32 w))
  | 0x149 => (Ty.ofBits (f 34 4 w)).bind fun t => some (.sarSi (f 46 8 w) (f 38 8 w) t (w.getLsbD 33) (f 0 32 w))
  | 0x14A => (Ty.ofBits (f 34 4 w)).bind fun t => some (.iminSi (f 46 8 w) (f 38 8 w) t (w.getLsbD 33) (f 0 32 w))
  | 0x14B => (Ty.ofBits (f 34 4 w)).bind fun t => some (.imaxSi (f 46 8 w) (f 38 8 w) t (w.getLsbD 33) (f 0 32 w))
  | 0x14C => (ICond.ofBits (f 50 4 w)).bind fun cond => (Ty.ofBits (f 34 4 w)).bind fun t => some (.icmpSi (f 46 4 w) cond (f 38 8 w) t (w.getLsbD 33) (f 0 32 w))
  | 0x14D => some (.frame (f 0 32 w))
  | 0x14E => some (.rhead (f 23 9 w) (f 17 6 w) (f 8 9 w) (f 2 6 w))
  | 0x160 => (BCond.ofBits (f 49 5 w)).bind fun cond => some (.bra cond (f 45 4 w) (f 0 32 w))
  | 0x161 => some (.call (f 36 9 w) (f 0 32 w))
  | 0x162 => some .ret
  | 0x163 => some (.fork (f 36 8 w) (f 45 4 w) (f 0 32 w))
  | 0x164 => some (.join (f 36 8 w) (f 0 32 w))
  | 0x165 => some .exit
  | _ => none

/-- The MEM range of the opcode map (R55): the fields of each opcode, read out once. -/
def decodeMem (op : Nat) (w : BitVec 64) : Option Instr :=
  match op with
  | 0x180 => (Width.ofBits (f 21 3 w)).bind fun wd => (FSel.ofBits (f 12 2 w)).bind fun fs => some (.ldl (f 45 9 w) (f 36 9 w) (f 28 8 w) (f 24 4 w) wd fs (f 0 12 w))
  | 0x181 => (Width.ofBits (f 21 3 w)).bind fun wd => some (.stl (f 45 9 w) (f 36 9 w) (f 28 8 w) (f 24 4 w) wd (f 0 12 w))
  | 0x182 => (Width.ofBits (f 21 3 w)).bind fun wd => (FSel.ofBits (f 12 2 w)).bind fun fs => some (.ldt (f 45 9 w) (f 36 9 w) (f 28 8 w) (f 24 4 w) wd fs (f 0 12 w))
  | 0x183 => (Width.ofBits (f 21 3 w)).bind fun wd => some (.stt (f 45 9 w) (f 36 9 w) (f 28 8 w) (f 24 4 w) wd (f 0 12 w))
  | 0x184 => (Width.ofBits (f 21 3 w)).bind fun wd => (FSel.ofBits (f 12 2 w)).bind fun fs => some (.ldd (f 45 9 w) (f 36 9 w) (f 28 8 w) (f 24 4 w) wd fs (f 0 12 w))
  | 0x185 => (Width.ofBits (f 21 3 w)).bind fun wd => some (.std (f 45 9 w) (f 36 9 w) (f 28 8 w) (f 24 4 w) wd (f 0 12 w))
  | 0x188 => (AtomOp.ofBits (f 14 5 w)).bind fun op => (Width.ofBits (f 21 3 w)).bind fun wd => (FSel.ofBits (f 12 2 w)).bind fun fs => some (.atomT op (f 45 9 w) (f 36 9 w) (f 28 8 w) (f 24 4 w) wd fs (f 0 12 w))
  | 0x18B => (AtomOp.ofBits (f 14 5 w)).bind fun op => (Width.ofBits (f 21 3 w)).bind fun wd => some (.redT op (f 45 9 w) (f 36 9 w) (f 28 8 w) (f 24 4 w) wd (f 0 12 w))
  | 0x189 => (AtomOp.ofBits (f 14 5 w)).bind fun op => (Width.ofBits (f 21 3 w)).bind fun wd => (FSel.ofBits (f 12 2 w)).bind fun fs => some (.atomD op (f 45 9 w) (f 36 9 w) (f 28 8 w) (f 24 4 w) wd (Scope.ofBits (f 19 2 w)) fs (f 0 12 w))
  | 0x18C => (AtomOp.ofBits (f 14 5 w)).bind fun op => (Width.ofBits (f 21 3 w)).bind fun wd => some (.redD op (f 45 9 w) (f 36 9 w) (f 28 8 w) (f 24 4 w) wd (Scope.ofBits (f 19 2 w)) (f 0 12 w))
  | 0x18A => (AtomOp.ofBits (f 14 5 w)).bind fun op => (Width.ofBits (f 21 3 w)).bind fun wd => (FSel.ofBits (f 12 2 w)).bind fun fs => some (.atomM op (f 45 9 w) (f 36 9 w) (f 28 8 w) (f 24 4 w) wd (Scope.ofBits (f 19 2 w)) fs (f 0 12 w))
  | 0x18D => (AtomOp.ofBits (f 14 5 w)).bind fun op => (Width.ofBits (f 21 3 w)).bind fun wd => some (.redM op (f 45 9 w) (f 36 9 w) (f 28 8 w) (f 24 4 w) wd (Scope.ofBits (f 19 2 w)) (f 0 12 w))
  | 0x190 => some (.barinit (f 45 9 w) (f 28 8 w) (f 0 12 w))
  | 0x191 => some (.barexp (f 45 9 w) (f 28 8 w) (f 0 12 w))
  | 0x192 => some (.bararr (f 28 8 w) (f 0 12 w))
  | 0x193 => some (.barwait (f 28 8 w) (f 0 12 w))
  | 0x194 => some (.baraw (f 28 8 w) (f 0 12 w))
  | 0x198 => (Width.ofBits (f 21 3 w)).bind fun wd => (FSel.ofBits (f 12 2 w)).bind fun fs => some (.mwait (f 45 9 w) (f 28 8 w) (f 24 4 w) wd fs (f 0 12 w))
  | 0x199 => if f 21 3 w = 0#3 then some (.fence (Scope.ofBits (f 19 2 w))) else if f 21 3 w = 1#3 then some (.fenceAcq (Scope.ofBits (f 19 2 w))) else if f 21 3 w = 2#3 then some (.fenceRel (Scope.ofBits (f 19 2 w))) else none
  | _ => none

/-- The ASYNC range of the opcode map (R55): the fields of each opcode, read out once. -/
def decodeAsync (op : Nat) (w : BitVec 64) : Option Instr :=
  match op with
  | 0x200 => some (.tidset (f 17 6 w) (f 38 8 w) (f 0 12 w))
  | 0x201 => some (.tidinv (f 17 6 w))
  | 0x202 => (FSel.ofBits (f 23 2 w)).bind fun fs => some (.copy (f 46 8 w) (f 38 8 w) fs (f 0 12 w))
  | 0x203 => (FSel.ofBits (f 23 2 w)).bind fun fs => some (.copyg (f 46 8 w) (f 38 8 w) (f 29 9 w) (f 25 4 w) fs (f 0 12 w))
  | 0x204 => (FSel.ofBits (f 23 2 w)).bind fun fs => some (.copys (f 46 8 w) (f 38 8 w) (f 29 9 w) (f 25 4 w) fs (f 0 12 w))
  | 0x205 => some (.cbatch (f 46 8 w))
  | 0x206 => some (.waitb (f 38 8 w))
  | 0x207 => (FSel.ofBits (f 23 2 w)).bind fun fs => some (.route (f 46 8 w) (f 38 8 w) fs (f 0 12 w))
  | 0x208 => (FSel.ofBits (f 23 2 w)).bind fun fs => some (.xchg (f 46 8 w) (f 38 8 w) fs (f 0 12 w))
  | _ => none

/-- The MTX range of the opcode map (R55): the fields of each opcode, read out once. -/
def decodeMtx (op : Nat) (w : BitVec 64) : Option Instr :=
  match op with
  | 0x240 => some (.sclaim (f 52 2 w) (f 45 4 w) (f 37 4 w))
  | 0x241 => some (.srel (f 52 2 w) (f 45 4 w) (f 37 4 w))
  | 0x242 => some (.acq (f 52 2 w) (f 49 3 w))
  | 0x243 => if w.getLsbD 13 then some (.relFree (f 52 2 w) (f 49 3 w)) else some (.rel (f 52 2 w) (f 49 3 w))
  | 0x244 => some (.mzero (f 52 2 w) (f 49 3 w))
  | 0x245 => (FSel.ofBits (f 14 2 w)).bind fun fs => some (.mloop (f 52 2 w) (f 49 3 w) (f 45 4 w) (f 41 4 w) (f 37 4 w) (f 29 8 w) (f 21 8 w) (f 16 5 w) fs (w.getLsbD 13) (w.getLsbD 12))
  | 0x246 => (FSel.ofBits (f 14 2 w)).bind fun fs => some (.mread (f 52 2 w) (f 49 3 w) (f 29 8 w) (f 3 9 w) fs)
  | 0x247 => some (.mwrite (f 52 2 w) (f 49 3 w) (f 29 8 w) (f 3 9 w))
  | 0x248 => (FSel.ofBits (f 14 2 w)).bind fun fs => some (.mstore (f 52 2 w) (f 49 3 w) (f 29 8 w) (f 21 8 w) fs)
  | _ => none

/-- The RAY range of the opcode map (R55): the fields of each opcode, read out once. -/
def decodeRay (op : Nat) (w : BitVec 64) : Option Instr :=
  match op with
  | 0x280 => (FSel.ofBits (f 17 2 w)).bind fun fs => some (.rinit (f 45 9 w) (f 36 9 w) (f 23 4 w) (f 19 4 w) fs)
  | 0x281 => (FSel.ofBits (f 17 2 w)).bind fun fs => some (.rbox (f 45 9 w) (f 36 9 w) (f 27 9 w) (f 23 4 w) fs)
  | 0x282 => (FSel.ofBits (f 17 2 w)).bind fun fs => some (.rtri (f 45 9 w) (f 36 9 w) (f 27 9 w) (f 9 2 w) (f 23 4 w) fs)
  | 0x288 => (FSel.ofBits (f 17 2 w)).bind fun fs => some (.mdec (f 36 9 w) (f 27 9 w) (f 11 6 w) (f 9 2 w) (f 23 4 w) fs)
  | 0x289 => (FSel.ofBits (f 17 2 w)).bind fun fs => some (.tbread (f 45 9 w) (f 36 9 w) (f 9 2 w) (f 23 4 w) fs)
  | 0x28A => (FSel.ofBits (f 17 2 w)).bind fun fs => some (.mpatch (f 45 9 w) (f 36 9 w) (f 27 9 w) (f 11 6 w) (f 23 4 w) fs)
  | 0x28B => if w.getLsbD 0 then (FSel.ofBits (f 17 2 w)).bind fun fs => some (.mstatFord (f 45 9 w) (f 36 9 w) (f 11 6 w) (f 23 4 w) fs) else (FSel.ofBits (f 17 2 w)).bind fun fs => some (.mstatBuf (f 45 9 w) (f 9 2 w) (f 23 4 w) fs)
  | 0x290 => (FSel.ofBits (f 17 2 w)).bind fun fs => some (.raster (f 45 9 w) (f 36 9 w) (f 11 6 w) (f 23 4 w) fs)
  | _ => none

/-- The CHAN range of the opcode map (R55): the fields of each opcode, read out once. -/
def decodeChan (op : Nat) (w : BitVec 64) : Option Instr :=
  match op with
  | 0x2C0 => some (.send (f 48 6 w) (f 39 9 w) (f 35 4 w))
  | 0x2C1 => (FSel.ofBits (f 33 2 w)).bind fun fs => some (.recv (f 48 6 w) (f 39 9 w) (f 35 4 w) fs)
  | 0x2C2 => (FSel.ofBits (f 33 2 w)).bind fun fs => some (.peek (f 48 6 w) (f 39 9 w) (f 35 4 w) fs)
  | 0x2D0 => some (.oopen (f 36 9 w) (f 28 8 w) (w.getLsbD 17) (w.getLsbD 16))
  | 0x2D1 => some (.oclose (f 28 8 w))
  | 0x2D2 => if w.getLsbD 17 then (FSel.ofBits (f 18 2 w)).bind fun fs => some (.oenterPart (f 45 9 w) (f 36 9 w) (f 28 8 w) (f 20 4 w) (f 24 4 w) fs) else (FSel.ofBits (f 18 2 w)).bind fun fs => some (.oenterAll (f 45 9 w) (f 36 9 w) (f 28 8 w) (f 20 4 w) (f 24 4 w) fs)
  | 0x2D3 => if w.getLsbD 17 then (FSel.ofBits (f 18 2 w)).bind fun fs => some (.owaitPart (f 45 9 w) (f 36 9 w) (f 28 8 w) (f 20 4 w) (f 24 4 w) fs) else (FSel.ofBits (f 18 2 w)).bind fun fs => some (.owait (f 45 9 w) (f 36 9 w) (f 28 8 w) (f 20 4 w) (f 24 4 w) fs)
  | 0x2D4 => some (.oleave (f 45 9 w) (f 28 8 w) (f 24 4 w))
  | 0x2D5 => some (.oskip (f 45 9 w) (f 36 9 w) (f 28 8 w) (f 24 4 w))
  | _ => none

/-- The SYS range of the opcode map (R55): the fields of each opcode, read out once. -/
def decodeSys (op : Nat) (w : BitVec 64) : Option Instr :=
  match op with
  | 0x300 => some (.launch (f 46 8 w) (f 0 2 w))
  | 0x301 => some (.glaunch (f 46 8 w) (f 38 8 w) (f 0 2 w))
  | 0x302 => (FSel.ofBits (f 28 2 w)).bind fun fs => some (.emit (f 0 9 w) (f 38 8 w) (f 24 4 w) fs)
  | 0x303 => some (.commit (f 0 9 w) (f 24 4 w))
  | 0x304 => some (.signal (f 46 8 w) (f 38 8 w) (w.getLsbD 15) (f 0 11 w))
  | 0x305 => (FSel.ofBits (f 28 2 w)).bind fun fs => some (.waitg (f 46 8 w) (f 38 8 w) fs)
  | 0x308 => some (.reorder (f 46 8 w) (f 38 8 w) (f 0 9 w) (f 24 4 w))
  | 0x309 => some (.role (f 0 2 w))
  | 0x310 => some (.trap (f 16 8 w))
  | 0x311 => some .rett
  | 0x318 => (FSel.ofBits (f 28 2 w)).bind fun fs => some (.cxsave (f 46 8 w) (f 38 8 w) (f 30 8 w) fs)
  | 0x319 => (FSel.ofBits (f 28 2 w)).bind fun fs => some (.cxload (f 46 8 w) (f 38 8 w) (f 30 8 w) fs)
  | 0x31A => (FSel.ofBits (f 28 2 w)).bind fun fs => some (.cxkill (f 46 8 w) (f 38 8 w) fs)
  | _ => none

/-- The opcodes that the maps of R55 assign. -/
def assignedOpcode (op : Nat) : Bool :=
  decide (0x000 ≤ op ∧ op ≤ 0x025) ||
  decide (0x040 ≤ op ∧ op ≤ 0x049) ||
  decide (0x080 ≤ op ∧ op ≤ 0x094) ||
  decide (0x100 ≤ op ∧ op ≤ 0x12A) ||
  decide (0x140 ≤ op ∧ op ≤ 0x14E) ||
  decide (0x160 ≤ op ∧ op ≤ 0x165) ||
  decide (0x180 ≤ op ∧ op ≤ 0x185) ||
  decide (0x188 ≤ op ∧ op ≤ 0x18D) ||
  decide (0x190 ≤ op ∧ op ≤ 0x194) ||
  decide (0x198 ≤ op ∧ op ≤ 0x199) ||
  decide (0x200 ≤ op ∧ op ≤ 0x208) ||
  decide (0x240 ≤ op ∧ op ≤ 0x248) ||
  decide (0x280 ≤ op ∧ op ≤ 0x282) ||
  decide (0x288 ≤ op ∧ op ≤ 0x28B) ||
  decide (0x290 ≤ op ∧ op ≤ 0x290) ||
  decide (0x2C0 ≤ op ∧ op ≤ 0x2C2) ||
  decide (0x2D0 ≤ op ∧ op ≤ 0x2D5) ||
  decide (0x300 ≤ op ∧ op ≤ 0x305) ||
  decide (0x308 ≤ op ∧ op ≤ 0x309) ||
  decide (0x310 ≤ op ∧ op ≤ 0x311) ||
  decide (0x318 ≤ op ∧ op ≤ 0x31A)

/-- The word of an instruction, from the field maps of R42 to R54; a step that no word encodes has none. -/
def encode : Instr → Option (BitVec 64)
  | .iaddVr d a b p t sat => some (vrWord 0x001#10 d a b 0#9 p t.bits 0#2 (satBits sat))
  | .isubVr d a b p t sat => some (vrWord 0x002#10 d a b 0#9 p t.bits 0#2 (satBits sat))
  | .imulVr d a b p t => some (vrWord 0x003#10 d a b 0#9 p t.bits 0#2 0#8)
  | .imulhVr d a b p t => some (vrWord 0x004#10 d a b 0#9 p t.bits 0#2 0#8)
  | .imadVr d a b c p t sat => some (vrWord 0x005#10 d a b c p t.bits 0#2 (satBits sat))
  | .iminVr d a b p t => some (vrWord 0x006#10 d a b 0#9 p t.bits 0#2 0#8)
  | .imaxVr d a b p t => some (vrWord 0x007#10 d a b 0#9 p t.bits 0#2 0#8)
  | .iabsVr d a p t => some (vrWord 0x008#10 d a 0#9 0#9 p t.bits 0#2 0#8)
  | .inegVr d a p t => some (vrWord 0x009#10 d a 0#9 0#9 p t.bits 0#2 0#8)
  | .iaddcVr d a b mc p t => some (vrWord 0x00A#10 d a b 0#9 p t.bits 0#2 (0#4 ++ mc))
  | .isubbVr d a b mc p t => some (vrWord 0x00B#10 d a b 0#9 p t.bits 0#2 (0#4 ++ mc))
  | .andVr d a b p t => some (vrWord 0x00C#10 d a b 0#9 p t.bits 0#2 0#8)
  | .orVr d a b p t => some (vrWord 0x00D#10 d a b 0#9 p t.bits 0#2 0#8)
  | .xorVr d a b p t => some (vrWord 0x00E#10 d a b 0#9 p t.bits 0#2 0#8)
  | .andnVr d a b p t => some (vrWord 0x00F#10 d a b 0#9 p t.bits 0#2 0#8)
  | .btabVr d a b c tt p t => some (vrWord 0x010#10 d a b c p t.bits 0#2 tt)
  | .shlVr d a b p t => some (vrWord 0x011#10 d a b 0#9 p t.bits 0#2 0#8)
  | .shrVr d a b p t => some (vrWord 0x012#10 d a b 0#9 p t.bits 0#2 0#8)
  | .sarVr d a b p t => some (vrWord 0x013#10 d a b 0#9 p t.bits 0#2 0#8)
  | .rolVr d a b p t => some (vrWord 0x014#10 d a b 0#9 p t.bits 0#2 0#8)
  | .popcVr d a p t => some (vrWord 0x015#10 d a 0#9 0#9 p t.bits 0#2 0#8)
  | .clzVr d a p t => some (vrWord 0x016#10 d a 0#9 0#9 p t.bits 0#2 0#8)
  | .ctzVr d a p t => some (vrWord 0x017#10 d a 0#9 0#9 p t.bits 0#2 0#8)
  | .brevVr d a p t => some (vrWord 0x018#10 d a 0#9 0#9 p t.bits 0#2 0#8)
  | .bfxVr d a b c p t => some (vrWord 0x019#10 d a b c p t.bits 0#2 0#8)
  | .binsVr d a b c p t => some (vrWord 0x01A#10 d a b c p t.bits 0#2 0#8)
  | .ffcsVr d a p => some (vrWord 0x01B#10 d a 0#9 0#9 p Ty.b64.bits 0#2 0#8)
  | .plsetVr d a b c p t => some (vrWord 0x01C#10 d a b c p t.bits 0#2 0#8)
  | .leaVr d a b c p t => some (vrWord 0x01D#10 d a b c p t.bits 0#2 0#8)
  | .icmpVr md cond a b p t => some (vrWord 0x01E#10 (0#1 ++ cond.bits ++ md) a b 0#9 p t.bits 0#2 0#8)
  | .selVr d a b ms p t => some (vrWord 0x01F#10 d a b (0#5 ++ ms) p t.bits 0#2 0#8)
  | .movVr d a p t => some (vrWord 0x020#10 d a 0#9 0#9 p t.bits 0#2 0#8)
  | .lshuf d a b mode p t => some (vrWord 0x021#10 d a b 0#9 p t.bits 0#2 (0#6 ++ mode.bits))
  | .bcast d a b p t => some (vrWord 0x022#10 d a b 0#9 p t.bits 0#2 0#8)
  | .elect md p => some (vrWord 0x023#10 (0#5 ++ md) 0#9 0#9 0#9 p 0#4 0#2 0#8)
  | .retire p => some (vrWord 0x024#10 0#9 0#9 0#9 0#9 p 0#4 0#2 0#8)
  | .movsVr d sr p t => some (vrWord 0x025#10 d sr 0#9 0#9 p t.bits 0#2 0#8)
  | .moviVi d p imm => some (viWord 0x040#10 d 0#9 p imm)
  | .iaddVi d a p imm => some (viWord 0x041#10 d a p imm)
  | .imulVi d a p imm => some (viWord 0x042#10 d a p imm)
  | .andVi d a p imm => some (viWord 0x043#10 d a p imm)
  | .orVi d a p imm => some (viWord 0x044#10 d a p imm)
  | .xorVi d a p imm => some (viWord 0x045#10 d a p imm)
  | .shlVi d a p imm => some (viWord 0x046#10 d a p imm)
  | .shrVi d a p imm => some (viWord 0x047#10 d a p imm)
  | .sarVi d a p imm => some (viWord 0x048#10 d a p imm)
  | .icmpVi md cond a p imm => some (viWord 0x049#10 (0#1 ++ cond.bits ++ md) a p imm)
  | .fadd d a b p rnd na nb aa ab => some (vrWord 0x080#10 d a b 0#9 p Ty.f32.bits 0#2 (floatMods rnd na nb false aa ab))
  | .fsub d a b p rnd na nb aa ab => some (vrWord 0x081#10 d a b 0#9 p Ty.f32.bits 0#2 (floatMods rnd na nb false aa ab))
  | .fmul d a b p rnd na nb aa ab => some (vrWord 0x082#10 d a b 0#9 p Ty.f32.bits 0#2 (floatMods rnd na nb false aa ab))
  | .ffma d a b c p rnd na nb nc aa ab => some (vrWord 0x083#10 d a b c p Ty.f32.bits 0#2 (floatMods rnd na nb nc aa ab))
  | .fmin d a b p rnd na nb aa ab => some (vrWord 0x084#10 d a b 0#9 p Ty.f32.bits 0#2 (floatMods rnd na nb false aa ab))
  | .fmax d a b p rnd na nb aa ab => some (vrWord 0x085#10 d a b 0#9 p Ty.f32.bits 0#2 (floatMods rnd na nb false aa ab))
  | .fcmp md cond a b p na nb aa ab => some (vrWord 0x086#10 (0#1 ++ cond.bits ++ md) a b 0#9 p Ty.f32.bits 0#2 (floatMods .rne na nb false aa ab))
  | .fclass d a p t => some (vrWord 0x087#10 d a 0#9 0#9 p t.bits 0#2 0#8)
  | .fscale d a b p rnd na aa => some (vrWord 0x088#10 d a b 0#9 p Ty.f32.bits 0#2 (floatMods rnd na false false aa false))
  | .frint d a p rnd na aa => some (vrWord 0x089#10 d a 0#9 0#9 p Ty.f32.bits 0#2 (floatMods rnd na false false aa false))
  | .frcp d a p rnd na aa => some (vrWord 0x08A#10 d a 0#9 0#9 p Ty.f32.bits 0#2 (floatMods rnd na false false aa false))
  | .fsqrt d a p rnd na aa => some (vrWord 0x08B#10 d a 0#9 0#9 p Ty.f32.bits 0#2 (floatMods rnd na false false aa false))
  | .frsq d a p rnd na aa => some (vrWord 0x08C#10 d a 0#9 0#9 p Ty.f32.bits 0#2 (floatMods rnd na false false aa false))
  | .fexp2 d a p rnd na aa => some (vrWord 0x08D#10 d a 0#9 0#9 p Ty.f32.bits 0#2 (floatMods rnd na false false aa false))
  | .flog2 d a p rnd na aa => some (vrWord 0x08E#10 d a 0#9 0#9 p Ty.f32.bits 0#2 (floatMods rnd na false false aa false))
  | .pkfma d a b c p t rnd na nb nc aa ab => some (vrWord 0x08F#10 d a b c p t.bits 0#2 (floatMods rnd na nb nc aa ab))
  | .fdot2 d a b c p t rnd na nb nc aa ab => some (vrWord 0x090#10 d a b c p t.bits 0#2 (floatMods rnd na nb nc aa ab))
  | .fcvt d a b p t src rnd => some (vrWord 0x091#10 d a b 0#9 p t.bits 0#2 (rnd.bits ++ 0#2 ++ src.bits))
  | .icvt d a p t src rnd => some (vrWord 0x092#10 d a 0#9 0#9 p t.bits 0#2 (rnd.bits ++ 0#2 ++ src.bits))
  | .lmul d a b p => some (vrWord 0x093#10 d a b 0#9 p Ty.lns6.bits 0#2 0#8)
  | .lsum d a b c p => some (vrWord 0x094#10 d a b c p Ty.lns6.bits 0#2 0#8)
  | .iaddSr d a b t sat cc => some (srWord 0x100#10 d a b 0#8 t.bits cc (satBits sat))
  | .isubSr d a b t sat cc => some (srWord 0x101#10 d a b 0#8 t.bits cc (satBits sat))
  | .imulSr d a b t cc => some (srWord 0x102#10 d a b 0#8 t.bits cc 0#8)
  | .imulhSr d a b t cc => some (srWord 0x103#10 d a b 0#8 t.bits cc 0#8)
  | .imadSr d a b c t sat cc => some (srWord 0x104#10 d a b c t.bits cc (satBits sat))
  | .iminSr d a b t cc => some (srWord 0x105#10 d a b 0#8 t.bits cc 0#8)
  | .imaxSr d a b t cc => some (srWord 0x106#10 d a b 0#8 t.bits cc 0#8)
  | .iabsSr d a t cc => some (srWord 0x107#10 d a 0#8 0#8 t.bits cc 0#8)
  | .inegSr d a t cc => some (srWord 0x108#10 d a 0#8 0#8 t.bits cc 0#8)
  | .iaddcSr d a b t cc => some (srWord 0x109#10 d a b 0#8 t.bits cc 0#8)
  | .isubbSr d a b t cc => some (srWord 0x10A#10 d a b 0#8 t.bits cc 0#8)
  | .andSr d a b t cc => some (srWord 0x10B#10 d a b 0#8 t.bits cc 0#8)
  | .orSr d a b t cc => some (srWord 0x10C#10 d a b 0#8 t.bits cc 0#8)
  | .xorSr d a b t cc => some (srWord 0x10D#10 d a b 0#8 t.bits cc 0#8)
  | .andnSr d a b t cc => some (srWord 0x10E#10 d a b 0#8 t.bits cc 0#8)
  | .btabSr d a b c tt t cc => some (srWord 0x10F#10 d a b c t.bits cc tt)
  | .shlSr d a b t cc => some (srWord 0x110#10 d a b 0#8 t.bits cc 0#8)
  | .shrSr d a b t cc => some (srWord 0x111#10 d a b 0#8 t.bits cc 0#8)
  | .sarSr d a b t cc => some (srWord 0x112#10 d a b 0#8 t.bits cc 0#8)
  | .rolSr d a b t cc => some (srWord 0x113#10 d a b 0#8 t.bits cc 0#8)
  | .popcSr d a t cc => some (srWord 0x114#10 d a 0#8 0#8 t.bits cc 0#8)
  | .clzSr d a t cc => some (srWord 0x115#10 d a 0#8 0#8 t.bits cc 0#8)
  | .ctzSr d a t cc => some (srWord 0x116#10 d a 0#8 0#8 t.bits cc 0#8)
  | .brevSr d a t cc => some (srWord 0x117#10 d a 0#8 0#8 t.bits cc 0#8)
  | .bfxSr d a b c t cc => some (srWord 0x118#10 d a b c t.bits cc 0#8)
  | .binsSr d a b c t cc => some (srWord 0x119#10 d a b c t.bits cc 0#8)
  | .ffcsSr d a cc => some (srWord 0x11A#10 d a 0#8 0#8 Ty.b64.bits cc 0#8)
  | .plsetSr d a b c t cc => some (srWord 0x11B#10 d a b c t.bits cc 0#8)
  | .leaSr d a b c t cc => some (srWord 0x11C#10 d a b c t.bits cc 0#8)
  | .icmpSr md cond a b t cc => some (srWord 0x11D#10 (cond.bits ++ md) a b 0#8 t.bits cc 0#8)
  | .selSr d a b ms t cc => some (srWord 0x11E#10 d a b (0#4 ++ ms) t.bits cc 0#8)
  | .movSr d a t cc => some (srWord 0x11F#10 d a 0#8 0#8 t.bits cc 0#8)
  | .mand md ma mb cc => some (srWord 0x120#10 (0#4 ++ md) (0#4 ++ ma) (0#4 ++ mb) 0#8 0#4 cc 0#8)
  | .mor md ma mb cc => some (srWord 0x121#10 (0#4 ++ md) (0#4 ++ ma) (0#4 ++ mb) 0#8 0#4 cc 0#8)
  | .mxor md ma mb cc => some (srWord 0x122#10 (0#4 ++ md) (0#4 ++ ma) (0#4 ++ mb) 0#8 0#4 cc 0#8)
  | .mandn md ma mb cc => some (srWord 0x123#10 (0#4 ++ md) (0#4 ++ ma) (0#4 ++ mb) 0#8 0#4 cc 0#8)
  | .mnot md ma cc => some (srWord 0x124#10 (0#4 ++ md) (0#4 ++ ma) 0#8 0#8 0#4 cc 0#8)
  | .mmov md ma cc => some (srWord 0x125#10 (0#4 ++ md) (0#4 ++ ma) 0#8 0#8 0#4 cc 0#8)
  | .mpopc d ma cc => some (srWord 0x126#10 d (0#4 ++ ma) 0#8 0#8 0#4 cc 0#8)
  | .mfirst d ma cc => some (srWord 0x127#10 d (0#4 ++ ma) 0#8 0#8 0#4 cc 0#8)
  | .movsSr d sr => some (srWord 0x128#10 d sr 0#8 0#8 0#4 false 0#8)
  | .movsFflagsWrite a => some (srWord 0x128#10 0#8 a 0#8 0#8 0#4 false 1#8)
  | .clock d => some (srWord 0x129#10 d 0#8 0#8 0#8 0#4 false 0#8)
  | .jmp a => some (srWord 0x12A#10 0#8 a 0#8 0#8 0#4 false 0#8)
  | .moviSi d t cc imm => some (siWord 0x140#10 d 0#8 t.bits cc imm)
  | .iaddSi d a t cc imm => some (siWord 0x141#10 d a t.bits cc imm)
  | .isubSi d a t cc imm => some (siWord 0x142#10 d a t.bits cc imm)
  | .imulSi d a t cc imm => some (siWord 0x143#10 d a t.bits cc imm)
  | .andSi d a t cc imm => some (siWord 0x144#10 d a t.bits cc imm)
  | .orSi d a t cc imm => some (siWord 0x145#10 d a t.bits cc imm)
  | .xorSi d a t cc imm => some (siWord 0x146#10 d a t.bits cc imm)
  | .shlSi d a t cc imm => some (siWord 0x147#10 d a t.bits cc imm)
  | .shrSi d a t cc imm => some (siWord 0x148#10 d a t.bits cc imm)
  | .sarSi d a t cc imm => some (siWord 0x149#10 d a t.bits cc imm)
  | .iminSi d a t cc imm => some (siWord 0x14A#10 d a t.bits cc imm)
  | .imaxSi d a t cc imm => some (siWord 0x14B#10 d a t.bits cc imm)
  | .icmpSi md cond a t cc imm => some (siWord 0x14C#10 (cond.bits ++ md) a t.bits cc imm)
  | .frame e => some (siWord 0x14D#10 0#8 0#8 0#4 false e)
  | .rhead s1 n1 s2 n2 => some (siWord 0x14E#10 0#8 0#8 0#4 false (s1 ++ n1 ++ s2 ++ n2 ++ 0#2))
  | .bra cond mk off => some (brWord 0x160#10 cond.bits mk 0#9 off)
  | .call sh off => some (brWord 0x161#10 BCond.al.bits 0#4 sh off)
  | .ret => some (brWord 0x162#10 0#5 0#4 0#9 0#32)
  | .fork kt ms off => some (brWord 0x163#10 BCond.al.bits ms (0#1 ++ kt) off)
  | .join kt off => some (brWord 0x164#10 BCond.al.bits 0#4 (0#1 ++ kt) off)
  | .exit => some (brWord 0x165#10 0#5 0#4 0#9 0#32)
  | .nop => some (vrWord 0x000#10 0#9 0#9 0#9 0#9 0#4 0#4 0#2 0#8)
  | .ldl data addr base p wd fs off => some (memWord 0x180#10 data addr base p wd.bits 0#2 0#5 fs.bits off)
  | .stl data addr base p wd off => some (memWord 0x181#10 data addr base p wd.bits 0#2 0#5 0#2 off)
  | .ldt data addr base p wd fs off => some (memWord 0x182#10 data addr base p wd.bits 0#2 0#5 fs.bits off)
  | .stt data addr base p wd off => some (memWord 0x183#10 data addr base p wd.bits 0#2 0#5 0#2 off)
  | .ldd data addr base p wd fs off => some (memWord 0x184#10 data addr base p wd.bits 0#2 0#5 fs.bits off)
  | .std data addr base p wd off => some (memWord 0x185#10 data addr base p wd.bits 0#2 0#5 0#2 off)
  | .atomT op data addr base p wd fs off => some (memWord 0x188#10 data addr base p wd.bits 0#2 op.bits fs.bits off)
  | .redT op data addr base p wd off => some (memWord 0x18B#10 data addr base p wd.bits 0#2 op.bits 0#2 off)
  | .atomD op data addr base p wd sc fs off => some (memWord 0x189#10 data addr base p wd.bits sc.bits op.bits fs.bits off)
  | .redD op data addr base p wd sc off => some (memWord 0x18C#10 data addr base p wd.bits sc.bits op.bits 0#2 off)
  | .atomM op data addr base p wd sc fs off => some (memWord 0x18A#10 data addr base p wd.bits sc.bits op.bits fs.bits off)
  | .redM op data addr base p wd sc off => some (memWord 0x18D#10 data addr base p wd.bits sc.bits op.bits 0#2 off)
  | .barinit data base off => some (memWord 0x190#10 data 0#9 base 0#4 0#3 0#2 0#5 0#2 off)
  | .barexp data base off => some (memWord 0x191#10 data 0#9 base 0#4 0#3 0#2 0#5 0#2 off)
  | .bararr base off => some (memWord 0x192#10 0#9 0#9 base 0#4 0#3 0#2 0#5 0#2 off)
  | .barwait base off => some (memWord 0x193#10 0#9 0#9 base 0#4 0#3 0#2 0#5 0#2 off)
  | .baraw base off => some (memWord 0x194#10 0#9 0#9 base 0#4 0#3 0#2 0#5 0#2 off)
  | .mwait data base p wd fs off => some (memWord 0x198#10 data 0#9 base p wd.bits 0#2 0#5 fs.bits off)
  | .fence sc => some (memWord 0x199#10 0#9 0#9 0#8 0#4 0#3 sc.bits 0#5 0#2 0#12)
  | .fenceAcq sc => some (memWord 0x199#10 0#9 0#9 0#8 0#4 1#3 sc.bits 0#5 0#2 0#12)
  | .fenceRel sc => some (memWord 0x199#10 0#9 0#9 0#8 0#4 2#3 sc.bits 0#5 0#2 0#12)
  | .tidset t kb off => some (asWord 0x200#10 0#8 kb 0#9 0#4 0#2 t 0#5 off)
  | .tidinv t => some (asWord 0x201#10 0#8 0#8 0#9 0#4 0#2 t 0#5 0#12)
  | .copy ka kb fs off => some (asWord 0x202#10 ka kb 0#9 0#4 fs.bits 0#6 0#5 off)
  | .copyg ka kb v p fs off => some (asWord 0x203#10 ka kb v p fs.bits 0#6 0#5 off)
  | .copys ka kb v p fs off => some (asWord 0x204#10 ka kb v p fs.bits 0#6 0#5 off)
  | .cbatch ka => some (asWord 0x205#10 ka 0#8 0#9 0#4 0#2 0#6 0#5 0#12)
  | .waitb kb => some (asWord 0x206#10 0#8 kb 0#9 0#4 0#2 0#6 0#5 0#12)
  | .route ka kb fs off => some (asWord 0x207#10 ka kb 0#9 0#4 fs.bits 0#6 0#5 off)
  | .xchg ka kb fs off => some (asWord 0x208#10 ka kb 0#9 0#4 fs.bits 0#6 0#5 off)
  | .sclaim x sl n => some (mxWord 0x240#10 x 0#3 sl 0#4 n 0#8 0#8 0#5 0#2 false false 0#9)
  | .srel x sl n => some (mxWord 0x241#10 x 0#3 sl 0#4 n 0#8 0#8 0#5 0#2 false false 0#9)
  | .acq x acc => some (mxWord 0x242#10 x acc 0#4 0#4 0#4 0#8 0#8 0#5 0#2 false false 0#9)
  | .rel x acc => some (mxWord 0x243#10 x acc 0#4 0#4 0#4 0#8 0#8 0#5 0#2 false false 0#9)
  | .relFree x acc => some (mxWord 0x243#10 x acc 0#4 0#4 0#4 0#8 0#8 0#5 0#2 true false 0#9)
  | .mzero x acc => some (mxWord 0x244#10 x acc 0#4 0#4 0#4 0#8 0#8 0#5 0#2 false false 0#9)
  | .mloop x acc sa sb inc ks1 ks2 pi fs ra rb => some (mxWord 0x245#10 x acc sa sb inc ks1 ks2 pi fs.bits ra rb 0#9)
  | .mread x acc ks1 v fs => some (mxWord 0x246#10 x acc 0#4 0#4 0#4 ks1 0#8 0#5 fs.bits false false v)
  | .mwrite x acc ks1 v => some (mxWord 0x247#10 x acc 0#4 0#4 0#4 ks1 0#8 0#5 0#2 false false v)
  | .mstore x acc ks1 ks2 fs => some (mxWord 0x248#10 x acc 0#4 0#4 0#4 ks1 ks2 0#5 fs.bits false false 0#9)
  | .rinit d a p aux fs => some (ryWord 0x280#10 d a 0#9 p aux fs.bits 0#6 0#2 0#9)
  | .rbox d a b p fs => some (ryWord 0x281#10 d a b p 0#4 fs.bits 0#6 0#2 0#9)
  | .rtri d a b buf p fs => some (ryWord 0x282#10 d a b p 0#4 fs.bits 0#6 buf 0#9)
  | .mdec a b t buf p fs => some (ryWord 0x288#10 0#9 a b p 0#4 fs.bits t buf 0#9)
  | .tbread d a buf p fs => some (ryWord 0x289#10 d a 0#9 p 0#4 fs.bits 0#6 buf 0#9)
  | .mpatch d a b t p fs => some (ryWord 0x28A#10 d a b p 0#4 fs.bits t 0#2 0#9)
  | .mstatBuf d buf p fs => some (ryWord 0x28B#10 d 0#9 0#9 p 0#4 fs.bits 0#6 buf 0#9)
  | .mstatFord d a t p fs => some (ryWord 0x28B#10 d a 0#9 p 0#4 fs.bits t 0#2 1#9)
  | .raster d a t p fs => some (ryWord 0x290#10 d a 0#9 p 0#4 fs.bits t 0#2 0#9)
  | .send ch data p => some (chWord 0x2C0#10 ch data p 0#2)
  | .recv ch data p fs => some (chWord 0x2C1#10 ch data p fs.bits)
  | .peek ch data p fs => some (chWord 0x2C2#10 ch data p fs.bits)
  | .oopen seq dom dev tr => some (prWord 0x2D0#10 0#9 seq dom 0#4 0#4 0#2 (bit dev ++ bit tr ++ 0#2))
  | .oclose dom => some (prWord 0x2D1#10 0#9 0#9 dom 0#4 0#4 0#2 0#4)
  | .oenterAll key seq dom mr p fs => some (prWord 0x2D2#10 key seq dom p mr fs.bits 0#4)
  | .oenterPart key seq dom mr p fs => some (prWord 0x2D2#10 key seq dom p mr fs.bits 8#4)
  | .owait key seq dom mr p fs => some (prWord 0x2D3#10 key seq dom p mr fs.bits 0#4)
  | .owaitPart key seq dom mr p fs => some (prWord 0x2D3#10 key seq dom p mr fs.bits 8#4)
  | .oleave key dom p => some (prWord 0x2D4#10 key 0#9 dom p 0#4 0#2 0#4)
  | .oskip key seq dom p => some (prWord 0x2D5#10 key seq dom p 0#4 0#2 0#4)
  | .launch ka q => some (syWord 0x300#10 ka 0#8 0#8 0#2 0#4 0#8 (0#14 ++ q))
  | .glaunch ka kb q => some (syWord 0x301#10 ka kb 0#8 0#2 0#4 0#8 (0#14 ++ q))
  | .emit vd kb p fs => some (syWord 0x302#10 0#8 kb 0#8 fs.bits p 0#8 (0#7 ++ vd))
  | .commit vs p => some (syWord 0x303#10 0#8 0#8 0#8 0#2 p 0#8 (0#7 ++ vs))
  | .signal ka kb irq vec => some (syWord 0x304#10 ka kb 0#8 0#2 0#4 0#8 (bit irq ++ 0#4 ++ vec))
  | .waitg ka kb fs => some (syWord 0x305#10 ka kb 0#8 fs.bits 0#4 0#8 0#16)
  | .reorder ka kb key p => some (syWord 0x308#10 ka kb 0#8 0#2 p 0#8 (0#7 ++ key))
  | .role n => some (syWord 0x309#10 0#8 0#8 0#8 0#2 0#4 0#8 (0#14 ++ n))
  | .trap n => some (syWord 0x310#10 0#8 0#8 0#8 0#2 0#4 n 0#16)
  | .rett => some (syWord 0x311#10 0#8 0#8 0#8 0#2 0#4 0#8 0#16)
  | .cxsave ka kb kc fs => some (syWord 0x318#10 ka kb kc fs.bits 0#4 0#8 0#16)
  | .cxload ka kb kc fs => some (syWord 0x319#10 ka kb kc fs.bits 0#4 0#8 0#16)
  | .cxkill ka kb fs => some (syWord 0x31A#10 ka kb 0#8 fs.bits 0#4 0#8 0#16)
  | .clauseSelection _ _ => none
  | .starvationPromotion _ _ => none
  | .congestionLevelUpdate _ _ => none
  | .resultArrival _ => none
  | .channelEntryArrival _ => none
  | .channelCreditReturn _ => none
  | .channelStallBudget _ => none
  | .processionHomeRequest _ => none
  | .processionLeaveArrival _ => none
  | .processionAdmissionReturn _ => none
  | .processionStallBudget _ => none
  | .mwaitWake _ => none
  | .roleGrant _ => none
  | .reorderMove _ _ => none
  | .copyDelivery _ => none
  | .copyCompletion _ => none
  | .mloopKStep _ _ => none
  | .mstoreTileRead _ => none
  | .decoderServe _ _ => none
  | .walkStep _ _ => none
  | .streamHoldGrant _ => none
  | .rasterTriangle _ => none
  | .rasterComplete _ => none
  | .faultReply _ _ => none
  | .translationFlush _ _ => none
  | .uncorrectableError _ => none
  | .placementStep => none
  | .headReserving _ _ => none
  | .teamStart _ => none
  | .dependenceWordCheck _ _ => none
  | .gridCompletion _ => none
  | .rootProgramLaunch _ => none
  | .batchTimeout _ _ _ => none
  | .batchIdleClose _ _ _ => none
  | .graphCompletion _ _ => none
  | .hostInboxWrite _ _ _ => none
  | .hostBar2Access _ _ _ => none
  | .remoteRequestServe _ => none
  | .flitReceive _ _ => none
  | .negativeAcknowledgement _ _ => none
  | .linkDown _ => none
  | .parkedNotice _ => none
  | .remoteResponse _ => none
  | .remoteTimeout _ => none
  | .ucieLinkFailure => none
  | .xchgCountReceive _ => none
  | .xchgCountResend _ => none
  | .xchgReadyReceive _ => none
  | .xchgRowReceive _ => none
  | .xchgRowAck _ => none
  | .xchgDoneReceive _ => none
  | .xchgFailureReceive _ => none
  | .replayDivergence _ => none
  | .bootRomStart _ => none
  | .bootRetry => none
  | .tenantConfigWrite _ _ => none
  | .tenantStart _ => none
  | .attestationRequest _ => none
  | .monitorClear _ _ => none
  | .queueSample => none
  | .powerSample _ => none
  | .thermalShutdown _ => none
  | .accessPerformed _ => none
  | .correctedError _ => none

/-- Why a word is no instruction: step 1 or step 3 of R34. -/
inductive DecodeError where
  /-- The opcode is in no table of R55, or lies in 0x340 to 0x3FF. -/
  | unassignedOpcode
  /-- A reserved bit, an unused field or an undefined value. -/
  | badField
  deriving DecidableEq, Repr

/-- The opcode field (R41). -/
def opcodeOf (w : BitVec 64) : Nat := (f 54 10 w).toNat

/-- The fields of a word, by the range its opcode lies in. -/
def decodeFields (w : BitVec 64) : Option Instr :=
  let op := opcodeOf w
  if op = 0 then some .nop
  else if op < 0x100 then decodeValu op w
  else if op < 0x180 then decodeSalu op w
  else if op < 0x200 then decodeMem op w
  else if op < 0x240 then decodeAsync op w
  else if op < 0x280 then decodeMtx op w
  else if op < 0x2C0 then decodeRay op w
  else if op < 0x300 then decodeChan op w
  else decodeSys op w

/-- The decoder. A word decodes to the instruction whose fields it holds when that instruction is well formed and every
bit the instruction does not use is 0, which is to say when the instruction's own word is this word. -/
def decode (w : BitVec 64) : Except DecodeError Instr :=
  if assignedOpcode (opcodeOf w) then
    match decodeFields w with
    | some i => if i.wf && encode i == some w then .ok i else .error .badField
    | none => .error .badField
  else .error .unassignedOpcode

/-- The host's question: the instruction that the decoder reads from a word of nbits bits, the rest zero. Every
instruction of the Belhan is one 64-bit little-endian word (R3), so the numbering is the word's own. -/
def decodeTableWord (nbits w : Nat) : Option Instr :=
  if nbits ≤ 64 then
    match decode (BitVec.ofNat 64 (w % 2 ^ nbits)) with
    | .ok i => some i
    | .error _ => none
  else none

end Sys2Proof
end

