-- ==== Sys2Proof/Machine/State.lean ====
section
/-! DEFINITION. The state of one BH-4M module: everything the manual gives it, as plain data, and the state after reset.
A table indexed by a number is a list of (index, value) pairs in rising order that lists no default value (`SMap`). -/

namespace Sys2Proof.Machine

open Sys2Proof

/-- A sparse table in canonical form: indexes strictly rising, no default value listed. -/
abbrev SMap (β : Type) := List (Nat × β)

/-- Byte memory (Host.Cell); an unlisted address reads 0 (log entry 4). -/
abbrev Mem := List Host.Cell

/-! ## Clauses and paths (R12, R19, R31) -/

/-- The condition codes of a PC slot (R12). -/
structure Codes where
  z : Bool
  n : Bool
  c : Bool
  v : Bool
  deriving DecidableEq, Repr

/-- The engine classes of R31. -/
inductive EngineClass where
  | valu | salu | mem | async | mtx | ray | chan | sys
  deriving DecidableEq, Repr

/-- A clause header that has passed R32. -/
structure Header where
  cls : EngineClass
  count : Nat
  wait : BitVec 12
  flagA : Option Nat
  flagB : Option Nat
  gap : Nat
  giveWay : Bool
  deriving DecidableEq, Repr

/-- A clause as it was fetched when its slot began it (R33). -/
structure Clause where
  hdr : Header
  words : List W64
  deriving DecidableEq, Repr

/-- A path: program counter (header address and instruction index), mask, condition codes, token (R12). -/
structure Path where
  hdr : Nat
  ix : Nat
  mask : W32
  codes : Codes
  token : W64
  deriving DecidableEq, Repr

/-- A PC slot that holds a path. `clause` is the clause it has begun; `resumed` says that the next fetch resumes a
clause after RETT (R295); `notBefore` is the earliest clock of its next clause (R22, R128, R292); `giveWay`, `passed`
and `promoted` belong to R285 and R286. `offPipe` says that its begun clause has released its pipe and its issue slot and is to
take them again (R19, R28); `fetchWait` is the page that the fetch of its next clause is parked on, and whether the reply was
fatal (R303, R304). -/
structure Slot where
  path : Path
  clause : Option Clause
  resumed : Bool
  notBefore : Nat
  giveWay : Bool
  passed : Nat
  promoted : Option Nat
  offPipe : Bool
  fetchWait : Option (Nat × Bool)
  deriving DecidableEq, Repr

/-- An entry of the divergence stack (R127): a parked entry's program counter is its JOIN's label. -/
structure StackEntry where
  path : Path
  resumed : Bool
  parked : Bool
  deriving DecidableEq, Repr

/-- A join record (R127): its token, the parent token, how many of its sides are live, and whether one is parked. `lanes` are those of
the path that forked: all that its sides issue precedes what the path past its JOIN issues (R181). -/
structure JoinRecord where
  index : Nat
  token : W64
  parent : W64
  live : Nat
  parked : Bool
  lanes : W32
  deriving DecidableEq, Repr

/-! ## Registers and what is owed to them (R24, R25) -/

/-- A register that can be pending: v0 to v63, a register-stack entry, a scalar, a trap-bank register, a mask, a triangle
buffer. -/
inductive RegName where
  | v (n : Nat) | stack (n : Nat) | k (n : Nat) | bank (n : Nat) | m (n : Nat) | buf (n : Nat)
  deriving DecidableEq, Repr

/-- A pending mark, with the flag it waits for; none: no clause can clear it (R25). -/
structure Mark where
  reg : RegName
  flag : Option Nat
  deriving DecidableEq, Repr

/-- One register write that a result brings. -/
inductive RegWrite where
  | lane (reg : RegName) (ln : Nat) (x : W32)
  | k (n : Nat) (x : W64)
  | bank (n : Nat) (x : W64)
  | mask (n : Nat) (x : W32)
  | maskLane (n : Nat) (ln : Nat) (b : Bool)
  deriving DecidableEq, Repr

/-- What kind of operation owes a result: a load, an atomic or an MWAIT binds FENCE.acq (R178); LDD, LDT and an atomic
on M are sampled by the load monitor (R351). -/
inductive OwedKind where
  | load | localLoad | atomic | mainAtomic | mwait | copy | other
  deriving DecidableEq, Repr

/-- A result owed to a group (R24): the flag its arrival decrements, the destinations, the writes gathered so far, and
how many parts are still outstanding. -/
structure Owed where
  id : Nat
  gid : Nat
  seq : Nat
  kind : OwedKind
  flag : Option Nat
  dests : List RegName
  writes : List RegWrite
  parts : Nat
  issued : Nat
  deriving DecidableEq, Repr

/-- A return link (R17). -/
structure Link where
  ret : Nat
  shift : Nat
  extent : Nat
  deriving DecidableEq, Repr, Inhabited

/-- A lane's procession holding (R151, R156): the handle it was admitted under, key, number, entrant. -/
structure Holding where
  lane : Nat
  handle : W64
  key : W64
  seq : W32
  entrant : Nat
  deriving DecidableEq, Repr

/-- A triangle buffer (R242, R243): its status word and its 256 words. -/
structure TriBuf where
  status : W32
  words : SMap W32
  deriving DecidableEq, Repr

/-- A FENCE whose condition is not yet met (R178): the accesses it waits for have sequence numbers below `seq`; a `rel` at .sys
waits for those on host pages too, one at .team (`team`) only for MWAITs (R184). -/
structure FenceOpen where
  acq : Bool
  rel : Bool
  team : Bool
  sys : Bool
  seq : Nat
  deriving DecidableEq, Repr

/-- A trap, as the trap bank reports it (R291, R293). -/
structure TrapInfo where
  code : Nat
  sub : Nat
  lanes : Option W32
  addr : Nat
  deriving DecidableEq, Repr

/-- An entrant of an OENTER or OWAIT (R151): its lanes, and once its key's home has answered, whether it was admitted. -/
structure Entrant where
  id : Nat
  key : W64
  seq : W32
  lanes : W32
  answer : Option Bool
  deriving DecidableEq, Repr

/-- The space of a request: T of a team, module scratch, local main memory, host memory. -/
inductive Space where
  | t (team : Nat) | d | m | host
  deriving DecidableEq, Repr

/-- Why a group is parked. -/
inductive Park where
  /-- An instruction that is tested again when it comes up: SEND, RECV, PEEK, OSKIP before its request, SREL, ACQ, REL,
  REL.free, MZERO, MWRITE, MLOOP, WAITB, MDEC, LAUNCH, GLAUNCH, XCHG. -/
  | retry
  /-- BARWAIT: the barrier, the epoch waited for, and the fault its completion wrote. -/
  | barrier (addr : Nat) (epoch : Nat) (done : Option Nat)
  /-- BARINIT released the waiter with V = 1, C = 0 (R176). -/
  | barrierReleased
  /-- OENTER or OWAIT: its entrants, the lanes that held their key already, the handle. -/
  | procession (blocking : Bool) (ents : List Entrant) (held : W32) (handle : W64)
  /-- OSKIP with its request sent. -/
  | oskip (entrant : Nat) (handle : W64) (done : Bool)
  /-- EMIT in its graph's queue; `dead` when the graph is deadlocked. -/
  | emit (dead : Bool)
  /-- ROLE: draining, or waiting for its budget. -/
  | roleDrain (n : Nat)
  | roleGrant (n : Nat)
  /-- REORDER: arrived with its descriptor, key code, predicate and destination. -/
  | reorder (desc : W64) (key : VCode) (pred : W32) (ka : Nat)
  /-- An M access on a page that is not present or forbidden: pages waited for; the lanes a fatal reply failed. -/
  | page (write : Bool) (pages : List Nat) (fatal : List Nat)
  /-- An ATOM, RED or SIGNAL with lanes on another device: whether their translation there is being asked for, or their operations are
  being sent; lanes unanswered, lanes that failed, words returned; where the lanes here are to be performed; the lanes at other
  devices that are still to be performed, with the device and the place there that it gave. -/
  | remote (asking : Bool) (waiting failed : List Nat) (rets : List (Nat × Nat)) (places : List (Nat × Space × Nat))
    (far : List (Nat × Nat × Nat))
  deriving DecidableEq, Repr

/-- A parked group: the slot whose instruction parked it, since which clock, and why. -/
structure ParkRecord where
  slot : Nat
  since : Nat
  why : Park
  deriving DecidableEq, Repr

/-- Handler mode (R292, R293): the slot of the trapping path and the eight bank registers. -/
structure Handler where
  slot : Nat
  bank : List W64
  deriving DecidableEq, Repr

/-! ## Groups (R10) -/

/-- One resident group. `restart` is the clock at which its stall budgets last started again (R146, R306). `vregs` holds element (register, lane) of v0–v63 at 32·register + lane and of register-stack
entry i at 32·(64 + i) + lane. -/
structure Group where
  tenant : Nat
  team : Nat
  index : Nat
  core : Nat
  position : Nat
  placed : Nat
  priority : Nat
  vregs : SMap W32
  window : Nat
  extent : Nat
  resBase : Nat
  budget : Nat
  regArea : Nat
  progArea : Nat
  lBase : Nat
  links : List Link
  resLinks : Nat
  kregs : SMap W64
  mregs : SMap W32
  flags : SMap Nat
  marks : List Mark
  slot0 : Option Slot
  slot1 : Option Slot
  fflags : BitVec 5
  near : List Nat
  role : Nat
  batch : BitVec 16
  launched : W32
  joins : List JoinRecord
  forkSerial : Nat
  stack : List StackEntry
  park : Option ParkRecord
  handler : Option Handler
  fences : List FenceOpen
  holdings : List Holding
  bufs : SMap TriBuf
  restart : Nat
  deriving DecidableEq, Repr

/-! ## Teams and grids (R120, R161, R173, R195) -/

/-- A D window (R162). -/
structure Window where
  base : Nat
  size : Nat
  write : Bool
  deriving DecidableEq, Repr

/-- A tensor descriptor (R196), kept as its 64 bytes read whole. -/
structure Tensor where
  space : Nat
  format : Nat
  rank : Nat
  flags : Nat
  device : Nat
  base : Nat
  ext : List Nat
  strides : List Nat
  scaleBase : Nat
  scaleStrides : List Nat
  deriving DecidableEq, Repr

/-- A group's last arrival at a barrier: its epoch, and the fault once that phase has completed (R174, R176). -/
structure Arrival where
  gid : Nat
  epoch : Nat
  done : Option Nat
  deriving DecidableEq, Repr

/-- A registered barrier (R173). `late` counts the arrivals still to come of the phase that a fault completed last: they count against
the next phase. -/
structure Barrier where
  addr : Nat
  epoch : Nat
  fault : Nat
  quota : Nat
  due : Nat
  owed : Nat
  landed : Nat
  arrivals : List Arrival
  late : Nat
  deriving DecidableEq, Repr

/-- A declared role (R124). -/
structure Role where
  number : Nat
  budget : Nat
  entry : Nat
  deriving DecidableEq, Repr

/-- An entry of a receiving queue (R141). -/
abbrev ChanEntry := List W32

/-- A team. `queues` holds queue q of side d of group g at 64·g + 8·d + q; `credits` holds the credits group g has for
direction d, queue q, at the same index, and lists only counts other than 4 (R142). -/
structure Team where
  tenant : Nat
  grid : Nat
  index : Nat
  cores : List Nat
  threads : Nat
  tPerCore : Nat
  tmem : Mem
  windows : List Window
  tensors : SMap Tensor
  barriers : List Barrier
  roles : List Role
  started : Bool
  placedAt : Nat
  live : List Nat
  gids : List Nat
  queues : SMap (List ChanEntry)
  credits : SMap Nat
  node : Option (Nat × Nat)
  deriving DecidableEq, Repr

/-- A word address (R268). -/
inductive WordAddr where
  | none | d (a : Nat) | m (a : Nat)
  deriving DecidableEq, Repr

/-- A checked launch block with its argument block (R268, R269). -/
structure LaunchBlock where
  entry : Nat
  completion : WordAddr
  dependence : WordAddr
  depValue : Nat
  threads : Nat
  ports : Bool
  role : Nat
  budget : Nat
  regArea : Nat
  gx : Nat
  gy : Nat
  tPerCore : Nat
  progArea : Nat
  windows : List Window
  params : List (Nat × W64)
  tensors : List (Nat × Tensor)
  roles : List Role
  deriving DecidableEq, Repr

/-- What stays open to others while a head is reserving (R272): free positions per core as a mask, free registers per
partition, free T bytes per core, as they stood when it began. -/
structure Reserve where
  positions : SMap Nat
  registers : SMap Nat
  tbytes : SMap Nat
  deriving DecidableEq, Repr

/-- A grid, queued or placed (R270, R274). `serial` is its number in the almanac (R311); `parkedOn` and `fatal` concern
the page of its dependence or completion word. -/
structure Grid where
  tenant : Nat
  queue : Nat
  block : LaunchBlock
  graph : Option (Nat × Nat)
  isRoot : Bool
  placedTeams : Nat
  liveTeams : List Nat
  depReady : Bool
  passedOver : Nat
  reserve : Option Reserve
  serial : Nat
  parkedOn : Option Nat
  fatal : Bool
  deriving DecidableEq, Repr

/-! ## Graphs (R275 to R282) -/

/-- A closed batch that awaits placement, or the open one of a node: its records' slot addresses in order. -/
structure Batch where
  node : Nat
  records : List Nat
  deriving DecidableEq, Repr

structure GraphNode where
  block : LaunchBlock
  recordSize : Nat
  batch : Nat
  timeout : Nat
  openRecords : List Nat
  openedTick : Nat
  deriving DecidableEq, Repr

/-- An allocated reservoir slot (R278): its emitter, its node, and whether it has been committed. -/
structure Reserved where
  slot : Nat
  gid : Nat
  node : Nat
  committed : Bool
  deriving DecidableEq, Repr

structure Graph where
  slot : Nat
  generation : Nat
  queue : Nat
  entry : Nat
  nodes : List GraphNode
  slots : Nat
  base : Nat
  completion : WordAddr
  reserved : List Reserved
  closed : List Batch
  emitQueue : List Nat
  entryEnded : Bool
  deadlocked : Bool
  killedNode : Option Nat
  batches : Nat
  final : Option W32
  waiter : Option Nat
  parkedOn : Option Nat
  fatal : Bool
  deriving DecidableEq, Repr

/-! ## Processions (R148 to R158) -/

structure Domain where
  opened : Bool
  generation : BitVec 16
  device : Bool
  die : Nat
  trap : Bool
  base : W32
  deriving DecidableEq, Repr

/-- A request waiting at a key's home; `since` is the clock of its issue (R351). -/
structure KeyWaiter where
  entrant : Nat
  gid : Nat
  seq : W32
  lanes : W32
  skip : Bool
  since : Nat
  deriving DecidableEq, Repr

/-- A key's entry at its home (R150, R152): next expected, the holder (entrant, group), the waiting requests. -/
structure KeyEntry where
  tenant : Nat
  domain : Nat
  key : W64
  slice : Nat
  overflow : Bool
  next : W32
  holder : Option (Nat × Nat)
  waiting : List KeyWaiter
  deriving DecidableEq, Repr

/-- What a leave releases (R153, R185): its group's team and core, and the requests that precede it in its path. -/
structure Released where
  team : Nat
  core : Nat
  after : List Nat
  deriving DecidableEq, Repr

/-- A message between a group and a key's home. -/
inductive ProcMsg where
  | request (tenant domain : Nat) (key : W64) (w : KeyWaiter) (blocking : Bool)
  | leave (tenant domain : Nat) (key : W64) (entrant gid seq : Nat) (r : Released)
  | answer (gid entrant : Nat) (admitted : Bool)
  deriving DecidableEq, Repr

/-! ## Memory requests (R171, R172) -/

/-- What a request does at its execution point. An MWAIT that waits at its home has captured, once a write made the word
differ, the value `seen` (R177). -/
inductive ReqKind where
  | load (w : Width) (data : RegName)
  | store (w : Width)
  | atomic (op : AtomOp) (wide : Bool) (ret : Option (RegName × RegName))
  | mwait (wide : Bool) (expected : Nat) (data : RegName) (waiting : Bool) (seen : Option Nat)
  deriving DecidableEq, Repr

/-- One lane's part of a request: address at the execution point, operands; a load's `y` is the offset of the register it
fills. -/
structure LaneReq where
  lane : Nat
  addr : Nat
  x : Nat
  y : Nat
  deriving DecidableEq, Repr

/-- For which agents a request counts as performed though it is not (R184, R185): a later request of such an agent to the same
line waits behind it. Its own group's path; its team's groups; its die's; every agent of the module. -/
inductive Reach where
  | own | team | die | dev
  deriving DecidableEq, Repr

/-- A request of one instruction to one line of one slice or T bank row (R171), in order of issue. `agent` names its group in the almanac
(R311); `path` holds the lanes of the paths whose later accesses it precedes, and `after` the requests that precede it (R181); `port` is the source port; `owed` is the result it contributes to, if any; `arrived` orders it in its
bank's queue once it stands there (R172); `held` is the word that an atomic on M has read and not yet replaced (R189). -/
structure Req where
  id : Nat
  gid : Nat
  tenant : Nat
  team : Nat
  core : Nat
  agent : Nat
  path : W32
  after : List Nat
  reach : Reach
  seq : Nat
  port : Nat
  space : Space
  line : Nat
  kind : ReqKind
  lanes : List LaneReq
  active : W32
  owed : Option Nat
  arrived : Option Nat
  held : Option Nat
  deriving DecidableEq, Repr

/-! ## Copies (R199 to R209, R224) -/

inductive CopyKind where
  | copy | gather | scatter | route | mstore
  deriving DecidableEq, Repr

/-- One destination core of a copy: its number in the team, the core, and how many elements it has received (R205). -/
structure Member where
  n : Nat
  core : Nat
  pos : Nat
  deriving DecidableEq, Repr

/-- An accepted copy. `rows` gives for a gather or scatter the (source row, destination row, lane) of each row in
order; `data` holds the source elements read so far, each with its block's scale byte; `ahead` says that all are read
before any is delivered (R203, R209, R224); `out` holds ROUTE's output; `got` and `asking` are the units read from, and
the requests outstanding at, another device; `units` are the 8-byte source units that later elements lie in too, as they were read
(R190); `held` is the word that a reduction on M has read and not yet replaced, with its address (R189); `sent` is how many of the
next elements are on their way to another device; `after` are the requests that precede it in its path (R190); `owed` is the result that
brings the status word; `serial` names its group in the almanac (R311). -/
structure Copy where
  id : Nat
  gid : Nat
  serial : Nat
  tenant : Nat
  team : Nat
  core : Nat
  kind : CopyKind
  seq : Nat
  after : List Nat
  src : Tensor
  dst : Tensor
  dst2 : Tensor
  srcC : List Nat
  dstC : List Nat
  box : List Nat
  op : Nat
  fill : Nat
  barrier : Option Nat
  multi : Bool
  members : List Member
  dropped : Nat
  rows : List (Nat × Nat × Nat)
  ahead : Bool
  data : List (Nat × Nat)
  out : Option (List Nat)
  total : Nat
  delivered : Nat
  state : Option (Nat × Nat)
  parkedOn : Option (Nat × Bool)
  fatal : Option Bool
  got : List (Nat × Bytes)
  asking : List Nat
  units : List (Nat × Nat)
  held : Option (Nat × Nat)
  sent : Nat
  tile : Option (Nat × Nat × Nat)
  tileRead : Bool
  owed : Nat
  batch : BitVec 16
  accepted : Nat
  deriving DecidableEq, Repr

/-! ## The matrix engine (R210 to R225) -/

structure OpSlot where
  claim : Option Nat
  team : Nat
  tenant : Nat
  full : Bool
  elems : Mem
  scales : Mem
  fill : List Nat
  deriving DecidableEq, Repr

structure Tile where
  owner : Option Nat
  groupSide : Bool
  acc : SMap W32
  deriving DecidableEq, Repr

/-- A queued job (R219, R220). `run` holds the ACC26 sums by 64·m + n. -/
structure Job where
  gid : Nat
  tile : Nat
  format : Nat
  m : Nat
  n : Nat
  k : Nat
  count : Nat
  step : Nat
  a : Nat
  b : Nat
  inc : Nat
  p : Nat
  ra : Bool
  rb : Bool
  since : Nat
  run : SMap (BitVec 26)
  owed : Nat
  issued : Nat
  deriving DecidableEq, Repr

structure MatArray where
  slots : SMap OpSlot
  tiles : SMap Tile
  jobs : List Job
  deriving DecidableEq, Repr

/-! ## Decoders and rasterisers (R228 to R250) -/

/-- A stream: tenant, space, base (R228). -/
structure Stream where
  tenant : Nat
  space : Nat
  base : Nat
  deriving DecidableEq, Repr

/-- The automaton's state (R233, R234). `units` are the 8-byte units of the stream that it has read and in which its next bits lie
too (R190, R192). -/
structure Walk where
  tri : Nat
  gateSet : Bool
  oppValid : Bool
  ga : Nat
  gb : Nat
  opp : Nat
  head : Nat
  valid : BitVec 16
  vid : SMap Nat
  q : SMap (List Nat)
  symPos : Nat
  verts : Nat
  units : List (Nat × Nat)
  deriving DecidableEq, Repr

/-- A decoder request (R236, R243): the buffer it fills. -/
structure DecReq where
  gid : Nat
  buf : Nat
  stream : Stream
  ford : Nat
  first : Nat
  count : Nat
  windows : List Window
  owed : Nat
  delivered : Nat
  fellBack : Bool
  joined : Bool
  origin : Nat
  parkedOn : Option Nat
  fatal : Bool
  deriving DecidableEq, Repr

/-- A ford-cache entry (R236): active when bound to an automaton. `head` is the stream header as the walk read it; `next` is the
first ford that the walk may still reach; `due` says that a triangle has been emitted and its capture not yet made (R234, R239), with the
windows of the requests that were joined. -/
structure FordEntry where
  wid : Nat
  stream : Stream
  origin : Nat
  generation : Nat
  head : Bytes
  next : Nat
  due : Option (List (List Window))
  active : Bool
  walk : Walk
  reqs : List DecReq
  used : Nat
  parkedOn : Option (Nat × Bool)
  fatal : Bool
  deriving DecidableEq, Repr

structure Decoder where
  queue : List DecReq
  entries : List FordEntry
  deriving DecidableEq, Repr

/-- An MPATCH between its issue and its completion (R245). `head` is the header once it has been read; `result` is
its status word while writes of it to another device are on their way. -/
structure PatchReq where
  gid : Nat
  head : Option Bytes
  stream : Stream
  vertex : Nat
  corr : List Int
  lanes : W32
  owed : Nat
  granted : Bool
  result : Option Nat
  windows : List Window
  parkedOn : Option (Nat × Bool)
  fatal : Bool
  deriving DecidableEq, Repr

/-- What is still to do for a triangle that the rasteriser has classified: a fragment group for a tile with its initial
vector registers, a tile's number to skip, or a small-path record (R248, R249). -/
inductive RasterWork where
  | fragment (tri seq : Nat) (key : W64) (regs : SMap W32)
  | skip (seq : Nat) (key : W64)
  | record (bytes : Bytes)
  deriving DecidableEq, Repr

/-- A RASTER in progress (R246 to R249). `head`, `next` and `due` are as in a ford-cache entry; `queue` is the priority of its
fragment groups. -/
structure Raster where
  id : Nat
  gid : Nat
  tenant : Nat
  die : Nat
  stream : Stream
  first : Nat
  count : Nat
  ford : Nat
  matrix : List W32
  width : Nat
  height : Nat
  target : Nat
  node : Nat
  graph : W64
  launch : LaunchBlock
  queue : Nat
  handle : Option W64
  walk : Option Walk
  head : Bytes
  next : Nat
  due : Bool
  windows : List Window
  done : Nat
  pending : List RasterWork
  tileSeq : List (W64 × Nat)
  grids : List Nat
  error : Option Nat
  lanes : W32
  owed : Nat
  parkedOn : Option (Nat × Bool)
  fatal : Bool
  deriving DecidableEq, Repr

/-! ## Faults, exchanges and the fabric (R302 to R304, R317 to R329) -/

/-- A page fault on which accesses are parked (R303): the page, counted in 64 KiB, and its size in those; the permission wanted;
how many accesses are parked on it; its record's slot once it has one. -/
structure PageFault where
  tenant : Nat
  page : Nat
  size : Nat
  write : Bool
  exec : Bool
  forbidden : Bool
  addr : Nat
  agent : Nat
  waiters : Nat
  record : Option Nat
  deriving DecidableEq, Repr

/-- A cached translation (R302). -/
structure Cached where
  tenant : Nat
  page : Nat
  entry : W64
  size : Nat
  deriving DecidableEq, Repr

/-- A message of an exchange or a remote request, as a flit carries it (R318); `check` asks whether an atomic's address translates at
its device (R170, log entry 73), `perform` is an atomic at the place that a check's answer gave, `reduce` is a bf16 reduction of one element (R324). -/
inductive FabricMsg where
  | read (addr len : Nat)
  | write (addr : Nat) (bytes : Bytes)
  | atomic (op : AtomOp) (wide : Bool) (addr : Nat) (x y : Nat)
  | check (op : AtomOp) (addr : Nat)
  | perform (op : AtomOp) (wide : Bool) (place : Nat) (x y : Nat)
  | reduce (addr : Nat) (x : Nat)
  | response (ok : Bool) (data : Nat)
  | count (tag : Nat) (counts : List Nat)
  | ready (tag : Nat) (ok : Bool)
  | row (tag : Nat) (index : Nat) (bytes : Bytes)
  | rowAck (tag : Nat) (refused : Bool)
  | done (tag : Nat) (rows : Nat)
  | parked
  | failure (tag : Nat)
  deriving DecidableEq, Repr

/-- A message with its addressing (R318). -/
structure Packet where
  src : Nat
  dest : Nat
  part : BitVec 16
  req : W32
  msg : FabricMsg
  deriving DecidableEq, Repr

/-- A packet that has arrived for this device and is not yet served: the page its access is parked on, with the permission and
whether the reply was fatal; whether a parked notice has gone out for it (R320). -/
structure Arrived where
  pkt : Packet
  park : Option (Nat × Bool × Bool)
  noticed : Bool
  deriving DecidableEq, Repr

/-- A Larune link (R319): the next sequence number it sends and the one it expects, the flits that are not acknowledged, those
that wait for room among them, and, as what the other end sees, every flit put on the link so far, in order. -/
structure LarLink where
  up : Bool
  sendSeq : BitVec 12
  expect : BitVec 12
  unacked : List Flit
  waiting : List Flit
  wire : List Flit
  replays : Nat
  lastIntact : Nat
  deriving DecidableEq, Repr

/-- Whose write is posted to another device: a record of the fault log; a unit on which its loss has no further effect (the almanac,
the save of a machine check); an operation, by its number. -/
inductive Poster where
  | log | unit | op (id : Nat)
  deriving DecidableEq, Repr

/-- What waits for a remote request's response (R320): a lane of an atomic, a copy, a unit that is read, a word that is
added to, a posted write of a tenant, or an exchange's peer. -/
inductive RemoteUse where
  | lane (gid lane : Nat) | copy (id : Nat) | unit (tenant va : Nat) | word (tenant va : Nat) | post (tenant : Nat) (who : Poster)
  | peer (xchg q : Nat)
  deriving DecidableEq, Repr

/-- What a response brought for a unit that a control unit or an accepting instruction reads on another device, or for a
word it adds to there; none: the request failed. -/
structure Fetched where
  tenant : Nat
  va : Nat
  word : Bool
  data : Option Bytes
  deriving DecidableEq, Repr

/-- A remote request outstanding (R320); `lost`: a posted write that could not be sent, which takes its fatal path at its next
time-out step. -/
structure Remote where
  id : Nat
  dest : Nat
  use : RemoteUse
  since : Nat
  stopped : Bool
  lost : Bool
  deriving DecidableEq, Repr

/-- One peer of an exchange (R327, R328). Outgoing: the counts of the rows it gets, their first row, its READY, how many rows have
been sent and acknowledged, whether a fatal fault cut them short, whether its DONE has gone out. Incoming: its COUNT, how many
rows have arrived and been written, whether they are refused, whether it has failed, its DONE, and the state of its
completion word once that is written. -/
structure Peer where
  dev : Nat
  mine : List Nat
  first : Nat
  readyIn : Option Bool
  sent : Nat
  acked : Nat
  cut : Bool
  doneSent : Bool
  counts : Option (List Nat)
  written : Nat
  refusing : Bool
  failed : Bool
  doneIn : Option Nat
  completed : Option Nat
  deriving DecidableEq, Repr

/-- An access of an exchange that is parked on a page: what it is for, the page, its permission, and whether the reply was
fatal. -/
structure XWait where
  key : Nat
  page : Nat
  write : Bool
  fatal : Bool
  deriving DecidableEq, Repr

/-- What an exchange's writes to another device's pages are: the row from peer q that is next in order, the received tensor, the
completion word of q with its state. -/
inductive XUse where
  | row (q : Nat) | received | done (q state : Nat)
  deriving DecidableEq, Repr

/-- Such writes, by their number, until all are performed; whether one has failed. -/
structure XPost where
  who : Nat
  use : XUse
  bad : Bool
  deriving DecidableEq, Repr

/-- An accepted XCHG (R325 to R329). `counted` says that every COUNT is in and READY has been sent; `capacity` that the rows do not
fit the receive tensor; `fatal` that a fatal fault occurred here. -/
structure Xchg where
  id : Nat
  gid : Nat
  tenant : Nat
  tag : Nat
  send : Tensor
  recv : Tensor
  received : Tensor
  completion : Tensor
  g : Nat
  me : Nat
  peers : List Peer
  counted : Bool
  capacity : Bool
  fatal : Bool
  waits : List XWait
  posts : List XPost
  owed : Nat
  batch : BitVec 16
  accepted : Nat
  deriving DecidableEq, Repr

/-! ## Tenants (R310, R350) -/

inductive TenantState where
  | absent | configured | running | frozen | saved
  deriving DecidableEq, Repr

/-- A health monitor (R351). -/
structure Monitor where
  min : W64
  max : W64
  count : W64
  sum : W64
  bins : SMap W32
  deriving DecidableEq, Repr

structure Monitors where
  live : Monitor
  copied : Monitor
  deriving DecidableEq, Repr

/-- An almanac entry waiting to be forced in replay (R311, R312). -/
structure AlmanacEntry where
  ty : Nat
  agent : Nat
  key : Nat
  payload : Bytes
  deriving DecidableEq, Repr

/-- An operation that replay keeps waiting (R312): the type and key of the entry it waits for, its owner's number, and since when. -/
structure AlmanacWait where
  ty : Nat
  key : Nat
  owner : Nat
  since : Nat
  deriving DecidableEq, Repr

structure Almanac where
  state : Nat
  written : Nat
  replay : List AlmanacEntry
  orders : SMap Nat
  waits : List AlmanacWait
  deriving DecidableEq, Repr

/-- `earlyCounts` are COUNTs that wait for their XCHG (R327); `endedCounts` names, by tag and device, the COUNTs still to come of
exchanges that a reset ended (R328). -/
structure Tenant where
  state : TenantState
  config : TenantConfig
  queues : SMap (List Nat)
  graphs : List Graph
  graphGens : SMap Nat
  domains : SMap Domain
  traps : SMap W64
  copyMon : Monitors
  loadMon : Monitors
  procMon : Monitors
  chanMon : Monitors
  queueMon : Monitors
  trapsCopied : SMap W64
  nextSerial : Nat
  /-- The records written whose reply has not been seen: what stands for their words where the log lies on another device (R303). -/
  logWaits : List Nat
  almanac : Almanac
  earlyCounts : List Packet
  endedCounts : List (Nat × Nat)
  msix : List Nat
  msixTable : Mem
  gridSerial : Nat
  killsPending : List (Nat × Bytes)
  deriving DecidableEq, Repr

/-- A context saved by CXSAVE or by a machine check (R306, R307): everything of the tenant that the area holds. -/
structure SavedContext where
  tenant : Nat
  area : Nat
  state : Nat
  groups : SMap Group
  teams : SMap Team
  copies : List Copy
  arrays : SMap MatArray
  reqs : List Req
  owed : List Owed
  decoder : List DecReq
  patches : List PatchReq
  rasters : List Raster
  graphs : List Graph
  deriving DecidableEq, Repr

/-- A CXSAVE or CXLOAD whose status is owed (R309): the tenant that issued it, the tenant it acts on, the area and its size in
bytes, and the area's page that it is parked on; `taken` says that the context has been taken and its area's writes to another device
are under way. -/
structure CxOp where
  owed : Nat
  save : Bool
  issuer : Nat
  tenant : Nat
  area : Nat
  size : Nat
  taken : Bool
  parkedOn : Option Nat
  fatal : Bool
  deriving DecidableEq, Repr

/-! ## The module -/

/-- Where boot stands (R343): not begun, on its way on a port, failed on a port and waiting to retry, or booted. -/
inductive BootState where
  | inReset | trying (port : Nat) | failed (port : Nat) (at_ : Nat) | booted
  deriving DecidableEq, Repr

/-- The fabric configuration (R317). -/
structure FabricConfig where
  dev : Nat
  routes : List (Nat × Nat)
  timeout : Nat
  deriving DecidableEq, Repr

/-- An entry sent and not yet in its queue, or a credit on its way back (R142). -/
structure ChanFlight where
  team : Nat
  index : Nat
  entry : ChanEntry
  due : Nat
  deriving DecidableEq, Repr

/-- A partition's scheduler state beyond its groups (R286, R287). -/
structure Partition where
  rotation : List Nat
  promotions : Nat
  deriving DecidableEq, Repr

/-- A turn: how many clocks pass before it, and the step taken. The machine is deterministic; which of the steps that
may happen next does happen is read from the state's agenda (log entry 1). -/
inductive Act where
  | issue (gid : Nat) (slot : Nat)
  | event (i : Instr)
  deriving DecidableEq, Repr

structure Turn where
  dt : Nat
  act : Act
  deriving DecidableEq, Repr

end Sys2Proof.Machine

namespace Sys2Proof.Machine

open Sys2Proof

/-- The two variants (R1): BH-4M has 128 GiB of main memory, BH-4M-256 has 256 GiB. -/
inductive Variant where
  | bh4m | bh4m256
  deriving DecidableEq, Repr

/-- The state of the module. -/
structure State where
  /-- Clocks of the core clock; a core's cycle counter is how far this is past the core's start (R95). -/
  now : Nat
  agenda : List Turn
  focus : Nat × Nat
  /-- The next identifiers and the next access sequence number: the model's own bookkeeping. -/
  nextId : Nat
  nextSeq : Nat
  /-- How many free values have been drawn (the model's own). -/
  draws : Nat
  scratch : Mem
  main : Mem
  hostMem : Mem
  groups : SMap Group
  teams : SMap Team
  grids : SMap Grid
  tenants : SMap Tenant
  partitions : SMap Partition
  congestion : SMap Nat
  /-- Clocks at which the cores left reset (R95). -/
  coreStart : SMap Nat
  /-- For each bank of each slice, the port it served last and the clock at which it did (R172). -/
  banks : SMap (Nat × Nat)
  reqs : List Req
  owed : List Owed
  sends : List ChanFlight
  returns : List ChanFlight
  keys : List KeyEntry
  procMsgs : List ProcMsg
  copies : List Copy
  arrays : SMap MatArray
  decoders : SMap Decoder
  patches : List PatchReq
  rasters : List Raster
  faults : List PageFault
  cache : List Cached
  xchgs : List Xchg
  resends : List (Nat × Nat × Nat)
  fabric : FabricConfig
  links : SMap LarLink
  rx : List Arrived
  /-- Flits of messages whose other flits have not come (R318). -/
  parts : List Flit
  remotes : List Remote
  fetched : List Fetched
  saved : List SavedContext
  /-- What every save so far put into its area, the latest first: the model's own (log entry 8). -/
  images : List SavedContext
  cxops : List CxOp
  hostReplies : List (Option Bytes)
  rrTenant : Nat
  boot : BootState
  measure : Bytes
  firmware : Bytes
  partDigest : Bytes
  boots : Nat
  revoked : List Bool
  /-- The 16 MiB of control-core SRAM, and the offset at which the firmware was entered (R343). -/
  sram : Mem
  entry : Option Nat
  reports : List Bytes
  mailbox : Option Nat
  powerLimit : Nat
  clockMHz : Nat
  /-- The period of 1,024 clocks in which the launch queues were last sampled (R351). -/
  sampled : Nat
  coolSince : Nat
  /-- When power was last read (R353). -/
  powerRead : Nat
  /-- The model's own: divergence areas of groups, by address, with the records and the stack that they hold, as far as `scratch` has
  not their bytes yet (R127, log entry 88). -/
  forkAreas : SMap (List JoinRecord × List StackEntry)
  diesInReset : Bool
  ucieUp : Bool
  corrected : SMap W64
  /-- Which part the module is: fixed, and no step changes it. -/
  variant : Variant
  deriving DecidableEq, Repr

/-- Why the machine stops. -/
inductive Fault where
  /-- An encoded instruction was to issue but the focus names no live program-counter slot: raised by every meaning of an
  encoded instruction. The manual gives an instruction no effect without an issuing slot, so stopping is safe. -/
  | noIssuer
  deriving DecidableEq, Repr

/-- Why the model gives no meaning. -/
inductive Refusal where
  /-- Raised by an arm of `exec` whose instruction has no meaning in the model; safe, since nothing follows from it. -/
  | notModelled (mnemonic : String)
  deriving DecidableEq, Repr

/-- The module right after reset: nothing resident, memory unwritten, the compute dies held in reset and boot not begun
(R343). The values that no rule gives are named in log entry 6. -/
def State.reset : State :=
  { now := 0, agenda := [], focus := (0, 0), nextId := 0, nextSeq := 0, draws := 0,
    scratch := [], main := [], hostMem := [], groups := [], teams := [], grids := [], tenants := [], partitions := [],
    congestion := [], coreStart := [], banks := [], reqs := [], owed := [], sends := [], returns := [], keys := [], procMsgs := [], copies := [],
    arrays := [], decoders := [], patches := [], rasters := [], faults := [], cache := [], xchgs := [], resends := [],
    fabric := ⟨0, [], 0⟩, links := [], rx := [], parts := [], remotes := [], fetched := [], saved := [], images := [], cxops := [], hostReplies := [], rrTenant := 0,
    boot := .inReset, measure := List.replicate 32 0, firmware := [], partDigest := [], boots := 0,
    revoked := [false, false, false, false], sram := [], entry := none, reports := [], mailbox := none, powerLimit := 1500, clockMHz := 1200, sampled := 0,
    coolSince := 0, powerRead := 0, forkAreas := [], diesInReset := true, ucieUp := true, corrected := [], variant := .bh4m }

end Sys2Proof.Machine
end

