-- ==== Sys2Proof/Machine/Map.lean ====
section
/-! DEFINITION. Sparse tables, byte memory and the bit and byte helpers that every other file uses. -/

namespace Sys2Proof.Machine

open Sys2Proof

/-- The value listed for an index. -/
def tfind {β : Type} : SMap β → Nat → Option β
  | [], _ => none
  | (k', v) :: m, k => if k = k' then some v else tfind m k

/-- The table with a value listed for an index, in rising order. -/
def tput {β : Type} : SMap β → Nat → β → SMap β
  | [], k, v => [(k, v)]
  | (k', v') :: m, k, v =>
    if k < k' then (k, v) :: (k', v') :: m
    else if k = k' then (k, v) :: m
    else (k', v') :: tput m k v

/-- The table with nothing listed for an index. -/
def tdel {β : Type} (m : SMap β) (k : Nat) : SMap β := m.filter fun p => p.1 != k

/-- What the table holds at an index: the default where nothing is listed. -/
def tget {β : Type} (d : β) (m : SMap β) (k : Nat) : β := (tfind m k).getD d

/-- The table with a new value at an index, in canonical form. -/
def tset {β : Type} [DecidableEq β] (d : β) (m : SMap β) (k : Nat) (v : β) : SMap β :=
  if v = d then tdel m k else tput m k v

/-- The canonical form: indexes strictly rising and no default listed. -/
def tcanon {β : Type} [DecidableEq β] (d : β) : SMap β → Bool
  | [] => true
  | [(_, v)] => decide (v ≠ d)
  | (k, v) :: (k', v') :: m => decide (v ≠ d) && decide (k < k') && tcanon d ((k', v') :: m)

/-- What an unlisted byte reads as (log entry 4). -/
def Memory.unwritten : Byte := 0

/-- The canonical form of a byte memory. -/
def Memory.wf (m : Mem) : Bool := tcanon Memory.unwritten m

/-- One byte of memory. -/
def readByte (m : Mem) (a : Nat) : Byte := tget Memory.unwritten m a

/-- Memory with one byte replaced. -/
def writeByte (m : Mem) (a : Nat) (b : Byte) : Mem := tset Memory.unwritten m a b

/-- n bytes at a, the least significant first (R3). -/
def readBytes (m : Mem) (a : Nat) : Nat → Bytes
  | 0 => []
  | n + 1 => readByte m a :: readBytes m (a + 1) n

/-- Bytes stored at a, the first at the lowest address. -/
def writeBytes (m : Mem) (a : Nat) : Bytes → Mem
  | [] => m
  | b :: bs => writeBytes (writeByte m a b) (a + 1) bs

/-- The number that little-endian bytes hold (R3). -/
def leNat : Bytes → Nat
  | [] => 0
  | b :: bs => b.toNat + 256 * leNat bs

/-- The n low bytes of a number, little-endian (R3). -/
def leBytes : Nat → Nat → Bytes
  | 0, _ => []
  | n + 1, x => BitVec.ofNat 8 (x % 256) :: leBytes n (x / 256)

/-- The n-byte little-endian number at a. -/
def readNat (m : Mem) (a n : Nat) : Nat := leNat (readBytes m a n)

/-- Memory with an n-byte little-endian number stored at a. -/
def writeNat (m : Mem) (a n x : Nat) : Mem := writeBytes m a (leBytes n x)

/-- The field [lo + n − 1 : lo] of a number (R3). -/
def fld (x lo n : Nat) : Nat := x / 2 ^ lo % 2 ^ n

/-- 0, 1, …, n − 1. -/
def upto (n : Nat) : List Nat := List.range n

/-- The 32 lanes (R3). -/
def lanes : List Nat := List.range 32

/-- Bit n of a lane mask stands for lane n (R3). -/
def laneIn (m : W32) (l : Nat) : Bool := m.getLsbD l

/-- The active lanes of a mask in ascending order. -/
def lanesOf (m : W32) : List Nat := lanes.filter (laneIn m)

/-- The mask of a list of lanes. -/
def maskOf (ls : List Nat) : W32 := ls.foldl (fun m l => m ||| BitVec.ofNat 32 (2 ^ l)) 0

/-- How many bits of a number below w are 1. -/
def popcount : Nat → Nat → Nat
  | 0, _ => 0
  | w + 1, x => x % 2 + popcount w (x / 2)

/-- The first element of a list for which a test holds, with its index. -/
def findIx {α : Type} (p : α → Bool) : List α → Nat → Option (Nat × α)
  | [], _ => none
  | x :: xs, n => if p x then some (n, x) else findIx p xs (n + 1)

/-- A list without its element n. -/
def removeIx {α : Type} : List α → Nat → List α
  | [], _ => []
  | _ :: xs, 0 => xs
  | x :: xs, n + 1 => x :: removeIx xs n

/-- A list with every element for which a test holds replaced. -/
def updateWhere {α : Type} (p : α → Bool) (h : α → α) (xs : List α) : List α :=
  xs.map fun x => if p x then h x else x

/-- A stable insertion sort by a number. -/
def insertBy {α : Type} (key : α → Nat) (x : α) : List α → List α
  | [] => [x]
  | y :: ys => if key x < key y then x :: y :: ys else y :: insertBy key x ys

/-- Sorted stably by a key, ascending. -/
def sortBy {α : Type} (key : α → Nat) (xs : List α) : List α :=
  xs.foldl (fun acc x => insertBy key x acc) []

end Sys2Proof.Machine
end

