-- ==== Sys2Proof/Machine/Shake.lean ====
section
/-! DEFINITION. SHAKE256 and the signatures SLH-DSA-SHAKE-256f built on it (R343 to R348), which the spec names and does not lay out
(log entries 7 and 82). -/

namespace Sys2Proof.Machine

open Sys2Proof

/-! ## The permutation -/

/-- A lane of a state, by column and row; lane (x, y) stands at x + 5y. -/
def laneAt (a : List W64) (x y : Nat) : W64 := a.getD (x % 5 + y % 5 * 5) 0

/-- A state from what its lanes are. -/
def ofLanes (h : Nat → Nat → W64) : List W64 := (upto 25).map fun i => h (i % 5) (i / 5)

/-- The walk over the lanes other than (0, 0), each with its turn: step t turns by (t + 1)(t + 2) / 2. -/
def turnWalk : Nat → Nat × Nat → List ((Nat × Nat) × Nat)
  | 0, _ => []
  | n + 1, (x, y) => ((x, y), (25 - (n + 1)) * (25 - n) / 2 % 64) :: turnWalk n (y, (2 * x + 3 * y) % 5)

def turns : List ((Nat × Nat) × Nat) := turnWalk 24 (1, 0)

def turnOf (x y : Nat) : Nat := ((turns.find? fun p => p.1 == (x, y)).map fun p => p.2).getD 0

/-- The shift register that yields the bits of the round constants. -/
def nextShift (r : Nat) : Nat := if 128 ≤ r then (2 * r) ^^^ 0x171 else 2 * r

def shiftBits : Nat → Nat → List Bool
  | 0, _ => []
  | n + 1, r => (r % 2 == 1) :: shiftBits n (nextShift r)

/-- The constant of each round: bit 2^j − 1 is the register's bit 7·round + j. -/
def roundWords : List W64 :=
  let bits := shiftBits 168 1
  (upto 24).map fun k => (upto 7).foldl
    (fun w j => if bits.getD (7 * k + j) false then w ||| BitVec.ofNat 64 (2 ^ (2 ^ j - 1)) else w) 0

/-- Each lane takes in the parities of a column on its left, and of the one on its right turned by one. -/
def mixColumns (a : List W64) : List W64 :=
  let par := fun (x : Nat) => laneAt a x 0 ^^^ laneAt a x 1 ^^^ laneAt a x 2 ^^^ laneAt a x 3 ^^^ laneAt a x 4
  let add := (upto 5).map fun x => par (x + 4) ^^^ (par (x + 1)).rotateLeft 1
  ofLanes fun x y => laneAt a x y ^^^ add.getD x 0

/-- Lane (x, y), turned, moves to (y, 2x + 3y); so what comes to (x, y) stood at (x + 3y, x). -/
def turnLanes (a : List W64) : List W64 :=
  ofLanes fun x y => (laneAt a (x + 3 * y) x).rotateLeft (turnOf ((x + 3 * y) % 5) x)

/-- Within each row. -/
def mixRows (a : List W64) : List W64 := ofLanes fun x y => laneAt a x y ^^^ (~~~(laneAt a (x + 1) y) &&& laneAt a (x + 2) y)

/-- The 24 rounds. -/
def permute (a : List W64) : List W64 :=
  roundWords.foldl (fun a w => match mixRows (turnLanes (mixColumns a)) with
    | l :: ls => (l ^^^ w) :: ls
    | [] => []) a

/-! ## The sponge -/

/-- A message and what follows it up to whole blocks of 136 bytes. -/
def paddedMessage (b : Bytes) : Bytes :=
  match 135 - b.length % 136 with
  | 0 => b ++ [0x9F]
  | n + 1 => b ++ 0x1F :: (List.replicate n 0 ++ [0x80])

/-- A block added to a state's first 17 lanes. -/
def addBlock (a : List W64) (b : Bytes) : List W64 :=
  ((upto 25).zip a).map fun p => p.2 ^^^ BitVec.ofNat 64 (leNat ((b.drop (8 * p.1)).take 8))

/-- Blocks taken in, one after the other. -/
def soak : Nat → Bytes → List W64 → List W64
  | 0, _, a => a
  | n + 1, b, a => soak n (b.drop 136) (permute (addBlock a (b.take 136)))

/-- Blocks of output. -/
def wring : Nat → List W64 → Bytes
  | 0, _ => []
  | n + 1, a => ((a.take 17).flatMap fun l => leBytes 8 l.toNat) ++ (if n = 0 then [] else wring n (permute a))

/-- SHAKE256 of a message, taken to n bytes. -/
def shakeTo (n : Nat) (b : Bytes) : Bytes :=
  let m := paddedMessage b
  (wring ((n + 135) / 136) (soak (m.length / 136) m (List.replicate 25 0))).take n

/-- SHAKE256 taken to 32 bytes. -/
def shake256 (b : Bytes) : Bytes := shakeTo 32 b

/-! ## Signatures: hashes with an address -/

/-- A big-endian number of n bytes, and back. -/
def beBytes (n x : Nat) : Bytes := (leBytes n x).reverse
def beNat (b : Bytes) : Nat := leNat b.reverse

/-- The address that makes each use of the hash a function of its own. -/
structure HashAddress where
  layer : Nat
  tree : Nat
  ty : Nat
  pair : Nat
  hi : Nat
  lo : Nat
  deriving DecidableEq, Repr

def HashAddress.bytes (a : HashAddress) : Bytes :=
  beBytes 4 a.layer ++ beBytes 12 a.tree ++ beBytes 4 a.ty ++ beBytes 4 a.pair ++ beBytes 4 a.hi ++ beBytes 4 a.lo

/-- The hash of the scheme: the public seed, the address, the input. -/
def hashAt (seed : Bytes) (a : HashAddress) (m : Bytes) : Bytes := shake256 (seed ++ a.bytes ++ m)

/-- The most significant w-bit digits of a number of n digits. -/
def digits (w n x : Nat) : List Nat := (upto n).map fun i => x / 2 ^ (w * (n - 1 - i)) % 2 ^ w

/-! ### Trees: any node, the path to a leaf, and the root that a path leads to -/

def treeNode (leaf : Nat → Bytes) (up : Nat → Nat → Bytes → Bytes) : Nat → Nat → Bytes
  | 0, i => leaf i
  | z + 1, i => up (z + 1) i (treeNode leaf up z (2 * i) ++ treeNode leaf up z (2 * i + 1))

def treePath (leaf : Nat → Bytes) (up : Nat → Nat → Bytes → Bytes) (h i : Nat) : Bytes :=
  (upto h).flatMap fun z => treeNode leaf up z (i / 2 ^ z ^^^ 1)

def pathRoot (up : Nat → Nat → Bytes → Bytes) : Nat → Nat → Nat → Bytes → Bytes → Bytes
  | 0, _, _, x, _ => x
  | n + 1, z, i, x, b =>
    let y := b.take 32
    pathRoot up n (z + 1) (i / 2) (up (z + 1) (i / 2) (if i % 2 = 0 then x ++ y else y ++ x)) (b.drop 32)

/-! ### One-time keys: 67 chains of 15 steps -/

/-- The chain lengths of a 32-byte message: its 64 digits, and the three of what they fall short by. -/
def chainLengths (m : Bytes) : List Nat :=
  let ds := digits 4 64 (beNat m)
  ds ++ digits 4 3 ((ds.map fun d => 15 - d).sum)

/-- A chain's value n steps on from step k. -/
def chainOn (seed : Bytes) (a : HashAddress) (c : Nat) : Nat → Nat → Bytes → Bytes
  | 0, _, x => x
  | n + 1, k, x => chainOn seed a c n (k + 1) (hashAt seed { a with ty := 0, hi := c, lo := k } x)

/-- Where a chain begins. -/
def chainStart (seed secret : Bytes) (a : HashAddress) (c : Nat) : Bytes := hashAt seed { a with ty := 5, hi := c, lo := 0 } secret

/-- The public key that 67 chain ends make. -/
def chainsKey (seed : Bytes) (a : HashAddress) (ends : Nat → Bytes) : Bytes :=
  hashAt seed { a with ty := 1, hi := 0, lo := 0 } ((upto 67).flatMap ends)

def onceKey (seed secret : Bytes) (a : HashAddress) : Bytes :=
  chainsKey seed a fun c => chainOn seed a c 15 0 (chainStart seed secret a c)

def onceSign (seed secret : Bytes) (a : HashAddress) (m : Bytes) : Bytes :=
  ((upto 67).zip (chainLengths m)).flatMap fun p => chainOn seed a p.1 p.2 0 (chainStart seed secret a p.1)

def onceKeyOf (seed : Bytes) (a : HashAddress) (m sig : Bytes) : Bytes :=
  let ls := chainLengths m
  chainsKey seed a fun c => chainOn seed a c (15 - ls.getD c 0) (ls.getD c 0) ((sig.drop (32 * c)).take 32)

/-! ### The 17 layers of trees of height 4 -/

/-- An inner node of a tree of the layers. -/
def layerUp (seed : Bytes) (a : HashAddress) (z i : Nat) (b : Bytes) : Bytes :=
  hashAt seed { a with ty := 2, pair := 0, hi := z, lo := i } b

def layerRoot (seed secret : Bytes) (a : HashAddress) : Bytes :=
  treeNode (fun i => onceKey seed secret { a with pair := i }) (layerUp seed a) 4 0

def layerSign (seed secret : Bytes) (a : HashAddress) (i : Nat) (m : Bytes) : Bytes :=
  onceSign seed secret { a with pair := i } m
    ++ treePath (fun i => onceKey seed secret { a with pair := i }) (layerUp seed a) 4 i

def layerRootOf (seed : Bytes) (a : HashAddress) (i : Nat) (m sig : Bytes) : Bytes :=
  pathRoot (layerUp seed a) 4 0 i (onceKeyOf seed { a with pair := i } m sig) (sig.drop (32 * 67))

/-- The signatures of the layers from one on, and the root that they lead to. -/
def layersSign (seed secret : Bytes) : Nat → Nat → Nat → Nat → Bytes → Bytes
  | 0, _, _, _, _ => []
  | n + 1, layer, tree, leaf, m =>
    let a : HashAddress := ⟨layer, tree, 0, 0, 0, 0⟩
    layerSign seed secret a leaf m ++ layersSign seed secret n (layer + 1) (tree / 16) (tree % 16) (layerRoot seed secret a)

def layersRootOf (seed : Bytes) : Nat → Nat → Nat → Nat → Bytes → Bytes → Bytes
  | 0, _, _, _, m, _ => m
  | n + 1, layer, tree, leaf, m, sig =>
    layersRootOf seed n (layer + 1) (tree / 16) (tree % 16) (layerRootOf seed ⟨layer, tree, 0, 0, 0, 0⟩ leaf m (sig.take 2272))
      (sig.drop 2272)

/-! ### The 35 trees of height 9 that sign the digest -/

def forestLeaf (seed : Bytes) (a : HashAddress) (i : Nat) (x : Bytes) : Bytes := hashAt seed { a with ty := 3, hi := 0, lo := i } x

def forestUp (seed : Bytes) (a : HashAddress) (z i : Nat) (b : Bytes) : Bytes := hashAt seed { a with ty := 3, hi := z, lo := i } b

def forestSecret (seed secret : Bytes) (a : HashAddress) (i : Nat) : Bytes := hashAt seed { a with ty := 6, hi := 0, lo := i } secret

/-- The leaf of each tree that a digest chooses. -/
def forestLeaves (md : Bytes) : List Nat :=
  ((upto 35).zip (digits 9 35 (beNat md / 2 ^ 5))).map fun p => 512 * p.1 + p.2

def forestSign (seed secret : Bytes) (a : HashAddress) (md : Bytes) : Bytes :=
  (forestLeaves md).flatMap fun i =>
    forestSecret seed secret a i
      ++ treePath (fun j => forestLeaf seed a j (forestSecret seed secret a j)) (forestUp seed a) 9 i

def forestKeyOf (seed : Bytes) (a : HashAddress) (md sig : Bytes) : Bytes :=
  hashAt seed { a with ty := 4, hi := 0, lo := 0 }
    (((upto 35).zip (forestLeaves md)).flatMap fun p =>
      let b := sig.drop (320 * p.1)
      pathRoot (forestUp seed a) 9 0 p.2 (forestLeaf seed a p.2 (b.take 32)) (b.drop 32))

/-! ### Keys, signatures, verification -/

/-- A message with its empty context string. -/
def withContext (m : Bytes) : Bytes := 0 :: 0 :: m

/-- What a digest of 49 bytes selects: the forest's digest, the address of its tree, the leaf. -/
def digestParts (r key m : Bytes) : Bytes × Nat × Nat :=
  let d := shakeTo 49 (r ++ key ++ m)
  (d.take 40, beNat ((d.drop 40).take 8), beNat (d.drop 48) % 16)

/-- The public key of a 96-byte secret: the public seed, which is its last third, and the root of the top layer. -/
def publicKey (secret : Bytes) : Bytes :=
  let seed := (secret.drop 64).take 32
  seed ++ layerRoot seed (secret.take 32) ⟨16, 0, 0, 0, 0, 0⟩

/-- A signature of a message with a secret and 32 bytes of randomness. -/
def signWith (secret rand m : Bytes) : Bytes :=
  let m := withContext m
  let sk := secret.take 32
  let key := publicKey secret
  let seed := key.take 32
  let r := shake256 ((secret.drop 32).take 32 ++ rand ++ m)
  let (md, tree, leaf) := digestParts r key m
  let a : HashAddress := ⟨0, tree, 3, leaf, 0, 0⟩
  let forest := forestSign seed sk a md
  r ++ forest ++ layersSign seed sk 17 0 tree leaf (forestKeyOf seed a md forest)

/-- Whether a signature of 49,856 bytes verifies under a key of 64. -/
def verifies (key m sig : Bytes) : Bool :=
  let m := withContext m
  let seed := key.take 32
  let (md, tree, leaf) := digestParts (sig.take 32) key m
  let root := forestKeyOf seed ⟨0, tree, 3, leaf, 0, 0⟩ md ((sig.drop 32).take 11200)
  sig.length == 49856 && layersRootOf seed 17 0 tree leaf root (sig.drop 11232) == key.drop 32

end Sys2Proof.Machine
end

