-- ==== Sys2Proof/Machine/IntOps.lean ====
section
/-! DEFINITION. Integer arithmetic, logic, shifts and bit fields at the width of a type (R56, R57, R75, R80 to R89), on
the raw bits of a register. -/

namespace Sys2Proof.Machine

open Sys2Proof

/-- The width w of a type (R75). -/
def tyWidth : Ty → Nat
  | .s8 | .n8 | .e4m3 | .lns6 => 8
  | .s16 | .n16 | .f16 | .bf16 => 16
  | .s32 | .n32 | .f32 | .b32 => 32
  | .s64 | .n64 | .b64 => 64

/-- The raw number read as a two's complement number of width w. -/
def signedAt (w x : Nat) : Int :=
  if x % 2 ^ w < 2 ^ (w - 1) then (x % 2 ^ w : Nat) else (x % 2 ^ w : Nat) - (2 ^ w : Nat)

/-- A source read at the width and signedness of its type (R56, R75). -/
def tyVal (t : Ty) (x : Nat) : Int :=
  if t.isSigned then signedAt (tyWidth t) x else (x % 2 ^ tyWidth t : Nat)

/-- wrap(e, w) of R57, as raw bits. -/
def wrapBits (w : Nat) (e : Int) : Nat := (e % (2 ^ w : Nat)).toNat

/-- The smallest and the largest value of a type. -/
def tyMin (t : Ty) : Int := if t.isSigned then -(2 ^ (tyWidth t - 1) : Nat) else 0
def tyMax (t : Ty) : Int := if t.isSigned then (2 ^ (tyWidth t - 1) : Nat) - 1 else (2 ^ tyWidth t : Nat) - 1

/-- sat(e, t) of R57. -/
def clampTo (t : Ty) (e : Int) : Int := max (tyMin t) (min (tyMax t) e)

/-- The delivered w-bit result of an exact value. -/
def deliver (t : Ty) (sat : Bool) (e : Int) : Nat := wrapBits (tyWidth t) (if sat then clampTo t e else e)

/-- A w-bit result extended to a register of r bits: signed for s-types, with zeros otherwise (R56). -/
def extendTo (t : Ty) (r : Nat) (x : Nat) : Nat :=
  if tyWidth t < r then wrapBits r (tyVal t x) else x % 2 ^ tyWidth t

/-- The exact results of R80. -/
inductive ArithOp where
  | add | sub | mul | mulh | mad | min | max | abs | neg
  deriving DecidableEq, Repr

def exactArith (op : ArithOp) (w : Nat) (x y z : Int) : Int :=
  match op with
  | .add => x + y
  | .sub => x - y
  | .mul => x * y
  | .mulh => x * y / (2 ^ w : Nat)
  | .mad => x * y + z
  | .min => min x y
  | .max => max x y
  | .abs => if x < 0 then -x else x
  | .neg => -x

/-- The bitwise operations and shifts of R82. -/
inductive LogicOp where
  | and | or | xor | andn | shl | shr | sar | rol
  deriving DecidableEq, Repr

/-- All ones at width w. -/
def onesAt (w : Nat) : Nat := 2 ^ w - 1

def logicBits (op : LogicOp) (w : Nat) (x y : Nat) : Nat :=
  let x := x % 2 ^ w
  let y := y % 2 ^ w
  match op with
  | .and => x &&& y
  | .or => x ||| y
  | .xor => x ^^^ y
  | .andn => x &&& (onesAt w ^^^ y)
  | .shl => if y < w then x * 2 ^ y % 2 ^ w else 0
  | .shr => if y < w then x / 2 ^ y else 0
  | .sar =>
    if y < w then wrapBits w (signedAt w x / (2 ^ y : Nat))
    else if signedAt w x < 0 then onesAt w else 0
  | .rol => (x * 2 ^ (y % w) % 2 ^ w) ||| (x / 2 ^ (w - y % w))

/-- BTAB (R83): result bit i is bit x_i + 2·y_i + 4·z_i of the table. -/
def btabBits (tt : BitVec 8) : Nat → Nat → Nat → Nat → Nat
  | 0, _, _, _ => 0
  | w + 1, x, y, z =>
    (if tt.getLsbD (x % 2 + 2 * (y % 2) + 4 * (z % 2)) then 1 else 0) + 2 * btabBits tt w (x / 2) (y / 2) (z / 2)

/-- CLZ, CTZ and BREV of R84. -/
def clz (w x : Nat) : Nat := if x % 2 ^ w = 0 then w else w - 1 - Nat.log2 (x % 2 ^ w)

def ctz : Nat → Nat → Nat
  | 0, _ => 0
  | w + 1, x => if x % 2 = 1 then 0 else 1 + ctz w (x / 2)

def brev : Nat → Nat → Nat
  | 0, _ => 0
  | w + 1, x => (x % 2) * 2 ^ w + brev w (x / 2)

inductive CountOp where
  | popc | clz | ctz | brev | mov
  deriving DecidableEq, Repr

def countBits (op : CountOp) (w x : Nat) : Nat :=
  let x := x % 2 ^ w
  match op with
  | .popc => popcount w x
  | .clz => clz w x
  | .ctz => ctz w x
  | .brev => brev w x
  | .mov => x

/-- BFX of R85. -/
def bfxBits (t : Ty) (x pos len : Nat) : Nat :=
  let w := tyWidth t
  let pos := pos % 2 ^ w
  let len := len % 2 ^ w
  if w ≤ pos ∨ len = 0 then 0
  else
    let len := min len (w - pos)
    let v := x % 2 ^ w / 2 ^ pos % 2 ^ len
    if t.isSigned then wrapBits w (signedAt len v) else v

/-- BINS of R85. -/
def binsBits (w x y z : Nat) : Nat := ((x &&& (onesAt w ^^^ (z % 2 ^ w))) ||| (y &&& z)) % 2 ^ w

/-- FFCS of R86: the index, and the word afterwards. -/
def ffcsWord (x : Nat) : Nat × Nat :=
  let x := x % 2 ^ 64
  if x = 2 ^ 64 - 1 then (64, x)
  else
    let i := ctz 64 (onesAt 64 ^^^ x)
    (i, x ||| 2 ^ i)

/-- PLSET of R87: the result, and whether the set was refused. -/
def plsetWord (w x y z : Nat) : Nat × Bool :=
  let x := x % 2 ^ w
  let u := x ||| (y % 2 ^ w)
  if popcount w u ≤ z % 2 ^ w then (u, false) else (x, true)

/-- LEA of R88. -/
def leaBits (t : Ty) (x y z : Nat) : Nat :=
  let w := tyWidth t
  let n := z % 2 ^ w
  if w ≤ n then x % 2 ^ w else wrapBits w (tyVal t x + tyVal t y * (2 ^ n : Nat))

/-- ICMP's condition at width w (R39, R89). -/
def icmpHolds (c : ICond) (w x y : Nat) : Bool :=
  let ux := x % 2 ^ w
  let uy := y % 2 ^ w
  match c with
  | .eq => decide (ux = uy)
  | .ne => decide (ux ≠ uy)
  | .lts => decide (signedAt w x < signedAt w y)
  | .les => decide (signedAt w x ≤ signedAt w y)
  | .gts => decide (signedAt w y < signedAt w x)
  | .ges => decide (signedAt w y ≤ signedAt w x)
  | .ltu => decide (ux < uy)
  | .leu => decide (ux ≤ uy)
  | .gtu => decide (uy < ux)
  | .geu => decide (uy ≤ ux)

/-- The source lane of LSHUF (R93). -/
def shufLane (mode : LaneMode) (lane b : Nat) : Nat :=
  match mode with
  | .idx => b % 32
  | .up => if b ≤ lane then lane - b else lane
  | .down => if lane + b < 32 then lane + b else lane
  | .xor => lane ^^^ (b % 32)

/-- The immediate of an SI form, extended to 64 bits under R44. -/
def extendImm (t : Ty) (imm : W32) : Nat :=
  if t.isSigned then wrapBits 64 (signedAt 32 imm.toNat) else imm.toNat

end Sys2Proof.Machine
end

