-- ==== Sys2Proof/Machine/Float.lean ====
section
/-! DEFINITION. Numbers: the float formats of R58, rounding (R60), flags (R61), conversions (R62 to R68), LNS6 (R65 to
R69), and the float instructions' results (R106 to R119), on raw register bits. Exact values are dyadic: an integer
times a power of two. -/

namespace Sys2Proof.Machine

open Sys2Proof

/-- Exponent and fraction widths of a format; the bias is 2^(e−1) − 1 (R58). -/
structure Fmt where
  ebits : Nat
  fbits : Nat
  deriving DecidableEq, Repr

def fmtF32 : Fmt := ⟨8, 23⟩
def fmtF16 : Fmt := ⟨5, 10⟩
def fmtBf16 : Fmt := ⟨8, 7⟩
def fmtE4m3 : Fmt := ⟨4, 3⟩
def fmtAcc : Fmt := ⟨8, 17⟩

def Fmt.bias (f : Fmt) : Int := (2 ^ (f.ebits - 1) : Nat) - 1
def Fmt.emin (f : Fmt) : Int := 1 - f.bias
def Fmt.infBits (f : Fmt) : Nat := (2 ^ f.ebits - 1) * 2 ^ f.fbits
def Fmt.signBit (f : Fmt) : Nat := 2 ^ (f.ebits + f.fbits)
/-- The canonical NaN (R59). -/
def Fmt.nan (f : Fmt) : Nat := f.infBits + 2 ^ (f.fbits - 1)

/-- A float value: (−1)^neg · m · 2^e when finite. -/
inductive FVal where
  | nan (signalling : Bool)
  | inf (neg : Bool)
  | fin (neg : Bool) (m : Nat) (e : Int)
  deriving DecidableEq, Repr

/-- %fflags of one operation (R61): invalid, divide by zero, overflow, underflow, inexact. -/
abbrev FFlags := BitVec 5
def ffNV : FFlags := 16
def ffDZ : FFlags := 8
def ffOF : FFlags := 4
def ffUF : FFlags := 2
def ffNX : FFlags := 1

/-- The value of a pattern in an IEEE-shaped format (R58, R59). -/
def unpack (f : Fmt) (x : Nat) : FVal :=
  let neg := x.testBit (f.ebits + f.fbits)
  let ex := x / 2 ^ f.fbits % 2 ^ f.ebits
  let fr := x % 2 ^ f.fbits
  if ex = 2 ^ f.ebits - 1 then
    if fr = 0 then .inf neg else .nan (decide (fr < 2 ^ (f.fbits - 1)))
  else if ex = 0 then .fin neg fr (f.emin - f.fbits)
  else .fin neg (fr + 2 ^ f.fbits) (f.emin - f.fbits + (ex - 1 : Nat))

/-- e4m3 has no infinity and one NaN per sign (R58). -/
def unpackE4m3 (x : Nat) : FVal :=
  if x % 128 = 127 then .nan false
  else
    let ex := x / 8 % 16
    let fr := x % 8
    if ex = 0 then .fin (x.testBit 7) fr (-9) else .fin (x.testBit 7) (fr + 8) (-9 + (ex - 1 : Nat))

def withSign (f : Fmt) (neg : Bool) (x : Nat) : Nat := if neg then x + f.signBit else x

/-- Round up in magnitude? `rem` of `unit` is what is cut off, `sticky` says that more lies below it. -/
def roundsUp (r : Rnd) (neg odd : Bool) (rem unit : Nat) (sticky : Bool) : Bool :=
  match r with
  | .rne => decide (unit < 2 * rem) || (decide (2 * rem = unit) && decide (0 < rem) && (sticky || odd))
  | .rtz => false
  | .rup => !neg && (decide (0 < rem) || sticky)
  | .rdn => neg && (decide (0 < rem) || sticky)

/-- The magnitude m · 2^e (and a little more if sticky) cut to a multiple of 2^q and rounded: the multiple, and whether
anything was lost. -/
def roundAt (r : Rnd) (neg : Bool) (m : Nat) (e q : Int) (sticky : Bool) : Nat × Bool :=
  if q ≤ e then
    let n := m * 2 ^ (e - q).toNat
    (if roundsUp r neg (n % 2 == 1) 0 1 sticky then n + 1 else n, sticky)
  else
    let u := 2 ^ (q - e).toNat
    let n := m / u
    (if roundsUp r neg (n % 2 == 1) (m % u) u sticky then n + 1 else n, sticky || decide (m % u ≠ 0))

/-- R60's result of an overflow, by mode. -/
def overflowBits (f : Fmt) (r : Rnd) (neg : Bool) : Nat :=
  match r, neg with
  | .rne, _ | .rup, false | .rdn, true => f.infBits
  | .rtz, _ | .rup, true | .rdn, false => f.infBits - 1

/-- Is m · 2^e tiny, judged after rounding as if the exponent range were unbounded (R61)? -/
def isTiny (f : Fmt) (r : Rnd) (neg : Bool) (m : Nat) (e : Int) (sticky : Bool) : Bool :=
  let ex := (Nat.log2 m : Int) + e
  let n := (roundAt r neg m e (ex - f.fbits) sticky).1
  decide (ex < f.emin) && !(decide (ex + 1 = f.emin) && decide (2 ^ (f.fbits + 1) ≤ n))

/-- The magnitude pattern of m · 2^e rounded once in a format with subnormals, before overflow. -/
def magBits (f : Fmt) (r : Rnd) (neg : Bool) (m : Nat) (e : Int) (sticky : Bool) : Nat × Bool :=
  let q := max ((Nat.log2 m : Int) + e - f.fbits) (f.emin - f.fbits)
  let (n, nx) := roundAt r neg m e q sticky
  ((q - (f.emin - f.fbits)).toNat * 2 ^ f.fbits + n, nx)

/-- round(±m · 2^e, f, r) with its flags (R60, R61); an exact zero keeps the sign given. -/
def roundFin (f : Fmt) (r : Rnd) (neg : Bool) (m : Nat) (e : Int) (sticky : Bool) : Nat × FFlags :=
  if m = 0 then (withSign f neg 0, 0)
  else
    let (b, nx) := magBits f r neg m e sticky
    if f.infBits ≤ b then (withSign f neg (overflowBits f r neg), ffOF ||| ffNX)
    else
      (withSign f neg b,
        (if nx then ffNX else 0) ||| (if nx && isTiny f r neg m e sticky then ffUF else 0))

/-! ## Exact values -/

/-- A dyadic number m · 2^e. -/
structure Dy where
  m : Int
  e : Int
  deriving DecidableEq, Repr

def Dy.zero : Dy := ⟨0, 0⟩
def Dy.ofInt (i : Int) : Dy := ⟨i, 0⟩
def Dy.align (x : Dy) (e : Int) : Int := x.m * (2 ^ (x.e - e).toNat : Nat)
def Dy.add (x y : Dy) : Dy := let e := min x.e y.e; ⟨x.align e + y.align e, e⟩
def Dy.neg (x : Dy) : Dy := ⟨-x.m, x.e⟩
def Dy.sub (x y : Dy) : Dy := x.add y.neg
def Dy.mul (x y : Dy) : Dy := ⟨x.m * y.m, x.e + y.e⟩
def Dy.lt (x y : Dy) : Bool := decide ((x.sub y).m < 0)
def Dy.le (x y : Dy) : Bool := decide ((x.sub y).m ≤ 0)
def Dy.isZero (x : Dy) : Bool := decide (x.m = 0)

/-- The exact value of a finite float. -/
def FVal.dy : FVal → Dy
  | .fin neg m e => ⟨if neg then -(m : Int) else m, e⟩
  | _ => Dy.zero

def FVal.isNan : FVal → Bool
  | .nan _ => true
  | _ => false
def FVal.isSNan : FVal → Bool
  | .nan s => s
  | _ => false
def FVal.isInf : FVal → Bool
  | .inf _ => true
  | _ => false
def FVal.isFin : FVal → Bool
  | .fin _ _ _ => true
  | _ => false
def FVal.isZero : FVal → Bool
  | .fin _ m _ => decide (m = 0)
  | _ => false
def FVal.sign : FVal → Bool
  | .nan _ => false
  | .inf n => n
  | .fin n _ _ => n

/-- A dyadic rounded once; zero takes the sign given. -/
def roundDy (f : Fmt) (r : Rnd) (x : Dy) (zeroNeg : Bool) : Nat × FFlags :=
  if x.m = 0 then (withSign f zeroNeg 0, 0) else roundFin f r (decide (x.m < 0)) x.m.natAbs x.e false

/-- A quotient of dyadics, y nonzero, rounded once; a zero quotient takes the sign given. -/
def roundQuot (f : Fmt) (r : Rnd) (x y : Dy) (zeroNeg : Bool) : Nat × FFlags :=
  if x.m = 0 then (withSign f zeroNeg 0, 0)
  else
    let a := x.m.natAbs
    let b := y.m.natAbs
    let s := Nat.log2 b + 64
    roundFin f r (decide (x.m < 0) != decide (y.m < 0)) (a * 2 ^ s / b) (x.e - y.e - s) (decide (a * 2 ^ s % b ≠ 0))

/-- A modified operand: absolute value first, then negation (R103); a NaN stays a NaN. -/
def FVal.modify (neg abs : Bool) : FVal → FVal
  | .nan s => .nan s
  | .inf n => .inf ((n && !abs) != neg)
  | .fin n m e => .fin ((n && !abs) != neg) m e

/-- The sign of an exact zero sum: −0 of two −0, +0 of two +0, else by R60. -/
def zeroSumNeg (r : Rnd) (a b : Bool) : Bool := if a = b then a else r == .rdn

/-- x + y, rounded once (R106). -/
def fAdd (f : Fmt) (r : Rnd) (x y : FVal) : Nat × FFlags :=
  if x.isNan || y.isNan then (f.nan, if x.isSNan || y.isSNan then ffNV else 0)
  else
    match x, y with
    | .inf a, .inf b => if a = b then (withSign f a f.infBits, 0) else (f.nan, ffNV)
    | .inf a, _ => (withSign f a f.infBits, 0)
    | _, .inf b => (withSign f b f.infBits, 0)
    | _, _ =>
      roundDy f r (x.dy.add y.dy)
        (if x.isZero && y.isZero then zeroSumNeg r x.sign y.sign else r == .rdn)

/-- x · y as a value: its NaN, infinity or exact product; the flag of 0 × ∞. -/
def fProd (x y : FVal) : FVal × FFlags :=
  if x.isNan || y.isNan then (.nan (x.isSNan || y.isSNan), 0)
  else if (x.isInf && y.isZero) || (x.isZero && y.isInf) then (.nan false, ffNV)
  else if x.isInf || y.isInf then (.inf (x.sign != y.sign), 0)
  else
    match x, y with
    | .fin a m e, .fin b n d => (.fin (a != b) (m * n) (e + d), 0)
    | _, _ => (.nan false, 0)

/-- x · y, rounded once (R106). -/
def fMul (f : Fmt) (r : Rnd) (x y : FVal) : Nat × FFlags :=
  match fProd x y with
  | (.nan s, fl) => (f.nan, if s then ffNV else fl)
  | (.inf n, _) => (withSign f n f.infBits, 0)
  | (.fin n m e, _) => roundFin f r n m e false

/-- x · y + z, rounded once, with the invalid cases of R106: 0 × ∞ always, ∞ − ∞ only when no operand is a NaN. -/
def fFma (f : Fmt) (r : Rnd) (x y z : FVal) : Nat × FFlags :=
  let sn := if x.isSNan || y.isSNan || z.isSNan then ffNV else 0
  match fProd x y with
  | (.nan _, fl) => (f.nan, fl ||| sn)
  | (p, _) =>
    if z.isNan then (f.nan, sn)
    else fAdd f r p z

/-- x₀·y₀ + x₁·y₁ + z, rounded once (R114). -/
def fDot2 (f : Fmt) (r : Rnd) (x0 y0 x1 y1 z : FVal) : Nat × FFlags :=
  let ops := [x0, y0, x1, y1, z]
  let sn := if ops.any FVal.isSNan then ffNV else 0
  let (p0, f0) := fProd x0 y0
  let (p1, f1) := fProd x1 y1
  let anyNan := ops.any FVal.isNan
  let terms := [p0, p1, z]
  if f0 != 0 || f1 != 0 then (f.nan, ffNV)
  else if anyNan then (f.nan, sn)
  else if terms.any (fun t => t.isInf && t.sign) && terms.any (fun t => t.isInf && !t.sign) then (f.nan, ffNV)
  else
    match terms.find? FVal.isInf with
    | some t => (withSign f t.sign f.infBits, 0)
    | none =>
      let s := (p0.dy.add p1.dy).add z.dy
      let zn := if terms.all (fun t => t.isZero && t.sign) then true
        else if terms.all (fun t => t.isZero && !t.sign) then false else r == .rdn
      roundDy f r s zn

/-- Order of two numbers (no NaN): is x below y, with −0 < +0 when `signedZero`? -/
def fLess (signedZero : Bool) (x y : FVal) : Bool :=
  match x, y with
  | .inf a, .inf b => a && !b
  | .inf a, _ => a
  | _, .inf b => !b
  | _, _ =>
    if x.isZero && y.isZero then signedZero && x.sign && !y.sign else x.dy.lt y.dy

/-- FMIN and FMAX of R107 on patterns; `a`, `b` are the modified operands' patterns. -/
def fMinMax (f : Fmt) (mx : Bool) (x y : FVal) (a b : Nat) : Nat × FFlags :=
  let fl := if x.isSNan || y.isSNan then ffNV else 0
  if x.isNan && y.isNan then (f.nan, fl)
  else if x.isNan then (b, fl)
  else if y.isNan then (a, fl)
  else if mx then (if fLess true x y then b else a, 0)
  else (if fLess true y x then b else a, 0)

/-- The pattern of a modified operand (R103). -/
def modifyBits (f : Fmt) (neg abs : Bool) (x : Nat) : Nat :=
  let mag := x % f.signBit
  let s := x.testBit (f.ebits + f.fbits)
  withSign f ((s && !abs) != neg) mag

/-- FCMP (R109, R39). -/
def fcmpHolds (c : FCond) (x y : FVal) : Bool :=
  let un := x.isNan || y.isNan
  let lt := !un && fLess false x y
  let gt := !un && fLess false y x
  let eq := !un && !lt && !gt
  match c with
  | .eq => eq
  | .ne => !eq
  | .lt => lt
  | .le => lt || eq
  | .gt => gt
  | .ge => gt || eq
  | .ltu => lt || un
  | .leu => lt || eq || un
  | .gtu => gt || un
  | .geu => gt || eq || un
  | .ord => !un
  | .uno => un

/-- FCLASS (R110). -/
def fClass (f : Fmt) (x : Nat) : Nat :=
  let ex := x / 2 ^ f.fbits % 2 ^ f.ebits
  match unpack f x with
  | .nan s => if s then 512 else 256
  | .inf n => if n then 128 else 64
  | .fin n m _ =>
    if m = 0 then (if n then 2 else 1)
    else if ex = 0 then (if n then 8 else 4)
    else (if n then 32 else 16)

/-- FSCALE (R108). The factor's exponent is cut to ±2,000, beyond which no f32 result changes. -/
def fScale (r : Rnd) (x : FVal) (n : Int) : Nat × FFlags :=
  match x with
  | .nan s => (fmtF32.nan, if s then ffNV else 0)
  | .inf s => (withSign fmtF32 s fmtF32.infBits, 0)
  | .fin s m e => roundFin fmtF32 r s m (e + max (-2000) (min 2000 n)) false

/-- FRINT (R111): never inexact; a zero result keeps the sign of x. -/
def fRint (r : Rnd) (x : FVal) (raw : Nat) : Nat × FFlags :=
  match x with
  | .nan s => (fmtF32.nan, if s then ffNV else 0)
  | .inf _ => (raw, 0)
  | .fin s m e =>
    if 0 ≤ e ∨ m = 0 then (raw, 0)
    else
      let (n, _) := roundAt r s m e 0 false
      ((roundFin fmtF32 .rne s n 0 false).1, 0)

/-! ## The correctly rounded functions (R112) -/

/-- The integer square root, by bits from 2^n down. -/
def isqrtFrom (x : Nat) : Nat → Nat → Nat
  | 0, r => r
  | n + 1, r => if (r + 2 ^ n) * (r + 2 ^ n) ≤ x then isqrtFrom x n (r + 2 ^ n) else isqrtFrom x n r

def isqrt (x : Nat) : Nat := isqrtFrom x (Nat.log2 x / 2 + 1) 0

/-- Fixed-point precision of FEXP2 and FLOG2: 320 fraction bits (log entry 9). -/
def fixBits : Nat := 320

/-- Σ_{k=1}^{n} 2^P / (k·2^k): ln 2. -/
def ln2Terms : Nat → Nat
  | 0 => 0
  | n + 1 => ln2Terms n + 2 ^ fixBits / ((n + 1) * 2 ^ (n + 1))

def ln2Fix : Nat := ln2Terms 330

/-- Σ t^k / k! for k from `k` on, `n` terms, `term` the current one: e^t in fixed point. -/
def expTerms (t : Nat) : Nat → Nat → Nat → Nat
  | 0, _, _ => 0
  | n + 1, k, term => term + expTerms t n (k + 1) (term * t / 2 ^ fixBits / (k + 1))

/-- 2^g for a fraction g given in fixed point, in fixed point. -/
def exp2Fix (g : Nat) : Nat := expTerms (g * ln2Fix / 2 ^ fixBits) 110 0 (2 ^ fixBits)

/-- Σ z^(2k+1) / (2k+1), `n` terms: artanh z in fixed point. -/
def artanhTerms (z2 : Nat) : Nat → Nat → Nat → Nat
  | 0, _, _ => 0
  | n + 1, k, pow => pow / (2 * k + 1) + artanhTerms z2 n (k + 1) (pow * z2 / 2 ^ fixBits)

/-- log2 y for 1 ≤ y < 2, y = m / 2^s, in fixed point. -/
def log2Fix (m s : Nat) : Nat :=
  let z := (m - 2 ^ s) * 2 ^ fixBits / (m + 2 ^ s)
  2 * artanhTerms (z * z / 2 ^ fixBits) 160 0 z * 2 ^ fixBits / ln2Fix

/-- FRCP (R112). -/
def fRcp (r : Rnd) (x : FVal) : Nat × FFlags :=
  match x with
  | .nan s => (fmtF32.nan, if s then ffNV else 0)
  | .inf s => (withSign fmtF32 s 0, 0)
  | .fin s m e =>
    if m = 0 then (withSign fmtF32 s fmtF32.infBits, ffDZ)
    else roundQuot fmtF32 r ⟨1, 0⟩ ⟨if s then -(m : Int) else m, e⟩ false

/-- FSQRT (R112). -/
def fSqrt (r : Rnd) (x : FVal) : Nat × FFlags :=
  match x with
  | .nan s => (fmtF32.nan, if s then ffNV else 0)
  | .inf s => if s then (fmtF32.nan, ffNV) else (fmtF32.infBits, 0)
  | .fin s m e =>
    if m = 0 then (withSign fmtF32 s 0, 0)
    else if s then (fmtF32.nan, ffNV)
    else
      let d : Nat := if e % 2 = 0 then 0 else 1
      let a := m * 2 ^ (d + 128)
      let q := isqrt a
      roundFin fmtF32 r false q ((e - d) / 2 - 64) (decide (q * q ≠ a))

/-- FRSQ (R112). -/
def fRsq (r : Rnd) (x : FVal) : Nat × FFlags :=
  match x with
  | .nan s => (fmtF32.nan, if s then ffNV else 0)
  | .inf s => if s then (fmtF32.nan, ffNV) else (0, 0)
  | .fin s m e =>
    if m = 0 then (withSign fmtF32 s fmtF32.infBits, ffDZ)
    else if s then (fmtF32.nan, ffNV)
    else
      let d : Nat := if e % 2 = 0 then 0 else 1
      let b := m * 2 ^ d
      let a := 2 ^ 256
      let q := isqrt (a / b)
      roundFin fmtF32 r false q (-128 - (e - d) / 2) (decide (q * q * b ≠ a))

/-- FEXP2 (R112). -/
def fExp2 (r : Rnd) (x : FVal) : Nat × FFlags :=
  match x with
  | .nan s => (fmtF32.nan, if s then ffNV else 0)
  | .inf s => (if s then 0 else fmtF32.infBits, 0)
  | .fin s m e =>
    if m = 0 then (0x3F800000, 0)
    else if 0 ≤ e then
      let n : Int := if s then -((m * 2 ^ e.toNat : Nat) : Int) else (m * 2 ^ e.toNat : Nat)
      roundFin fmtF32 r false 1 (max (-2000) (min 2000 n)) false
    else
      let v : Int := if s then -(m : Int) else m
      let d := 2 ^ (-e).toNat
      let k := v / (d : Nat)
      let g := (v % (d : Nat)).toNat
      if g = 0 then roundFin fmtF32 r false 1 (max (-2000) (min 2000 k)) false
      else if 200 < k then roundFin fmtF32 r false (2 ^ 40) 300 true
      else if k < -200 then roundFin fmtF32 r false (2 ^ 40) (-300) true
      else roundFin fmtF32 r false (exp2Fix (g * 2 ^ fixBits / d)) (k - fixBits) true

/-- FLOG2 (R112). -/
def fLog2 (r : Rnd) (x : FVal) : Nat × FFlags :=
  match x with
  | .nan s => (fmtF32.nan, if s then ffNV else 0)
  | .inf s => if s then (fmtF32.nan, ffNV) else (fmtF32.infBits, 0)
  | .fin s m e =>
    if m = 0 then (withSign fmtF32 true fmtF32.infBits, ffDZ)
    else if s then (fmtF32.nan, ffNV)
    else
      let l := Nat.log2 m
      let ex : Int := e + l
      if m = 2 ^ l then roundDy fmtF32 r ⟨ex, 0⟩ false
      else
        let v := ex * (2 ^ fixBits : Nat) + log2Fix m l
        if 0 ≤ v then roundFin fmtF32 r false v.natAbs (-(fixBits : Int)) true
        else roundFin fmtF32 r true (v.natAbs - 1) (-(fixBits : Int)) true

/-! ## E4M3 and LNS6 (R63 to R69) -/

/-- Does a magnitude m · 2^e round above 448? The grid goes from 448 to 512 (R64's example): no e4m3 number stands between
them. A magnitude halfway takes 448 (log entry 63). -/
def e4m3Over (r : Rnd) (neg : Bool) (m : Nat) (e : Int) : Bool :=
  let v : Dy := ⟨(m : Int), e⟩
  match r with
  | .rne => (Dy.ofInt 480).lt v
  | .rtz => (Dy.ofInt 512).le v
  | .rup => if neg then (Dy.ofInt 512).le v else (Dy.ofInt 448).lt v
  | .rdn => if neg then (Dy.ofInt 448).lt v else (Dy.ofInt 512).le v

/-- A conversion to e4m3 of a finite value, an infinity or a NaN divided by 2^(s − 127) (R63). -/
def toE4m3 (r : Rnd) (x : FVal) (s : Nat) : Nat × FFlags :=
  if s = 255 then (0x7F, ffNV)
  else
    match x with
    | .nan sg => (0x7F, if sg then ffNV else 0)
    | .inf n => (if n then 0xFE else 0x7E, ffOF ||| ffNX)
    | .fin n m e =>
      if m = 0 then (if n then 0x80 else 0, 0)
      else
        let e' := e - ((s : Int) - 127)
        let (b, nx) := magBits fmtE4m3 r n m e' false
        if e4m3Over r n m e' then (if n then 0xFE else 0x7E, ffOF ||| ffNX)
        else if 0x7E < b then (if n then 0xFE else 0x7E, ffNX)
        else ((if n then b + 128 else b),
          (if nx then ffNX else 0) ||| (if nx && isTiny fmtE4m3 r n m e' false then ffUF else 0))

/-- The value of an e4m3 element under its block scale (R64). -/
def e4m3Value (x s : Nat) : FVal :=
  if s = 255 then .nan false
  else
    match unpackE4m3 x with
    | .fin n m e => .fin n m (e + ((s : Int) - 127))
    | v => v

/-- F of R66, over 256. -/
def lnsF (r : Nat) : Nat :=
  match r with
  | 0 => 256 | 1 => 304 | 2 => 362 | _ => 431

/-- decoded(c) of R66 with the sign, zero and NaR of R65. -/
def lnsValue (x : Nat) : FVal :=
  let c := x % 32
  let s := x.testBit 5
  if c = 0 then (if s then .nan false else .fin false 0 0)
  else .fin s (lnsF ((c + 16) % 4)) (((c : Int) - 16) / 4 - 8)

/-- T0 to T30 of R67. -/
def lnsThresholds : List Nat :=
  [0x3D8B95C2, 0x3DA5FED7, 0x3DC5672A, 0x3DEAC0C7, 0x3E0B95C2, 0x3E25FED7, 0x3E45672A, 0x3E6AC0C7,
   0x3E8B95C2, 0x3EA5FED7, 0x3EC5672A, 0x3EEAC0C7, 0x3F0B95C2, 0x3F25FED7, 0x3F45672A, 0x3F6AC0C7,
   0x3F8B95C2, 0x3FA5FED7, 0x3FC5672A, 0x3FEAC0C7, 0x400B95C2, 0x4025FED7, 0x4045672A, 0x406AC0C7,
   0x408B95C2, 0x40A5FED7, 0x40C5672A, 0x40EAC0C7, 0x410B95C2, 0x4125FED7, 0x4145672A]

/-- A value taken as f32, rounded to nearest where it is none (R63, R67): only a scaled e4m3 element can leave f32's range. -/
def FVal.asF32 : FVal → FVal
  | .fin n m e => unpack fmtF32 (roundFin fmtF32 .rne n m e false).1
  | x => x

/-- A conversion to lns6 (R67) of a value taken as f32 first; thresholds compare exactly (R68). A scaled e4m3 element that
leaves f32's range on the way sets invalid alone (log entry 98). -/
def toLns6 (x : FVal) : Nat × FFlags :=
  match x.asF32 with
  | .nan s => (0x20, if s then ffNV else 0)
  | .inf _ => (0x20, ffNV)
  | .fin n m e =>
    if m = 0 then (0, 0)
    else
      let v : Dy := ⟨(m : Int), e⟩
      let c := (lnsThresholds.filter fun t => (unpack fmtF32 t).dy.le v).length
      if c = 0 then (0, ffUF ||| ffNX)
      else
        let code := if n then c + 32 else c
        if (unpack fmtF32 0x416AC0C7).dy.le v then (code, ffOF ||| ffNX)
        else if (lnsValue c).dy.sub v |>.isZero then (code, 0)
        else (code, ffNX)

/-- LMUL of R118 (R69). A NaR operand goes before a zero one (log entry 64). -/
def lnsMul (x y : Nat) : Nat × FFlags :=
  let nar (v : Nat) : Bool := v % 64 == 32
  let c1 := x % 32
  let c2 := y % 32
  let s := x.testBit 5 != y.testBit 5
  if nar x || nar y then (0x20, 0)
  else if c1 = 0 ∨ c2 = 0 then (0, 0)
  else if c1 + c2 ≤ 16 then (0, ffUF ||| ffNX)
  else if 48 ≤ c1 + c2 then (if s then 63 else 31, ffOF ||| ffNX)
  else ((if s then 32 else 0) + (c1 + c2 - 16), 0)

/-- The exact array product of two lns6 operands (R69, R119). -/
def lnsProduct (x y : Nat) : FVal :=
  let c1 := x % 32
  let c2 := y % 32
  if x % 64 = 32 ∨ y % 64 = 32 then .nan false
  else if c1 = 0 ∨ c2 = 0 then .fin false 0 0
  else .fin (x.testBit 5 != y.testBit 5) (lnsF ((c1 + c2) % 4)) (((c1 + c2 : Nat) : Int) / 4 - 8 - 8)

/-- R64's block scale: the greatest exponent of a nonzero finite element, or none. -/
def blockScale (xs : List FVal) : Nat :=
  let exps := xs.filterMap fun v =>
    match v with
    | .fin _ m e => if m = 0 then none else some ((Nat.log2 m : Int) + e)
    | _ => none
  match exps with
  | [] => 127
  | x :: r => (max 0 (min 254 (r.foldl max x - 8 + 127))).toNat

/-! ## Conversions (R62, R115 to R117) -/

/-- The IEEE-shaped format of a type, if it has one. -/
def fmtOf : Ty → Option Fmt
  | .f32 => some fmtF32
  | .f16 => some fmtF16
  | .bf16 => some fmtBf16
  | _ => none

/-- A float source read exactly (R62, R63, R66); `s` is its block scale. -/
def floatValue (t : Ty) (x s : Nat) : FVal :=
  match t with
  | .f32 => unpack fmtF32 (x % 2 ^ 32)
  | .f16 => unpack fmtF16 (x % 2 ^ 16)
  | .bf16 => unpack fmtBf16 (x % 2 ^ 16)
  | .e4m3 => e4m3Value (x % 256) s
  | .lns6 => lnsValue x
  | _ => .nan false

/-- A value delivered in a float format (R60, R63, R67); a NaN is canonical. -/
def deliverFloat (t : Ty) (r : Rnd) (v : FVal) (s : Nat) : Nat × FFlags :=
  match t with
  | .e4m3 => toE4m3 r v s
  | .lns6 => toLns6 v
  | _ =>
    match fmtOf t with
    | none => (0, 0)
    | some f =>
      match v with
      | .nan sg => (f.nan, if sg then ffNV else 0)
      | .inf n => (withSign f n f.infBits, 0)
      | .fin n m e => roundFin f r n m e false

/-- FCVT (R115, R116). An e4m3 source has its exact scaled value, rounded once in the destination; to lns6 it is an f32 first. -/
def fCvt (dst src : Ty) (r : Rnd) (x s : Nat) : Nat × FFlags :=
  deliverFloat dst r (floatValue src x s) s

/-- ICVT from an integer type (R62, R117). -/
def intToFloat (dst src : Ty) (r : Rnd) (x : Nat) : Nat × FFlags :=
  match fmtOf dst with
  | none => (0, 0)
  | some f => roundDy f r (Dy.ofInt (tyVal src x)) false

/-- ICVT to an integer type (R62): rounded, then clamped; the bits at the type's width. -/
def floatToInt (dst src : Ty) (r : Rnd) (x : Nat) : Nat × FFlags :=
  match floatValue src x 127 with
  | .nan _ => (0, ffNV)
  | .inf n => (wrapBits (tyWidth dst) (if n then tyMin dst else tyMax dst), ffNV)
  | .fin n m e =>
    let (k, nx) := roundAt r n m e 0 false
    let v : Int := if n then -(k : Int) else k
    if v < tyMin dst ∨ tyMax dst < v then (wrapBits (tyWidth dst) (clampTo dst v), ffNV)
    else (wrapBits (tyWidth dst) v, if nx then ffNX else 0)

/-! ## The array's sums (R70 to R72) -/

/-- round(x, acc26, RNE), with R71's flush of a subnormal result to a zero of the same sign. A magnitude just below 2^−126 is
rounded on the grid of the smallest normals, 2^−143 (log entry 65). -/
def roundAcc (x : Dy) (zeroNeg : Bool) : Nat :=
  let b := (roundDy fmtAcc .rne x zeroNeg).1
  if b / 2 ^ 17 % 256 = 0 then b / 2 ^ 25 * 2 ^ 25 else b

/-- run + b in ACC26 (R71, R72). -/
def accAdd (x y : Nat) : Nat :=
  match unpack fmtAcc x, unpack fmtAcc y with
  | .nan _, _ => fmtAcc.nan
  | _, .nan _ => fmtAcc.nan
  | .inf a, .inf b => if a = b then withSign fmtAcc a fmtAcc.infBits else fmtAcc.nan
  | .inf a, _ => withSign fmtAcc a fmtAcc.infBits
  | _, .inf b => withSign fmtAcc b fmtAcc.infBits
  | u, v => roundAcc (u.dy.add v.dy) (u.isZero && v.isZero && u.sign && v.sign)

/-- The sum of one block of at most 32 products, in ACC26 (R71, R72). -/
def blockSum (ps : List FVal) : Nat :=
  if ps.any FVal.isNan || (ps.any (fun p => p.isInf && p.sign) && ps.any (fun p => p.isInf && !p.sign)) then fmtAcc.nan
  else
    match ps.find? FVal.isInf with
    | some p => withSign fmtAcc p.sign fmtAcc.infBits
    | none =>
      let exps := ps.filterMap fun p =>
        match p with
        | .fin _ m e => if m = 0 then none else some ((Nat.log2 m : Int) + e)
        | _ => none
      match exps with
      | [] => 0
      | x :: r =>
        let u := r.foldl max x - 33
        let term (p : FVal) : Int :=
          match p with
          | .fin n m e =>
            let k : Nat := if u ≤ e then m * 2 ^ (e - u).toNat else m / 2 ^ (u - e).toNat
            if n then -(k : Int) else k
          | _ => 0
        roundAcc ⟨ps.foldl (fun s p => s + term p) 0, u⟩ false

/-- round(acc + run, f32, RNE) (R71, R72). -/
def promote (acc run : Nat) : Nat :=
  match unpack fmtAcc run with
  | .nan _ => fmtF32.nan
  | v => (fAdd fmtF32 .rne (unpack fmtF32 acc) v).1

/-- An operand of the array (R70): a bf16 subnormal becomes a zero of its sign. -/
def arrayOperand (t : Ty) (x s : Nat) : FVal :=
  match t with
  | .bf16 => if x / 128 % 256 = 0 then .fin (x.testBit 15) 0 0 else unpack fmtBf16 (x % 2 ^ 16)
  | _ => floatValue t x s

/-- The exact product of two operands in the array; lns6 uses R69's array product. -/
def arrayProduct (t : Ty) (x sx y sy : Nat) : FVal :=
  match t with
  | .lns6 => lnsProduct x y
  | _ => (fProd (arrayOperand t x sx) (arrayOperand t y sy)).1

end Sys2Proof.Machine
end

