-- ==== Sys2Proof/Machine/Flags.lean ====
section
/-! DEFINITION. The condition codes of the SALU (R78), and the branch conditions that read them (R46). -/

namespace Sys2Proof.Machine

open Sys2Proof

/-- Z and N of a delivered w-bit result, with C and V given. -/
def codesOf (w res : Nat) (c v : Bool) : Codes :=
  ⟨res % 2 ^ w = 0, (res % 2 ^ w).testBit (w - 1), c, v⟩

/-- V: an exact signed value outside the s-range of width w (R78). -/
def outsideSigned (w : Nat) (e : Int) : Bool :=
  decide (e < -((2 ^ (w - 1) : Nat) : Int)) || decide (((2 ^ (w - 1) : Nat) : Int) ≤ e)

/-- IADD and IADDC: x + y + cin. That V reads the operands as signed for every type, here and in `subCodes`, is the model's choice
(log entry 68). -/
def addCodes (w x y cin res : Nat) : Codes :=
  codesOf w res (decide (2 ^ w ≤ x % 2 ^ w + y % 2 ^ w + cin))
    (outsideSigned w (signedAt w x + signedAt w y + (cin : Int)))

/-- ISUB, ISUBB, INEG and ICMP: x − y − borrow; C is 1 when no borrow occurs. -/
def subCodes (w x y bin res : Nat) : Codes :=
  codesOf w res (decide (y % 2 ^ w + bin ≤ x % 2 ^ w))
    (outsideSigned w (signedAt w x - signedAt w y - (bin : Int)))

/-- Every row of R78 whose C and V are 0. -/
def plainCodes (w res : Nat) : Codes := codesOf w res false false

/-- FFCS and PLSET: Z alone. -/
def zCodes (z : Bool) : Codes := ⟨z, false, false, false⟩

/-- The codes of the arithmetic instructions (R78). -/
def arithCodes (op : ArithOp) (t : Ty) (x y z : Nat) (res : Nat) : Codes :=
  let w := tyWidth t
  match op with
  | .add => addCodes w x y 0 res
  | .sub => subCodes w x y 0 res
  | .neg => subCodes w 0 x 0 res
  | .mul | .mad =>
    let e := exactArith op w (tyVal t x) (tyVal t y) (tyVal t z)
    codesOf w res false (decide (e < tyMin t) || decide (tyMax t < e))
  | .abs => codesOf w res false (decide (tyVal t x = tyMin t))
  | .mulh | .min | .max => plainCodes w res

/-- R46, on the issuing slot's codes and the value of the mask tested. -/
def condHolds (c : BCond) (k : Codes) (m : W32) : Bool :=
  match c with
  | .eq => k.z
  | .ne => !k.z
  | .lt => k.n != k.v
  | .ge => k.n == k.v
  | .ltu => !k.c
  | .geu => k.c
  | .gt => !k.z && (k.n == k.v)
  | .le => k.z || (k.n != k.v)
  | .gtu => k.c && !k.z
  | .leu => !k.c || k.z
  | .vs => k.v
  | .vc => !k.v
  | .al => true
  | .mz => decide (m = 0)
  | .mnz => decide (m ≠ 0)
  | .mall => decide (m = BitVec.allOnes 32)

end Sys2Proof.Machine
end

