-- ==== Sys2Proof/Machine/Registers.lean ====
section
/-! DEFINITION. The registers of a group: how the codes of R35 and R36 name them, how they are read and written, the pending
marks (R25), the completion flags (R24) and the two program-counter slots (R12). -/

namespace Sys2Proof.Machine

open Sys2Proof

/-- The register that a vector code below 384 names (R15). -/
def vName (g : Group) (c : Nat) : RegName := if c < 64 then .v c else .stack (g.window + (c - 64))

/-- The register that a scalar code names: the trap bank's for k152 to k159 in handler mode (R293). -/
def kName (g : Group) (c : Nat) : RegName := if g.handler.isSome && decide (152 ≤ c) then .bank (c - 152) else .k c

/-- Where a vector register's elements begin in `vregs`. -/
def vBase : RegName → Nat
  | .v n => 32 * n
  | .stack n => 32 * (64 + n)
  | _ => 0

/-- Element `lane` of a vector register. -/
def vGet (g : Group) (r : RegName) (lane : Nat) : W32 := tget 0 g.vregs (vBase r + lane)

/-- A scalar register, or the trap bank's register of that name (R293). -/
def kGet (g : Group) (c : Nat) : W64 :=
  match g.handler with
  | some h => if 152 ≤ c then h.bank.getD (c - 152) 0 else tget 0 g.kregs c
  | none => tget 0 g.kregs c

/-- A lane mask; m0 reads all ones (R10). -/
def mGet (g : Group) (n : Nat) : W32 := if n = 0 then BitVec.allOnes 32 else tget 0 g.mregs n

/-- n consecutive vector registers of one lane as one number, the first register lowest (R35). -/
def vSpan (g : Group) (c lane : Nat) : Nat → Nat
  | 0 => 0
  | n + 1 => (vGet g (vName g c) lane).toNat + 2 ^ 32 * vSpan g (c + 1) lane n

/-- The register i places after a register. -/
def regPlus (r : RegName) (i : Nat) : RegName :=
  match r with
  | .v n => .v (n + i)
  | .stack n => .stack (n + i)
  | r => r

/-- n consecutive vector registers from one. -/
def regSpan (r : RegName) (n : Nat) : List RegName := (upto n).map (regPlus r)

/-- The writes that put a number into n consecutive registers of one lane. -/
def spanWrites (r : RegName) (lane : Nat) : Nat → Nat → List RegWrite
  | 0, _ => []
  | n + 1, x => .lane r lane (BitVec.ofNat 32 x) :: spanWrites (regPlus r 1) lane n (x / 2 ^ 32)

/-- A source of R35 read over n registers in one lane. -/
def srcLane (g : Group) (c lane n : Nat) : Nat :=
  if c < 384 then vSpan g c lane n
  else if c < 504 then (kGet g (c - 384)).toNat % 2 ^ (32 * n)
  else if c = 504 then lane
  else 0

/-- The writes that put a number into n consecutive vector registers of one lane. -/
def laneWrites (g : Group) (c lane : Nat) : Nat → Nat → List RegWrite
  | 0, _ => []
  | n + 1, x =>
    .lane (vName g c) lane (BitVec.ofNat 32 x) :: laneWrites g (c + 1) lane n (x / 2 ^ 32)

/-- The write of a scalar code. -/
def kWrite (g : Group) (c : Nat) (x : W64) : RegWrite :=
  if g.handler.isSome && decide (152 ≤ c) then .bank (c - 152) x else .k c x

/-- A lane mask with one bit replaced. -/
def setLane (m : W32) (l : Nat) (b : Bool) : W32 :=
  if b then m ||| BitVec.ofNat 32 (2 ^ l) else m &&& ~~~(BitVec.ofNat 32 (2 ^ l))

/-- The trap bank's eight registers with one replaced. -/
def bankSet (b : List W64) (n : Nat) (x : W64) : List W64 := (upto 8).map fun j => if j = n then x else b.getD j 0

/-- One register write; m0 discards it (R11). -/
def applyWrite (g : Group) : RegWrite → Group
  | .lane r l x => { g with vregs := tset 0 g.vregs (vBase r + l) x }
  | .k n x => { g with kregs := tset 0 g.kregs n x }
  | .bank n x => { g with handler := g.handler.map fun h => { h with bank := bankSet h.bank n x } }
  | .mask n x => if n = 0 then g else { g with mregs := tset 0 g.mregs n x }
  | .maskLane n l b =>
    if n = 0 then g else { g with mregs := tset 0 g.mregs n (setLane (tget 0 g.mregs n) l b) }

/-- Register writes in order. -/
def applyWrites (g : Group) (ws : List RegWrite) : Group := ws.foldl applyWrite g

/-- Whether a register is pending (R25). -/
def pendingReg (g : Group) (r : RegName) : Bool := g.marks.any fun k => k.reg == r

/-- Registers marked pending against a flag, or against none (R25). -/
def markPending (g : Group) (rs : List RegName) (flag : Option Nat) : Group :=
  { g with marks := g.marks ++ rs.map fun r => ⟨r, flag⟩ }

/-- A completion flag's counter (R24). -/
def flagCount (g : Group) (n : Nat) : Nat := tget 0 g.flags n

/-- A flag's counter raised by an issue, and lowered by a completion: never below 0 (R24). -/
def flagUp (g : Group) : Option Nat → Group
  | none => g
  | some n => { g with flags := tset 0 g.flags n (flagCount g n + 1) }

def flagDown (g : Group) : Option Nat → Group
  | none => g
  | some n => { g with flags := tset 0 g.flags n (flagCount g n - 1) }

/-- The program-counter slot of that number (R12). -/
def slotOf (g : Group) : Nat → Option Slot
  | 0 => g.slot0
  | 1 => g.slot1
  | _ => none

def setSlot (g : Group) (n : Nat) (x : Option Slot) : Group :=
  match n with
  | 0 => { g with slot0 := x }
  | 1 => { g with slot1 := x }
  | _ => g

/-- S of R16: how many register-stack entries are resident. -/
def residentSize (g : Group) : Nat := g.budget - 64

/-- The codes of a slot's path. -/
def Slot.withCodes (sl : Slot) (c : Codes) : Slot := { sl with path := { sl.path with codes := c } }

/-- The codes as k157 reports them: Z, N, C, V in bits 3 to 0 (R293). -/
def codesWord (c : Codes) : Nat :=
  (if c.z then 8 else 0) + (if c.n then 4 else 0) + (if c.c then 2 else 0) + (if c.v then 1 else 0)

def codesOfWord (x : Nat) : Codes := ⟨x.testBit 3, x.testBit 2, x.testBit 1, x.testBit 0⟩

/-! ## The module's tables of groups, teams, grids and tenants -/

def putGroup (s : State) (gid : Nat) (g : Group) : State := { s with groups := tput s.groups gid g }

def updGroup (s : State) (gid : Nat) (h : Group → Group) : State :=
  match tfind s.groups gid with
  | some g => putGroup s gid (h g)
  | none => s

def updTeam (s : State) (tm : Nat) (h : Team → Team) : State :=
  match tfind s.teams tm with
  | some t => { s with teams := tput s.teams tm (h t) }
  | none => s

def updGrid (s : State) (gr : Nat) (h : Grid → Grid) : State :=
  match tfind s.grids gr with
  | some x => { s with grids := tput s.grids gr (h x) }
  | none => s

def updTenant (s : State) (tn : Nat) (h : Tenant → Tenant) : State :=
  match tfind s.tenants tn with
  | some t => { s with tenants := tput s.tenants tn (h t) }
  | none => s

/-- The team of a group. -/
def teamOf (s : State) (g : Group) : Option Team := tfind s.teams g.team

/-- A group is live while one of its slots holds a path (R12). -/
def Group.live (g : Group) : Bool := g.slot0.isSome || g.slot1.isSome

/-- Where entry i of a group's register area lies in scratch (R164). -/
def regAreaAddr (g : Group) (i : Nat) : Nat := g.lBase + 12288 + 128 * i

/-- Where L address 0 of a group's program area lies in scratch (R164). -/
def progAreaAddr (g : Group) : Nat := g.lBase + 12288 + g.regArea

/-- One write of an arriving result: an element of a spilled register-stack entry goes to the register area (R18, R300). -/
def arriveWrite (s : State) (gid : Nat) (w : RegWrite) : State :=
  match tfind s.groups gid with
  | none => s
  | some g =>
    match w with
    | .lane (.stack n) l x =>
      if g.resBase ≤ n then putGroup s gid (applyWrite g w)
      else { s with scratch := writeNat s.scratch (regAreaAddr g n + 4 * l) 4 x.toNat }
    | _ => putGroup s gid (applyWrite g w)

/-- The writes of an arriving result in order. -/
def arriveWrites (s : State) (gid : Nat) (ws : List RegWrite) : State :=
  ws.foldl (fun s w => arriveWrite s gid w) s

/-- Bytes of an access width (R47). -/
def widthBytes : Width → Nat
  | .n8 | .s8 => 1
  | .n16 | .s16 => 2
  | .w32 => 4
  | .w64 => 8
  | .w128 => 16

/-- The bytes of each lane that a kind of request touches. -/
def ReqKind.bytes : ReqKind → Nat
  | .load w _ | .store w => widthBytes w
  | .atomic _ wide _ | .mwait wide _ _ _ _ => if wide then 8 else 4

/-- The cycle counter of a core (R95). -/
def coreClock (s : State) (core : Nat) : W64 := BitVec.ofNat 64 (s.now - tget 0 s.coreStart core)

/-- The next free value, and the state that has drawn it (log entry 11). -/
def drawFree (s : State) : W64 × State := (Config.freeValue s.draws, { s with draws := s.draws + 1 })

/-- A fresh identifier. -/
def freshId (s : State) : Nat × State := (s.nextId, { s with nextId := s.nextId + 1 })

/-- The die of a core, its cluster number (R138, R313). -/
def dieOf (core : Nat) : Nat := 2 * (core / 128) + core % 16 / 8

def clusterOf (core : Nat) : Nat := 16 * dieOf core + 4 * (core / 16 % 8 / 2) + core % 8 / 2

end Sys2Proof.Machine
end

