-- ==== Sys2Proof/Machine/Translate.lean ====
section
/-! DEFINITION. The payload encoding of flits, which no rule gives (log entry 12), address translation (R302, R321 to R323), reads and writes of M by the device's own units, remote requests
(R317, R320), and the fault log (R303). -/

namespace Sys2Proof.Config

open Sys2Proof.Machine

/-- The payloads of the flits that carry a message. Free. -/
opaque flitPayloads : FabricMsg → List Bytes

/-- The message that flits of a type carry in their payloads; none: more of its flits are to come. Free. -/
opaque flitMessage : BitVec 4 → List Bytes → Option FabricMsg

end Sys2Proof.Config

namespace Sys2Proof.Machine

open Sys2Proof

/-! ## Page tables (R321, R322) -/

def pteTarget (e : Nat) : Nat := fld e 62 2
def pteDevice (e : Nat) : Nat := fld e 52 10
def pteFrame (e : Nat) : Nat := fld e 8 44 * 256
def pteExec (e : Nat) : Bool := e.testBit 3
def pteWrite (e : Nat) : Bool := e.testBit 2
def pteLeaf (e : Nat) : Bool := e.testBit 1
def pteValid (e : Nat) : Bool := e.testBit 0

/-- The rules that bind every valid entry (R322). -/
def pteCommon (e : Nat) : Bool :=
  pteValid e && decide (fld e 4 4 = 0) && pteTarget e != 3 && (pteTarget e == 2 || pteDevice e == 0)

/-- Installed main memory in bytes (R1). -/
def State.mainBytes (s : State) : Nat :=
  match s.variant with
  | .bh4m => 128 * 2 ^ 30
  | .bh4m256 => 256 * 2 ^ 30

/-- An entry that names the next table, of that size, in a memory of so many bytes. -/
def pteTable (limit e size : Nat) : Bool :=
  pteCommon e && !pteLeaf e && pteTarget e == 0 && decide (pteFrame e % size = 0)
    && decide (pteFrame e + size ≤ limit)

/-- An entry that maps a page of that size, in a memory of so many bytes. -/
def ptePage (limit e size : Nat) : Bool :=
  pteCommon e && pteLeaf e && decide (pteFrame e % size = 0)
    && (pteTarget e != 0 || decide (pteFrame e + size ≤ limit))

/-- Entry i of a table in main memory. -/
def pteAt (m : Mem) (table i : Nat) : Nat := readNat m (table + 8 * i) 8

/-- The leaf that maps an address, with its page size; none: not present. -/
def walkTables (limit : Nat) (m : Mem) (root va : Nat) : Option (Nat × Nat) :=
  let e1 := pteAt m root (fld va 39 13)
  if pteTable limit e1 4096 then
    let e2 := pteAt m (pteFrame e1) (fld va 30 9)
    if ptePage limit e2 (2 ^ 30) then some (e2, 2 ^ 30)
    else if pteTable limit e2 4096 then
      let e3 := pteAt m (pteFrame e2) (fld va 21 9)
      if ptePage limit e3 (2 ^ 21) then some (e3, 2 ^ 21)
      else if pteTable limit e3 256 then
        let e4 := pteAt m (pteFrame e3) (fld va 16 5)
        if ptePage limit e4 (2 ^ 16) then some (e4, 2 ^ 16) else none
      else none
    else none
  else none

/-- Where a translated access goes (R323). -/
inductive Place where
  | main (pa : Nat)
  | host (pa : Nat)
  | remote (dev va : Nat)
  deriving DecidableEq, Repr

/-- What a translation gives (R302). -/
inductive Xl where
  | ok (p : Place)
  | notPresent
  | forbidden
  deriving DecidableEq, Repr

/-- The permission an access needs. -/
inductive Need where
  | read | write | exec
  deriving DecidableEq, Repr

/-- Whether an entry grants it (R302, R323). -/
def pteGrants (e : Nat) : Need → Bool
  | .read => true
  | .write => pteWrite e
  | .exec => pteExec e && pteTarget e == 0

/-- The place an entry gives an address. -/
def placeOf (e size va : Nat) : Place :=
  let a := pteFrame e + va % size
  if pteTarget e = 0 then .main a else if pteTarget e = 1 then .host a else .remote (pteDevice e) a

/-- A cached translation of an address that grants the access (R302). -/
def cachedLeaf (s : State) (tn va : Nat) (need : Need) : Option (Nat × Nat) :=
  match s.cache.find? fun c => c.tenant == tn && c.page == va / c.size * c.size && pteGrants c.entry.toNat need with
  | some c => some (c.entry.toNat, c.size)
  | none => none

/-- The leaf of an address: from the cache, else from the tables. -/
def leafOf (s : State) (tn va : Nat) (need : Need) : Option (Nat × Nat) :=
  if 2 ^ 52 ≤ va then none
  else
    match cachedLeaf s tn va need with
    | some l => some l
    | none =>
      match tfind s.tenants tn with
      | some t => walkTables s.mainBytes s.main t.config.translationRoot va
      | none => none

/-- Translation for one access (R165, R302). -/
def translate (s : State) (tn va : Nat) (need : Need) : Xl :=
  match leafOf s tn va need with
  | none => .notPresent
  | some (e, size) => if pteGrants e need then .ok (placeOf e size va) else .forbidden

/-- The state whose cache holds the translation just used (R302). -/
def fillCache (s : State) (tn va : Nat) (need : Need) : State :=
  match cachedLeaf s tn va need, leafOf s tn va need with
  | none, some (e, size) =>
    { s with cache := ⟨tn, va / size * size, BitVec.ofNat 64 e, size⟩
        :: s.cache.filter fun c => !(c.tenant == tn && c.page == va / size * size && c.size == size) }
  | _, _ => s

/-! ## Remote requests (R317, R320) -/

/-- Whether a device can be reached: its primary or its alternate link is up (R317, R319). -/
def linkUp (s : State) (n : Nat) : Bool :=
  match tfind s.links n with
  | some l => l.up
  | none => false

def routeTo (s : State) (dev : Nat) : Option Nat :=
  match s.fabric.routes[dev]? with
  | some (p, a) => if p < 16 && linkUp s p then some p else if a < 16 && linkUp s a then some a else none
  | none => none

def partitionOf (s : State) (tn : Nat) : BitVec 16 :=
  match tfind s.tenants tn with
  | some t => t.config.partition
  | none => 0

/-! ### Flits (R318, R319) -/

/-- The reflected ECMA-182 polynomial, one bit at a time. -/
def crcBit (c : Nat) : Nat := if c % 2 = 1 then c / 2 ^^^ 0xC96C5795D7870F42 else c / 2

def crcByte (c : Nat) (b : Byte) : Nat := (upto 8).foldl (fun c _ => crcBit c) (c ^^^ b.toNat)

/-- CRC-64 with initial and final values all ones. -/
def crc64 (b : Bytes) : W64 := BitVec.ofNat 64 (b.foldl crcByte (2 ^ 64 - 1) ^^^ (2 ^ 64 - 1))

/-- Bytes 0 to 239 of a flit. -/
def flitBytes (f : Flit) : Bytes :=
  leBytes 2 (f.ty.toNat * 4096 + f.seq.toNat) ++ leBytes 2 f.ack.toNat ++ leBytes 2 f.dest.toNat
    ++ leBytes 2 (f.hops.toNat * 1024 + f.src.toNat) ++ leBytes 2 f.part.toNat ++ leBytes 2 f.len.toNat ++ leBytes 4 f.req.toNat
    ++ (f.payload ++ List.replicate (224 - f.payload.length) 0).take 224

/-- Whether a flit arrived intact. -/
def flitIntact (f : Flit) : Bool := f.check == crc64 (flitBytes f)

/-- The flit type that carries a message. -/
def flitType : FabricMsg → BitVec 4
  | .read _ _ => 1
  | .write _ _ => 2
  | .atomic _ _ _ _ _ | .check _ _ | .perform _ _ _ _ _ | .reduce _ _ => 3
  | .response _ _ | .rowAck _ _ => 4
  | .count _ _ => 5
  | .ready _ _ => 6
  | .row _ _ _ => 7
  | .done _ _ => 8
  | .parked => 10
  | .failure _ => 11

/-- The payloads of a message's flits, at least one, each of at most 224 bytes; the first word is 2 for a refused acknowledgement
(R328); no rule lays out the others. -/
def payloadsOf (m : FabricMsg) : List Bytes :=
  let b := (Config.flitPayloads m).map fun b => b.take 224
  match m with
  | .rowAck _ true => [leBytes 4 2 ++ (b.headD []).drop 4]
  | _ => if b.isEmpty then [[]] else b

/-- The flits that carry a packet, before a link stamps them. -/
def flitsOf (p : Packet) : List Flit :=
  (payloadsOf p.msg).map fun b =>
    { ty := flitType p.msg, seq := 0, ack := 0, dest := BitVec.ofNat 10 p.dest, hops := 0, src := BitVec.ofNat 10 p.src
      part := p.part, len := BitVec.ofNat 4 ((b.length + 15) / 16), req := p.req, payload := b, check := 0 }

/-- Whether two flits belong to one message. -/
def Flit.joins (x y : Flit) : Bool := x.src == y.src && x.part == y.part && x.req == y.req && x.ty == y.ty

/-- The packet that flits of one message carry, the last of them given; none: more are to come. -/
def packetOf (fs : List Flit) (f : Flit) : Option Packet :=
  let bs := (fs ++ [f]).map fun x => x.payload
  (Config.flitMessage f.ty bs).map fun m =>
    ⟨f.src.toNat, f.dest.toNat, f.part, f.req, match m with
      | .rowAck tag _ => .rowAck tag (decide (leNat ((bs.headD []).take 4) = 2))
      | m => m⟩

/-- A flit stamped by a link: sequence, acknowledgement and check. -/
def LarLink.stamp (l : LarLink) (f : Flit) : Flit :=
  let f := { f with seq := l.sendSeq, ack := l.expect - 1 }
  { f with check := crc64 (flitBytes f) }

/-- A flit put on a link, or left waiting while 1,024 are not acknowledged. -/
def LarLink.send (l : LarLink) (f : Flit) : LarLink :=
  if l.unacked.length < 1024 then
    let x := l.stamp f
    { l with sendSeq := l.sendSeq + 1, unacked := l.unacked ++ [x], wire := l.wire ++ [x] }
  else { l with waiting := l.waiting ++ [f] }

/-- A flit sent towards its destination by the route table; one that has no route is dropped. -/
def sendFlit (s : State) (f : Flit) : State :=
  match routeTo s f.dest.toNat with
  | some n => { s with links := match tfind s.links n with
      | some l => tput s.links n (l.send f)
      | none => s.links }
  | none => s

/-- A packet sent: one to this device arrives at once (R324's loopback). -/
def sendPacket (s : State) (p : Packet) : State :=
  if p.dest = s.fabric.dev then { s with rx := s.rx ++ [⟨p, none, false⟩] } else (flitsOf p).foldl sendFlit s

/-- A request to another device; none where it takes its fatal path at once. -/
def sendRemote (s : State) (tn dev : Nat) (m : FabricMsg) (use : RemoteUse) : Option State :=
  if partitionOf s tn = 0 then none
  else
    match routeTo s dev with
    | none => none
    | some _ =>
      let (id, s) := freshId s
      some { sendPacket s ⟨s.fabric.dev, dev, partitionOf s tn, BitVec.ofNat 32 id, m⟩ with
        remotes := s.remotes ++ [⟨id, dev, use, s.now, false, false⟩] }

/-- A write posted to another device; one that cannot be sent stays outstanding until its fatal path is taken (R317, R320). -/
def postRemote (s : State) (tn dev va : Nat) (b : Bytes) (who : Poster) : State :=
  match sendRemote s tn dev (.write va b) (.post tn who) with
  | some s => s
  | none =>
    let (id, s) := freshId s
    { s with remotes := s.remotes ++ [⟨id, dev, .post tn who, s.now, false, true⟩] }

/-- Whether writes that an operation posted are not yet answered. -/
def posting (s : State) (tn : Nat) (who : Poster) : Bool := s.remotes.any fun r => r.use == .post tn who

/-! ## Reads and writes by the device's own units -/

/-- What a unit's access meets: the value; a page that is not present or forbids the access, or a failed remote request;
or a remote request that has not been answered. -/
inductive Got (α : Type) where
  | ok (x : α)
  | page (va : Nat) (forbidden : Bool)
  | failed (va : Nat)
  | wait (dev rva va : Nat)
  deriving DecidableEq, Repr

/-- n bytes of M inside one page. -/
def readUnit (s : State) (tn va n : Nat) (need : Need) : Got Bytes :=
  match translate s tn va need with
  | .notPresent => .page va false
  | .forbidden => .page va true
  | .ok (.main pa) => .ok (readBytes s.main pa n)
  | .ok (.host pa) => .ok (readBytes s.hostMem pa n)
  | .ok (.remote dev rva) =>
    match s.fetched.find? fun x => x.tenant == tn && x.va == va && !x.word with
    | some ⟨_, _, _, some d⟩ => .ok (d.take n)
    | some ⟨_, _, _, none⟩ => .failed va
    | none => .wait dev rva va

/-- k units of 64 bytes of M from a 64-aligned address. -/
def readUnits (s : State) (tn va : Nat) (need : Need) : Nat → Got Bytes
  | 0 => .ok []
  | k + 1 =>
    match readUnit s tn va 64 need with
    | .ok b =>
      match readUnits s tn (va + 64) need k with
      | .ok r => .ok (b ++ r)
      | e => e
    | e => e

/-- The request for a unit on another device, unless it is already outstanding. -/
def askRemote (s : State) (tn dev rva va : Nat) : State :=
  if s.remotes.any fun r => r.use == .unit tn va then s
  else
    match sendRemote s tn dev (.read rva 64) (.unit tn va) with
    | some s => s
    | none => { s with fetched := s.fetched ++ [⟨tn, va, false, none⟩] }

/-- What remote reads brought is kept only until the reading instruction is done. -/
def clearFetched (s : State) (tn : Nat) : State :=
  { s with fetched := s.fetched.filter fun x => x.tenant != tn || x.word }

/-- The fabric port as a source port of a bank (R172). -/
def fabricPort : Nat := 4096

/-- Whether an atomic on main memory has read, at the fabric port or at the slice as asked, a word that n bytes touch (R189). -/
def Req.hasRead (r : Req) (port : Bool) (a n : Nat) : Bool :=
  r.held.isSome && r.space == .m && (r.port == fabricPort) == port &&
    match r.lanes with
    | l :: _ => decide (l.addr < a + n) && decide (a < l.addr + r.kind.bytes)
    | [] => false

/-- n bytes of main memory have been written at an execution point: an atomic that has read them there stands before the write or after
it, so its word is read anew (R183, R189). -/
def reread (s : State) (port : Bool) (a n : Nat) : State :=
  { s with reqs := s.reqs.map fun r =>
    if r.hasRead port a n then { r with held := r.lanes.head?.map fun l => readNat s.main l.addr r.kind.bytes } else r }

/-- The same of a reduction by a copy: it reads its word again. -/
def rereduce (s : State) (a n : Nat) : State :=
  { s with copies := s.copies.map fun c => match c.held with
    | some (x, _) => if x < a + n ∧ a < x + (if c.op = 1 then 4 else 2) then { c with held := none } else c
    | none => c }

/-- A plain write to main memory has been performed, past the fabric port where `port` says so: at its slice nothing tears an atomic, nor
at the port (R183). -/
def wroteMain (s : State) (port : Bool) (a n : Nat) : State :=
  let s := rereduce (reread s false a n) a n
  if port then reread s true a n else s

/-- Bytes stored at a translated place; a remote place takes a write request. -/
def writePlace (s : State) (tn : Nat) (p : Place) (b : Bytes) (who : Poster) : State :=
  match p with
  | .main pa => wroteMain { s with main := writeBytes s.main pa b } true pa b.length
  | .host pa => { s with hostMem := writeBytes s.hostMem pa b }
  | .remote dev va => postRemote s tn dev va b who

/-! ## MSI-X and the fault log (R303) -/

/-- An MSI-X vector on a tenant's function; one beyond its table of 2,048 is dropped (R283, R349). -/
def sendMsix (s : State) (tn vec : Nat) : State :=
  if vec < 2048 then updTenant s tn fun t => { t with msix := t.msix ++ [vec] } else s

/-- The M address of record i of a tenant's fault log. -/
def logAddr (t : Tenant) (i : Nat) : Nat := t.config.faultLog + 32 * i

/-- Whether record i is free: no unanswered fault holds it, and its reply is non-zero or its serial is 0; one on another device's page is
free until it is written, and again once its reply has been seen. -/
def logFree (s : State) (tn : Nat) (t : Tenant) (i : Nat) : Bool :=
  !(s.faults.any fun f => f.tenant == tn && f.record == some i) &&
  match readUnit s tn (logAddr t i) 32 .write with
  | .ok b => decide (leNat ((b.drop 16).take 4) ≠ 0) || decide (leNat ((b.drop 12).take 4) = 0)
  | .wait _ _ _ => !(t.logWaits.contains i)
  | _ => true

/-- The first free record. -/
def freeRecord (s : State) (tn : Nat) (t : Tenant) : Option Nat := (upto 64).find? (logFree s tn t)

/-- What writing a record comes to. -/
inductive Logged where
  /-- Written into that slot with that serial. -/
  | written (s : State) (slot : Nat)
  /-- All 64 records wait. -/
  | full
  /-- The log page is not present or forbids writing (R303). -/
  | failure

/-- The 32 bytes of a record. -/
def recordBytes (addr agent access waiters serial : Nat) (kill : Bytes) : Bytes :=
  leBytes 8 addr ++ leBytes 1 agent ++ leBytes 1 access ++ leBytes 2 (min waiters 65535) ++ leBytes 4 serial
    ++ leBytes 4 0 ++ (kill ++ List.replicate 12 0).take 12

/-- A record written into a free slot; its serial advances by one per record. -/
def writeRecord (s : State) (tn addr agent access waiters : Nat) (kill : Bytes) : Logged :=
  match tfind s.tenants tn with
  | none => .failure
  | some t =>
    match freeRecord s tn t with
    | none => .full
    | some i =>
      match translate s tn (logAddr t i) .write with
      | .ok p =>
        let ser := if (t.nextSerial + 1) % 2 ^ 32 = 0 then 1 else (t.nextSerial + 1) % 2 ^ 32
        .written (updTenant (writePlace s tn p (recordBytes addr agent access waiters ser kill) .log) tn
          fun t => { t with nextSerial := ser, logWaits := i :: t.logWaits.erase i }) i
      | _ => .failure

/-- The access bits of a record (R303). -/
def accessBits (f : PageFault) : Nat :=
  (if f.write then 1 else 0) + (if f.exec then 2 else 0) + (if f.forbidden then 4 else 0)

/-- Whether an access to a page of 64 KiB shares a fault: the fault's page holds it, with the same permission (R302). -/
def sameFault (f : PageFault) (tn page : Nat) (need : Need) : Bool :=
  f.tenant == tn && decide (f.page ≤ page) && decide (page < f.page + f.size) && f.write == (need == .write) && f.exec == (need == .exec)

/-- The page of a fault and its size, in 64 KiB: the page that forbids the access, of any size; 64 KiB where none is present (log
entry 105). -/
def faultPlace (s : State) (tn va : Nat) (need : Need) (forbidden : Bool) : Nat × Nat :=
  match if forbidden then leafOf s tn va need else none with
  | some (_, size) => (va / size * size / 65536, size / 65536)
  | none => (va / 65536, 1)

/-- The outstanding fault on an address, if any. -/
def faultOn (s : State) (tn va : Nat) (need : Need) : Option PageFault :=
  s.faults.find? fun f => sameFault f tn (va / 65536) need

/-- The outstanding faults without a record take free slots, oldest first (R303); true: the log failed. -/
def logFaults (s : State) (tn : Nat) : State × Bool :=
  s.faults.foldl
    (fun (acc : State × Bool) f =>
      if acc.2 || f.tenant != tn || f.record.isSome then acc
      else
        match writeRecord acc.1 tn f.addr f.agent (accessBits f) f.waiters [] with
        | .written s' i =>
          (sendMsix { s' with faults := s'.faults.map fun x => if x = f then { x with record := some i } else x } tn 1, false)
        | .full => acc
        | .failure => (acc.1, true))
    (s, false)

/-- The waiters field of a record brought up to date, saturating (R303). -/
def writeWaiters (s : State) (tn slot n : Nat) : State :=
  match tfind s.tenants tn with
  | none => s
  | some t =>
    match translate s tn (logAddr t slot + 10) .write with
    | .ok p => writePlace s tn p (leBytes 2 (min 65535 n)) .log
    | _ => s

/-- An access parks on a page that is not present or forbids it: it shares the outstanding fault on that page with that
permission, or makes one (R302, R303). A host access parks nothing (R349). The Bool says that the log failed. -/
def pageFault (s : State) (tn va agent : Nat) (need : Need) (forbidden : Bool) : State × Bool :=
  let n := if agent = 10 then 0 else 1
  match faultOn s tn va need with
  | some f =>
    let s := { s with faults := s.faults.map fun x => if x = f then { x with waiters := x.waiters + n } else x }
    match f.record with
    | some i => (if n = 0 then s else writeWaiters s tn i (f.waiters + n), false)
    | none => (s, false)
  | none =>
    let p := faultPlace s tn va need forbidden
    logFaults { s with faults := s.faults ++
      [⟨tn, p.1, p.2, need == .write, need == .exec, forbidden, va, agent, n, none⟩] } tn

end Sys2Proof.Machine
end

