-- ==== Sys2Proof/Machine/Access.lean ====
section
/-! DEFINITION. Memory requests (R171, R172): what one does at its execution point (R166 to R169, R177), in which order
requests may be performed (R172, R181, R182, R184, R189), and what their results bring. -/

namespace Sys2Proof.Machine

open Sys2Proof

/-- The n-byte number at an address of a space. -/
def readSpace (s : State) (sp : Space) (a n : Nat) : Nat :=
  match sp with
  | .t tm => match tfind s.teams tm with
    | some t => readNat t.tmem a n
    | none => 0
  | .d => readNat s.scratch a n
  | .m => readNat s.main a n
  | .host => readNat s.hostMem a n

/-- Whether n bytes at a T address touch the record of a registered barrier (R174). -/
def Team.inBarrier (t : Team) (a n : Nat) : Bool :=
  t.barriers.any fun b => decide (a < b.addr + 16) && decide (b.addr < a + n)

/-- The state with an n-byte number stored at an address of a space. A registered barrier's record takes no store: one that was
issued before BARINIT is lost (R174, log entry 70). -/
def writeSpace (s : State) (sp : Space) (a n x : Nat) : State :=
  match sp with
  | .t tm => updTeam s tm fun t => if t.inBarrier a n then t else { t with tmem := writeNat t.tmem a n x }
  | .d => { s with scratch := writeNat s.scratch a n x }
  | .m => { s with main := writeNat s.main a n x }
  | .host => { s with hostMem := writeNat s.hostMem a n x }

/-- A plain write performed: past the fabric port where `port` says so (R183). -/
def storePlain (s : State) (port : Bool) (sp : Space) (a n x : Nat) : State :=
  match sp with
  | .m => wroteMain (writeSpace s sp a n x) port a n
  | _ => writeSpace s sp a n x

/-- Registers an access width takes (R166). -/
def widthRegs : Width → Nat
  | .w64 => 2
  | .w128 => 4
  | _ => 1

/-- What a load brings to its registers from the bytes read (R166). -/
def loadedValue (w : Width) (x : Nat) : Nat :=
  match w with
  | .s8 => wrapBits 32 (signedAt 8 x)
  | .s16 => wrapBits 32 (signedAt 16 x)
  | _ => x

/-- FADD of R168 and R74: round to nearest even, canonical NaN, no flags. -/
def faddBits (x y : Nat) : Nat := (fAdd fmtF32 .rne (unpack fmtF32 x) (unpack fmtF32 y)).1

/-- BFADD of R168 on two packed elements. -/
def bfaddBits (x y : Nat) : Nat :=
  let h := fun a b => (fAdd fmtBf16 .rne (unpack fmtBf16 a) (unpack fmtBf16 b)).1
  h (x % 65536) (y % 65536) + 65536 * h (x / 65536 % 65536) (y / 65536 % 65536)

/-- A row of R168 at width w: the new word and what ATOM returns. -/
def atomRow (op : AtomOp) (w old x y : Nat) : Nat × Nat :=
  let x := x % 2 ^ w
  let y := y % 2 ^ w
  let keep := fun n => (n % 2 ^ w, old)
  match op with
  | .add => keep (old + x)
  | .sub => keep (wrapBits w ((old : Int) - x))
  | .smin => keep (if signedAt w old ≤ signedAt w x then old else x)
  | .min => keep (min old x)
  | .smax => keep (if signedAt w x ≤ signedAt w old then old else x)
  | .max => keep (max old x)
  | .and => keep (old &&& x)
  | .or => keep (old ||| x)
  | .xor => keep (old ^^^ x)
  | .exch => keep x
  | .inc => keep (if x ≤ old then 0 else old + 1)
  | .dec => keep (if old = 0 ∨ x < old then x else old - 1)
  | .cas => keep (if old = x then y else old)
  | .fadd => keep (faddBits old x)
  | .bfadd => keep (bfaddBits old x)
  | .fmin => keep (fMinMax fmtF32 false (unpack fmtF32 old) (unpack fmtF32 x) old x).1
  | .fmax => keep (fMinMax fmtF32 true (unpack fmtF32 old) (unpack fmtF32 x) old x).1
  | .ffcs => ((ffcsWord old).2, (ffcsWord old).1)
  | .plset => keep (plsetWord w old x y).1
  | .bins => keep (binsBits w old x y)

/-- How many operands an atomic takes from its data registers (R168). -/
def atomOperands : AtomOp → Nat
  | .ffcs => 0
  | .cas | .plset | .bins => 2
  | _ => 1

/-! ## Waiting words (R177, R271) -/

/-- Every MWAIT waiting at its home at one of the places asked about captures its word when a write has made it differ. -/
def captureWaits (s : State) (at_ : Space → Nat → Bool) : State :=
  { s with reqs := s.reqs.map fun r =>
    match r.kind, r.lanes with
    | .mwait wide e d true none, l :: _ =>
      let x := readSpace s r.space l.addr (if wide then 8 else 4)
      if x = e || !(at_ r.space l.addr) then r else { r with kind := .mwait wide e d true (some x) }
    | _, _ => r }

/-- The place of a word address on this device (R268). -/
def wordPlace (s : State) (tn : Nat) (w : WordAddr) : Option (Space × Nat) :=
  match w with
  | .none => none
  | .d a => some (.d, a)
  | .m a =>
    match translate s tn a .read with
    | .ok (.main pa) => some (.m, pa)
    | .ok (.host pa) => some (.host, pa)
    | _ => none

/-- Whether a grid is the head of its queue (R271). -/
def isHead (s : State) (gr : Nat) (g : Grid) : Bool :=
  match tfind s.tenants g.tenant with
  | some t => (tget [] t.queues g.queue).head? == some gr
  | none => false

/-- A head's dependence is re-read at each write to its word, as MWAIT re-reads (R271). -/
def noteDependences (s : State) (at_ : Space → Nat → Bool) : State :=
  { s with grids := s.grids.map fun p =>
    if p.2.depReady || p.2.block.dependence == .none || !(isHead s p.1 p.2) then p
    else
      match wordPlace s p.2.tenant p.2.block.dependence with
      | some (sp, a) =>
        if at_ sp a && decide (p.2.block.depValue ≤ readSpace s sp a 8) then (p.1, { p.2 with depReady := true }) else p
      | none => p }

/-- What a write to memory sets off for the words at the places asked about: all, where a step writes no byte twice. -/
def noteWrites (s : State) (at_ : Space → Nat → Bool := fun _ _ => true) : State := noteDependences (captureWaits s at_) at_

/-! ## Requests -/

/-- How many port numbers there are, the fabric port's the highest in use. -/
def portCount : Nat := 8192

/-- The slice that serves an address (R163). -/
def sliceOf (sp : Space) (a : Nat) : Option Nat :=
  match sp with
  | .d => some (fld a 28 2 * 32 + fld a 8 5)
  | .m => some (fld a 8 2 * 32 + fld a 10 5)
  | .t _ | .host => none

/-- The bank within its slice (R163). -/
def bankInSlice (a : Nat) : Nat := fld a 4 3

/-- The bank that serves an address, by slice and number in it. -/
def bankOf (sp : Space) (a : Nat) : Option Nat := (sliceOf sp a).map fun x => 8 * x + bankInSlice a

/-- The bank in whose queue a request stands: that of its first lane (log entry 71). -/
def Req.bank (r : Req) : Option Nat :=
  match r.lanes with
  | l :: _ => bankOf r.space l.addr
  | [] => none

def Req.isMwait (r : Req) : Bool :=
  match r.kind with
  | .mwait _ _ _ _ _ => true
  | _ => false

/-- An MWAIT that waits at its home (R177). -/
def Req.isWaiting (r : Req) : Bool :=
  match r.kind with
  | .mwait _ _ _ w _ => w
  | _ => false

/-- An MWAIT whose word has differed: it is performed, and its return is on the way. -/
def Req.isCaptured (r : Req) : Bool :=
  match r.kind with
  | .mwait _ _ _ _ x => x.isSome
  | _ => false

/-- Whether two requests to one line touch a common byte. -/
def Req.overlaps (q r : Req) : Bool :=
  q.lanes.any fun x => r.lanes.any fun y => decide (x.addr < y.addr + r.kind.bytes) && decide (y.addr < x.addr + q.kind.bytes)

/-- Whether a request counts as performed for an agent of a team on a core. -/
def Req.covers (r : Req) (team core : Nat) : Bool :=
  match r.reach with
  | .own => false
  | .team => r.team == team
  | .die => dieOf r.core == dieOf core
  | .dev => true

/-- Whether a later request must find an earlier one performed: the earlier one stands before it in program order (R181), or counts as
performed for its agent (R184, R185). -/
def Req.precedes (q r : Req) : Bool := r.after.contains q.id || q.covers r.team r.core

/-- A request waits behind every earlier one to its line that precedes it; behind an MWAIT that waits at its home, if it touches
the word, until the word has differed (R182). -/
def blockedReq : List Req → Req → Bool
  | [], _ => true
  | q :: qs, r =>
    if q.id = r.id then false
    else if q.space == r.space && q.line == r.line && q.precedes r && (!q.isWaiting || (!q.isCaptured && q.overlaps r)) then true
    else blockedReq qs r

/-- Whether two requests are executed at one point: on M an atomic of scope .sys executes at the fabric port (R167). -/
def Req.samePoint (q r : Req) : Bool := q.space == r.space && ((q.port == fabricPort) == (r.port == fabricPort))

/-- An atomic that has read and not yet written keeps the others of its point from its line (R189). -/
def heldOff (s : State) (r : Req) : Bool :=
  s.reqs.any fun q => q.id != r.id && q.held.isSome && q.samePoint r && q.line == r.line

/-- How far a port stands behind the one served last, in the round (R172). -/
def behind (last port : Nat) : Nat := (port + portCount - (last + 1)) % portCount

/-- Whether a request's bank serves it now: the bank has served nothing in this clock, no request of its port arrived there
before it, and no other port that waits there comes first in the round (R172). -/
def bankTurn (s : State) (r : Req) : Bool :=
  match r.bank with
  | none => true
  | some b =>
    let there := s.reqs.filter fun q => q.id != r.id && q.arrived.isSome && q.bank == some b
    let first := there.all fun q => q.port != r.port || match r.arrived, q.arrived with
      | some n, some k => decide (n < k)
      | _, _ => false
    match tfind s.banks b with
    | none => first
    | some (last, at_) =>
      decide (at_ < s.now) && first && there.all fun q => q.port == r.port || decide (behind last r.port < behind last q.port)

/-- The banks that an engine's accesses to places take, one request for each 16 bytes of a bank. -/
def banksAt (ps : List (Space × Nat)) : List Nat :=
  (((ps.map fun p => (p.1, p.2 / 16)).eraseDups).filterMap fun p => bankOf p.1 (16 * p.2))

/-- Whether banks serve an engine's requests now: none of them has served in this clock, and no other port that waits there comes
first in the round. -/
def banksServe (s : State) (port : Nat) (bs : List Nat) : Bool :=
  bs.all fun b =>
    match tfind s.banks b with
    | none => true
    | some (last, at_) =>
      decide (at_ < s.now) && s.reqs.all fun q =>
        q.arrived.isNone || q.bank != some b || decide (behind last port < behind last q.port)

/-- Banks have served the requests of a port, one in each clock from now on (R172). -/
def serveBanks (s : State) (port : Nat) (bs : List Nat) : State :=
  bs.foldl (fun s b =>
    { s with banks := tput s.banks b (port, max s.now (((tfind s.banks b).map fun x => x.2 + 1).getD 0)) }) s

/-- A core's copy engine, its decoder, and the graph dispatcher as source ports of a bank (R172). -/
def copyPort (core : Nat) : Nat := 512 + core
def decoderPort (core : Nat) : Nat := 1024 + core
def dispatcherPort : Nat := 2048

/-- A die's rasteriser is a decoder of its own. -/
def rasterPort (die : Nat) : Nat := 1536 + die

/-- A step of an engine that accesses places: it waits until their banks serve it (R172, log entry 71). -/
def engineTurn (s : State) (port : Nat) (ps : List (Space × Nat)) (k : State → State) : State :=
  if banksServe s port (banksAt ps) then k (serveBanks s port (banksAt ps)) else s

/-- The bank has served a request. -/
def served (s : State) (r : Req) : State :=
  match r.bank with
  | none => s
  | some b => { s with banks := tput s.banks b (r.port, s.now) }

/-! ### The rotation of memory-bound groups (R287) -/

/-- Accesses of a group that cross the die network and are not performed: an instruction's accesses count once, whatever the
number of its requests (log entry 72). -/
def farAccesses (s : State) (gid : Nat) : Nat :=
  ((s.reqs.filter fun r => r.gid == gid && !r.isMwait && match r.space with
    | .t _ => false
    | _ => true).map fun r => r.seq).eraseDups.length

/-- A group enters its partition's rotation at the end when it becomes memory-bound, and leaves it when it stops being so. -/
def noteBound (s : State) (gid : Nat) : State :=
  match tfind s.groups gid with
  | none => s
  | some g =>
    let ix := 8 * g.core + g.position % 8
    let p := tget (⟨[], 0⟩ : Partition) s.partitions ix
    let rot :=
      if decide (4 ≤ farAccesses s gid) then (if p.rotation.contains gid then p.rotation else p.rotation ++ [gid])
      else p.rotation.filter fun x => x != gid
    { s with partitions := tset ⟨[], 0⟩ s.partitions ix { p with rotation := rot } }

/-! ## Performing a request -/

/-- The result of an operation gains writes. -/
def addWrites (s : State) (id : Option Nat) (ws : List RegWrite) : State :=
  match id with
  | none => s
  | some id => { s with owed := updateWhere (fun o => o.id == id) (fun o => { o with writes := o.writes ++ ws }) s.owed }

/-- The result of an operation gains writes, and a part fewer is outstanding. -/
def fillOwed (s : State) (id : Option Nat) (ws : List RegWrite) : State :=
  match id with
  | none => s
  | some id =>
    { s with
      owed := updateWhere (fun o => o.id == id)
        (fun o => { o with writes := o.writes ++ ws, parts := o.parts - 1 }) s.owed }

/-- One lane of a request, after the lanes before it: the state and the writes gathered. `old` is the word that an atomic has
read already. -/
def performLane (kind : ReqKind) (sp : Space) (acc : State × List RegWrite × Option Nat) (l : LaneReq) :
    State × List RegWrite × Option Nat :=
  let (s, ws, held) := acc
  match kind with
  | .load w d =>
    let x := loadedValue w (readSpace s sp l.addr (widthBytes w))
    (s, ws ++ spanWrites (regPlus d l.y) l.lane (widthRegs w) x, none)
  | .store w => (noteWrites (writeSpace s sp l.addr (widthBytes w) l.x), ws, none)
  | .atomic op wide ret =>
    let n := if wide then 8 else 4
    let old := held.getD (readSpace s sp l.addr n)
    let (new, r) := atomRow op (8 * n) old l.x l.y
    (noteWrites (writeSpace s sp l.addr n new),
      match ret with
      | none => ws
      | some (d, _) => ws ++ spanWrites d l.lane (if wide then 2 else 1) r, none)
  | .mwait _ _ _ _ _ => (s, ws, none)

/-- What MWAIT returns: the word in every active lane (R177). -/
def mwaitWrites (r : Req) (wide : Bool) (d : RegName) (x : Nat) : List RegWrite :=
  (lanesOf r.active).flatMap fun l => spanWrites d l (if wide then 2 else 1) x

/-- A request taken out of the list, its part of the result filled. -/
def endReq (s : State) (r : Req) (ws : List RegWrite) : State :=
  noteBound (fillOwed { s with reqs := s.reqs.filter fun q => q.id != r.id } r.owed ws) r.gid

/-- A request performed whole at its execution point: its lanes in ascending order. -/
def performReq (s : State) (r : Req) : State :=
  match r.kind, r.lanes with
  | .mwait wide e d false _, l :: _ =>
    let x := readSpace s r.space l.addr (if wide then 8 else 4)
    if x = e then
      { s with
        reqs := updateWhere (fun q => q.id == r.id)
          (fun q => { q with kind := .mwait wide e d true none, arrived := none }) s.reqs }
    else endReq s r (mwaitWrites r wide d x)
  | .mwait _ _ _ true _, _ => s
  | _, _ =>
    let (s', ws, _) := r.lanes.foldl (performLane r.kind r.space) (s, [], r.held)
    endReq s' r ws

/-- One step of an atomic on M: the word of its next lane is read, or the one read is replaced and the next lane's read. Between
the two only operations of another execution point reach the word (R189). -/
def performHalf (s : State) (r : Req) : State :=
  match r.lanes, r.held with
  | l :: rest, some _ =>
    let (s', ws, _) := performLane r.kind r.space (s, [], r.held) l
    match rest with
    | [] => endReq s' r ws
    | l' :: _ =>
      let old := readSpace s' r.space l'.addr r.kind.bytes
      { addWrites s' r.owed ws with
        reqs := updateWhere (fun q => q.id == r.id) (fun q => { q with lanes := rest, held := some old }) s'.reqs }
  | l :: _, none =>
    let old := readSpace s r.space l.addr r.kind.bytes
    { s with reqs := updateWhere (fun q => q.id == r.id) (fun q => { q with held := some old }) s.reqs }
  | [], _ => endReq s r []

/-- A step of a request at its execution point. -/
def performStep (s : State) (r : Req) : State :=
  match r.space, r.kind with
  | .m, .atomic _ _ _ => performHalf s r
  | _, _ => performReq s r

/-- The active lanes of an access in requests of one 128-byte line each, in the order their lines first appear (R171). -/
def addToLine (rs : List (Nat × List LaneReq)) (l : LaneReq) : List (Nat × List LaneReq) :=
  match rs with
  | [] => [(l.addr / 128, [l])]
  | (n, ls) :: rest => if n = l.addr / 128 then (n, ls ++ [l]) :: rest else (n, ls) :: addToLine rest l

def byLine (ls : List LaneReq) : List (Nat × List LaneReq) := ls.foldl addToLine []

/-- A group that is resident or saved, with its team. -/
def groupTeam (s : State) (gid : Nat) : Option (Group × Option Team) :=
  match tfind s.groups gid with
  | some g => some (g, tfind s.teams g.team)
  | none => s.saved.findSome? fun c => (tfind c.groups gid).map fun g => (g, tfind c.teams g.team)

/-- The agent field of an almanac entry: grid serial and team-local group index (R311). -/
def almAgent (s : State) (gid : Nat) : Nat :=
  match groupTeam s gid with
  | some (g, some t) => ((tfind s.grids t.grid).map fun x => x.serial).getD 0 % 65536 * 65536 + g.index
  | some (g, none) => g.index
  | none => 0

/-- The requests of a group that are not performed and precede what a path of it issues now (R181): those of earlier instructions of
paths that the path continues. -/
def pathReqs (s : State) (gid : Nat) (path : W32) : List Nat :=
  (s.reqs.filter fun r => r.gid == gid && (r.path &&& path) != 0 && decide (r.seq < s.nextSeq)).map fun r => r.id

/-- Requests of a path of a group appended in order. -/
def pushReqs (s : State) (gid : Nat) (g : Group) (path : W32) (port : Nat) (sp : Space) (kind : ReqKind) (active : W32)
    (owed : Option Nat) (ls : List LaneReq) : State :=
  let after := pathReqs s gid path
  let agent := almAgent s gid
  noteBound
    ((byLine ls).foldl
      (fun s p =>
        let (id, s) := freshId s
        { s with reqs := s.reqs ++
          [{ id := id, gid := gid, tenant := g.tenant, team := g.team, core := g.core, agent := agent, path := path, after := after
             reach := .own, seq := s.nextSeq, port := port, space := sp, line := p.1, kind := kind, lanes := p.2, active := active
             owed := owed, arrived := none, held := none }] })
      s)
    gid

/-- The access sequence number advances with each memory instruction. -/
def bumpSeq (s : State) : State := { s with nextSeq := s.nextSeq + 1 }

/-! ### Releases (R184 to R186) -/

/-- Whether a request is of a group, or counts as performed for it: what a release of the group passes on (R186). -/
def Req.boundTo (r : Req) (gid : Nat) (g : Group) : Bool := r.gid == gid || r.covers g.team g.core

/-- The wider of two reaches. -/
def Reach.or : Reach → Reach → Reach
  | .dev, _ | _, .dev => .dev
  | .die, _ | _, .die => .die
  | .team, _ | _, .team => .team
  | .own, .own => .own

/-- A release by a group at a scope below the device: its requests that are not performed, and those of others that count as
performed for it, count so for every agent of the scope; later requests of those agents wait behind them. An MWAIT does not count so,
for an agent may well write its word in a race with it (R187): such a release waits for the MWAITs before it. -/
def releaseTo (s : State) (gid : Nat) (k : Reach) (p : Req → Bool := fun _ => true) : State :=
  match tfind s.groups gid with
  | none => s
  | some g =>
    { s with reqs := s.reqs.map fun r =>
      if r.boundTo gid g && !r.isMwait && p r then { r with reach := r.reach.or k } else r }

/-- A release at device scope counts a group's accesses to host pages as performed for every agent of the module: they bind no other
observer (R184). -/
def releaseHost (s : State) (gid : Nat) : State := releaseTo s gid .dev fun r => r.space == .host

/-- Whether an MWAIT of a path of a group, or of those that it continues, has not found its word to differ. -/
def mwaitOpen (s : State) (gid : Nat) (path : W32) (seq : Nat) : Bool :=
  s.reqs.any fun r => r.isMwait && !r.isCaptured && r.gid == gid && (r.path &&& path) != 0 && decide (r.seq < seq)

/-- Whether a release by a path of a group at device scope, or at system scope, waits: an access that it passes on is not performed. At
device scope those on host pages bind no observer (R184). -/
def releaseOpen (s : State) (gid : Nat) (g : Group) (sys : Bool) (path : W32) (seq : Nat) : Bool :=
  mwaitOpen s gid path seq ||
    s.reqs.any fun r => r.boundTo gid g && decide (r.seq < seq) && !r.isMwait && (sys || r.space != .host)

/-- Whether a path's earlier accesses, its group's, or those it has seen, keep back a release at system scope. -/
def releasePending (s : State) (gid : Nat) (path : W32) : Bool :=
  match tfind s.groups gid with
  | none => false
  | some g => releaseOpen s gid g true path s.nextSeq

/-- What a leave by a path of a group releases. -/
def releasedBy (s : State) (gid : Nat) (g : Group) (path : W32) : Released := ⟨g.team, g.core, pathReqs s gid path⟩

/-- Whether a leave sent at a moment passes a request on (R186). -/
def Released.holds (x : Released) (seq : Nat) (r : Req) : Bool :=
  x.after.contains r.id || (r.covers x.team x.core && decide (r.seq < seq))

/-- Whether a request writes. -/
def Req.writes (r : Req) : Bool :=
  match r.kind with
  | .store _ | .atomic _ _ _ => true
  | _ => false

/-- Whether stores that an engine of a group must find performed are outstanding to a range of a space: the group's own, and those
that count as performed for it (R190, R192, R201). -/
def ownBusy (s : State) (gid : Nat) (g : Group) (sp : Space) (lo n : Nat) : Bool :=
  s.reqs.any fun r => r.boundTo gid g && r.writes && r.space == sp && r.lanes.any fun l =>
    decide (l.addr < lo + n) && decide (lo < l.addr + r.kind.bytes)

/-- The accesses of paths with some of these lanes precede all that a path with any of them issues from now on: at a JOIN that merges,
at the end of a side for the one that resumes (R131, R181), and where threads change their lanes (R136). -/
def widenReqs (s : State) (gid : Nat) (ls : W32) : State :=
  { s with reqs := s.reqs.map fun r =>
    if r.gid == gid && (r.path &&& ls) != 0 then { r with path := r.path ||| ls } else r }

/-! ## Results (R24) -/

/-- An owed result with nothing outstanding is written, and its flag is decremented; one owed to a group that has ended is
discarded (R100). -/
def arriveOwed (s : State) (o : Owed) : State :=
  let s := { s with owed := s.owed.filter fun q => q.id != o.id }
  match tfind s.groups o.gid with
  | none => s
  | some g =>
    if g.live then updGroup (arriveWrites s o.gid o.writes) o.gid fun g => flagDown g o.flag
    else if s.owed.any fun q => q.gid == o.gid && !q.dests.isEmpty then s
    else { s with groups := tdel s.groups o.gid }

/-- A new owed result. -/
def oweResult (s : State) (gid : Nat) (kind : OwedKind) (flag : Option Nat) (dests : List RegName)
    (ws : List RegWrite) (parts : Nat) : Nat × State :=
  let (id, s) := freshId s
  (id, updGroup { s with owed := s.owed ++ [⟨id, gid, s.nextSeq, kind, flag, dests, ws, parts, s.now⟩] } gid
    fun g => flagUp (markPending g dests flag) flag)

end Sys2Proof.Machine
end

