-- ==== Sys2Proof/Machine/AlmanacOps.lean ====
section
/-! DEFINITION. Recording in a tenant's almanac and forcing what it recorded (R311, R312). -/

namespace Sys2Proof.Machine

open Sys2Proof

/-- Bytes of a tenant's almanac stored in its M space, where the page translates for writing. -/
def storeM (s : State) (tn va : Nat) (b : Bytes) : State :=
  match translate s tn va .write with
  | .ok p => writePlace s tn p b .unit
  | _ => s

/-- The state and count fields of the almanac's header, brought up to date. -/
def almHeader (s : State) (tn : Nat) : State :=
  match tfind s.tenants tn with
  | some t => storeM (storeM s tn (t.config.almanacBuffer + 5) (leBytes 1 t.almanac.state)) tn
      (t.config.almanacBuffer + 16) (leBytes 8 t.almanac.written)
  | none => s

/-- The almanac at a reset or at the context's end: complete if it was still recording (R311). -/
def Almanac.closed (a : Almanac) : Almanac :=
  { a with state := if a.state = 1 then 2 else a.state, replay := [], orders := [], waits := [] }

/-- One entry in 16-byte pieces, so that none crosses a page. -/
def storePieces (s : State) (tn va : Nat) : Nat → Bytes → State
  | 0, _ => s
  | n + 1, b => storePieces (storeM s tn va (b.take 16)) tn (va + 16) n (b.drop 16)

/-- An event recorded; when the entry would not fit, recording stops with state 3 (R311). -/
def almRecord (s : State) (tn ty agent key : Nat) (payload : Bytes) : State :=
  match tfind s.tenants tn with
  | none => s
  | some t =>
    if t.config.almanac ≠ .record ∨ t.almanac.state ≠ 1 then s
    else
      let units := (payload.length + 15) / 16
      let body := payload ++ List.replicate (16 * units - payload.length) 0
      if t.config.almanacSize < 256 + t.almanac.written + 16 + 16 * units then
        almHeader (updTenant s tn fun t => { t with almanac := { t.almanac with state := 3 } }) tn
      else
        let e := leBytes 1 ty ++ leBytes 1 0 ++ leBytes 2 units ++ leBytes 4 agent ++ leBytes 8 key ++ body
        let s := storePieces s tn (t.config.almanacBuffer + 256 + t.almanac.written) (1 + units) e
        almHeader
          (updTenant s tn fun t => { t with almanac := { t.almanac with written := t.almanac.written + e.length } }) tn

/-- Whether a tenant is replaying. -/
def replaying (s : State) (tn : Nat) : Bool :=
  match tfind s.tenants tn with
  | some t => t.config.almanac == .replay
  | none => false

/-- The next recorded entry of a type, a key and, where one is given, an agent. -/
def almNext (s : State) (tn ty key : Nat) (agent : Option Nat) : Option AlmanacEntry :=
  match tfind s.tenants tn with
  | some t => t.almanac.replay.find? fun e =>
      e.ty == ty && e.key == key && match agent with
        | some a => e.agent == a
        | none => true
  | none => none

/-- An entry used up by its owner, who no longer waits for one of its type. -/
def almTake (s : State) (tn : Nat) (e : AlmanacEntry) (owner : Nat) : State :=
  updTenant s tn fun t =>
    { t with almanac := { t.almanac with
      replay := t.almanac.replay.erase e
      waits := t.almanac.waits.filter fun w => !(w.ty == e.ty && w.owner == owner) } }

/-- A forced wait of an operation begins, or goes on (R312). -/
def almWait (s : State) (tn ty key owner : Nat) : State :=
  updTenant s tn fun t =>
    if t.almanac.waits.any fun w => w.ty == ty && w.key == key && w.owner == owner then t
    else { t with almanac := { t.almanac with waits := t.almanac.waits ++ [⟨ty, key, owner, s.now⟩] } }

/-- An operation of an agent at a home address: recorded with its order there, or the recorded one used up (R311, R312). -/
def noteHome (s : State) (tn agent owner a : Nat) : State :=
  if replaying s tn then
    match almNext s tn 5 a (some agent) with
    | some e => almTake s tn e owner
    | none => s
  else
    match tfind s.tenants tn with
    | some t =>
      let n := tget 0 t.almanac.orders a
      updTenant (almRecord s tn 5 agent a (leBytes 8 n)) tn fun t =>
        { t with almanac := { t.almanac with orders := tset 0 t.almanac.orders a (n + 1) } }
    | none => s

/-- Whether replay lets an agent's operation at a home address happen now: it is the next recorded one there. -/
def homeTurn (s : State) (tn agent a : Nat) : Bool :=
  match almNext s tn 5 a none with
  | some e => e.agent == agent
  | none => false

/-! ## Requests whose order is recorded -/

/-- Whether a request's order at its home is recorded (R311): an ATOM that returns, or a float RED. -/
def Req.recorded (r : Req) : Bool :=
  match r.kind with
  | .atomic op _ ret => ret.isSome || op == .fadd || op == .bfadd || op == .fmin || op == .fmax
  | _ => false

/-- The home addresses of a request's lanes recorded with their order at the home, or the recorded ones used up. -/
def noteHomes (s : State) (r : Req) : State :=
  if r.recorded then r.lanes.foldl (fun s l => noteHome s r.tenant r.agent r.id l.addr) s else s

/-- The requests that may hold a request back: in replay, not those of other groups whose order is forced (R312). -/
def queueFor (s : State) (r : Req) : List Req :=
  if replaying s r.tenant then s.reqs.filter fun q => q.gid == r.gid || !q.recorded else s.reqs

/-- The home of a request whose turn has not come in replay (R312). -/
def replayHolds (s : State) (r : Req) : Option Nat :=
  if r.recorded && replaying s r.tenant then
    (r.lanes.find? fun l => !(homeTurn s r.tenant r.agent l.addr)).map fun l => l.addr
  else none

/-- Whether nothing keeps a request from being performed but its way to its bank: it does not wait for a word, and neither an earlier
request nor replay holds it back. -/
def Req.ready (s : State) (r : Req) : Bool :=
  !r.isWaiting && (r.held.isSome || r.arrived.isSome || (!(blockedReq (queueFor s r) r) && (replayHolds s r).isNone))

/-- A request performed whole, its order at its homes noted; an atomic of its execution point that has read its word stands after it. -/
def drainReq (s : State) (r : Req) : State :=
  let s := performReq (if r.held.isSome then s else noteHomes s r) r
  if r.space = .m then r.lanes.foldl (fun s l => reread s (r.port == fabricPort) l.addr r.kind.bytes) s else s

/-- The state with every request that may be performed performed, oldest first, up to a count: how a pre-empted or dying context
drains (R306). -/
def drainReqs (keep : Req → Bool) : Nat → State → State
  | 0, s => s
  | n + 1, s =>
    match s.reqs.find? fun r => keep r && r.ready s with
    | some r => drainReqs keep n (drainReq s r)
    | none => s

end Sys2Proof.Machine
end

