-- ==== Sys2Proof/Machine/Context.lean ====
section
/-! DEFINITION. How groups, grids and contexts end: barrier drops (R175), what a group leaves behind (R100, R156, R225),
kills and kill records (R296, R298), pre-emption and restore (R306 to R308), context reset (R297) and the machine check
(R303, R305). -/

namespace Sys2Proof.Config

open Sys2Proof.Machine

/-- Byte k of the records of a context area (R307), which follow its header: no rule says how they are laid out inside. Free. -/
opaque contextRecord : SavedContext → Nat → Byte

/-- What the bytes of a context area that no save of this module wrote stand for. Free. -/
opaque contextOf : Bytes → Option SavedContext

end Sys2Proof.Config

namespace Sys2Proof.Machine

open Sys2Proof

/-! ## Monitors (R351) -/

def satInc64 (x : W64) : W64 := if x = BitVec.allOnes 64 then x else x + 1

def Monitor.clear : Monitor := ⟨BitVec.allOnes 64, 0, 0, 0, []⟩

/-- One sample. -/
def Monitor.sample (m : Monitor) (x : Nat) : Monitor :=
  let v := BitVec.ofNat 64 x
  let b := Nat.min 15 (Nat.log2 (x + 1))
  { min := if v < m.min then v else m.min
    max := if m.max < v then v else m.max
    count := satInc64 m.count
    sum := m.sum + v
    bins := tset 0 m.bins b (if tget 0 m.bins b = BitVec.allOnes 32 then BitVec.allOnes 32 else tget 0 m.bins b + 1) }

def Monitors.sample (m : Monitors) (x : Nat) : Monitors := { m with live := m.live.sample x }

/-- A trap adds 1 to its code's count, saturating (R351). -/
def countTrap (s : State) (tn code : Nat) : State :=
  updTenant s tn fun t => { t with traps := tset 0 t.traps code (satInc64 (tget 0 t.traps code)) }

/-! ## Barriers (R173 to R175) -/

/-- A barrier's record as T-space shows it (R173). -/
def barrierWord0 (b : Barrier) : Nat := b.epoch * 2 ^ 48 + b.fault * 2 ^ 46 + b.quota * 2 ^ 37 + b.due * 2 ^ 28
def barrierWord1 (b : Barrier) : Nat := b.owed * 2 ^ 32 + b.landed

/-- A phase completes with a cause: every arrival of this phase learns it, and the next phase begins. The arrivals still due in a phase
that a fault completes are late. -/
def Barrier.complete (b : Barrier) (cause : Nat) : Barrier :=
  { b with
    epoch := (b.epoch + 1) % 65536
    fault := cause
    late := if cause = 0 then 0 else b.due
    due := b.quota
    owed := 0
    landed := 0
    arrivals := b.arrivals.map fun a =>
      if a.epoch = b.epoch ∧ a.done = none then { a with done := some cause } else a }

/-- The completion test made after each update. -/
def Barrier.test (b : Barrier) : Barrier := if b.due = 0 ∧ b.landed = b.owed then b.complete 0 else b

/-- Bytes declared, and bytes landed: an update above 2^32 − 1 is dropped and completes the phase with fault 2. -/
def Barrier.declare (b : Barrier) (n : Nat) : Barrier :=
  if 2 ^ 32 ≤ b.owed + n then b.complete 2 else { b with owed := b.owed + n }.test

def Barrier.land (b : Barrier) (n : Nat) : Barrier :=
  if 2 ^ 32 ≤ b.landed + n then b.complete 2 else { b with landed := b.landed + n }.test

/-- Whether a group has arrived in the current phase. -/
def Barrier.arrived (b : Barrier) (gid : Nat) : Bool :=
  b.arrivals.any fun a => a.gid == gid && a.epoch == b.epoch && a.done == none

/-- The epoch of the phase that completed last. -/
def Barrier.lastEpoch (b : Barrier) : Nat := (b.epoch + 65535) % 65536

/-- Whether a group's arrival belongs to the phase that a fault completed last: arrivals of it are still to come, and the group has not
arrived in it (R173, R227). -/
def Barrier.isLate (b : Barrier) (gid : Nat) : Bool :=
  decide (0 < b.late) && !(b.arrivals.any fun a => a.gid == gid && a.epoch == b.lastEpoch)

/-- One arrival due less; what is due below 0 no rule says (R175, R176): free (log entry 11). -/
def Barrier.lessDue (b : Barrier) : Nat := if b.due = 0 then (Config.dueBelowZero b.addr).toNat else b.due - 1

/-- An arrival. One of a phase that a fault has completed learns the fault, and counts against the phase that runs (R173). -/
def Barrier.arrive (b : Barrier) (gid : Nat) : Barrier :=
  { b with
    due := b.lessDue
    late := if b.isLate gid then b.late - 1 else b.late
    arrivals := (if b.isLate gid then ⟨gid, b.lastEpoch, some b.fault⟩ else ⟨gid, b.epoch, none⟩)
      :: b.arrivals.filter fun a => a.gid != gid }.test

/-- A group that ends drops out (R175). -/
def Barrier.drop (b : Barrier) (gid : Nat) : Barrier :=
  { b with
    quota := if b.quota = 0 then (Config.quotaBelowZero b.addr).toNat else b.quota - 1
    due := if b.arrived gid then b.due else b.lessDue
    late := if b.isLate gid then b.late - 1 else b.late
    arrivals := b.arrivals.filter fun a => a.gid != gid }.test

/-- A team with one of its barriers replaced, and the barrier's record in T-space. -/
def Team.putBarrier (t : Team) (b : Barrier) : Team :=
  { t with
    barriers := updateWhere (fun x => x.addr == b.addr) (fun _ => b) t.barriers
    tmem := writeNat (writeNat t.tmem b.addr 8 (barrierWord0 b)) (b.addr + 8) 8 (barrierWord1 b) }

def Team.barrier (t : Team) (a : Nat) : Option Barrier := t.barriers.find? fun b => b.addr == a

/-- One barrier of a team updated. -/
def updBarrier (s : State) (tm a : Nat) (h : Barrier → Barrier) : State :=
  updTeam s tm fun t =>
    match t.barrier a with
    | some b => t.putBarrier (h b)
    | none => t

/-! ## What a group leaves behind -/

/-- Whether a group is live. -/
def groupLive (s : State) (gid : Nat) : Bool :=
  match tfind s.groups gid with
  | some g => g.live
  | none => false

/-- The slots a job visits (R219). -/
def jobSlots (j : Job) : List Nat :=
  (upto (min j.count 16)).flatMap fun i => [(j.a + i * j.inc) % 16, (j.b + i * j.inc) % 16]

/-- The array that a slot tensor names on a core. -/
def arrayIx (core x : Nat) : Nat := 4 * core + x

def MatArray.empty : MatArray := ⟨[], [], []⟩

def OpSlot.freed : OpSlot := ⟨none, 0, 0, false, [], [], []⟩

def Tile.freed : Tile := ⟨none, false, []⟩

/-- Whether an incomplete copy delivers into a slot of an array. -/
def copyIntoSlot (s : State) (arr slot : Nat) : Bool :=
  s.copies.any fun c => c.dst.space == 4 && c.dst.base / 4 == slot && c.members.any fun m => arrayIx m.core (c.dst.base % 4) == arr

/-- Slots and tiles whose holder has ended become free once nothing uses them (R212, R214, R225). -/
def sweepArray (s : State) (arr : Nat) : State :=
  let x := tget MatArray.empty s.arrays arr
  let slots := x.slots.filter fun p =>
    match p.2.claim with
    | some g => groupLive s g || copyIntoSlot s arr p.1 || x.jobs.any fun j => (jobSlots j).contains p.1
    | none => false
  let tiles := x.tiles.filter fun p =>
    match p.2.owner with
    | some g =>
      groupLive s g || (x.jobs.any fun j => j.tile == p.1) ||
        s.copies.any fun c =>
          match c.tile with
          | some (core, xx, acc) => arrayIx core xx == arr && acc == p.1
          | none => false
    | none => false
  { s with arrays := tset MatArray.empty s.arrays arr { x with slots := slots, tiles := tiles } }

def sweepCore (s : State) (core : Nat) : State :=
  (upto 4).foldl (fun s x => sweepArray s (arrayIx core x)) s

/-- A leave of a group that ends, on its way to a key's home (R153). -/
def sendLeave (s : State) (e : KeyEntry) (entrant gid : Nat) (g : Group) : State :=
  { s with procMsgs := s.procMsgs ++
    [.leave e.tenant e.domain e.key entrant gid s.nextSeq (releasedBy s gid g (BitVec.allOnes 32))] }

/-- Whether a leave of an entrant is already on its way. -/
def leaving (s : State) (entrant gid : Nat) : Bool :=
  s.procMsgs.any fun m =>
    match m with
    | .leave _ _ _ e g _ _ => e == entrant && g == gid
    | _ => false

/-- A group that ends releases each holding as by OLEAVE and withdraws its unanswered requests (R156). -/
def releaseHoldings (s : State) (gid : Nat) (g : Group) : State :=
  let s := s.keys.foldl
    (fun s e =>
      match e.holder with
      | some (en, x) => if x = gid && !(leaving s en gid) then sendLeave s e en gid g else s
      | none => s) s
  { s with
    keys := s.keys.map fun e => { e with waiting := e.waiting.filter fun w => w.gid != gid }
    procMsgs := s.procMsgs.filter fun m =>
      match m with
      | .request _ _ _ w _ => w.gid != gid
      | .answer g _ _ => g != gid
      | .leave _ _ _ _ _ _ _ => true }

def updGraph (s : State) (tn slot : Nat) (h : Graph → Graph) : State :=
  updTenant s tn fun t => { t with graphs := updateWhere (fun g => g.slot == slot) h t.graphs }

def graphOf (s : State) (tn slot : Nat) : Option Graph :=
  match tfind s.tenants tn with
  | some t => t.graphs.find? fun g => g.slot == slot
  | none => none

/-- The live groups of a graph (R277). -/
def graphGroups (s : State) (tn slot : Nat) : List (Nat × Group) :=
  s.groups.filter fun p => p.2.live && p.2.tenant == tn &&
    match teamOf s p.2 with
    | some t => match t.node with
      | some (gs, _) => gs == slot
      | none => false
    | none => false

/-- Whether a group is parked at EMIT. -/
def Group.atEmit (g : Group) : Bool :=
  match g.park with
  | some ⟨_, _, .emit _⟩ => true
  | _ => false

/-- The deadlock test of R282, made when a group of the graph parks on EMIT or ends: on deadlock every parked EMIT is
marked, and traps when its slot next comes up. -/
def testDeadlock (s : State) (tn slot : Nat) : State :=
  match graphOf s tn slot with
  | none => s
  | some g =>
    let gs := graphGroups s tn slot
    let full := decide (g.reserved.length = g.slots) && g.reserved.all fun r => !r.committed
    if !gs.isEmpty && (gs.all fun p => p.2.atEmit) && full then
      updGraph
        { s with groups := s.groups.map fun p =>
          if gs.any fun q => q.1 == p.1 then
            (p.1, { p.2 with park := p.2.park.map fun r => { r with why := .emit true } })
          else p }
        tn slot fun g => { g with deadlocked := true }
    else s

/-- What the graph of a team learns when one of its groups ends (R277, R278). -/
def leaveGraph (s : State) (gid tm : Nat) (killed : Bool) : State :=
  match tfind s.teams tm with
  | some t =>
    match t.node with
    | some (slot, node) =>
      testDeadlock
        (updGraph s t.tenant slot fun g =>
          { g with
            reserved := g.reserved.filter fun r => r.committed || r.gid != gid
            emitQueue := g.emitQueue.filter fun x => x != gid
            killedNode := if killed && g.killedNode.isNone then some node else g.killedNode })
        t.tenant slot
    | none => s
  | none => s

/-- A tenant's decoder requests of a group withdrawn (R296). -/
def dropDecoderRequests (s : State) (gid : Nat) : State :=
  { s with
    decoders := s.decoders.map fun p =>
      (p.1, { queue := p.2.queue.filter fun r => r.gid != gid
              entries := p.2.entries.map fun e => { e with reqs := e.reqs.filter fun r => r.gid != gid } })
    patches := s.patches.filter fun p => p.gid != gid }

def Remote.isFor (r : Remote) (gid : Nat) : Bool :=
  match r.use with
  | .lane g _ => g == gid
  | _ => false

/-- A graph whose WAITG was of a group that is killed has none (R277). -/
def forgetWaiter (s : State) (gid : Nat) (x : Graph) : Graph :=
  if (s.owed.any fun o => o.gid == gid && x.waiter == some o.id) then { x with waiter := none } else x

/-- A group ends (R100), or is killed (R296). Its drop from the barriers is a release at team scope (R185). A WAITG of a killed group
waits no longer. -/
def endGroup (s : State) (gid : Nat) (killed : Bool) : State :=
  match tfind s.groups gid with
  | none => s
  | some g =>
    if !g.live then s
    else
      let s := releaseTo (releaseHoldings s gid g) gid .team
      let s := updTeam s g.team fun t =>
        let t := t.barriers.foldl (fun t b => t.putBarrier (b.drop gid)) t
        { t with live := t.live.filter fun x => x != gid }
      let s := if killed then
          dropDecoderRequests
            { s with
              arrays := s.arrays.map fun p => (p.1, { p.2 with jobs := p.2.jobs.filter fun j => j.gid != gid })
              owed := s.owed.filter fun o => o.gid != gid
              tenants := s.tenants.map fun p => (p.1, { p.2 with graphs := p.2.graphs.map (forgetWaiter s gid) })
              remotes := s.remotes.filter fun r => !(r.isFor gid)
              reqs := s.reqs.filter fun r => r.gid != gid || !r.isMwait } gid
        else s
      let s := updGroup s gid fun g =>
        { g with
          slot0 := none, slot1 := none, park := none, handler := none, joins := [], stack := [], near := []
          fences := [], holdings := [], marks := [] }
      let s := if s.owed.any fun o => o.gid == gid && !o.dests.isEmpty then s else { s with groups := tdel s.groups gid }
      sweepCore (leaveGraph s gid g.team killed) g.core

/-! ## Kills (R296, R298) -/

/-- The kill word of R309. -/
def killWord (position core scope tenant : Nat) : Nat := position * 65536 + core * 256 + scope * 16 + tenant

def scopeCode : KillScope → Nat
  | .group => 0
  | .team => 1
  | .grid => 2

/-- Every group of a team, and every group of a grid with its unplaced teams, killed. -/
def killTeam (s : State) (tm : Nat) : State :=
  match tfind s.teams tm with
  | some t => t.live.foldl (fun s gid => endGroup s gid true) s
  | none => s

def killGrid (s : State) (gr : Nat) : State :=
  match tfind s.grids gr with
  | some g =>
    let s := g.liveTeams.foldl killTeam s
    let s := updGrid s gr fun g => { g with placedTeams := g.block.gx * g.block.gy }
    updTenant s g.tenant fun t => { t with queues := t.queues.map fun q => (q.1, q.2.filter fun x => x != gr) }
  | none => s

/-- The groups that a kill of a group's scope ends. -/
def killScopeOf (s : State) (gid : Nat) (sc : KillScope) : State :=
  match tfind s.groups gid with
  | none => s
  | some g =>
    match sc with
    | .group => endGroup s gid true
    | .team => killTeam s g.team
    | .grid =>
      match tfind s.teams g.team with
      | some t => match tfind s.grids t.grid with
        | some _ => killGrid s t.grid
        | none => killTeam s g.team
      | none => s

/-! ## Pre-emption (R306 to R308) -/

/-- The groups of a tenant. -/
def tenantGroups (s : State) (tn : Nat) : List (Nat × Group) := s.groups.filter fun p => p.2.tenant == tn
def tenantTeams (s : State) (tn : Nat) : List (Nat × Team) := s.teams.filter fun p => p.2.tenant == tn

/-- Entries and credits in flight reach their queues (R147). -/
def landFlights (s : State) (tms : List Nat) : State :=
  let s := s.sends.foldl
    (fun s x => if tms.contains x.team then
      updTeam s x.team fun t => { t with queues := tset [] t.queues x.index (tget [] t.queues x.index ++ [x.entry]) }
      else s) s
  let s := s.returns.foldl
    (fun s x => if tms.contains x.team then
      updTeam s x.team fun t => { t with credits := tset 4 t.credits x.index (tget 4 t.credits x.index + 1) }
      else s) s
  { s with
    sends := s.sends.filter fun x => !(tms.contains x.team)
    returns := s.returns.filter fun x => !(tms.contains x.team) }

/-- A slot stopped at its boundary: its clause is off its pipe, and a fetch that is parked is made again (R306). -/
def Slot.stopped (sl : Slot) : Slot := { sl with offPipe := sl.clause.isSome, fetchWait := none }

/-- A group as its record keeps it: a withdrawn instruction is executed again from its index, other parked ones stay
parked, and the near operand buffer is empty (R306, R307). -/
def saveGroup (g : Group) : Group :=
  { g with
    near := []
    vregs := g.vregs.filter fun p => decide (p.1 < 2048)
    slot0 := g.slot0.map Slot.stopped
    slot1 := g.slot1.map Slot.stopped
    park := match g.park with
      | some ⟨_, _, .page _ _ _⟩ | some ⟨_, _, .emit _⟩ | some ⟨_, _, .remote _ _ _ _ _ _⟩ => none
      | p => p }

/-- The live entries of a group's register stack written to its register area (R308). -/
def saveStack (s : State) (g : Group) : State :=
  (upto (g.window + g.extent - g.resBase)).foldl
    (fun s i => lanes.foldl
      (fun s l => writeSpace s .d (regAreaAddr g (g.resBase + i) + 4 * l) 4 (vGet g (.stack (g.resBase + i)) l).toNat)
      s) s

/-- The graph whose status a result delivers has its slot freed (R277). -/
def freeWaited (s : State) (o : Owed) : State :=
  { s with tenants := s.tenants.map fun p =>
    (p.1, { p.2 with graphs := p.2.graphs.filter fun g => !(g.final.isSome && g.waiter == some o.id) }) }

/-- A result arrives: LDD, LDT and an atomic on M are sampled (R351); a graph's status frees its slot. -/
def arriveSampled (s : State) (o : Owed) : State :=
  freeWaited
    (arriveOwed
      (match o.kind, tfind s.groups o.gid with
      | .load, some g | .mainAtomic, some g =>
        updTenant s g.tenant fun t => { t with loadMon := t.loadMon.sample (s.now - o.issued) }
      | _, _ => s) o) o

/-- Results that nothing holds up are written: those of loads, atomics and engines, not of copies or MWAITs. -/
def drainOwed (s : State) (gids : List Nat) : State :=
  s.owed.foldl
    (fun s o => if gids.contains o.gid && o.parts == 0 then arriveSampled s o else s) s

/-- The groups of a team whose channel queues or credits differ from their initial state (R307). -/
def changedPositions (t : Team) : List Nat :=
  ((t.queues.map fun (q : Nat × List ChanEntry) => q.1 / 64) ++ (t.credits.map fun (q : Nat × Nat) => q.1 / 64)).eraseDups

/-- Bytes of a context area (R307). -/
def contextBytes (c : SavedContext) : Nat :=
  4096 + (c.teams.map fun p => 8192 + p.2.tPerCore * p.2.cores.length).sum + 16384 * c.groups.length
    + 32768 * (c.teams.map fun p =>
        (changedPositions p.2).length).sum
    + 278528 * c.arrays.length + 256 * c.copies.length + 1024 * c.rasters.length + 512 * c.graphs.length

/-- Stops a tenant's groups, drains the context and takes everything of it out of the module (R306). -/
def takeContext (s : State) (tn area state : Nat) : SavedContext × State :=
  let gids := (tenantGroups s tn).map fun p => p.1
  let tms := (tenantTeams s tn).map fun p => p.1
  let s := drainReqs (fun r => r.tenant == tn) s.reqs.length s
  let s := landFlights (drainOwed s gids) tms
  let s := (tenantGroups s tn).foldl (fun s p => saveStack s p.2) s
  let cores := match tfind s.tenants tn with
    | some t => t.config.cores
    | none => []
  let mine := fun (p : Nat × MatArray) => cores.contains (p.1 / 4)
  let c : SavedContext :=
    { tenant := tn, area := area, state := state
      groups := (tenantGroups s tn).map fun p => (p.1, saveGroup p.2)
      teams := tenantTeams s tn
      copies := s.copies.filter fun c => c.tenant == tn
      arrays := s.arrays.filter mine
      reqs := (s.reqs.filter fun r => r.tenant == tn).map fun r =>
        match r.kind with
        | .mwait w e d _ none => { r with kind := .mwait w e d false none, arrived := none }
        | _ => { r with arrived := none }
      owed := s.owed.filter fun o => gids.contains o.gid
      decoder := (s.decoders.map fun p => p.2.queue ++ p.2.entries.flatMap fun e => e.reqs).flatten.filter
        fun r => gids.contains r.gid
      patches := (s.patches.filter fun p => gids.contains p.gid).map fun p =>
        if p.result.isSome then p else { p with granted := false, parkedOn := none }
      rasters := s.rasters.filter fun r => r.tenant == tn
      graphs := match tfind s.tenants tn with
        | some t => t.graphs.map fun g =>
          { g with emitQueue := [], nodes := g.nodes.map fun n => { n with openedTick := s.now / 12 - n.openedTick } }
        | none => [] }
  let s := updTenant (gids.foldl dropDecoderRequests s) tn fun t => { t with graphs := [] }
  (c, { s with
    groups := s.groups.filter fun p => p.2.tenant != tn
    teams := s.teams.filter fun p => p.2.tenant != tn
    copies := s.copies.filter fun c => c.tenant != tn
    arrays := s.arrays.filter fun p => !(mine p)
    reqs := s.reqs.filter fun r => r.tenant != tn
    owed := s.owed.filter fun o => !(gids.contains o.gid)
    rasters := s.rasters.filter fun r => r.tenant != tn })

/-- The first 128 bytes of a context area (R307). -/
def contextHeader (c : SavedContext) : Bytes :=
  let chans := (c.teams.map fun p =>
    (changedPositions p.2).length).sum
  let counts := [c.teams.length, c.groups.length, chans, c.arrays.length, c.copies.length, c.rasters.length, c.graphs.length]
  let sizes := [(c.teams.map fun p => 8192 + p.2.tPerCore * p.2.cores.length).sum, 16384 * c.groups.length, 32768 * chans,
    278528 * c.arrays.length, 256 * c.copies.length, 1024 * c.rasters.length, 512 * c.graphs.length]
  let offs := (upto 7).map fun i => 4096 + (sizes.take i).sum
  leBytes 4 0x58434C42 ++ leBytes 1 c.tenant ++ leBytes 1 c.state ++ leBytes 2 1 ++ counts.flatMap (leBytes 4)
    ++ List.replicate 28 0 ++ offs.flatMap (leBytes 8) ++ List.replicate 8 0

/-- What a context's area holds (R307): the 4 KiB header, and the records, whose layout no rule gives (log entry 8). -/
def contextImage (c : SavedContext) : Bytes :=
  contextHeader c ++ List.replicate (4096 - (contextHeader c).length) 0 ++ (upto (contextBytes c - 4096)).map (Config.contextRecord c)

/-- Bytes stored in a tenant's M space, 4 KiB at a time, where it translates. -/
def storeBlocks (s : State) (tn va : Nat) (b : Bytes) (who : Poster) : State :=
  (upto ((b.length + 4095) / 4096)).foldl
    (fun s k => match translate s tn (va + 4096 * k) .write with
      | .ok p => writePlace s tn p ((b.drop (4096 * k)).take 4096) who
      | _ => s) s

/-- The context area written through a tenant's translation. -/
def writeContext (s : State) (tn : Nat) (c : SavedContext) (who : Poster) : State := storeBlocks s tn c.area (contextImage c) who

/-- A context taken out of the module: what its area was given is kept, so that the area can be read back. -/
def keepSaved (s : State) (c : SavedContext) : State :=
  { s with saved := c :: s.saved.filter fun x => x.tenant != c.tenant, images := c :: s.images }

/-! ## Context reset and machine check (R297, R303, R305) -/

/-- Every XCHG of a tenant ends: a failure flit to every peer, and nothing more of it is sent or accepted (R328). -/
def endExchanges (s : State) (tn : Nat) : State :=
  let mine := s.xchgs.filter fun x => x.tenant == tn
  let s := mine.foldl
    (fun s x => x.peers.foldl
      (fun s p => if p.dev = s.fabric.dev then s
        else sendPacket s ⟨s.fabric.dev, p.dev, partitionOf s tn, 0, .failure x.tag⟩) s) s
  let late := mine.flatMap fun x => (x.peers.filter fun p => p.counts.isNone && !p.failed).map fun p => (x.tag, p.dev)
  updTenant
    { s with
      xchgs := s.xchgs.filter fun x => x.tenant != tn
      resends := s.resends.filter fun r => !(mine.any fun x => x.id == r.2.1) }
    tn fun t => { t with endedCounts := t.endedCounts ++ late }

/-- A context reset (R297). A tenant that CXSAVE had stopped runs again. -/
def contextReset (s : State) (tn : Nat) : State :=
  let s := (tenantGroups s tn).foldl (fun s p => endGroup s p.1 true) s
  let s := endExchanges s tn
  let s := updTenant s tn fun t =>
    { t with
      queues := [], graphs := [], domains := [], almanac := t.almanac.closed
      state := if t.state = .frozen then .running else t.state }
  let cores := match tfind s.tenants tn with
    | some t => t.config.cores
    | none => []
  let s := if ((tfind s.tenants tn).map fun t => t.config.almanac == .record).getD false then almHeader s tn else s
  { s with
    grids := (s.grids.filter fun p => p.2.tenant != tn || (p.2.placedTeams == p.2.block.gx * p.2.block.gy)).map fun p =>
      if p.2.tenant = tn then
        (p.1, { p.2 with
          isRoot := false, graph := none
          liveTeams := p.2.liveTeams.filter fun tm => (tfind s.teams tm).isSome })
      else p
    keys := s.keys.filter fun e => e.tenant != tn
    procMsgs := s.procMsgs.filter fun m => match m with
      | .request t _ _ _ _ => t != tn
      | .leave t _ _ _ _ _ _ => t != tn
      | .answer _ _ _ => true
    decoders := s.decoders.map fun p =>
      (p.1, { queue := p.2.queue.filter fun r => r.stream.tenant != tn
              entries := p.2.entries.filter fun e => e.stream.tenant != tn })
    patches := s.patches.filter fun p => p.stream.tenant != tn
    rasters := s.rasters.filter fun r => r.tenant != tn
    arrays := s.arrays.filter fun p => !(cores.contains (p.1 / 4))
    faults := s.faults.filter fun f => f.tenant != tn
    fetched := s.fetched.filter fun f => f.tenant != tn }

/-- What a machine check does to its context: freeze, count, save with state 2, reset (R303, R305). -/
def stopContext (s : State) (tn : Nat) : State :=
  match tfind s.tenants tn with
  | none => s
  | some t =>
    let (c, s) := takeContext (countTrap s tn 0x1A) tn t.config.saveArea 2
    contextReset (keepSaved (writeContext s tn c .unit) c) tn

/-- The machine check without a kill record: a log that cannot be written (R303). -/
def machineCheckNoRecord (s : State) (tn : Nat) : State := stopContext (sendMsix s tn 0) tn

/-- A kill record, and MSI-X vector 0 (R298); a full log holds it until a slot frees, and a log that cannot be written is a
log failure (R303). -/
def killRecord (s : State) (tn kw hdr bank lanes : Nat) : State :=
  let kill := leBytes 4 kw ++ leBytes 4 bank ++ leBytes 4 lanes
  match writeRecord s tn hdr 15 0 0 kill with
  | .written s _ => sendMsix s tn 0
  | .full => updTenant s tn fun t => { t with killsPending := t.killsPending ++ [(hdr, kill)] }
  | .failure => machineCheckNoRecord s tn

/-- The machine check of R305: with a kill record of code 0x1A and its interrupt, which a full log holds until a slot frees. -/
def machineCheck (s : State) (tn : Nat) : State :=
  match tfind s.tenants tn with
  | none => s
  | some _ =>
    let kill := leBytes 4 (killWord 0 0 3 tn) ++ leBytes 4 0x1A ++ leBytes 4 0
    match writeRecord s tn 0 15 0 0 kill with
    | .written s _ => stopContext (sendMsix s tn 0) tn
    | .full => stopContext (updTenant s tn fun t => { t with killsPending := t.killsPending ++ [(0, kill)] }) tn
    | .failure => machineCheckNoRecord s tn

/-- A page fault, with the machine check where the log failed (R303). -/
def faultPage (s : State) (tn va agent : Nat) (need : Need) (forbidden : Bool) : State :=
  let (s, bad) := pageFault s tn va agent need forbidden
  if bad then machineCheckNoRecord s tn else s

end Sys2Proof.Machine
end

