-- ==== Sys2Proof/Machine/Operands.lean ====
section
/-! DEFINITION. The operand fields of an instruction and the checks of R34 on them: the flag select (step 4), the register
codes (step 5, R35, R36, R11, R15), the privilege (step 6) and the pending marks (step 7, R25). -/

namespace Sys2Proof.Machine

open Sys2Proof

/-- Which codes a vector field admits: any source of R35, a register (0 to 383), a broadcast code (384 to 505), a scalar
operand of R241 (384 to 503, or 505), or a register or a scalar (R166). -/
inductive VClass where
  | source | register | broadcast | scalar | stored
  deriving DecidableEq, Repr

/-- A vector field: its code, how many consecutive registers it names, and what it admits. -/
structure VUse where
  cls : VClass
  code : Nat
  n : Nat
  deriving DecidableEq, Repr

/-- The register fields of an instruction. `ranges` are register ranges that are only named (R96); `live` are ranges that are
operands (R135); `tracked` is how many destinations it would owe (R24). -/
structure Uses where
  fs : FSel := .none
  vs : List VUse := []
  ks : List Nat := []
  ms : List Nat := []
  mdst : List Nat := []
  bufs : List Nat := []
  ranges : List (Nat × Nat) := []
  live : List (Nat × Nat) := []
  priv : Bool := false
  tracked : Nat := 0
  deriving DecidableEq, Repr

/-- A vector source of n registers, and a vector destination. -/
def vsrc (c : VCode) (n : Nat := 1) : VUse := ⟨.source, c.toNat, n⟩
def vreg (c : VCode) (n : Nat := 1) : VUse := ⟨.register, c.toNat, n⟩
def vbro (c : VCode) : VUse := ⟨.broadcast, c.toNat, 1⟩
def vscalar (c : VCode) : VUse := ⟨.scalar, c.toNat, 1⟩

/-- The data field of a store (R166): any source of 32 bits, a pair or a scalar of 64, four registers of 128. -/
def storeData (c : VCode) (n : Nat) : VUse := ⟨if n = 4 then .register else if n = 2 then .stored else .source, c.toNat, n⟩

/-- How many registers a vector operand of a type takes (R35). -/
def tyRegs (t : Ty) : Nat := if tyWidth t = 64 then 2 else 1

/-- n consecutive registers from a code below 384 lie in the file and in the frame (R15). -/
def inFrame (g : Group) (c n : Nat) : Bool := decide (c + n ≤ 384) && (decide (c + n ≤ 64) || decide (c + n ≤ 64 + g.extent))

/-- Whether a vector field's code is legal: ranges longer than four registers start at a multiple of four (R35, R252). -/
def VUse.legal (g : Group) (u : VUse) : Bool :=
  let reg := decide (u.code < 384) && decide (u.code % min 4 u.n = 0) && inFrame g u.code u.n
  let bro := decide (384 ≤ u.code) && decide (u.code ≤ 505)
  match u.cls with
  | .source => reg || bro
  | .register => reg
  | .broadcast => bro
  | .scalar => bro && u.code != 504
  | .stored => reg || (bro && decide (u.code < 504))

/-- The registers a vector field names. -/
def VUse.names (g : Group) (u : VUse) : List RegName :=
  if u.code < 384 then (upto u.n).map fun i => vName g (u.code + i)
  else if u.code < 504 then [kName g (u.code - 384)]
  else []

/-- The header flag that a flag select names (R41). -/
def flagOf (h : Header) : FSel → Option Nat
  | .none => none
  | .a => h.flagA
  | .b => h.flagB

/-- Step 4 of R34: the flag select names a header flag that is none. -/
def flagMissing (h : Header) (f : FSel) : Bool := f != .none && (flagOf h f).isNone

/-- Whether a register range is legal: within the file and the frame; a count of 0 names nothing. -/
def rangeLegal (g : Group) (r : Nat × Nat) : Bool := decide (r.2 = 0) || inFrame g r.1 r.2

/-- The registers of a range. -/
def rangeNames (g : Group) (r : Nat × Nat) : List RegName := (upto r.2).map fun i => vName g (r.1 + i)

/-- Steps 4 to 7 of R34: the trap code of the first that fails. -/
def checkUses (h : Header) (g : Group) (supervisor : Bool) (u : Uses) : Option Nat :=
  if flagMissing h u.fs then some 0x02
  else if !(u.vs.all (VUse.legal g)) || !(u.ks.all fun k => decide (k < 160)) || u.mdst.contains 0
      || !(u.ranges.all (rangeLegal g)) || !(u.live.all (rangeLegal g)) then some 0x03
  else if u.priv && !supervisor then some 0x16
  else if (u.vs.any fun v => (v.names g).any (pendingReg g)) || (u.ks.any fun k => pendingReg g (kName g k))
      || (u.ms.any fun m => pendingReg g (.m m)) || (u.mdst.any fun m => pendingReg g (.m m))
      || (u.bufs.any fun b => pendingReg g (.buf b)) || (u.live.any fun r => (rangeNames g r).any (pendingReg g)) then some 0x04
  else none

end Sys2Proof.Machine
end

