-- ==== Sys2Proof/Machine/Ops.lean ====
section
/-! DEFINITION. The operations that every meaning is written over: the issuing slot, advancing it, taking a trap and
returning from one (R28, R291 to R298), the spill and fill service (R299 to R301), and issuing an instruction after the
checks of R34. -/

namespace Sys2Proof.Config

/-- The 8 bytes of a spilled link in the link area (R164, R299): no rule lays them out. Free. -/
opaque linkWord : Machine.Link → W64

/-- The link that other bytes of the link area stand for. Free. -/
opaque linkOf : W64 → Machine.Link

end Sys2Proof.Config

namespace Sys2Proof.Machine

open Sys2Proof

/-- The outcome of a step of this machine. -/
abbrev Out := Host.Outcome State Fault Refusal

/-- The issuing slot: its group, its number, its path and the clause it runs. -/
structure Iss where
  gid : Nat
  n : Nat
  g : Group
  slot : Slot
  cl : Clause
  deriving DecidableEq, Repr

/-- The slot that the focus names, with the clause it has begun. -/
def issuer (s : State) : Option Iss :=
  match tfind s.groups s.focus.1 with
  | none => none
  | some g =>
    match slotOf g s.focus.2 with
    | none => none
    | some sl =>
      match sl.clause with
      | none => none
      | some c => some ⟨s.focus.1, s.focus.2, g, sl, c⟩

/-- Whether the compute dies run: out of reset, and no link between them has failed (R315, R343, R353). -/
def moduleUp (s : State) : Bool := !s.diesInReset && s.ucieUp

/-- The path's mask, and the active lanes under a predicate (R12). -/
def Iss.pathMask (i : Iss) : W32 := i.slot.path.mask
def Iss.active (i : Iss) (p : MCode) : W32 := i.slot.path.mask &&& mGet i.g p.toNat

/-- The word at the slot's index. -/
def Iss.word (i : Iss) : W64 := i.cl.words.getD i.slot.path.ix 0

/-- The flag a flag select names in the clause's header. -/
def Iss.flag (i : Iss) (f : FSel) : Option Nat := flagOf i.cl.hdr f

/-- The address of the clause that follows (R30). -/
def nextHeader (hdr : Nat) (c : Clause) : Nat := hdr + 8 * (c.words.length + 1)

/-! ## Advancing a slot -/

/-- A slot that leaves its clause for a header address; gap and give-way bind its next clause (R22). -/
def Slot.leave (now : Nat) (sl : Slot) (c : Clause) (hdr : Nat) : Slot :=
  { sl with
    path := { sl.path with hdr := hdr, ix := 0 }
    clause := none
    resumed := false
    notBefore := now + 1 + c.hdr.gap
    giveWay := c.hdr.giveWay
    offPipe := false }

/-- A slot past an instruction that ends no clause: the next instruction, or the next clause (R30). -/
def Slot.past (now : Nat) (sl : Slot) (c : Clause) : Slot :=
  if sl.path.ix + 1 < c.words.length then { sl with path := { sl.path with ix := sl.path.ix + 1 }, offPipe := false }
  else sl.leave now c (nextHeader sl.path.hdr c)

/-- The group with the issuing slot past its instruction, and no longer parked. -/
def pastG (now : Nat) (i : Iss) (g : Group) : Group :=
  setSlot { g with park := none } i.n ((slotOf g i.n).map fun sl => sl.past now i.cl)

/-- The group with the issuing slot at a header address. -/
def jumpG (now : Nat) (i : Iss) (g : Group) (hdr : Nat) : Group :=
  setSlot { g with park := none } i.n ((slotOf g i.n).map fun sl => sl.leave now i.cl hdr)

/-- The state in which the instruction has completed its issue, with the group as given. -/
def finish (s : State) (i : Iss) (g : Group) : State := putGroup s i.gid (pastG s.now i g)

/-- The state in which it has, with the group as the state holds it. -/
def done (s : State) (i : Iss) : State := updGroup s i.gid (pastG s.now i)

/-- The group with slot n's clause off its pipe and its issue slot (R19, R28). -/
def releasePipe (g : Group) (n : Nat) : Group := setSlot g n ((slotOf g n).map fun sl => { sl with offPipe := sl.clause.isSome })

/-- The group parked at the issuing instruction; since when is kept if it was parked already. The clause releases its pipe and its
issue slot (R19). -/
def park (s : State) (i : Iss) (why : Park) : State :=
  updGroup s i.gid fun g =>
    releasePipe { g with park := some ⟨i.n, match i.g.park with
      | some r => r.since
      | none => s.now, why⟩ } i.n

/-! ## Traps (R28, R291 to R294, R296) -/

/-- The trap bank at entry (R293). -/
def trapBank (n : Nat) (sl : Slot) (code sub : Nat) (ln : W32) (addr : Nat) (word : W64) : List W64 :=
  [BitVec.ofNat 64 (n * 2 ^ 21 + sl.path.ix * 2 ^ 16 + sub * 2 ^ 8 + code), BitVec.ofNat 64 sl.path.hdr,
    BitVec.ofNat 64 ln.toNat, BitVec.ofNat 64 addr, word, BitVec.ofNat 64 (codesWord sl.path.codes), 0, 0]

/-- The trapping path at the handler entry: index 0, and no clause before 24 clocks have passed (R292). -/
def Slot.toHandler (sl : Slot) (now entry : Nat) : Slot :=
  { sl with
    path := { sl.path with hdr := entry, ix := 0 }
    clause := none
    resumed := false
    notBefore := now + 24
    offPipe := false
    fetchWait := none }

/-- The group in handler mode (R292, R26). The other slot stops at its instruction boundary: a clause that it has begun is off its
pipe until RETT (R28). -/
def enterHandler (g : Group) (now n entry : Nat) (sl : Slot) (bank : List W64) : Group :=
  setSlot { releasePipe g (1 - n) with handler := some ⟨n, bank⟩, park := none, near := [] } n (some (sl.toHandler now entry))

/-- A trap raised in slot n of a group: counted, then delivered to the tenant's handler, or, where it is undeliverable,
the death of the tenant's kill scope with a kill record (R292, R296, R298, R351). -/
def takeTrap (s : State) (gid n code sub : Nat) (ln : W32) (addr : Nat) (word : W64) : State :=
  match tfind s.groups gid with
  | none => s
  | some g =>
    match slotOf g n, tfind s.tenants g.tenant with
    | some sl, some t =>
      let s := countTrap s g.tenant code
      if t.config.handler = 0 ∨ g.handler.isSome then
        let b := trapBank n sl code sub ln addr word
        killRecord (killScopeOf s gid t.config.killScope) g.tenant
          (killWord g.position g.core (scopeCode t.config.killScope) g.tenant) sl.path.hdr (b.getD 0 0).toNat ln.toNat
      else
        putGroup s gid (enterHandler g s.now n t.config.handler sl (trapBank n sl code sub ln addr word))
    | _, _ => s

/-- The word that k156 reports: the instruction's, or the header's for 0x02 at index 0 (R293). -/
def headerWord (h : Header) : W64 :=
  BitVec.ofNat 64
    (match h.cls with | .valu => 0 | .salu => 1 | .mem => 2 | .async => 3 | .mtx => 4 | .ray => 5 | .chan => 6 | .sys => 7)
      <<< 60
    ||| BitVec.ofNat 64 h.count <<< 56 ||| BitVec.ofNat 64 h.wait.toNat <<< 44
    ||| BitVec.ofNat 64 (h.flagA.getD 15) <<< 40 ||| BitVec.ofNat 64 (h.flagB.getD 15) <<< 36
    ||| BitVec.ofNat 64 h.gap <<< 33 ||| (if h.giveWay then 0x100000000#64 else 0) ||| 0x5A000000#64

/-- A trap at the issuing instruction with its own subcause, lanes and address. -/
def raiseAt (s : State) (i : Iss) (code sub : Nat) (ln : W32) (addr : Nat) : State :=
  takeTrap s i.gid i.n code sub ln addr (if code = 0x02 ∧ i.slot.path.ix = 0 then headerWord i.cl.hdr else i.word)

/-- A trap at the issuing instruction whose rule names no lanes: the active lanes under its predicate. -/
def raise (s : State) (i : Iss) (code : Nat) (p : MCode := 0) : State := raiseAt s i code 0 (i.active p) 0

/-- What RETT restores (R295): the path at the bank's header, index and codes; handler mode ends, and marks and owed
results of the bank go with it. The gap and the give-way of the clause that RETT ends bind no clause of the resumed path (log entry 97). -/
def leaveHandler (s : State) (gid : Nat) : State :=
  match tfind s.groups gid with
  | none => s
  | some g =>
    match g.handler with
    | none => s
    | some h =>
      let idx := fld (h.bank.getD 0 0).toNat 16 5
      let hdr := (h.bank.getD 1 0).toNat
      let codes := codesOfWord (h.bank.getD 5 0).toNat
      let isBank : RegName → Bool := fun r => match r with
        | .bank _ => true
        | _ => false
      let g := { g with handler := none, marks := g.marks.filter fun k => !(isBank k.reg) }
      putGroup s gid
        (setSlot g h.slot ((slotOf g h.slot).map fun sl =>
          { sl with
            path := { sl.path with hdr := hdr, ix := idx, codes := codes }
            clause := none
            resumed := true
            notBefore := s.now
            offPipe := false }))

/-! ## The spill and fill service (R299 to R301) -/

/-- A register-stack entry with each element replaced. -/
def setEntry (g : Group) (b : Nat) (x : Nat → W32) : Group :=
  { g with vregs := lanes.foldl (fun v l => tset 0 v (vBase (.stack b) + l) (x l)) g.vregs }

/-- Register-stack entries from b, k of them, written to the register area. -/
def spillEntries (s : State) (gid b : Nat) : Nat → State
  | 0 => s
  | k + 1 =>
    match tfind s.groups gid with
    | none => s
    | some g =>
      let s := lanes.foldl
        (fun s l => writeSpace s .d (regAreaAddr g b + 4 * l) 4 (vGet g (.stack b) l).toNat) s
      spillEntries (putGroup s gid (setEntry g b fun _ => 0)) gid (b + 1) k

/-- Register-stack entries from b, k of them, loaded from the register area. -/
def fillEntries (s : State) (gid b : Nat) : Nat → State
  | 0 => s
  | k + 1 =>
    match tfind s.groups gid with
    | none => s
    | some g =>
      let x := fun l => BitVec.ofNat 32 (readNat s.scratch (regAreaAddr g b + 4 * l) 4)
      fillEntries (putGroup s gid (setEntry g b x)) gid (b + 1) k

/-- Entries from b, k of them, discarded without being written. -/
def dropEntries (g : Group) (b k : Nat) : Group :=
  (upto k).foldl (fun g i => setEntry g (b + i) fun _ => 0) g

/-- How many entries the overflow loop moves, in steps of at most 8 (R299). -/
def spillCount (w e s : Nat) : Nat → Nat → Nat
  | 0, _ => 0
  | fuel + 1, rb =>
    if rb + s < w + e then min 8 (w - rb) + spillCount w e s fuel (rb + min 8 (w - rb)) else 0

/-- The service of a register overflow at FRAME e. -/
def spillRegisters (s : State) (gid : Nat) (g : Group) (e : Nat) : State :=
  let k := spillCount g.window e (residentSize g) (g.window + e) g.resBase
  updGroup (spillEntries (countTrap s g.tenant 0x08) gid g.resBase k) gid fun g => { g with resBase := g.resBase + k }

/-- The service of a register underflow at RET with shift sh: res_base goes to W − s exactly. -/
def fillRegisters (s : State) (gid : Nat) (g : Group) (sh : Nat) : State :=
  let rb := g.window - sh
  let k := g.resBase - rb
  let s := fillEntries (countTrap s g.tenant 0x09) gid rb k
  updGroup s gid fun g => { dropEntries g (rb + residentSize g) k with resBase := rb }

/-- Where link n of a group's link stack, the oldest link 0, lies in its link area (R164). -/
def linkAddr (g : Group) (n : Nat) : Nat := g.lBase + 4096 + 8 * n

/-- The service of a link overflow: the resident links are written, oldest first, to the link area; none: it would pass 1,024 (R301).
The links themselves stay data of the group (log entry 10). -/
def spillLinks (s : State) (gid : Nat) (g : Group) : Option State :=
  if 1024 < g.links.length then none
  else
    let s := (upto g.resLinks).foldl
      (fun s k =>
        let n := g.links.length - g.resLinks + k
        writeSpace s .d (linkAddr g n) 8 (Config.linkWord (g.links.reverse.getD n ⟨0, 0, 0⟩)).toNat) s
    some (updGroup (countTrap s g.tenant 0x08) gid fun g => { g with resLinks := 0 })

/-- Link n as the link area holds it: the one that the spill put there, or what other bytes stand for. -/
def linkIn (s : State) (g : Group) (n : Nat) : Link :=
  let l := g.links.reverse.getD n ⟨0, 0, 0⟩
  let w := BitVec.ofNat 64 (readNat s.scratch (linkAddr g n) 8)
  if w = Config.linkWord l then l else Config.linkOf w

/-- The service of a link underflow: the 16 most recently spilled links come back, from the link area. -/
def fillLinks (s : State) (gid : Nat) (g : Group) : State :=
  let n := min 16 g.links.length
  updGroup (countTrap s g.tenant 0x09) gid fun g =>
    { g with
      links := ((upto n).map fun k => linkIn s g (g.links.length - 1 - k)) ++ g.links.drop n
      resLinks := n }

/-! ## Fences and limits (R24, R171, R178) -/

/-- The kinds that FENCE.acq binds. -/
def OwedKind.bindsAcq : OwedKind → Bool
  | .load | .localLoad | .atomic | .mainAtomic | .mwait => true
  | .copy | .other => false

/-- Whether a fence's condition holds. -/
def fenceMet (s : State) (gid : Nat) (g : Group) (f : FenceOpen) : Bool :=
  (!f.rel || !(releaseOpen s gid g f.sys (BitVec.allOnes 32) f.seq)) && (!f.team || !(mwaitOpen s gid (BitVec.allOnes 32) f.seq)) &&
    (!f.acq || !(s.owed.any fun o => o.gid == gid && o.kind.bindsAcq && decide (o.seq < f.seq)))

/-- The fences of a group whose condition does not hold yet. -/
def openFences (s : State) (gid : Nat) (g : Group) : List FenceOpen := g.fences.filter fun f => !(fenceMet s gid g f)

/-- The classes that an open fence holds back. -/
def EngineClass.fenced : EngineClass → Bool
  | .valu | .salu => false
  | _ => true

/-- The classes that the limit on tracked destinations holds back. -/
def EngineClass.limited : EngineClass → Bool
  | .mem | .async | .ray | .chan => true
  | _ => false

/-- Destinations still owed to a group. -/
def trackedCount (s : State) (gid : Nat) : Nat :=
  ((s.owed.filter fun o => o.gid == gid).map fun o => o.dests.length).sum

/-- Whether an instruction that would owe n destinations waits for the limit on tracked destinations (R24, R171). -/
def pastLimit (s : State) (gid : Nat) (cls : EngineClass) (n : Nat) : Bool :=
  cls.limited && (decide (64 ≤ trackedCount s gid) || decide (64 < trackedCount s gid + n))

/-- Whether an instruction waits at its index: a fence is open, or it would pass the limit of 64. -/
def stalls (s : State) (i : Iss) (u : Uses) : Bool :=
  (i.cl.hdr.cls.fenced && !(openFences s i.gid i.g).isEmpty) || pastLimit s i.gid i.cl.hdr.cls u.tracked

/-! ## Pipes and issue slots (R19, R284) -/

inductive Pipe where
  | v | s | m | a
  deriving DecidableEq, Repr

def EngineClass.pipe : EngineClass → Pipe
  | .valu => .v
  | .salu => .s
  | .mem => .m
  | _ => .a

/-- The pipe that a slot's begun clause holds. -/
def Slot.pipe (sl : Slot) : Option Pipe := if sl.offPipe then none else sl.clause.map fun c => c.hdr.cls.pipe

/-- The pipe, and with it the issue slot, that a group holds: it holds at most one. -/
def holdsIssueSlot (g : Group) : Option Pipe :=
  match g.slot0.bind Slot.pipe with
  | some p => some p
  | none => g.slot1.bind Slot.pipe

/-- The pipes that groups of a partition hold. -/
def busyPipes (s : State) (core part : Nat) : List Pipe :=
  (s.groups.filter fun q => q.2.core == core && q.2.position % 8 == part).filterMap fun q => holdsIssueSlot q.2

/-- A clause that is off its pipe cannot take it again, and an issue slot with it, yet (R19, R284). -/
def waitsForPipe (s : State) (i : Iss) : Bool :=
  i.slot.offPipe && ((holdsIssueSlot i.g).isSome ||
    let busy := busyPipes s i.g.core (i.g.position % 8)
    busy.contains i.cl.hdr.cls.pipe || decide (3 ≤ busy.length))

/-! ## Issuing an instruction -/

/-- The group issues nothing from this slot: another slot's instruction has parked it, or the trapping path of its handler
stands in the other slot (R145, R292). -/
def heldBack (g : Group) (n : Nat) : Bool :=
  (match g.park with
    | some r => r.slot != n
    | none => false) ||
  (match g.handler with
    | some h => h.slot != n
    | none => false)

/-- Whether a group's tenant may issue privileged instructions (R309). -/
def isSupervisor (s : State) (g : Group) : Bool :=
  match tfind s.tenants g.tenant with
  | some t => t.config.supervisor
  | none => false

/-- A tenant that CXSAVE has stopped issues nothing, but for an atomic whose lanes another device has performed (R306). -/
def isFrozen (s : State) (g : Group) : Bool :=
  (match tfind s.tenants g.tenant with
    | some t => t.state == .frozen
    | none => false) &&
  (match g.park with
    | some ⟨_, _, .remote _ _ _ _ _ _⟩ => false
    | _ => true)

/-- An instruction of the issuing slot comes up: steps 4 to 7 of R34 on its operands, then its own conditions and effect.
A slot that is held back, or whose instruction must wait, leaves the state as it is. -/
def issueG (s : State) (uf : Group → Uses) (p : MCode) (k : Iss → State) : Out :=
  match issuer s with
  | none => .fault .noIssuer
  | some i =>
    if heldBack i.g i.n || isFrozen s i.g || stalls s i (uf i.g) || waitsForPipe s i then .next s
    else
      match checkUses i.cl.hdr i.g (isSupervisor s i.g) (uf i.g) with
      | some code => .next (raise s i code p)
      | none => .next (k i)

/-- The same for an instruction whose operands its own fields name. -/
def issue (s : State) (u : Uses) (p : MCode) (k : Iss → State) : Out := issueG s (fun _ => u) p k

/-- The value a read of the cycle counter gives, recorded, or forced in replay; none: it must wait (R95, R311, R312). -/
def readClock (s : State) (i : Iss) : Option (W64 × State) :=
  if replaying s i.g.tenant then
    match almNext s i.g.tenant 6 0 (some (almAgent s i.gid)) with
    | some e => some (BitVec.ofNat 64 (leNat (e.payload.take 8)), almTake s i.g.tenant e (2 * i.gid + i.n))
    | none => none
  else
    let x := coreClock s i.g.core
    some (x, almRecord s i.g.tenant 6 (almAgent s i.gid) 0 (leBytes 8 x.toNat))

/-- A read of the cycle counter that replay keeps waiting. -/
def waitClock (s : State) (i : Iss) : State := almWait s i.g.tenant 6 0 (2 * i.gid + i.n)

/-- The slot of a group with the clause it runs. -/
def issOf (s : State) (gid n : Nat) : Option Iss := issuer { s with focus := (gid, n) }

end Sys2Proof.Machine
end

