-- ==== Sys2Proof/Machine/Paths.lean ====
section
/-! DEFINITION. Paths, fragments and the divergence stack (R12, R127 to R131), and the leaving of procession keys by lanes
(R134, R153, R156). -/

namespace Sys2Proof.Config

open Sys2Proof.Machine

/-- Byte k of a group's divergence area while it has these join records and this stack: no rule lays them out (R127). Free. -/
opaque divergenceByte : List JoinRecord → List StackEntry → Nat → Byte

end Sys2Proof.Config

namespace Sys2Proof.Machine

open Sys2Proof

/-- The 4 KiB at the foot of a group's L allocation hold its join records and its stack (R127, R164). The machine works on the group's
own; the bytes are free, and are stored before anyone can read them (log entry 88). -/
def noteDivergence (s : State) (gid : Nat) : State :=
  match tfind s.groups gid with
  | some g => { s with forkAreas := tput s.forkAreas g.lBase (g.joins, g.stack) }
  | none => s

/-- The bytes of the divergence areas that meet a range of scratch are stored: the range is given to someone else. -/
def layAreas (s : State) (a n : Nat) : State :=
  let here := fun (p : Nat × List JoinRecord × List StackEntry) => decide (p.1 < a + n) && decide (a < p.1 + 4096)
  { s with
    scratch := (s.forkAreas.filter here).foldl (fun m p => writeBytes m p.1 ((upto 4096).map (Config.divergenceByte p.2.1 p.2.2))) s.scratch
    forkAreas := s.forkAreas.filter fun p => !(here p) }

/-- A slot that a path enters. -/
def Slot.ofPath (p : Path) (resumed : Bool) (notBefore : Nat) : Slot := ⟨p, none, resumed, notBefore, false, 0, none, false, none⟩

/-- The most recently pushed stacked entry, and the stack without it. -/
def popStacked : List StackEntry → Option (StackEntry × List StackEntry)
  | [] => none
  | e :: es =>
    if e.parked then
      match popStacked es with
      | some (x, r) => some (x, e :: r)
      | none => none
    else some (e, es)

/-- A slot filled from the stack: its next issue is delayed by 8 clocks (R128, R130). -/
def fillSlot (g : Group) (now n : Nat) : Group :=
  match popStacked g.stack with
  | some (e, r) => setSlot { g with stack := r } n (some (Slot.ofPath e.path e.resumed (now + 8)))
  | none => setSlot g n none

/-- The slots refilled when a path leaves slot n (R130). A popped path that takes the slot is bound by the give-way of the clause that
ran there last, whose gap its 8 clocks cover (R22); one that moves from slot 1 is not (log entry 74). -/
def vacate (g : Group) (now n : Nat) (gw : Bool) : Group :=
  let bind := fun (g : Group) => setSlot g n ((slotOf g n).map fun sl => { sl with giveWay := gw })
  if n = 0 then
    match g.slot1 with
    | some sl => fillSlot { g with slot0 := some sl } now 1
    | none => bind (fillSlot g now 0)
  else bind (fillSlot g now 1)

/-- The join record that a token names. -/
def recordOf (g : Group) (tok : W64) : Option JoinRecord := g.joins.find? fun r => r.token == tok

/-- The ending of a path with a token (R131): the records it frees, and the sibling that resumes, if one does, with the lanes that the
fork of both had. -/
def endToken : Nat → Group → W64 → Group × Option (Path × W32)
  | 0, g, _ => (g, none)
  | fuel + 1, g, tok =>
    match recordOf g tok with
    | none => (g, none)
    | some r =>
      if r.live = 2 then
        ({ g with joins := g.joins.map fun x => if x.token = tok then { x with live := 1 } else x }, none)
      else
        let g := { g with joins := g.joins.filter fun x => x.token != tok }
        if r.parked then
          match g.stack.find? fun e => e.parked && e.path.token == tok with
          | some e => ({ g with stack := g.stack.erase e }, some ({ e.path with token := r.parent }, r.lanes))
          | none => (g, none)
        else endToken fuel g r.parent

/-- The path of slot n ends (R100, R131): a sibling that resumes takes its slot, else the slots are refilled. The gap and the give-way
of the clause that ended it bind the slot's next clause (R22). -/
def endPathG (g : Group) (now n : Nat) (h : Header) : Group :=
  match slotOf g n with
  | none => g
  | some sl =>
    let g := { g with
      park := none
      handler := match g.handler with
        | some h => if h.slot = n then none else some h
        | none => none }
    match endToken 33 g sl.path.token with
    | (g, some (p, _)) => setSlot g n (some { Slot.ofPath p false (now + 1 + h.gap) with giveWay := h.giveWay })
    | (g, none) => vacate g now n h.giveWay

/-- The lanes of the fork whose sibling resumes as a path with a token ends; 0 where none does. -/
def resumeLanes (g : Group) (tok : W64) : W32 := ((endToken 33 g tok).2.map fun p => p.2).getD 0

/-- Lanes of a path give up their holdings; an entrant none of whose lanes holds any longer leaves its key (R134, R153). -/
def leaveLanes (s : State) (gid : Nat) (path ls : W32) : State :=
  match tfind s.groups gid with
  | none => s
  | some g =>
    let gone := g.holdings.filter fun h => laneIn ls h.lane
    let rest := g.holdings.filter fun h => !(laneIn ls h.lane)
    let ents := (gone.map fun h => (h.entrant, h.handle, h.key)).eraseDups
    let left := ents.filter fun e => !(rest.any fun h => h.entrant == e.1)
    let msgs := left.map fun e =>
      ProcMsg.leave g.tenant (fld e.2.1.toNat 0 6) e.2.2 e.1 gid s.nextSeq (releasedBy s gid g path)
    putGroup { s with procMsgs := s.procMsgs ++ msgs } gid { g with holdings := rest }

/-- The issuing path ends, and the group when no path remains (R100, R156). The accesses of its fork's sides precede those of a sibling
that resumes (R181). -/
def exitPath (s : State) (i : Iss) : State :=
  let g' := endPathG i.g s.now i.n i.cl.hdr
  if g'.slot0.isNone then endGroup s i.gid false
  else
    noteDivergence
      (updGroup (widenReqs (leaveLanes s i.gid i.pathMask i.pathMask) i.gid (resumeLanes i.g i.slot.path.token)) i.gid
        fun g => endPathG g s.now i.n i.cl.hdr)
      i.gid

/-- FORK's lowest free record (R127, R128). -/
def freeRecordIx (g : Group) : Option Nat := (upto 32).find? fun r => !(g.joins.any fun x => x.index == r)

/-- The group after FORK (R128). `tgt` is the label, `nxt` the next clause. When slot 1 issues it, the smaller side that takes slot 1 is
bound by the 8 clocks of the push and by no give-way (log entry 75); a path that it displaces within a begun clause goes on with that
clause's rest when it is popped (log entry 95). -/
def forkG (now : Nat) (i : Iss) (g : Group) (r kt tgt nxt : Nat) (t f : W32) : Group :=
  let tok : W64 := BitVec.ofNat 64 (g.forkSerial * 65536 + r)
  let g := applyWrite g (kWrite g kt tok)
  let live := (if t = 0 then 0 else 1) + (if f = 0 then 0 else 1)
  let g := { g with
    joins := g.joins ++ [⟨r, tok, i.slot.path.token, live, false, i.pathMask⟩]
    forkSerial := if g.forkSerial = 65535 then 1 else g.forkSerial + 1
    park := none }
  let side := fun (m : W32) (h : Nat) => { i.slot.path with hdr := h, ix := 0, mask := m, token := tok }
  let tMinor := decide (popcount 32 t.toNat ≤ popcount 32 f.toNat)
  let minor := if tMinor then side t tgt else side f nxt
  let major := if tMinor then side f nxt else side t tgt
  let stay := { (i.slot.leave now i.cl major.hdr) with path := major }
  if minor.mask = 0 then setSlot g i.n (some stay)
  else if i.n = 0 then
    match g.slot1 with
    | some d => { g with
        slot0 := some stay
        slot1 := some (Slot.ofPath minor false (now + 8))
        stack := ⟨d.path, d.resumed || d.clause.isSome, false⟩ :: g.stack }
    | none => { g with slot0 := some stay, slot1 := some (Slot.ofPath minor false (now + 1)) }
  else
    { g with slot1 := some (Slot.ofPath minor false (now + 8)), stack := ⟨major, false, false⟩ :: g.stack }

/-- The group after JOIN (R129). -/
def joinG (now : Nat) (i : Iss) (g : Group) (r : JoinRecord) (label : Nat) : Group :=
  let g := { g with park := none }
  if r.live = 2 then
    vacate { g with
      joins := g.joins.map fun x => if x.token = r.token then { x with live := 1, parked := true } else x
      stack := ⟨{ i.slot.path with hdr := label, ix := 0 }, false, true⟩ :: g.stack } now i.n i.cl.hdr.giveWay
  else
    let other := if r.parked then g.stack.find? fun e => e.parked && e.path.token == r.token else none
    let sl := i.slot.leave now i.cl label
    match other with
    | some e =>
      setSlot { g with joins := g.joins.filter fun x => x.token != r.token, stack := g.stack.erase e } i.n
        (some { sl with path := { sl.path with mask := i.slot.path.mask ||| e.path.mask, token := r.parent } })
    | none =>
      setSlot { g with joins := g.joins.filter fun x => x.token != r.token } i.n
        (some { sl with path := { sl.path with token := r.parent } })

end Sys2Proof.Machine
end

