-- ==== Sys2Proof/Machine/Valu.lean ====
section
/-! DEFINITION. The VALU's integer, logic, bit-field, move, lane and mask instructions (R75 to R77, R80 to R94, R133). Each
writes its destination in its active lanes, reading every source before any lane is written. -/

namespace Sys2Proof.Machine

open Sys2Proof

/-- A VALU instruction: each active lane's writes, from the group as it stood (R29, R77). -/
def valu (s : State) (u : Uses) (p : MCode) (f : Iss → Nat → List RegWrite) : Out :=
  issue s { u with ms := p.toNat :: u.ms } p fun i =>
    finish s i (applyWrites i.g ((lanesOf (i.active p)).flatMap (f i)))

/-- The operands of a VALU instruction of a type: the destination and its sources (R35). -/
def vUses (t : Ty) (d : VCode) (srcs : List VCode) : Uses :=
  { vs := vreg d (tyRegs t) :: srcs.map fun a => vsrc a (tyRegs t) }

/-- A source read at the registers of a type. -/
def vRead (t : Ty) (i : Iss) (a : VCode) (l : Nat) : Nat := srcLane i.g a.toNat l (tyRegs t)

/-- The write of a w-bit result, extended to its registers (R56). -/
def vResult (t : Ty) (i : Iss) (d : VCode) (l x : Nat) : List RegWrite :=
  laneWrites i.g d.toNat l (tyRegs t) (extendTo t (32 * tyRegs t) x)

/-- A one-, two- or three-source operation on raw operands. -/
def valu3 (s : State) (t : Ty) (d a b c : VCode) (p : MCode) (f : Nat → Nat → Nat → Nat) : Out :=
  valu s (vUses t d [a, b, c]) p fun i l => vResult t i d l (f (vRead t i a l) (vRead t i b l) (vRead t i c l))

def valu2 (s : State) (t : Ty) (d a b : VCode) (p : MCode) (f : Nat → Nat → Nat) : Out :=
  valu s (vUses t d [a, b]) p fun i l => vResult t i d l (f (vRead t i a l) (vRead t i b l))

def valu1 (s : State) (t : Ty) (d a : VCode) (p : MCode) (f : Nat → Nat) : Out :=
  valu s (vUses t d [a]) p fun i l => vResult t i d l (f (vRead t i a l))

/-- The immediate form of an operation on 32 bits (R43). -/
def valuImm (s : State) (d a : VCode) (p : MCode) (imm : W32) (f : Nat → Nat → Nat) : Out :=
  valu s (vUses .b32 d [a]) p fun i l => vResult .b32 i d l (f (vRead .b32 i a l) imm.toNat)

/-- An arithmetic result from raw operands (R80). -/
def arith (op : ArithOp) (t : Ty) (sat : Bool) (x y z : Nat) : Nat :=
  deliver t sat (exactArith op (tyWidth t) (tyVal t x) (tyVal t y) (tyVal t z))

/-- IADDC and ISUBB in one lane (R81): the result, and the carry or borrow out. -/
def carryLane (sub : Bool) (w x y cin : Nat) : Nat × Bool :=
  let x := x % 2 ^ w
  let y := y % 2 ^ w
  if sub then (wrapBits w ((x : Int) - y - cin), decide (x < y + cin)) else ((x + y + cin) % 2 ^ w, decide (2 ^ w ≤ x + y + cin))

/-- The carry instructions of the VALU (R81). -/
def valuCarry (s : State) (sub : Bool) (t : Ty) (d a b : VCode) (mc p : MCode) : Out :=
  valu s { vUses t d [a, b] with mdst := [mc.toNat] } p fun i l =>
    let cin := if laneIn (mGet i.g mc.toNat) l then 1 else 0
    let (x, c) := carryLane sub (tyWidth t) (vRead t i a l) (vRead t i b l) cin
    vResult t i d l x ++ [.maskLane mc.toNat l c]

/-- The contents of a special register in one lane (R14, R37), but for the clock. -/
def specialValue (s : State) (i : Iss) (code l : Nat) : Nat :=
  match code with
  | 0 => l
  | 1 => i.g.index
  | 2 => match teamOf s i.g with
    | some t => t.index
    | none => 0
  | 3 => i.g.index * 32 + l
  | 4 => i.g.core
  | 5 => clusterOf i.g.core
  | 6 => dieOf i.g.core
  | 7 => s.fabric.dev
  | 8 => i.g.tenant
  | 9 => i.g.role
  | 11 => i.g.fflags.toNat
  | 12 => i.g.batch.toNat
  | 13 => i.pathMask.toNat
  | _ => 0

/-- IADD in the VALU (R80). -/
def execIaddVr (d a b : VCode) (p : MCode) (t : Ty) (sat : Bool) (s : State) : Out :=
  valu2 s t d a b p fun x y => arith .add t sat x y 0

/-- ISUB in the VALU (R80). -/
def execIsubVr (d a b : VCode) (p : MCode) (t : Ty) (sat : Bool) (s : State) : Out :=
  valu2 s t d a b p fun x y => arith .sub t sat x y 0

/-- IMUL in the VALU (R80). -/
def execImulVr (d a b : VCode) (p : MCode) (t : Ty) (s : State) : Out :=
  valu2 s t d a b p fun x y => arith .mul t false x y 0

/-- IMULH in the VALU (R80). -/
def execImulhVr (d a b : VCode) (p : MCode) (t : Ty) (s : State) : Out :=
  valu2 s t d a b p fun x y => arith .mulh t false x y 0

/-- IMAD in the VALU (R80). -/
def execImadVr (d a b c : VCode) (p : MCode) (t : Ty) (sat : Bool) (s : State) : Out :=
  valu3 s t d a b c p (arith .mad t sat)

/-- IMIN in the VALU (R80). -/
def execIminVr (d a b : VCode) (p : MCode) (t : Ty) (s : State) : Out :=
  valu2 s t d a b p fun x y => arith .min t false x y 0

/-- IMAX in the VALU (R80). -/
def execImaxVr (d a b : VCode) (p : MCode) (t : Ty) (s : State) : Out :=
  valu2 s t d a b p fun x y => arith .max t false x y 0

/-- IABS in the VALU (R80). -/
def execIabsVr (d a : VCode) (p : MCode) (t : Ty) (s : State) : Out :=
  valu1 s t d a p fun x => arith .abs t false x 0 0

/-- INEG in the VALU (R80). -/
def execInegVr (d a : VCode) (p : MCode) (t : Ty) (s : State) : Out :=
  valu1 s t d a p fun x => arith .neg t false x 0 0

/-- IADDC in the VALU (R81). -/
def execIaddcVr (d a b : VCode) (mc p : MCode) (t : Ty) (s : State) : Out :=
  valuCarry s false t d a b mc p

/-- ISUBB in the VALU (R81). -/
def execIsubbVr (d a b : VCode) (mc p : MCode) (t : Ty) (s : State) : Out :=
  valuCarry s true t d a b mc p

/-- AND in the VALU (R82). -/
def execAndVr (d a b : VCode) (p : MCode) (t : Ty) (s : State) : Out :=
  valu2 s t d a b p (logicBits .and (tyWidth t))

/-- OR in the VALU (R82). -/
def execOrVr (d a b : VCode) (p : MCode) (t : Ty) (s : State) : Out :=
  valu2 s t d a b p (logicBits .or (tyWidth t))

/-- XOR in the VALU (R82). -/
def execXorVr (d a b : VCode) (p : MCode) (t : Ty) (s : State) : Out :=
  valu2 s t d a b p (logicBits .xor (tyWidth t))

/-- ANDN in the VALU (R82). -/
def execAndnVr (d a b : VCode) (p : MCode) (t : Ty) (s : State) : Out :=
  valu2 s t d a b p (logicBits .andn (tyWidth t))

/-- SHL in the VALU (R82). -/
def execShlVr (d a b : VCode) (p : MCode) (t : Ty) (s : State) : Out :=
  valu2 s t d a b p (logicBits .shl (tyWidth t))

/-- SHR in the VALU (R82). -/
def execShrVr (d a b : VCode) (p : MCode) (t : Ty) (s : State) : Out :=
  valu2 s t d a b p (logicBits .shr (tyWidth t))

/-- SAR in the VALU (R82). -/
def execSarVr (d a b : VCode) (p : MCode) (t : Ty) (s : State) : Out :=
  valu2 s t d a b p (logicBits .sar (tyWidth t))

/-- ROL in the VALU (R82). -/
def execRolVr (d a b : VCode) (p : MCode) (t : Ty) (s : State) : Out :=
  valu2 s t d a b p (logicBits .rol (tyWidth t))

/-- BTAB in the VALU (R83). -/
def execBtabVr (d a b c : VCode) (tt : BitVec 8) (p : MCode) (t : Ty) (s : State) : Out :=
  valu3 s t d a b c p (btabBits tt (tyWidth t))

/-- POPC in the VALU (R84). -/
def execPopcVr (d a : VCode) (p : MCode) (t : Ty) (s : State) : Out :=
  valu1 s t d a p (countBits .popc (tyWidth t))

/-- CLZ in the VALU (R84). -/
def execClzVr (d a : VCode) (p : MCode) (t : Ty) (s : State) : Out :=
  valu1 s t d a p (countBits .clz (tyWidth t))

/-- CTZ in the VALU (R84). -/
def execCtzVr (d a : VCode) (p : MCode) (t : Ty) (s : State) : Out :=
  valu1 s t d a p (countBits .ctz (tyWidth t))

/-- BREV in the VALU (R84). -/
def execBrevVr (d a : VCode) (p : MCode) (t : Ty) (s : State) : Out :=
  valu1 s t d a p (countBits .brev (tyWidth t))

/-- BFX in the VALU (R85). -/
def execBfxVr (d a b c : VCode) (p : MCode) (t : Ty) (s : State) : Out :=
  valu3 s t d a b c p (bfxBits t)

/-- BINS in the VALU (R85). -/
def execBinsVr (d a b c : VCode) (p : MCode) (t : Ty) (s : State) : Out :=
  valu3 s t d a b c p (binsBits (tyWidth t))

/-- FFCS in the VALU (R86): the word is written first, then the index, whose one register is the model's choice (log entry 69). -/
def execFfcsVr (d a : VCode) (p : MCode) (s : State) : Out :=
  valu s { vs := [vreg d, vreg a 2] } p fun i l =>
    let (ix, w) := ffcsWord (srcLane i.g a.toNat l 2)
    laneWrites i.g a.toNat l 2 w ++ laneWrites i.g d.toNat l 1 ix

/-- PLSET in the VALU (R87). -/
def execPlsetVr (d a b c : VCode) (p : MCode) (t : Ty) (s : State) : Out :=
  valu3 s t d a b c p fun x y z => (plsetWord (tyWidth t) x y z).1

/-- LEA in the VALU (R88). -/
def execLeaVr (d a b c : VCode) (p : MCode) (t : Ty) (s : State) : Out :=
  valu3 s t d a b c p (leaBits t)

/-- ICMP in the VALU (R89). -/
def execIcmpVr (md : MCode) (cond : ICond) (a b : VCode) (p : MCode) (t : Ty) (s : State) : Out :=
  valu s { vs := [vsrc a (tyRegs t), vsrc b (tyRegs t)], mdst := [md.toNat] } p fun i l =>
    [.maskLane md.toNat l (icmpHolds cond (tyWidth t) (vRead t i a l) (vRead t i b l))]

/-- SEL in the VALU (R92). -/
def execSelVr (d a b : VCode) (ms p : MCode) (t : Ty) (s : State) : Out :=
  valu s { vUses t d [a, b] with ms := [ms.toNat] } p fun i l =>
    vResult t i d l (if laneIn (mGet i.g ms.toNat) l then vRead t i a l else vRead t i b l)

/-- MOV in the VALU (R91). -/
def execMovVr (d a : VCode) (p : MCode) (t : Ty) (s : State) : Out :=
  valu1 s t d a p (countBits .mov (tyWidth t))

/-- LSHUF (R93): the value of a in the source lane that the mode computes. -/
def execLshuf (d a b : VCode) (mode : LaneMode) (p : MCode) (t : Ty) (s : State) : Out :=
  valu s (vUses t d [a, b]) p fun i l => vResult t i d l (vRead t i a (shufLane mode l (vRead t i b l)))

/-- BCAST (R93): the value of a in lane (b of the lowest active lane) mod 32. -/
def execBcast (d a b : VCode) (p : MCode) (t : Ty) (s : State) : Out :=
  valu s (vUses t d [a, b]) p fun i l =>
    vResult t i d l (vRead t i a (vRead t i b ((lanesOf (i.active p)).headD 0) % 32))

/-- ELECT (R133): the whole mask, with only the lowest active lane's bit, or 0. -/
def execElect (md p : MCode) (s : State) : Out :=
  issue s { ms := [p.toNat], mdst := [md.toNat] } p fun i =>
    finish s i (applyWrite i.g (.mask md.toNat (match lanesOf (i.active p) with
      | [] => 0
      | l :: _ => BitVec.ofNat 32 (2 ^ l))))

/-- MOVS in the VALU (R94): a code of 14 or more is illegal (R37); the clock's read may wait in replay (R312). -/
def execMovsVr (d : VCode) (sr : BitVec 9) (p : MCode) (t : Ty) (s : State) : Out :=
  if sr = 10 then
    issue s { vs := [vreg d 2], ms := [p.toNat] } p fun i =>
      match readClock s i with
      | some (x, s) => finish s i (applyWrites i.g ((lanesOf (i.active p)).flatMap fun l => laneWrites i.g d.toNat l 2 x.toNat))
      | none => waitClock s i
  else
    valu s { vs := [vreg d (tyRegs t)], ks := if 14 ≤ sr.toNat then [255] else [] } p fun i l =>
      laneWrites i.g d.toNat l 1 (specialValue s i sr.toNat l)

/-- MOVI in the VALU (R91). -/
def execMoviVi (d : VCode) (p : MCode) (imm : W32) (s : State) : Out :=
  valu s (vUses .b32 d []) p fun i l => vResult .b32 i d l imm.toNat

/-- IADD with an immediate (R80, R43). -/
def execIaddVi (d a : VCode) (p : MCode) (imm : W32) (s : State) : Out :=
  valuImm s d a p imm fun x y => arith .add .n32 false x y 0

/-- IMUL with an immediate (R80, R43). -/
def execImulVi (d a : VCode) (p : MCode) (imm : W32) (s : State) : Out :=
  valuImm s d a p imm fun x y => arith .mul .n32 false x y 0

/-- AND with an immediate (R82, R43). -/
def execAndVi (d a : VCode) (p : MCode) (imm : W32) (s : State) : Out :=
  valuImm s d a p imm (logicBits .and 32)

/-- OR with an immediate (R82, R43). -/
def execOrVi (d a : VCode) (p : MCode) (imm : W32) (s : State) : Out :=
  valuImm s d a p imm (logicBits .or 32)

/-- XOR with an immediate (R82, R43). -/
def execXorVi (d a : VCode) (p : MCode) (imm : W32) (s : State) : Out :=
  valuImm s d a p imm (logicBits .xor 32)

/-- SHL with an immediate (R82, R43). -/
def execShlVi (d a : VCode) (p : MCode) (imm : W32) (s : State) : Out :=
  valuImm s d a p imm (logicBits .shl 32)

/-- SHR with an immediate (R82, R43). -/
def execShrVi (d a : VCode) (p : MCode) (imm : W32) (s : State) : Out :=
  valuImm s d a p imm (logicBits .shr 32)

/-- SAR with an immediate (R82, R43). -/
def execSarVi (d a : VCode) (p : MCode) (imm : W32) (s : State) : Out :=
  valuImm s d a p imm (logicBits .sar 32)

/-- ICMP with an immediate in the VALU (R89, R43). -/
def execIcmpVi (md : MCode) (cond : ICond) (a : VCode) (p : MCode) (imm : W32) (s : State) : Out :=
  valu s { vs := [vsrc a], mdst := [md.toNat] } p fun i l =>
    [.maskLane md.toNat l (icmpHolds cond 32 (vRead .b32 i a l) imm.toNat)]

end Sys2Proof.Machine
end

