-- ==== Sys2Proof/Machine/Salu.lean ====
section
/-! DEFINITION. The SALU's arithmetic, logic, mask and move instructions (R78 to R92, R94, R95): they run once per group on
64-bit scalars, and with cc = 1 write the issuing slot's condition codes. -/

namespace Sys2Proof.Machine

open Sys2Proof

/-- A SALU instruction: its writes, and the codes it sets where cc = 1 (R78). -/
def salu (s : State) (u : Uses) (cc : Bool) (f : Iss → List RegWrite × Codes) : Out :=
  issue s u 0 fun i =>
    let (ws, k) := f i
    let g := applyWrites i.g ws
    finish s i (if cc then setSlot g i.n ((slotOf g i.n).map fun sl => sl.withCodes k) else g)

/-- A scalar source. -/
def kRead (i : Iss) (c : KCode) : Nat := (kGet i.g c.toNat).toNat

/-- A w-bit result in a scalar, extended to 64 bits (R56). -/
def kResult (t : Ty) (i : Iss) (d : KCode) (x : Nat) : List RegWrite := [kWrite i.g d.toNat (BitVec.ofNat 64 (extendTo t 64 x))]

/-- Three, two or one scalar sources: the result and its codes from the raw operands. -/
def salu3 (s : State) (t : Ty) (d a b c : KCode) (cc : Bool) (f : Nat → Nat → Nat → Nat) (k : Nat → Nat → Nat → Nat → Codes) : Out :=
  salu s { ks := [d.toNat, a.toNat, b.toNat, c.toNat] } cc fun i =>
    let x := kRead i a
    let y := kRead i b
    let z := kRead i c
    (kResult t i d (f x y z), k x y z (f x y z))

def salu2 (s : State) (t : Ty) (d a b : KCode) (cc : Bool) (f : Nat → Nat → Nat) (k : Nat → Nat → Nat → Codes) : Out :=
  salu s { ks := [d.toNat, a.toNat, b.toNat] } cc fun i =>
    (kResult t i d (f (kRead i a) (kRead i b)), k (kRead i a) (kRead i b) (f (kRead i a) (kRead i b)))

def salu1 (s : State) (t : Ty) (d a : KCode) (cc : Bool) (f : Nat → Nat) (k : Nat → Nat → Codes) : Out :=
  salu s { ks := [d.toNat, a.toNat] } cc fun i => (kResult t i d (f (kRead i a)), k (kRead i a) (f (kRead i a)))

/-- The immediate form: the second operand is the extended immediate (R44). -/
def saluImm (s : State) (t : Ty) (d a : KCode) (cc : Bool) (imm : W32) (f : Nat → Nat → Nat) (k : Nat → Nat → Nat → Codes) : Out :=
  salu s { ks := [d.toNat, a.toNat] } cc fun i =>
    (kResult t i d (f (kRead i a) (extendImm t imm)),
      k (kRead i a) (extendImm t imm) (f (kRead i a) (extendImm t imm)))

/-- A mask operation (R90). -/
def maskOp (s : State) (md : MCode) (srcs : List MCode) (cc : Bool) (f : Iss → W32) : Out :=
  salu s { ms := srcs.map fun m => m.toNat, mdst := [md.toNat] } cc fun i =>
    ([.mask md.toNat (f i)], zCodes (decide (f i = 0)))

def mRead (i : Iss) (m : MCode) : W32 := mGet i.g m.toNat

/-- IADD in the SALU (R80, R78). -/
def execIaddSr (d a b : KCode) (t : Ty) (sat : Bool) (cc : Bool) (s : State) : Out :=
  salu2 s t d a b cc (fun x y => arith .add t sat x y 0) fun x y r => arithCodes .add t x y 0 r

/-- ISUB in the SALU (R80, R78). -/
def execIsubSr (d a b : KCode) (t : Ty) (sat : Bool) (cc : Bool) (s : State) : Out :=
  salu2 s t d a b cc (fun x y => arith .sub t sat x y 0) fun x y r => arithCodes .sub t x y 0 r

/-- IMUL in the SALU (R80, R78). -/
def execImulSr (d a b : KCode) (t : Ty) (cc : Bool) (s : State) : Out :=
  salu2 s t d a b cc (fun x y => arith .mul t false x y 0) fun x y r => arithCodes .mul t x y 0 r

/-- IMULH in the SALU (R80, R78). -/
def execImulhSr (d a b : KCode) (t : Ty) (cc : Bool) (s : State) : Out :=
  salu2 s t d a b cc (fun x y => arith .mulh t false x y 0) fun x y r => arithCodes .mulh t x y 0 r

/-- IMAD in the SALU (R80, R78). -/
def execImadSr (d a b c : KCode) (t : Ty) (sat : Bool) (cc : Bool) (s : State) : Out :=
  salu3 s t d a b c cc (arith .mad t sat) (arithCodes .mad t)

/-- IMIN in the SALU (R80, R78). -/
def execIminSr (d a b : KCode) (t : Ty) (cc : Bool) (s : State) : Out :=
  salu2 s t d a b cc (fun x y => arith .min t false x y 0) fun x y r => arithCodes .min t x y 0 r

/-- IMAX in the SALU (R80, R78). -/
def execImaxSr (d a b : KCode) (t : Ty) (cc : Bool) (s : State) : Out :=
  salu2 s t d a b cc (fun x y => arith .max t false x y 0) fun x y r => arithCodes .max t x y 0 r

/-- IABS in the SALU (R80, R78). -/
def execIabsSr (d a : KCode) (t : Ty) (cc : Bool) (s : State) : Out :=
  salu1 s t d a cc (fun x => arith .abs t false x 0 0) fun x r => arithCodes .abs t x 0 0 r

/-- INEG in the SALU (R80, R78). -/
def execInegSr (d a : KCode) (t : Ty) (cc : Bool) (s : State) : Out :=
  salu1 s t d a cc (fun x => arith .neg t false x 0 0) fun x r => arithCodes .neg t x 0 0 r

/-- IADDC in the SALU (R81): the carry in is the slot's C. -/
def execIaddcSr (d a b : KCode) (t : Ty) (cc : Bool) (s : State) : Out :=
  salu s { ks := [d.toNat, a.toNat, b.toNat] } cc fun i =>
    let cin := if i.slot.path.codes.c then 1 else 0
    let r := (carryLane false (tyWidth t) (kRead i a) (kRead i b) cin).1
    (kResult t i d r, addCodes (tyWidth t) (kRead i a) (kRead i b) cin r)

/-- ISUBB in the SALU (R81): the borrow in is 1 − C. -/
def execIsubbSr (d a b : KCode) (t : Ty) (cc : Bool) (s : State) : Out :=
  salu s { ks := [d.toNat, a.toNat, b.toNat] } cc fun i =>
    let bin := if i.slot.path.codes.c then 0 else 1
    let r := (carryLane true (tyWidth t) (kRead i a) (kRead i b) bin).1
    (kResult t i d r, subCodes (tyWidth t) (kRead i a) (kRead i b) bin r)

/-- AND in the SALU (R82). -/
def execAndSr (d a b : KCode) (t : Ty) (cc : Bool) (s : State) : Out :=
  salu2 s t d a b cc (logicBits .and (tyWidth t)) fun _ _ r => plainCodes (tyWidth t) r

/-- OR in the SALU (R82). -/
def execOrSr (d a b : KCode) (t : Ty) (cc : Bool) (s : State) : Out :=
  salu2 s t d a b cc (logicBits .or (tyWidth t)) fun _ _ r => plainCodes (tyWidth t) r

/-- XOR in the SALU (R82). -/
def execXorSr (d a b : KCode) (t : Ty) (cc : Bool) (s : State) : Out :=
  salu2 s t d a b cc (logicBits .xor (tyWidth t)) fun _ _ r => plainCodes (tyWidth t) r

/-- ANDN in the SALU (R82). -/
def execAndnSr (d a b : KCode) (t : Ty) (cc : Bool) (s : State) : Out :=
  salu2 s t d a b cc (logicBits .andn (tyWidth t)) fun _ _ r => plainCodes (tyWidth t) r

/-- SHL in the SALU (R82). -/
def execShlSr (d a b : KCode) (t : Ty) (cc : Bool) (s : State) : Out :=
  salu2 s t d a b cc (logicBits .shl (tyWidth t)) fun _ _ r => plainCodes (tyWidth t) r

/-- SHR in the SALU (R82). -/
def execShrSr (d a b : KCode) (t : Ty) (cc : Bool) (s : State) : Out :=
  salu2 s t d a b cc (logicBits .shr (tyWidth t)) fun _ _ r => plainCodes (tyWidth t) r

/-- SAR in the SALU (R82). -/
def execSarSr (d a b : KCode) (t : Ty) (cc : Bool) (s : State) : Out :=
  salu2 s t d a b cc (logicBits .sar (tyWidth t)) fun _ _ r => plainCodes (tyWidth t) r

/-- ROL in the SALU (R82). -/
def execRolSr (d a b : KCode) (t : Ty) (cc : Bool) (s : State) : Out :=
  salu2 s t d a b cc (logicBits .rol (tyWidth t)) fun _ _ r => plainCodes (tyWidth t) r

/-- BTAB in the SALU (R83). -/
def execBtabSr (d a b c : KCode) (tt : BitVec 8) (t : Ty) (cc : Bool) (s : State) : Out :=
  salu3 s t d a b c cc (btabBits tt (tyWidth t)) fun _ _ _ r => plainCodes (tyWidth t) r

/-- POPC in the SALU (R84). -/
def execPopcSr (d a : KCode) (t : Ty) (cc : Bool) (s : State) : Out :=
  salu1 s t d a cc (countBits .popc (tyWidth t)) fun _ r => plainCodes (tyWidth t) r

/-- CLZ in the SALU (R84). -/
def execClzSr (d a : KCode) (t : Ty) (cc : Bool) (s : State) : Out :=
  salu1 s t d a cc (countBits .clz (tyWidth t)) fun _ r => plainCodes (tyWidth t) r

/-- CTZ in the SALU (R84). -/
def execCtzSr (d a : KCode) (t : Ty) (cc : Bool) (s : State) : Out :=
  salu1 s t d a cc (countBits .ctz (tyWidth t)) fun _ r => plainCodes (tyWidth t) r

/-- BREV in the SALU (R84). -/
def execBrevSr (d a : KCode) (t : Ty) (cc : Bool) (s : State) : Out :=
  salu1 s t d a cc (countBits .brev (tyWidth t)) fun _ r => plainCodes (tyWidth t) r

/-- BFX in the SALU (R85). -/
def execBfxSr (d a b c : KCode) (t : Ty) (cc : Bool) (s : State) : Out :=
  salu3 s t d a b c cc (bfxBits t) fun _ _ _ r => plainCodes (tyWidth t) r

/-- BINS in the SALU (R85). -/
def execBinsSr (d a b c : KCode) (t : Ty) (cc : Bool) (s : State) : Out :=
  salu3 s t d a b c cc (binsBits (tyWidth t)) fun _ _ _ r => plainCodes (tyWidth t) r

/-- FFCS in the SALU (R86): Z reports a full word. -/
def execFfcsSr (d a : KCode) (cc : Bool) (s : State) : Out :=
  salu s { ks := [d.toNat, a.toNat] } cc fun i =>
    let (ix, w) := ffcsWord (kRead i a)
    ([kWrite i.g a.toNat (BitVec.ofNat 64 w), kWrite i.g d.toNat (BitVec.ofNat 64 ix)], zCodes (decide (ix = 64)))

/-- PLSET in the SALU (R87): Z reports a refusal. -/
def execPlsetSr (d a b c : KCode) (t : Ty) (cc : Bool) (s : State) : Out :=
  salu3 s t d a b c cc (fun x y z => (plsetWord (tyWidth t) x y z).1) fun x y z _ => zCodes (plsetWord (tyWidth t) x y z).2

/-- LEA in the SALU (R88). -/
def execLeaSr (d a b c : KCode) (t : Ty) (cc : Bool) (s : State) : Out :=
  salu3 s t d a b c cc (leaBits t) fun _ _ _ r => plainCodes (tyWidth t) r

/-- ICMP in the SALU (R89): all ones or zero in the mask, with the codes of x − y. -/
def execIcmpSr (md : MCode) (cond : ICond) (a b : KCode) (t : Ty) (cc : Bool) (s : State) : Out :=
  salu s { ks := [a.toNat, b.toNat], mdst := [md.toNat] } cc fun i =>
    let x := kRead i a
    let y := kRead i b
    ([.mask md.toNat (if icmpHolds cond (tyWidth t) x y then BitVec.allOnes 32 else 0)],
      arithCodes .sub t x y 0 (arith .sub t false x y 0))

/-- SEL in the SALU (R92). -/
def execSelSr (d a b : KCode) (ms : MCode) (t : Ty) (cc : Bool) (s : State) : Out :=
  salu s { ks := [d.toNat, a.toNat, b.toNat], ms := [ms.toNat] } cc fun i =>
    let r := countBits .mov (tyWidth t) (if mRead i ms ≠ 0 then kRead i a else kRead i b)
    (kResult t i d r, plainCodes (tyWidth t) r)

/-- MOV in the SALU (R91). -/
def execMovSr (d a : KCode) (t : Ty) (cc : Bool) (s : State) : Out :=
  salu1 s t d a cc (countBits .mov (tyWidth t)) fun _ r => plainCodes (tyWidth t) r

/-- MAND (R90). -/
def execMand (md ma mb : MCode) (cc : Bool) (s : State) : Out :=
  maskOp s md [ma, mb] cc fun i => mRead i ma &&& mRead i mb

/-- MOR (R90). -/
def execMor (md ma mb : MCode) (cc : Bool) (s : State) : Out :=
  maskOp s md [ma, mb] cc fun i => mRead i ma ||| mRead i mb

/-- MXOR (R90). -/
def execMxor (md ma mb : MCode) (cc : Bool) (s : State) : Out :=
  maskOp s md [ma, mb] cc fun i => mRead i ma ^^^ mRead i mb

/-- MANDN (R90). -/
def execMandn (md ma mb : MCode) (cc : Bool) (s : State) : Out :=
  maskOp s md [ma, mb] cc fun i => mRead i ma &&& ~~~(mRead i mb)

/-- MNOT (R90). -/
def execMnot (md ma : MCode) (cc : Bool) (s : State) : Out :=
  maskOp s md [ma] cc fun i => ~~~(mRead i ma)

/-- MMOV (R90). -/
def execMmov (md ma : MCode) (cc : Bool) (s : State) : Out :=
  maskOp s md [ma] cc fun i => mRead i ma

/-- MPOPC (R90). -/
def execMpopc (d : KCode) (ma : MCode) (cc : Bool) (s : State) : Out :=
  salu s { ks := [d.toNat], ms := [ma.toNat] } cc fun i =>
    ([kWrite i.g d.toNat (BitVec.ofNat 64 (popcount 32 (mRead i ma).toNat))], zCodes (decide (mRead i ma = 0)))

/-- MFIRST (R90): 32 when the mask is 0. -/
def execMfirst (d : KCode) (ma : MCode) (cc : Bool) (s : State) : Out :=
  salu s { ks := [d.toNat], ms := [ma.toNat] } cc fun i =>
    ([kWrite i.g d.toNat (BitVec.ofNat 64 (ctz 32 (mRead i ma).toNat))], zCodes (decide (mRead i ma = 0)))

/-- MOVS in the SALU, the read form (R94): codes 0 and 3, and 14 and above, are illegal (R37). -/
def execMovsSr (d : KCode) (sr : BitVec 8) (s : State) : Out :=
  issue s { ks := d.toNat :: if sr = 0 ∨ sr = 3 ∨ 14 ≤ sr.toNat then [255] else [] } 0 fun i =>
    if sr = 10 then
      match readClock s i with
      | some (x, s) => finish s i (applyWrite i.g (kWrite i.g d.toNat x))
      | none => waitClock s i
    else finish s i (applyWrite i.g (kWrite i.g d.toNat (BitVec.ofNat 64 (specialValue s i sr.toNat 0))))

/-- MOVS to %fflags (R94). -/
def execMovsFflagsWrite (a : KCode) (s : State) : Out :=
  issue s { ks := [a.toNat] } 0 fun i =>
    finish s i { i.g with fflags := BitVec.ofNat 5 (kRead i a % 32) }

/-- CLOCK (R95). -/
def execClock (d : KCode) (s : State) : Out :=
  issue s { ks := [d.toNat] } 0 fun i =>
    match readClock s i with
    | some (x, s) => finish s i (applyWrite i.g (kWrite i.g d.toNat x))
    | none => waitClock s i

/-- MOVI in the SALU (R91, R44). -/
def execMoviSi (d : KCode) (t : Ty) (cc : Bool) (imm : W32) (s : State) : Out :=
  salu s { ks := [d.toNat] } cc fun i =>
    let r := countBits .mov (tyWidth t) (extendImm t imm)
    ([kWrite i.g d.toNat (BitVec.ofNat 64 (extendImm t imm))], plainCodes (tyWidth t) r)

/-- IADD with an immediate in the SALU (R80, R44). -/
def execIaddSi (d a : KCode) (t : Ty) (cc : Bool) (imm : W32) (s : State) : Out :=
  saluImm s t d a cc imm (fun x y => arith .add t false x y 0) fun x y r => arithCodes .add t x y 0 r

/-- ISUB with an immediate in the SALU (R80, R44). -/
def execIsubSi (d a : KCode) (t : Ty) (cc : Bool) (imm : W32) (s : State) : Out :=
  saluImm s t d a cc imm (fun x y => arith .sub t false x y 0) fun x y r => arithCodes .sub t x y 0 r

/-- IMUL with an immediate in the SALU (R80, R44). -/
def execImulSi (d a : KCode) (t : Ty) (cc : Bool) (imm : W32) (s : State) : Out :=
  saluImm s t d a cc imm (fun x y => arith .mul t false x y 0) fun x y r => arithCodes .mul t x y 0 r

/-- IMIN with an immediate in the SALU (R80, R44). -/
def execIminSi (d a : KCode) (t : Ty) (cc : Bool) (imm : W32) (s : State) : Out :=
  saluImm s t d a cc imm (fun x y => arith .min t false x y 0) fun x y r => arithCodes .min t x y 0 r

/-- IMAX with an immediate in the SALU (R80, R44). -/
def execImaxSi (d a : KCode) (t : Ty) (cc : Bool) (imm : W32) (s : State) : Out :=
  saluImm s t d a cc imm (fun x y => arith .max t false x y 0) fun x y r => arithCodes .max t x y 0 r

/-- AND with an immediate in the SALU (R82, R44). -/
def execAndSi (d a : KCode) (t : Ty) (cc : Bool) (imm : W32) (s : State) : Out :=
  saluImm s t d a cc imm (logicBits .and (tyWidth t)) fun _ _ r => plainCodes (tyWidth t) r

/-- OR with an immediate in the SALU (R82, R44). -/
def execOrSi (d a : KCode) (t : Ty) (cc : Bool) (imm : W32) (s : State) : Out :=
  saluImm s t d a cc imm (logicBits .or (tyWidth t)) fun _ _ r => plainCodes (tyWidth t) r

/-- XOR with an immediate in the SALU (R82, R44). -/
def execXorSi (d a : KCode) (t : Ty) (cc : Bool) (imm : W32) (s : State) : Out :=
  saluImm s t d a cc imm (logicBits .xor (tyWidth t)) fun _ _ r => plainCodes (tyWidth t) r

/-- SHL with an immediate in the SALU (R82): the amount is the immediate read as unsigned. -/
def execShlSi (d a : KCode) (t : Ty) (cc : Bool) (imm : W32) (s : State) : Out :=
  saluImm s t d a cc imm (fun x _ => logicBits .shl (tyWidth t) x imm.toNat) fun _ _ r => plainCodes (tyWidth t) r

/-- SHR with an immediate in the SALU (R82): the amount is the immediate read as unsigned. -/
def execShrSi (d a : KCode) (t : Ty) (cc : Bool) (imm : W32) (s : State) : Out :=
  saluImm s t d a cc imm (fun x _ => logicBits .shr (tyWidth t) x imm.toNat) fun _ _ r => plainCodes (tyWidth t) r

/-- SAR with an immediate in the SALU (R82): the amount is the immediate read as unsigned. -/
def execSarSi (d a : KCode) (t : Ty) (cc : Bool) (imm : W32) (s : State) : Out :=
  saluImm s t d a cc imm (fun x _ => logicBits .sar (tyWidth t) x imm.toNat) fun _ _ r => plainCodes (tyWidth t) r

/-- ICMP with an immediate in the SALU (R89). -/
def execIcmpSi (md : MCode) (cond : ICond) (a : KCode) (t : Ty) (cc : Bool) (imm : W32) (s : State) : Out :=
  salu s { ks := [a.toNat], mdst := [md.toNat] } cc fun i =>
    let x := kRead i a
    let y := extendImm t imm
    ([.mask md.toNat (if icmpHolds cond (tyWidth t) x y then BitVec.allOnes 32 else 0)],
      arithCodes .sub t x y 0 (arith .sub t false x y 0))

end Sys2Proof.Machine
end

