-- ==== Sys2Proof/Machine/Control.lean ====
section
/-! DEFINITION. Control transfer, the register window, fragments, RETIRE, ROLE and REORDER (R17, R96 to R100, R124 to R136),
and the steps that grant a role's budget and move reordered threads. -/

namespace Sys2Proof.Machine

open Sys2Proof

/-- A branch target: the clause's own header plus 8 times the signed offset (R45). -/
def branchTarget (i : Iss) (off : W32) : Nat := (((i.slot.path.hdr : Int) + 8 * off.toInt) % (2 ^ 64 : Nat)).toNat

/-- An instruction that handler mode forbids (R294): its trap is undeliverable there. -/
def unlessHandler (s : State) (i : Iss) (k : State) : State := if i.g.handler.isSome then raise s i 0x01 else k

/-- NOP (R34, R100). -/
def execNop (s : State) : Out := issue s {} 0 fun i => finish s i i.g

/-- BRA (R97). -/
def execBra (cond : BCond) (mk : MCode) (off : W32) (s : State) : Out :=
  issue s { ms := if cond.testsMask then [mk.toNat] else [] } 0 fun i =>
    if condHolds cond i.slot.path.codes (mGet i.g mk.toNat) then
      putGroup s i.gid (jumpG s.now i i.g (branchTarget i off))
    else finish s i i.g

/-- JMP (R98). -/
def execJmp (a : KCode) (s : State) : Out :=
  issue s { ks := [a.toNat] } 0 fun i =>
    let t := kRead i a
    if t % 8 ≠ 0 then raiseAt s i 0x05 0 i.pathMask t
    else putGroup s i.gid (jumpG s.now i i.g t)

/-- CALL (R17, R99). -/
def execCall (sh : BitVec 9) (off : W32) (s : State) : Out :=
  issueG s (fun g => { ks := if g.extent < sh.toNat then [255] else [] }) 0 fun i =>
    unlessHandler s i
      (if !i.g.joins.isEmpty then raise s i 0x01
      else if i.g.resLinks = 16 then
        match spillLinks s i.gid i.g with
        | some s => s
        | none => raiseAt s i 0x08 3 i.pathMask 0
      else
        let link : Link := ⟨nextHeader i.slot.path.hdr i.cl, sh.toNat, i.g.extent⟩
        let g := { i.g with
          links := link :: i.g.links
          resLinks := i.g.resLinks + 1
          window := i.g.window + sh.toNat
          extent := i.g.extent - sh.toNat
          near := [] }
        putGroup s i.gid (jumpG s.now i g (branchTarget i off)))

/-- RET (R17, R99). -/
def execRet (s : State) : Out :=
  issue s {} 0 fun i =>
    unlessHandler s i
      (if !i.g.joins.isEmpty then raise s i 0x01
      else
        match i.g.links with
        | [] => raise s i 0x01
        | l :: rest =>
          if i.g.resLinks = 0 then fillLinks s i.gid i.g
          else if i.g.window < i.g.resBase + l.shift then fillRegisters s i.gid i.g l.shift
          else
            let g := { i.g with
              links := rest
              resLinks := i.g.resLinks - 1
              window := i.g.window - l.shift
              extent := l.extent
              near := [] }
            putGroup s i.gid (jumpG s.now i g l.ret))

/-- FRAME (R17, R99, R301). -/
def execFrame (e : BitVec 32) (s : State) : Out :=
  issueG s (fun g => { ks := if residentSize g < e.toNat then [255] else [] }) 0 fun i =>
    unlessHandler s i
      (if !i.g.joins.isEmpty then raise s i 0x01
      else if i.g.regArea < 128 * (i.g.window + e.toNat) then raiseAt s i 0x08 3 i.pathMask 0
      else if i.g.resBase + residentSize i.g < i.g.window + e.toNat then spillRegisters s i.gid i.g e.toNat
      else finish s i { i.g with extent := e.toNat, near := [] })

/-- RHEAD (R96, R26): the buffer holds the names staged; only clocks depend on it. -/
def execRhead (s1 : VCode) (n1 : BitVec 6) (s2 : VCode) (n2 : BitVec 6) (s : State) : Out :=
  issue s { ranges := [(s1.toNat, n1.toNat), (s2.toNat, n2.toNat)] } 0 fun i =>
    finish s i { i.g with
      near := ((upto n1.toNat).map (s1.toNat + ·) ++ (upto n2.toNat).map (s2.toNat + ·)).eraseDups }

/-- EXIT (R100, R294). -/
def execExit (s : State) : Out := issue s {} 0 fun i => exitPath s i

/-- FORK (R128). -/
def execFork (kt : KCode) (ms : MCode) (off : W32) (s : State) : Out :=
  issue s { ks := [kt.toNat], ms := [ms.toNat] } 0 fun i =>
    unlessHandler s i
      (match freeRecordIx i.g with
      | none => raise s i 0x0A
      | some r =>
        noteDivergence
          (putGroup s i.gid
            (forkG s.now i i.g r kt.toNat (branchTarget i off) (nextHeader i.slot.path.hdr i.cl)
              (i.pathMask &&& mRead i ms) (i.pathMask &&& ~~~(mRead i ms))))
          i.gid)

/-- JOIN (R129): what its sides issued precedes all that the path past it issues (R181). -/
def execJoin (kt : KCode) (off : W32) (s : State) : Out :=
  issue s { ks := [kt.toNat] } 0 fun i =>
    unlessHandler s i
      (let k := kGet i.g kt.toNat
      if k = 0 ∨ k ≠ i.slot.path.token then raise s i 0x01
      else
        match recordOf i.g k with
        | none => raise s i 0x01
        | some r =>
          noteDivergence
            (putGroup (if r.live = 2 then s else widenReqs s i.gid r.lanes) i.gid (joinG s.now i i.g r (branchTarget i off)))
            i.gid)

/-- RETIRE (R134). -/
def execRetire (p : MCode) (s : State) : Out :=
  issue s { ms := [p.toNat] } p fun i =>
    unlessHandler s i
      (if i.active p = 0 then finish s i i.g
      else if i.active p = i.pathMask then exitPath s i
      else
        updGroup (leaveLanes s i.gid i.pathMask (i.active p)) i.gid fun g =>
          pastG s.now i (setSlot g i.n ((slotOf g i.n).map fun sl =>
            { sl with path := { sl.path with mask := sl.path.mask &&& ~~~(i.active p) } })))

/-! ## ROLE (R124 to R126) -/

/-- Whether every result and engine request of a group is done. -/
def drained (s : State) (gid : Nat) : Bool :=
  !(s.owed.any fun o => o.gid == gid) && !(s.copies.any fun c => c.gid == gid) &&
    !(s.arrays.any fun a => a.2.jobs.any fun j => j.gid == gid) && !(s.patches.any fun p => p.gid == gid) &&
    !(s.decoders.any fun d => d.2.queue.any (fun r => r.gid == gid) || d.2.entries.any fun e => e.reqs.any fun r => r.gid == gid)
    && !(s.rasters.any fun r => r.gid == gid) && !(s.xchgs.any fun x => x.gid == gid)

/-- The declared role of a team. -/
def Team.role (t : Team) (n : Nat) : Option Role := t.roles.find? fun r => r.number == n

/-- ROLE (R125): it drains, gives its budget back, and waits for the new one. -/
def execRole (n : BitVec 2) (s : State) : Out :=
  issue s {} 0 fun i =>
    unlessHandler s i
      (match teamOf s i.g with
      | none => s
      | some t =>
        match t.role n.toNat with
        | none => raise s i 0x01
        | some _ =>
          if i.g.slot1.isSome || !i.g.joins.isEmpty || !i.g.links.isEmpty then raise s i 0x01
          else
            match i.g.park with
            | some ⟨_, _, .roleGrant _⟩ => s
            | _ =>
              if drained s i.gid then
                park (updGroup s i.gid fun g => { g with flags := [], marks := [], budget := 0 })
                  { i with g := { i.g with park := none } } (.roleGrant n.toNat)
              else park s i (.roleDrain n.toNat))

/-- The partition of a group: position mod 8 (R121). -/
def Group.partition (g : Group) : Nat := g.position % 8

/-- The groups of a partition, the ended ones that still hold their budget among them. -/
def partitionGroups (s : State) (core part : Nat) : List (Nat × Group) :=
  s.groups.filter fun p => p.2.core == core && p.2.partition == part

/-- A team's role headroom in each partition that hosts it (R124). -/
def headroom (roles : List Role) : Nat :=
  match roles.map fun r => r.budget with
  | [] => 0
  | b :: bs => bs.foldl max b - bs.foldl min b

/-- The budget in which a team's groups start. -/
def launchBudget (s : State) (t : Team) : Nat :=
  match tfind s.grids t.grid with
  | some g => match t.role g.block.role with
    | some r => r.budget
    | none => g.block.budget
  | none => 0

/-- How much of a team's headroom in a partition its groups' budgets have not taken up: what they hold above their launch role's budget
counts as taken up, and what a group has given back takes up none (log entry 78). -/
def unusedHeadroom (s : State) (core part tm : Nat) (t : Team) : Nat :=
  let gs := (partitionGroups s core part).filter fun p => p.2.team == tm
  if gs.isEmpty then 0
  else headroom t.roles - ((gs.map fun p => p.2.budget).sum - launchBudget s t * gs.length)

/-- Registers that a request of a team may have: those no resident group holds, less the headroom kept for other teams
(R124, R126). -/
def freeRegisters (s : State) (core part tm : Nat) : Nat :=
  1024 - ((partitionGroups s core part).map fun p => p.2.budget).sum
    - ((s.teams.filter fun t => t.1 != tm).map fun t => unusedHeadroom s core part t.1 t.2).sum

/-- ROLE_GRANT (R126): the oldest request of the partition is granted once free registers cover it, of requests made in one clock the
lower group identifier first (log entry 77); the group starts its new role (R125). Gap and give-way of the clause that held the ROLE
bind its first clause (R22). -/
def execRoleGrant (gid : Nat) (s : State) : Out :=
  .next
    (match tfind s.groups gid with
    | none => s
    | some g =>
      match g.park, teamOf s g with
      | some ⟨sl, since, .roleGrant n⟩, some t =>
        let older := (partitionGroups s g.core g.partition).any fun p =>
          match p.2.park with
          | some ⟨_, c, .roleGrant _⟩ => decide (c < since) || (decide (c = since) && decide (p.1 < gid))
          | _ => false
        match t.role n with
        | some r =>
          if older || decide (freeRegisters s g.core g.partition g.team < r.budget) then s
          else
            putGroup s gid
              (setSlot { g with
                park := none, budget := r.budget, window := 0, extent := 0, resBase := 0, links := [], resLinks := 0
                vregs := g.vregs.filter fun p => decide (p.1 < 2048)
                near := [], role := n } sl
                ((slotOf g sl).map fun x => match x.clause with
                  | some c => x.leave s.now c r.entry
                  | none => x))
        | none => s
      | _, _ => s)

/-! ## REORDER (R135, R136) -/

/-- The four ranges of a live-list descriptor. -/
def liveRanges (x : Nat) : List (Nat × Nat) :=
  [48, 32, 16, 0].map fun o => (fld x (o + 7) 9, fld x o 7)

/-- REORDER (R135): the group arrives; the move itself is REORDER_MOVE. -/
def execReorder (ka kb : KCode) (key : VCode) (p : MCode) (s : State) : Out :=
  issueG s
    (fun g =>
      { vs := [vsrc key], ks := [ka.toNat, kb.toNat], ms := [p.toNat]
        live := if decide (kb.toNat < 160) && !(pendingReg g (kName g kb.toNat)) then
          liveRanges (kGet g kb.toNat).toNat else [] })
    p fun i =>
      unlessHandler s i
        (let rs := liveRanges (kGet i.g kb.toNat).toNat
        if 64 < (rs.map fun r => r.2).sum || (rs.any fun r => r.2 == 0 && r.1 != 0) || i.g.slot1.isSome ||
            !i.g.joins.isEmpty || (i.g.holdings.any fun h => laneIn i.pathMask h.lane) then raise s i 0x01 p
        else
          match i.g.park with
          | some ⟨_, _, .reorder _ _ _ _⟩ => s
          | _ => park s i (.reorder (kGet i.g kb.toNat) key (i.active p) ka.toNat))

/-- What a participant presented. -/
def Group.reorderArrival (g : Group) : Option (W64 × VCode × W32 × Nat) :=
  match g.park with
  | some ⟨_, _, .reorder d k p ka⟩ => some (d, k, p, ka)
  | _ => none

/-- The moved registers of a thread: v0 and the live list (R136). -/
def movedCodes (d : W64) : List Nat :=
  (0 :: (liveRanges d.toNat).flatMap fun r => (upto r.2).map (r.1 + ·)).eraseDups

/-- The threads of the participants, sorted stably by key, by group, by lane. -/
def sortedThreads (gs : List (Nat × Group)) (key : VCode) : List (Nat × Group × Nat) :=
  sortBy (fun t => srcLane t.2.1 key.toNat t.2.2 1)
    (gs.flatMap fun p =>
      match p.2.reorderArrival with
      | some (_, _, pred, _) => (lanesOf pred).map fun l => (p.1, p.2, l)
      | none => [])

/-- One participant after the move: its threads' values, its lane count, its path mask; it ends where it has none. What is left of its
clause takes its pipe again (R19). The path's accesses, whatever its lanes were, precede its later ones (R181). -/
def reorderGroup (codes : List Nat) (ts : List (Nat × Group × Nat)) (s : State) (p : Nat × Group) : State :=
  match issOf s p.1 0, p.2.reorderArrival with
  | some i, some (_, _, _, ka) =>
    if ts.isEmpty then endGroup s p.1 false
    else
      let ws := ((upto ts.length).zip ts).flatMap fun (l, t) =>
        codes.map fun c => RegWrite.lane (vName p.2 c) l (vGet t.2.1 (vName t.2.1 c) t.2.2)
      let g := applyWrites p.2 (ws ++ [kWrite p.2 ka (BitVec.ofNat 64 ts.length)])
      let g := setSlot { g with near := [] } 0 ((slotOf g 0).map fun sl =>
        { sl with path := { sl.path with mask := BitVec.ofNat 32 (2 ^ ts.length - 1) } })
      putGroup (widenReqs s p.1 (BitVec.allOnes 32)) p.1 (releasePipe (pastG s.now i g) 0)
  | _, _ => s

/-- The participants one by one, each taking the next 32 threads. -/
def reorderAll (codes : List Nat) : List (Nat × Group) → List (Nat × Group × Nat) → State → State
  | [], _, s => s
  | p :: ps, ts, s => reorderAll codes ps (ts.drop 32) (reorderGroup codes (ts.take 32) s p)

/-- REORDER_MOVE (R136): once every live group of the team on the core has arrived, the threads move; arrivals that differ
raise 0x01 in every participant and move nothing. -/
def execReorderMove (tm core : Nat) (s : State) : Out :=
  let gs := sortBy (fun p => p.2.index) (s.groups.filter fun p => p.2.live && p.2.team == tm && p.2.core == core)
  .next
    (match gs.map fun p => p.2.reorderArrival with
    | [] => s
    | none :: _ => s
    | some (d, k, _, _) :: _ =>
      if gs.any fun p => p.2.reorderArrival.isNone then s
      else if gs.all fun p => match p.2.reorderArrival with
          | some (d', k', _, _) => d' == d && k' == k
          | none => false then
        reorderAll (movedCodes d) gs (sortedThreads gs k) s
      else
        gs.foldl
          (fun s p => match issOf s p.1 0 with
            | some i => raiseAt s i 0x01 0 (match p.2.reorderArrival with
              | some (_, _, pr, _) => pr
              | none => 0) 0
            | none => s) s)

end Sys2Proof.Machine
end

