-- ==== Sys2Proof/Machine/Mem.lean ====
section
/-! DEFINITION. The MEM instructions (R159 to R178): loads and stores, atomics and reductions, barriers, MWAIT and FENCE. -/

namespace Sys2Proof.Machine

open Sys2Proof

/-! ## Addresses and their checks (R160) -/

/-- The spaces that a load or a store names. -/
inductive LSpace where
  | l | t | d
  deriving DecidableEq, Repr

/-- An address: base + addr + 4 × offset modulo 2^64 (R160). -/
def addressOf (i : Iss) (base : KCode) (x : Nat) (off : BitVec 12) : Nat :=
  ((((kGet i.g base.toNat).toNat + x : Nat) : Int) + 4 * off.toInt) % (2 ^ 64 : Nat) |>.toNat

/-- The active lanes with their addresses. -/
def laneAddrs (i : Iss) (p : MCode) (base : KCode) (addr : VCode) (off : BitVec 12) : List (Nat × Nat) :=
  (lanesOf (i.active p)).map fun l => (l, addressOf i base (srcLane i.g addr.toNat l 1) off)

/-- Tsize of a team (R161). -/
def Team.tsize (t : Team) : Nat := t.tPerCore * t.cores.length

/-- Whether a byte lies in a D window of a team, with write permission where it is needed (R162). -/
def inWindow (ws : List Window) (write : Bool) (a : Nat) : Bool :=
  ws.any fun w => decide (w.base ≤ a) && decide (a < w.base + w.size) && (!write || w.write)

/-- Whether n bytes, at most 64 KiB, lie inside the allocation of R159. -/
def inAllocation (s : State) (g : Group) (sp : LSpace) (write : Bool) (a n : Nat) : Bool :=
  match sp with
  | .l => decide (a + n ≤ g.progArea)
  | .t => match teamOf s g with
    | some t => decide (a + n ≤ t.tsize)
    | none => false
  | .d => match teamOf s g with
    | some t => inWindow t.windows write a && inWindow t.windows write (a + n - 1)
    | none => false

/-- The trap of a failed allocation check (R159). -/
def LSpace.trap : LSpace → Nat
  | .l | .d => 0x07
  | .t => 0x06

/-- Whether an access touches a registered barrier's record (R174). -/
def touchesBarrier (s : State) (g : Group) (a n : Nat) : Bool :=
  match teamOf s g with
  | some t => t.inBarrier a n
  | none => false

/-- The lanes of a check that fail, as a mask with the lowest one's address; none: no lane fails. -/
def failing (bad : List (Nat × Nat)) : Option (W32 × Nat) :=
  match bad with
  | [] => none
  | x :: _ => some (maskOf (bad.map fun y => y.1), x.2)

/-- The two checks of R160: the trap's code, its lanes and the lowest lane's address. `guarded` accesses may not touch a
registered barrier (R174). -/
def checkLanes (s : State) (i : Iss) (sp : LSpace) (write guarded : Bool) (n : Nat) (las : List (Nat × Nat)) :
    Option (Nat × W32 × Nat) :=
  match failing (las.filter fun x =>
    !(inAllocation s i.g sp write x.2 n) || (guarded && sp == .t && touchesBarrier s i.g x.2 n)) with
  | some (m, a) => some (sp.trap, m, a)
  | none =>
    match failing (las.filter fun x => decide (x.2 % n ≠ 0)) with
    | some (m, a) => some (0x05, m, a)
    | none => none

/-- Where an access of a group is performed: the space and the address in it (R161, R164). -/
def placeIn (g : Group) (sp : LSpace) (a : Nat) : Space × Nat :=
  match sp with
  | .l => (.d, progAreaAddr g + a)
  | .t => (.t g.team, a)
  | .d => (.d, a)

/-- The requests, of those given, that a core has outstanding at a slice (R171): the halves of a 128-bit access are one. -/
def outstanding (rs : List Req) (core slice : Nat) : Nat :=
  ((rs.filter fun r => r.core == core && sliceOf r.space (128 * r.line) == some slice).map
    fun r => (r.seq, r.line)).eraseDups.length

/-- Whether new requests would take a core past 16 at a slice; an instruction that needs more than 16 on its own issues when
the core has none there, and its requests go there 16 at a time (log entry 30). -/
def sliceFull (s : State) (core : Nat) (sp : Space) (ls : List LaneReq) : Bool :=
  let slices := (byLine ls).filterMap fun p => sliceOf sp (128 * p.1)
  slices.any fun x => decide (0 < outstanding s.reqs core x) &&
    decide (16 < outstanding s.reqs core x + (slices.filter fun y => y == x).length)

/-- An instruction that would owe a result but has no active lane: its destinations are marked pending, and its flag completes
at once, so that its count stays (R166, R177, R241, R252). -/
def oweNothing (s : State) (i : Iss) (flag : Option Nat) (dests : List RegName) : State :=
  done (updGroup s i.gid fun g => markPending g dests flag) i

/-! ## Loads and stores (R166) -/

/-- The width at which an access is performed: 128 bits are two 64-bit halves (R166, R183). -/
def partWidth : Width → Width
  | .w128 => .w64
  | w => w

/-- The parts of an access, low half first: `ls` are its lanes; `y` of a part is the offset of the registers it fills. -/
def accessParts (wd : Width) (ls : List LaneReq) : List (List LaneReq) :=
  match wd with
  | .w128 => [ls.map fun l => { l with x := l.x % 2 ^ 64 }, ls.map fun l => { l with addr := l.addr + 8, x := l.x / 2 ^ 64, y := 2 }]
  | _ => [ls]

/-- A load. -/
def loadOp (s : State) (sp : LSpace) (data addr : VCode) (base : KCode) (p : MCode) (wd : Width) (fs : FSel)
    (off : BitVec 12) : Out :=
  issue s { fs := fs, vs := [vreg data (widthRegs wd), vsrc addr], ks := [base.toNat], ms := [p.toNat]
            tracked := widthRegs wd } p fun i =>
    let las := laneAddrs i p base addr off
    match checkLanes s i sp false false (widthBytes wd) las with
    | some (code, m, a) => raiseAt s i code 0 m a
    | none =>
      let place := (placeIn i.g sp 0).1
      let ls := las.map fun x => (⟨x.1, (placeIn i.g sp x.2).2, 0, 0⟩ : LaneReq)
      if sliceFull s i.g.core place ls then s
      else
        let d := vName i.g data.toNat
        let kind : OwedKind := if sp = .l then .localLoad else .load
        if ls.isEmpty then oweNothing (bumpSeq s) i (i.flag fs) (regSpan d (widthRegs wd))
        else
          let parts := accessParts wd ls
          let (id, s) := oweResult s i.gid kind (i.flag fs) (regSpan d (widthRegs wd)) [] (parts.map fun x => (byLine x).length).sum
          done (bumpSeq (parts.foldl
            (fun s x => pushReqs s i.gid i.g i.pathMask i.g.core place (.load (partWidth wd) d) (i.active p) (some id) x) s)) i

/-- A posted store: b64 takes a pair or a scalar, b128 four registers. -/
def storeOp (s : State) (sp : LSpace) (data addr : VCode) (base : KCode) (p : MCode) (wd : Width) (off : BitVec 12) : Out :=
  issue s { vs := [storeData data (widthRegs wd), vsrc addr], ks := [base.toNat]
            ms := [p.toNat] } p fun i =>
    let las := laneAddrs i p base addr off
    match checkLanes s i sp true true (widthBytes wd) las with
    | some (code, m, a) => raiseAt s i code 0 m a
    | none =>
      let place := (placeIn i.g sp 0).1
      let ls := las.map fun x =>
        (⟨x.1, (placeIn i.g sp x.2).2, srcLane i.g data.toNat x.1 (widthRegs wd), 0⟩ : LaneReq)
      if sliceFull s i.g.core place ls then s
      else
        done (bumpSeq ((accessParts wd ls).foldl
          (fun s x => pushReqs s i.gid i.g i.pathMask i.g.core place (.store (partWidth wd)) (i.active p) none x) s)) i

/-! ## Atomics and reductions (R167 to R170) -/

/-- The registers an atomic takes from its data field (R168). -/
def atomRegs (op : AtomOp) (wide : Bool) : Nat := (if wide then 2 else 1) * max 1 (atomOperands op)

/-- The data field of ATOM and of RED (R168). -/
def atomData (op : AtomOp) (wide ret : Bool) (data : VCode) : VUse :=
  if ret || atomOperands op = 2 then vreg data (atomRegs op wide) else vsrc data (atomRegs op wide)

/-- One lane's operands. -/
def atomLane (i : Iss) (op : AtomOp) (wide : Bool) (data : VCode) (l a : Nat) : LaneReq :=
  let n := if wide then 2 else 1
  ⟨l, a, if atomOperands op = 0 then 0 else srcLane i.g data.toNat l n,
    if atomOperands op = 2 then srcLane i.g (data.toNat + n) l n else 0⟩

/-- The registers that receive an atomic's return. -/
def atomDest (i : Iss) (wide : Bool) (data : VCode) : List RegName := regSpan (vName i.g data.toNat) (if wide then 2 else 1)

/-- An owed result whose instruction had parked was issued when it first came up (R351). -/
def issuedAt (s : State) (id : Nat) (i : Iss) : State :=
  match i.g.park with
  | some r => { s with owed := updateWhere (fun o => o.id == id) (fun o => { o with issued := r.since }) s.owed }
  | none => s

/-- An atomic's lanes sent to one space, its return owed where it has one. -/
def sendAtomic (s : State) (i : Iss) (op : AtomOp) (wide ret : Bool) (data : VCode) (p : MCode) (fs : FSel) (kind : OwedKind)
    (parts : List (Space × Nat × List LaneReq)) (have_ : List RegWrite) : State :=
  let d := vName i.g data.toNat
  let r := if ret then some (d, d) else none
  let n := (parts.map fun x => (byLine x.2.2).length).sum
  if n = 0 && have_.isEmpty then oweNothing (bumpSeq s) i (i.flag fs) (if ret then atomDest i wide data else [])
  else
    let (id, s) : Option Nat × State :=
      if ret then
        let (id, s) := oweResult s i.gid kind (i.flag fs) (atomDest i wide data) have_ n
        (some id, issuedAt s id i)
      else (none, s)
    let s := parts.foldl
      (fun s x => pushReqs s i.gid i.g i.pathMask x.2.1 x.1 (.atomic op wide r) (i.active p) id x.2.2) s
    done (bumpSeq s) i

/-- An atomic on T or D (R167). -/
def atomOp (s : State) (sp : LSpace) (op : AtomOp) (data addr : VCode) (base : KCode) (p : MCode) (wd : Width) (fs : FSel)
    (off : BitVec 12) (ret : Bool) : Out :=
  let wide := wd == .w64
  issue s { fs := fs, vs := [atomData op wide ret data, vsrc addr], ks := [base.toNat], ms := [p.toNat]
            tracked := if ret then (if wide then 2 else 1) else 0 } p fun i =>
    let las := laneAddrs i p base addr off
    match checkLanes s i sp true true (widthBytes wd) las with
    | some (code, m, a) => raiseAt s i code 0 m a
    | none =>
      let place := (placeIn i.g sp 0).1
      let ls := las.map fun x => atomLane i op wide data x.1 (placeIn i.g sp x.2).2
      if sliceFull s i.g.core place ls then s
      else sendAtomic s i op wide ret data p fs .atomic [(place, i.g.core, ls)] []

/-- Whether a host page can perform an operation (R323). -/
def hostAtomic : AtomOp → Bool
  | .add | .sub | .exch | .cas => true
  | _ => false

/-- How a lane's address on M comes out: its place, or the fault it meets (R170, R323). -/
def atomPlace (s : State) (tn : Nat) (op : AtomOp) (va : Nat) : Xl :=
  match translate s tn va .write with
  | .ok (.host pa) => if hostAtomic op && Config.hostTakesAtomics pa then .ok (.host pa) else .forbidden
  | x => x

/-- An ATOM.ADD.sys of 64 bits on this device: on main memory at the fabric port, where an atomic that has read the word stands after it
(R167, R189). -/
def addAt (s : State) (sp : Space) (a x : Nat) : State :=
  let s := writeSpace s sp a 8 ((readSpace s sp a 8 + x) % 2 ^ 64)
  noteWrites (match sp with
    | .m => reread s true a 8
    | _ => s)

/-- Whether the pages a group is parked on are still unanswered. -/
def pagesOpen (s : State) (tn : Nat) (pages : List Nat) (need : Need) : Bool :=
  pages.any fun p => s.faults.any fun f => sameFault f tn p need

/-- Lanes whose pages are not present or forbid the access park the group, and the fault server is called (R170). -/
def parkOnPages (s : State) (i : Iss) (agent : Nat) (need : Need) (bad : List (Nat × Xl)) : State :=
  let s := bad.foldl (fun s x => faultPage s i.g.tenant x.1 agent need (x.2 == .forbidden)) s
  park s i (.page (need == .write) (bad.map fun x => x.1 / 65536).eraseDups [])

/-- A message for each remote lane sent to its device, the group parked until all answer (R320, R323). `far` is what is to be sent
after them. -/
def sendRemoteLanes (s : State) (i : Iss) (asking : Bool) (msg : Nat → Nat → FabricMsg) (rl : List (Nat × Nat × Nat))
    (rets : List (Nat × Nat)) (places : List (Nat × Space × Nat)) (far : List (Nat × Nat × Nat)) : State :=
  let (s, bad) := rl.foldl
    (fun (acc : State × List Nat) x =>
      match sendRemote acc.1 i.g.tenant x.2.1 (msg x.1 x.2.2) (.lane i.gid x.1) with
      | some s => (s, acc.2)
      | none => (acc.1, acc.2 ++ [x.1])) (s, [])
  park s i (.remote asking ((rl.map fun x => x.1).filter fun l => !(bad.contains l)) bad rets places far)

/-- The places of the lanes on this module. -/
def herePlaces (xs : List (Nat × Nat × Xl)) : List (Nat × Space × Nat) :=
  xs.filterMap fun x => match x.2.2 with
    | .ok (.main pa) => some (x.1, .m, pa)
    | .ok (.host pa) => some (x.1, .host, pa)
    | _ => none

/-- The lanes on other devices, each with the device and the address there. -/
def farLanes (xs : List (Nat × Nat × Xl)) : List (Nat × Nat × Nat) :=
  xs.filterMap fun x => match x.2.2 with
    | .ok (.remote dev va) => some (x.1, dev, va)
    | _ => none

/-- What of a lane's access translates: its first byte, and its last where that lies on another page, under the lane's number plus 32. -/
def atomProbes (n : Nat) (las : List (Nat × Nat)) : List (Nat × Nat) :=
  las ++ (las.filter fun x => (x.2 + n - 1) / 65536 != x.2 / 65536).map fun x => (x.1 + 32, x.2 + n - 1)

/-- The lanes whose access has a part among those named. -/
def failingParts (las : List (Nat × Nat)) (parts : List Nat) : Option (W32 × Nat) :=
  failing (las.filter fun x => parts.contains x.1 || parts.contains (x.1 + 32))

/-- An atomic on M: every byte of every active lane translates, here and at its device, before alignment is looked at and before any lane
performs (R160, R170). The lanes at other devices perform first, one after the other in ascending order (R169), and the others where
they were when all had translated. -/
def atomMain (s : State) (op : AtomOp) (data addr : VCode) (base : KCode) (p : MCode) (wd : Width) (sys : Bool) (fs : FSel)
    (off : BitVec 12) (ret : Bool) : Out :=
  let wide := wd == .w64
  issue s { fs := fs, vs := [atomData op wide ret data, vsrc addr], ks := [base.toNat], ms := [p.toNat]
            tracked := if ret then (if wide then 2 else 1) else 0 } p fun i =>
    let las := laneAddrs i p base addr off
    let tn := i.g.tenant
    let probes := atomProbes (widthBytes wd) las
    let xs := probes.map fun x => (x.1, x.2, atomPlace s tn op x.2)
    let bad := xs.filter fun x => match x.2.2 with
      | .ok _ => false
      | _ => true
    let lanesOnly := xs.filter fun x => decide (x.1 < 32)
    let send := fun (rets : List RegWrite) (places : List (Nat × Space × Nat)) =>
      let s := probes.foldl (fun s x => fillCache s tn x.2 .write) s
      let on := fun (sp : Space) => (places.filter fun x => x.2.1 == sp).map fun x => atomLane i op wide data x.1 x.2.2
      if sliceFull s i.g.core .m (on .m) then s
      else
        sendAtomic s i op wide ret data p fs .mainAtomic
          [(.m, if sys then fabricPort else i.g.core, on .m), (.host, fabricPort, on .host)] rets
    let aligned := fun (k : State) => match failing (las.filter fun x => decide (x.2 % widthBytes wd ≠ 0)) with
      | some (m, a) => raiseAt s i 0x05 0 m a
      | none => k
    let ask := sendRemoteLanes s i true (fun _ va => .check op va) (farLanes xs) [] [] []
    let next := fun (rets : List (Nat × Nat)) (places : List (Nat × Space × Nat)) (far : List (Nat × Nat × Nat)) =>
      match far with
      | x :: rest =>
        sendRemoteLanes s i false (fun l at_ => let r := atomLane i op wide data l 0; .perform op wide at_ r.x r.y) [x] rets places rest
      | [] => send (if ret then rets.flatMap fun x => spanWrites (vName i.g data.toNat) x.1 (if wide then 2 else 1) x.2 else []) places
    let start :=
      if !bad.isEmpty then parkOnPages s i 3 .write (bad.map fun x => x.2)
      else if !(farLanes xs).isEmpty then ask
      else aligned (send [] (herePlaces lanesOnly))
    match i.g.park with
    | some ⟨_, _, .remote asking waiting failed rets places far⟩ =>
      if !waiting.isEmpty then s
      else
        match failingParts las failed with
        | some (m, a) => raiseAt s i 0x13 0 m a
        | none =>
          if !asking then next rets places far
          else if !bad.isEmpty then parkOnPages s i 3 .write (bad.map fun x => x.2)
          else if (farLanes xs).any fun x => !(rets.any fun r => r.1 == x.1) then ask
          else
            aligned (next [] (herePlaces lanesOnly)
              ((farLanes lanesOnly).map fun x => (x.1, x.2.1, ((rets.find? fun r => r.1 == x.1).map fun r => r.2).getD 0)))
    | some ⟨_, _, .page _ pages fatal⟩ =>
      match failingParts las ((probes.filter fun x => fatal.contains (x.2 / 65536)).map fun x => x.1) with
      | some (m, a) => raiseAt s i 0x13 0 m a
      | none => if pagesOpen s tn pages .write then s else start
    | _ => start

/-! ## Barriers (R173 to R176) -/

/-- The checks of a barrier instruction's address, the whole group being the lane set (R176). -/
def checkBarrier (s : State) (i : Iss) (a : Nat) : Option (Nat × W32 × Nat) :=
  if !(inAllocation s i.g .t true a 16) then some (0x06, i.g.launched, a)
  else if a % 16 ≠ 0 then some (0x05, i.g.launched, a)
  else none

/-- A broadcast operand read as n32; code 504 gives the lowest lane of the path (R149, R176). -/
def broadcast (i : Iss) (c : VCode) : Nat :=
  if c = 504 then (lanesOf i.pathMask).headD 0 else srcLane i.g c.toNat 0 1

/-- A barrier instruction: its address checked, then its effect on a registered barrier; 0x01 where none is registered. -/
def barrierOp (s : State) (u : Uses) (base : KCode) (off : BitVec 12) (k : Iss → Team → Barrier → State) : Out :=
  issue s { u with ks := [base.toNat] } 0 fun i =>
    let a := addressOf i base 0 off
    match checkBarrier s i a with
    | some (code, m, x) => raiseAt s i code 0 m x
    | none =>
      match teamOf s i.g with
      | none => s
      | some t =>
        match t.barrier a with
        | none => raise s i 0x01
        | some b => k i t b

/-- The codes of a BARWAIT's end (R176). -/
def waitCodes (fault : Nat) : Codes := ⟨decide (fault = 0), false, decide (fault = 2), decide (fault ≠ 0)⟩

/-- Whether a parked BARWAIT knows how it ends: a BARINIT has released it, or its phase had completed before that BARINIT. -/
def waitKnown (g : Group) : Option Codes :=
  match g.park with
  | some ⟨_, _, .barrierReleased⟩ => some ⟨false, false, false, true⟩
  | some ⟨_, _, .barrier _ _ (some f)⟩ => some (waitCodes f)
  | _ => none

/-- A BARWAIT ends with its phase's fault. -/
def endWait (s : State) (i : Iss) (k : Codes) : State :=
  finish s i (setSlot i.g i.n ((slotOf i.g i.n).map fun sl => sl.withCodes k))

/-- The wait of BARWAIT and BARAW. -/
def waitBarrier (s : State) (i : Iss) (a : Nat) : State :=
  match waitKnown i.g with
  | some k => endWait s i k
  | none =>
    match (teamOf s i.g).bind fun t => (t.barrier a).bind fun b => b.arrivals.find? fun x => x.gid == i.gid with
    | none => raise s i 0x01
    | some x =>
      match x.done with
      | some f => endWait s i (waitCodes f)
      | none => park s i (.barrier a x.epoch none)

/-- The waiters of a barrier released, and the copies bound to it cancelled, by a BARINIT that finds it as given (R176, R204). A waiter
whose phase has completed has its fault already. -/
def releaseWaiters (s : State) (tm a : Nat) (b : Option Barrier) : State :=
  { s with
    groups := s.groups.map fun p => match p.2.park with
      | some ⟨sl, c, .barrier x e none⟩ =>
        if p.2.team = tm ∧ x = a then
          let known := (b.bind fun b => b.arrivals.find? fun y => y.gid == p.1).bind fun y => y.done
          (p.1, { p.2 with park := some ⟨sl, c, if known.isSome then .barrier x e known else .barrierReleased⟩ })
        else p
      | _ => p
    copies := s.copies.map fun c =>
      if c.team = tm ∧ c.barrier = some a ∧ c.state = none then { c with state := some (7, 0) } else c }

/-- LDL (R166). -/
def execLdl (data addr : VCode) (base : KCode) (p : MCode) (wd : Width) (fs : FSel) (off : BitVec 12) (s : State) : Out :=
  loadOp s .l data addr base p wd fs off

/-- STL (R166). -/
def execStl (data addr : VCode) (base : KCode) (p : MCode) (wd : Width) (off : BitVec 12) (s : State) : Out :=
  storeOp s .l data addr base p wd off

/-- LDT (R166). -/
def execLdt (data addr : VCode) (base : KCode) (p : MCode) (wd : Width) (fs : FSel) (off : BitVec 12) (s : State) : Out :=
  loadOp s .t data addr base p wd fs off

/-- STT (R166). -/
def execStt (data addr : VCode) (base : KCode) (p : MCode) (wd : Width) (off : BitVec 12) (s : State) : Out :=
  storeOp s .t data addr base p wd off

/-- LDD (R166). -/
def execLdd (data addr : VCode) (base : KCode) (p : MCode) (wd : Width) (fs : FSel) (off : BitVec 12) (s : State) : Out :=
  loadOp s .d data addr base p wd fs off

/-- STD (R166). -/
def execStd (data addr : VCode) (base : KCode) (p : MCode) (wd : Width) (off : BitVec 12) (s : State) : Out :=
  storeOp s .d data addr base p wd off

/-- ATOM on T (R169). -/
def execAtomT (op : AtomOp) (data addr : VCode) (base : KCode) (p : MCode) (wd : Width) (fs : FSel) (off : BitVec 12) (s : State) : Out :=
  atomOp s .t op data addr base p wd fs off true

/-- RED on T (R169). -/
def execRedT (op : AtomOp) (data addr : VCode) (base : KCode) (p : MCode) (wd : Width) (off : BitVec 12) (s : State) : Out :=
  atomOp s .t op data addr base p wd .none off false

/-- ATOM on D (R169): every scope executes at the home slice (R167). -/
def execAtomD (op : AtomOp) (data addr : VCode) (base : KCode) (p : MCode) (wd : Width) (_sc : Scope) (fs : FSel) (off : BitVec 12) (s : State) : Out :=
  atomOp s .d op data addr base p wd fs off true

/-- RED on D (R169). -/
def execRedD (op : AtomOp) (data addr : VCode) (base : KCode) (p : MCode) (wd : Width) (_sc : Scope) (off : BitVec 12) (s : State) : Out :=
  atomOp s .d op data addr base p wd .none off false

/-- ATOM on M (R169, R170): .sys executes at the fabric port. -/
def execAtomM (op : AtomOp) (data addr : VCode) (base : KCode) (p : MCode) (wd : Width) (sc : Scope) (fs : FSel) (off : BitVec 12) (s : State) : Out :=
  atomMain s op data addr base p wd (sc == .sys) fs off true

/-- RED on M (R169, R170). -/
def execRedM (op : AtomOp) (data addr : VCode) (base : KCode) (p : MCode) (wd : Width) (sc : Scope) (off : BitVec 12) (s : State) : Out :=
  atomMain s op data addr base p wd (sc == .sys) .none off false

/-- BARINIT (R176). It waits for the group's earlier stores to the record, which precede it (R182). -/
def execBarinit (data : VCode) (base : KCode) (off : BitVec 12) (s : State) : Out :=
  issue s { vs := [vbro data], ks := [base.toNat] } 0 fun i =>
    let a := addressOf i base 0 off
    match checkBarrier s i a with
    | some (code, m, x) => raiseAt s i code 0 m x
    | none =>
      match teamOf s i.g with
      | none => s
      | some t =>
        let n := broadcast i data
        if 256 < n || ((t.barrier a).isNone && decide (16 ≤ t.barriers.length)) then raise s i 0x01
        else if ownBusy s i.gid i.g (.t i.g.team) a 16 then s
        else
          let b : Barrier := ⟨a, 0, 0, n, n, 0, 0, [], 0⟩
          let t' := ({ t with barriers := if (t.barrier a).isNone then t.barriers ++ [b] else t.barriers } : Team).putBarrier b
          let t' := if n = 0 then { t' with barriers := t'.barriers.filter fun x => x.addr != a } else t'
          done (releaseWaiters (updTeam s i.g.team fun _ => t') i.g.team a (t.barrier a)) i

/-- BAREXP (R176). -/
def execBarexp (data : VCode) (base : KCode) (off : BitVec 12) (s : State) : Out :=
  barrierOp s { vs := [vbro data] } base off fun i _ b =>
    done (updBarrier s i.g.team b.addr fun b => b.declare (broadcast i data)) i

/-- BARARR (R176): a release at team scope, which waits for its path's MWAITs. -/
def execBararr (base : KCode) (off : BitVec 12) (s : State) : Out :=
  barrierOp s {} base off fun i _ b =>
    if b.arrived i.gid then raise s i 0x01
    else if mwaitOpen s i.gid i.pathMask s.nextSeq then s
    else done (updBarrier (releaseTo s i.gid .team) i.g.team b.addr fun b => b.arrive i.gid) i

/-- BARWAIT (R176). -/
def execBarwait (base : KCode) (off : BitVec 12) (s : State) : Out :=
  match (issuer s).bind fun i => waitKnown i.g with
  | some _ => issue s { ks := [base.toNat] } 0 fun i => waitBarrier s i (addressOf i base 0 off)
  | none => barrierOp s {} base off fun i _ b => waitBarrier s i b.addr

/-- BARAW (R176): BARARR, then BARWAIT. -/
def execBaraw (base : KCode) (off : BitVec 12) (s : State) : Out :=
  match (issuer s).bind fun i => waitKnown i.g with
  | some _ => issue s { ks := [base.toNat] } 0 fun i => waitBarrier s i (addressOf i base 0 off)
  | none =>
    barrierOp s {} base off fun i _ b =>
      if i.g.park.isSome then waitBarrier s i b.addr
      else if b.arrived i.gid then raise s i 0x01
      else if mwaitOpen s i.gid i.pathMask s.nextSeq then s
      else
        let s := updBarrier (releaseTo s i.gid .team) i.g.team b.addr fun b => b.arrive i.gid
        waitBarrier s i b.addr

/-- MWAIT (R177): one request for one word; with no lane active, none. -/
def execMwait (data : VCode) (base : KCode) (p : MCode) (wd : Width) (fs : FSel) (off : BitVec 12) (s : State) : Out :=
  let n := widthRegs wd
  issue s { fs := fs, vs := [vreg data n], ks := [base.toNat], ms := [p.toNat], tracked := n } p fun i =>
    let a := addressOf i base 0 off
    let las := (lanesOf (i.active p)).map fun l => (l, a)
    match checkLanes s i .d false false (widthBytes wd) las with
    | some (code, m, x) => raiseAt s i code 0 m x
    | none =>
      let d := vName i.g data.toNat
      match las with
      | [] => oweNothing (bumpSeq s) i (i.flag fs) (regSpan d n)
      | (l, _) :: _ =>
        let ls : List LaneReq := [⟨l, a, 0, 0⟩]
        if sliceFull s i.g.core .d ls then s
        else
          let e := srcLane i.g data.toNat l n
          let (id, s) := oweResult s i.gid .mwait (i.flag fs) (regSpan d n) [] 1
          done (bumpSeq
            (pushReqs s i.gid i.g i.pathMask i.g.core .d (.mwait (wd == .w64) e d false none) (i.active p) (some id) ls)) i

/-- A FENCE (R178, R184): it completes at issue, and until its condition holds the group issues only VALU and SALU instructions. A
release at .team makes the earlier accesses performed for the team's agents, but for the MWAITs, for which it waits; one at .dev or .clus
waits until they are performed, but for those on host pages, which are performed for every agent of the module; one at .sys waits for
all. -/
def fenceOp (s : State) (acq rel : Bool) (sc : Scope) : Out :=
  issue s {} 0 fun i =>
    let s' := if !rel then s
      else match sc with
        | .team => releaseTo s i.gid .team
        | .clus | .dev => releaseHost s i.gid
        | .sys => s
    finish (bumpSeq s') i
      { i.g with fences := openFences s i.gid i.g ++ [⟨acq, rel && sc != .team, rel && sc == .team, sc == .sys, s.nextSeq⟩] }

/-- FENCE (R178). -/
def execFence (sc : Scope) (s : State) : Out :=
  fenceOp s true true sc

/-- FENCE.acq (R178): its condition is the same at every scope. -/
def execFenceAcq (sc : Scope) (s : State) : Out :=
  fenceOp s true false sc

/-- FENCE.rel (R178). -/
def execFenceRel (sc : Scope) (s : State) : Out :=
  fenceOp s false true sc

/-! ## The steps of memory -/

/-- Whether a request stays in its core: 16 earlier ones of the core at its slice are outstanding (R171, log entry 30). -/
def pastSlice (s : State) (r : Req) : Bool :=
  match sliceOf r.space (128 * r.line) with
  | none => false
  | some x => decide (16 ≤ outstanding (s.reqs.takeWhile fun q => q.id != r.id) r.core x)

/-- ACCESS_PERFORMED (R166 to R172): a request arrives at its bank, and is served if its turn has come there; one that is not
waits in the queue of its port. An atomic on M that has read goes on. -/
def execAccessPerformed (id : Nat) (s : State) : Out :=
  .next
    (match s.reqs.find? fun r => r.id == id with
    | none => s
    | some r =>
      if r.isWaiting then s
      else if r.held.isSome then performStep s r
      else if heldOff s r then s
      else if r.arrived.isNone && (blockedReq (queueFor s r) r || pastSlice s r) then s
      else
        match if r.arrived.isNone then replayHolds s r else none with
        | some a => almWait s r.tenant 5 a r.id
        | none =>
          if bankTurn s r then performStep (served (noteHomes s r) r) r
          else if r.arrived.isNone then
            let (n, s) := freshId s
            { s with reqs := updateWhere (fun q => q.id == id) (fun q => { q with arrived := some n }) s.reqs }
          else s)

/-- RESULT_ARRIVAL (R24): a result with nothing outstanding is written and its flag decremented; LDD, LDT and an atomic on M
are sampled (R351). -/
def execResultArrival (id : Nat) (s : State) : Out :=
  .next
    (match s.owed.find? fun o => o.id == id with
    | none => s
    | some o =>
      if o.parts ≠ 0 then s
      else
        arriveSampled s o)

/-- MWAIT_WAKE (R177): the word that a write made differ returns to its MWAIT. -/
def execMwaitWake (id : Nat) (s : State) : Out :=
  .next
    (match s.reqs.find? fun r => r.id == id with
    | some r =>
      match r.kind with
      | .mwait wide _ d true (some x) =>
        fillOwed { s with reqs := s.reqs.filter fun q => q.id != id } r.owed (mwaitWrites r wide d x)
      | _ => s
    | none => s)

end Sys2Proof.Machine
end

