-- ==== Sys2Proof/Machine/Tensor.lean ====
section
/-! DEFINITION. Tensors (R195 to R197): the descriptor and its checks, where an element and its block's scale byte lie, the
spans of a box and the checks on them (R200), and reads of M that cross units. -/

namespace Sys2Proof.Machine

open Sys2Proof

/-! ## Descriptors (R196, R198) -/

/-- The element type of a format code; none for MESH and for illegal codes. -/
def formatTy (x : Nat) : Option Ty := if x < 16 then Ty.ofBits (BitVec.ofNat 4 x) else none

/-- z: the element size in bytes (R197). -/
def Tensor.z (t : Tensor) : Nat :=
  match formatTy t.format with
  | some ty => tyWidth ty / 8
  | none => 1

/-- Format MESH (R196). -/
def Tensor.isMesh (t : Tensor) : Bool := t.format == 16

/-- The fields of a descriptor's 64 bytes. -/
def parseTensor (b : Bytes) : Tensor :=
  let x := leNat b
  ⟨fld x 0 8, fld x 8 8, fld x 16 8, fld x 24 8, fld x 32 32, fld x 64 64,
    [fld x 128 16, fld x 144 16, fld x 160 16, fld x 176 16], [fld x 192 32, fld x 224 32, fld x 256 32],
    fld x 320 64, [fld x 384 16, fld x 400 16, fld x 416 16]⟩

/-- The reserved bytes 36–39 and 54–63 are 0. -/
def reservedZero (b : Bytes) : Bool := decide (fld (leNat b) 288 32 = 0) && decide (fld (leNat b) 432 80 = 0)

/-- The extents agree with the rank. -/
def Tensor.extentsFit (t : Tensor) : Bool :=
  (upto 4).all fun i => if i < t.rank then t.ext.getD i 0 != 0 else t.ext.getD i 0 == 1

/-- What R228 asks of a mesh descriptor. -/
def Tensor.meshFits (t : Tensor) : Bool :=
  (t.space == 2 || t.space == 3) && t.rank == 1 && t.ext == [1, 1, 1, 1] && t.flags == 0 && t.strides == [0, 0, 0] &&
    t.scaleBase == 0 && t.scaleStrides == [0, 0, 0] && decide (t.base % 64 = 0)

/-- What R198 and R211 ask of a slot tensor: it lies in its tile; of a 32-bit or 64-bit format too (log entry 99). -/
def Tensor.slotFits (t : Tensor) : Bool :=
  decide (t.base < 64) && decide (t.ext.getD 0 0 * t.z ≤ 128) && decide (t.ext.getD 1 0 ≤ 64) && t.ext.getD 2 0 == 1
    && t.ext.getD 3 0 == 1

/-- The checks of R198. A slot tensor's base names an array and a slot (R196): it is no byte address, and its alignment is not tested
(log entry 36); its strides are, though the engine ignores them (R211). -/
def tensorLegal (b : Bytes) : Bool :=
  let t := parseTensor b
  decide (1 ≤ t.space) && decide (t.space ≤ 5) && ((formatTy t.format).isSome || t.isMesh) && decide (1 ≤ t.rank)
    && decide (t.rank ≤ 4) && decide (t.flags ≤ 1) && reservedZero b
    && (if t.space = 5 then decide (t.device < 1024) else decide (t.device = 0))
    && t.extentsFit && (decide (t.space ≠ 3 ∧ t.space ≠ 5) || decide (t.base < 2 ^ 52))
    && (if t.isMesh then t.meshFits
      else (t.flags == 1) == (t.format == 11) &&
        (if t.space = 4 then t.slotFits else decide (t.base % t.z = 0)) && t.strides.all fun x => decide (x % t.z = 0))

/-- The descriptor that TIDSET installs, or a launch block carries. -/
def checkTensor (b : Bytes) : Option Tensor := if tensorLegal b then some (parseTensor b) else none

/-! ## Addresses (R197, R211) -/

def Tensor.addr (t : Tensor) (c : List Nat) : Nat :=
  if t.space = 4 then t.z * c.getD 0 0 + 128 * c.getD 1 0
  else t.base + t.z * c.getD 0 0 + t.strides.getD 0 0 * c.getD 1 0 + t.strides.getD 1 0 * c.getD 2 0
    + t.strides.getD 2 0 * c.getD 3 0

def Tensor.scaleAddr (t : Tensor) (c : List Nat) : Nat :=
  if t.space = 4 then 4 * c.getD 1 0 + c.getD 0 0 / 32
  else t.scaleBase + c.getD 0 0 / 32 + t.scaleStrides.getD 0 0 * c.getD 1 0 + t.scaleStrides.getD 1 0 * c.getD 2 0
    + t.scaleStrides.getD 2 0 * c.getD 3 0

/-- The coordinates are valid. -/
def Tensor.holds (t : Tensor) (c : List Nat) : Bool := (upto 4).all fun i => decide (c.getD i 0 < t.ext.getD i 0)

/-- Each coordinate clamped to its extent − 1. -/
def Tensor.clamp (t : Tensor) (c : List Nat) : List Nat := (upto 4).map fun i => min (c.getD i 0) (t.ext.getD i 0 - 1)

/-- Coordinates added. -/
def addCoords (a b : List Nat) : List Nat := (upto 4).map fun i => a.getD i 0 + b.getD i 0

/-- Coordinates of element n of a box, dimension 0 fastest (R203). -/
def boxCoords (box : List Nat) (n : Nat) : List Nat :=
  let b := fun i => box.getD i 1
  [n % b 0, n / b 0 % b 1, n / (b 0 * b 1) % b 2, n / (b 0 * b 1 * b 2)]

def boxSize (box : List Nat) : Nat := box.foldl (· * ·) 1

/-- A box lies inside a tensor's extents. -/
def Tensor.boxInside (t : Tensor) (o box : List Nat) : Bool :=
  (upto 4).all fun i => decide (o.getD i 0 + box.getD i 1 ≤ t.ext.getD i 0)

/-! ## Spans (R200) -/

/-- A span: its first byte and the byte after its last. -/
abbrev Span := Nat × Nat

/-- The span of a box's elements, and of the scale bytes that it touches; out-of-range coordinates touch what they clamp
to. -/
def Tensor.span (t : Tensor) (o box : List Nat) : Span :=
  let last := addCoords o (box.map (· - 1))
  (t.addr (t.clamp o), t.addr (t.clamp last) + t.z)

def Tensor.scaleSpan (t : Tensor) (o box : List Nat) : Option Span :=
  if t.format = 11 then
    let last := addCoords o (box.map (· - 1))
    some (t.scaleAddr (t.clamp o), t.scaleAddr (t.clamp last) + 1)
  else none

/-- The span of a source box under a fill policy: elements that are filled with a constant touch nothing (R199, R200). -/
def Tensor.sourceSpan (t : Tensor) (fill : Nat) (o box : List Nat) : Option Span :=
  if fill == 2 || t.holds o then some (t.span o box) else none

/-- The scale bytes that a source box touches: those of the elements read, or, where blocks are copied whole (`whole`), those of the
clamped first elements of the blocks (R202). -/
def Tensor.sourceScaleSpan (t : Tensor) (fill : Nat) (whole : Bool) (o box : List Nat) : Option Span :=
  if whole || fill == 2 || t.holds o then t.scaleSpan o box else none

/-- Whether rows of a width, one per combination of the coordinates of a box beyond the first, share no aligned 8-byte unit: each
dimension's stride keeps what the ones below it span apart. `rows`, if any, are the coordinates taken along dimension 1. -/
def rowsApart (start : List Nat → Nat) (width : Nat) (strides o box rows : List Nat) : Bool :=
  let lo := rows.foldl min (rows.headD 0)
  let hi := rows.foldl max 0
  let o := if rows.isEmpty then o else o.set 1 lo
  let box := if rows.isEmpty then box else box.set 1 (hi - lo + 1)
  rows.eraseDups.length == rows.length &&
    ([1, 2, 3].foldl
      (fun (acc : Option Nat) i => acc.bind fun w =>
        let b := box.getD i 1
        let st := strides.getD (i - 1) 0
        if b ≤ 1 then some w else if st % 8 = 0 ∧ w ≤ st then some (st * (b - 1) + w) else none)
      (some ((start o % 8 + width + 7) / 8 * 8))).isSome

/-- The same of the rows of elements of a tensor, and of their scale bytes. -/
def Tensor.rowsApart (t : Tensor) (o box rows : List Nat) : Bool :=
  t.space == 4 ||
    (Machine.rowsApart t.addr (t.z * box.getD 0 1) t.strides o box rows &&
      (t.format != 11 || Machine.rowsApart t.scaleAddr ((box.getD 0 1 + 31) / 32 + 1) t.scaleStrides o box rows))

/-- The smallest span that covers a list of spans. -/
def joinSpans : List Span → Option Span
  | [] => none
  | x :: xs =>
    match joinSpans xs with
    | none => some x
    | some y => some (min x.1 y.1, max x.2 y.2)

/-- How many bytes two spans share. -/
def overlap (a b : Span) : Nat := min a.2 b.2 - max a.1 b.1

/-- Whether every byte of a span lies in a D window, with write permission where it is needed (R162): the windows, each a
range, are followed from the span's start. -/
def coverFrom (ws : List Window) (write : Bool) (e : Nat) : Nat → Nat → Bool
  | 0, a => decide (e ≤ a)
  | n + 1, a =>
    if e ≤ a then true
    else
      match ws.find? fun w => decide (w.base ≤ a) && decide (a < w.base + w.size) && (!write || w.write) with
      | some w => coverFrom ws write e n (w.base + w.size)
      | none => false

def spanInWindows (ws : List Window) (write : Bool) (x : Span) : Bool := coverFrom ws write x.2 4 x.1

/-- Check 12 of R200 on one span: the trap and the span's first byte. -/
def checkSpan (t : Team) (space : Nat) (write : Bool) (x : Span) : Option (Nat × Nat) :=
  if space = 1 then
    if t.tsize < x.2 || (write && t.barriers.any fun b => decide (b.addr < x.2) && decide (x.1 < b.addr + 16)) then
      some (0x06, x.1)
    else none
  else if space = 2 then if spanInWindows t.windows write x then none else some (0x07, x.1)
  else none

/-- The first failing span. -/
def checkSpans (t : Team) : List (Nat × Bool × Span) → Option (Nat × Nat)
  | [] => none
  | (sp, w, x) :: rest =>
    match checkSpan t sp w x with
    | some e => some e
    | none => checkSpans t rest

/-! ## Where a tensor's bytes are -/

/-- Where an access at an address of a tensor's space is performed. -/
inductive Spot where
  | here (sp : Space) (a : Nat)
  /-- At another device; `key` names the 64-byte unit for the requester. -/
  | far (dev va key : Nat)
  | bad (va : Nat) (forbidden : Bool)
  deriving DecidableEq, Repr

/-- The place of an address of a T, D, M or remote tensor (R323, R324). -/
def spotOf (s : State) (tn tm : Nat) (t : Tensor) (a : Nat) (need : Need) : Spot :=
  if t.space = 1 then .here (.t tm) a
  else if t.space = 2 then .here .d a
  else if t.space = 5 then .far t.device a ((t.device + 1) * 2 ^ 52 + a)
  else
    match translate s tn a need with
    | .ok (.main pa) => .here .m pa
    | .ok (.host pa) => .here .host pa
    | .ok (.remote dev va) => .far dev va a
    | .notPresent => .bad a false
    | .forbidden => .bad a true

/-- A tensor of space 5 on this device is one of the tenant's M-space (R324). -/
def Tensor.loopback (s : State) (t : Tensor) : Tensor :=
  if t.space = 5 ∧ t.device = s.fabric.dev then { t with space := 3, device := 0 } else t

/-- n bytes of M from any address, read by 64-byte units. -/
def readM (s : State) (tn va n : Nat) (need : Need) : Got Bytes :=
  match readUnits s tn (va / 64 * 64) need ((va % 64 + n + 63) / 64) with
  | .ok b => .ok ((b.drop (va % 64)).take n)
  | e => e

end Sys2Proof.Machine
end

