-- ==== Sys2Proof/Machine/Copy.lean ====
section
/-! DEFINITION. The tensor table's instructions (R195 to R198), the copy engine (R199 to R207) and ROUTE (R208, R209). -/

namespace Sys2Proof.Machine

open Sys2Proof

/-! ## TIDSET and TIDINV (R198) -/

/-- The address k[b] + 32 × offset of an ASYNC instruction (R51). -/
def blockAddr (i : Iss) (kb : KCode) (off : BitVec 12) : Nat :=
  ((((kGet i.g kb.toNat).toNat : Int) + 32 * off.toInt) % (2 ^ 64 : Nat)).toNat

/-- TIDSET. -/
def execTidset (t : BitVec 6) (kb : KCode) (off : BitVec 12) (s : State) : Out :=
  issue s { ks := [kb.toNat] } 0 fun i =>
    let a := blockAddr i kb off
    match teamOf s i.g with
    | none => s
    | some tm =>
      if tm.tsize < a + 64 then raiseAt s i 0x06 0 i.g.launched a
      else if a % 64 ≠ 0 then raiseAt s i 0x05 0 i.g.launched a
      else if ownBusy s i.gid i.g (.t i.g.team) a 64 then s
      else
        match checkTensor (readBytes tm.tmem a 64) with
        | none => raise s i 0x12
        | some d => done (updTeam s i.g.team fun tm => { tm with tensors := tput tm.tensors t.toNat d }) i

/-- TIDINV. -/
def execTidinv (t : BitVec 6) (s : State) : Out :=
  issue s {} 0 fun i => done (updTeam s i.g.team fun tm => { tm with tensors := tdel tm.tensors t.toNat }) i

/-! ## Elements of a copy (R202, R203) -/

/-- The source and destination coordinates of element n. -/
def Copy.coords (c : Copy) (n : Nat) : List Nat × List Nat :=
  match c.rows with
  | [] => let e := boxCoords c.box n; (addCoords c.srcC e, addCoords c.dstC e)
  | _ :: _ =>
    let per := boxSize c.box
    let e := boxCoords c.box (n % per)
    let r := c.rows.getD (n / per) (0, 0, 0)
    (addCoords (c.srcC.set 1 r.1) e, addCoords (c.dstC.set 1 r.2.1) e)

/-- The lane whose row holds element n, for a gather or scatter. -/
def Copy.laneOf (c : Copy) (n : Nat) : Nat := (c.rows.getD (n / boxSize c.box) (0, 0, 0)).2.2

/-- The canonical NaN of a format (R59, R66, R199). -/
def nanBits (t : Ty) : Nat :=
  match t with
  | .e4m3 => 0x7F
  | .lns6 => 0x20
  | _ => ((fmtOf t).map Fmt.nan).getD 0

/-- What an access of the copy engine meets. -/
inductive Meets (α : Type) where
  | ok (x : α)
  | page (va : Nat) (forbidden : Bool)
  | ask (dev va key : Nat)
  deriving DecidableEq, Repr

/-- n bytes at a place, n ≤ 8 and inside one aligned 8-byte unit: as the unit was read, if it has been read and kept. -/
def copyRead (s : State) (c : Copy) (t : Tensor) (a n : Nat) : Meets Nat :=
  match c.units.find? fun u => u.1 == a / 8 with
  | some u => .ok (fld u.2 (8 * (a % 8)) (8 * n))
  | none =>
    match spotOf s c.tenant c.team t a .read with
    | .here sp x => .ok (readSpace s sp x n)
    | .bad va f => .page va f
    | .far dev va key =>
      match c.got.find? fun x => x.1 == key / 64 * 64 with
      | some x => .ok (leNat ((x.2.drop (key % 64)).take n))
      | none => .ask dev (va / 64 * 64) (key / 64 * 64)

/-- Element n takes the constant of the fill policy: nothing of the source is read for it. -/
def Copy.filled (c : Copy) (n : Nat) : Bool := c.kind != .mstore && c.fill != 2 && !(c.src.holds (c.coords n).1)

/-- The first element of element n's destination block, and how many elements of the block the row holds. -/
def Copy.block (c : Copy) (n : Nat) : Nat × Nat :=
  let b0 := c.box.getD 0 1
  let e0 := n % b0
  (n - e0 % 32, min 32 (b0 - e0 / 32 * 32))

/-- Whether the scale byte of element n's source block is read: for each element that is converted, and for the first of each block
that is copied unchanged (R202). -/
def Copy.takesScale (c : Copy) (n : Nat) : Bool :=
  c.src.format == 11 && if c.dst.format == 11 then (c.block n).1 == n else !(c.filled n)

/-- The source addresses that element n reads: its own, and its block's scale byte. -/
def Copy.sourceAddrs (c : Copy) (n : Nat) : List Nat :=
  let x := c.src.clamp (c.coords n).1
  (if c.filled n then [] else [c.src.addr x]) ++ if c.takesScale n then [c.src.scaleAddr x] else []

/-- The source value of element n: its bits, by the fill policy where it is out of range, and its block's scale byte. -/
def copySource (s : State) (c : Copy) (n : Nat) : Meets (Nat × Nat) :=
  let x := c.src.clamp (c.coords n).1
  let ty := (formatTy c.src.format).getD .n8
  match if c.takesScale n then copyRead s c c.src (c.src.scaleAddr x) 1 else .ok 127 with
  | .ok sc =>
    if c.filled n then .ok (if c.fill = 3 then nanBits ty else 0, sc)
    else
      match copyRead s c c.src (c.src.addr x) c.src.z with
      | .ok b => .ok (b, sc)
      | .page va f => .page va f
      | .ask d va k => .ask d va k
  | .page va f => .page va f
  | .ask d va k => .ask d va k

/-- Whether an 8-byte unit of the source holds parts of several rows, or is read for several elements of them: it is read once, and
kept (R190). -/
def Copy.sharesUnits (c : Copy) : Bool :=
  c.src.format == 11 || c.fill == 2 || !(c.src.rowsApart c.srcC c.box (c.rows.map fun r => r.1))

/-- The copy with the unit at an address kept as it stands, if it lies on this device. -/
def Copy.keepUnit (s : State) (c : Copy) (a : Nat) : Copy :=
  if c.units.any fun u => u.1 == a / 8 then c
  else
    match spotOf s c.tenant c.team c.src (a / 8 * 8) .read with
    | .here sp x => { c with units := (a / 8, readSpace s sp x 8) :: c.units }
    | _ => c

/-- The value of element n of the data read, for a conversion: a filled element has no scale. -/
def Copy.value (c : Copy) (n : Nat) : FVal :=
  let x := c.data.getD n (0, 127)
  floatValue ((formatTy c.src.format).getD .n8) x.1 (if c.filled n then 127 else x.2)

/-- The scale byte of element n's destination block (R64, R202). Where a fatal fault stopped the reading inside the block, the
scale of what was read is not stated: free. -/
def Copy.scaleByte (c : Copy) (n : Nat) : Nat :=
  let (first, len) := c.block n
  if c.src.format = 11 then (c.data.getD first (0, 127)).2
  else if c.data.length < first + len then (Config.partialScale (c.id * 2 ^ 32 + first)).toNat
  else
    blockScale ((upto len).map fun j => unpack fmtF32 (deliverFloat .f32 .rne (c.value (first + j)) 127).1)

/-- The bits delivered for element n, before a reduction (R202). -/
def Copy.bits (c : Copy) (n : Nat) : Nat :=
  match c.out with
  | some o => o.getD n 0
  | none =>
    if c.op ≠ 0 ∨ c.src.format = c.dst.format then (c.data.getD n (0, 127)).1
    else (deliverFloat ((formatTy c.dst.format).getD .n8) .rne (c.value n) (c.scaleByte n)).1

/-- The destination of element n: ROUTE's outputs stand one after the other (R209). -/
def Copy.target (c : Copy) (n : Nat) : Tensor × List Nat :=
  match c.out with
  | none => (c.dst, (c.coords n).2)
  | some _ =>
    let perm := boxSize c.box
    if n < perm then (c.dst, [n, 0, 0, 0]) else (c.dst2, [n - perm, 0, 0, 0])

/-- Whether element n opens a destination block whose scale byte is written. -/
def Copy.opensBlock (c : Copy) (t : Tensor) (x : List Nat) : Bool := t.format == 11 && c.kind != .route && x.getD 0 0 % 32 == 0

/-! ## Delivery (R203, R205, R213) -/

/-- A T address as the destination at a member of a multicast sees it. -/
def Copy.memberAddr (c : Copy) (tPerCore : Nat) (m : Member) (t : Tensor) (a : Nat) : Nat :=
  if c.multi && t.space == 1 then m.n * tPerCore + a % tPerCore else a

/-- The slot that a slot destination names at a member: its array and number. -/
def Copy.slotAt (c : Copy) (m : Member) : Nat × Nat := (arrayIx m.core (c.dst.base % 4), c.dst.base / 4)

def slotGet (s : State) (arr slot : Nat) : Option OpSlot := tfind (tget MatArray.empty s.arrays arr).slots slot

def slotUpd (s : State) (arr slot : Nat) (h : OpSlot → OpSlot) : State :=
  let x := tget MatArray.empty s.arrays arr
  match tfind x.slots slot with
  | some o => { s with arrays := tset MatArray.empty s.arrays arr { x with slots := tput x.slots slot (h o) } }
  | none => s

/-- Whether nothing empties a slot any more: its claimant has ended and no job names it. -/
def slotOrphaned (s : State) (arr slot : Nat) (o : OpSlot) : Bool :=
  !((o.claim.map (groupLive s)).getD false) && !((tget MatArray.empty s.arrays arr).jobs.any fun j => (jobSlots j).contains slot)

/-- Whether a member's destination is ready: a slot takes copies one at a time in acceptance order, each once it is empty, or once
nothing is left to empty it (R225); a slot freed since discards what comes. -/
def Copy.ready (s : State) (c : Copy) (m : Member) : Bool :=
  if c.dst.space = 4 ∧ c.out = none then
    match slotGet s (c.slotAt m).1 (c.slotAt m).2 with
    | some o => !(o.fill.contains c.id) ||
        (o.fill.head? == some c.id && (decide (0 < m.pos) || !o.full || slotOrphaned s (c.slotAt m).1 (c.slotAt m).2 o))
    | none => true
  else true

/-- How a delivery ends. -/
inductive Delivered where
  | ok (s : State)
  | page (va : Nat) (forbidden : Bool)
  /-- What lies here is performed; so many elements count once other devices have answered for the rest. -/
  | sent (s : State) (k : Nat) (ms : List (Nat × FabricMsg))
  /-- A reduction on M has read the word at an address, and replaces it next (R189). -/
  | held (s : State) (a old : Nat)
  /-- Another copy's reduction holds the word. -/
  | busy
  /-- Replay makes it wait for its turn at a home address (R312). -/
  | wait (a : Nat)

/-- The new element at a destination (R202). -/
def reduceBits (op old x : Nat) : Nat :=
  if op = 1 then faddBits old x
  else if op = 2 then (fAdd fmtBf16 .rne (unpack fmtBf16 old) (unpack fmtBf16 x)).1
  else x

/-- A team's T bytes per core. -/
def tPerCoreOf (s : State) (tm : Nat) : Nat := ((tfind s.teams tm).map fun t => t.tPerCore).getD 1

/-- The elements after n - 1, below a limit, that continue an aligned 8-byte unit at another device: their bytes and their number. A
unit is written whole (R183). -/
def farRun (s : State) (c : Copy) (tp : Nat) (m : Member) (dev limit : Nat) : Nat → Nat → Nat → Bytes × Nat
  | 0, _, _ => ([], 0)
  | fuel + 1, n, va =>
    if limit ≤ n ∨ va % 8 = 0 then ([], 0)
    else
      let (t, x) := c.target n
      match spotOf s c.tenant c.team t (c.memberAddr tp m t (t.addr x)) .write with
      | .far d v _ =>
        if d = dev ∧ v = va ∧ !(c.opensBlock t x) then
          let r := farRun s c tp m dev limit fuel (n + 1) (va + t.z)
          (leBytes t.z (c.bits n) ++ r.1, r.2 + 1)
        else ([], 0)
      | _ => ([], 0)

/-- One element's reduction on this device (R190): on M it reads in one step and replaces in the next, and only another copy's
reduction of the word waits for it, since only that shares its execution point (R189). -/
def reduceHere (s : State) (c : Copy) (sp : Space) (a z b : Nat) : Delivered :=
  let old := readSpace s sp a z
  match c.held with
  | some (a', x) => if a' = a then .ok (writeSpace s sp a z (reduceBits c.op x b)) else .held s a old
  | none =>
    if sp == .m && s.copies.any fun q => q.id != c.id && q.state.isNone && (q.held.map fun h => h.1) == some a then .busy
    else if replaying s c.tenant && !(homeTurn s c.tenant c.serial a) then .wait a
    else
      let s := noteHome s c.tenant c.serial c.id a
      if sp = .m then .held s a old else .ok (writeSpace s sp a z (reduceBits c.op old b))

/-- Element n delivered to a member, with the elements below a limit that go to another device in one unit with it. A block's first
element brings the block's scale byte. -/
def deliverElement (s : State) (c : Copy) (m : Member) (n limit : Nat) : Delivered :=
  let (t, x) := c.target n
  if t.space = 4 then
    let (arr, slot) := c.slotAt m
    .ok (slotUpd s arr slot fun o =>
      if o.fill.contains c.id then
        { o with
          elems := writeNat o.elems (t.addr x) t.z (c.bits n)
          scales := if c.opensBlock t x then writeNat o.scales (t.scaleAddr x) 1 (c.scaleByte n) else o.scales }
      else o)
  else
    let tp := tPerCoreOf s c.team
    let at_ := fun a => spotOf s c.tenant c.team t (c.memberAddr tp m t a) .write
    match if c.opensBlock t x then some (at_ (t.scaleAddr x)) else none, at_ (t.addr x) with
    | some (.bad va f), _ => .page va f
    | _, .bad va f => .page va f
    | sc, .far dev va _ =>
      let (s, ms) := match sc with
        | some (.here sp a) => (storePlain s false sp a 1 (c.scaleByte n), [])
        | some (.far d v _) => (s, [(d, FabricMsg.write v (leBytes 1 (c.scaleByte n)))])
        | _ => (s, [])
      let b := c.bits n
      if c.op = 1 then .sent s 1 (ms ++ [(dev, .atomic .fadd false va b 0)])
      else if c.op = 2 then .sent s 1 (ms ++ [(dev, .reduce va b)])
      else
        let r := farRun s c tp m dev limit 8 (n + 1) (va + t.z)
        .sent s (r.2 + 1) (ms ++ [(dev, .write va (leBytes t.z b ++ r.1))])
    | sc, .here sp a =>
      if c.op ≠ 0 then
        if sp = .host then .page (c.memberAddr tp m t (t.addr x)) true else reduceHere s c sp a t.z (c.bits n)
      else
        let s := storePlain s false sp a t.z (c.bits n)
        match sc with
        | some (.here sp' a') => .ok (storePlain s false sp' a' 1 (c.scaleByte n))
        | some (.far d v _) => .sent s 1 [(d, .write v (leBytes 1 (c.scaleByte n)))]
        | _ => .ok s

/-- A delivered element's bytes enter the bound barrier's landed count (R173). -/
def creditBarrier (s : State) (c : Copy) (n : Nat) : State :=
  match c.barrier with
  | some a => updBarrier s c.team a fun b => b.land n
  | none => s

/-- A member k elements further. -/
def Copy.advance (c : Copy) (n z : Nat) (k : Nat := 1) : Copy :=
  { c with
    members := c.members.map fun m => if m.n = n then { m with pos := m.pos + k } else m
    delivered := c.delivered + k * z
    held := none }

/-- Elements delivered to member k in order, up to a limit: the state, the copy and what stopped it. Each reduction is a write of its
own to those who wait for words (R177). -/
def deliverRun (k limit : Nat) : Nat → State → Copy → State × Copy × Option Delivered
  | 0, s, c => (s, c, none)
  | fuel + 1, s, c =>
    match c.members.find? fun m => m.n == k with
    | none => (s, c, none)
    | some m =>
      if limit ≤ m.pos then (s, c, none)
      else
        match deliverElement s c m m.pos limit with
        | .ok s' =>
          let z := (c.target m.pos).1.z
          let s' := if c.op = 0 then s' else noteWrites s'
          deliverRun k limit fuel (creditBarrier s' c z) (c.advance k z)
        | .held s' a old => (s', { c with held := some (a, old) }, none)
        | d => (s, c, some d)

/-- Source elements read in order, up to a limit; units that later elements lie in are kept. -/
def readRun (s : State) (keep : Bool) (limit : Nat) : Nat → Copy → Copy × Option (Meets (Nat × Nat))
  | 0, c => (c, none)
  | fuel + 1, c =>
    let n := c.data.length
    if limit ≤ n then (c, none)
    else
      match copySource s c n with
      | .ok x =>
        let c := if keep then (c.sourceAddrs n).foldl (Copy.keepUnit s) c else c
        readRun s keep limit fuel { c with data := c.data ++ [x] }
      | e => (c, some e)

/-! ### ROUTE's output (R209) -/

/-- The pairs (expert, token × 8 + slot) of the choices in order, those whose expert is below E. -/
def routePairs (k e : Nat) (xs : List Nat) : List (Nat × Nat) :=
  ((upto xs.length).zip xs).filterMap fun p => if p.2 < e then some (p.2, p.1 / k * 8 + p.1 % k) else none

/-- The permutation, then the counts, then the exclusive offsets. -/
def routeOutput (k e : Nat) (xs : List Nat) : List Nat :=
  let ps := sortBy (fun p => p.1) (routePairs k e xs)
  let count := fun x => (ps.filter fun p => p.1 == x).length
  (ps.map fun p => p.2) ++ List.replicate (xs.length - ps.length) 0xFFFFFFFF ++ (upto e).map count
    ++ (upto e).map fun x => (ps.filter fun p => decide (p.1 < x)).length

/-! ### One step of delivery -/

/-- How many elements the source holds: ROUTE's choices, else all that are delivered. -/
def Copy.sources (c : Copy) : Nat := if c.kind = .route then boxSize c.box else c.total

/-- The end of the row that holds element n: what one step delivers at most. -/
def Copy.rowEnd (c : Copy) (n : Nat) : Nat :=
  match c.out with
  | some _ => c.total
  | none => let b := max 1 (c.box.getD 0 1); min c.total ((n / b + 1) * b)

/-- The member whose turn it is: the least advanced of those whose destination is ready and whose next element can be had. -/
def Copy.nextMember (s : State) (c : Copy) (bound : Nat) : Option Member :=
  (c.members.filter fun m => decide (m.pos < bound) && c.ready s m).foldl
    (fun acc m => match acc with
      | none => some m
      | some a => if m.pos < a.pos then some m else acc) none

def putCopy (s : State) (c : Copy) : State := { s with copies := updateWhere (fun x => x.id == c.id) (fun _ => c) s.copies }

/-- The agent number of a copy's page faults (R303). -/
def Copy.agent (c : Copy) : Nat :=
  match c.kind with
  | .gather | .scatter => 2
  | _ => 1

/-- A copy stopped by a page parks on it (R203). -/
def parkCopy (s : State) (c : Copy) (va : Nat) (write forbidden : Bool) : State :=
  let s := putCopy s { c with parkedOn := some (va / 65536, write) }
  faultPage s c.tenant va c.agent (if write then .write else .read) forbidden

/-- A copy's fatal fault at element n (R204). -/
def failCopy (c : Copy) (n : Nat) : Copy :=
  { c with
    state := some (if c.delivered = 0 then 3 else 2, match c.kind with
      | .gather | .scatter => c.laneOf n / 2
      | _ => 0) }

/-- A request of a copy to another device; a device that cannot be reached is a fatal fault of the read or the write. -/
def askFor (s : State) (c : Copy) (write : Bool) (dev : Nat) (m : FabricMsg) : State × Copy :=
  let id := s.nextId
  match sendRemote s c.tenant dev m (.copy c.id) with
  | some s => (s, { c with asking := c.asking ++ [id] })
  | none => (s, { c with fatal := some write })

/-- What an obstacle to reading does: a page parks the copy, a unit of another device is asked for. -/
def readObstacle (s : State) (c : Copy) (e : Meets (Nat × Nat)) : State :=
  match e with
  | .page va f => parkCopy s c va false f
  | .ask dev va key =>
    let (s, c) := askFor s { c with got := c.got.filter fun x => x.1 != key } false dev (.read va 64)
    putCopy s { c with got := c.got ++ [(key, [])] }
  | .ok _ => putCopy s c

/-- What an obstacle to delivery does. -/
def writeObstacle (s : State) (c : Copy) (e : Delivered) : State :=
  match e with
  | .page va f => parkCopy s c va true f
  | .sent s k ms =>
    let (s, c) := ms.foldl (fun (acc : State × Copy) m => askFor acc.1 acc.2 true m.1 m.2) (s, c)
    putCopy s { c with sent := k }
  | .ok s | .held s _ _ => putCopy s c
  | .busy => putCopy s c
  | .wait a => putCopy (almWait s c.tenant 5 a c.id) c

/-- Whether rows of the destination share 8-byte units: they are delivered in one step, once all is read, so that no unit is written
in parts (R183). -/
def Copy.together (c : Copy) : Bool := c.out.isNone && !(c.dst.rowsApart c.dstC c.box (c.rows.map fun r => r.2.1))

/-- The limit of what may be delivered from the elements read. While a source element is still to come, an e4m3 row is delivered whole,
and rows that share units all at once. -/
def Copy.deliverable (c : Copy) : Nat :=
  match c.out with
  | some _ => c.total
  | none =>
    if c.kind = .route then 0
    else if c.fatal.isSome || decide (c.total ≤ c.data.length) then c.data.length
    else if c.ahead || c.together then 0
    else if c.dst.format = 11 then
      let b := max 1 (c.box.getD 0 1)
      c.data.length / b * b
    else c.data.length

/-- The limit from an element on, cut back to where a unit of the destination begins, unless the row ends there. -/
def Copy.wholeUnits (c : Copy) (pos : Nat) : Nat → Nat → Nat
  | 0, n => n
  | fuel + 1, n =>
    if n ≤ pos ∨ n = c.rowEnd pos ∨ c.fatal.isSome then n
    else
      let (t, x) := c.target n
      if t.addr x % 8 = 0 then n else wholeUnits c pos fuel (n - 1)

/-- Whether a copy may begin: the accesses to its spaces that precede it have been performed, those of its path and those that count as
performed for it (R190). MWAITs hold back only what touches their words. -/
def copyOrdered (s : State) (c : Copy) : Bool :=
  !(s.reqs.any fun r => (c.after.contains r.id || (r.covers c.team c.core && decide (r.seq < c.seq))) && !r.isMwait &&
    ([c.src.space, c.dst.space, c.dst2.space].any fun x => match r.space with
      | .t _ => x == 1
      | .d => x == 2
      | .m | .host => decide (3 ≤ x)))

/-- How far one step of delivery to a member goes: the end of the row, or of all that is delivered together. -/
def Copy.stepLimit (c : Copy) (m : Member) : Nat :=
  if c.together then c.deliverable else c.wholeUnits m.pos 8 (min c.deliverable (c.rowEnd m.pos))

/-- The addresses, each with its number of bytes, that element n is delivered to at a member. -/
def Copy.writesOf (c : Copy) (tp : Nat) (m : Member) (n : Nat) : List (Nat × Nat) :=
  let (t, x) := c.target n
  (c.memberAddr tp m t (t.addr x), t.z) :: if c.opensBlock t x then [(c.memberAddr tp m t (t.scaleAddr x), 1)] else []

/-- Numbers from a on, below b. -/
def fromTo (a b : Nat) : List Nat := (upto (b - a)).map (a + ·)

/-- The places on this device of addresses of a tensor. -/
def Copy.placesOf (s : State) (c : Copy) (t : Tensor) (need : Need) (as : List Nat) : List (Space × Nat) :=
  as.filterMap fun a => match spotOf s c.tenant c.team t a need with
    | .here sp x => some (sp, x)
    | _ => none

/-- The places that elements are read from, and those that they are delivered to. -/
def Copy.readPlaces (s : State) (c : Copy) (ns : List Nat) : List (Space × Nat) :=
  c.placesOf s c.src .read (ns.flatMap c.sourceAddrs)

def Copy.writePlaces (s : State) (c : Copy) (m : Member) (ns : List Nat) : List (Space × Nat) :=
  if c.dst.space = 4 ∧ c.out.isNone then []
  else ns.flatMap fun n => c.placesOf s (c.target n).1 .write ((c.writesOf (tPerCoreOf s c.team) m n).map fun w => w.1)

/-- Whether an MWAIT before a copy in its path still waits on a word that holds one of these places (R182, R190). -/
def waitsBefore (s : State) (c : Copy) (ps : List (Space × Nat)) : Bool :=
  s.reqs.any fun r => c.after.contains r.id && r.isMwait && !r.isCaptured && r.lanes.any fun l =>
    ps.any fun p => p.1 == r.space && p.2 / 8 == l.addr / 8

/-- The words that elements from p on overwrite of those that elements from p0 to p have been delivered to in the same step: whoever waits
for one sees it before (R177). -/
def Copy.overwrites (s : State) (c : Copy) (m : Member) (p0 p e : Nat) (sp : Space) (a : Nat) : Bool :=
  let tp := tPerCoreOf s c.team
  let old := (fromTo p0 p).flatMap fun n => c.writesOf tp m n
  (fromTo p e).any fun n =>
    ((c.writesOf tp m n).filter fun w => old.any fun v => decide (v.1 < w.1 + w.2) && decide (w.1 < v.1 + v.2)).any fun w =>
      (c.placesOf s (c.target n).1 .write [w.1]).any fun x => x.1 == sp && x.2 / 8 == a / 8

/-- Elements delivered to member k in order, up to a limit, row by row where rows may overwrite one another. -/
def deliverRows (k p0 limit : Nat) : Nat → State → Copy → State × Copy × Option Delivered
  | 0, s, c => (s, c, none)
  | fuel + 1, s, c =>
    if !c.together || c.op != 0 then deliverRun k limit limit s c
    else
      match c.members.find? fun m => m.n == k with
      | none => (s, c, none)
      | some m =>
        if limit ≤ m.pos then (s, c, none)
        else
          let e := min limit (c.rowEnd m.pos)
          match deliverRun k e (e - m.pos) (noteWrites s (c.overwrites s m p0 m.pos e)) c with
          | (s, c, none) => deliverRows k p0 limit fuel s c
          | r => r

/-- One more piece of a copy: what is needed of the source read, then the next row of it delivered to one member, once the banks that
this takes serve it (R172). -/
def copyPiece (s : State) (c : Copy) : State :=
  let low := (c.nextMember s c.total).map fun m => m.pos
  match low with
  | none => s
  | some pos =>
    let want := if c.out.isSome then 0 else if c.ahead || c.together || c.kind == .route then c.sources else max c.data.length (c.rowEnd pos)
    let had := c.data.length
    let (c, stop) : Copy × Option (Meets (Nat × Nat)) :=
      if c.fatal.isSome then (c, none) else readRun s c.sharesUnits want (want - c.data.length) c
    let from_ := c.readPlaces s (fromTo had c.data.length)
    let c := if c.kind = .route ∧ c.out = none ∧ c.data.length = c.sources then
      { c with out := some (routeOutput (c.box.getD 0 1) (c.dst2.ext.getD 0 0 / 2) (c.data.map fun x => x.1)) } else c
    let next := (c.nextMember s c.deliverable).filter fun m => decide (m.pos < c.stepLimit m)
    let places := from_ ++ match next with
      | some m => c.writePlaces s m (fromTo m.pos (c.stepLimit m))
      | none => []
    if waitsBefore s c places then s
    else
      engineTurn s (copyPort c.core) places fun s =>
        match next with
        | some m =>
          let limit := c.stepLimit m
          let (s, c, e) := deliverRows m.n m.pos limit (limit - m.pos) s c
          match e with
          | none => putCopy (noteWrites s) c
          | some d => noteWrites (writeObstacle s c d)
        | none =>
          if c.fatal.isSome then putCopy s (failCopy c c.data.length)
          else
            match stop with
            | some e => readObstacle s c e
            | none => putCopy s c

/-- Whether CXSAVE has stopped a tenant: its copies stay at their element (R204, R306). -/
def tenantFrozen (s : State) (tn : Nat) : Bool := ((tfind s.tenants tn).map fun t => t.state == .frozen).getD false

/-- COPY_DELIVERY (R203): a suspended or finished copy delivers nothing; one whose page has been answered goes on or takes its
fatal path; one whose elements other devices have performed counts them, also once a read has failed. -/
def execCopyDelivery (id : Nat) (s : State) : Out :=
  .next
    (match s.copies.find? fun c => c.id == id with
    | none => s
    | some c =>
      if c.state.isSome || !c.asking.isEmpty || !(copyOrdered s c) then s
      else if c.fatal = some true then putCopy s (failCopy c ((c.members.map fun m => m.pos).foldl min c.total))
      else if 0 < c.sent then
        match c.members with
        | m :: _ =>
          let z := (c.target m.pos).1.z
          putCopy (creditBarrier s c (c.sent * z)) { c.advance m.n z c.sent with sent := 0 }
        | [] => s
      else if tenantFrozen s c.tenant then s
      else
        match c.parkedOn with
        | some (pg, w) =>
          if s.faults.any fun f => sameFault f c.tenant pg (if w then .write else .read) then s
          else copyPiece s { c with parkedOn := none, sent := 0 }
        | none => copyPiece s { c with sent := 0 })

/-! ## Completion (R204) -/

/-- The status word. -/
def statusWord (state where_ units : Nat) : Nat := state * 2 ^ 28 + where_ * 2 ^ 24 + units

/-- The state and where fields that a copy ends with. -/
def Copy.finalState (c : Copy) : Nat × Nat :=
  match c.state with
  | some x => x
  | none => if c.dropped ≠ 0 then (4, c.dropped) else (1, 0)

/-- Whether a copy has ended. -/
def Copy.finished (c : Copy) : Bool :=
  c.state.isSome || ((c.members.all fun m => m.pos == c.total) && c.asking.isEmpty && c.sent == 0)

/-- The write of a 64-bit value to the scalar that a result is owed to. -/
def owedScalar (s : State) (id x : Nat) : List RegWrite :=
  match s.owed.find? fun o => o.id == id with
  | some o => o.dests.map fun r => match r with
    | .bank n => RegWrite.bank n (BitVec.ofNat 64 x)
    | .k n => .k n (BitVec.ofNat 64 x)
    | _ => .k 0 0
  | none => []

/-- The bit of each slot that a completed copy filled becomes full (R213). -/
def fillSlots (s : State) (c : Copy) : State :=
  if c.dst.space = 4 then
    c.members.foldl
      (fun s m => slotUpd s (c.slotAt m).1 (c.slotAt m).2 fun o =>
        if o.fill.contains c.id then { o with full := true, fill := o.fill.filter fun x => x != c.id } else o) s
  else s

/-- A copy completes: its barrier's phase where it faulted, its slots, its status word, its sample. -/
def completeCopy (s : State) (c : Copy) : State :=
  let (st, w) := c.finalState
  let s := match c.barrier with
    | some a => if st = 2 ∨ st = 3 then updBarrier s c.team a fun b => b.complete 1 else s
    | none => s
  let s := fillSlots s c
  let s := updTenant s c.tenant fun t => { t with copyMon := t.copyMon.sample (s.now - c.accepted) }
  let s := fillOwed s (some c.owed) (owedScalar s c.owed (statusWord st w ((c.delivered + 63) / 64)))
  c.members.foldl (fun s m => sweepCore s m.core)
    (sweepCore { s with copies := s.copies.filter fun x => x.id != c.id } c.core)

/-- COPY_COMPLETION (R204). -/
def execCopyCompletion (id : Nat) (s : State) : Out :=
  .next
    (match s.copies.find? fun c => c.id == id with
    | some c => if c.finished then completeCopy s c else s
    | none => s)

/-! ## Acceptance (R199 to R206) -/

/-- What an accepting instruction meets: a trap with its address, or what it accepts. -/
abbrev Accept (α : Type) := Except (Nat × Nat) α

/-- A tensor of the team's table. -/
def Team.tensor (t : Team) (n : Nat) : Accept Tensor :=
  match tfind t.tensors (n % 64) with
  | some d => .ok d
  | none => .error (0x12, 0)

def require (b : Bool) (code : Nat) : Accept Unit := if b then .ok () else .error (code, 0)

/-- A 32-byte block from T: its alignment, then its place (R200). -/
def readBlock (t : Team) (a : Nat) : Accept Bytes :=
  if a % 32 ≠ 0 then .error (0x05, a) else if t.tsize < a + 32 then .error (0x06, a) else .ok (readBytes t.tmem a 32)

def byteAt (b : Bytes) (n : Nat) : Nat := leNat ((b.drop n).take 1)
def fieldAt (b : Bytes) (n k : Nat) : Nat := leNat ((b.drop n).take k)
def coordsAt (b : Bytes) (n : Nat) : List Nat := (upto 4).map fun i => fieldAt b (n + 2 * i) 2

/-- The float formats that R202 converts among. -/
def convertible (f : Nat) : Bool := decide (8 ≤ f) && decide (f ≤ 12)

/-- R202's format pairs. -/
def pairAdmitted (op fs fd : Nat) : Bool :=
  match op with
  | 0 => fs == fd || (convertible fs && convertible fd)
  | 1 => fs == 8 && fd == 8
  | 2 => fs == 10 && fd == 10
  | _ => false

/-- The box conditions of an e4m3 destination, and of an e4m3 source copied unchanged (R202). -/
def e4m3Fits (src dst : Tensor) (so do_ box : List Nat) : Bool :=
  let d := do_.getD 0 0
  let e := d + box.getD 0 1
  (dst.format != 11 || (decide (d % 32 = 0) && (decide (e % 32 = 0) || decide (e = dst.ext.getD 0 0)))) &&
    (!(src.format == 11 && dst.format == 11) || decide (so.getD 0 0 % 32 = 0))

/-- The box's extents agree with the larger rank. -/
def boxFits (r : Nat) (box : List Nat) : Bool := (upto 4).all fun i => if i < r then box.getD i 0 != 0 else box.getD i 0 == 1

/-- The pieces of a copy: source and destination coordinates, one for COPY and one per row otherwise. -/
def copyPieces (so do_ : List Nat) (rows : Option (List (Nat × Nat × Nat))) : List (List Nat × List Nat) :=
  match rows with
  | none => [(so, do_)]
  | some rs => rs.map fun r => (so.set 1 r.1, do_.set 1 r.2.1)

/-- The spans of R200's check 12: the source's, the destination's, each with its scale bytes. -/
def copySpans (src dst : Tensor) (fill : Nat) (box : List Nat) (ps : List (List Nat × List Nat)) : List (Nat × Bool × Span) :=
  let one := fun (sp : Nat) (w : Bool) (xs : List Span) => match joinSpans xs with
    | some x => [(sp, w, x)]
    | none => []
  one src.space false (ps.filterMap fun p => src.sourceSpan fill p.1 box)
    ++ one src.space false (ps.filterMap fun p => src.sourceScaleSpan fill (dst.format == 11) p.1 box)
    ++ if dst.space = 4 then [] else
      one dst.space true (ps.map fun p => dst.span p.2 box) ++ one dst.space true (ps.filterMap fun p => dst.scaleSpan p.2 box)

/-- A multicast's T spans at every member: the tensor's lie inside one core's part, which a core of the team holds. -/
def memberSpans (t : Team) (ns : List Nat) (x : Span) : Accept (List (Nat × Bool × Span)) :=
  if t.tPerCore = 0 ∨ t.tsize < x.2 then .error (0x06, x.1)
  else if x.1 / t.tPerCore ≠ (x.2 - 1) / t.tPerCore then .error (0x06, x.1)
  else
    let lo := x.1 % t.tPerCore
    .ok (ns.map fun n => (1, true, (n * t.tPerCore + lo, n * t.tPerCore + lo + (x.2 - x.1))))

/-- Whether a core of a team has a live group of it, and whether one there holds a slot. -/
def coreLive (s : State) (tm : Nat) (core : Nat) : Bool := s.groups.any fun p => p.2.live && p.2.team == tm && p.2.core == core

def teamHolds (s : State) (tm arr slot : Nat) : Bool :=
  match slotGet s arr slot with
  | some o => o.claim.isSome && o.team == tm
  | none => false

def ownSlot (s : State) (gid arr slot : Nat) : Bool :=
  match slotGet s arr slot with
  | some o => o.claim == some gid
  | none => false

/-- The members that a multicast keeps, as team core numbers (R205). -/
def keptMembers (s : State) (t : Team) (tm : Nat) (dst : Tensor) (mask : Nat) : List Nat :=
  (upto 4).filter fun n => mask.testBit n &&
    match t.cores[n]? with
    | some core => coreLive s tm core && (dst.space != 4 || teamHolds s tm (arrayIx core (dst.base % 4)) (dst.base / 4))
    | none => false

/-- A team's core number of a group's core. -/
def Team.coreNumber (t : Team) (core : Nat) : Nat := ((upto t.cores.length).find? fun n => t.cores[n]? == some core).getD 0

/-- A copy before its acceptance is entered: nothing read, nothing delivered. -/
def Copy.fresh (i : Iss) (kind : CopyKind) (src dst dst2 : Tensor) : Copy :=
  { id := 0, gid := i.gid, serial := 0, after := [], tenant := i.g.tenant, team := i.g.team, core := i.g.core, kind := kind, seq := 0, src := src
    dst := dst, dst2 := dst2, srcC := [0, 0, 0, 0], dstC := [0, 0, 0, 0], box := [1, 1, 1, 1], op := 0, fill := 0
    barrier := none, multi := false, members := [], dropped := 0, rows := [], ahead := false, data := [], out := none
    total := 0, delivered := 0, state := none, parkedOn := none, fatal := none, got := [], asking := [], units := [], held := none, sent := 0
    tile := none, tileRead := true, owed := 0, batch := i.g.batch, accepted := 0 }

/-- The bytes that the source span shares with the destination spans, where both lie in one space (R203); of a multicast, those shared with each
member's, added up (log entry 103). -/
def sharedBytes (src dst : Tensor) (spans dsts : List Span) : Nat :=
  if src.space = dst.space ∧ src.space ≤ 3 then
    match joinSpans spans with
    | some x => (dsts.map fun y => overlap x y).sum
    | none => 0
  else 0

/-- The rows of a gather or scatter, one per active lane (R206). -/
def gatherRows (i : Iss) (scatter : Bool) (v : VCode) (p : MCode) (c1s c1d : Nat) : List (Nat × Nat × Nat) :=
  let ls := lanesOf (i.active p)
  ((upto ls.length).zip ls).map fun x =>
    let ix := srcLane i.g v.toNat x.2 1
    if scatter then (c1s + x.1, ix, x.2) else (ix, c1d + x.1, x.2)

/-- Every check of R200 in its order, and the copy they accept. -/
def acceptCopy (s : State) (i : Iss) (t : Team) (a : Nat) (gather : Option (Bool × VCode × MCode)) : Accept Copy := do
  let b ← readBlock t a
  let src ← t.tensor (byteAt b 0)
  let dst ← t.tensor (byteAt b 1)
  let o := byteAt b 2
  let mask := byteAt b 3
  let op := o % 8
  let bind := o.testBit 3
  let fill := fld o 5 2
  let bar := fieldAt b 4 4
  require (decide (byteAt b 0 < 64) && decide (byteAt b 1 < 64) && !(o.testBit 4) && !(o.testBit 7) && decide (mask < 16)
    && decide (op ≤ 2) && (fill != 3 || convertible src.format) && (bind == (bar != 0)) && decide (bar % 16 = 0)
    && (!bind || (t.barrier bar).isSome)) 0x01
  let src := src.loopback s
  let dst := dst.loopback s
  require (!src.isMesh && !dst.isMesh && src.space != 4 && !(src.space == 5 && dst.space == 5)) 0x01
  let so := coordsAt b 8
  let do_ := coordsAt b 16
  let box := coordsAt b 24
  require (boxFits (max src.rank dst.rank) box) 0x01
  require (pairAdmitted op src.format dst.format) 0x01
  let rows := gather.map fun x => gatherRows i x.1 x.2.1 x.2.2 (so.getD 1 0) (do_.getD 1 0)
  let ps := copyPieces so do_ rows
  require (gather.isNone || (box.getD 1 0 == 1 && mask == 0)) 0x01
  require (ps.all fun p => dst.boxInside p.2 box && (fill != 0 || src.boxInside p.1 box) && e4m3Fits src dst p.1 p.2 box) 0x01
  let total := boxSize box * ps.length
  require (decide (total * dst.z * max 1 (popcount 4 mask) ≤ 2 ^ 30 - 64)) 0x01
  require (decide (mask = 0) || ((dst.space == 1 || dst.space == 4) && op == 0)) 0x01
  require (dst.space != 4 || ownSlot s i.gid (arrayIx i.g.core (dst.base % 4)) (dst.base / 4)) 0x0C
  let kept := if mask = 0 then [t.coreNumber i.g.core] else keptMembers s t i.g.team dst mask
  let spans := copySpans src dst fill box ps
  let spread ← (if mask = 0 ∨ dst.space = 4 then .ok (spans.filter fun x => x.2.1)
    else (spans.filter fun x => x.2.1).foldl
      (fun (acc : Accept (List (Nat × Bool × Span))) x => match acc, memberSpans t kept x.2.2 with
        | .ok l, .ok m => .ok (l ++ m)
        | .error e, _ => .error e
        | _, .error e => .error e) (.ok []))
  match checkSpans t ((spans.filter fun x => !x.2.1) ++ spread) with
  | some e => .error e
  | none => pure ()
  let shared := sharedBytes src dst (ps.filterMap fun p => src.sourceSpan fill p.1 box)
    ((spread.map fun x => x.2.2).take (if mask = 0 then 1 else kept.length))
  pure { Copy.fresh i (match gather with
      | none => .copy
      | some (false, _) => .gather
      | some (true, _) => .scatter) src dst dst with
    srcC := so
    dstC := do_
    box := box
    op := op
    fill := fill
    barrier := if bind then some bar else none
    multi := mask != 0
    members := kept.map fun n => ⟨n, t.cores.getD n 0, 0⟩
    dropped := (upto 4).foldl (fun m n => if mask.testBit n && !(kept.contains n) then m + 2 ^ n else m) 0
    rows := rows.getD []
    ahead := decide (0 < shared) && decide (shared ≤ 65536)
    total := total
    state := if 65536 < shared then some (5, 0) else none }

/-- An accepted copy enters: it joins the open batch, owes its status scalar, joins its slots' fill queues, and credits its
dropped members (R203, R205, R207, R213). -/
def enterCopy (s : State) (i : Iss) (fs : FSel) (ka : KCode) (c : Copy) : State :=
  let (owed, s) := oweResult s i.gid .copy (i.flag fs) [kName i.g ka.toNat] [] 1
  let (id, s) := freshId s
  let c := { c with
    id := id, serial := almAgent s i.gid, seq := s.nextSeq, after := pathReqs s i.gid i.pathMask, owed := owed, accepted := s.now }
  let s := { s with copies := s.copies ++ [c] }
  let s := if c.dst.space = 4 then
      c.members.foldl
        (fun s m => slotUpd s (c.slotAt m).1 (c.slotAt m).2 fun o => { o with fill := o.fill ++ [id] }) s
    else s
  let n := popcount 4 c.dropped
  done (bumpSeq (if n = 0 then s else creditBarrier s c (n * c.total * c.dst.z))) i

/-- A copy instruction: it waits for the group's own earlier stores to its block, then is accepted or traps. -/
def copyOp (s : State) (u : Uses) (ka kb : KCode) (fs : FSel) (off : BitVec 12) (p : MCode)
    (accept : Iss → Team → Nat → Accept Copy) : Out :=
  issue s { u with fs := fs, ks := [ka.toNat, kb.toNat], tracked := 1 } p fun i =>
    let a := blockAddr i kb off
    match teamOf s i.g with
    | none => s
    | some t =>
      if ownBusy s i.gid i.g (.t i.g.team) a 32 then s
      else
        match accept i t a with
        | .error (code, x) => raiseAt s i code 0 (i.active p) x
        | .ok c => enterCopy s i fs ka c

/-- COPY (R202). -/
def execCopy (ka kb : KCode) (fs : FSel) (off : BitVec 12) (s : State) : Out :=
  copyOp s {} ka kb fs off 0 fun i t a => acceptCopy s i t a none

/-- COPYG (R206). -/
def execCopyg (ka kb : KCode) (v : VCode) (p : MCode) (fs : FSel) (off : BitVec 12) (s : State) : Out :=
  copyOp s { vs := [vreg v], ms := [p.toNat] } ka kb fs off p fun i t a => acceptCopy s i t a (some (false, v, p))

/-- COPYS (R206). -/
def execCopys (ka kb : KCode) (v : VCode) (p : MCode) (fs : FSel) (off : BitVec 12) (s : State) : Out :=
  copyOp s { vs := [vreg v], ms := [p.toNat] } ka kb fs off p fun i t a => acceptCopy s i t a (some (true, v, p))

/-- The checks of ROUTE (R208), and the copy that it is. -/
def acceptRoute (s : State) (i : Iss) (t : Team) (a : Nat) : Accept Copy := do
  let b ← readBlock t a
  let ch ← t.tensor (byteAt b 0)
  let pm ← t.tensor (byteAt b 1)
  let ct ← t.tensor (byteAt b 2)
  let k := byteAt b 3
  let bar := fieldAt b 4 4
  let n := fieldAt b 8 4
  let e := fieldAt b 12 2
  require ((upto 3).all fun j => decide (byteAt b j < 64)) 0x01
  require (decide (1 ≤ k) && decide (k ≤ 8) && decide (1 ≤ n) && decide (n ≤ 65536) && decide (1 ≤ e) && decide (e ≤ 1024)
    && decide (n * k ≤ 65536) && decide (leNat (b.drop 14) = 0) && decide (bar % 16 = 0)
    && (bar == 0 || (t.barrier bar).isSome)) 0x01
  let ch := ch.loopback s
  let pm := pm.loopback s
  let ct := ct.loopback s
  require (ch.format == 5 && ch.rank == 2 && pm.format == 6 && pm.rank == 1 && ct.format == 6 && ct.rank == 1
    && ch.space != 4 && pm.space != 4 && ct.space != 4 && decide (k ≤ ch.ext.getD 0 0) && decide (n ≤ ch.ext.getD 1 0)
    && decide (n * k ≤ pm.ext.getD 0 0) && decide (2 * e ≤ ct.ext.getD 0 0)) 0x01
  let z := [0, 0, 0, 0]
  match checkSpans t [(ch.space, false, ch.span z [k, n, 1, 1]), (pm.space, true, pm.span z [n * k, 1, 1, 1]),
      (ct.space, true, ct.span z [2 * e, 1, 1, 1])] with
  | some x => .error x
  | none => pure ()
  pure { Copy.fresh i .route ch pm { ct with ext := [2 * e, 1, 1, 1] } with
    box := [k, n, 1, 1]
    barrier := if bar = 0 then none else some bar
    members := [⟨t.coreNumber i.g.core, i.g.core, 0⟩]
    total := n * k + 2 * e }

/-- ROUTE (R208). -/
def execRoute (ka kb : KCode) (fs : FSel) (off : BitVec 12) (s : State) : Out :=
  copyOp s {} ka kb fs off 0 fun i t a => acceptRoute s i t a

/-! ## Batches (R207) -/

/-- CBATCH. -/
def execCbatch (ka : KCode) (s : State) : Out :=
  issue s { ks := [ka.toNat] } 0 fun i =>
    let g := applyWrite i.g (kWrite i.g ka.toNat (BitVec.ofNat 64 i.g.batch.toNat))
    finish s i { g with batch := i.g.batch + 1 }

/-- Whether batch b is n or an earlier one. -/
def batchUpTo (n b : BitVec 16) : Bool := decide ((n - b).toNat < 2 ^ 15)

/-- WAITB. -/
def execWaitb (kb : KCode) (s : State) : Out :=
  issue s { ks := [kb.toNat] } 0 fun i =>
    let n := BitVec.ofNat 16 (kGet i.g kb.toNat).toNat
    if batchUpTo n i.g.batch then raise s i 0x01
    else if (s.copies.any fun c => c.gid == i.gid && batchUpTo n c.batch) ||
        (s.xchgs.any fun x => x.gid == i.gid && batchUpTo n x.batch) then park s i .retry
    else done s i

end Sys2Proof.Machine
end

