-- ==== Sys2Proof/Machine/Block.lean ====
section
/-! DEFINITION. Launch blocks and argument blocks (R268, R269), graph blocks (R275), the checks that LAUNCH and GLAUNCH make of
them (R270), and reads of M at which an issuing group parks (R170). -/

namespace Sys2Proof.Machine

open Sys2Proof

/-! ## Reads at which a group parks -/

/-- An instruction goes on with what it read of M, or parks on the page, or takes its fatal path (R170, R304). -/
def withReadOr {α : Type} (s : State) (i : Iss) (agent : Nat) (r : Got α) (fatal : Nat → State) (k : α → State) : State :=
  match r with
  | .ok x => k x
  | .failed va => fatal va
  | .wait dev rva va => park (askRemote s i.g.tenant dev rva va) i .retry
  | .page va f =>
    match i.g.park with
    | some ⟨_, _, .page _ pages failed⟩ =>
      if failed.contains (va / 65536) then fatal va
      else if pagesOpen s i.g.tenant pages .read then s
      else parkOnPages s i agent .read [(va, if f then .forbidden else .notPresent)]
    | _ => parkOnPages s i agent .read [(va, if f then .forbidden else .notPresent)]

/-- The same where the fatal path is the trap 0x13 (R270, R326). -/
def withRead {α : Type} (s : State) (i : Iss) (agent : Nat) (p : MCode) (r : Got α) (k : α → State) : State :=
  withReadOr s i agent r (fun va => raiseAt s i 0x13 0 (i.active p) va) k

/-! ## Fields -/

/-- A word address in the form of R268; none where space, reserved bits or alignment forbid it. That a D address lies below 2^30 is
its range, which the windows and the scratch range check (R270, R283). -/
def parseWordAddr (x : Nat) : Option WordAddr :=
  let sp := fld x 62 2
  let a := fld x 0 52
  if fld x 52 10 ≠ 0 then none
  else if sp = 0 then if x = 0 then some .none else none
  else if sp = 2 then if a % 8 = 0 then some (.d a) else none
  else if sp = 3 then if a % 8 = 0 then some (.m a) else none
  else none

/-- A D window entry of R268. -/
def parseWindow (x : Nat) : Window := ⟨fld x 0 14 * 65536, fld x 16 15 * 65536, x.testBit 31⟩

/-- Whether a range lies in a tenant's scratch range (R162). -/
def inScratch (c : TenantConfig) (a n : Nat) : Bool := decide (c.scratchBase ≤ a) && decide (a + n ≤ c.scratchBase + c.scratchSize)

/-- The argument block (R269), as read: parameters, tensors, roles, and the cause of a failed check. -/
structure Args where
  np : Nat
  nt : Nat
  nr : Nat
  roles : List (Nat × Nat × Nat)
  params : List (Nat × W64)
  tensors : List (Nat × Bytes)
  reserved : Bool
  deriving DecidableEq, Repr

def Args.none : Args := ⟨0, 0, 0, [], [], [], true⟩

/-- How many bytes an argument block takes, from its counts. -/
def argsBytes (np nt : Nat) : Nat := (72 + 16 * np + 63) / 64 * 64 + (nt + 63) / 64 * 64 + 64 * nt

/-- The fields of an argument block with so many parameters and tensors. -/
def parseArgs (b : Bytes) (np nt : Nat) : Args :=
  let nr := byteAt b 2
  let role := fun r => (r, fieldAt b (8 + 16 * r) 8, byteAt b (16 + 16 * r))
  let ixs := (72 + 16 * np + 63) / 64 * 64
  let descs := ixs + (nt + 63) / 64 * 64
  { np := np, nt := nt, nr := nr
    roles := ((upto 4).map role).filter fun r => r.2.1 != 0 || r.2.2 != 0
    params := (upto np).map fun j => (byteAt b (72 + 16 * j), BitVec.ofNat 64 (fieldAt b (80 + 16 * j) 8))
    tensors := (upto nt).map fun j => (byteAt b (ixs + j), (b.drop (descs + 64 * j)).take 64)
    reserved := decide (fieldAt b 3 5 = 0) && ((upto 4).all fun r =>
        decide (fieldAt b (17 + 16 * r) 7 = 0) && (decide (r < nr) || decide (fieldAt b (8 + 16 * r) 16 = 0)))
      && ((upto np).all fun j => decide (fieldAt b (73 + 16 * j) 7 = 0))
      && ((upto ((nt + 63) / 64 * 64)).all fun j => decide (j < nt) || decide (byteAt b (ixs + j) = 0)) }

/-- An argument block read whole; only its header and roles where its counts are out of range. -/
def readArgs (s : State) (tn va : Nat) : Got Args :=
  if va = 0 then .ok Args.none
  else
    match readUnits s tn va .read 1 with
    | .ok b =>
      let np := byteAt b 0
      let nt := byteAt b 1
      let whole := decide (np ≤ 64) && decide (nt ≤ 64)
      match readUnits s tn va .read (if whole then argsBytes np nt / 64 else 2) with
      | .ok b => .ok (if whole then parseArgs b np nt else { parseArgs b 0 0 with np := np, nt := nt })
      | .page a f => .page a f
      | .failed a => .failed a
      | .wait d r a => .wait d r a
    | .page a f => .page a f
    | .failed a => .failed a
    | .wait d r a => .wait d r a

/-! ## Where teams fit (R121, R124, R139) -/

/-- Core j of a cluster (R121, R138, R313). -/
def clusterCore (cl j : Nat) : Nat :=
  let die := cl / 16
  let row := 8 * (die / 2) + 2 * (cl % 16 / 4) + j / 2
  let col := 8 * (die % 2) + 2 * (cl % 4) + j % 2
  16 * row + col

/-- How many cores a team takes. -/
def coresNeeded (threads : Nat) : Nat := if threads ≤ 2048 then 1 else if threads ≤ 4096 then 2 else 4

/-- The sets of cores a team of that size may take, of a tenant's cores, in the order of R273. -/
def coreSets (cores : List Nat) (threads : Nat) : List (List Nat) :=
  match coresNeeded threads with
  | 1 => (sortBy (fun c => c) cores).map fun c => [c]
  | 2 => ((upto 64).flatMap fun cl => [[clusterCore cl 0, clusterCore cl 1], [clusterCore cl 2, clusterCore cl 3]]).filter
      fun cs => cs.all cores.contains
  | _ => ((upto 64).map fun cl => (upto 4).map (clusterCore cl)).filter fun cs => cs.all cores.contains

/-- How many groups of a team stand on its core j, and how many of those on a partition. -/
def groupsOn (threads j : Nat) : Nat := min 64 ((threads + 31) / 32 - 64 * j)

def groupsPart (threads j part : Nat) : Nat := (groupsOn threads j + 7 - part) / 8

/-- The budget in which a block's groups start. -/
def LaunchBlock.startBudget (b : LaunchBlock) : Nat :=
  match b.roles.find? fun r => r.number == b.role with
  | some r => r.budget
  | none => b.budget

/-- Whether a team fits an empty core's partitions. -/
def fitsEmpty (b : LaunchBlock) : Bool :=
  (upto 8).all fun part =>
    let n := groupsPart b.threads 0 part
    decide (n = 0) || decide (n * b.startBudget + headroom b.roles ≤ 1024)

/-- The rectangles of gx × gy cores inside a tenant's cores, northernmost then westernmost, each row by row. -/
def rectangles (cores : List Nat) (gx gy : Nat) : List (List Nat) :=
  ((upto 16).flatMap fun r => (upto 16).filterMap fun c =>
    if r + gy ≤ 16 ∧ c + gx ≤ 16 then
      some ((upto gy).flatMap fun y => (upto gx).map fun x => 16 * (r + y) + (c + x))
    else none).filter fun cs => cs.all cores.contains

/-- Cause 9 of R270 does not hold. -/
def fitsTenant (cores : List Nat) (b : LaunchBlock) : Bool :=
  fitsEmpty b && (if b.ports then !(rectangles cores b.gx b.gy).isEmpty else !(coreSets cores b.threads).isEmpty)

/-! ## The checks of R270 -/

/-- The launch block that the bytes describe, before it is checked. -/
def parseBlock (b : Bytes) (a : Args) : LaunchBlock :=
  let sh := fieldAt b 36 2
  { entry := fieldAt b 0 8
    completion := (parseWordAddr (fieldAt b 16 8)).getD .none
    dependence := (parseWordAddr (fieldAt b 24 8)).getD .none
    depValue := fieldAt b 32 4
    threads := fld sh 0 13 + 1
    ports := sh.testBit 13
    role := fld sh 14 2
    budget := 32 * byteAt b 38
    regArea := 65536 * byteAt b 39
    gx := fieldAt b 40 2
    gy := fieldAt b 42 2
    tPerCore := 1024 * fieldAt b 44 2
    progArea := 1024 * fieldAt b 46 2
    windows := ((upto 4).map fun j => parseWindow (fieldAt b (48 + 4 * j) 4)).filter fun w => w.size != 0
    params := a.params
    tensors := a.tensors.map fun x => (x.1, parseTensor x.2)
    roles := a.roles.map fun r => ⟨r.1, 32 * r.2.2, r.2.1⟩ }

def entryLegal (a : Nat) : Bool := decide (a % 8 = 0) && decide (a < 2 ^ 52)

def budgetLegal (x : Nat) : Bool := decide (3 ≤ x) && decide (x ≤ 32)

/-- A word address of a launch block that cause 7 refuses. -/
def badWord (c : TenantConfig) (x : Nat) : Bool :=
  match parseWordAddr x with
  | some (.d a) => decide (2 ^ 30 ≤ a) || !(inScratch c a 8)
  | some _ => false
  | none => true

/-- The causes of R270 in their order, each with its condition. -/
def launchCauses (c : TenantConfig) (b : Bytes) (a : Args) : List (Nat × Bool) :=
  let x := parseBlock b a
  let win := fun j => fieldAt b (48 + 4 * j) 4
  let declared := !x.roles.isEmpty
  [(2, !((upto 4).all fun j => decide (fld (win j) 14 2 = 0)) || !a.reserved || decide (4 < a.nr) || !(entryLegal x.entry)
      || !(x.roles.all fun r => entryLegal r.entry)),
    (3, decide (x.gx = 0) || decide (x.gy = 0) ||
      (x.ports && (decide (16 < x.gx) || decide (16 < x.gy) || decide (2048 < x.threads)))),
    (4, if declared then decide (x.entry ≠ 0) || decide (x.budget ≠ 0) || !(a.roles.all fun r => budgetLegal r.2.2)
          || !(x.roles.any fun r => r.number == x.role)
        else !(budgetLegal (x.budget / 32)) || decide (x.role ≠ 0) || decide (x.entry = 0)),
    (5, decide (512 * 1024 < x.tPerCore) || decide (256 * 1024 < x.progArea) || decide (byteAt b 39 = 0)
      || decide (128 < byteAt b 39)),
    (6, (upto 4).any fun j => let w := parseWindow (win j)
      decide (w.size ≠ 0) && (!(inScratch c w.base w.size) || decide (16384 * 65536 < w.base + w.size))),
    (7, badWord c (fieldAt b 16 8) || badWord c (fieldAt b 24 8)),
    (8, decide (64 < a.np) || decide (64 < a.nt) || (a.params.any fun p => decide (159 < p.1))
      || decide ((a.params.map fun p => p.1).eraseDups.length ≠ a.params.length)
      || (a.tensors.any fun t => decide (63 < t.1))
      || decide ((a.tensors.map fun t => t.1).eraseDups.length ≠ a.tensors.length)
      || !(a.tensors.all fun t => tensorLegal t.2)),
    (9, !(fitsTenant c.cores x))]

/-- The first cause that holds, or the launch block. -/
def checkLaunch (c : TenantConfig) (b : Bytes) (a : Args) : Except Nat LaunchBlock :=
  match (launchCauses c b a).find? fun x => x.2 with
  | some x => .error x.1
  | none => .ok (parseBlock b a)

/-- The argument address of a launch block. -/
def argsAddr (b : Bytes) : Nat := fieldAt b 8 8

def blockAddrLegal (a : Nat) : Bool := decide (a % 64 = 0) && decide (a < 2 ^ 52)

/-- A launch block's 64 bytes with their argument block, read and checked (R270). -/
def loadLaunch (s : State) (tn : Nat) (b : Bytes) : Got (Except Nat LaunchBlock) :=
  match tfind s.tenants tn with
  | none => .ok (.error 1)
  | some t =>
    if !(blockAddrLegal (argsAddr b)) then .ok (.error 1)
    else
      match readArgs s tn (argsAddr b) with
      | .ok a => .ok (checkLaunch t.config b a)
      | .page a f => .page a f
      | .failed a => .failed a
      | .wait d r a => .wait d r a

/-- A launch block at an address, read and checked, with its bytes. -/
def loadLaunchAt (s : State) (tn va : Nat) : Got (Except Nat (LaunchBlock × Bytes)) :=
  if !(blockAddrLegal va) then .ok (.error 1)
  else
    match readUnits s tn va .read 1 with
    | .ok b =>
      match loadLaunch s tn b with
      | .ok (.ok x) => .ok (.ok (x, b))
      | .ok (.error e) => .ok (.error e)
      | .page a f => .page a f
      | .failed a => .failed a
      | .wait d r a => .wait d r a
    | .page a f => .page a f
    | .failed a => .failed a
    | .wait d r a => .wait d r a

/-! ## Graph blocks (R275, R276) -/

/-- The nodes' launch blocks, one after the other: the first error, or all. -/
def loadNodes (s : State) (tn : Nat) (b : Bytes) : Nat → Nat → Got (Except Nat (List LaunchBlock))
  | 0, _ => .ok (.ok [])
  | n + 1, j =>
    match loadLaunch s tn ((b.drop (64 + 128 * j)).take 64) with
    | .ok (.ok x) =>
      match loadNodes s tn b n (j + 1) with
      | .ok (.ok xs) => .ok (.ok (x :: xs))
      | e => e
    | .ok (.error e) => .ok (.error e)
    | .page a f => .page a f
    | .failed a => .failed a
    | .wait d r a => .wait d r a

/-- A node's fields beyond its launch block. -/
def nodeField (b : Bytes) (j o n : Nat) : Nat := fieldAt b (64 + 128 * j + o) n

/-- The conditions of cause 10 on one node. -/
def nodeLegal (b : Bytes) (c : TenantConfig) (base slots entry : Nat) (j : Nat) (x : LaunchBlock) : Bool :=
  let rs := nodeField b j 64 2
  let bt := nodeField b j 66 1
  let own := if j = entry then rs == 0 && bt == 0 && x.completion == .none
    else decide (8 ≤ rs) && decide (rs ≤ 256) && decide (rs % 8 = 0) && decide (1 ≤ bt) && decide (bt ≤ 64) && x.gx == 1
      && x.gy == 1 && !x.ports && x.completion == .none && x.dependence == .none
      && decide (bt * rs ≤ x.tPerCore * coresNeeded x.threads)
  let w := parseWindow (fieldAt b (64 + 128 * j + 48) 4)
  own && decide (nodeField b j 67 1 = 0) && decide (leNat ((b.drop (64 + 128 * j + 70)).take 58) = 0) && w.write
    && decide (w.base ≤ base) && decide (base + 256 * slots ≤ w.base + w.size) && inScratch c base (256 * slots)

/-- The graph that a graph block describes, or the cause. The slot, generation and queue are the caller's. -/
def checkGraph (c : TenantConfig) (b : Bytes) (xs : List LaunchBlock) : Except Nat Graph :=
  let n := byteAt b 0
  let entry := byteAt b 1
  let slots := fieldAt b 4 4
  let base := fieldAt b 8 8
  let node := fun (p : Nat × LaunchBlock) =>
    (⟨p.2, nodeField b p.1 64 2, nodeField b p.1 66 1, nodeField b p.1 68 2, [], 0⟩ : GraphNode)
  if decide (entry < n) && decide (fieldAt b 2 2 = 0) && decide (32 ≤ slots) && decide (slots ≤ 4194304)
      && decide (base % 256 = 0) && !(badWord c (fieldAt b 16 8)) && decide (leNat ((b.drop 24).take 40) = 0)
      && (((upto n).zip xs).all fun p => nodeLegal b c base slots entry p.1 p.2) then
    .ok ⟨0, 0, 0, entry, ((upto n).zip xs).map node, slots, base, (parseWordAddr (fieldAt b 16 8)).getD .none, [], [], [],
      false, false, none, 0, none, none, none, false⟩
  else .error 10

/-- A graph block at an address, read and checked, with its bytes. -/
def loadGraph (s : State) (tn va : Nat) : Got (Except Nat (Graph × Bytes)) :=
  match tfind s.tenants tn with
  | none => .ok (.error 1)
  | some t =>
    if !(blockAddrLegal va) then .ok (.error 1)
    else
      match readUnits s tn va .read 1 with
      | .ok h =>
        let n := byteAt h 0
        if n = 0 ∨ 16 < n then .ok (.error 10)
        else
          match readUnits s tn va .read (1 + 2 * n) with
          | .ok b =>
            match loadNodes s tn b n 0 with
            | .ok (.ok xs) =>
              match checkGraph t.config b xs with
              | .ok g => .ok (.ok (g, b))
              | .error e => .ok (.error e)
            | .ok (.error e) => .ok (.error e)
            | .page a f => .page a f
            | .failed a => .failed a
            | .wait d r a => .wait d r a
          | .page a f => .page a f
          | .failed a => .failed a
          | .wait d r a => .wait d r a
      | .page a f => .page a f
      | .failed a => .failed a
      | .wait d r a => .wait d r a

end Sys2Proof.Machine
end

