-- ==== Sys2Proof/Machine/Launch.lean ====
section
/-! DEFINITION. LAUNCH and the launch queues (R266 to R274): placement, reserving heads, team starts, dependence words, the end
of grids, the root program and the inbox. -/

namespace Sys2Proof.Machine

open Sys2Proof

/-! ## Queues (R270, R271) -/

/-- Queue q of a tenant: its grids in order. -/
def Tenant.queue (t : Tenant) (q : Nat) : List Nat := tget [] t.queues q

def queueLength (s : State) (tn q : Nat) : Nat := ((tfind s.tenants tn).map fun t => (t.queue q).length).getD 64

/-- A grid as it is queued. -/
def Grid.fresh (tn q : Nat) (b : LaunchBlock) (graph : Option (Nat × Nat)) (root : Bool) (serial : Nat) : Grid :=
  { tenant := tn, queue := q, block := b, graph := graph, isRoot := root, placedTeams := 0, liveTeams := []
    depReady := b.dependence == .none, passedOver := 0, reserve := none, serial := serial
    parkedOn := none, fatal := false }

/-- A grid with its serial number, in no queue. -/
def newGrid (s : State) (tn q : Nat) (b : LaunchBlock) (graph : Option (Nat × Nat)) (root : Bool) : Nat × State :=
  let (id, s) := freshId s
  let serial := ((tfind s.tenants tn).map fun t => t.gridSerial).getD 0
  (id, updTenant { s with grids := tput s.grids id (Grid.fresh tn q b graph root serial) } tn
    fun t => { t with gridSerial := serial + 1 })

/-- A grid appended to a queue. -/
def queueGrid (s : State) (tn q : Nat) (b : LaunchBlock) (graph : Option (Nat × Nat)) (root : Bool) : State :=
  let (id, s) := newGrid s tn q b graph root
  updTenant s tn fun t => { t with queues := tset [] t.queues q (t.queue q ++ [id]) }

/-- The payload of a launch's entry in the almanac: the block, then the queue in a byte of its own (R311, log entry 79). -/
def launchPayload (block : Bytes) (q : BitVec 2) : Bytes := block ++ leBytes 16 q.toNat

/-- LAUNCH (R270): a release at .sys; it parks while the block is read, while earlier accesses are not performed and while the
queue is full. -/
def execLaunch (ka : KCode) (q : BitVec 2) (s : State) : Out :=
  issue s { ks := [ka.toNat] } 0 fun i =>
    let tn := i.g.tenant
    let va := (kGet i.g ka.toNat).toNat
    withRead s i 8 0 (loadLaunchAt s tn va) fun r =>
      match r with
      | .error c => raiseAt s i 0x18 c (i.active 0) 0
      | .ok (b, bytes) =>
        if releasePending s i.gid i.pathMask || decide (64 ≤ queueLength s tn q.toNat) then park s i .retry
        else
          let s := almRecord (clearFetched s tn) tn 1 (almAgent s i.gid) va (launchPayload bytes q)
          done (queueGrid s tn q.toNat b none false) i

/-! ## Teams that have ended -/

/-- Whether anything of a team is still under way: a live group, an access, a result, a copy or an engine request of one of its
groups, or an access of another that counts as performed for them (R186). -/
def teamBusy (s : State) (tm : Nat) (t : Team) : Bool :=
  !t.live.isEmpty || (s.reqs.any fun r => !r.isMwait && t.cores.any fun c => r.covers tm c) || t.gids.any fun g =>
    (s.groups.any fun p => p.1 == g) || (s.reqs.any fun r => r.gid == g && !r.isMwait) || (s.copies.any fun c => c.gid == g)
      || (s.arrays.any fun a => a.2.jobs.any fun j => j.gid == g) || (s.patches.any fun p => p.gid == g)
      || (s.rasters.any fun r => r.gid == g) || (s.xchgs.any fun x => x.gid == g)
      || (s.decoders.any fun d => (d.2.queue.any fun r => r.gid == g) || d.2.entries.any fun e => e.reqs.any fun r => r.gid == g)

/-- A team's queues, flights and place are given back. -/
def removeTeam (s : State) (tm : Nat) : State :=
  match tfind s.teams tm with
  | none => s
  | some t =>
    updGrid
      { s with
        teams := tdel s.teams tm
        sends := s.sends.filter fun x => x.team != tm
        returns := s.returns.filter fun x => x.team != tm
        reqs := s.reqs.filter fun r => !(r.isMwait && t.gids.contains r.gid) }
      t.grid fun g => { g with liveTeams := g.liveTeams.filter fun x => x != tm }

/-- Teams that have ended give their places back; those of a ported grid stay until the grid ends (R139). -/
def reapTeams (s : State) : State :=
  s.teams.foldl
    (fun s p =>
      let ported := ((tfind s.grids p.2.grid).map fun g => g.block.ports).getD false
      if ported || !p.2.started || teamBusy s p.1 p.2 then s else removeTeam s p.1) s

/-! ## What is free (R121, R124, R164, R272) -/

/-- The positions of a core that no group holds. -/
def freePositions (s : State) (core : Nat) : List Nat :=
  (upto 64).filter fun p => !(s.groups.any fun g => g.2.core == core && g.2.position == p)

def freeT (s : State) (core : Nat) : Nat :=
  512 * 1024 - ((s.teams.filter fun t => t.2.cores.contains core).map fun t => t.2.tPerCore).sum

/-- The reserves of a tenant's reserving heads, but for one grid. -/
def otherReserves (s : State) (tn gr : Nat) : List Reserve :=
  s.grids.filterMap fun p => if p.2.tenant = tn ∧ p.1 ≠ gr then p.2.reserve else none

/-- The positions, registers and T bytes that a grid's teams may take on a core. -/
def openPositions (s : State) (rs : List Reserve) (core : Nat) : List Nat :=
  (freePositions s core).filter fun p => rs.all fun r => (tget 0 r.positions core).testBit p

def openRegisters (s : State) (rs : List Reserve) (core part : Nat) : Nat :=
  rs.foldl (fun n r => min n (tget 0 r.registers (8 * core + part))) (freeRegisters s core part s.nextId)

def openT (s : State) (rs : List Reserve) (core : Nat) : Nat := rs.foldl (fun n r => min n (tget 0 r.tbytes core)) (freeT s core)

/-- Whether a core has left reset (R95). -/
def coreUp (s : State) (core : Nat) : Bool := decide (tget 0 s.coreStart core ≤ s.now)

/-- Core j of a team fits on a core. -/
def coreFits (s : State) (rs : List Reserve) (b : LaunchBlock) (j core : Nat) : Bool :=
  coreUp s core && decide (b.tPerCore ≤ openT s rs core) && (upto 8).all fun part =>
    let n := groupsPart b.threads j part
    decide (n = 0) || (decide (n ≤ ((openPositions s rs core).filter fun p => p % 8 == part).length)
      && decide (n * b.startBudget + headroom b.roles ≤ openRegisters s rs core part))

/-- Bytes of a group's L allocation (R164). -/
def LaunchBlock.lBytes (b : LaunchBlock) : Nat := 12288 + b.regArea + b.progArea

/-- The gaps between allocations of a region, in order. -/
def gapsFrom (e : Nat) : Nat → List (Nat × Nat) → List (Nat × Nat)
  | a, [] => if a < e then [(a, e - a)] else []
  | a, (b, n) :: rest => (if a < b then [(a, b - a)] else []) ++ gapsFrom e (max a (b + n)) rest

/-- Bases for L allocations of one size in a tenant's L region. -/
def lBases (s : State) (tn size : Nat) : List Nat :=
  match tfind s.tenants tn with
  | none => []
  | some t =>
    let held := sortBy (fun x => x.1) ((s.groups.filter fun p => p.2.tenant == tn).map fun p =>
      (p.2.lBase, 12288 + p.2.regArea + p.2.progArea))
    (gapsFrom (t.config.lBase + t.config.lSize) t.config.lBase held).flatMap fun g =>
      (upto (g.2 / size)).map fun k => g.1 + k * size

/-- Whether the L region holds n more groups of a block. -/
def lFits (s : State) (tn n : Nat) (b : LaunchBlock) : Bool := decide (n ≤ (lBases s tn b.lBytes).length)

/-- Where a team of a block goes now (R273). -/
def placeFor (s : State) (tn gr : Nat) (b : LaunchBlock) : Option (List Nat) :=
  match tfind s.tenants tn with
  | none => none
  | some t =>
    let rs := otherReserves s tn gr
    if !(lFits s tn ((b.threads + 31) / 32) b) then none
    else
      let sets := (coreSets t.config.cores b.threads).filter fun cs =>
        ((upto cs.length).zip cs).all fun p => coreFits s rs b p.1 p.2
      match coresNeeded b.threads with
      | 1 => (sortBy (fun cs => 64 - (freePositions s (cs.headD 0)).length) sets).head?
      | _ => sets.head?

/-- The rectangle that a ported block goes to now. -/
def rectangleFor (s : State) (tn gr : Nat) (b : LaunchBlock) : Option (List Nat) :=
  match tfind s.tenants tn with
  | none => none
  | some t =>
    let rs := otherReserves s tn gr
    if !(lFits s tn (b.gx * b.gy * ((b.threads + 31) / 32)) b) then none
    else (rectangles t.config.cores b.gx b.gy).find? fun cs => cs.all fun c => coreFits s rs b 0 c

/-! ## Placing a team (R27, R269, R273) -/

/-- A group at its start. -/
def startGroup (tn tm index core position placed prio lBase : Nat) (b : LaunchBlock) (role entry : Nat)
    (extra : List (Nat × W64)) (now : Nat) : Group :=
  let rest := b.threads - 32 * index
  let launched : W32 := if 32 ≤ rest then BitVec.allOnes 32 else BitVec.ofNat 32 (2 ^ rest - 1)
  { tenant := tn, team := tm, index := index, core := core, position := position, placed := placed, priority := prio
    vregs := [], window := 0, extent := 0, resBase := 0, budget := b.startBudget, regArea := b.regArea
    progArea := b.progArea, lBase := lBase, links := [], resLinks := 0
    kregs := (b.params ++ extra).foldl (fun m p => tset 0 m p.1 p.2) [], mregs := [], flags := [], marks := []
    slot0 := some ⟨⟨entry, 0, launched, ⟨false, false, false, false⟩, 0⟩, none, false, now, false, 0, none, false, none⟩, slot1 := none
    fflags := 0, near := [], role := role, batch := 0, launched := launched, joins := [], forkSerial := 1, stack := []
    park := none, handler := none, fences := [], holdings := [], bufs := [], restart := 0 }

/-- The lowest free position of a partition of a core. -/
def lowestPosition (s : State) (rs : List Reserve) (core part : Nat) : Nat :=
  ((openPositions s rs core).find? fun p => p % 8 == part).getD part

/-- Where a team starts: its entry clause (R124, R268). -/
def LaunchBlock.startEntry (b : LaunchBlock) : Nat :=
  match b.roles.find? fun r => r.number == b.role with
  | some r => r.entry
  | none => b.entry

/-- The groups of a team placed one by one. -/
def placeGroups (tn tm prio : Nat) (rs : List Reserve) (b : LaunchBlock) (cores : List Nat) (extra : List (Nat × W64)) :
    List Nat → State → State
  | [], s => s
  | ix :: rest, s =>
    let core := cores.getD (ix / 64) 0
    let pos := lowestPosition s rs core (ix % 64 % 8)
    let lb := (lBases s tn b.lBytes).headD 0
    let (gid, s) := freshId (layAreas s lb b.lBytes)
    let g := startGroup tn tm ix core pos gid prio lb b b.role b.startEntry extra s.now
    placeGroups tn tm prio rs b cores extra rest
      (updTeam (putGroup s gid g) tm fun t => { t with live := t.live ++ [gid], gids := t.gids ++ [gid] })

/-- What a team placed takes of the reserves of other heads. -/
def chargeReserve (s : State) (tm : Nat) (t : Team) (b : LaunchBlock) (r : Reserve) : Reserve :=
  let gs := s.groups.filter fun p => p.2.team == tm
  let r := gs.foldl (fun r p =>
    { r with
      positions := tset 0 r.positions p.2.core
        (let x := tget 0 r.positions p.2.core; if x.testBit p.2.position then x - 2 ^ p.2.position else x)
      registers := let k := 8 * p.2.core + p.2.partition; tset 0 r.registers k (tget 0 r.registers k - p.2.budget) }) r
  let parts := (gs.map fun p => 8 * p.2.core + p.2.partition).eraseDups
  { r with
    registers := parts.foldl (fun m k => tset 0 m k (tget 0 m k - headroom b.roles)) r.registers
    tbytes := t.cores.foldl (fun m c => tset 0 m c (tget 0 m c - b.tPerCore)) r.tbytes }

/-- A team of a grid placed on its cores. -/
def placeTeam (s : State) (gr : Nat) (g : Grid) (index : Nat) (cores : List Nat) (tmem : Mem) (extra : List (Nat × W64)) :
    State :=
  let b := g.block
  let rs := otherReserves s g.tenant gr
  let (tm, s) := freshId s
  let t : Team :=
    { tenant := g.tenant, grid := gr, index := index, cores := cores, threads := b.threads, tPerCore := b.tPerCore
      tmem := tmem, windows := b.windows, tensors := b.tensors.foldl (fun m x => tput m x.1 x.2) [], barriers := []
      roles := b.roles, started := false, placedAt := s.now, live := [], gids := [], queues := [], credits := []
      node := g.graph }
  let s := { s with teams := tput s.teams tm t }
  let s := placeGroups g.tenant tm g.queue rs b cores extra (upto ((b.threads + 31) / 32)) s
  let s := updGrid s gr fun g => { g with placedTeams := g.placedTeams + 1, liveTeams := g.liveTeams ++ [tm], passedOver := 0 }
  { s with grids := s.grids.map fun p =>
    if p.2.tenant = g.tenant ∧ p.1 ≠ gr then (p.1, { p.2 with reserve := p.2.reserve.map (chargeReserve s tm t b) }) else p }

/-! ## The placement step (R272, R279, R281) -/

/-- What may be placed: a queue's head, or a closed batch. -/
inductive Ready where
  | head (gr : Nat)
  | batch (slot : Nat) (b : Batch)
  deriving DecidableEq, Repr

/-- The heads that are ready to place a team, with their rank. -/
def readyHeads (s : State) (tn : Nat) (t : Tenant) : List (Nat × Nat × Ready) :=
  (upto 4).filterMap fun q =>
    match (t.queue q).head? with
    | some gr =>
      match tfind s.grids gr with
      | some g => if g.depReady then some (2 * q, tn, .head gr) else none
      | none => none
    | none => none

/-- Committed records of a node that are not yet placed. -/
def Graph.unplaced (g : Graph) (n : Nat) : Nat :=
  ((g.closed.filter fun b => b.node == n).map fun b => b.records.length).sum
    + ((g.nodes[n]?).map fun x => x.openRecords.length).getD 0

/-- The batches that a graph offers, in order (R281): of each node its oldest, those of the nodes with the most committed records that
are not placed first, of equal ones the lowest node. -/
def Graph.offers (g : Graph) : List Batch :=
  let first := (upto g.nodes.length).filterMap fun n => g.closed.find? fun b => b.node == n
  let most := first.foldl (fun m b => max m (g.unplaced b.node)) 0
  sortBy (fun b => most - g.unplaced b.node) first

/-- The node's launch block. -/
def Graph.block (g : Graph) (n : Nat) : Option LaunchBlock := (g.nodes[n]?).map fun x => x.block

/-- Whether, and where, something ready can be placed now. -/
def cores? (s : State) (tn : Nat) (r : Ready) : Option (List Nat) :=
  match r with
  | .head gr =>
    match tfind s.grids gr with
    | some g => if g.block.ports then rectangleFor s tn gr g.block else placeFor s tn gr g.block
    | none => none
  | .batch slot b => ((graphOf s tn slot).bind fun g => g.block b.node).bind fun x => placeFor s tn s.nextId x

/-- What can be placed now, with its rank and its cores: of each graph the first batch of its order that can be. -/
def placeable (s : State) (tn : Nat) (t : Tenant) : List (Nat × Nat × Ready × List Nat) :=
  ((readyHeads s tn t).filterMap fun x => (cores? s tn x.2.2).map fun cs => (x.1, tn, x.2.2, cs))
    ++ t.graphs.filterMap fun g => g.offers.findSome? fun b =>
      (cores? s tn (.batch g.slot b)).map fun cs => (2 * g.queue + 1, tn, .batch g.slot b, cs)

/-- The next teams of a head placed: one, or all of a ported grid; the grid leaves its queue with its last. -/
def placeHead (s : State) (gr : Nat) (cores : List Nat) : State :=
  match tfind s.grids gr with
  | none => s
  | some g =>
    let s := if g.block.ports then
        ((upto cores.length).zip cores).foldl (fun s p => placeTeam s gr g p.1 [p.2] [] []) s
      else placeTeam s gr g g.placedTeams cores [] []
    let total := g.block.gx * g.block.gy
    if g.block.ports ∨ total ≤ g.placedTeams + 1 then
      updTenant (updGrid s gr fun g => { g with reserve := none }) g.tenant fun t =>
        { t with queues := tset [] t.queues g.queue ((t.queue g.queue).filter fun x => x != gr) }
    else s

/-- The T image of a batch team: record i at i × record size (R279). -/
def batchImage (s : State) (g : Graph) (size : Nat) (rs : List Nat) : Mem :=
  ((upto rs.length).zip rs).foldl (fun m p => writeBytes m (p.1 * size) (readBytes s.scratch (g.base + 256 * p.2) size)) []

/-- A graph's handle (R276). -/
def Graph.handle (g : Graph) : Nat := g.generation * 65536 + g.slot

/-- The places of a batch's records. -/
def Graph.recordPlaces (g : Graph) (size : Nat) (rs : List Nat) : List (Space × Nat) :=
  rs.flatMap fun k => (upto ((size + 15) / 16)).map fun j => (.d, g.base + 256 * k + 16 * j)

/-- A batch team placed: its records copied, once their banks serve the dispatcher (R172), its slots freed, k1 to k3 set (R279). -/
def placeBatch (s : State) (tn slot : Nat) (b : Batch) (cores : List Nat) : State :=
  match graphOf s tn slot with
  | none => s
  | some g =>
    match g.nodes[b.node]? with
    | none => s
    | some n =>
      engineTurn s dispatcherPort (g.recordPlaces n.recordSize b.records) fun s =>
      let image := batchImage s g n.recordSize b.records
      let (gr, s) := newGrid s tn g.queue n.block (some (slot, b.node)) false
      let extra : List (Nat × W64) := [(1, BitVec.ofNat 64 b.records.length), (2, BitVec.ofNat 64 b.node),
        (3, BitVec.ofNat 64 g.handle)]
      let s := match tfind s.grids gr with
        | some x => placeTeam s gr x 0 cores image extra
        | none => s
      updGraph s tn slot fun g =>
        { g with
          closed := g.closed.erase b
          reserved := g.reserved.filter fun r => !(b.records.contains r.slot)
          batches := min (2 ^ 24 - 1) (g.batches + 1) }

/-- Of what can be placed, the highest rank; among its tenants the next in round-robin order. -/
def chooseReady (rr : Nat) (xs : List (Nat × Nat × Ready × List Nat)) : Option (Nat × Nat × Ready × List Nat) :=
  xs.foldl
    (fun acc x => match acc with
      | none => some x
      | some a => if a.1 < x.1 ∨ (a.1 = x.1 ∧ (x.2.1 + 15 - rr) % 16 < (a.2.1 + 15 - rr) % 16) then some x else acc) none

/-- A step counts for a ready head: passed over once more, or, where it could have been placed, no longer (R272). -/
def noteHead (can : List (Nat × Nat × Ready × List Nat)) (s : State) (r : Ready) : State :=
  match r with
  | .head gr => updGrid s gr fun g => { g with passedOver := if can.any fun y => y.2.2.1 == r then 0 else g.passedOver + 1 }
  | .batch _ _ => s

/-- One step of the launch engines (R272): one team, or one ported block, is placed; a ready head that cannot be placed is passed
over. -/
def placementStep (s : State) : State :=
  let s := reapTeams s
  let running := if moduleUp s then s.tenants.filter fun p => p.2.state == .running else []
  let can := running.flatMap fun p => placeable s p.1 p.2
  let s := (running.flatMap fun p => (readyHeads s p.1 p.2).map fun x => x.2.2).foldl (noteHead can) s
  match chooseReady s.rrTenant can with
  | none => s
  | some (_, tn, .head gr, cs) => placeHead { s with rrTenant := tn } gr cs
  | some (_, tn, .batch slot b, cs) => placeBatch { s with rrTenant := tn } tn slot b cs

/-- What is free now on a tenant's cores. -/
def snapshot (s : State) (cores : List Nat) : Reserve :=
  { positions := cores.foldl (fun m c => tset 0 m c ((freePositions s c).foldl (fun x p => x + 2 ^ p) 0)) []
    registers := cores.foldl
      (fun m c => (upto 8).foldl (fun m p => tset 0 m (8 * c + p) (freeRegisters s c p s.nextId)) m) []
    tbytes := cores.foldl (fun m c => tset 0 m c (freeT s c)) [] }

/-- HEAD_RESERVING (R272): a head passed over for 4,096 steps becomes reserving; what is free then stays open to others. -/
def execHeadReserving (tn q : Nat) (s : State) : Out :=
  .next
    (match tfind s.tenants tn with
    | none => s
    | some t =>
      match (t.queue q).head? with
      | none => s
      | some gr => updGrid s gr fun g =>
          if 4096 ≤ g.passedOver ∧ g.reserve = none then { g with reserve := some (snapshot s t.config.cores) } else g)

/-- TEAM_START (R273). -/
def execTeamStart (tm : Nat) (s : State) : Out :=
  .next (updTeam s tm fun t => if t.placedAt + 64 ≤ s.now then { t with started := true } else t)

/-! ## Dependence and completion words (R271, R274) -/

/-- Whether a fault on an M page is still unanswered. -/
def pageOpen (s : State) (tn pg : Nat) (need : Need) : Bool := s.faults.any fun f => sameFault f tn pg need

/-- Grids of a queue dropped with a kill record of scope grid (R271). -/
def dropGrid (s : State) (tn q gr : Nat) : State :=
  let s := updTenant { s with grids := tdel s.grids gr } tn fun t =>
    { t with queues := tset [] t.queues q ((t.queue q).filter fun x => x != gr) }
  killRecord s tn (killWord 0 0 2 tn) 0 0 0

/-- DEPENDENCE_WORD_CHECK (R271): the head's word is read as agent 11. -/
def execDependenceWordCheck (tn q : Nat) (s : State) : Out :=
  .next
    (match tfind s.tenants tn with
    | none => s
    | some t =>
      match (t.queue q).head? with
      | none => s
      | some gr =>
        match tfind s.grids gr with
        | none => s
        | some g =>
          if g.depReady then s
          else if g.fatal then dropGrid s tn q gr
          else
            match g.block.dependence with
            | .none => s
            | .d a =>
              updGrid s gr fun g => { g with depReady := decide (g.block.depValue ≤ readNat s.scratch a 8) }
            | .m a =>
              match g.parkedOn with
              | some pg => if pageOpen s tn pg .read then s else updGrid s gr fun g => { g with parkedOn := none }
              | none =>
                match readM s tn a 8 .read with
                | .ok b =>
                  updGrid (clearFetched s tn) gr fun g => { g with depReady := decide (g.block.depValue ≤ leNat b) }
                | .failed _ => updGrid s gr fun g => { g with fatal := true }
                | .wait dev rva va => askRemote s tn dev rva va
                | .page va f =>
                  faultPage (updGrid s gr fun g => { g with parkedOn := some (va / 65536) }) tn va 11 .read f)

/-- What adding 1 to a word comes to. -/
inductive Added where
  | done (s : State)
  | page (va : Nat) (forbidden : Bool)
  | wait (s : State)

/-- Adds 1, modulo 2^64, to a word at .sys; a word on another device is asked for once and answered by its response. -/
def addOne (s : State) (tn : Nat) (w : WordAddr) : Added :=
  match w with
  | .none => .done s
  | .d a => .done (addAt s .d a 1)
  | .m a =>
    match atomPlace s tn .add a with
    | .ok (.main pa) => .done (addAt s .m pa 1)
    | .ok (.host pa) => .done (addAt s .host pa 1)
    | .notPresent => .page a false
    | .forbidden => .page a true
    | .ok (.remote dev va) =>
      if s.fetched.any fun x => x.tenant == tn && x.va == a && x.word then
        .done { s with fetched := s.fetched.filter fun x => !(x.tenant == tn && x.va == a && x.word) }
      else if s.remotes.any fun r => r.use == .word tn a then .wait s
      else
        match sendRemote s tn dev (.atomic .add true va 1 0) (.word tn a) with
        | some s => .wait s
        | none => .done s

/-- A grid that has ended leaves the module: its teams, and the graph or the root that it was. -/
def removeGrid (s : State) (gr : Nat) : State :=
  match tfind s.grids gr with
  | none => s
  | some g =>
    let s := g.liveTeams.foldl removeTeam s
    let s := match g.graph with
      | some (slot, n) => updGraph s g.tenant slot fun x => if x.entry = n then { x with entryEnded := true } else x
      | none => s
    { s with grids := tdel s.grids gr }

/-- GRID_COMPLETION (R274): once the last group has ended and everything of its groups is performed, 1 is added to the
completion word, as agent 11; a fatal reply drops the write. -/
def execGridCompletion (gr : Nat) (s : State) : Out :=
  .next
    (match tfind s.grids gr with
    | none => s
    | some g =>
      if g.placedTeams < g.block.gx * g.block.gy ||
          (g.liveTeams.any fun tm => ((tfind s.teams tm).map (teamBusy s tm)).getD true) then s
      else if g.fatal then removeGrid s gr
      else
        match g.parkedOn with
        | some pg => if pageOpen s g.tenant pg .write then s else updGrid s gr fun g => { g with parkedOn := none }
        | none =>
          match addOne s g.tenant g.block.completion with
          | .done s => removeGrid s gr
          | .wait s => s
          | .page va f =>
            faultPage (updGrid s gr fun g => { g with parkedOn := some (va / 65536) }) g.tenant va 11 .write f)

/-! ## The root program and the inbox (R267) -/

/-- ROOT_PROGRAM_LAUNCH (R267): the control cores queue the root program when none of its grids stands. Its blocks are asked for
where they lie on another device; a root block that fails its checks, or cannot be read, launches nothing (log entry 80). -/
def execRootProgramLaunch (tn : Nat) (s : State) : Out :=
  .next
    (match tfind s.tenants tn with
    | none => s
    | some t =>
      if t.state != .running || (s.grids.any fun p => p.2.tenant == tn && p.2.isRoot) || decide (64 ≤ (t.queue 3).length) then s
      else
        match loadLaunchAt s tn t.config.rootBlock with
        | .ok (.ok (b, _)) => queueGrid (clearFetched s tn) tn 3 b none true
        | .wait dev rva va => askRemote s tn dev rva va
        | .ok (.error _) | .failed _ => clearFetched s tn
        | .page _ _ => s)

/-- The next write of the host that an almanac holds, of those of a type: where, and what. -/
def hostNext (s : State) (tn ty : Nat) : Option AlmanacEntry :=
  match tfind s.tenants tn with
  | some t => t.almanac.replay.find? fun e => e.ty == ty
  | none => none

/-- Bytes filled up to whole units of 16 with what follows them, so that writing the recorded payload writes no others (log entry
79). -/
def paddedWrite (b follow : Bytes) : Bytes := b ++ follow.take ((b.length + 15) / 16 * 16 - b.length)

/-- Bytes stored in a tenant's inbox. -/
def inboxWrite (s : State) (t : Tenant) (off : Nat) (b : Bytes) : State :=
  noteWrites { s with scratch := writeBytes s.scratch (t.config.inbox + off) (b.take (4096 - off)) }

/-- HOST_INBOX_WRITE (R267): recorded (R311); in replay the almanac supplies its next one, and the host's own is ignored (R312). -/
def execHostInboxWrite (tn off : Nat) (bytes : Bytes) (s : State) : Out :=
  .next
    (match tfind s.tenants tn with
    | none => s
    | some t =>
      if replaying s tn then
        match hostNext s tn 1 with
        | some e => inboxWrite (almTake s tn e 0) t e.key e.payload
        | none => s
      else if 4096 < off + bytes.length || t.state == .absent then s
      else
        let follow := readBytes s.scratch (t.config.inbox + off + bytes.length) 16
        inboxWrite (almRecord s tn 1 0 off (paddedWrite bytes follow)) t off bytes)

end Sys2Proof.Machine
end

