-- ==== Sys2Proof/Machine/Graph.lean ====
section
/-! DEFINITION. Work graphs (R275 to R282) and SIGNAL (R283): GLAUNCH, WAITG, EMIT, COMMIT, how batches close, and how a graph
ends. -/

namespace Sys2Proof.Machine

open Sys2Proof

/-! ## GLAUNCH and WAITG (R276, R277) -/

/-- GLAUNCH. Of the free graph slots it takes the lowest (log entry 104). -/
def execGlaunch (ka kb : KCode) (q : BitVec 2) (s : State) : Out :=
  issue s { ks := [ka.toNat, kb.toNat] } 0 fun i =>
    let tn := i.g.tenant
    let va := (kGet i.g kb.toNat).toNat
    withRead s i 8 0 (loadGraph s tn va) fun r =>
      match r, tfind s.tenants tn with
      | .error c, _ => raiseAt s i 0x18 c (i.active 0) 0
      | .ok _, none => s
      | .ok (g, bytes), some t =>
        match (upto 4).find? fun n => !(t.graphs.any fun x => x.slot == n) with
        | none => raiseAt s i 0x18 11 (i.active 0) 0
        | some slot =>
          if releasePending s i.gid i.pathMask || decide (64 ≤ (t.queue q.toNat).length) then park s i .retry
          else
            match g.block g.entry with
            | none => s
            | some b =>
              let gen := (tget 0 t.graphGens slot + 1) % 65536
              let g := { g with slot := slot, generation := gen, queue := q.toNat }
              let s := almRecord (clearFetched s tn) tn 1 (almAgent s i.gid) va (launchPayload bytes q)
              let s := updTenant s tn fun t =>
                { t with graphs := t.graphs ++ [g], graphGens := tset 0 t.graphGens slot gen }
              let s := queueGrid s tn q.toNat b (some (slot, g.entry)) false
              finish s i (applyWrite i.g (kWrite i.g ka.toNat (BitVec.ofNat 64 g.handle)))

/-- The graph that a handle names. -/
def graphOfHandle (s : State) (tn : Nat) (h : W64) : Option Graph :=
  match tfind s.tenants tn with
  | some t => t.graphs.find? fun g => g.handle == h.toNat
  | none => none

/-- WAITG (R277): the final status is owed; the slot stays until the status is delivered. -/
def execWaitg (ka kb : KCode) (fs : FSel) (s : State) : Out :=
  issue s { fs := fs, ks := [ka.toNat, kb.toNat], tracked := 1 } 0 fun i =>
    let tn := i.g.tenant
    match graphOfHandle s tn (kGet i.g kb.toNat) with
    | none => raise s i 0x01
    | some g =>
      if g.waiter.isSome then raise s i 0x01
      else
        let d := kName i.g ka.toNat
        match g.final with
        | some x =>
          let (id, s) := oweResult s i.gid .other (i.flag fs) [d] [] 1
          done (updGraph (fillOwed s (some id) (owedScalar s id x.toNat)) tn g.slot fun g => { g with waiter := some id }) i
        | none =>
          let (id, s) := oweResult s i.gid .other (i.flag fs) [d] [] 1
          done (updGraph s tn g.slot fun g => { g with waiter := some id }) i

/-! ## EMIT and COMMIT (R278, R279) -/

/-- The graph and node of a group's team. -/
def Iss.node (i : Iss) (s : State) : Option (Graph × Nat) :=
  match (teamOf s i.g).bind fun t => t.node with
  | some (slot, n) => (graphOf s i.g.tenant slot).map fun g => (g, n)
  | none => none

/-- The n lowest free slots from slot k, of those below the limit. -/
def freeSlots (held : List Nat) : Nat → Nat → Nat → List Nat
  | 0, _, _ => []
  | _, _, 0 => []
  | fuel + 1, k, n + 1 => if held.contains k then freeSlots held fuel (k + 1) (n + 1) else k :: freeSlots held fuel (k + 1) n

/-- The n free slots of lowest address of a reservoir. -/
def Graph.lowest (g : Graph) (n : Nat) : List Nat := freeSlots (g.reserved.map fun r => r.slot) (g.reserved.length + n) 0 n

/-- The address of a reservoir slot. -/
def Graph.slotAddr (g : Graph) (k : Nat) : Nat := g.base + 256 * k

/-- EMIT (R278, R282): first come, first served; it parks until it is at the head and its slots are free. -/
def execEmit (vd : VCode) (kb : KCode) (p : MCode) (fs : FSel) (s : State) : Out :=
  issue s { fs := fs, vs := [vreg vd], ks := [kb.toNat], ms := [p.toNat], tracked := 1 } p fun i =>
    unlessHandler s i
      (let k := (kGet i.g kb.toNat).toNat
      match i.node s with
      | none => raise s i 0x01 p
      | some (g, _) =>
        let tn := i.g.tenant
        let d := vName i.g vd.toNat
        let ls := lanesOf (i.active p)
        let quit := fun (s : State) => updGraph s tn g.slot fun g => { g with emitQueue := g.emitQueue.filter fun x => x != i.gid }
        if g.nodes.length ≤ k ∨ k = g.entry then raise s i 0x01 p
        else if ls.isEmpty then done (oweResult s i.gid .other (i.flag fs) [d] [] 0).2 i
        else
          match i.g.park with
          | some ⟨_, _, .emit true⟩ => raise (quit s) i 0x14 p
          | _ =>
            let first := (g.emitQueue.filter fun x => x != i.gid).isEmpty || g.emitQueue.head? == some i.gid
            if first && decide (g.reserved.length + ls.length ≤ g.slots) then
              let ks := g.lowest ls.length
              let s := updGraph (quit s) tn g.slot fun g =>
                { g with reserved := g.reserved ++ ks.map fun x => ⟨x, i.gid, k, false⟩ }
              done (oweResult s i.gid .other (i.flag fs) [d]
                ((ls.zip ks).map fun x => .lane d x.1 (BitVec.ofNat 32 (g.slotAddr x.2))) 0).2 i
            else
              let s := if g.emitQueue.contains i.gid then s
                else updGraph s tn g.slot fun g => { g with emitQueue := g.emitQueue ++ [i.gid] }
              testDeadlock (park s i (.emit false)) tn g.slot)

/-- The almanac's key of a node's batches (R311). -/
def batchKey (slot node : Nat) : Nat := 4 * node + slot

/-- The recorded form of a batch: its records' slot addresses in order, in whole units of 16 bytes. -/
def batchPayload (g : Graph) (rs : List Nat) : Bytes :=
  rs.flatMap (fun k => leBytes 8 (g.slotAddr k)) ++ if rs.length % 2 = 1 then List.replicate 8 0 else []

/-- Whether replay lets a batch close now: it is the next recorded one of its node (R312). -/
def batchTurn (s : State) (tn : Nat) (g : Graph) (node : Nat) (rs : List Nat) : Bool :=
  !(replaying s tn) || match almNext s tn 4 (batchKey g.slot node) none with
    | some e => e.payload == batchPayload g rs
    | none => false

/-- A node's open batch closes and is handed to placement (R279, R280). -/
def closeBatch (s : State) (tn slot node : Nat) : State :=
  match graphOf s tn slot with
  | none => s
  | some g =>
    match g.nodes[node]? with
    | none => s
    | some n =>
      if n.openRecords.isEmpty then s
      else if !(batchTurn s tn g node n.openRecords) then almWait s tn 4 (batchKey slot node) g.generation
      else
        let s := if replaying s tn then
            match almNext s tn 4 (batchKey slot node) none with
            | some e => almTake s tn e g.generation
            | none => s
          else almRecord s tn 4 0 (batchKey slot node) (batchPayload g n.openRecords)
        updGraph s tn slot fun g =>
          { g with
            closed := g.closed ++ [⟨node, n.openRecords⟩]
            nodes := g.nodes.set node { n with openRecords := [], openedTick := 0 } }

/-- Whether a node's open batch closes before another record joins it: its time-out has expired (R280), or in replay it is the next
recorded one (R312). -/
def batchDue (s : State) (tn : Nat) (g : Graph) (node : Nat) (n : GraphNode) : Bool :=
  !n.openRecords.isEmpty &&
    if replaying s tn then batchTurn s tn g node n.openRecords
    else n.timeout != 0 && decide (n.openedTick + n.timeout ≤ s.now / 12)

/-- The open batch of a record's node closed, if it is due. -/
def closeDue (s : State) (tn slot k : Nat) : State :=
  match graphOf s tn slot with
  | none => s
  | some g =>
    match g.reserved.find? fun r => r.slot == k with
    | none => s
    | some r =>
      match g.nodes[r.node]? with
      | none => s
      | some n => if batchDue s tn g r.node n then closeBatch s tn slot r.node else s

/-- A record published: it joins its node's open batch, which closes when it is full. -/
def publish (s : State) (tn slot k : Nat) : State :=
  let s := closeDue s tn slot k
  match graphOf s tn slot with
  | none => s
  | some g =>
    match g.reserved.find? fun r => r.slot == k with
    | none => s
    | some r =>
      match g.nodes[r.node]? with
      | none => s
      | some n =>
        let n' := { n with
          openRecords := n.openRecords ++ [k]
          openedTick := if n.openRecords.isEmpty then s.now / 12 else n.openedTick }
        let s := updGraph s tn slot fun g =>
          { g with
            reserved := updateWhere (fun r => r.slot == k) (fun r => { r with committed := true }) g.reserved
            nodes := g.nodes.set r.node n' }
        if n.batch ≤ n'.openRecords.length then closeBatch s tn slot r.node else s

/-- The slot that a lane's address names, if it is an allocated, uncommitted one. -/
def Graph.uncommitted (g : Graph) (a : Nat) : Option Nat :=
  if a < g.base ∨ (a - g.base) % 256 ≠ 0 then none
  else (g.reserved.find? fun r => r.slot == (a - g.base) / 256 && !r.committed).map fun r => r.slot

/-- COMMIT (R279): a release at .dev of the group's earlier accesses, as FENCE.rel.dev is one. -/
def execCommit (vs : VCode) (p : MCode) (s : State) : Out :=
  issue s { vs := [vsrc vs], ms := [p.toNat] } p fun i =>
    match i.node s with
    | none => raise s i 0x01 p
    | some (g, _) =>
      let ks := (lanesOf (i.active p)).map fun l => g.uncommitted (srcLane i.g vs.toNat l 1)
      if (ks.any fun k => k.isNone) || decide (ks.eraseDups.length ≠ ks.length) then raise s i 0x01 p
      else if releaseOpen s i.gid i.g false (BitVec.allOnes 32) s.nextSeq then s
      else done ((ks.filterMap id).foldl (fun s k => publish s i.g.tenant g.slot k) (releaseHost s i.gid)) i

/-! ## How batches close (R280) -/

/-- BATCH_TIMEOUT: a tick is 12 clocks. -/
def execBatchTimeout (tn gs node : Nat) (s : State) : Out :=
  .next
    (match (graphOf s tn gs).bind fun g => g.nodes[node]? with
    | none => s
    | some n =>
      if n.timeout ≠ 0 ∧ n.openRecords ≠ [] ∧ n.openedTick + n.timeout ≤ s.now / 12 then closeBatch s tn gs node else s)

/-- BATCH_IDLE_CLOSE: no closed batch awaits placement, and no live group of the graph is anywhere but on EMIT. -/
def execBatchIdleClose (tn gs node : Nat) (s : State) : Out :=
  .next
    (match graphOf s tn gs with
    | none => s
    | some g =>
      if g.closed.isEmpty && (graphGroups s tn gs).all fun p => p.2.atEmit then closeBatch s tn gs node else s)

/-- The status that a graph ends with (R277). -/
def Graph.status (g : Graph) : Nat :=
  match g.killedNode with
  | some n => statusWord 3 n g.batches
  | none => statusWord (if g.deadlocked then 2 else 1) 0 g.batches

/-- A graph's final status recorded, and filled in for the WAITG that waits for it. -/
def endGraph (s : State) (tn : Nat) (g : Graph) : State :=
  let x := g.status
  let s := updGraph s tn g.slot fun g => { g with final := some (BitVec.ofNat 32 x) }
  fillOwed s g.waiter ((g.waiter.map fun id => owedScalar s id x).getD [])

/-- Whether anything of the teams of a graph is still under way (R274, R277). -/
def graphBusy (s : State) (tn gs : Nat) : Bool :=
  s.teams.any fun p => p.2.tenant == tn && (p.2.node.map fun n => n.1 == gs).getD false && teamBusy s p.1 p.2

/-- GRAPH_COMPLETION (R277): 1 is added to the completion word once everything of the graph's groups is performed, as for a grid. -/
def execGraphCompletion (tn gs : Nat) (s : State) : Out :=
  .next
    (match graphOf s tn gs with
    | none => s
    | some g =>
      if !g.entryEnded || !g.reserved.isEmpty || graphBusy s tn gs || g.final.isSome then s
      else if g.fatal then endGraph s tn g
      else
        match g.parkedOn with
        | some pg => if pageOpen s tn pg .write then s else updGraph s tn gs fun g => { g with parkedOn := none }
        | none =>
          match addOne s tn g.completion with
          | .done s => endGraph s tn g
          | .wait s => s
          | .page va f => faultPage (updGraph s tn gs fun g => { g with parkedOn := some (va / 65536) }) tn va 11 .write f)

/-! ## SIGNAL (R283) -/

/-- SIGNAL's interrupt. -/
def signalIrq (s : State) (i : Iss) (irq : Bool) (vec : BitVec 11) : State :=
  if irq then sendMsix s i.g.tenant vec.toNat else s

/-- SIGNAL: a release at .sys of the group's earlier accesses, then the addition, then the interrupt. -/
def execSignal (ka kb : KCode) (irq : Bool) (vec : BitVec 11) (s : State) : Out :=
  issue s { ks := [ka.toNat, kb.toNat] } 0 fun i =>
    let x := (kGet i.g kb.toNat).toNat
    let tn := i.g.tenant
    let fin := fun (s : State) => done (bumpSeq (signalIrq s i irq vec)) i
    match parseWordAddr (kGet i.g ka.toNat).toNat with
    | none | some .none => raise s i 0x01
    | some (.d a) =>
      if !(inAllocation s i.g .d true a 8) then raiseAt s i 0x07 0 (i.active 0) a
      else if releasePending s i.gid (BitVec.allOnes 32) then s
      else fin (addAt s .d a x)
    | some (.m a) =>
      if releasePending s i.gid (BitVec.allOnes 32) then s
      else
        match i.g.park with
        | some ⟨_, _, .remote _ waiting failed _ _ _⟩ =>
          if !waiting.isEmpty then s else if failed.isEmpty then fin s else raiseAt s i 0x13 0 (i.active 0) a
        | pk =>
          let fatal := match pk with
            | some ⟨_, _, .page _ _ f⟩ => f.contains (a / 65536)
            | _ => false
          let open_ := match pk with
            | some ⟨_, _, .page _ ps _⟩ => pagesOpen s tn ps .write
            | _ => false
          if fatal then raiseAt s i 0x13 0 (i.active 0) a
          else if open_ then s
          else
            match atomPlace s tn .add a with
            | .ok (.main pa) => fin (addAt s .m pa x)
            | .ok (.host pa) => fin (addAt s .host pa x)
            | .ok (.remote dev va) =>
              match sendRemote s tn dev (.atomic .add true va x 0) (.lane i.gid 0) with
              | some s => park s i (.remote false [0] [] [] [] [])
              | none => raiseAt s i 0x13 0 (i.active 0) a
            | e => parkOnPages s i 3 .write [(a, e)]

end Sys2Proof.Machine
end

