-- ==== Sys2Proof/Machine/Ray.lean ====
section
/-! DEFINITION. The ray unit (R251 to R262): RINIT, RBOX and RTRI, on exact values rounded where the rules say. -/

namespace Sys2Proof.Machine

open Sys2Proof

/-! ## Exact values with infinities and NaN -/

/-- An exact value as a number; a zero takes the sign given. -/
def ofDy (x : Dy) (zneg : Bool) : FVal := .fin (if x.m = 0 then zneg else decide (x.m < 0)) x.m.natAbs x.e

def FVal.negate : FVal → FVal
  | .nan s => .nan s
  | .inf n => .inf (!n)
  | .fin n m e => .fin (!n) m e

/-- x + y, not rounded; an exact zero is −0 only of two −0 (R60). -/
def fSum (x y : FVal) : FVal :=
  if x.isNan || y.isNan then .nan false
  else
    match x, y with
    | .inf a, .inf b => if a = b then .inf a else .nan false
    | .inf a, _ => .inf a
    | _, .inf b => .inf b
    | _, _ => ofDy (x.dy.add y.dy) (x.isZero && y.isZero && x.sign && y.sign)

def fDiff (x y : FVal) : FVal := fSum x y.negate

/-- An exact value rounded once to f32; every NaN is canonical (R59). -/
def roundVal (r : Rnd) : FVal → Nat
  | .nan _ => fmtF32.nan
  | .inf n => withSign fmtF32 n fmtF32.infBits
  | .fin n m e => (roundFin fmtF32 r n m e false).1

/-- The value it rounds to. -/
def roundF (r : Rnd) (x : FVal) : FVal := unpack fmtF32 (roundVal r x)

/-- minimumNumber and maximumNumber, with −0 < +0 (R107). -/
def pickVal (mx : Bool) (x y : FVal) : FVal :=
  if x.isNan then y
  else if y.isNan then x
  else if mx then (if fLess true x y then y else x)
  else if fLess true y x then y else x

/-- x ≤ y; false of a NaN. -/
def fLe (x y : FVal) : Bool := !x.isNan && !y.isNan && !fLess false y x

/-! ## Ray records (R251) -/

/-- The f32 in register c + j of a lane. -/
def rayField (g : Group) (c lane j : Nat) : FVal := unpack fmtF32 (vGet g (vName g (c + j)) lane).toNat

/-- An info word that makes every test of its lane a miss. -/
def infoBad (x : Nat) : Bool := x.testBit 0 || decide (fld x 1 2 = 3) || decide (fld x 4 28 ≠ 0)

/-- The writes of n registers of one lane. -/
def rayWrites (r : RegName) (lane : Nat) (xs : List Nat) : List RegWrite :=
  ((upto xs.length).zip xs).map fun x => .lane (regPlus r x.1) lane (BitVec.ofNat 32 x.2)

/-- A RAY instruction whose results are computed at its issue. -/
def oweRay (s : State) (i : Iss) (flag : Option Nat) (dests : List RegName) (ws : List RegWrite) : State :=
  done (oweResult s i.gid .other flag dests ws 0).2 i

/-! ## RINIT (R253) -/

/-- The lowest axis of largest |dir|. -/
def rayAxis (d : List FVal) : Nat :=
  let mag := fun n => ((d.getD n (.nan false)).modify false true)
  let k := if fLess false (mag 0) (mag 1) then 1 else 0
  if fLess false (mag k) (mag 2) then 2 else k

/-- Whether a ray is invalid. -/
def rayInvalid (o d : List FVal) (tmin tmax : FVal) : Bool :=
  !(o.all FVal.isFin) || d.any FVal.isNan || d.all FVal.isZero || tmin.isNan || tmax.isNan

/-- The record of one lane: its twelve words, and whether the ray is invalid. -/
def rayRecord (g : Group) (c lane : Nat) : List Nat × Bool :=
  let raw := fun j => (vGet g (vName g (c + j)) lane).toNat
  let val := fun j => unpack fmtF32 (raw j)
  let d := [val 3, val 4, val 5]
  let bad := rayInvalid [val 0, val 1, val 2] d (val 6) (val 7)
  let kz := rayAxis d
  let swap := fLess false (d.getD kz (.nan false)) (.fin false 0 0)
  ([raw 0, raw 1, raw 2, raw 3, raw 4, raw 5, (fRcp .rne (val 3)).1, (fRcp .rne (val 4)).1, (fRcp .rne (val 5)).1, raw 6, raw 7,
    if bad then 1 else 2 * kz + if swap then 8 else 0], bad)

/-- RINIT. -/
def execRinit (d a : VCode) (p aux : MCode) (fs : FSel) (s : State) : Out :=
  issue s { fs := fs, vs := [vreg d 12, vreg a 8], ms := [p.toNat]
            mdst := if aux = 0 then [] else [aux.toNat], tracked := if aux = 0 then 12 else 13 } p fun i =>
    let r := vName i.g d.toNat
    let dests := regSpan r 12 ++ if aux = 0 then [] else [.m aux.toNat]
    let ls := lanesOf (i.active p)
    if ls.isEmpty then oweNothing s i (i.flag fs) dests
    else
      oweRay s i (i.flag fs) dests (ls.flatMap fun l =>
        let x := rayRecord i.g a.toNat l
        rayWrites r l x.1 ++ if aux = 0 then [] else [.maskLane aux.toNat l x.2])

/-! ## RBOX (R254 to R258) -/

/-- The two planes of a child on an axis (R256). -/
def boxPlanes (n : FVal) (lo hi e : Nat) : FVal × FVal :=
  let at_ := fun (q : Nat) (r : Rnd) =>
    let x := n.dy.add ⟨(q : Int), (e : Int) - 127⟩
    unpack fmtF32 (roundDy fmtF32 r x (n.sign && r == .rdn)).1
  (at_ lo .rdn, at_ hi .rup)

/-- The interval of one axis; none: a miss (R257). -/
def slabAxis (lo hi o r : FVal) : Option (FVal × FVal) :=
  if r.isInf then
    if fLe lo o && fLe o hi then some (.inf true, .inf false) else none
  else
    let x := (fProd (fDiff lo o) r).1
    let y := (fProd (fDiff hi o) r).1
    some (roundF .rdn (pickVal false x y), roundF .rup (pickVal true x y))

/-- The distance at which a ray meets a child, from the child's planes axis by axis (R257). -/
def slabTest (planes : List (FVal × FVal)) (o r : List FVal) (tmin tmax : FVal) : Option FVal :=
  let axes := (upto 3).map fun j =>
    let pl := planes.getD j (.nan false, .nan false)
    slabAxis pl.1 pl.2 (o.getD j (.nan false)) (r.getD j (.nan false))
  if axes.any Option.isNone then none
  else
    let xs := axes.filterMap id
    let entry := xs.foldl (fun e x => pickVal true e x.1) tmin
    let exit_ := xs.foldl (fun e x => pickVal false e x.2) tmax
    if fLe entry exit_ then some entry else none

/-- The distance at which a ray meets child c of a node's 64 bytes (R254 to R257). -/
def nodeChild (b : Bytes) (o r : List FVal) (tmin tmax : FVal) (c : Nat) : Option FVal :=
  let byte := fun n => leNat ((b.drop n).take 1)
  let org := fun j => unpack fmtF32 (leNat ((b.drop (4 * j)).take 4))
  let lo := fun j => byte (16 + 6 * c + j)
  let hi := fun j => byte (19 + 6 * c + j)
  if byte (45 + 6 * c) / 64 = 0 then none
  else if (upto 3).any fun j => !(org j).isFin || decide (byte (12 + j) = 255) || decide (hi j < lo j) then none
  else slabTest ((upto 3).map fun j => boxPlanes (org j) (lo j) (hi j) (byte (12 + j))) o r tmin tmax

/-- A hit placed after every hit that is not farther. -/
def placeHit (x : FVal × Nat) : List (FVal × Nat) → List (FVal × Nat)
  | [] => [x]
  | y :: ys => if fLess false x.1 y.1 then x :: y :: ys else y :: placeHit x ys

/-- The children hit, in order of distance. -/
def nodeHits (b : Bytes) (o r : List FVal) (tmin tmax : FVal) : List (FVal × Nat) :=
  ((upto 4).filterMap fun c => (nodeChild b o r tmin tmax c).map fun e => (e, c)).foldl (fun acc x => placeHit x acc) []

/-- The twelve words that RBOX writes in a lane (R258). -/
def boxWords (b : Bytes) (hits : List (FVal × Nat)) : List Nat :=
  let h := hits.length
  let mask := hits.foldl (fun m x => m + 2 ^ x.2) 0
  let dist := (upto 4).map fun n => match hits[n]? with
    | some x => roundVal .rne x.1
    | none => 0x7F800000
  dist ++ (upto 4).flatMap fun n =>
    let w := mask * 2 ^ 53 + h * 2 ^ 50 + match hits[n]? with
      | some x => x.2 * 2 ^ 48 + leNat ((b.drop (40 + 6 * x.2)).take 6)
      | none => 0
    [w % 2 ^ 32, w / 2 ^ 32]

/-- One lane's result. -/
def boxLane (s : State) (g : Group) (a lane node : Nat) : List Nat :=
  let b := readBytes s.scratch node 64
  let val := rayField g a lane
  let info := (vGet g (vName g (a + 11)) lane).toNat
  boxWords b (if infoBad info then []
    else nodeHits b [val 0, val 1, val 2] [val 6, val 7, val 8] (val 9) (val 10))

/-- RBOX: an engine read at the instruction's position sees the group's own earlier stores (R192). -/
def execRbox (d a b : VCode) (p : MCode) (fs : FSel) (s : State) : Out :=
  issue s { fs := fs, vs := [vreg d 12, vreg a 12, vsrc b], ms := [p.toNat], tracked := 12 } p fun i =>
    let las := (lanesOf (i.active p)).map fun l => (l, srcLane i.g b.toNat l 1)
    match checkLanes s i .d false false 64 las with
    | some (code, m, x) => raiseAt s i code 0 m x
    | none =>
      let r := vName i.g d.toNat
      if las.isEmpty then oweNothing s i (i.flag fs) (regSpan r 12)
      else if las.any fun x => ownBusy s i.gid i.g .d x.2 64 then s
      else oweRay s i (i.flag fs) (regSpan r 12) (las.flatMap fun x => rayWrites r x.1 (boxLane s i.g a.toNat x.1 x.2))

/-! ## RTRI (R259 to R261) -/

/-- A buffer's status word and its words; one not written is empty (R242). -/
def bufOf (g : Group) (n : Nat) : TriBuf := (tfind g.bufs n).getD ⟨0, []⟩

/-- The fields of a buffer's status word (R244). -/
def bufState (b : TriBuf) : Nat := fld b.status.toNat 28 4
def bufCause (b : TriBuf) : Nat := fld b.status.toNat 24 4
def bufDelivered (b : TriBuf) : Nat := fld b.status.toNat 16 5

/-- The trap of a decode error (R235), with its subcause (R291). -/
def causeTrap (c : Nat) : Nat × Nat :=
  if c = 12 then (0x13, 0) else if c = 13 then (0x19, 0) else if c = 14 then (0x07, 0) else (0x17, c)

/-- The trap of a failed buffer (R243). -/
def raiseBuffer (s : State) (i : Iss) (b : TriBuf) (p : MCode) : State :=
  let t := causeTrap (bufCause b)
  raiseAt s i t.1 t.2 (i.active p) 0

/-- A quotient rounded once, and its value; none where it is not finite (R259). -/
def quotVal (x y : FVal) : Option Dy :=
  match x, y with
  | .fin _ _ _, .fin _ n _ =>
    if n = 0 then none
    else match unpack fmtF32 (roundQuot fmtF32 .rne x.dy y.dy false).1 with
      | .fin a m e => some (FVal.fin a m e).dy
      | _ => none
  | .fin _ _ _, .inf _ => some Dy.zero
  | _, _ => none

/-- An exact value rounded RNE, as an exact value; none where it is not finite. -/
def roundedDy (x : Dy) : Option Dy :=
  match unpack fmtF32 (roundDy fmtF32 .rne x false).1 with
  | .fin a m e => some (FVal.fin a m e).dy
  | _ => none

/-- A vertex sheared and translated (R259). -/
def shear (sx sy sz : Dy) (kx ky kz : Nat) (o : List FVal) (v : List FVal) : Option (Dy × Dy × Dy) :=
  let w := (upto 3).map fun j => match v.getD j (.nan false), o.getD j (.nan false) with
    | .fin a m e, .fin b n f => roundedDy ((FVal.fin a m e).dy.sub (FVal.fin b n f).dy)
    | _, _ => none
  match (w.getD 0 none), (w.getD 1 none), (w.getD 2 none) with
  | some w0, some w1, some w2 =>
    let at_ := fun k => [w0, w1, w2].getD k Dy.zero
    match roundedDy ((at_ kx).sub (sx.mul (at_ kz))), roundedDy ((at_ ky).sub (sy.mul (at_ kz))), roundedDy (sz.mul (at_ kz)) with
    | some x, some y, some z => some (x, y, z)
    | _, _, _ => none
  | _, _, _ => none

/-- The edge from a to b, with third vertex c, is owned (R260). -/
def edgeOwned (a b c : Dy × Dy × Dy) : Bool :=
  let nx := b.2.1.sub a.2.1
  let ny := a.1.sub b.1
  let dot := (nx.mul (c.1.sub a.1)).add (ny.mul (c.2.1.sub a.2.1))
  let sg : Int := if dot.m < 0 then -1 else 1
  decide (0 < sg * nx.m) || (nx.isZero && decide (0 < sg * ny.m))

/-- A × B of two sheared vertices. -/
def cross (a b : Dy × Dy × Dy) : Dy := (a.1.mul b.2.1).sub (a.2.1.mul b.1)

/-- What RTRI writes on a miss (R261). -/
def triMiss : List Nat := [0x7F800000, 0, 0, 0xFFFFFFFF]

/-- A quotient as RTRI delivers it: +0 for an exact zero (R261). -/
def triQuot (x det : Dy) : Nat := (roundQuot fmtF32 .rne x det false).1

/-- The test of a ray against a triangle whose sheared vertices are given. -/
def triInside (p q t : Dy × Dy × Dy) (tmin tmax : FVal) (index : Nat) : List Nat :=
  let u := cross t q
  let v := cross p t
  let w := cross q p
  let det := (u.add v).add w
  let dist := ((u.mul p.2.2).add (v.mul q.2.2)).add (w.mul t.2.2)
  let inside := fun (f : Dy) (a b c : Dy × Dy × Dy) => decide (0 < (f.mul det).m) || (f.isZero && edgeOwned a b c)
  if det.isZero then triMiss
  else if inside u q t p && inside v t p q && inside w p q t then
    let x := triQuot dist det
    if fLe tmin (unpack fmtF32 x) && fLe (unpack fmtF32 x) tmax then [x, triQuot v det, triQuot w det, index] else triMiss
  else triMiss

/-- One lane's result: entry e of the buffer against the record at register a. -/
def triLane (g : Group) (b : TriBuf) (a lane e : Nat) : List Nat :=
  let val := rayField g a lane
  let info := (vGet g (vName g (a + 11)) lane).toNat
  if infoBad info || decide (16 ≤ e) || decide (bufDelivered b ≤ e) then triMiss
  else
    let word := fun n => (tget 0 b.words (16 * e + n)).toNat
    let vert := fun k => (upto 3).map fun j => unpack fmtF32 (word (3 * k + j))
    let kz := fld info 1 2
    let k1 := (kz + 1) % 3
    let k2 := (k1 + 1) % 3
    let (kx, ky) := if info.testBit 3 then (k2, k1) else (k1, k2)
    let o := [val 0, val 1, val 2]
    match quotVal (val (3 + kx)) (val (3 + kz)), quotVal (val (3 + ky)) (val (3 + kz)),
        quotVal (.fin false 1 0) (val (3 + kz)) with
    | some sx, some sy, some sz =>
      match shear sx sy sz kx ky kz o (vert 0), shear sx sy sz kx ky kz o (vert 1), shear sx sy sz kx ky kz o (vert 2) with
      | some p, some q, some t => triInside p q t (val 9) (val 10) (word 9)
      | _, _, _ => triMiss
    | _, _, _ => triMiss

/-- RTRI. -/
def execRtri (d a b : VCode) (buf : BitVec 2) (p : MCode) (fs : FSel) (s : State) : Out :=
  issue s { fs := fs, vs := [vreg d 4, vreg a 12, vsrc b], ms := [p.toNat], bufs := [buf.toNat], tracked := 4 } p fun i =>
    let r := vName i.g d.toNat
    let ls := lanesOf (i.active p)
    let bf := bufOf i.g buf.toNat
    if ls.isEmpty then oweNothing s i (i.flag fs) (regSpan r 4)
    else if bufState bf = 2 then raiseBuffer s i bf p
    else
      oweRay s i (i.flag fs) (regSpan r 4)
        (ls.flatMap fun l => rayWrites r l (triLane i.g bf a.toNat l (srcLane i.g b.toNat l 1)))

end Sys2Proof.Machine
end

