-- ==== Sys2Proof/Machine/Mesh.lean ====
section
/-! DEFINITION. Mesh streams (R228 to R233), the decoding automaton (R234, R235), the ford cache and its walks (R236 to R240),
and MDEC, TBREAD, MSTAT and MPATCH (R241 to R245). -/

namespace Sys2Proof.Machine

open Sys2Proof

/-! ## Reading and writing a stream -/

/-- What stops a decoder: a decode error by its cause (R235), a page, or a unit of another device not yet brought. -/
inductive DecStop where
  | err (cause : Nat)
  | page (va : Nat) (write forbidden : Bool)
  | ask (dev rva va : Nat)
  deriving DecidableEq, Repr

abbrev Dec (α : Type) := Except DecStop α

/-- n bytes of a stream's space; the windows are judged apart. -/
def meshRead (s : State) (st : Stream) (a n : Nat) : Dec Bytes :=
  if st.space = 2 then .ok (readBytes s.scratch a n)
  else
    match readM s st.tenant a n .read with
    | .ok b => .ok b
    | .page va f => .error (.page va false f)
    | .failed _ => .error (.err 12)
    | .wait d r va => .error (.ask d r va)

/-- The bytes from an address cut at multiples of 16, so that no piece crosses a page. -/
def pieces : Nat → Nat → Bytes → List (Nat × Bytes)
  | 0, _, _ => []
  | fuel + 1, a, b =>
    if b.isEmpty then [] else
      let n := 16 - a % 16
      (a, b.take n) :: pieces fuel (a + n) (b.drop n)

/-- Bytes written to a stream's space: every page is translated before any byte is stored. -/
def meshWrite (s : State) (st : Stream) (who : Poster) (ws : List (Nat × Bytes)) : Dec State :=
  if st.space = 2 then .ok { s with scratch := ws.foldl (fun m w => writeBytes m w.1 w.2) s.scratch }
  else
    let ps := ws.flatMap fun w => pieces (w.2.length + 1) w.1 w.2
    ps.foldl
      (fun (acc : Dec State) w => match acc with
        | .error e => .error e
        | .ok s' =>
          match translate s st.tenant w.1 .write with
          | .ok p => .ok (writePlace s' st.tenant p w.2 who)
          | .notPresent => .error (.page w.1 true false)
          | .forbidden => .error (.page w.1 true true)) (.ok s)

/-- Whether spans of a stream's bytes lie in D windows; streams in M-space have none to lie in (R240). -/
def meshOk (st : Stream) (ws : List Window) (write : Bool) (xs : List Span) : Bool :=
  st.space != 2 || xs.all fun x => spanInWindows ws write x

/-- A read that a request makes: outside its windows it is cause 14. -/
def meshReadIn (s : State) (st : Stream) (ws : List Window) (a n : Nat) : Dec Bytes :=
  if meshOk st ws false [(a, a + n)] then meshRead s st a n else .error (.err 14)

/-! ## The header and the directory (R229, R232) -/

/-- A header that passes R229. The offsets have the base added; `w` is the correction width. -/
structure Mesh where
  fords : Nat
  tris : Nat
  verts : Nat
  w : Nat
  symAt : Nat
  corAt : Nat
  dirAt : Nat
  recAt : Nat
  origin : List Nat
  scale : List Nat
  symLen : Nat
  deriving DecidableEq, Repr

/-- The header's fields; none: cause 1. -/
def parseMesh (base : Nat) (b : Bytes) : Option Mesh :=
  let f := fun o n => leNat ((b.drop o).take n)
  if f 0 4 = 0x3148534D ∧ f 4 1 = 1 ∧ f 5 1 < 4 ∧ f 6 2 ≠ 0 ∧ f 8 4 ≠ 0 ∧ f 60 4 = 0 then
    some
      { fords := f 6 2, tris := f 8 4, verts := f 12 4, w := 4 * (f 5 1 + 1), symAt := base + f 16 4, corAt := base + f 20 4
        dirAt := base + f 24 4, recAt := base + f 28 4, origin := [f 32 4, f 36 4, f 40 4], scale := [f 44 4, f 48 4, f 52 4]
        symLen := f 56 4 }
  else none

/-- The header, as bytes and parsed. -/
def readMesh (s : State) (st : Stream) (ws : List Window) : Dec (Bytes × Mesh) := do
  let b ← meshReadIn s st ws st.base 64
  match parseMesh st.base b with
  | some m => .ok (b, m)
  | none => .error (.err 1)

/-- A directory entry. -/
structure FordDir where
  f : Nat
  verts : Nat
  pos : Nat
  gen : Nat
  state : Nat
  deriving DecidableEq, Repr

/-- The fields of a directory entry. -/
def fordFields (b : Bytes) : FordDir :=
  let f := fun o n => leNat ((b.drop o).take n)
  ⟨f 0 4, f 4 4, f 8 4, f 12 2, f 14 1⟩

/-- Entry j of a directory's bytes; none: malformed (R232). As the f values rise strictly from entry 0's 0, that of entry j is at
least j. -/
def parseFord (j : Nat) (b : Bytes) : Option FordDir :=
  let e := fordFields b
  if e.state ≤ 2 ∧ leNat (b.drop 15) = 0 ∧ j ≤ e.f ∧ (j ≠ 0 ∨ (e.f = 0 ∧ e.verts = 0 ∧ e.pos = 0 ∧ e.state = 1)) then some e
  else none

def fordAddr (m : Mesh) (j : Nat) : Nat := m.dirAt + 16 * j
def recordAddr (m : Mesh) (j : Nat) : Nat := m.recAt + 192 * j

/-- Entry j read; a malformed one is cause 9. -/
def readFord (s : State) (st : Stream) (ws : List Window) (m : Mesh) (j : Nat) : Dec FordDir := do
  match parseFord j (← meshReadIn s st ws (fordAddr m j) 16) with
  | some e => .ok e
  | none => .error (.err 9)

/-- From entry k down to the first that is neither stale nor unused; the f values rise strictly (R232, R236). -/
def fallBack (s : State) (st : Stream) (ws : List Window) (m : Mesh) : Nat → FordDir → Dec (Nat × FordDir)
  | 0, e => .ok (0, e)
  | k + 1, e =>
    if e.state = 1 then .ok (k + 1, e)
    else do
      let d ← readFord s st ws m k
      if e.f ≤ d.f then .error (.err 9) else fallBack s st ws m k d

/-- The ford that a request is served from: the header, its entry, and whether it fell back (R236); causes 2 and 9. -/
def findFord (s : State) (st : Stream) (ws : List Window) (ford first count : Nat) :
    Dec (Bytes × Mesh × Nat × FordDir × Bool) := do
  let (head, m) ← readMesh s st ws
  if m.fords ≤ ford then .error (.err 2)
  else
    let e ← readFord s st ws m ford
    if first < e.f ∨ m.tris < first + count then .error (.err 2)
    else
      let (k, e) ← fallBack s st ws m ford e
      .ok (head, m, k, e, k != ford)

/-- Whether the ford that a request names is known to be stale or unused. -/
def namedStale (s : State) (st : Stream) (ws : List Window) (ford : Nat) : Bool :=
  match (do let (_, m) ← readMesh s st ws; readFord s st ws m ford : Dec FordDir) with
  | .ok e => e.state != 1
  | .error _ => false

/-! ## Records (R233) -/

/-- The initial state of R234. -/
def Walk.initial : Walk :=
  { tri := 0, gateSet := false, oppValid := false, ga := 0, gb := 0, opp := 0, head := 0, valid := 0, vid := [], q := []
    symPos := 0, verts := 0, units := [] }

/-- The walk that a record's 192 bytes hold. -/
def parseRecord (b : Bytes) : Walk :=
  let f := fun o n => leNat ((b.drop o).take n)
  { tri := f 0 4, gateSet := (f 10 1).testBit 0, oppValid := (f 10 1).testBit 1, ga := f 6 1 % 16, gb := f 6 1 / 16
    opp := f 7 1 % 16, head := f 7 1 / 16, valid := BitVec.ofNat 16 (f 8 2)
    vid := (upto 16).foldl (fun m i => tset 0 m i (f (32 + 10 * i) 4)) []
    q := (upto 16).foldl (fun m i =>
      tset [0, 0, 0] m i [f (36 + 10 * i) 2, f (38 + 10 * i) 2, f (40 + 10 * i) 2]) []
    symPos := f 12 4, verts := f 16 4, units := [] }

/-- The record of a walk, for a generation. -/
def fordRecord (w : Walk) (gen : Nat) : Bytes :=
  leBytes 4 w.tri ++ leBytes 2 gen ++ leBytes 1 (w.ga + 16 * w.gb) ++ leBytes 1 (w.opp + 16 * w.head) ++ leBytes 2 w.valid.toNat
    ++ leBytes 1 ((if w.gateSet then 1 else 0) + if w.oppValid then 2 else 0) ++ leBytes 1 0 ++ leBytes 4 w.symPos
    ++ leBytes 4 w.verts ++ List.replicate 12 0
    ++ (upto 16).flatMap fun i => leBytes 4 (tget 0 w.vid i) ++ (tget [0, 0, 0] w.q i).flatMap (leBytes 2)

/-! ## The automaton (R230, R231, R234) -/

/-- The bytes that hold n bits of an area from a bit position. -/
def bitSpan (area pos n : Nat) : Span := (area + pos / 8, area + (pos + n + 7) / 8)

/-- The 8-byte unit at an address, as the walk has read it or as it is now: each is read at one moment (R190, R192). -/
def readStreamUnit (s : State) (st : Stream) (w : Walk) (a : Nat) : Dec Nat :=
  match w.units.find? fun u => u.1 == a with
  | some u => .ok u.2
  | none => do
    let b ← meshRead s st a 8
    .ok (leNat b)

/-- k consecutive units from one. -/
def readStreamUnits (s : State) (st : Stream) (w : Walk) (a : Nat) : Nat → Dec (List (Nat × Nat))
  | 0 => .ok []
  | k + 1 => do
    let x ← readStreamUnit s st w a
    let xs ← readStreamUnits s st w (a + 8) k
    .ok ((a, x) :: xs)

/-- n bits of an area from a bit position, the least significant first, and the walk that has read their units. -/
def readBits (s : State) (st : Stream) (w : Walk) (area pos n : Nat) : Dec (Nat × Walk) := do
  let x := bitSpan area pos n
  let us ← readStreamUnits s st w (x.1 / 8 * 8) ((x.2 + 7) / 8 - x.1 / 8)
  let all := us.foldr (fun u n => u.2 + 2 ^ 64 * n) 0
  .ok (all / 2 ^ (8 * (x.1 % 8) + pos % 8) % 2 ^ n, { w with units := us ++ w.units.filter fun u => !(us.any fun v => v.1 == u.1) })

/-- n bits of the symbol area at the walk's position, and the walk past them; cause 3 past the symbol length. -/
def readSymbol (s : State) (st : Stream) (m : Mesh) (w : Walk) (n : Nat) : Dec (Nat × Walk) :=
  if m.symLen < w.symPos + n then .error (.err 3)
  else do
    let (x, w) ← readBits s st w m.symAt w.symPos n
    .ok (x, { w with symPos := w.symPos + n })

/-- The walk with only the units in which its next symbol or correction bits lie. -/
def Walk.keepUnits (m : Mesh) (w : Walk) : Walk :=
  let near := [(m.symAt + w.symPos / 8) / 8 * 8, (m.corAt + 3 * m.w * w.verts / 8) / 8 * 8]
  { w with units := w.units.filter fun u => near.contains u.1 }

/-- A slot's quantised position. -/
def Walk.pos (w : Walk) (i : Nat) : List Nat := tget [0, 0, 0] w.q i

/-- predict() of R234. -/
def Walk.predict (w : Walk) : List Nat :=
  (upto 3).map fun j =>
    let a := (w.pos w.ga).getD j 0
    let b := (w.pos w.gb).getD j 0
    if w.oppValid then (a + b + 65536 - (w.pos w.opp).getD j 0) % 65536 else (a + b) / 2

/-- new_vertex(p) of R234: the slot and the walk; `seed` says that the symbol is SEED. -/
def newVertex (s : State) (st : Stream) (m : Mesh) (seed : Bool) (p : List Nat) (w : Walk) : Dec (Nat × Walk) :=
  if m.verts ≤ w.verts then .error (.err 8)
  else if !seed && (w.head == w.ga || w.head == w.gb) then .error (.err 7)
  else do
    let (c, w) ← readBits s st w m.corAt (3 * m.w * w.verts) (3 * m.w)
    let q := (upto 3).map fun j =>
      (((p.getD j 0 : Int) + signedAt m.w (fld c (m.w * j) m.w)) % 65536).toNat
    .ok (w.head,
      { w with
        valid := w.valid ||| BitVec.ofNat 16 (2 ^ w.head)
        vid := tset 0 w.vid w.head w.verts
        q := tset [0, 0, 0] w.q w.head q
        verts := w.verts + 1
        head := (w.head + 1) % 16 })

/-- A triangle's vertex slots. -/
abbrev Tri := Nat × Nat × Nat

/-- A triangle on the gate with apex a, to the right or to the left. -/
def gateTriangle (w : Walk) (right : Bool) (a : Nat) : Walk × Tri :=
  ((if right then { w with opp := w.ga, ga := w.gb, gb := a, oppValid := true, tri := w.tri + 1 }
    else { w with opp := w.gb, gb := w.ga, ga := a, oppValid := true, tri := w.tri + 1 }), (w.ga, w.gb, a))

/-- One symbol (R234): the walk after it, and the triangle it emits. -/
def symbolStep (s : State) (st : Stream) (m : Mesh) (w : Walk) : Dec (Walk × Option Tri) := do
  let (x, w) ← readSymbol s st m w 3
  if x ≤ 3 then
    if !w.gateSet then .error (.err 5)
    else if x ≤ 1 then
      let (a, w) ← newVertex s st m false w.predict w
      let r := gateTriangle w (x == 0) a
      .ok (r.1, some r.2)
    else
      let (a, w) ← readSymbol s st m w 4
      if !(w.valid.getLsbD a) then .error (.err 6)
      else
        let r := gateTriangle w (x == 2) a
        .ok (r.1, some r.2)
  else if x = 4 then
    let h := (w.head + 15) % 16
    let (a, w) ← newVertex s st m true (if w.valid.getLsbD h then w.pos h else [0, 0, 0]) w
    let (b, w) ← newVertex s st m true (w.pos a) w
    let (c, w) ← newVertex s st m true (w.pos b) w
    .ok ({ w with ga := b, gb := c, opp := a, gateSet := true, oppValid := true, tri := w.tri + 1 }, some (a, b, c))
  else if x = 5 then
    let (a, w) ← readSymbol s st m w 4
    let (b, w) ← readSymbol s st m w 4
    if !(w.valid.getLsbD a) || !(w.valid.getLsbD b) then .error (.err 6)
    else .ok ({ w with ga := a, gb := b, gateSet := true, oppValid := false }, none)
  else .error (.err (if x = 6 then 10 else 4))

/-- One symbol, with the units that the next ones need. -/
def walkSymbol (s : State) (st : Stream) (m : Mesh) (w : Walk) : Dec (Walk × Option Tri) := do
  let (w, t) ← symbolStep s st m w
  .ok (w.keepUnits m, t)

/-- The bytes of n corrections from vertex v's. -/
def corrSpan (m : Mesh) (v n : Nat) : List Span := if n = 0 then [] else [bitSpan m.corAt (3 * m.w * v) (3 * m.w * n)]

/-- The bytes of n symbol bits from a position, where they lie below the symbol length. -/
def symSpan (m : Mesh) (pos n : Nat) : List Span := if m.symLen < pos + n then [] else [bitSpan m.symAt pos n]

/-- The bytes that one symbol reads, up to where it errs (R240). -/
def stepReads (s : State) (st : Stream) (m : Mesh) (w : Walk) : List Span :=
  symSpan m w.symPos 3 ++
    match readSymbol s st m w 3 with
    | .error _ => []
    | .ok (x, w') =>
      if x ≤ 1 then (if w.gateSet ∧ w.head ≠ w.ga ∧ w.head ≠ w.gb then corrSpan m w.verts (min 1 (m.verts - w.verts)) else [])
      else if x ≤ 3 then (if w.gateSet then symSpan m w'.symPos 4 else [])
      else if x = 4 then corrSpan m w.verts (min 3 (m.verts - w.verts))
      else if x = 5 then symSpan m w'.symPos 4 ++ symSpan m (w'.symPos + 4) 4
      else []

/-- A vertex coordinate: round(origin + q × scale, f32, RNE), NaN canonical (R231). -/
def dequant (o sc q : Nat) : Nat :=
  let x := unpack fmtF32 o
  let p := (fProd (.fin false q 0) (unpack fmtF32 sc)).1
  roundVal .rne (fSum x p)

/-- A slot's position as three f32 patterns. -/
def vertexAt (m : Mesh) (w : Walk) (slot : Nat) : List Nat :=
  (upto 3).map fun j => dequant (m.origin.getD j 0) (m.scale.getD j 0) ((w.pos slot).getD j 0)

/-- The 16 words of an entry (R243), for the triangle that the walk has just emitted. -/
def triangleWords (m : Mesh) (w : Walk) (t : Tri) : List Nat :=
  vertexAt m w t.1 ++ vertexAt m w t.2.1 ++ vertexAt m w t.2.2 ++ [w.tri - 1]
    ++ [tget 0 w.vid t.1, tget 0 w.vid t.2.1, tget 0 w.vid t.2.2] ++ [0, 0, 0]

/-! ## Capture (R239) -/

/-- The entry of the first ford that a walk has not passed, where its position has reached that ford: what an entry that is not reached
holds besides its f has no effect (R239, log entry 81). -/
def fordAt (s : State) (st : Stream) (m : Mesh) (tri j : Nat) : Dec (Option Bytes) :=
  if m.fords ≤ j then .ok none
  else do
    let b ← meshRead s st (fordAddr m j) 16
    .ok (if (fordFields b).f ≤ tri then some b else none)

/-- The writes of a capture: the record, then the entry's generation and state. -/
def captureWrites (m : Mesh) (w : Walk) (j : Nat) (e : FordDir) : List (Nat × Bytes) :=
  if e.state = 2 then
    [(recordAddr m j, fordRecord w e.gen), (fordAddr m j + 12, leBytes 2 e.gen ++ leBytes 1 1)]
  else []

/-- The spans that a list of writes touches. -/
def writeSpans (ws : List (Nat × Bytes)) : List Span := ws.map fun w => (w.1, w.1 + w.2.length)

/-- The spans of the symbol and correction bits that a walk has read between two states. -/
def walkSpans (m : Mesh) (pos verts pos' verts' : Nat) : List Span :=
  (if pos < pos' then [bitSpan m.symAt pos (pos' - pos)] else [])
    ++ if verts < verts' then [bitSpan m.corAt (3 * m.w * verts) (3 * m.w * (verts' - verts))] else []

/-- The capture that a walk makes after a triangle (R234, R239): the state, and the first ford not passed. Accesses outside the windows
of every request are not made (R240). The ford before stands at a position that the walk has left, so that an entry whose f the walk has
left as well does not rise (R232). -/
def captureFord (s : State) (st : Stream) (m : Mesh) (j : Nat) (w : Walk) (wss : List (List Window)) (who : Poster) :
    Dec (State × Nat) := do
  match ← fordAt s st m w.tri j with
  | none => .ok (s, j)
  | some b =>
    if !(wss.any fun ws => meshOk st ws false [(fordAddr m j, fordAddr m j + 16)]) then .error (.err 14)
    else
      match parseFord j b with
      | none => .error (.err 9)
      | some e =>
        if e.f < w.tri then .error (.err 9)
        else
          let xs := captureWrites m w j e
          if !(wss.any fun ws => meshOk st ws true (writeSpans xs)) then .error (.err 14)
          else
            let s ← meshWrite s st who xs
            .ok (if xs.isEmpty then s else noteWrites s, j + 1)

/-! ## Banks (R172) -/

/-- The places on this device of spans of a stream's bytes, one for each 16 bytes. -/
def spanPlaces (s : State) (st : Stream) (xs : List Span) : List (Space × Nat) :=
  xs.flatMap fun x => (fromTo (x.1 / 16) ((x.2 + 15) / 16)).filterMap fun n =>
    wordPlace s st.tenant (if st.space = 2 then .d (16 * n) else .m (16 * n))

/-- What a walk's capture reads and writes. -/
def captureSpans (s : State) (st : Stream) (m : Mesh) (j : Nat) (w : Walk) : List Span :=
  if m.fords ≤ j then []
  else (fordAddr m j, fordAddr m j + 16) ::
    match fordAt s st m w.tri j with
    | .ok (some b) => writeSpans (captureWrites m w j (fordFields b))
    | _ => []

/-- What a walk's next symbol reads anew, and the capture after a triangle. -/
def symbolSpans (s : State) (st : Stream) (m : Mesh) (j : Nat) (w : Walk) : List Span :=
  ((stepReads s st m w).flatMap fun x => (fromTo (x.1 / 8) ((x.2 + 7) / 8)).filterMap fun n =>
    if w.units.any fun u => u.1 == 8 * n then none else some (8 * n, 8 * n + 8)) ++
    match walkSymbol s st m w with
    | .ok (w', some _) => captureSpans s st m j w'
    | _ => []

/-- What the service of a request reads (R236): the header, the entries from the one named down to the ford served, and its record
where a walk starts there. -/
def serviceSpans (s : State) (st : Stream) (ws : List Window) (ford first count : Nat) (starts : Nat → Nat → Bool) : List Span :=
  (st.base, st.base + 64) ::
    match findFord s st ws ford first count with
    | .ok (_, m, k, d, _) =>
      ((fromTo k (ford + 1)).map fun j => (fordAddr m j, fordAddr m j + 16)) ++
        if k ≠ 0 ∧ starts k d.gen then [(recordAddr m k, recordAddr m k + 192)] else []
    | .error _ => []

/-! ## Buffers and requests (R242 to R244) -/

/-- The buffer status word. -/
def bufStatus (st cause : Nat) (fb joined : Bool) (delivered origin : Nat) : W32 :=
  BitVec.ofNat 32 (st * 2 ^ 28 + cause * 2 ^ 24 + (if fb then 2 ^ 22 else 0) + (if joined then 2 ^ 21 else 0)
    + delivered * 2 ^ 16 + origin)

def updBuf (s : State) (gid n : Nat) (h : TriBuf → TriBuf) : State :=
  updGroup s gid fun g => { g with bufs := tput g.bufs n (h (bufOf g n)) }

/-- A request that has ended: its buffer's status, and its flag. -/
def endRequest (s : State) (r : DecReq) (cause : Nat) : State :=
  fillOwed (updBuf s r.gid r.buf fun b =>
    { b with status := bufStatus (if cause = 0 then 1 else 2) cause r.fellBack r.joined r.delivered r.origin })
    (some r.owed) []

/-- A request that no walk has served ends with an error; the ford "the walk began from" is then not stated: free. -/
def endUnserved (s : State) (r : DecReq) (cause : Nat) : State :=
  let (x, s) := drawFree s
  endRequest s { r with origin := x.toNat % 65536 } cause

/-- A triangle written to a request that wants it. -/
def deliverTriangle (s : State) (r : DecReq) (tri : Nat) (ws : List Nat) : State × DecReq :=
  if r.first ≤ tri ∧ tri < r.first + r.count then
    let e := tri - r.first
    (updBuf s r.gid r.buf fun b =>
      { b with words := ((upto 16).zip ws).foldl (fun m x => tset 0 m (16 * e + x.1) (BitVec.ofNat 32 x.2)) b.words },
      { r with delivered := r.delivered + 1 })
  else (s, r)

/-- The triangle written to every request; the completed ones end. -/
def deliverAll (tri : Nat) (ws : List Nat) : List DecReq → State → State × List DecReq
  | [], s => (s, [])
  | r :: rs, s =>
    let (s, r) := deliverTriangle s r tri ws
    if r.count ≤ r.delivered then deliverAll tri ws rs (endRequest s r 0)
    else
      let (s, rs) := deliverAll tri ws rs s
      (s, r :: rs)

/-! ## Decoders (R236) -/

def decoderOf (s : State) (core : Nat) : Decoder := tget ⟨[], []⟩ s.decoders core

def putDecoder (s : State) (core : Nat) (d : Decoder) : State := { s with decoders := tset ⟨[], []⟩ s.decoders core d }

def updEntry (s : State) (core wid : Nat) (h : FordEntry → FordEntry) : State :=
  let d := decoderOf s core
  putDecoder s core { d with entries := updateWhere (fun e => e.wid == wid) h d.entries }

def dropEntry (s : State) (core wid : Nat) : State :=
  let d := decoderOf s core
  putDecoder s core { d with entries := d.entries.filter fun e => e.wid != wid }

/-- Whether a granted MPATCH holds a stream (R238). -/
def streamHeld (s : State) (st : Stream) : Bool := s.patches.any fun p => p.granted && p.stream == st

/-- Whether writes that an engine of a group must find performed are not: the group's own before a sequence number, and those that
count as performed for it (R192). -/
def writesOpen (s : State) (gid : Nat) (g : Group) (seq : Nat) : Bool :=
  s.reqs.any fun r => r.boundTo gid g && r.writes && decide (r.seq < seq)

/-- Whether such writes before an engine operation are not yet performed (R192). -/
def earlierOpen (s : State) (gid owed : Nat) : Bool :=
  match s.owed.find? fun o => o.id == owed, tfind s.groups gid with
  | some o, some g => writesOpen s gid g o.seq
  | _, _ => false

/-- Whether a page that something is parked on has not been answered. -/
def stillParked (s : State) (tn : Nat) (pk : Option (Nat × Bool)) : Bool :=
  match pk with
  | some (pg, w) => s.faults.any fun f => sameFault f tn pg (if w then .write else .read)
  | none => false

/-- A decoder request's page. -/
def DecReq.page (r : DecReq) : Option (Nat × Bool) := r.parkedOn.map fun p => (p, false)

def updQueued (s : State) (core n : Nat) (r : DecReq) : State :=
  let d := decoderOf s core
  putDecoder s core { d with queue := d.queue.set n r }

def dropQueued (s : State) (core n : Nat) : State :=
  let d := decoderOf s core
  putDecoder s core { d with queue := removeIx d.queue n }

/-- A queued request stopped while it is served; whether it fell back is known once the entry that it names has been read (R244). -/
def stopQueued (s : State) (core n : Nat) (r : DecReq) (e : DecStop) : State :=
  let r := { r with fellBack := namedStale s r.stream r.windows r.ford }
  match e with
  | .err c => endUnserved (dropQueued s core n) r c
  | .page va _ f => faultPage (updQueued s core n { r with parkedOn := some (va / 65536) }) r.stream.tenant va 4 .read f
  | .ask d rva va => askRemote s r.stream.tenant d rva va

/-- Whether an entry has a request's key and lies at or before its first triangle. -/
def FordEntry.fits (e : FordEntry) (st : Stream) (k gen first : Nat) : Bool :=
  e.stream == st && e.origin == k && e.generation == gen && decide (e.walk.tri ≤ first)

/-- The resting entry of a key that stands farthest. -/
def bestResting (es : List FordEntry) : Option FordEntry :=
  es.foldl (fun acc e => match acc with
    | none => some e
    | some a => if a.walk.tri < e.walk.tri then some e else acc) none

/-- The entries with room for one more: the least recently used resting one of the tenant leaves a full cache (R236, R310); none: it has
none there. -/
def evict (tn : Nat) (es : List FordEntry) : Option (List FordEntry) :=
  if es.length < 32 then some es
  else (sortBy (fun e => e.used) (es.filter fun e => !e.active && e.stream.tenant == tn)).head?.map fun x =>
    es.filter fun e => e.wid != x.wid

/-- A request enters a walk; a walk that was resting goes on by the header just read. -/
def joinWalk (s : State) (core n : Nat) (r : DecReq) (head : Bytes) (e : FordEntry) (fb joined : Bool) : State :=
  let r := { r with fellBack := fb, joined := joined, origin := e.origin, parkedOn := none, fatal := false }
  updEntry (clearFetched (dropQueued s core n) r.stream.tenant) core e.wid fun e =>
    { e with active := true, head := if e.active then e.head else head, reqs := e.reqs ++ [r] }

/-- A request that has joined a walk whose bytes from its origin are not all in the request's windows ends alone (R240). -/
def joinOrEnd (s : State) (core n : Nat) (r : DecReq) (head : Bytes) (m : Mesh) (d : FordDir) (e : FordEntry) (fb : Bool) : State :=
  if meshOk r.stream r.windows false (walkSpans m d.pos d.verts e.walk.symPos e.walk.verts) then joinWalk s core n r head e fb true
  else endRequest (dropQueued s core n) { r with fellBack := fb, joined := true, origin := e.origin } 14

/-- A walk started from ford k: its record, or the initial state. It waits where the cache has no room. -/
def startWalk (s : State) (core n : Nat) (r : DecReq) (head : Bytes) (m : Mesh) (k : Nat) (d : FordDir) (fb : Bool) : State :=
  let w : Dec Walk := if k = 0 then .ok Walk.initial else do
    let b ← meshReadIn s r.stream r.windows (recordAddr m k) 192
    .ok (parseRecord b)
  match w with
  | .error e => stopQueued s core n r e
  | .ok w =>
    let dec := decoderOf s core
    match evict r.stream.tenant dec.entries with
    | none => s
    | some es =>
      let (id, s) := freshId s
      let e : FordEntry :=
        { wid := id, stream := r.stream, origin := k, generation := d.gen, head := head, next := k + 1, due := none, active := true
          walk := w, reqs := [], used := s.now, parkedOn := none, fatal := false }
      joinWalk (putDecoder s core { dec with entries := es ++ [e] }) core n r head e fb false

/-- Whether a request that needs an automaton may take one: no earlier one waits for it but those that are held or parked. -/
def automatonFor (s : State) (d : Decoder) (n : Nat) : Bool :=
  decide ((d.entries.filter fun e => e.active).length < 2) &&
    (d.queue.take n).all fun r => streamHeld s r.stream || stillParked s r.stream.tenant r.page

/-- DECODER_SERVE (R236): request n of a core's queue is served, if it can be. -/
def execDecoderServe (core n : Nat) (s : State) : Out :=
  .next
    (let dec := decoderOf s core
    match dec.queue[n]? with
    | none => s
    | some r =>
      if streamHeld s r.stream || earlierOpen s r.gid r.owed || stillParked s r.stream.tenant r.page then s
      else if r.fatal then endUnserved (dropQueued s core n) r 12
      else
        let keyed := fun k gen => dec.entries.filter fun e => e.fits r.stream k gen r.first
        engineTurn s (decoderPort core)
          (spanPlaces s r.stream (serviceSpans s r.stream r.windows r.ford r.first r.count fun k gen => (keyed k gen).isEmpty))
          fun s =>
            match findFord s r.stream r.windows r.ford r.first r.count with
            | .error e => stopQueued s core n r e
            | .ok (head, m, k, d, fb) =>
              let mine := keyed k d.gen
              match mine.find? fun e => e.active with
              | some e => joinOrEnd s core n r head m d e fb
              | none =>
                if !(automatonFor s dec n) then s
                else
                  match bestResting mine with
                  | some e => joinOrEnd s core n r head m d e fb
                  | none => startWalk s core n r head m k d fb)

/-! ## Walks (R234, R235, R240) -/

/-- A walk ends in an error: every request still joined ends with the cause, and the entry is discarded. -/
def failWalk (s : State) (core : Nat) (e : FordEntry) (cause : Nat) : State :=
  e.reqs.foldl (fun s r => endRequest s r cause) (dropEntry s core e.wid)

/-- A walk with its requests; with none left it rests (R234, R236). -/
def settleWalk (s : State) (core : Nat) (e : FordEntry) : State :=
  updEntry s core e.wid fun _ =>
    if e.reqs.isEmpty then
      { e with active := false, walk := { e.walk with units := [] }, used := s.now, parkedOn := none, fatal := false }
    else e

/-- The requests whose windows do not hold what a step reads end alone with cause 14 (R240). -/
def judgeRequests (s : State) (e : FordEntry) (xs : List Span) : State × FordEntry :=
  let bad := e.reqs.filter fun r => !(meshOk e.stream r.windows false xs)
  (bad.foldl (fun s r => endRequest s r 14) s, { e with reqs := e.reqs.filter fun r => meshOk e.stream r.windows false xs })

/-- What stops a walk. -/
def stopWalk (s : State) (core : Nat) (e : FordEntry) (stop : DecStop) : State :=
  match stop with
  | .err c => failWalk s core e c
  | .page va w f =>
    faultPage (updEntry s core e.wid fun _ => { e with parkedOn := some (va / 65536, w), fatal := false }) e.stream.tenant va 4
      (if w then .write else .read) f
  | .ask d rva va => askRemote (updEntry s core e.wid fun _ => e) e.stream.tenant d rva va

/-- The capture of a walk that has emitted a triangle, for the requests that were joined; then the walk goes on, or rests. -/
def captureWalk (s : State) (core : Nat) (e : FordEntry) (m : Mesh) (wss : List (List Window)) : State :=
  match captureFord s e.stream m e.next e.walk wss (.op e.wid) with
  | .error stop => stopWalk s core { e with due := some wss } stop
  | .ok (s, next) => settleWalk (clearFetched s e.stream.tenant) core { e with next := next, due := none, parkedOn := none }

/-- One symbol of a walk (R234): a triangle is delivered, and then the walk captures. -/
def stepWalk (s : State) (core : Nat) (e : FordEntry) (m : Mesh) : State :=
  let reads := stepReads s e.stream m e.walk
  match walkSymbol s e.stream m e.walk with
  | .error (.err c) =>
    let (s, e) := judgeRequests s e reads
    failWalk s core e c
  | .error stop => stopWalk s core e stop
  | .ok (w, t) =>
    let (s, e) := judgeRequests s e reads
    if e.reqs.isEmpty then dropEntry s core e.wid
    else
      match t with
      | none => settleWalk (clearFetched s e.stream.tenant) core { e with walk := w, parkedOn := none }
      | some t =>
        let wss := e.reqs.map fun r => r.windows
        let (s, reqs) := deliverAll (w.tri - 1) (triangleWords m w t) e.reqs s
        captureWalk s core { e with walk := w, reqs := reqs, parkedOn := none } m wss

/-- WALK_STEP (R234): by the header as the walk read it. -/
def execWalkStep (core wid : Nat) (s : State) : Out :=
  .next
    (match (decoderOf s core).entries.find? fun e => e.wid == wid with
    | none => s
    | some e =>
      if !e.active || stillParked s e.stream.tenant e.parkedOn then s
      else if e.fatal then failWalk s core e 12
      else
        match parseMesh e.stream.base e.head, e.due with
        | none, _ => failWalk s core e 1
        | some m, some wss =>
          engineTurn s (decoderPort core) (spanPlaces s e.stream (captureSpans s e.stream m e.next e.walk)) fun s =>
            captureWalk s core e m wss
        | some m, none =>
          if e.reqs.isEmpty then settleWalk s core e
          else
            engineTurn s (decoderPort core) (spanPlaces s e.stream (symbolSpans s e.stream m e.next e.walk)) fun s =>
              stepWalk s core e m)

/-! ## MDEC and TBREAD (R243) -/

/-- A scalar operand of R241: its full 64-bit value. -/
def scalarOf (i : Iss) (c : VCode) : Nat := if c.toNat < 504 then (kGet i.g (c.toNat - 384)).toNat else 0

/-- The stream that an identifier names, or the trap. -/
def streamOf (s : State) (i : Iss) (t : BitVec 6) : Except Nat Stream :=
  match teamOf s i.g with
  | none => .error 0x12
  | some tm =>
    match tfind tm.tensors t.toNat with
    | none => .error 0x12
    | some d => if d.isMesh then .ok ⟨i.g.tenant, d.space, d.base⟩ else .error 0x01

def windowsOf (s : State) (g : Group) : List Window := ((teamOf s g).map fun t => t.windows).getD []

/-- MDEC. -/
def execMdec (a b : VCode) (t : BitVec 6) (buf : BitVec 2) (p : MCode) (fs : FSel) (s : State) : Out :=
  issue s { fs := fs, vs := [vscalar a, vscalar b], ms := [p.toNat], bufs := [buf.toNat] } p fun i =>
    let x := scalarOf i a
    let y := scalarOf i b
    match streamOf s i t with
    | .error c => raise s i c p
    | .ok st =>
      if 2 ^ 32 ≤ x ∨ fld y 5 11 ≠ 0 ∨ 2 ^ 32 ≤ y ∨ fld y 0 5 = 0 ∨ 16 < fld y 0 5 then raise s i 0x01 p
      else
        let flag := i.flag fs
        let pend := fun (s : State) => updGroup s i.gid fun g => markPending g [.buf buf.toNat] flag
        if i.active p = 0 then oweNothing (pend s) i flag []
        else
          let d := decoderOf s i.g.core
          if 64 ≤ d.queue.length then park s i .retry
          else
            let (id, s) := oweResult s i.gid .other flag [] [] 1
            let r : DecReq :=
              { gid := i.gid, buf := buf.toNat, stream := st, ford := fld y 16 16, first := x, count := fld y 0 5
                windows := windowsOf s i.g, owed := id, delivered := 0, fellBack := false, joined := false, origin := 0
                parkedOn := none, fatal := false }
            let s := updBuf (pend s) i.gid buf.toNat fun _ => ⟨0, []⟩
            done (bumpSeq (putDecoder s i.g.core { d with queue := d.queue ++ [r] })) i

/-- TBREAD's word for one lane. -/
def bufWord (b : TriBuf) (x : Nat) : Nat :=
  if x < 256 ∧ x / 16 < bufDelivered b then (tget 0 b.words x).toNat else 0

/-- TBREAD. -/
def execTbread (d a : VCode) (buf : BitVec 2) (p : MCode) (fs : FSel) (s : State) : Out :=
  issue s { fs := fs, vs := [vreg d, vsrc a], ms := [p.toNat], bufs := [buf.toNat], tracked := 1 } p fun i =>
    let r := vName i.g d.toNat
    let ls := lanesOf (i.active p)
    let b := bufOf i.g buf.toNat
    if ls.isEmpty then oweNothing s i (i.flag fs) [r]
    else if bufState b = 2 then raiseBuffer s i b p
    else oweRay s i (i.flag fs) [r] (ls.map fun l => .lane r l (BitVec.ofNat 32 (bufWord b (srcLane i.g a.toNat l 1))))

/-! ## MSTAT (R244) -/

/-- One word owed to every active lane. -/
def oweWord (s : State) (i : Iss) (flag : Option Nat) (d : VCode) (p : MCode) (x : W32) : State :=
  let r := vName i.g d.toNat
  oweRay s i flag [r] ((lanesOf (i.active p)).map fun l => .lane r l x)

/-- MSTAT.buf. -/
def execMstatBuf (d : VCode) (buf : BitVec 2) (p : MCode) (fs : FSel) (s : State) : Out :=
  issue s { fs := fs, vs := [vreg d], ms := [p.toNat], bufs := [buf.toNat], tracked := 1 } p fun i =>
    if i.active p = 0 then oweNothing s i (i.flag fs) [vName i.g d.toNat]
    else oweWord s i (i.flag fs) d p (bufOf i.g buf.toNat).status

/-- Bytes that MSTAT.ford reads: the value, or what it meets; `none` inside says that the bytes lie outside the windows. -/
def statRead (s : State) (st : Stream) (ws : List Window) (a n : Nat) : Got (Option Bytes) :=
  if !(meshOk st ws false [(a, a + n)]) then .ok none
  else if st.space = 2 then .ok (some (readBytes s.scratch a n))
  else
    match readM s st.tenant a n .read with
    | .ok b => .ok (some b)
    | .page va f => .page va f
    | .failed va => .failed va
    | .wait d r va => .wait d r va

/-- MSTAT.ford: it parks while its reads wait. -/
def execMstatFord (d a : VCode) (t : BitVec 6) (p : MCode) (fs : FSel) (s : State) : Out :=
  issue s { fs := fs, vs := [vreg d, vscalar a], ms := [p.toNat], tracked := 1 } p fun i =>
    let j := scalarOf i a
    match streamOf s i t with
    | .error c => raise s i c p
    | .ok st =>
      let ws := windowsOf s i.g
      let give := fun (x : Nat) => oweWord (clearFetched s i.g.tenant) i (i.flag fs) d p (BitVec.ofNat 32 x)
      if 65536 ≤ j then raise s i 0x01 p
      else if i.active p = 0 then oweNothing s i (i.flag fs) [vName i.g d.toNat]
      else if writesOpen s i.gid i.g s.nextSeq then park s i .retry
      else
        withRead s i 4 p (statRead s st ws st.base 64) fun h =>
          match h with
          | none => raiseAt s i 0x07 0 (i.active p) st.base
          | some b =>
            match parseMesh st.base b with
            | none => give 0xFFFFFFFF
            | some m =>
              if m.fords ≤ j then give 0xFFFFFFFF
              else
                withRead s i 4 p (statRead s st ws (fordAddr m j) 16) fun e =>
                  match e with
                  | none => raiseAt s i 0x07 0 (i.active p) (fordAddr m j)
                  | some b => give (leNat (b.drop 12))

/-! ## MPATCH (R245) -/

/-- MPATCH: sent to the stream; its status is owed. -/
def execMpatch (d a b : VCode) (t : BitVec 6) (p : MCode) (fs : FSel) (s : State) : Out :=
  issue s { fs := fs, vs := [vreg d, vscalar a, vscalar b], ms := [p.toNat], tracked := 1 } p fun i =>
    let v := scalarOf i a
    let c := scalarOf i b
    match streamOf s i t with
    | .error c => raise s i c p
    | .ok st =>
      if 2 ^ 32 ≤ v ∨ 2 ^ 48 ≤ c then raise s i 0x01 p
      else if i.active p = 0 then oweNothing s i (i.flag fs) [vName i.g d.toNat]
      else
        let (id, s) := oweResult s i.gid .other (i.flag fs) [vName i.g d.toNat] [] 1
        let r : PatchReq :=
          { gid := i.gid, head := none, stream := st, vertex := v, corr := (upto 3).map fun j => signedAt 16 (fld c (16 * j) 16)
            lanes := i.active p, owed := id, granted := false, result := none, windows := windowsOf s i.g, parkedOn := none
            fatal := false }
        done (bumpSeq { s with patches := s.patches ++ [r] }) i

def updPatch (s : State) (n : Nat) (r : PatchReq) : State := { s with patches := s.patches.set n r }

/-- One word for the active lanes of an owed result's destination. -/
def owedLanes (s : State) (id : Nat) (lanes : W32) (x : Nat) : List RegWrite :=
  match s.owed.find? fun o => o.id == id with
  | some o => o.dests.flatMap fun r => (lanesOf lanes).map fun l => .lane r l (BitVec.ofNat 32 x)
  | none => []

/-- An MPATCH has ended: the stream is released and the status word delivered. -/
def endPatch (s : State) (n : Nat) (r : PatchReq) (status : Nat) : State :=
  let s := { s with patches := removeIx s.patches n }
  fillOwed s (some r.owed) (owedLanes s r.owed r.lanes status)

/-- The error form of a status word. -/
def errorStatus (cause : Nat) : Nat := 0x20000000 + cause * 2 ^ 24

/-- What stops an MPATCH. -/
def stopPatch (s : State) (n : Nat) (r : PatchReq) (stop : DecStop) : State :=
  match stop with
  | .err c => endPatch s n r (errorStatus c)
  | .page va w f =>
    faultPage (updPatch s n { r with parkedOn := some (va / 65536, w) }) r.stream.tenant va 4 (if w then .write else .read) f
  | .ask d rva va => askRemote s r.stream.tenant d rva va

/-- Whether a correction fits a width. -/
def corrFits (w : Nat) (c : Int) : Bool := decide (-(2 ^ (w - 1) : Nat) ≤ c) && decide (c < (2 ^ (w - 1) : Nat))

/-- The writes of a patch: vertex v's correction bits, then the entries that become stale (R245). -/
def patchWrites (s : State) (r : PatchReq) (m : Mesh) : Dec (List (Nat × Bytes)) := do
  let pos := 3 * m.w * r.vertex
  let x := bitSpan m.corAt pos (3 * m.w)
  let old ← meshReadIn s r.stream r.windows x.1 (x.2 - x.1)
  let new := (upto 3).foldl (fun n j => n + wrapBits m.w (r.corr.getD j 0) * 2 ^ (m.w * j)) 0
  let o := leNat old
  let sh := pos % 8
  let word := o % 2 ^ sh + new * 2 ^ sh + o / 2 ^ (sh + 3 * m.w) * 2 ^ (sh + 3 * m.w)
  let stale ← (upto (m.fords - 1)).foldlM
    (fun (acc : List (Nat × Bytes)) j => do
      let b ← meshReadIn s r.stream r.windows (fordAddr m (j + 1)) 16
      let e := fordFields b
      .ok (if e.state ≠ 0 ∧ r.vertex < e.verts then
        acc ++ [(fordAddr m (j + 1) + 12, leBytes 2 (e.gen + 1) ++ leBytes 1 2)] else acc)) []
  .ok ((x.1, leBytes old.length word) :: stale)

/-- The resting entries of a stream that lie past a vertex leave every core's cache. -/
def purgeFords (s : State) (st : Stream) (v : Nat) : State :=
  { s with decoders := s.decoders.map fun p =>
    (p.1, { p.2 with entries := p.2.entries.filter fun e => !(e.stream == st && !e.active && decide (v < e.walk.verts)) }) }

/-- Whether a walk of a stream is active on any core or rasteriser (R238). -/
def walksActive (s : State) (st : Stream) : Bool :=
  (s.decoders.any fun d => d.2.entries.any fun e => e.active && e.stream == st) ||
    s.rasters.any fun r => r.stream == st && r.walk.isSome

/-- The patch takes effect. -/
def applyPatch (s : State) (n : Nat) (r : PatchReq) (m : Mesh) : State :=
  match patchWrites s r m with
  | .error e => stopPatch s n r e
  | .ok ws =>
    if !(meshOk r.stream r.windows true (writeSpans ws)) then endPatch s n r (errorStatus 14)
    else
      match meshWrite s r.stream (.op r.owed) ws with
      | .error e => stopPatch s n r e
      | .ok s' =>
        let st := 0x10000000 + (ws.length - 1)
        let s' := noteWrites (purgeFords (clearFetched s' r.stream.tenant) r.stream r.vertex)
        if !(posting s' r.stream.tenant (.op r.owed)) then endPatch s' n r st
        else updPatch s' n { r with result := some st, parkedOn := none }

/-- The checks of an MPATCH before its hold, by the header as it has read it. -/
def checkPatch (r : PatchReq) (m : Mesh) : Nat := if m.verts ≤ r.vertex then 8 else if r.corr.all (corrFits m.w) then 0 else 11

/-- What a patch reads and writes. -/
def patchSpans (r : PatchReq) (m : Mesh) : List Span :=
  bitSpan m.corAt (3 * m.w * r.vertex) (3 * m.w) :: (fromTo 1 m.fords).map fun j => (fordAddr m j, fordAddr m j + 16)

/-- An MPATCH reads the header, checks its operands, and then asks for its hold. -/
def readPatch (s : State) (n : Nat) (r : PatchReq) : State :=
  match readMesh s r.stream r.windows with
  | .error e => stopPatch s n r e
  | .ok (head, m) =>
    if checkPatch r m ≠ 0 then endPatch s n r (errorStatus (checkPatch r m))
    else updPatch (clearFetched s r.stream.tenant) n { r with head := some head, parkedOn := none }

/-- STREAM_HOLD_GRANT (R238, R245): MPATCH n reads its header, or its hold is granted, or the patch that holds its stream takes effect
once no walk of the stream is active, or it ends once its writes to another device are performed. -/
def execStreamHoldGrant (n : Nat) (s : State) : Out :=
  .next
    (match s.patches[n]? with
    | none => s
    | some r =>
      match r.result with
      | some x =>
        if posting s r.stream.tenant (.op r.owed) then s
        else endPatch s n r (if r.fatal then errorStatus 12 else x)
      | none =>
        if earlierOpen s r.gid r.owed || stillParked s r.stream.tenant r.parkedOn then s
        else if r.fatal then endPatch s n r (errorStatus 12)
        else
          match r.head.bind (parseMesh r.stream.base) with
          | none =>
            engineTurn s ((tfind s.groups r.gid).elim 0 fun g => decoderPort g.core)
              (spanPlaces s r.stream [(r.stream.base, r.stream.base + 64)]) fun s => readPatch s n r
          | some m =>
            if !r.granted then if streamHeld s r.stream then s else updPatch s n { r with granted := true, parkedOn := none }
            else if walksActive s r.stream then s
            else
              engineTurn s ((tfind s.groups r.gid).elim 0 fun g => decoderPort g.core) (spanPlaces s r.stream (patchSpans r m))
                fun s => applyPatch s n r m)

end Sys2Proof.Machine
end

