-- ==== Sys2Proof/Machine/Fetch.lean ====
section
/-! DEFINITION. Fetching a clause and checking its header (R21, R31 to R33), what stands at a slot's index (steps 1 to 3 of
R34), and the selection of clauses by a partition's scheduler (R19, R284 to R287). -/

namespace Sys2Proof.Machine

open Sys2Proof

/-! ## Headers (R31, R32) -/

def classOfCode : Nat → Option EngineClass
  | 0 => some .valu
  | 1 => some .salu
  | 2 => some .mem
  | 3 => some .async
  | 4 => some .mtx
  | 5 => some .ray
  | 6 => some .chan
  | 7 => some .sys
  | _ => none

/-- A header flag field: 0 to 11 name a flag, 15 none, 12 to 14 are illegal. -/
def flagField (x : Nat) : Option (Option Nat) := if x < 12 then some (some x) else if x = 15 then some none else none

/-- A header that passes R32. -/
def parseHeader (w : W64) : Option Header :=
  let x := w.toNat
  match classOfCode (fld x 60 4), flagField (fld x 40 4), flagField (fld x 36 4) with
  | some c, some a, some b =>
    if fld x 24 8 = 0x5A ∧ fld x 0 24 = 0 ∧ (a = none ∨ a ≠ b) then
      some ⟨c, fld x 56 4, BitVec.ofNat 12 (fld x 44 12), a, b, fld x 33 3, x.testBit 32⟩
    else none
  | _, _, _ => none

/-- What fetching a clause meets. -/
inductive Fetched' where
  | clause (c : Clause)
  | illegal (word : Option W64)
  | page (va : Nat) (forbidden : Bool)
  deriving DecidableEq, Repr

/-- A word of program memory. -/
def fetchWord (s : State) (tn va : Nat) : Got Bytes := readUnit s tn va 8 .exec

/-- n instruction words from an address. -/
def fetchWords (s : State) (tn va : Nat) : Nat → Got (List W64)
  | 0 => .ok []
  | n + 1 =>
    match fetchWord s tn va with
    | .ok b =>
      match fetchWords s tn (va + 8) n with
      | .ok ws => .ok (BitVec.ofNat 64 (leNat b) :: ws)
      | e => e
    | .page a f => .page a f
    | .failed a => .failed a
    | .wait d r a => .wait d r a

/-- The clause at a header address (R21, R30, R32, R97); at or above 2^52 no word stands. Its words are read whole, as they stand when
it is called: of the two that R33 allows for a word stored unordered, the one of that moment (log entry 76). -/
def fetchClause (s : State) (tn hdr : Nat) : Fetched' :=
  if 2 ^ 52 ≤ hdr then .illegal none
  else
    match fetchWord s tn hdr with
    | .ok b =>
      let w := BitVec.ofNat 64 (leNat b)
      match parseHeader w with
      | none => .illegal (some w)
      | some h =>
        match fetchWords s tn (hdr + 8) (h.count + 1) with
        | .ok ws => .clause ⟨h, ws⟩
        | .page a f => .page a f
        | .failed a | .wait _ _ a => .page a true
    | .page a f => .page a f
    | .failed a | .wait _ _ a => .page a true

/-! ## The instruction at a slot's index (R34 steps 1 to 3) -/

/-- The class whose range holds an opcode (R55). -/
def classOfOpcode (op : Nat) : Option EngineClass :=
  if op < 0x100 then some .valu
  else if op < 0x180 then some .salu
  else if op < 0x200 then some .mem
  else if op < 0x240 then some .async
  else if op < 0x280 then some .mtx
  else if op < 0x2C0 then some .ray
  else if op < 0x300 then some .chan
  else if op < 0x340 then some .sys
  else none

/-- The instruction, or the trap of step 1, 2 or 3. -/
def checkWord (c : EngineClass) (w : W64) : Except Nat Instr :=
  if assignedOpcode (opcodeOf w) then
    if opcodeOf w ≠ 0 ∧ classOfOpcode (opcodeOf w) ≠ some c then .error 0x02
    else
      match decode w with
      | .ok i => .ok i
      | .error _ => .error 0x01
  else .error 0x01

/-- The instruction at a slot's index, if it decodes. -/
def Iss.instr (i : Iss) : Option Instr :=
  match checkWord i.cl.hdr.cls i.word with
  | .ok x => some x
  | .error _ => none

/-! ## Clause selection (R19, R284 to R287) -/

/-- Whether a group may start clauses at all: the dies run, its team has started and its tenant runs. -/
def mayIssue (s : State) (g : Group) : Bool :=
  moduleUp s &&
  (match teamOf s g with
    | some t => t.started
    | none => false) &&
  (match tfind s.tenants g.tenant with
    | some t => t.state == .running
    | none => false)

/-- Whether slot n of a group waits for a clause to begin. -/
def wantsClause (s : State) (g : Group) (n : Nat) : Bool :=
  g.park.isNone && !(heldBack g n) && mayIssue s g &&
    match slotOf g n with
    | some sl => sl.clause.isNone && decide (sl.notBefore ≤ s.now)
    | none => false

/-- A trap at the fetch of a slot's clause: at the header address with index 0 (R32). -/
def fetchTrap (s : State) (gid n code : Nat) (word : W64) : State :=
  let s := updGroup s gid fun g =>
    setSlot g n ((slotOf g n).map fun sl => { sl with path := { sl.path with ix := 0 } })
  match tfind s.groups gid with
  | some g =>
    match slotOf g n with
    | some sl => takeTrap s gid n code 0 sl.path.mask (if code = 0x13 then sl.path.hdr else 0) word
    | none => s
  | none => s

/-- The fetch of a slot's next clause parked on a page, or no longer. -/
def setFetchWait (s : State) (gid n : Nat) (w : Option (Nat × Bool)) : State :=
  updGroup s gid fun g => setSlot g n ((slotOf g n).map fun sl => { sl with fetchWait := w })

/-- What the fetch of a slot's next clause leads to before selection: a trap, a page fault that it parks on once, or for a resumed
index one past the clause's end the next clause (R295). After a fatal reply it is trap 0x13 (R304); the word that the bank then
reports has not been read: free. -/
def prepareSlot (s : State) (gid n : Nat) : State :=
  match tfind s.groups gid with
  | none => s
  | some g =>
    if !(wantsClause s g n) then s
    else
      match slotOf g n with
      | none => s
      | some sl =>
        match fetchClause s g.tenant sl.path.hdr, sl.fetchWait with
        | _, some (_, true) =>
          let (w, s) := drawFree s
          fetchTrap s gid n 0x13 w
        | .illegal (some w), _ => fetchTrap s gid n 0x02 w
        | .illegal none, _ =>
          let (w, s) := drawFree s
          fetchTrap s gid n 0x02 w
        | .page va f, w =>
          if (w.map fun x => x.1) = some (va / 65536) ∧ (faultOn s g.tenant va .exec).isSome then s
          else faultPage (setFetchWait s gid n (some (va / 65536, false))) g.tenant va 7 .exec f
        | .clause c, _ =>
          let s := fillCache (if sl.fetchWait.isSome then setFetchWait s gid n none else s) g.tenant sl.path.hdr .exec
          let sl := { sl with fetchWait := none }
          if sl.resumed ∧ sl.path.ix = c.words.length then
            updGroup s gid fun g => setSlot g n (some { sl with
              path := { sl.path with hdr := nextHeader sl.path.hdr c, ix := 0 }, resumed := false })
          else if sl.resumed ∧ c.words.length < sl.path.ix then fetchTrap s gid n 0x02 (headerWord c.hdr)
          else s

/-! ### What the first instruction would exceed (R171) -/

/-- How many destinations an instruction would owe, where that may be more than one. -/
def trackedBy : Instr → Nat
  | .ldl _ _ _ _ w _ _ | .ldt _ _ _ _ w _ _ | .ldd _ _ _ _ w _ _ => widthRegs w
  | .atomT _ _ _ _ _ w _ _ | .atomD _ _ _ _ _ w _ _ _ | .atomM _ _ _ _ _ w _ _ _ => if w == .w64 then 2 else 1
  | .mwait _ _ _ w _ _ => widthRegs w
  | .rinit _ _ _ aux _ => if aux = 0 then 12 else 13
  | .rbox _ _ _ _ _ => 12
  | .rtri _ _ _ _ _ _ => 4
  | _ => 0

/-- The lanes of an access that checks let pass, as requests to a space. -/
def neededLanes (s : State) (i : Iss) (sp : LSpace) (write guarded : Bool) (n : Nat) (addr : VCode) (base : KCode) (p : MCode)
    (off : BitVec 12) : Space × List LaneReq :=
  let las := laneAddrs i p base addr off
  ((placeIn i.g sp 0).1, match checkLanes s i sp write guarded n las with
    | some _ => []
    | none => las.map fun x => ⟨x.1, (placeIn i.g sp x.2).2, 0, 0⟩)

/-- The same for an atomic on M: its lanes in main memory. -/
def neededMain (s : State) (i : Iss) (op : AtomOp) (addr : VCode) (base : KCode) (p : MCode) (off : BitVec 12) : Space × List LaneReq :=
  (.m, (laneAddrs i p base addr off).filterMap fun x => match atomPlace s i.g.tenant op x.2 with
    | .ok (.main pa) => some ⟨x.1, pa, 0, 0⟩
    | _ => none)

/-- The lanes that an instruction would send to slices. -/
def neededAt (s : State) (i : Iss) : Instr → Space × List LaneReq
  | .ldl _ a b p w _ off => neededLanes s i .l false false (widthBytes w) a b p off
  | .ldd _ a b p w _ off => neededLanes s i .d false false (widthBytes w) a b p off
  | .stl _ a b p w off => neededLanes s i .l true true (widthBytes w) a b p off
  | .std _ a b p w off => neededLanes s i .d true true (widthBytes w) a b p off
  | .atomD _ _ a b p w _ _ off | .redD _ _ a b p w _ off => neededLanes s i .d true true (widthBytes w) a b p off
  | .atomM op _ a b p _ _ _ off | .redM op _ a b p _ _ off => neededMain s i op a b p off
  | .mwait _ b p w _ off =>
    (.d, ((lanesOf (i.active p)).take 1).filterMap fun l =>
      let a := addressOf i b 0 off
      match checkLanes s i .d false false (widthBytes w) [(l, a)] with
      | some _ => none
      | none => some ⟨l, a, 0, 0⟩)
  | _ => (.d, [])

/-- Whether a clause's next instruction would exceed one of the limits of R171, or of R24. -/
def firstExceeds (s : State) (i : Iss) : Bool :=
  i.cl.hdr.cls.limited &&
    match checkWord i.cl.hdr.cls i.word with
    | .ok ins =>
      pastLimit s i.gid i.cl.hdr.cls (trackedBy ins) ||
        let x := neededAt s i ins
        sliceFull s i.g.core x.1 x.2
    | .error _ => pastLimit s i.gid i.cl.hdr.cls 0

/-- Whether the group's other slot waits at one of these limits inside a clause that it has begun: the group's clauses of those
classes then stall with it (R171; log entry 94). -/
def siblingExceeds (s : State) (i : Iss) : Bool :=
  i.cl.hdr.cls.limited && !heldBack i.g (1 - i.n) &&
    match slotOf i.g (1 - i.n) with
    | some sl =>
      match sl.clause with
      | some c => firstExceeds s { i with n := 1 - i.n, slot := sl, cl := c }
      | none => false
    | none => false

/-- A candidate of a selection (R285). -/
structure Cand where
  gid : Nat
  n : Nat
  pipe : Pipe
  prom : Option Nat
  prio : Nat
  gives : Bool
  age : Nat
  clause : Clause
  deriving DecidableEq, Repr

/-- The ranking of R285. -/
def Cand.before (a b : Cand) : Bool :=
  let tie := decide (a.age < b.age) || (decide (a.age = b.age) && decide (a.n < b.n))
  match a.prom, b.prom with
  | some x, some y => decide (x < y) || (decide (x = y) && tie)
  | some _, none => true
  | none, some _ => false
  | none, none =>
    if a.prio ≠ b.prio then decide (b.prio < a.prio)
    else if a.gives ≠ b.gives then b.gives
    else tie

/-- The eligible clause of a slot, as a candidate (R19, R22, R24, R171, R178, R287). -/
def candidate (s : State) (rot : List Nat) (level gid n : Nat) (g : Group) : Option Cand :=
  if !(wantsClause s g n) || (holdsIssueSlot g).isSome then none
  else
    match slotOf g n with
    | none => none
    | some sl =>
      match fetchClause s g.tenant sl.path.hdr with
      | .clause c =>
        let waits := (upto 12).any fun f => c.hdr.wait.getLsbD f && flagCount g f != 0
        let i : Iss := ⟨gid, n, g, { sl with clause := some c }, c⟩
        let limited := firstExceeds s i || siblingExceeds s i
        let fenced := c.hdr.cls.fenced && !(openFences s gid g).isEmpty
        let throttled := c.hdr.cls == .mem && rot.contains gid && !((rot.take (max 1 (8 - level))).contains gid)
        if (waits && !sl.resumed) || limited || fenced || throttled then none
        else some ⟨gid, n, c.hdr.cls.pipe, sl.promoted, g.priority, sl.giveWay, g.placed, c⟩
      | _ => none

/-- The best of a list. -/
def bestCand : List Cand → Option Cand
  | [] => none
  | c :: cs =>
    match bestCand cs with
    | none => some c
    | some d => if c.before d then some c else some d

/-- Candidates taken while issue slots and candidates remain (R285). -/
def selectClauses : Nat → List Cand → List Pipe → Nat → List Cand
  | 0, _, _, _ => []
  | fuel + 1, cs, busy, free =>
    if free = 0 then []
    else
      match bestCand (cs.filter fun c => !(busy.contains c.pipe)) with
      | none => []
      | some c => c :: selectClauses fuel (cs.filter fun d => d.gid != c.gid) (c.pipe :: busy) (free - 1)

/-- A clause begins: its words as fetched, the marks of the flags it waits on cleared, the count of R286 restarted. -/
def beginClause (s : State) (c : Cand) : State :=
  updGroup s c.gid fun g =>
    match slotOf g c.n with
    | none => g
    | some sl =>
      let g := if sl.resumed then g
        else { g with marks := g.marks.filter fun m => match m.flag with
          | some f => !(c.clause.hdr.wait.getLsbD f)
          | none => true }
      setSlot g c.n (some { sl with clause := some c.clause, resumed := false, passed := 0, promoted := none, giveWay := false })

/-- CLAUSE_SELECTION (R285): headers are fetched and checked; while an issue slot is free, clauses are selected into the free issue
slots, and an eligible candidate with a free pipe that is not chosen is passed over (R286). -/
def execClauseSelection (core part : Nat) (s : State) : Out :=
  let here := fun (s : State) => s.groups.filter fun q => q.2.core == core && q.2.position % 8 == part && q.2.live
  let s := (here s).foldl (fun s q => prepareSlot (prepareSlot s q.1 0) q.1 1) s
  let p := tget (⟨[], 0⟩ : Partition) s.partitions (8 * core + part)
  let rot := p.rotation.filter fun x => groupLive s x
  let level := tget 0 s.congestion (clusterOf core)
  let busy := busyPipes s core part
  if 3 ≤ busy.length then .next s
  else
  let cands := (here s).flatMap fun q => ([0, 1].filterMap fun n => candidate s rot level q.1 n q.2)
  let open_ := cands.filter fun c => !(busy.contains c.pipe)
  let chosen := selectClauses 3 cands busy (3 - busy.length)
  let s := chosen.foldl beginClause s
  let s := (open_.filter fun c => !(chosen.any fun d => d.gid == c.gid && d.n == c.n)).foldl
    (fun s c => updGroup s c.gid fun g =>
      setSlot g c.n ((slotOf g c.n).map fun sl => { sl with passed := sl.passed + 1 })) s
  let mem := (chosen.filter fun c => c.pipe == .m).map fun c => c.gid
  let rot := rot.filter (fun g => !(mem.contains g)) ++ rot.filter mem.contains
  .next { s with partitions := tset ⟨[], 0⟩ s.partitions (8 * core + part) ⟨rot, p.promotions + 1⟩ }

/-- STARVATION_PROMOTION (R286). -/
def execStarvationPromotion (gid slot : Nat) (s : State) : Out :=
  .next (updGroup s gid fun g =>
    setSlot g slot ((slotOf g slot).map fun sl =>
      if 256 ≤ sl.passed ∧ sl.promoted = none then
        { sl with promoted := some (tget (⟨[], 0⟩ : Partition) s.partitions (8 * g.core + g.position % 8)).promotions }
      else sl))

/-- CONGESTION_LEVEL_UPDATE (R287): a router's level, saturating at 7, from the occupancy of its queues, which is an input. -/
def execCongestionLevelUpdate (cluster level : Nat) (s : State) : Out :=
  .next (if cluster < 64 then { s with congestion := tset 0 s.congestion cluster (min 7 level) } else s)

end Sys2Proof.Machine
end

