-- ==== Sys2Proof/Machine/Chan.lean ====
section
/-! DEFINITION. Neighbour channels (R137 to R147): SEND, RECV, PEEK, and the arrival of entries and credits. -/

namespace Sys2Proof.Machine

open Sys2Proof

/-- The direction and the queue of a channel immediate (R49). -/
def chDir (ch : BitVec 6) : Nat := ch.toNat / 8
def chQueue (ch : BitVec 6) : Nat := ch.toNat % 8

/-- The receiving side of a direction: what a SEND toward it arrives at (R137). -/
def opposite (d : Nat) : Nat :=
  match d with
  | 0 => 1
  | 1 => 0
  | 2 => 4
  | 3 => 5
  | 4 => 2
  | 5 => 3
  | d => d

/-- The index of queue q of side or direction d of group g. -/
def chIndex (g d q : Nat) : Nat := 64 * g + 8 * d + q

/-- How many groups a team has. -/
def Team.groupCount (t : Team) : Nat := (t.threads + 31) / 32

/-- The group after, or before, group g on its core (R137): the groups of a core are 64 consecutive ones at most. -/
def Team.nextGroup (t : Team) (g : Nat) (back : Bool) : Nat :=
  let lo := g / 64 * 64
  let n := min 64 (t.groupCount - lo)
  lo + (g - lo + (if back then n - 1 else 1)) % n

/-- The partner at a direction: its team, its group index and the latency; none where there is none (R137, R139, R140). -/
def partner (s : State) (g : Group) (d : Nat) (back : Bool) : Option (Nat × Nat × Nat) :=
  if d ≤ 1 then some (g.team, g.index, 1)
  else
    match teamOf s g with
    | none => none
    | some t =>
      if d = 6 then some (g.team, t.nextGroup g.index back, 2)
      else
        match tfind s.grids t.grid with
        | none => none
        | some gr =>
          if !gr.block.ports then none
          else
            let x := t.index % gr.block.gx
            let y := t.index / gr.block.gx
            let to_ : Option (Nat × Nat) := match d with
              | 2 => if 0 < y then some (x, y - 1) else none
              | 3 => if x + 1 < gr.block.gx then some (x + 1, y) else none
              | 4 => if y + 1 < gr.block.gy then some (x, y + 1) else none
              | _ => if 0 < x then some (x - 1, y) else none
            match to_ with
            | none => none
            | some (x', y') =>
              match s.teams.find? fun p => p.2.grid == t.grid && p.2.index == y' * gr.block.gx + x' with
              | none => none
              | some p =>
                let far := match p.2.cores.head?, t.cores.head? with
                  | some a, some b => dieOf a != dieOf b
                  | _, _ => false
                some (p.1, g.index, if far then 16 else 4)

/-- The lane whose value element j of a SEND takes (R137, R144). -/
def sendLane (d j : Nat) : Nat := if d = 0 then (j + 31) % 32 else if d = 1 then (j + 1) % 32 else j

/-- A park at a channel instruction that ends, by its completion or its stall budget, is a sample of the channel monitor (R351). -/
def sampleChannel (s : State) (i : Iss) : State :=
  match i.g.park with
  | some r => updTenant s i.g.tenant fun t => { t with chanMon := t.chanMon.sample (s.now - r.since) }
  | none => s

/-- SEND (R144). With no active lane a channel instruction does nothing at all (DEDUCED: R140's trap included). -/
def execSend (ch : BitVec 6) (data : VCode) (p : MCode) (s : State) : Out :=
  issue s { vs := [vsrc data], ms := [p.toNat] } p fun i =>
    if i.active p = 0 then done s i
    else
      match partner s i.g (chDir ch) false with
      | none => raise s i 0x0D p
      | some (tm, g, lat) =>
        let me := chIndex i.g.index (chDir ch) (chQueue ch)
        let credits := ((teamOf s i.g).map fun t => tget 4 t.credits me).getD 0
        if credits = 0 then park s i .retry
        else
          let e := lanes.map fun j =>
            let l := sendLane (chDir ch) j
            if laneIn (i.active p) l then BitVec.ofNat 32 (srcLane i.g data.toNat l 1) else 0
          let s := sampleChannel s i
          let s := updTeam s i.g.team fun t => { t with credits := tset 4 t.credits me (credits - 1) }
          done { s with sends := s.sends ++ [⟨tm, chIndex g (opposite (chDir ch)) (chQueue ch), e, s.now + lat⟩] } i

/-- RECV and PEEK (R144). -/
def takeEntry (s : State) (ch : BitVec 6) (data : VCode) (p : MCode) (fs : FSel) (pop : Bool) : Out :=
  issue s { fs := fs, vs := [vreg data], ms := [p.toNat], tracked := 1 } p fun i =>
    if i.active p = 0 then done s i
    else
      match partner s i.g (chDir ch) true with
      | none => raise s i 0x0D p
      | some (tm, g, lat) =>
        let d := vName i.g data.toNat
        let me := chIndex i.g.index (chDir ch) (chQueue ch)
        match ((teamOf s i.g).map fun t => tget [] t.queues me).getD [] with
        | [] => park s i .retry
        | e :: rest =>
          let s := sampleChannel s i
          let s := if pop then
              let s := updTeam s i.g.team fun t => { t with queues := tset [] t.queues me rest }
              { s with returns := s.returns ++ [⟨tm, chIndex g (opposite (chDir ch)) (chQueue ch), [], s.now + lat⟩] }
            else s
          done (oweResult s i.gid .other (i.flag fs) [d]
            ((lanesOf (i.active p)).map fun l => .lane d l (e.getD l 0)) 0).2 i

/-- RECV. -/
def execRecv (ch : BitVec 6) (data : VCode) (p : MCode) (fs : FSel) (s : State) : Out :=
  takeEntry s ch data p fs true

/-- PEEK. -/
def execPeek (ch : BitVec 6) (data : VCode) (p : MCode) (fs : FSel) (s : State) : Out :=
  takeEntry s ch data p fs false

/-- Whether a flight is the first to its queue of those in a list. -/
def firstFlight (xs : List ChanFlight) (n : Nat) (x : ChanFlight) : Bool :=
  !((xs.take n).any fun y => y.team == x.team && y.index == x.index)

/-- CHANNEL_ENTRY_ARRIVAL (R142). -/
def execChannelEntryArrival (n : Nat) (s : State) : Out :=
  .next
    (match s.sends[n]? with
    | some x =>
      if x.due ≤ s.now ∧ firstFlight s.sends n x then
        updTeam { s with sends := removeIx s.sends n } x.team fun t =>
          { t with queues := tset [] t.queues x.index (tget [] t.queues x.index ++ [x.entry]) }
      else s
    | none => s)

/-- CHANNEL_CREDIT_RETURN (R142). -/
def execChannelCreditReturn (n : Nat) (s : State) : Out :=
  .next
    (match s.returns[n]? with
    | some x =>
      if x.due ≤ s.now then
        updTeam { s with returns := removeIx s.returns n } x.team fun t =>
          { t with credits := tset 4 t.credits x.index (tget 4 t.credits x.index + 1) }
      else s
    | none => s)

/-- Whether a group's wait has exceeded a budget of units of 1,024 clocks, which starts again on restore; 0 is no limit (R146,
R155). -/
def budgetSpent (s : State) (g : Group) (since : Nat) (budget : W32) : Bool :=
  budget != 0 && decide (1024 * budget.toNat < s.now - max since g.restart)

/-- CHANNEL_STALL_BUDGET (R146): 0x0E at the parked instruction. -/
def execChannelStallBudget (gid : Nat) (s : State) : Out :=
  .next
    (match tfind s.groups gid with
    | none => s
    | some g =>
      match g.park, tfind s.tenants g.tenant with
      | some r, some t =>
        match issOf s gid r.slot with
        | none => s
        | some i =>
          if !(budgetSpent s g r.since t.config.chanBudget) then s
          else
            match i.instr with
            | some (.send _ _ p) | some (.recv _ _ p _) | some (.peek _ _ p _) => raise (sampleChannel s i) i 0x0E p
            | _ => s
      | _, _ => s)

end Sys2Proof.Machine
end

