-- ==== Sys2Proof/Machine/Proc.lean ====
section
/-! DEFINITION. Processions (R148 to R158): domains and handles, entrants and their keys' homes, OENTER, OWAIT, OLEAVE, OSKIP,
OOPEN and OCLOSE, and the messages between groups and homes. -/

namespace Sys2Proof.Machine

open Sys2Proof

/-! ## Domains and handles (R148) -/

/-- The handle of an open index. -/
def handleOf (ix : Nat) (d : Domain) : W64 :=
  BitVec.ofNat 64 (d.generation.toNat * 2 ^ 16 + (if d.device then 0 else d.die) * 2 ^ 8 + (if d.device then 2 ^ 7 else 0)
    + (if d.trap then 2 ^ 6 else 0) + ix)

/-- The domain that a handle names, while its index is open with its generation. -/
def domainOf (s : State) (tn : Nat) (h : W64) : Option Domain :=
  match tfind s.tenants tn with
  | some t =>
    match tfind t.domains (fld h.toNat 0 6) with
    | some d => if d.opened && handleOf (fld h.toNat 0 6) d == h then some d else none
    | none => none
  | none => none

/-- A handle that a group may use: valid, and of its die where the scope is a die. -/
def usableDomain (s : State) (i : Iss) (h : W64) : Option Domain :=
  match domainOf s i.g.tenant h with
  | some d => if d.device || d.die == dieOf i.g.core then some d else none
  | none => none

/-- The home slice of a key (R150), counted over all dies. -/
def homeOf (tn ix : Nat) (d : Domain) (key : W64) : Nat :=
  let x := key.toNat ^^^ (tn * 2 ^ 60) ^^^ (ix * 2 ^ 52)
  let h := (upto 8).foldl (fun h j => h ^^^ fld x (8 * j) 8) 0
  if d.device then 32 * fld h 5 2 + h % 32 else 32 * d.die + h % 32

/-- A domain opened at the lowest closed index, with its handle; none: no index is closed (R149). -/
def openDomain (s : State) (tn die : Nat) (dev tr : Bool) (base : W32) : Option (W64 × State) :=
  match tfind s.tenants tn with
  | none => none
  | some t =>
    match (upto 64).find? fun n => !(((tfind t.domains n).map fun d => d.opened).getD false) with
    | none => none
    | some n =>
      let d : Domain := ⟨true, ((tfind t.domains n).map fun d => d.generation).getD 0 + 1, dev, die, tr, base⟩
      some (handleOf n d, updTenant s tn fun t => { t with domains := tput t.domains n d })

/-- OOPEN (R149). -/
def execOopen (seq : VCode) (dom : KCode) (dev tr : Bool) (s : State) : Out :=
  issue s { vs := [vbro seq], ks := [dom.toNat] } 0 fun i =>
    match openDomain s i.g.tenant (dieOf i.g.core) dev tr (BitVec.ofNat 32 (broadcast i seq)) with
    | none => raise s i 0x10
    | some (h, s) => finish s i (applyWrite i.g (kWrite i.g dom.toNat h))

/-! ## Key entries (R150) -/

def sameKey (e : KeyEntry) (tn ix : Nat) (key : W64) : Bool := e.tenant == tn && e.domain == ix && e.key == key

def keyEntry (s : State) (tn ix : Nat) (key : W64) : Option KeyEntry := s.keys.find? fun e => sameKey e tn ix key

def updKey (s : State) (tn ix : Nat) (key : W64) (h : KeyEntry → KeyEntry) : State :=
  { s with keys := updateWhere (fun e => sameKey e tn ix key) h s.keys }

/-- The keys named get their entries, in order; true where one finds its slice and the overflow area full. -/
def ensureKeys (s : State) (tn ix : Nat) (d : Domain) : List W64 → State × Bool
  | [] => (s, false)
  | k :: ks =>
    if (keyEntry s tn ix k).isSome then ensureKeys s tn ix d ks
    else
      let home := homeOf tn ix d k
      let here := (s.keys.filter fun e => e.slice == home && !e.overflow).length
      let spill := (s.keys.filter fun e => e.tenant == tn && e.overflow).length
      if 1024 ≤ here ∧ 65536 ≤ spill then (s, true)
      else ensureKeys { s with keys := s.keys ++ [⟨tn, ix, k, home, decide (1024 ≤ here), d.base, none, []⟩] } tn ix d ks

/-! ## Entrants (R151, R152) -/

/-- The active lanes with their keys and numbers. -/
def laneKeys (i : Iss) (m : W32) (key seq : VCode) : List (Nat × W64 × W32) :=
  (lanesOf m).map fun l => (l, BitVec.ofNat 64 (srcLane i.g key.toNat l 2), BitVec.ofNat 32 (srcLane i.g seq.toNat l 1))

/-- Whether two lanes present one key with different numbers. -/
def clashes (xs : List (Nat × W64 × W32)) : Bool := xs.any fun x => xs.any fun y => x.2.1 == y.2.1 && x.2.2 != y.2.2

/-- A lane's holding. -/
def Group.holding (g : Group) (l : Nat) : Option Holding := g.holdings.find? fun h => h.lane == l

/-- The entrants of lanes, one per key, with fresh identifiers. -/
def makeEntrants (s : State) (xs : List (Nat × W64 × W32)) : List Entrant × State :=
  ((xs.map fun x => x.2).eraseDups).foldl
    (fun (acc : List Entrant × State) k =>
      let (id, s) := freshId acc.2
      (acc.1 ++ [⟨id, k.1, k.2, maskOf ((xs.filter fun x => x.2 == k).map fun x => x.1), none⟩], s)) ([], s)

/-- The codes of the fields of OENTER and OWAIT (R50, R151). -/
def enterUses (key seq : VCode) (dom : KCode) (mr p : MCode) (fs : FSel) : Uses :=
  { fs := fs, vs := [vsrc key 2, vsrc seq], ks := [dom.toNat], ms := [p.toNat], mdst := [mr.toNat], tracked := 1 }

/-- OENTER or OWAIT is done: the result mask is owed (R152, R155). -/
def endEnter (s : State) (i : Iss) (mr : MCode) (fs : FSel) (admitted : W32) : State :=
  done (oweResult s i.gid .other (i.flag fs) [.m mr.toNat] [.mask mr.toNat admitted] 0).2 i

/-- The lanes that are admitted so far. -/
def admittedLanes (held : W32) (ents : List Entrant) : W32 :=
  ents.foldl (fun m e => if e.answer = some true then m ||| e.lanes else m) held

/-- OENTER, and OWAIT where `wait` says so (R152). -/
def enterOp (s : State) (key seq : VCode) (dom : KCode) (mr p : MCode) (fs : FSel) (wait part : Bool) : Out :=
  issue s (enterUses key seq dom mr p fs) p fun i =>
    match i.g.park with
    | some ⟨_, _, .procession _ ents held _⟩ =>
      if ents.any fun e => e.answer.isNone then s else endEnter s i mr fs (admittedLanes held ents)
    | _ =>
      let h := kGet i.g dom.toNat
      let ix := fld h.toNat 0 6
      let xs := laneKeys i (i.active p) key seq
      match usableDomain s i h with
      | none => raise s i 0x01 p
      | some d =>
        if clashes xs then raise s i 0x01 p
        else
          let mine := fun (x : Nat × W64 × W32) => match i.g.holding x.1 with
            | some y => y.handle == h && y.key == x.2.1 && y.seq == x.2.2
            | none => false
          let rest := if wait then xs.filter fun x => !(mine x) else xs
          if rest.any fun x => (i.g.holding x.1).isSome then raise s i 0x0F p
          else
            match ensureKeys s i.g.tenant ix d ((rest.map fun x => x.2.1).eraseDups) with
            | (s, true) => raise s i 0x10 p
            | (s, false) =>
              let held := if wait then maskOf ((xs.filter mine).map fun x => x.1) else 0
              let (ents, s) := makeEntrants s rest
              if ents.isEmpty then endEnter s i mr fs held
              else
                park { s with procMsgs := s.procMsgs ++ ents.map fun e =>
                  ProcMsg.request i.g.tenant ix e.key ⟨e.id, i.gid, e.seq, e.lanes, false, s.now⟩ (!part) } i
                  (.procession (!part) ents held h)

/-- OENTER.all. -/
def execOenterAll (key seq : VCode) (dom : KCode) (mr p : MCode) (fs : FSel) (s : State) : Out :=
  enterOp s key seq dom mr p fs false false

/-- OENTER.part. -/
def execOenterPart (key seq : VCode) (dom : KCode) (mr p : MCode) (fs : FSel) (s : State) : Out :=
  enterOp s key seq dom mr p fs false true

/-- OWAIT. -/
def execOwait (key seq : VCode) (dom : KCode) (mr p : MCode) (fs : FSel) (s : State) : Out :=
  enterOp s key seq dom mr p fs true false

/-- OWAIT.part. -/
def execOwaitPart (key seq : VCode) (dom : KCode) (mr p : MCode) (fs : FSel) (s : State) : Out :=
  enterOp s key seq dom mr p fs true true

/-- OLEAVE (R153, R157): posted. A closed handle serves only lanes that hold under it: with no active lane it is not valid (log entry
96). -/
def execOleave (key : VCode) (dom : KCode) (p : MCode) (s : State) : Out :=
  issue s { vs := [vsrc key 2], ks := [dom.toNat], ms := [p.toNat] } p fun i =>
    let h := kGet i.g dom.toNat
    let xs := laneKeys i (i.active p) key key
    let ok := fun (opened : Bool) => xs.all fun x => match i.g.holding x.1 with
      | some y => y.handle == h && (!opened || y.key == x.2.1)
      | none => false
    let legal := match domainOf s i.g.tenant h with
      | some _ => (usableDomain s i h).isSome && ok true
      | none => !xs.isEmpty && ok false
    if legal then done (bumpSeq (leaveLanes s i.gid i.pathMask (i.active p))) i else raise s i 0x01 p

/-- OSKIP (R154). -/
def execOskip (key seq : VCode) (dom : KCode) (p : MCode) (s : State) : Out :=
  issue s { vs := [vsrc key 2, vsrc seq], ks := [dom.toNat], ms := [p.toNat] } p fun i =>
    match i.g.park with
    | some ⟨_, _, .oskip _ _ fin⟩ => if fin then done s i else s
    | _ =>
      let h := kGet i.g dom.toNat
      let ix := fld h.toNat 0 6
      match laneKeys i (i.active p) key seq with
      | [] => finish s i i.g
      | x :: xs =>
        match usableDomain s i h with
        | none => raise s i 0x01 p
        | some d =>
          if xs.any fun y => y.2 != x.2 then raise s i 0x01 p
          else
            match ensureKeys s i.g.tenant ix d [x.2.1] with
            | (s, true) => raise s i 0x10 p
            | (s, false) =>
              let (id, s) := freshId s
              park { s with procMsgs := s.procMsgs ++
                [.request i.g.tenant ix x.2.1 ⟨id, i.gid, x.2.2, i.active p, true, s.now⟩ true] } i (.oskip id h false)

/-- A domain closed (R157): its entries are discarded, and everything that waits for one is answered as timed out. -/
def closeDomain (s : State) (tn ix : Nat) : State :=
  let mine := fun (e : KeyEntry) => e.tenant == tn && e.domain == ix
  let waiting := (s.keys.filter mine).flatMap fun e => e.waiting.map fun w => ProcMsg.answer w.gid w.entrant false
  let msgs := s.procMsgs.filterMap fun m => match m with
    | .request t x _ w _ => some (if t = tn ∧ x = ix then ProcMsg.answer w.gid w.entrant false else m)
    | .leave t x _ _ _ _ _ => if t = tn ∧ x = ix then none else some m
    | .answer _ _ _ => some m
  updTenant { s with keys := s.keys.filter (fun e => !(mine e)), procMsgs := msgs ++ waiting } tn fun t =>
    { t with domains := t.domains.map fun p => if p.1 = ix then (p.1, { p.2 with opened := false }) else p }

/-- OCLOSE (R157). -/
def execOclose (dom : KCode) (s : State) : Out :=
  issue s { ks := [dom.toNat] } 0 fun i =>
    let h := kGet i.g dom.toNat
    match usableDomain s i h with
    | none => raise s i 0x01
    | some _ => done (closeDomain s i.g.tenant (fld h.toNat 0 6)) i

/-! ## At the homes (R152 to R154, R158) -/

/-- The waiting request that a home admits next: its number is next expected; in replay it is the recorded grantee's. -/
def nextWaiter (s : State) (tn ix : Nat) (e : KeyEntry) : Option KeyWaiter :=
  e.waiting.find? fun w => w.seq == e.next &&
    (w.skip || !(replaying s tn) ||
      match almNext s tn 3 (Config.almanacHash ix e.key.toNat).toNat none with
      | some x => x.agent == almAgent s w.gid
      | none => false)

/-- An admission recorded, or the recorded one used up (R311, R312). -/
def noteAdmission (s : State) (tn ix : Nat) (e : KeyEntry) (w : KeyWaiter) : State :=
  let h := (Config.almanacHash ix e.key.toNat).toNat
  if replaying s tn then
    match almNext s tn 3 h (some (almAgent s w.gid)) with
    | some x => almTake s tn x w.entrant
    | none => s
  else almRecord s tn 3 (almAgent s w.gid) h (leBytes 8 w.seq.toNat)

/-- An entrant admitted at its key's home: it becomes the holder, and its wait is sampled (R152, R351). -/
def admitEntrant (s : State) (tn ix : Nat) (e : KeyEntry) (w : KeyWaiter) : State :=
  let s := updKey s tn ix e.key fun e => { e with waiting := e.waiting.erase w, holder := some (w.entrant, w.gid) }
  let s := updTenant s tn fun t => { t with procMon := t.procMon.sample (s.now - w.since) }
  noteAdmission s tn ix e w

/-- A key whose next entrant replay keeps waiting. -/
def waitAdmission (s : State) (tn ix : Nat) (e : KeyEntry) : State :=
  match if replaying s tn then e.waiting.find? fun w => w.seq == e.next else none with
  | some w => almWait s tn 3 (Config.almanacHash ix e.key.toNat).toNat w.entrant
  | none => s

/-- A key's home answers the waiting requests that it can satisfy: an OSKIP passes its number, an entrant is admitted. -/
def settleLoop (tn ix : Nat) (key : W64) : Nat → State → State
  | 0, s => s
  | fuel + 1, s =>
    match keyEntry s tn ix key with
    | none => s
    | some e =>
      if e.holder.isSome then s
      else
        match nextWaiter s tn ix e with
        | none => waitAdmission s tn ix e
        | some w =>
          let s := { s with procMsgs := s.procMsgs ++ [.answer w.gid w.entrant true] }
          if w.skip then
            settleLoop tn ix key fuel
              (updKey s tn ix key fun e => { e with waiting := e.waiting.erase w, next := e.next + 1 })
          else admitEntrant s tn ix e w

/-- A key's home admits what it can. -/
def settleKey (s : State) (tn ix : Nat) (key : W64) : State :=
  settleLoop tn ix key (((keyEntry s tn ix key).map fun e => e.waiting.length + 1).getD 0) s

/-- Whether a message is the first of its group to its key. -/
def firstMsg (ms : List ProcMsg) (gid tn ix : Nat) (key : W64) : Bool :=
  !(ms.any fun m => match m with
    | .request t x k w _ => w.gid == gid && t == tn && x == ix && k == key
    | .leave t x k _ g _ _ => g == gid && t == tn && x == ix && k == key
    | .answer _ _ _ => false)

/-- PROCESSION_HOME_REQUEST (R152). -/
def execProcessionHomeRequest (n : Nat) (s : State) : Out :=
  .next
    (match s.procMsgs[n]? with
    | some (.request tn ix key w blocking) =>
      if !(firstMsg (s.procMsgs.take n) w.gid tn ix key) then s
      else
        let s := { s with procMsgs := removeIx s.procMsgs n }
        match keyEntry s tn ix key with
        | none => { s with procMsgs := s.procMsgs ++ [.answer w.gid w.entrant false] }
        | some e =>
          if blocking || (e.holder.isNone && e.next == w.seq) then
            settleKey (updKey s tn ix key fun e => { e with waiting := e.waiting ++ [w] }) tn ix key
          else { s with procMsgs := s.procMsgs ++ [.answer w.gid w.entrant false] }
    | _ => s)

/-- A leave is a release at its domain's scope of what its path issued and its group has seen before it (R153, R185, R186), of a group that
has ended too. On a die these accesses count from then on as performed for its agents, and it waits for the MWAITs among them; on the
module it waits until they are performed, those on host pages for its agents. True: it waits. -/
def releaseLeave (s : State) (tn ix seq : Nat) (x : Released) : State × Bool :=
  let device := match (tfind s.tenants tn).bind fun t => tfind t.domains ix with
    | some d => d.device
    | none => true
  let passes := fun (r : Req) => x.holds seq r && !r.isCaptured
  let marked := fun (r : Req) => passes r && !r.isMwait && (!device || r.space == .host)
  ({ s with reqs := s.reqs.map fun r =>
      if marked r then { r with reach := r.reach.or (if device then .dev else .die) } else r },
    s.reqs.any fun r => passes r && !(marked r))

/-- PROCESSION_LEAVE_ARRIVAL (R153): once what its release passes on is performed, next expected advances. -/
def execProcessionLeaveArrival (n : Nat) (s : State) : Out :=
  .next
    (match s.procMsgs[n]? with
    | some (.leave tn ix key entrant gid seq x) =>
      let (s', waits) := releaseLeave s tn ix seq x
      if !(firstMsg (s.procMsgs.take n) gid tn ix key) || waits then s
      else
        let s := { s' with procMsgs := removeIx s'.procMsgs n }
        settleKey (updKey s tn ix key fun e =>
          if e.holder = some (entrant, gid) then { e with holder := none, next := e.next + 1 } else e) tn ix key
    | _ => s)

/-- An answer noted by the parked instruction; an admitted entrant's lanes hold its key. -/
def noteAnswer (g : Group) (entrant : Nat) (ok : Bool) : Group :=
  match g.park with
  | some ⟨sl, c, .procession b ents held h⟩ =>
    let now := (ents.filter fun e => e.id == entrant && e.answer.isNone && ok).flatMap fun e =>
      (lanesOf e.lanes).map fun l => (⟨l, h, e.key, e.seq, e.id⟩ : Holding)
    { g with
      park := some ⟨sl, c, .procession b (updateWhere (fun e => e.id == entrant) (fun e => { e with answer := some ok }) ents)
        held h⟩
      holdings := g.holdings ++ now }
  | some ⟨sl, c, .oskip e h _⟩ => if e = entrant then { g with park := some ⟨sl, c, .oskip e h true⟩ } else g
  | _ => g

/-- PROCESSION_ADMISSION_RETURN (R152); the answer to a saved group stays until it is restored (R156). -/
def execProcessionAdmissionReturn (n : Nat) (s : State) : Out :=
  .next
    (match s.procMsgs[n]? with
    | some (.answer gid entrant ok) =>
      if s.saved.any fun c => (tfind c.groups gid).isSome then s
      else
      let s := { s with procMsgs := removeIx s.procMsgs n }
      match tfind s.groups gid with
      | none => s
      | some _ => updGroup s gid fun g => noteAnswer g entrant ok
    | _ => s)

/-- Requests of entrants withdrawn, on their way and at their homes. -/
def withdraw (s : State) (gid : Nat) (ids : List Nat) : State :=
  { s with
    procMsgs := s.procMsgs.filter fun m => match m with
      | .request _ _ _ w _ => !(w.gid == gid && ids.contains w.entrant)
      | _ => true
    keys := s.keys.map fun e => { e with waiting := e.waiting.filter fun w => !(w.gid == gid && ids.contains w.entrant) } }

/-- Admissions withdrawn: each key returns to held-by-none with next expected unchanged (R155). -/
def unadmit (s : State) (gid : Nat) (ids : List Nat) : State :=
  let mine := s.keys.filter fun e => match e.holder with
    | some (en, g) => g == gid && ids.contains en
    | none => false
  let s := updGroup s gid fun g => { g with holdings := g.holdings.filter fun h => !(ids.contains h.entrant) }
  mine.foldl (fun s e => settleKey (updKey s e.tenant e.domain e.key fun e => { e with holder := none }) e.tenant e.domain e.key)
    { s with procMsgs := s.procMsgs.filter fun m => match m with
      | .answer g e _ => !(g == gid && ids.contains e)
      | _ => true }

/-- Whether an answer for an entrant is on its way. -/
def answering (s : State) (gid entrant : Nat) : Bool :=
  s.procMsgs.any fun m => match m with
    | .answer g e _ => g == gid && e == entrant
    | _ => false

/-- PROCESSION_STALL_BUDGET (R154, R155): the wait ends as a time-out, or in 0x11. An entrant already admitted at its home whose
answer is on its way still counts as admitted. -/
def execProcessionStallBudget (gid : Nat) (s : State) : Out :=
  .next
    (match tfind s.groups gid with
    | none => s
    | some g =>
      match g.park, tfind s.tenants g.tenant with
      | some ⟨sl, since, why⟩, some t =>
        match issOf s gid sl with
        | none => s
        | some i =>
          if !(budgetSpent s g since t.config.procBudget) then s
          else
            match why with
            | .procession true ents _ h =>
              let open_ := ents.filter fun e => e.answer.isNone && !(answering s gid e.id)
              if open_.isEmpty then s
              else
                let p := match i.instr with
                  | some (.oenterAll _ _ _ _ p _) | some (.owait _ _ _ _ p _) => p
                  | _ => 0
                let s := withdraw s gid (open_.map fun e => e.id)
                if ((domainOf s g.tenant h).map fun d => d.trap).getD false then
                  raise (unadmit s gid (ents.map fun e => e.id)) i 0x11 p
                else (open_.foldl (fun s e => updGroup s gid fun g => noteAnswer g e.id false) s)
            | .oskip e _ false =>
              if answering s gid e then s
              else
                match i.instr with
                | some (.oskip _ _ _ p) => raise (withdraw s gid [e]) i 0x11 p
                | _ => s
            | _ => s
      | _, _ => s)

end Sys2Proof.Machine
end

