-- ==== Sys2Proof/Machine/Raster.lean ====
section
/-! DEFINITION. The die rasteriser (R246 to R249): RASTER, the walk of its range, the classification of triangles, fragment
groups, small-path records, and how a RASTER ends. -/

namespace Sys2Proof.Machine

open Sys2Proof

/-! ## RASTER (R246) -/

/-- A raster block's 64 bytes. -/
structure RasterBlock where
  first : Nat
  count : Nat
  ford : Nat
  transform : Nat
  node : Nat
  target : Nat
  width : Nat
  height : Nat
  launch : Nat
  graph : Nat
  reserved : Bool
  deriving DecidableEq, Repr

def parseRaster (b : Bytes) : RasterBlock :=
  let f := fieldAt b
  ⟨f 0 4, f 4 4, f 8 2, f 10 1, f 11 1, f 12 4, f 16 2, f 18 2, f 24 8, f 32 8, f 20 4 == 0 && f 40 24 == 0⟩

/-- The fields are legal: the transform is an f32 matrix of four rows and columns, and the graph holds the node. -/
def RasterBlock.legal (r : RasterBlock) (t : Tensor) (g : Option Graph) : Bool :=
  r.reserved && decide (1 ≤ r.count) && decide (1 ≤ r.width) && decide (r.width ≤ 16384) && decide (1 ≤ r.height)
    && decide (r.height ≤ 16384) && blockAddrLegal r.launch && t.format == 8 && t.rank == 2 && t.ext == [4, 4, 1, 1]
    && decide (1 ≤ t.space) && decide (t.space ≤ 3) &&
    match g with
    | some g => decide (r.node < g.nodes.length) && r.node != g.entry
    | none => false

/-- An element of a T, D or M tensor. -/
def elementAt (s : State) (i : Iss) (t : Tensor) (c : List Nat) : Got Nat :=
  let a := t.addr c
  if t.space = 1 then .ok (readSpace s (.t i.g.team) a t.z)
  else if t.space = 2 then .ok (readSpace s .d a t.z)
  else
    match readM s i.g.tenant a t.z .read with
    | .ok b => .ok (leNat b)
    | .page va f => .page va f
    | .failed va => .failed va
    | .wait d r va => .wait d r va

/-- The matrix's elements, row by row. -/
def matrixFrom (s : State) (i : Iss) (t : Tensor) : List Nat → Got (List W32)
  | [] => .ok []
  | n :: ns =>
    match elementAt s i t [n % 4, n / 4, 0, 0] with
    | .ok x =>
      match matrixFrom s i t ns with
      | .ok xs => .ok (BitVec.ofNat 32 x :: xs)
      | e => e
    | .page va f => .page va f
    | .failed va => .failed va
    | .wait d r va => .wait d r va

/-- A RASTER accepted. -/
def enterRaster (s : State) (i : Iss) (d : VCode) (p : MCode) (fs : FSel) (st : Stream) (r : RasterBlock) (mx : List W32)
    (b : LaunchBlock) : State :=
  let (owed, s) := oweResult s i.gid .other (i.flag fs) [vName i.g d.toNat] [] 1
  let (id, s) := freshId s
  let x : Raster :=
    { id := id, gid := i.gid, tenant := i.g.tenant, die := dieOf i.g.core, stream := st, first := r.first, count := r.count
      ford := r.ford, matrix := mx, width := r.width, height := r.height, target := r.target, node := r.node
      graph := BitVec.ofNat 64 r.graph, launch := b, queue := i.g.priority, handle := none, walk := none, head := [], next := 0, due := false
      windows := windowsOf s i.g, done := 0, pending := [], tileSeq := [], grids := [], error := none, lanes := i.active p
      owed := owed, parkedOn := none, fatal := false }
  done (bumpSeq { (clearFetched s i.g.tenant) with rasters := s.rasters ++ [x] }) i

/-- A RASTER whose matrix or launch block meets a fatal fault ends at once with cause 12 (R246, R304). -/
def faultRaster (s : State) (i : Iss) (d : VCode) (p : MCode) (fs : FSel) : State :=
  let (id, s) := oweResult s i.gid .other (i.flag fs) [vName i.g d.toNat] [] 1
  done (bumpSeq (fillOwed s (some id) (owedLanes s id (i.active p) (errorStatus 12)))) i

/-- RASTER: its block, its matrix and its launch block are read at acceptance, after the group's own earlier stores. A matrix outside Tsize
or the windows traps as the block does, and one in another space than T, D and M is a field error (log entry 100). -/
def execRaster (d a : VCode) (t : BitVec 6) (p : MCode) (fs : FSel) (s : State) : Out :=
  issue s { fs := fs, vs := [vreg d, vscalar a], ms := [p.toNat], tracked := 1 } p fun i =>
    match streamOf s i t, teamOf s i.g with
    | .error c, _ => raise s i c p
    | .ok _, none => s
    | .ok st, some tm =>
      let va := scalarOf i a
      if i.active p = 0 then oweNothing s i (i.flag fs) [vName i.g d.toNat]
      else if va % 64 ≠ 0 then raiseAt s i 0x05 0 (i.active p) va
      else if tm.tsize < va + 64 then raiseAt s i 0x06 0 (i.active p) va
      else if writesOpen s i.gid i.g s.nextSeq then s
      else
        let r := parseRaster (readBytes tm.tmem va 64)
        match tfind tm.tensors r.transform with
        | none => raise s i 0x12 p
        | some mt =>
          let mt := mt.loopback s
          if !(r.legal mt (graphOfHandle s i.g.tenant (BitVec.ofNat 64 r.graph))) then raise s i 0x01 p
          else
            match checkSpan tm mt.space false (mt.span [0, 0, 0, 0] [4, 4, 1, 1]) with
            | some e => raiseAt s i e.1 0 (i.active p) e.2
            | none =>
              let fatal := fun (_ : Nat) => faultRaster s i d p fs
              withReadOr s i 5 (matrixFrom s i mt (upto 16)) fatal fun mx =>
                withReadOr s i 5 (loadLaunchAt s i.g.tenant r.launch) fatal fun b =>
                  match b with
                  | .error _ => raise s i 0x01 p
                  | .ok (b, _) => enterRaster s i d p fs st r mx b

/-! ## The transform (R247) -/

/-- x ÷ y, rounded once; a quotient of zeros or infinities is NaN. -/
def divVal (x y : FVal) : FVal :=
  match x, y with
  | .nan _, _ | _, .nan _ => .nan false
  | .inf a, .inf _ => let _ := a; .nan false
  | .inf a, .fin n _ _ => .inf (a != n)
  | .fin a _ _, .inf n => .fin (a != n) 0 0
  | .fin a m _, .fin n k _ =>
    if k = 0 then (if m = 0 then .nan false else .inf (a != n))
    else unpack fmtF32 (roundQuot fmtF32 .rne x.dy y.dy (a != n)).1

/-- A clip component: the dot product of a row with (x, y, z, 1), rounded once. -/
def clipRow (mx : List W32) (v : List Nat) (row : Nat) : FVal :=
  let m := fun c => unpack fmtF32 (mx.getD (4 * row + c) 0).toNat
  let x := fun c => unpack fmtF32 (v.getD c 0)
  roundF .rne (fSum (fSum (fProd (m 0) (x 0)).1 (fProd (m 1) (x 1)).1) (fSum (fProd (m 2) (x 2)).1 (m 3)))

/-- A vertex on the screen: w, sx, sy, ndc.z, and whether every value is finite. -/
structure ScreenVertex where
  w : FVal
  sx : FVal
  sy : FVal
  z : FVal
  finite : Bool
  deriving DecidableEq, Repr

def FVal.one : FVal := .fin false 1 0

/-- A vertex transformed to the screen. -/
def screenVertex (r : Raster) (v : List Nat) : ScreenVertex :=
  let c := fun n => clipRow r.matrix v n
  let w := c 3
  let ndc := fun n => divVal (c n) w
  let half := fun (n : Nat) => FVal.fin false n (-1)
  let sx := roundF .rne (fProd (fSum (ndc 0) FVal.one) (half r.width)).1
  let sy := roundF .rne (fProd (fDiff FVal.one (ndc 1)) (half r.height)).1
  let all := [c 0, c 1, c 2, w, ndc 0, ndc 1, ndc 2, sx, sy]
  ⟨w, sx, sy, ndc 2, all.all FVal.isFin⟩

/-- All three vertices lie beyond one viewport edge. -/
def offScreen (r : Raster) (vs : List ScreenVertex) : Bool :=
  let z := FVal.fin false 0 0
  (vs.all fun v => fLess false v.sx z) || (vs.all fun v => fLess false (FVal.fin false r.width 0) v.sx)
    || (vs.all fun v => fLess false v.sy z) || vs.all fun v => fLess false (FVal.fin false r.height 0) v.sy

/-- A vertex as a point of the screen's plane. -/
def ScreenVertex.point (v : ScreenVertex) : Dy × Dy × Dy := (v.sx.dy, v.sy.dy, Dy.zero)

def ScreenVertex.none : ScreenVertex := ⟨.nan false, .nan false, .nan false, .nan false, false⟩

/-- The three points, the triangle seen from a pixel centre at half-integers. -/
def pointsFrom (vs : List ScreenVertex) (cx cy : Dy) : List (Dy × Dy × Dy) :=
  (upto 3).map fun n =>
    let p := (vs.getD n ScreenVertex.none).point
    (p.1.sub cx, p.2.1.sub cy, Dy.zero)

/-- The weights of the three vertices, not yet divided, and their sum. -/
def weightsOf (ps : List (Dy × Dy × Dy)) : Dy × Dy × Dy × Dy :=
  let at_ := fun n => ps.getD n (Dy.zero, Dy.zero, Dy.zero)
  let u := cross (at_ 2) (at_ 1)
  let v := cross (at_ 0) (at_ 2)
  let w := cross (at_ 1) (at_ 0)
  (u, v, w, (u.add v).add w)

/-- A triangle's area in pixels, rounded. -/
def screenArea (vs : List ScreenVertex) : FVal :=
  let d := (weightsOf (pointsFrom vs Dy.zero Dy.zero)).2.2.2
  unpack fmtF32 (roundDy fmtF32 .rne ⟨(d.m.natAbs : Int), d.e - 1⟩ false).1

/-! ## Tiles (R248) -/

/-- ⌊x⌋. -/
def Dy.floor (x : Dy) : Int := if 0 ≤ x.e then x.m * (2 ^ x.e.toNat : Nat) else x.m / (2 ^ (-x.e).toNat : Nat)

def minDy (x y : Dy) : Dy := if y.lt x then y else x
def maxDy (x y : Dy) : Dy := if x.lt y then y else x

/-- The pixels of one axis that a triangle's box meets, inside the viewport: first and last; none: no pixel. -/
def pixelRange (xs : List Dy) (size : Nat) : Option (Nat × Nat) :=
  let lo := (xs.foldl minDy (xs.headD Dy.zero)).floor
  let hi := (xs.foldl maxDy (xs.headD Dy.zero)).floor
  if hi < 0 ∨ (size : Int) ≤ lo then none else some (lo.toNat, (min hi (size - 1)).toNat)

/-- Whether a triangle covers the centre of a pixel of the viewport: edges by the top-left rule. -/
def covers (r : Raster) (vs : List ScreenVertex) (px py : Nat) : Bool :=
  let ps := pointsFrom vs ⟨2 * px + 1, -1⟩ ⟨2 * py + 1, -1⟩
  let at_ := fun n => ps.getD n (Dy.zero, Dy.zero, Dy.zero)
  let (u, v, w, det) := weightsOf ps
  let inside := fun (f : Dy) (a b c : Nat) => decide (0 < (f.mul det).m) || (f.isZero && edgeOwned (at_ a) (at_ b) (at_ c))
  decide (px < r.width) && decide (py < r.height) && !det.isZero && inside u 1 2 0 && inside v 2 0 1 && inside w 0 1 2

/-- The barycentrics of the ga and gb vertices at a pixel's centre. -/
def barycentric (vs : List ScreenVertex) (px py : Nat) : Nat × Nat :=
  let (u, v, _, det) := weightsOf (pointsFrom vs ⟨2 * px + 1, -1⟩ ⟨2 * py + 1, -1⟩)
  (triQuot u det, triQuot v det)

/-- A fragment group's v1 to v5 for tile (tx, ty); none: the triangle covers no centre there. -/
def tileRegs (r : Raster) (vs : List ScreenVertex) (tx ty : Nat) : Option (SMap W32) :=
  let at_ := fun l => (8 * tx + l % 8, 8 * ty + l / 8)
  let mask := fun l => let a := at_ l
    (if covers r vs a.1 a.2 then 1 else 0) + if covers r vs a.1 (a.2 + 4) then 2 else 0
  if lanes.all fun l => mask l == 0 then none
  else
    some (lanes.foldl
      (fun m l =>
        let a := at_ l
        let b0 := barycentric vs a.1 a.2
        let b1 := barycentric vs a.1 (a.2 + 4)
        [(1, mask l), (2, b0.1), (3, b0.2), (4, b1.1), (5, b1.2)].foldl
          (fun m x => tset 0 m (32 * x.1 + l) (BitVec.ofNat 32 x.2)) m) [])

/-- A tile's key. -/
def tileKey (r : Raster) (tx ty : Nat) : W64 := BitVec.ofNat 64 (r.target * 2 ^ 32 + ty * 2 ^ 16 + tx)

/-- A tile takes its next number: the rasteriser's counts, and the work there. -/
def tileWork (vs : List ScreenVertex) (tri : Nat) (r : Raster) (t : Nat × Nat) : Raster :=
  let key := tileKey r t.1 t.2
  let n := ((r.tileSeq.find? fun x => x.1 == key).map fun x => x.2).getD 0
  { r with
    tileSeq := (key, n + 1) :: r.tileSeq.filter fun x => x.1 != key
    pending := r.pending ++ [match tileRegs r vs t.1 t.2 with
      | some m => RasterWork.fragment tri n key m
      | none => .skip n key] }

/-- The tiles that a triangle's box meets, row by row. -/
def tilesOf (r : Raster) (vs : List ScreenVertex) : List (Nat × Nat) :=
  match pixelRange (vs.map fun v => v.sx.dy) r.width, pixelRange (vs.map fun v => v.sy.dy) r.height with
  | some (x0, x1), some (y0, y1) =>
    (upto (y1 / 8 + 1 - y0 / 8)).flatMap fun y => (upto (x1 / 8 + 1 - x0 / 8)).map fun x => (x0 / 8 + x, y0 / 8 + y)
  | _, _ => []

/-- A small-path record (R249). -/
def smallRecord (tri : Nat) (vs : List ScreenVertex) : Bytes :=
  leBytes 4 tri ++ (vs.flatMap fun v => leBytes 4 (roundVal .rne v.sx) ++ leBytes 4 (roundVal .rne v.sy)
    ++ leBytes 4 (roundVal .rne v.z)) ++ List.replicate 8 0

/-- A triangle classified (R247), in the order of the rule's table; a threshold of +∞ leaves the fixed rasteriser none. -/
def classify (r : Raster) (threshold : W32) (vs : List ScreenVertex) (tri : Nat) : Raster :=
  let r := { r with done := r.done + 1 }
  if vs.any fun v => !v.finite || fLe v.w (.fin false 0 0) then { r with pending := r.pending ++ [.record (smallRecord tri vs)] }
  else if offScreen r vs then r
  else if threshold ≠ 0x7F800000 && fLe (unpack fmtF32 threshold.toNat) (screenArea vs) then (tilesOf r vs).foldl (tileWork vs tri) r
  else { r with pending := r.pending ++ [.record (smallRecord tri vs)] }

/-! ## Work (R248, R249) -/

def putRaster (s : State) (r : Raster) : State := { s with rasters := updateWhere (fun x => x.id == r.id) (fun _ => r) s.rasters }

/-- The launch block of a fragment group: one group of 32 threads. Its completion word counts each fragment group's end (log entry
101). -/
def LaunchBlock.single (b : LaunchBlock) : LaunchBlock :=
  { b with threads := 32, ports := false, gx := 1, gy := 1, dependence := .none }

/-- A core of a die on which a fragment group fits now. -/
def placeOnDie (s : State) (tn die : Nat) (b : LaunchBlock) : Option Nat :=
  match tfind s.tenants tn with
  | none => none
  | some t =>
    if !(lFits s tn 1 b) then none
    else
      (sortBy (fun c => 64 - (freePositions s c).length) (t.config.cores.filter fun c => dieOf c == die)).find? fun c =>
        coreFits s (otherReserves s tn s.nextId) b 0 c

/-- A fragment group launched: a grid of its own with one group, its v1 to v5 and k1 to k4 (R248). -/
def launchFragment (s : State) (r : Raster) (core : Nat) (tri seq : Nat) (key : W64) (regs : SMap W32) : Nat × State :=
  let b := r.launch.single
  let (gr, s) := newGrid s r.tenant r.queue b none false
  let tm := s.nextId
  let ks : List (Nat × W64) :=
    [(1, BitVec.ofNat 64 tri), (2, r.handle.getD 0), (3, key), (4, BitVec.ofNat 64 seq)]
  match tfind s.grids gr with
  | none => (gr, s)
  | some g =>
    let s := placeTeam s gr g 0 [core] [] ks
    (gr, (((tfind s.teams tm).map fun t => t.live).getD []).foldl
      (fun s gid => updGroup s gid fun g => { g with vregs := regs }) s)

/-- A small-path record committed to the node: it takes a slot of the reservoir when one is free and no EMIT waits. One whose graph has
ended is dropped (log entry 102). -/
def commitRecord (s : State) (r : Raster) (b : Bytes) : Option State :=
  match graphOfHandle s r.tenant r.graph with
  | none => some s
  | some g =>
    if !g.emitQueue.isEmpty ∨ g.slots ≤ g.reserved.length then none
    else
      let k := (g.lowest 1).headD 0
      let s := updGraph s r.tenant g.slot fun g => { g with reserved := g.reserved ++ [⟨k, r.id, r.node, false⟩] }
      let s := noteWrites { s with scratch := writeBytes s.scratch (g.slotAddr k) b }
      some (publish s r.tenant g.slot k)

/-- The first piece of work done, if it can be now. -/
def rasterWork (s : State) (r : Raster) (w : RasterWork) (rest : List RasterWork) : State :=
  match w with
  | .fragment tri seq key regs =>
    match placeOnDie s r.tenant r.die r.launch.single with
    | none => s
    | some core =>
      let (gr, s) := launchFragment s r core tri seq key regs
      putRaster s { r with pending := rest, grids := r.grids ++ [gr] }
  | .skip seq key =>
    let h := r.handle.getD 0
    let ix := fld h.toNat 0 6
    match domainOf s r.tenant h with
    | none => putRaster s { r with pending := rest }
    | some d =>
      match ensureKeys s r.tenant ix d [key] with
      | (_, true) => s
      | (s, false) =>
        let (id, s) := freshId s
        putRaster { s with procMsgs := s.procMsgs ++ [.request r.tenant ix key ⟨id, r.id, BitVec.ofNat 32 seq, 0, true, s.now⟩ true] }
          { r with pending := rest }
  | .record b =>
    match commitRecord s r b with
    | none => s
    | some s => putRaster s { r with pending := rest }

/-! ## The walk of a RASTER -/

/-- A RASTER's walk ends in an error: nothing more is classified; a range that is complete stays so (R235), and the work of the triangles
classified before is still done (R234). -/
def failRaster (s : State) (r : Raster) (cause : Nat) : State :=
  putRaster s
    { r with
      error := if r.done = r.count then r.error else some cause, walk := none, due := false, parkedOn := none, fatal := false }

/-- What stops it. -/
def stopRaster (s : State) (r : Raster) (stop : DecStop) : State :=
  match stop with
  | .err c => failRaster s r c
  | .page va w f =>
    faultPage (putRaster s { r with parkedOn := some (va / 65536, w) }) r.tenant va 5 (if w then .write else .read) f
  | .ask d rva va => askRemote (putRaster s r) r.tenant d rva va

/-- Its walk begins at its ford, as a request is served (R236), with an automaton of its own. -/
def startRaster (s : State) (r : Raster) : State :=
  match findFord s r.stream r.windows r.ford r.first r.count with
  | .error e => stopRaster s r e
  | .ok (head, m, k, _, _) =>
    let w : Dec Walk := if k = 0 then .ok Walk.initial else do
      let b ← meshReadIn s r.stream r.windows (recordAddr m k) 192
      .ok (parseRecord b)
    match w with
    | .error e => stopRaster s r e
    | .ok w => putRaster (clearFetched s r.tenant) { r with walk := some w, head := head, next := k + 1, parkedOn := none }

/-- The capture after a triangle; after the last the walk is over. -/
def captureRaster (s : State) (r : Raster) (m : Mesh) (w : Walk) : State :=
  match captureFord s r.stream m r.next w [r.windows] (.op r.id) with
  | .error e => stopRaster s { r with due := true } e
  | .ok (s, next) =>
    putRaster (clearFetched s r.tenant)
      { r with next := next, due := false, parkedOn := none, walk := if r.done = r.count then none else some w }

/-- The tenant's threshold. -/
def thresholdOf (s : State) (tn : Nat) : W32 := ((tfind s.tenants tn).map fun t => t.config.rasterThreshold).getD 0

/-- One symbol of its walk: a wanted triangle is classified, and then the walk captures. -/
def stepRaster (s : State) (r : Raster) (m : Mesh) (w : Walk) : State :=
  let inside := meshOk r.stream r.windows false (stepReads s r.stream m w)
  match walkSymbol s r.stream m w with
  | .error (.err c) => failRaster s r (if inside then c else 14)
  | .error e => stopRaster s r e
  | .ok (w', t) =>
    if !inside then failRaster s r 14
    else
      let r := { r with walk := some w', parkedOn := none }
      match t with
      | none => putRaster (clearFetched s r.tenant) r
      | some t =>
        let vs := [t.1, t.2.1, t.2.2].map fun n => screenVertex r (vertexAt m w' n)
        let r := if r.first < w'.tri then classify r (thresholdOf s r.tenant) vs (w'.tri - 1) else r
        captureRaster s r m w'

/-- RASTER_TRIANGLE (R247): one piece of a RASTER: its domain opened, its walk begun, a piece of work done, or a symbol read. -/
def execRasterTriangle (id : Nat) (s : State) : Out :=
  .next
    (match s.rasters.find? fun r => r.id == id with
    | none => s
    | some r =>
      let turn := fun xs => engineTurn s (rasterPort r.die) (spanPlaces s r.stream xs)
      match r.pending, r.handle with
      | w :: rest, _ => rasterWork s r w rest
      | [], h =>
        if r.error.isSome || stillParked s r.tenant r.parkedOn then s
        else if r.fatal then failRaster s r 12
        else
          match h with
          | none =>
            if earlierOpen s r.gid r.owed then s
            else
              match openDomain s r.tenant r.die false false 0 with
              | none => failRaster s r 15
              | some (h, s) => putRaster s { r with handle := some h }
          | some _ =>
            match r.walk, parseMesh r.stream.base r.head with
            | some w, some m =>
              if r.due then turn (captureSpans s r.stream m r.next w) fun s => captureRaster s r m w
              else turn (symbolSpans s r.stream m r.next w) fun s => stepRaster s r m w
            | some _, none => failRaster s r 1
            | none, _ =>
              if r.done = r.count || streamHeld s r.stream then s
              else
                turn (serviceSpans s r.stream r.windows r.ford r.first r.count fun _ _ => true) fun s => startRaster s r)

/-- RASTER_COMPLETE (R246, R248): every triangle is classified or the walk failed, every fragment group has ended and every
record is committed: the domain closes and the status word is delivered. -/
def execRasterComplete (id : Nat) (s : State) : Out :=
  .next
    (match s.rasters.find? fun r => r.id == id with
    | none => s
    | some r =>
      if (r.error.isNone && decide (r.done ≠ r.count)) || r.walk.isSome || !r.pending.isEmpty
          || (r.grids.any fun g => (tfind s.grids g).isSome) then s
      else
        let s := match r.handle with
          | some h => closeDomain s r.tenant (fld h.toNat 0 6)
          | none => s
        let x := match r.error with
          | some c => errorStatus c
          | none => 0x10000000 ||| r.done
        fillOwed { s with rasters := s.rasters.filter fun q => q.id != id } (some r.owed) (owedLanes s r.owed r.lanes x))

end Sys2Proof.Machine
end

