-- ==== Sys2Proof/Machine/Xchg.lean ====
section
/-! DEFINITION. XCHG (R325 to R329): its acceptance, what an exchange does as its peers' messages arrive, and the steps at which
they do. -/

namespace Sys2Proof.Machine

open Sys2Proof

/-! ## Exchanges and their peers -/

def xchgOf (s : State) (id : Nat) : Option Xchg := s.xchgs.find? fun x => x.id == id

def updXchg (s : State) (id : Nat) (h : Xchg → Xchg) : State :=
  { s with xchgs := updateWhere (fun x => x.id == id) h s.xchgs }

def updPeer (s : State) (id q : Nat) (h : Peer → Peer) : State :=
  updXchg s id fun x => match x.peers[q]? with
    | some p => { x with peers := x.peers.set q (h p) }
    | none => x

def Peer.cnt (p : Peer) : Nat := p.mine.sum

/-- How many rows a peer has announced. -/
def Peer.rows (p : Peer) : Nat := (p.counts.getD []).sum

/-- Every COUNT is in. -/
def Xchg.heard (x : Xchg) : Bool := x.peers.all fun p => p.counts.isSome

/-- The own send to a peer has ended: its DONE has gone out, it has failed, or its receive tensor cannot hold the rows. -/
def Peer.sendEnded (p : Peer) : Bool := p.doneSent || p.failed || p.readyIn == some false

/-- Bytes of one row. -/
def Xchg.rowBytes (x : Xchg) : Nat := x.send.ext.getD 0 0 * x.send.z

/-- The space of a tensor as an engine's accesses name it. -/
def Xchg.space (x : Xchg) (t : Tensor) : Stream := ⟨x.tenant, t.space, t.base⟩

/-- Pre-emption suspends an exchange's sending (R328). -/
def Xchg.suspended (s : State) (x : Xchg) : Bool := ((tfind s.tenants x.tenant).map fun t => t.state != .running).getD true

/-! ## Accesses that may wait for a page (R303, R304) -/

/-- The keys of an exchange's accesses: the rows to peer q, the rows from it, its completion word; the received tensor. -/
def sendKey (q : Nat) : Nat := 3 * q
def rowKey (q : Nat) : Nat := 3 * q + 1
def doneKey (q : Nat) : Nat := 3 * q + 2
def Xchg.recvKey (x : Xchg) : Nat := 3 * x.peers.length

/-- What an access comes to: done, on its fatal path, or waiting. -/
inductive XGot (α : Type) where
  | ok (x : α)
  | fatal
  | hold
  deriving DecidableEq, Repr

def dropWait (s : State) (id key : Nat) : State :=
  updXchg s id fun x => { x with waits := x.waits.filter fun w => w.key != key }

/-- An access that is made: a page that is not present or forbids it parks it as agent 9. -/
def xMake {α : Type} (s : State) (x : Xchg) (key : Nat) (act : State → Dec α) : State × XGot α :=
  match act s with
  | .ok v => (s, .ok v)
  | .error (.err _) => (s, .fatal)
  | .error (.ask d r va) => (askRemote s x.tenant d r va, .hold)
  | .error (.page va w f) =>
    (faultPage (updXchg s x.id fun y => { y with waits := y.waits ++ [⟨key, va / 65536, w, false⟩] }) x.tenant va 9
      (if w then .write else .read) f, .hold)

/-- An access of an exchange: one that is parked waits for its page's reply. -/
def xTry {α : Type} (s : State) (x : Xchg) (key : Nat) (act : State → Dec α) : State × XGot α :=
  match x.waits.find? fun w => w.key == key with
  | none => xMake s x key act
  | some w =>
    if w.fatal then (dropWait s x.id key, .fatal)
    else if s.faults.any fun f => sameFault f x.tenant w.page (if w.write then .write else .read) then (s, .hold)
    else xMake (dropWait s x.id key) x key act

/-- A write of an exchange: made, posted to another device's pages (false; it is noted until its answer has come), fatal or held. -/
def xWrite (s : State) (x : Xchg) (key : Nat) (use : XUse) (t : Tensor) (a : Nat) (b : Bytes) : State × XGot Bool :=
  let (w, s) := freshId s
  match xTry s x key fun s => meshWrite s (x.space t) (.op w) [(a, b)] with
  | (_, .ok s) =>
    let s := noteWrites s
    if posting s x.tenant (.op w) then (updXchg s x.id fun y => { y with posts := y.posts ++ [⟨w, use, false⟩] }, .ok false)
    else (s, .ok true)
  | (s, .fatal) => (s, .fatal)
  | (s, .hold) => (s, .hold)

/-! ## Messages -/

/-- A peer fails (R328): zeros stand for a COUNT that has not come, and its outstanding requests are given up. -/
def failPeer (s : State) (id q : Nat) : State :=
  match (xchgOf s id).bind fun x => (x.peers[q]?).map fun p => (x, p) with
  | none => s
  | some (x, p) =>
    if q = x.me ∨ p.failed ∨ (p.completed.isSome ∧ p.sendEnded) then s
    else
      updPeer { s with remotes := s.remotes.filter fun r => r.use != .peer id q } id q fun p =>
        { p with failed := true, counts := some (p.counts.getD (List.replicate x.g 0)) }

/-- A message to a peer: a request, which times out and may be refused; a message to self uses no link. -/
def xSend (s : State) (x : Xchg) (q : Nat) (m : FabricMsg) : State :=
  match x.peers[q]? with
  | none => s
  | some p =>
    if p.failed then s
    else if q = x.me then
      sendPacket s ⟨s.fabric.dev, s.fabric.dev, partitionOf s x.tenant, BitVec.ofNat 32 x.id, m⟩
    else
      match sendRemote s x.tenant p.dev m (.peer x.id q) with
      | some s => s
      | none => failPeer s x.id q

/-! ## What an exchange does (R327, R328) -/

/-- The sum of the rows of the peers before q. -/
def Xchg.at_ (x : Xchg) (q : Nat) : Nat := ((x.peers.take q).map Peer.rows).sum

def Xchg.total (x : Xchg) : Nat := (x.peers.map Peer.rows).sum

/-- The received tensor's bytes: every count, then the offsets. -/
def Xchg.receivedBytes (x : Xchg) : Bytes :=
  (x.peers.flatMap fun p => (p.counts.getD []).flatMap (leBytes 4)) ++
    (upto x.peers.length).flatMap fun q => leBytes 4 (x.at_ q)

/-- The rows do not fit the receive tensor. -/
def Xchg.overfull (x : Xchg) : Bool := decide (x.recv.ext.getD 1 0 < x.total)

/-- The received tensor is written, or its write has failed: READY goes to every peer. -/
def readyOut (s : State) (x : Xchg) (bad : Bool) : State :=
  let s := updXchg s x.id fun y => { y with counted := true, capacity := x.overfull, fatal := y.fatal || bad }
  (upto x.peers.length).foldl (fun s q => xSend s x q (.ready x.tag !x.overfull)) s

/-- With every COUNT in: the received tensor is written, and READY goes to every peer. -/
def countIn (s : State) (x : Xchg) : State :=
  if x.counted || x.suspended s || !x.heard || x.posts.any fun p => p.use == .received then s
  else
    match xWrite s x x.recvKey .received x.received (x.received.addr [0, 0, 0, 0]) x.receivedBytes with
    | (s, .ok true) => readyOut s x false
    | (s, .fatal) => readyOut s x true
    | (s, _) => s

/-- A send row's bytes; one beyond the send tensor has no stated contents: free. -/
def sendRow (s : State) (x : Xchg) (r : Nat) : Dec Bytes :=
  if r < x.send.ext.getD 1 0 then meshRead s (x.space x.send) (x.send.addr [0, r, 0, 0]) x.rowBytes
  else .ok ((upto x.rowBytes).map fun k => (Config.freeValue (s.draws + k)).setWidth 8)

/-- The rows of peer q that are not sent yet, in order; a fatal fault cuts them short. -/
def sendRows (q : Nat) : Nat → State → Xchg → State
  | 0, s, _ => s
  | fuel + 1, s, x =>
    match x.peers[q]? with
    | none => s
    | some p =>
      if p.failed || p.cut || p.readyIn != some true || decide (p.cnt ≤ p.sent) then s
      else
        let r := p.first + p.sent
        let (s, b) := xTry s x (sendKey q) fun s => sendRow s x r
        match b with
        | .ok b =>
          let s := clearFetched s x.tenant
          let s := if r < x.send.ext.getD 1 0 then s else { s with draws := s.draws + x.rowBytes }
          let s := updPeer (xSend s x q (.row x.tag p.sent b)) x.id q fun p => { p with sent := p.sent + 1 }
          match xchgOf s x.id with
          | some y => sendRows q fuel s y
          | none => s
        | .fatal => updXchg (updPeer s x.id q fun p => { p with cut := true }) x.id fun y => { y with fatal := true }
        | .hold => s

/-- DONE once every row to q has been acknowledged or refused. -/
def sendDone (s : State) (x : Xchg) (q : Nat) : State :=
  match x.peers[q]? with
  | none => s
  | some p =>
    if p.failed || p.doneSent || p.readyIn != some true || !(p.cut || p.sent == p.cnt) || p.acked != p.sent then s
    else updPeer (xSend s x q (.done x.tag p.sent)) x.id q fun p => { p with doneSent := true }

/-- What is to be sent to peer q now. -/
def servePeer (s : State) (id q : Nat) : State :=
  match xchgOf s id with
  | none => s
  | some x =>
    if x.suspended s || !x.counted then s
    else
      let s := sendRows q (((x.peers[q]?).map fun p => p.cnt - p.sent).getD 0) s x
      match xchgOf s id with
      | some x => sendDone s x q
      | none => s

/-- The state of completion(q), once it is settled. -/
def Xchg.settled (x : Xchg) (p : Peer) : Option Nat :=
  let partly := if p.written = 0 then 3 else 2
  if !x.counted then none
  else if x.capacity then some 7
  else if p.failed then some partly
  else p.doneIn.map fun n => if n = p.rows ∧ !p.refusing then 1 else partly

/-- completion(q). -/
def completionWord (tag state rows : Nat) : Nat := tag * 2 ^ 32 + state * 2 ^ 28 + min 0xFFFFFF rows

/-- The completion word of q is written, or its write has failed. -/
def doneOut (s : State) (id q st : Nat) (bad : Bool) : State :=
  updXchg (updPeer s id q fun p => { p with completed := some st }) id fun y => { y with fatal := y.fatal || bad }

/-- A write that concerns peer q is on its way to another device. -/
def Xchg.posts_ (x : Xchg) (q : Nat) : Bool := x.posts.any fun p => match p.use with
  | .row k | .done k _ => k == q
  | .received => false

/-- completion(q) written, after every row that it counts has been performed. -/
def settlePeer (s : State) (id q : Nat) : State :=
  match (xchgOf s id).bind fun x => (x.peers[q]?).map fun p => (x, p) with
  | none => s
  | some (x, p) =>
    match x.settled p with
    | none => s
    | some st =>
      if p.completed.isSome || x.posts_ q then s
      else
        match xWrite s x (doneKey q) (.done q st) x.completion (x.completion.addr [q, 0, 0, 0])
          (leBytes 8 (completionWord x.tag st p.written)) with
        | (s, .ok true) => doneOut s id q st false
        | (s, .fatal) => doneOut s id q st true
        | (s, _) => s

/-- A peer has failed: R328's cases, a DONE with a partial count among them. -/
def Peer.bad (p : Peer) : Bool := p.failed || (p.doneIn.isSome && p.doneIn != some p.rows)

def Xchg.receivedLen (x : Xchg) : Nat := (x.peers.map fun p => p.written).sum * x.rowBytes

/-- The units of a status word: the bytes received in 64s, saturating (R204). -/
def Xchg.units (x : Xchg) : Nat := min 0xFFFFFF ((x.receivedLen + 63) / 64)

/-- The XCHG status word (R328). -/
def Xchg.status (x : Xchg) : Nat :=
  let failed := x.fatal || x.peers.any fun p => p.bad || p.completed != some 1
  let where_ := if x.capacity then 0xF else if x.peers.any Peer.bad then 0xE else if x.fatal then 0xD else 0
  statusWord (if !failed then 1 else if 0 < x.receivedLen then 2 else 3) where_ x.units

/-- An exchange ends once every completion word is written and every own send has ended; that of a saved context keeps its status
until the context is restored. -/
def endXchg (s : State) (id : Nat) : State :=
  match xchgOf s id with
  | none => s
  | some x =>
    if (x.peers.any fun p => p.completed.isNone || !p.sendEnded) || !x.posts.isEmpty || s.saved.any fun c => c.owed.any fun o => o.id == x.owed then s
    else
      let s := updTenant s x.tenant fun t => { t with copyMon := t.copyMon.sample (s.now - x.accepted) }
      fillOwed { s with xchgs := s.xchgs.filter fun y => y.id != id } (some x.owed) (owedScalar s x.owed x.status)

/-! ### Arrived messages and their order (R320, R329) -/

/-- The tag of a message of an exchange that a peer's device serves in order; acknowledgements are taken as they come. -/
def FabricMsg.xTag : FabricMsg → Option Nat
  | .count t _ | .ready t _ | .row t _ _ | .done t _ | .failure t => some t
  | _ => none

def FabricMsg.isRow : FabricMsg → Bool
  | .row _ _ _ => true
  | _ => false

def FabricMsg.isFailure : FabricMsg → Bool
  | .failure _ => true
  | _ => false

/-- Two messages of one exchange from one device. -/
def sameStream (s : State) (a b : Packet) : Bool :=
  a.msg.xTag.isSome && a.msg.xTag == b.msg.xTag && a.src == b.src && a.part == b.part && (a.src != s.fabric.dev || a.req == b.req)

/-- A packet's answer; self needs none. -/
def answer (s : State) (p : Packet) (m : FabricMsg) : State :=
  if p.src = s.fabric.dev then s else sendPacket s ⟨s.fabric.dev, p.src, p.part, p.req, m⟩

def dropArrived (s : State) (n : Nat) : State := { s with rx := removeIx s.rx n }

/-- An arrived packet. -/
def arrivedPacket (s : State) (n : Nat) : Option Packet := (s.rx[n]?).map fun a => a.pkt

/-- Whether an arrived packet may be served: the earlier ones of its exchange from its device are; a failure passes those that are
parked. -/
def firstFrom (s : State) (n : Nat) (p : Packet) : Bool :=
  !((s.rx.take n).any fun a => sameStream s a.pkt p && !(p.msg.isFailure && a.noticed))

/-- An arrived packet that is next in order. -/
def nextArrived (s : State) (n : Nat) : Option Packet :=
  (s.rx[n]?).bind fun a => if firstFrom s n a.pkt then some a.pkt else none

/-- A parked notice for an arrived packet, once (R320). -/
def noticeParked (s : State) (n : Nat) : State :=
  match s.rx[n]? with
  | some a => if a.noticed then s else { answer s a.pkt .parked with rx := s.rx.set n { a with noticed := true } }
  | none => s

/-- A parked notice for every message that waits with a packet of its exchange. -/
def noticeStream (s : State) (p : Packet) : State :=
  (upto s.rx.length).foldl
    (fun s n => match s.rx[n]? with
      | some a => if sameStream s p a.pkt then noticeParked s n else s
      | none => s) s

/-- A packet arrives; one that comes behind a parked one of its exchange waits with it. -/
def arrive (s : State) (p : Packet) : State :=
  let behind := !p.msg.isFailure && s.rx.any fun a => a.noticed && sameStream s p a.pkt
  let s := { s with rx := s.rx ++ [⟨p, none, false⟩] }
  if behind then noticeParked s (s.rx.length - 1) else s

/-- The acknowledgement of a row; self receives it inside the copy engine. -/
def ackRow (s : State) (p : Packet) (tag : Nat) (refused : Bool) : State :=
  sendPacket s ⟨s.fabric.dev, p.src, p.part, p.req, .rowAck tag refused⟩

/-- Arrived row n of peer q has been written, or its write has failed: every later row from q is then refused (R328). -/
def rowOut (s : State) (x : Xchg) (q n : Nat) (bad : Bool) : State :=
  match arrivedPacket s n with
  | none => s
  | some p =>
    let s := ackRow (dropArrived s n) p x.tag bad
    if bad then updXchg (updPeer s x.id q fun y => { y with refusing := true }) x.id fun y => { y with fatal := true }
    else updPeer s x.id q fun y => { y with written := y.written + 1 }

/-- The next arrived row of peer q. -/
def rowAt (s : State) (x : Xchg) (q : Nat) : Option Nat :=
  let own := fun (p : Packet) => match p.msg with
    | .row tag _ _ => tag == x.tag && ((x.peers[q]?).map fun y => y.dev) == some p.src
        && (if p.src = s.fabric.dev then p.req == BitVec.ofNat 32 x.id else p.part == partitionOf s x.tenant)
    | _ => false
  (findIx (fun (a : Arrived) => own a.pkt) s.rx 0).map fun r => r.1

/-- What an exchange's posted write comes to. -/
def resolvePost (s : State) (id : Nat) (p : XPost) : State :=
  match xchgOf s id with
  | none => s
  | some x =>
    if posting s x.tenant (.op p.who) then s
    else
      let s := updXchg s id fun y => { y with posts := y.posts.filter fun z => z.who != p.who }
      match p.use with
      | .received => readyOut s x p.bad
      | .done q st => doneOut s id q st p.bad
      | .row q => match rowAt s x q with
        | some n => rowOut s x q n p.bad
        | none => if p.bad then s else updPeer s id q fun y => { y with written := y.written + 1 }

/-- Everything that an exchange can do now. -/
def advanceXchg (s : State) (id : Nat) : State :=
  match xchgOf s id with
  | none => s
  | some x =>
    let qs := upto x.peers.length
    let s := x.posts.foldl (fun s p => resolvePost s id p) s
    let s := match xchgOf s id with
      | some x => countIn s x
      | none => s
    let s := qs.foldl (fun s q => servePeer s id q) s
    endXchg (qs.foldl (fun s q => settlePeer s id q) s) id

/-- Every exchange of the module goes on. -/
def advanceXchgs (s : State) : State := s.xchgs.foldl (fun s x => advanceXchg s x.id) s

/-! ## Acceptance (R325, R326) -/

/-- What the block and its tensors say. -/
structure XBlock where
  send : Tensor
  recv : Tensor
  counts : Tensor
  received : Tensor
  peers : Tensor
  completion : Tensor
  n : Nat
  g : Nat
  tag : Nat
  deriving DecidableEq, Repr

/-- A small tensor has its format, rank 1, and room for n elements. -/
def listTensor (t : Tensor) (format n : Nat) : Bool := t.format == format && t.rank == 1 && decide (n ≤ t.ext.getD 0 0)

/-- The checks that need only the block and the descriptors. -/
def parseXchg (t : Team) (a : Nat) : Accept XBlock := do
  let b ← readBlock t a
  let send ← t.tensor (byteAt b 0)
  let recv ← t.tensor (byteAt b 1)
  let counts ← t.tensor (byteAt b 2)
  let received ← t.tensor (byteAt b 3)
  let peers ← t.tensor (byteAt b 16)
  let completion ← t.tensor (byteAt b 17)
  let p := fieldAt b 8 2
  let g := byteAt b 10
  require ([0, 1, 2, 3, 16, 17].all fun j => decide (byteAt b j < 64)) 0x01
  require (decide (fieldAt b 4 4 = 0) && decide (byteAt b 11 = 0) && decide (fieldAt b 18 14 = 0) && decide (1 ≤ p)
    && decide (p ≤ 1024) && decide (1 ≤ g) && decide (g ≤ 64)) 0x01
  require (send.rank == 2 && recv.rank == 2 && recv.format == send.format && recv.ext.getD 0 0 == send.ext.getD 0 0
    && listTensor counts 6 (2 * p * g) && listTensor received 6 (p * g + p) && listTensor peers 5 p
    && listTensor completion 7 p && [send, recv, counts, received, peers, completion].all fun x => x.space == 2 || x.space == 3)
    0x01
  pure ⟨send, recv, counts, received, peers, completion, p, g, fieldAt b 12 4⟩

/-- Bytes of a D or M tensor from an address, read by an accepting instruction. -/
def tensorRead (s : State) (tn : Nat) (t : Tensor) (a n : Nat) : Got Bytes :=
  if t.space = 2 then .ok (readBytes s.scratch a n) else readM s tn a n .read

/-- The n-byte numbers that bytes hold. -/
def numbersIn (n : Nat) : Nat → Bytes → List Nat
  | 0, _ => []
  | k + 1, b => leNat (b.take n) :: numbersIn n k (b.drop n)

/-- The spans of R326. -/
def XBlock.spans (x : XBlock) : List (Nat × Bool × Span) :=
  let z := [0, 0, 0, 0]
  let one := fun (t : Tensor) (w : Bool) (n : Nat) => (t.space, w, t.span z [n, 1, 1, 1])
  [(x.send.space, false, x.send.span z [x.send.ext.getD 0 0, x.send.ext.getD 1 0, 1, 1]),
    (x.recv.space, true, x.recv.span z [x.recv.ext.getD 0 0, x.recv.ext.getD 1 0, 1, 1]),
    one x.counts false (2 * x.n * x.g), one x.received true (x.n * x.g + x.n), one x.peers false x.n, one x.completion true x.n]

/-- The checks that need the peer list: it names devices below 1,024, each once, and this one; the tag is not in use. -/
def checkPeers (s : State) (tn tag : Nat) (devs : List Nat) : Bool :=
  devs.all (fun d => decide (d < 1024)) && decide (devs.eraseDups.length = devs.length) && devs.contains s.fabric.dev
    && !(s.xchgs.any fun x => x.tenant == tn && x.tag == tag)

/-- The exchange that an XCHG begins, from its peer list and counts. -/
def freshXchg (s : State) (i : Iss) (x : XBlock) (devs counts : List Nat) (id owed : Nat) : Xchg :=
  { id := id, gid := i.gid, tenant := i.g.tenant, tag := x.tag, send := x.send, recv := x.recv, received := x.received
    completion := x.completion, g := x.g, me := ((upto devs.length).find? fun q => devs[q]? == some s.fabric.dev).getD 0
    peers := ((upto devs.length).zip devs).map fun p =>
      { dev := p.2, mine := (counts.drop (p.1 * x.g)).take x.g, first := counts.getD (x.n * x.g + p.1 * x.g) 0, readyIn := none
        sent := 0, acked := 0, cut := false, doneSent := false, counts := none, written := 0, refusing := false
        failed := false, doneIn := none, completed := none }
    counted := false, capacity := false, fatal := false, waits := [], posts := [], owed := owed, batch := i.g.batch, accepted := s.now }

/-- The counts of a COUNT, one per entry of the peer. -/
def countsOf (g : Nat) (cs : List Nat) : List Nat := (upto g).map fun j => cs.getD j 0

/-- The COUNTs that came before the exchange are taken from the fabric port. -/
def takeEarly (s : State) (x : Xchg) : State :=
  match tfind s.tenants x.tenant with
  | none => s
  | some t =>
    let mine := fun (p : Packet) => match p.msg with
      | .count tag _ => tag == x.tag && x.peers.any fun q => q.dev == p.src
      | _ => false
    let early := t.earlyCounts.filter mine
    let take := fun (q : Peer) =>
      match early.find? (fun p => p.src == q.dev) with
      | some ⟨_, _, _, _, .count _ cs⟩ => { q with counts := some (countsOf x.g cs) }
      | _ => q
    let s := updXchg s x.id fun y => { y with peers := y.peers.map take }
    updTenant s x.tenant fun t =>
      { t with
        earlyCounts := t.earlyCounts.filter fun p => !(mine p)
        endedCounts := t.endedCounts.filter fun e => e.1 != x.tag }

/-- An accepted XCHG enters: it joins the open batch, owes its status scalar, and sends its COUNTs. -/
def enterXchg (s : State) (i : Iss) (fs : FSel) (ka : KCode) (b : XBlock) (devs counts : List Nat) : State :=
  let (owed, s) := oweResult s i.gid .copy (i.flag fs) [kName i.g ka.toNat] [] 1
  let (id, s) := freshId s
  let x := freshXchg s i b devs counts id owed
  let s := done (bumpSeq (takeEarly { s with xchgs := s.xchgs ++ [x] } x)) i
  let s := ((upto x.peers.length).zip x.peers).foldl (fun s p => xSend s x p.1 (.count x.tag p.2.mine)) s
  advanceXchg s id

/-- XCHG: a release at .sys; it parks while four exchanges of the tenant are outstanding. -/
def execXchg (ka kb : KCode) (fs : FSel) (off : BitVec 12) (s : State) : Out :=
  issue s { fs := fs, ks := [ka.toNat, kb.toNat], tracked := 1 } 0 fun i =>
    let tn := i.g.tenant
    match teamOf s i.g with
    | none => s
    | some t =>
      if releasePending s i.gid i.pathMask then s
      else
        match parseXchg t (blockAddr i kb off) with
        | .error (code, a) => raiseAt s i code 0 (i.active 0) a
        | .ok x =>
          withRead s i 9 0 (tensorRead s tn x.peers (x.peers.addr [0, 0, 0, 0]) (2 * x.n)) fun pb =>
            withRead s i 9 0 (tensorRead s tn x.counts (x.counts.addr [0, 0, 0, 0]) (8 * x.n * x.g)) fun cb =>
              let devs := numbersIn 2 x.n pb
              if !(checkPeers s tn x.tag devs) then raise s i 0x01
              else
                match checkSpans t x.spans with
                | some (code, a) => raiseAt s i code 0 (i.active 0) a
                | none =>
                  if 4 ≤ (s.xchgs.filter fun y => y.tenant == tn).length then park s i .retry
                  else enterXchg (clearFetched s tn) i fs ka x devs (numbersIn 4 (2 * x.n * x.g) cb)

/-! ## Messages that arrive (R327, R328) -/

/-- The tenant that holds a partition (R317). -/
def tenantOfPartition (s : State) (part : BitVec 16) : Option Nat :=
  if part = 0 then none
  else (s.tenants.find? fun p => p.2.state != .absent && p.2.config.partition == part).map fun p => p.1

/-- The exchange that a packet belongs to, with the peer that sent it. -/
def xchgFor (s : State) (p : Packet) (tag : Nat) : Option (Xchg × Nat × Peer) :=
  let x := if p.src = s.fabric.dev then s.xchgs.find? fun x => x.id % 2 ^ 32 == p.req.toNat && x.tag == tag
    else (tenantOfPartition s p.part).bind fun tn => s.xchgs.find? fun x => x.tenant == tn && x.tag == tag
  x.bind fun x => (findIx (fun (q : Peer) => q.dev == p.src) x.peers 0).map fun q => (x, q.1, q.2)

/-- A COUNT whose exchange is not accepted yet: kept at the fabric port, at most 1,024 a tenant (R327); refused where a reset
ended its exchange (R328) or no tenant holds the partition (R317). -/
def earlyCount (s : State) (p : Packet) (tag : Nat) : State :=
  match (tenantOfPartition s p.part).bind fun tn => (tfind s.tenants tn).map fun t => (tn, t) with
  | none => answer s p (.response false 0)
  | some (tn, t) =>
    if t.endedCounts.contains (tag, p.src) then
      updTenant (answer s p (.response false 0)) tn fun t =>
        { t with endedCounts := t.endedCounts.filter fun e => e != (tag, p.src) }
    else if 1024 ≤ t.earlyCounts.length then answer s p (.response false 1)
    else updTenant (answer s p (.response true 0)) tn fun t => { t with earlyCounts := t.earlyCounts ++ [p] }

/-- XCHG_COUNT_RECEIVE (R327). -/
def execXchgCountReceive (n : Nat) (s : State) : Out :=
  .next
    (match nextArrived s n with
    | some ⟨src, dest, part, req, .count tag cs⟩ =>
      let p : Packet := ⟨src, dest, part, req, .count tag cs⟩
      let s := dropArrived s n
      match xchgFor s p tag with
      | some (x, q, y) =>
        if y.failed then s
        else
          let s := answer s p (.response true 0)
          advanceXchg (updPeer s x.id q fun y => { y with counts := some (y.counts.getD (countsOf x.g cs)) }) x.id
      | none => earlyCount s p tag
    | _ => s)

/-- XCHG_COUNT_RESEND (R327): a refused COUNT is sent again after 4,096 clocks. -/
def execXchgCountResend (n : Nat) (s : State) : Out :=
  .next
    (match s.resends[n]? with
    | none => s
    | some (due, id, q) =>
      match xchgOf s id with
      | none => { s with resends := removeIx s.resends n }
      | some x =>
        if s.now < due || x.suspended s then s
        else
          advanceXchg
            (xSend { s with resends := removeIx s.resends n } x q (.count x.tag (((x.peers[q]?).map fun p => p.mine).getD []))) id)

/-- XCHG_READY_RECEIVE (R327): the rows for the peer are sent. -/
def execXchgReadyReceive (n : Nat) (s : State) : Out :=
  .next
    (match nextArrived s n with
    | some ⟨src, dest, part, req, .ready tag ok⟩ =>
      let p : Packet := ⟨src, dest, part, req, .ready tag ok⟩
      let s := dropArrived s n
      match xchgFor s p tag with
      | some (x, q, y) =>
        if y.failed then s
        else
          advanceXchg (updPeer (answer s p (.response true 0)) x.id q fun y => { y with readyIn := some (y.readyIn.getD ok) }) x.id
      | none => answer s p (.response false 0)
    | _ => s)

/-- XCHG_ROW_RECEIVE (R327 to R329): a row is written in the receive tensor once every COUNT is in, or refused. -/
def execXchgRowReceive (n : Nat) (s : State) : Out :=
  .next
    (match nextArrived s n with
    | some ⟨src, dest, part, req, .row tag index bytes⟩ =>
      let p : Packet := ⟨src, dest, part, req, .row tag index bytes⟩
      match xchgFor s p tag with
      | none => ackRow (dropArrived s n) p tag true
      | some (x, q, y) =>
        if y.failed then dropArrived s n
        else if !x.heard || x.posts_ q then s
        else if x.overfull || y.refusing || decide (y.rows ≤ index) then ackRow (dropArrived s n) p tag true
        else
          match xWrite s x (rowKey q) (.row q) x.recv (x.recv.addr [0, x.at_ q + index, 0, 0])
            ((bytes ++ List.replicate (x.rowBytes - bytes.length) 0).take x.rowBytes) with
          | (s, .ok true) => rowOut s x q n false
          | (s, .fatal) => rowOut s x q n true
          | (s, .ok false) => s
          | (s, .hold) => noticeStream s p
    | _ => s)

/-- The request that an answer echoes: its exchange and peer; self's by the exchange's own number. -/
def ackedPeer (s : State) (p : Packet) : Option (Nat × Nat) :=
  if p.src = s.fabric.dev then
    (s.xchgs.find? fun x => x.id % 2 ^ 32 == p.req.toNat).map fun x => (x.id, x.me)
  else
    (s.remotes.find? fun r => r.id % 2 ^ 32 == p.req.toNat && r.dest == p.src).bind fun r => match r.use with
      | .peer id q => some (id, q)
      | _ => none

/-- An outstanding request answered. -/
def dropRemote (s : State) (p : Packet) : State :=
  if p.src = s.fabric.dev then s
  else { s with remotes := s.remotes.filter fun r => !(r.id % 2 ^ 32 == p.req.toNat && r.dest == p.src) }

/-- XCHG_ROW_ACK (R327, R328): a refused row counts as acknowledged. -/
def execXchgRowAck (n : Nat) (s : State) : Out :=
  .next
    (match arrivedPacket s n with
    | some ⟨src, dest, part, req, .rowAck tag r⟩ =>
      let p : Packet := ⟨src, dest, part, req, .rowAck tag r⟩
      match ackedPeer s p with
      | some (id, q) => advanceXchg (updPeer (dropRemote (dropArrived s n) p) id q fun y => { y with acked := y.acked + 1 }) id
      | none => dropArrived s n
    | _ => s)

/-- XCHG_DONE_RECEIVE (R328). -/
def execXchgDoneReceive (n : Nat) (s : State) : Out :=
  .next
    (match nextArrived s n with
    | some ⟨src, dest, part, req, .done tag rows⟩ =>
      let p : Packet := ⟨src, dest, part, req, .done tag rows⟩
      let s := dropArrived s n
      match xchgFor s p tag with
      | some (x, q, y) =>
        if y.failed then s
        else advanceXchg (updPeer (answer s p (.response true 0)) x.id q fun y => { y with doneIn := some (y.doneIn.getD rows) }) x.id
      | none => answer s p (.response false 0)
    | _ => s)

/-- XCHG_FAILURE_RECEIVE (R328). -/
def execXchgFailureReceive (n : Nat) (s : State) : Out :=
  .next
    (match nextArrived s n with
    | some ⟨src, dest, part, req, .failure tag⟩ =>
      let s := dropArrived s n
      match xchgFor s ⟨src, dest, part, req, .failure tag⟩ tag with
      | some (x, q, _) => advanceXchg (failPeer s x.id q) x.id
      | none => s
    | _ => s)

end Sys2Proof.Machine
end

