-- ==== Sys2Proof/Machine/Fabric.lean ====
section
/-! DEFINITION. The fabric: links (R318, R319), requests served for other devices (R317, R320, R323, R324), their answers and
time-outs, the host's accesses through the functions' windows (R349, R351), and the die links (R315). -/

namespace Sys2Proof.Machine

open Sys2Proof

/-! ## Links (R319) -/

/-- Waiting flits take the room that acknowledgements have made. -/
def LarLink.pump : Nat → LarLink → LarLink
  | 0, l => l
  | n + 1, l =>
    match l.waiting with
    | [] => l
    | f :: fs => if l.unacked.length < 1024 then LarLink.pump n ({ l with waiting := fs }.send f) else l

/-- The flits up to the last one received intact are acknowledged. -/
def LarLink.acked (l : LarLink) (seq : BitVec 12) : LarLink :=
  match findIx (fun (f : Flit) => f.seq == seq) l.unacked 0 with
  | some (n, _) => LarLink.pump l.waiting.length { l with unacked := l.unacked.drop (n + 1), replays := 0 }
  | none => l

/-- The flits from an expected sequence number on are replayed. -/
def LarLink.replay (l : LarLink) (expected : BitVec 12) : LarLink :=
  match findIx (fun (f : Flit) => f.seq == expected) l.unacked 0 with
  | some (n, _) =>
    let rest := l.unacked.drop n
    { l with unacked := rest, wire := l.wire ++ rest, replays := if n = 0 then l.replays + 1 else 1 }
  | none => l

/-- A negative acknowledgement: its acknowledge field names the last flit received intact, so the next is the expected one. -/
def LarLink.refuse (l : LarLink) (dev : Nat) : LarLink :=
  let f : Flit := ⟨9, l.sendSeq, l.expect - 1, 0, 0, BitVec.ofNat 10 dev, 0, 0, 0, [], 0⟩
  { l with wire := l.wire ++ [{ f with check := crc64 (flitBytes f) }] }

def updLink (s : State) (n : Nat) (h : LarLink → LarLink) : State :=
  match tfind s.links n with
  | some l => { s with links := tput s.links n (h l) }
  | none => s

/-- An accepted flit: one for this device brings its packet, or waits for the others of its message; another's is forwarded, and
discarded as its hops reach 63. -/
def acceptFlit (s : State) (f : Flit) : State :=
  if f.dest.toNat = s.fabric.dev then
    match packetOf (s.parts.filter fun x => Flit.joins x f) f with
    | some p => arrive { s with parts := s.parts.filter fun x => !(Flit.joins x f) } p
    | none => { s with parts := s.parts ++ [f] }
  else if 63 ≤ f.hops.toNat + 1 then s
  else sendFlit s { f with hops := f.hops + 1 }

/-- FLIT_RECEIVE (R319). Idle flits and negative acknowledgements take no sequence number. -/
def execFlitReceive (link : Nat) (f : Flit) (s : State) : Out :=
  .next
    (match tfind s.links link with
    | none => s
    | some l =>
      if !l.up then s
      else if !(flitIntact f) then updLink s link fun l => l.refuse s.fabric.dev
      else
        let s := updLink s link fun l => { l with lastIntact := s.now }.acked f.ack
        if f.ty = 0 then s
        else if f.ty = 9 then updLink s link fun l => l.replay (f.ack + 1)
        else if f.seq = l.expect then acceptFlit (updLink s link fun l => { l with expect := l.expect + 1 }) f
        else updLink s link fun l => l.refuse s.fabric.dev)

/-- NEGATIVE_ACKNOWLEDGEMENT (R319). -/
def execNegativeAcknowledgement (link expected : Nat) (s : State) : Out :=
  .next (updLink s link fun l => if l.up then l.replay (BitVec.ofNat 12 expected) else l)

/-! ## Answers (R320) -/

/-- A lane of a parked atomic answered: with the word it returns, or failed. -/
def answerLane (g : Group) (lane : Nat) (ret : Option Nat) : Group :=
  { g with park := g.park.map fun r => match r.why with
    | .remote asking waiting failed rets places far =>
      let left := waiting.filter fun l => l != lane
      { r with why := match ret with
        | some x => .remote asking left failed (rets ++ [(lane, x)]) places far
        | none => .remote asking left (failed ++ [lane]) rets places far }
    | _ => r }

def updCopy (s : State) (id : Nat) (h : Copy → Copy) : State :=
  { s with copies := updateWhere (fun c => c.id == id) h s.copies }

/-- A posted write that has not been performed: the operation it belongs to takes its fatal path; a record of the fault log is a failure
of the log (R303, R304). -/
def failPost (s : State) (tn : Nat) : Poster → State
  | .log => machineCheckNoRecord s tn
  | .unit => s
  | .op id =>
    { s with
      patches := s.patches.map fun p => if p.owed = id then { p with fatal := true } else p
      decoders := s.decoders.map fun d => (d.1, { d.2 with
        entries := d.2.entries.map fun e => if e.wid = id then { e with fatal := true } else e })
      rasters := s.rasters.map fun r => if r.id = id then { r with fatal := true } else r
      xchgs := s.xchgs.map fun x => { x with posts := x.posts.map fun p => if p.who = id then { p with bad := true } else p }
      cxops := s.cxops.map fun o => if o.owed = id then { o with fatal := true } else o }

/-- A remote request takes its fatal path (R304, R320). -/
def failRemote (s : State) (r : Remote) : State :=
  let s := { s with remotes := s.remotes.filter fun q => q.id != r.id }
  match r.use with
  | .lane gid lane => updGroup s gid fun g => answerLane g lane none
  | .copy id => updCopy s id fun c => { c with asking := [], fatal := some (decide (0 < c.sent)) }
  | .unit tn va => { s with fetched := s.fetched ++ [⟨tn, va, false, none⟩] }
  | .word tn va => { s with fetched := s.fetched ++ [⟨tn, va, true, none⟩] }
  | .post tn who => failPost s tn who
  | .peer id q => failPeer s id q

/-- A response's data reach what waits for them. -/
def takeResponse (s : State) (r : Remote) (data : Nat) : State :=
  let s := { s with remotes := s.remotes.filter fun q => q.id != r.id }
  match r.use with
  | .lane gid lane => updGroup s gid fun g => answerLane g lane (some data)
  | .copy id => updCopy s id fun c =>
      { c with
        asking := c.asking.filter fun x => x != r.id
        got := if 0 < c.sent then c.got else c.got.map fun x => if x.2.isEmpty then (x.1, leBytes 64 data) else x }
  | .unit tn va => { s with fetched := s.fetched ++ [⟨tn, va, false, some (leBytes 64 data)⟩] }
  | .word tn va => { s with fetched := s.fetched ++ [⟨tn, va, true, some []⟩] }
  | .post _ _ => s
  | .peer _ _ => s

/-- The outstanding request that a packet answers. -/
def remoteFor (s : State) (p : Packet) : Option Remote :=
  s.remotes.find? fun r => r.id % 2 ^ 32 == p.req.toNat && r.dest == p.src

/-- REMOTE_RESPONSE (R320): a response to no outstanding request is discarded; a COUNT that the peer's port could not hold is sent
again 4,096 clocks later (R327). -/
def execRemoteResponse (n : Nat) (s : State) : Out :=
  .next
    (match arrivedPacket s n with
    | some ⟨src, dest, part, req, .response ok data⟩ =>
      let s := dropArrived s n
      match remoteFor s ⟨src, dest, part, req, .response ok data⟩ with
      | none => s
      | some r =>
        match ok, r.use with
        | true, _ => advanceXchgs (takeResponse s r data)
        | false, .peer id q =>
          if data = 1 then
            { s with
              remotes := s.remotes.filter fun x => x.id != r.id
              resends := s.resends ++ [(s.now + 4096, id, q)] }
          else advanceXchgs (failRemote s r)
        | false, _ => advanceXchgs (failRemote s r)
    | _ => s)

/-- A row that waits for its write on another device's page waits there; so do the messages behind it. -/
def noticeRow (s : State) (r : Remote) : State :=
  match r.use with
  | .post _ (.op w) =>
    s.xchgs.foldl
      (fun s x => x.posts.foldl
        (fun s p => match p.use with
          | .row q => if p.who = w then match (rowAt s x q).bind (arrivedPacket s) with
              | some p => noticeStream s p
              | none => s
            else s
          | _ => s) s) s
  | _ => s

/-- PARKED_NOTICE (R320): the request's timer stops. -/
def execParkedNotice (n : Nat) (s : State) : Out :=
  .next
    (match arrivedPacket s n with
    | some ⟨src, dest, part, req, .parked⟩ =>
      let p : Packet := ⟨src, dest, part, req, .parked⟩
      let s := dropArrived s n
      match remoteFor s p with
      | some r => noticeRow { s with remotes := s.remotes.map fun x => if x.id = r.id then { x with stopped := true } else x } r
      | none => s
    | _ => s)

/-- REMOTE_TIMEOUT (R317, R320): a request that could not be sent fails at once. -/
def execRemoteTimeout (id : Nat) (s : State) : Out :=
  .next
    (match s.remotes.find? fun r => r.id == id with
    | some r => if r.lost || (!r.stopped && decide (r.since + 65536 * s.fabric.timeout ≤ s.now)) then advanceXchgs (failRemote s r) else s
    | none => s)

/-- Requests to devices that have become unreachable, and exchanges with them, fail (R319, R320, R328). -/
def failUnreachable (s : State) : State :=
  let s := s.remotes.foldl (fun s r => if (routeTo s r.dest).isSome then s else failRemote s r) s
  advanceXchgs
    (s.xchgs.foldl
      (fun s x => ((upto x.peers.length).zip x.peers).foldl
        (fun s p => if (routeTo s p.2.dev).isSome then s else failPeer s x.id p.1) s) s)

/-- LINK_DOWN (R319): after 64 replays of one flit, or 2^20 clocks without an intact flit; what the link had not delivered moves to
the alternates in its order. -/
def execLinkDown (link : Nat) (s : State) : Out :=
  .next
    (match tfind s.links link with
    | none => s
    | some l =>
      if !l.up || (decide (l.replays < 64) && decide (s.now < l.lastIntact + 2 ^ 20)) then s
      else
        let s := updLink s link fun l => { l with up := false, unacked := [], waiting := [], replays := 0 }
        failUnreachable ((l.unacked ++ l.waiting).foldl sendFlit s))

/-! ## Requests from other devices (R317, R320, R323, R324) -/

/-- A place as the answer to a check names it, for the operation that follows it (log entry 73). -/
def placeCode (sp : Space) (a : Nat) : Nat := 2 * a + if sp = .host then 1 else 0

/-- The address of a request, or its place where a check has given it, whether it writes, and the agent its page faults name. -/
def FabricMsg.access : FabricMsg → Option (Nat × Bool × Nat)
  | .read a _ => some (a, false, 1)
  | .write a _ => some (a, true, 1)
  | .atomic _ _ a _ _ => some (a, true, 3)
  | .check _ a => some (a, true, 3)
  | .perform _ _ a _ _ => some (a, true, 3)
  | .reduce a _ => some (a, true, 1)
  | _ => none

/-- Where a request is performed: a host page and its completer limit its atomics (R323). -/
def servePlace (s : State) (tn : Nat) (m : FabricMsg) (va : Nat) (need : Need) : Xl :=
  match m with
  | .atomic op _ _ _ _ | .check op _ => atomPlace s tn op va
  | .perform _ _ _ _ _ => .ok (if va % 2 = 1 then .host (va / 2) else .main (va / 2))
  | .reduce _ _ => match translate s tn va need with
    | .ok (.host _) => .forbidden
    | x => x
  | _ => translate s tn va need

/-- A word replaced at the fabric port: an atomic of this module's own that has read it there stands after it (R167, R189). -/
def replaceAt (s : State) (sp : Space) (a n x : Nat) : State :=
  let s := writeSpace s sp a n x
  noteWrites (match sp with
    | .m => reread s true a n
    | _ => s)

/-- A request performed at the fabric port, with its response. -/
def performRemote (s : State) (p : Packet) (sp : Space) (a : Nat) : State :=
  match p.msg with
  | .read _ n => answer s p (.response true (readSpace s sp a n))
  | .write _ b => answer (noteWrites (storePlain s true sp a b.length (leNat b))) p (.response true 0)
  | .atomic op wide _ x y | .perform op wide _ x y =>
    let n := if wide then 8 else 4
    let r := atomRow op (8 * n) (readSpace s sp a n) x y
    answer (replaceAt s sp a n r.1) p (.response true r.2)
  | .check _ _ => answer s p (.response true (placeCode sp a))
  | .reduce _ x => answer (replaceAt s sp a 2 (reduceBits 2 (readSpace s sp a 2) x)) p (.response true 0)
  | _ => s

/-- How many bytes a request touches. -/
def FabricMsg.size : FabricMsg → Nat
  | .read _ n => n
  | .write _ b => b.length
  | .atomic _ wide _ _ _ | .perform _ wide _ _ _ => if wide then 8 else 4
  | .reduce _ _ => 2
  | _ => 0

/-- The places that a request at an address of a space touches, one for each 16 bytes. -/
def FabricMsg.places (m : FabricMsg) (sp : Space) (a : Nat) : List (Space × Nat) :=
  if m.size = 0 then [] else (fromTo (a / 16) ((a + m.size + 15) / 16)).map fun j => (sp, 16 * j)

/-- The places of an arrived request that nothing but its banks keeps back. -/
def Arrived.places (s : State) (a : Arrived) : List (Space × Nat) :=
  match a.pkt.msg.access, (tenantOfPartition s a.pkt.part).bind fun tn => (tfind s.tenants tn).map fun t => (tn, t) with
  | some (va, w, _), some (tn, t) =>
    if t.state = .saved ∨ t.state = .frozen then []
    else
      match servePlace s tn a.pkt.msg va (if w then .write else .read) with
      | .ok (.main pa) => a.pkt.msg.places .m pa
      | _ => []
  | _, _ => []

/-- Whether requests that arrived earlier wait at a bank of these (R172). -/
def portBehind (s : State) (n : Nat) (bs : List Nat) : Bool :=
  (s.rx.take n).any fun a => (banksAt (a.places s)).any bs.contains

/-- An arrived request performed once its banks serve the fabric port (R172). -/
def performArrived (s : State) (n : Nat) (p : Packet) (sp : Space) (a : Nat) : State :=
  if portBehind s n (banksAt (p.msg.places sp a)) then s
  else engineTurn s fabricPort (p.msg.places sp a) fun s => performRemote (dropArrived s n) p sp a

/-- The cache with the translation that a request has used. -/
def fillFor (s : State) (tn : Nat) (m : FabricMsg) (va : Nat) (need : Need) : State :=
  match m with
  | .perform _ _ _ _ _ => s
  | _ => fillCache s tn va need

/-- REMOTE_REQUEST_SERVE (R317, R320): a request is served in the tenant that holds its partition, and refused where none does; it
waits, behind a parked notice, for a page or for a pre-empted context. -/
def execRemoteRequestServe (n : Nat) (s : State) : Out :=
  .next
    (match s.rx[n]? with
    | none => s
    | some a =>
      match a.pkt.msg.access with
      | none => s
      | some (va, w, agent) =>
        match (tenantOfPartition s a.pkt.part).bind fun tn => (tfind s.tenants tn).map fun t => (tn, t) with
        | none => answer (dropArrived s n) a.pkt (.response false 0)
        | some (tn, t) =>
          let need := if w then Need.write else .read
          let fatal := match a.park with
            | some (_, _, f) => f
            | none => false
          let waits := match a.park with
            | some (pg, w, _) => s.faults.any fun f => sameFault f tn pg (if w then .write else .read)
            | none => false
          if t.state = .saved ∨ t.state = .frozen then noticeParked s n
          else if fatal then answer (dropArrived s n) a.pkt (.response false 0)
          else if waits then s
          else
            match servePlace s tn a.pkt.msg va need with
            | .ok (.main pa) => performArrived (fillFor s tn a.pkt.msg va need) n a.pkt .m pa
            | .ok (.host pa) => performArrived (fillFor s tn a.pkt.msg va need) n a.pkt .host pa
            | .ok (.remote _ _) => answer (dropArrived s n) a.pkt (.response false 0)
            | e =>
              faultPage (noticeParked { s with rx := s.rx.set n { a with park := some (va / 65536, w, false) } } n) tn va agent need
                (e == .forbidden))

/-! ## The host's accesses (R349, R351, R352) -/

/-- The record that a host access leaves: one of its own, also where accesses already wait for the page. -/
def hostFault (s : State) (tn va : Nat) (need : Need) (forbidden : Bool) : State :=
  match faultOn s tn va need with
  | none => faultPage s tn va 10 need forbidden
  | some _ =>
    let p := faultPlace s tn va need forbidden
    let f : PageFault := ⟨tn, p.1, p.2, need == .write, need == .exec, forbidden, va, 10, 0, none⟩
    match writeRecord s tn va 10 (accessBits f) 0 [] with
    | .written s _ => sendMsix s tn 1
    | .full => { s with faults := s.faults ++ [f] }
    | .failure => machineCheckNoRecord s tn

def replyHost (s : State) (b : Option Bytes) : State := { s with hostReplies := s.hostReplies ++ [b] }

/-- A host access that cannot be made: an Unsupported Request, with a record of agent 10 where a page is the cause. -/
def refuseHost (s : State) (tn : Nat) (e : DecStop) : State :=
  match e with
  | .err _ => replyHost s none
  | .page va w f => hostFault (replyHost s none) tn va (if w then .write else .read) f
  | .ask d r va => askRemote s tn d r va

/-- A host write to M-space. -/
def hostStore (s : State) (tn va : Nat) (b : Bytes) (ok : State → State) : State :=
  match meshWrite s ⟨tn, 3, 0⟩ .unit [(va, b)] with
  | .ok s => noteWrites (ok s)
  | .error e => refuseHost s tn e

/-- The bytes of a monitor's read copy, its fields in the order of R351 (log entry 85). -/
def Monitor.bytes (m : Monitor) : Bytes :=
  leBytes 8 m.min.toNat ++ leBytes 8 m.max.toNat ++ leBytes 8 m.count.toNat ++ leBytes 8 m.sum.toNat
    ++ (upto 16).flatMap fun j => leBytes 4 (tget 0 m.bins j).toNat

/-- The read copies that a tenant's monitors hold (R352). -/
def Tenant.monitorBytes (t : Tenant) : MonitorName → Bytes
  | .copy => t.copyMon.copied.bytes
  | .load => t.loadMon.copied.bytes
  | .procession => t.procMon.copied.bytes
  | .channel => t.chanMon.copied.bytes
  | .queue => t.queueMon.copied.bytes
  | .traps => (upto 27).flatMap fun c => leBytes 8 (tget 0 t.trapsCopied (c + 1)).toNat

/-- Where the monitors stand in BAR0: the trap counter at 8 KiB + 2 KiB. -/
def monitorPlaces : List (MonitorName × Nat) :=
  (.traps, 10240) :: ((upto 5).zip [MonitorName.copy, .load, .procession, .channel, .queue]).map fun m =>
    (m.2, 8192 + Config.monitorOffset m.1)

/-- Byte a of a tenant's BAR0: its inbox, or a monitor's read copy; of the others no rule says what they read as. -/
def bar0Byte (s : State) (t : Tenant) (a : Nat) : Option Byte :=
  if a < 4096 then some (readByte s.scratch (t.config.inbox + a))
  else
    (monitorPlaces.filterMap fun m =>
      if m.2 ≤ a then (t.monitorBytes m.1)[a - m.2]? else none).head?

/-- n bytes of BAR0; a byte that no rule gives is free. -/
def bar0Read (s : State) (t : Tenant) (off n : Nat) : Bytes :=
  (upto n).map fun k => (bar0Byte s t (off + k)).getD ((Config.freeValue (s.draws + k)).setWidth 8)

/-- A host access to a function of a tenant that is configured. A write through BAR2 is recorded; in replay the almanac supplies its next
one, and the host's own is ignored (R311, R312). -/
def hostAccess (s : State) (tn off : Nat) (t : Tenant) : HostAccess → State
  | .read n =>
    if n = 0 ∨ t.config.bar2Size < off + n then s
    else
      match meshRead s ⟨tn, 3, 0⟩ (t.config.bar2Base + off) n with
      | .ok b => clearFetched (replyHost s (some b)) tn
      | .error e => refuseHost s tn e
  | .write b =>
    if replaying s tn then
      match hostNext s tn 2 with
      | some e => hostStore s tn e.key e.payload fun s => almTake s tn e 0
      | none => s
    else if b.isEmpty ∨ t.config.bar2Size < off + b.length then s
    else
      let va := t.config.bar2Base + off
      match meshRead s ⟨tn, 3, 0⟩ (va + b.length) ((16 - b.length % 16) % 16) with
      | .ok follow => hostStore s tn va b fun s => almRecord (clearFetched s tn) tn 2 0 va (paddedWrite b follow)
      | .error _ => hostStore s tn va b fun s => almRecord s tn 2 0 va (paddedWrite b [])
  | .bar0Read n => if n = 0 ∨ 65536 < off + n then s else replyHost { s with draws := s.draws + n } (some (bar0Read s t off n))
  | .tableWrite b => if 32768 < off + b.length then s
    else updTenant s tn fun t => { t with msixTable := writeBytes t.msixTable off b }
  | .tableRead n => if n = 0 ∨ 32768 < off + n then s else replyHost s (some (readBytes t.msixTable off n))
  | .pfMonitor m => replyHost s (some (t.monitorBytes m))
  | .pfCertificate => replyHost s (some Config.certificate)

/-- HOST_BAR2_ACCESS (R349): a host access through a VF's windows, and what the PF reads. -/
def execHostBar2Access (tn off : Nat) (acc : HostAccess) (s : State) : Out :=
  .next
    (match tfind s.tenants tn, acc with
    | none, .pfCertificate => replyHost s (some Config.certificate)
    | none, _ => s
    | some t, .pfCertificate => hostAccess s tn off t .pfCertificate
    | some t, acc => if t.state = .absent then s else hostAccess s tn off t acc)

/-! ## The die links (R315) -/

/-- The tenants whose contexts run. -/
def runningTenants (s : State) : List Nat :=
  (s.tenants.filter fun p => p.2.state == .running || p.2.state == .frozen).map fun p => p.1

/-- UCIE_LINK_FAILURE (R315). -/
def execUcieLinkFailure (s : State) : Out :=
  .next ((runningTenants s).foldl machineCheck { s with ucieUp := false })

end Sys2Proof.Machine
end

