-- ==== Sys2Proof/Machine/Cx.lean ====
section
/-! DEFINITION. The context instructions (R306 to R309): CXSAVE, CXLOAD and CXKILL, saving and restoring a context, and the
placement step, at which a context that waits to be restored is tried again. -/

namespace Sys2Proof.Machine

open Sys2Proof

/-! ## Status -/

/-- Bytes in units of 4 KiB. -/
def pages4k (n : Nat) : Nat := (n + 4095) / 4096

/-- The status word of a context instruction. -/
def cxStatus (state bytes : Nat) : Nat := state * 2 ^ 28 + pages4k bytes

def finishCx (s : State) (owed state bytes : Nat) : State :=
  fillOwed { s with cxops := s.cxops.filter fun o => o.owed != owed } (some owed) (owedScalar s owed (cxStatus state bytes))

def updCx (s : State) (owed : Nat) (h : CxOp → CxOp) : State :=
  { s with cxops := updateWhere (fun o => o.owed == owed) h s.cxops }

def setTenantState (s : State) (tn : Nat) (x : TenantState) : State := updTenant s tn fun t => { t with state := x }

/-! ## Saving (R306 to R308) -/

/-- Whether what a context has on its way to other devices has been answered: those accesses are not withdrawn. -/
def contextQuiet (s : State) (tn : Nat) : Bool :=
  !((tenantGroups s tn).any fun p => match p.2.park with
    | some ⟨_, _, .remote _ _ _ _ _ _⟩ => true
    | _ => false) &&
  !(s.copies.any fun c => c.tenant == tn && (decide (0 < c.sent) || !c.asking.isEmpty))

/-- The first page of an area that the issuer's translation does not grant. -/
def areaFault (s : State) (o : CxOp) (bytes : Nat) (need : Need) : Option (Nat × Bool) :=
  ((upto ((o.area + bytes + 65535) / 65536 - o.area / 65536)).filterMap fun k =>
    let va := max o.area ((o.area / 65536 + k) * 65536)
    match translate s o.issuer va need with
    | .ok _ => none
    | .notPresent => some (va, false)
    | .forbidden => some (va, true)).head?

/-- A context instruction parks on a page of its area (R303); which agent number its record carries is not stated: free. -/
def parkCx (s : State) (o : CxOp) (va : Nat) (need : Need) (forbidden : Bool) : State :=
  let (x, s) := drawFree s
  faultPage (updCx s o.owed fun o => { o with parkedOn := some (va / 65536) }) o.issuer va (x.toNat % 256) need forbidden

/-- The area is accessible, or what its pages lead to: a fatal fault, a wait, a fault. -/
def withArea (s : State) (o : CxOp) (bytes : Nat) (need : Need) (fail ok : State → State) : State :=
  if o.fatal then fail s
  else if (o.parkedOn.map fun pg => s.faults.any fun f => sameFault f o.issuer pg need).getD false then s
  else
    match areaFault s o bytes need with
    | some (va, f) => parkCx s o va need f
    | none => ok s

/-! ## Restoring (R306 to R308) -/

/-- A saved group that stands on the core and partition of a team's core j. -/
def SavedContext.standing (c : SavedContext) (tm j part : Nat) : List (Nat × Group) :=
  c.groups.filter fun p => p.2.team == tm && p.2.index / 64 == j && p.2.partition == part

/-- What a team has on an array of one of its cores: its slots, its tiles and its jobs (R225). -/
def SavedContext.arrayOf (c : SavedContext) (tm : Nat) (t : Team) (core x : Nat) : MatArray :=
  let m := tget MatArray.empty c.arrays (arrayIx core x)
  { slots := m.slots.filter fun p => p.2.team == tm
    tiles := m.tiles.filter fun p => (p.2.owner.map t.gids.contains).getD false
    jobs := m.jobs.filter fun j => t.gids.contains j.gid }

/-- Two teams' parts of an array that no slot and no tile of has both, and whose jobs its queue of four holds (R219). -/
def MatArray.apart (m n : MatArray) : Bool :=
  m.slots.all (fun p => (tfind n.slots p.1).isNone) && m.tiles.all (fun p => (tfind n.tiles p.1).isNone)
    && decide (m.jobs.length + n.jobs.length ≤ 4)

/-- Two teams' parts of an array together, their jobs in the order in which the queue took them: the order of their results' numbers. -/
def MatArray.join (m n : MatArray) : MatArray :=
  { slots := n.slots.foldl (fun x p => tput x p.1 p.2) m.slots
    tiles := n.tiles.foldl (fun x p => tput x p.1 p.2) m.tiles
    jobs := sortBy (fun j => j.owed) (m.jobs ++ n.jobs) }

/-- Whether core j of a saved team fits on a core now: positions, registers with the roles' headroom, T-space, arrays. -/
def savedFits (s : State) (c : SavedContext) (tm : Nat) (t : Team) (j core : Nat) : Bool :=
  coreUp s core && decide (t.tPerCore ≤ freeT s core)
    && (upto 4).all (fun x => (tget MatArray.empty s.arrays (arrayIx core x)).apart (c.arrayOf tm t (t.cores.getD j 0) x))
    && (upto 8).all fun part =>
      let gs := c.standing tm j part
      gs.isEmpty || (decide (gs.length ≤ ((freePositions s core).filter fun p => p % 8 == part).length)
        && decide ((gs.map fun p => p.2.budget).sum + headroom t.roles ≤ freeRegisters s core part tm))

/-- A group as it resumes: its stall budgets start again (R146, R306). -/
def Group.resume (core position now : Nat) (g : Group) : Group := { g with core := core, position := position, restart := now }

/-- A saved team back on cores of its number: its groups take the lowest free positions of their partitions (R121), and its matrix
state the arrays of the same index (R225). -/
def restoreTeam (s : State) (c : SavedContext) (tm : Nat) (t : Team) (cores : List Nat) : State :=
  let s := { s with teams := tput s.teams tm { t with cores := cores } }
  let s := (c.groups.filter fun p => p.2.team == tm).foldl
    (fun s p =>
      let core := cores.getD (p.2.index / 64) 0
      putGroup s p.1 (p.2.resume core (lowestPosition s [] core p.2.partition) s.now)) s
  ((upto cores.length).flatMap fun j => (upto 4).map fun x => (j, x)).foldl
    (fun s a =>
      let n := arrayIx (cores.getD a.1 0) a.2
      let m := c.arrayOf tm t (t.cores.getD a.1 0) a.2
      if m = MatArray.empty then s else { s with arrays := tput s.arrays n ((tget MatArray.empty s.arrays n).join m) }) s

/-- What of a saved context is placed at once: a ported grid's teams in the order of its block, or one team (R121, R147). -/
def SavedContext.units (s : State) (c : SavedContext) : List (List (Nat × Team) × Option (Nat × Nat)) :=
  let shape := fun (gr : Nat) => (tfind s.grids gr).bind fun g => if g.block.ports then some (g.block.gx, g.block.gy) else none
  let alone := (c.teams.filter fun p => (shape p.2.grid).isNone).map fun p => ([p], none)
  let grids := ((c.teams.map fun p => p.2.grid).eraseDups).filterMap fun gr => (shape gr).map fun d =>
    (sortBy (fun (p : Nat × Team) => p.2.index) (c.teams.filter fun p => p.2.grid == gr), some d)
  grids ++ alone

/-- Where a unit may go among a tenant's cores, its old place first. -/
def unitPlaces (cores : List Nat) (ts : List (Nat × Team)) (shape : Option (Nat × Nat)) : List (List (List Nat)) :=
  let old := ts.map fun p => p.2.cores
  (if (old.flatMap fun c => c).all cores.contains then [old] else []) ++
    match shape, ts with
    | some (gx, gy), _ => (rectangles cores gx gy).map fun cs => ts.map fun p => [cs.getD p.2.index 0]
    | none, [(_, t)] => (coreSets cores t.threads).map fun cs => [cs]
    | none, _ => []

/-- A unit placed, if it can be now. -/
def restoreUnit (c : SavedContext) (cores : List Nat) (s : State) (u : List (Nat × Team) × Option (Nat × Nat)) : Option State :=
  let fits := fun (cs : List (List Nat)) => (u.1.zip cs).all fun p =>
    ((upto p.2.length).zip p.2).all fun q => savedFits s c p.1.1 p.1.2 q.1 q.2
  ((unitPlaces cores u.1 u.2).find? fits).map fun cs =>
    (u.1.zip cs).foldl (fun s p => restoreTeam s c p.1.1 p.1.2 p.2) s

/-- A copy whose team has moved. -/
def Copy.moved (c : SavedContext) (s : State) (x : Copy) : Copy :=
  match tfind c.teams x.team, tfind s.teams x.team with
  | some old, some new =>
    let mv := fun (core : Nat) => match findIx (fun y => y == core) old.cores 0 with
      | some (j, _) => new.cores.getD j core
      | none => core
    { x with
      core := mv x.core
      members := x.members.map fun m => { m with core := mv m.core }
      tile := x.tile.map fun t => (mv t.1, t.2) }
  | _, _ => x

/-- A request whose group has moved. -/
def Req.moved (s : State) (r : Req) : Req :=
  match tfind s.groups r.gid with
  | some g => { r with core := g.core, port := if r.port = fabricPort then r.port else g.core }
  | none => r

/-- A withdrawn decoder request sent again: its buffer fills from the start. -/
def resendRequest (s : State) (r : DecReq) : State :=
  match tfind s.groups r.gid with
  | none => s
  | some g =>
    let d := decoderOf s g.core
    putDecoder (updBuf s r.gid r.buf fun _ => ⟨0, []⟩) g.core
      { d with queue := d.queue ++ [{ r with
        delivered := 0, fellBack := false, joined := false, origin := 0, parkedOn := none, fatal := false }] }

/-- The number after every one that names something of a context. -/
def SavedContext.top (c : SavedContext) : Nat :=
  ((c.groups.map fun p => p.1) ++ (c.teams.map fun p => p.1) ++ (c.copies.map fun x => x.id) ++ (c.rasters.map fun x => x.id)
    ++ (c.patches.map fun p => p.owed) ++ (c.reqs.map fun r => r.id) ++ (c.reqs.filterMap fun r => r.owed) ++ c.owed.map fun o => o.id).foldl (fun m n => max m (n + 1)) 0

/-- What of a saved context goes with its teams, once these stand. -/
def restoreRest (s : State) (c : SavedContext) : State :=
  let s := { s with
    nextId := max s.nextId c.top
    copies := s.copies ++ c.copies.map (Copy.moved c s)
    reqs := s.reqs ++ c.reqs.map (Req.moved s)
    owed := s.owed ++ c.owed
    patches := s.patches ++ c.patches.filter fun p => !(s.patches.any fun q => q.owed == p.owed)
    rasters := s.rasters ++ c.rasters
    saved := s.saved.filter fun x => x.tenant != c.tenant }
  let s := c.decoder.foldl resendRequest s
  let s := c.groups.foldl (fun s p => fillEntries s p.1 p.2.resBase (p.2.window + p.2.extent - p.2.resBase)) s
  updTenant s c.tenant fun t =>
    { t with
      state := .running
      almanac := { t.almanac with waits := [] }
      graphs := t.graphs ++ c.graphs.map fun g =>
        { g with nodes := g.nodes.map fun n => { n with openedTick := s.now / 12 - n.openedTick } } }

/-- A saved context back in the module; none while some team of it cannot be placed. -/
def restoreContext (s : State) (c : SavedContext) (cores : List Nat) : Option State :=
  ((c.units s).foldl (fun (acc : Option State) u => acc.bind fun s => restoreUnit c cores s u) (some s)).map fun s => restoreRest s c

/-! ## The two instructions at work -/

/-- The context's tenant runs on where it stood; its status. -/
def abandonSave (s : State) (o : CxOp) (st n : Nat) : State := finishCx (setTenantState s o.tenant .running) o.owed st n

/-- A CXSAVE whose area is written, or cannot be: then the context is put back. -/
def settleSave (s : State) (o : CxOp) (c : SavedContext) : State :=
  if o.fatal then
    let cores := ((tfind s.tenants o.tenant).map fun t => t.config.cores).getD []
    match restoreContext { s with images := s.images.erase c } c cores with
    | some s => advanceXchgs (finishCx s o.owed 2 0)
    | none => s
  else if posting s o.issuer (.op o.owed) then s
  else finishCx (setTenantState s o.tenant .saved) o.owed 1 (contextBytes c)

/-- A CXSAVE goes on: once nothing of the context is on its way to another device, the drained context is taken, its area written
and its cores freed. -/
def progressSave (s : State) (o : CxOp) : State :=
  if ((tfind s.tenants o.tenant).map fun t => t.state != .frozen).getD true then finishCx s o.owed 4 0
  else if o.taken then
    match s.saved.find? fun c => c.tenant == o.tenant with
    | some c => settleSave s o c
    | none => finishCx s o.owed 4 0
  else if !(contextQuiet s o.tenant) then s
  else
    let (c, s') := takeContext s o.tenant o.area 1
    let n := contextBytes c
    if o.size < n then abandonSave s o 3 n
    else
      withArea s o n .write (fun s => abandonSave s o 2 0) fun _ =>
        settleSave (updCx (keepSaved (writeContext s' o.issuer c (.op o.owed)) c) o.owed fun o => { o with taken := true }) o c

/-- Whether another tenant that runs has one of these cores: a core belongs to one tenant at a time (R310). -/
def coresTaken (s : State) (tn : Nat) (cores : List Nat) : Bool :=
  s.tenants.any fun p => p.1 != tn && (p.2.state == .running || p.2.state == .frozen) && p.2.config.cores.any cores.contains

/-- Whether an area's header names a saved context of a tenant (R307, R309). -/
def headerValid (b : Bytes) (tn : Nat) : Bool :=
  decide (leNat (b.take 4) = 0x58434C42) && decide (leNat ((b.drop 4).take 1) = tn) && decide (leNat ((b.drop 6).take 2) = 1)

/-- How long the area is that a header describes: its last run begins where it says, and has so many records of 512 bytes. -/
def headerBytes (b : Bytes) : Nat := leNat ((b.drop 112).take 8) + 512 * leNat ((b.drop 32).take 4)

/-- Whether the numbers that name a tenant's things in a context are in use nowhere, and its byte memories are in their one form: both
are the model's own, and no context is left out by them. -/
def SavedContext.sound (s : State) (tn : Nat) (c : SavedContext) : Bool :=
  (c.groups.all fun p => p.2.tenant == tn && (tfind s.groups p.1).isNone) &&
  (c.teams.all fun p => p.2.tenant == tn && (tfind s.teams p.1).isNone && Memory.wf p.2.tmem) &&
  (c.copies.all fun x => x.tenant == tn && !(s.copies.any fun y => y.id == x.id)) &&
  (c.reqs.all fun r => !(s.reqs.any fun q => q.id == r.id)) &&
  (c.owed.all fun o => !(s.owed.any fun q => q.id == o.id)) &&
  c.arrays.all fun p => p.2.slots.all fun q => Memory.wf q.2.elems && Memory.wf q.2.scales

/-- The context that an area holds: one that was written so, or what the records say, whose layout no rule gives (log entry 8). -/
def areaContext (s : State) (tn : Nat) (b : Bytes) : Option SavedContext :=
  match s.images.find? fun c => c.tenant == tn && contextImage c == b with
  | some c => some c
  | none => ((Config.contextOf b).map fun c => { c with tenant := tn }).filter (SavedContext.sound s tn)

/-- Bytes of an area read; what the read meets ends the instruction or makes it wait. -/
def withAreaRead (s : State) (o : CxOp) (n : Nat) (k : State → Bytes → State) : State :=
  withArea s o n .read (fun s => finishCx s o.owed 2 0) fun s =>
    match readUnits s o.issuer o.area .read ((n + 63) / 64) with
    | .ok b => k s b
    | .wait dev r va => askRemote s o.issuer dev r va
    | .failed _ | .page _ _ => finishCx s o.owed 2 0

/-- A CXLOAD goes on: the area's header is read and checked, then its records, and the context placed as soon as every team can be. -/
def progressLoad (s : State) (o : CxOp) : State :=
  match tfind s.tenants o.tenant with
  | none => finishCx s o.owed 5 0
  | some t =>
    if t.state = .running ∨ t.state = .frozen then finishCx s o.owed 4 0
    else if !(moduleUp s) || coresTaken s o.tenant t.config.cores then s
    else
      withAreaRead s o 4096 fun s h =>
        let n := headerBytes h
        if !(headerValid h o.tenant) then finishCx s o.owed 5 0
        else if o.size < n then finishCx s o.owed 3 n
        else
          withAreaRead s o n fun s b =>
            match areaContext s o.tenant (b.take n) with
            | none => finishCx s o.owed 5 0
            | some c =>
              match restoreContext (clearFetched s o.issuer) c t.config.cores with
              | none => s
              | some s => advanceXchgs (finishCx s o.owed 1 n)

/-- Every context instruction that has not ended goes on. -/
def progressCx (s : State) : State :=
  s.cxops.foldl
    (fun s o => match s.cxops.find? fun x => x.owed == o.owed with
      | some o => if o.save then progressSave s o else progressLoad s o
      | none => s) s

/-! ## The instructions (R309) -/

/-- The checks of step 8 on kt and the area's address. -/
def cxOperandsBad (own kt area : Nat) : Bool :=
  fld kt 4 28 != 0 || area % 4096 != 0 || decide (2 ^ 52 ≤ area) || fld kt 0 4 == own

/-- The status of a context instruction, owed. -/
def oweStatus (s : State) (i : Iss) (fs : FSel) (ka : KCode) : Nat × State :=
  oweResult s i.gid .other (i.flag fs) [kName i.g ka.toNat] [] 1

/-- CXSAVE and CXLOAD: privileged, a release at .sys, then their operands, then their effect on the tenant. -/
def cxOp (s : State) (save : Bool) (ka kb kc : KCode) (fs : FSel) : Out :=
  issue s { fs := fs, ks := [ka.toNat, kb.toNat, kc.toNat], priv := true, tracked := 1 } 0 fun i =>
    let kt := (kGet i.g kb.toNat).toNat
    let area := (kGet i.g kc.toNat).toNat
    if cxOperandsBad i.g.tenant kt area then raise s i 0x01
    else if releasePending s i.gid i.pathMask then s
    else
      let tn := fld kt 0 4
      let running := ((tfind s.tenants tn).map fun t => t.state == .running).getD false
      let (id, s) := oweStatus s i fs ka
      if running != save then done (bumpSeq (finishCx s id 4 0)) i
      else
        let s := if save then (s.xchgs.filter fun x => x.tenant == tn).foldl
            (fun s x => x.peers.foldl (fun s p => answer s ⟨p.dev, 0, partitionOf s tn, 0, .parked⟩ .parked) s)
            (setTenantState s tn .frozen)
          else s
        let o : CxOp := ⟨id, save, i.g.tenant, tn, area, fld kt 32 32 * 4096, false, none, false⟩
        progressCx (done (bumpSeq { s with cxops := s.cxops ++ [o] }) i)

/-- CXSAVE. -/
def execCxsave (ka kb kc : KCode) (fs : FSel) (s : State) : Out := cxOp s true ka kb kc fs

/-- CXLOAD. -/
def execCxload (ka kb kc : KCode) (fs : FSel) (s : State) : Out := cxOp s false ka kb kc fs

/-- The live group of a tenant at a position. -/
def groupAt (s : State) (tn core position : Nat) : Option Nat :=
  (s.groups.find? fun p => p.2.live && p.2.tenant == tn && p.2.core == core && p.2.position == position).map fun p => p.1

/-- What CXKILL kills; none: nothing stands there. -/
def cxKill (s : State) (kw : Nat) : Option State :=
  let tn := fld kw 0 4
  let rec_ := fun (s : State) => killRecord s tn kw 0 0 0
  let one := fun (sc : KillScope) => (groupAt s tn (fld kw 8 8) (fld kw 16 6)).map fun g => rec_ (killScopeOf s g sc)
  match fld kw 4 2 with
  | 0 => one .group
  | 1 => one .team
  | 2 => one .grid
  | _ => if (runningTenants s).contains tn then some (rec_ (contextReset s tn)) else none

/-- CXKILL (R296, R297, R309). -/
def execCxkill (ka kb : KCode) (fs : FSel) (s : State) : Out :=
  issue s { fs := fs, ks := [ka.toNat, kb.toNat], priv := true, tracked := 1 } 0 fun i =>
    let kw := (kGet i.g kb.toNat).toNat
    if 2 ^ 22 ≤ kw ∨ fld kw 6 2 ≠ 0 ∨ fld kw 0 4 = i.g.tenant ∨ (fld kw 4 2 = 3 ∧ fld kw 8 14 ≠ 0) then raise s i 0x01
    else if releasePending s i.gid i.pathMask then s
    else
      let (id, s) := oweStatus s i fs ka
      match cxKill s kw with
      | some s => done (bumpSeq (finishCx s id 1 0)) i
      | none => done (bumpSeq (finishCx s id 4 0)) i

/-- PLACEMENT_STEP (R272, R309): contexts that wait to be restored go ahead of every queue head of their tenants. -/
def execPlacementStep (s : State) : Out := .next (placementStep (progressCx s))

end Sys2Proof.Machine
end

