-- ==== Sys2Proof/Machine/System.lean ====
section
/-! DEFINITION. TRAP and RETT (R295), the fault server's replies and translation flushes (R303, R304), ECC errors (R305) and a
diverging replay (R312). -/

namespace Sys2Proof.Machine

open Sys2Proof

/-- TRAP (R295). -/
def execTrap (n : BitVec 8) (s : State) : Out := issue s {} 0 fun i => raiseAt s i 0x15 n.toNat (i.active 0) 0

/-- RETT (R295). -/
def execRett (s : State) : Out :=
  issue s {} 0 fun i =>
    match i.g.handler with
    | none => raise s i 0x01
    | some h =>
      let hdr := (h.bank.getD 1 0).toNat
      if hdr % 8 ≠ 0 ∨ 2 ^ 52 ≤ hdr then raise s i 0x01 else leaveHandler s i.gid

/-! ## Fault replies (R303, R304) -/

/-- Whether 64 KiB of M lie in the page of a fault (R302). -/
def PageFault.onPage (f : PageFault) (pg : Nat) : Bool := decide (f.page ≤ pg) && decide (pg < f.page + f.size)

/-- A fatal reply reaches the accesses that a page fault holds; each takes its fatal path as it next goes on. -/
def PageFault.failGroup (f : PageFault) (g : Group) : Group :=
  match g.park with
  | some ⟨sl, c, .page w pages fatal⟩ =>
    if g.tenant = f.tenant ∧ w = f.write then
      { g with park := some ⟨sl, c, .page w pages (fatal ++ pages.filter f.onPage)⟩ }
    else g
  | _ => g

/-- Whether something of a tenant is parked on the page of a fault. -/
def PageFault.holds (f : PageFault) (tn : Nat) (pk : Option (Nat × Bool)) : Bool :=
  f.tenant == tn && match pk with
    | some (pg, w) => f.onPage pg && w == f.write
    | none => false

def PageFault.failCopy (f : PageFault) (c : Copy) : Copy :=
  if f.holds c.tenant c.parkedOn then { c with fatal := some f.write } else c

def PageFault.failRaster (f : PageFault) (r : Raster) : Raster :=
  if f.holds r.tenant r.parkedOn then { r with fatal := true } else r

def PageFault.failDecoder (f : PageFault) (d : Decoder) : Decoder :=
  { queue := d.queue.map fun r => if f.holds r.stream.tenant r.page then { r with fatal := true } else r
    entries := d.entries.map fun e => if f.holds e.stream.tenant e.parkedOn then { e with fatal := true } else e }

def PageFault.failGrid (f : PageFault) (g : Grid) : Grid :=
  if f.holds g.tenant (g.parkedOn.map fun p => (p, g.depReady)) then { g with fatal := true } else g

def PageFault.failTenant (f : PageFault) (tn : Nat) (t : Tenant) : Tenant :=
  { t with graphs := t.graphs.map fun g =>
    if f.holds tn (g.parkedOn.map fun p => (p, true)) then { g with fatal := true } else g }

def PageFault.failXchg (f : PageFault) (x : Xchg) : Xchg :=
  { x with waits := x.waits.map fun w => if f.holds x.tenant (some (w.page, w.write)) then { w with fatal := true } else w }

def PageFault.failArrived (f : PageFault) (s : State) (a : Arrived) : Arrived :=
  if tenantOfPartition s a.pkt.part == some f.tenant then
    { a with park := a.park.map fun p => if f.onPage p.1 ∧ p.2.1 = f.write then (p.1, p.2.1, true) else p }
  else a

def PageFault.failCx (f : PageFault) (o : CxOp) : CxOp :=
  if f.holds o.issuer (o.parkedOn.map fun p => (p, o.save)) then { o with fatal := true } else o

/-- A data access's fatal reply. -/
def PageFault.fail (f : PageFault) (s : State) : State :=
  { s with
    groups := s.groups.map fun p => (p.1, f.failGroup p.2)
    copies := s.copies.map f.failCopy
    rasters := s.rasters.map f.failRaster
    decoders := s.decoders.map fun p => (p.1, f.failDecoder p.2)
    patches := s.patches.map fun p => if f.holds p.stream.tenant p.parkedOn then { p with fatal := true } else p
    grids := s.grids.map fun p => (p.1, f.failGrid p.2)
    tenants := s.tenants.map fun p => (p.1, f.failTenant p.1 p.2)
    xchgs := s.xchgs.map f.failXchg
    rx := s.rx.map (f.failArrived s)
    cxops := s.cxops.map f.failCx
    saved := s.saved.map fun c => { c with copies := c.copies.map f.failCopy, rasters := c.rasters.map f.failRaster } }

/-- A fetch's fatal reply: the fetches parked on the page take trap 0x13 as they next go on, at the clause with index 0. -/
def PageFault.failFetch (f : PageFault) (g : Group) : Group :=
  let slot := fun (sl : Slot) => match sl.fetchWait with
    | some (pg, _) => if f.onPage pg then { sl with fetchWait := some (pg, true) } else sl
    | none => sl
  if g.tenant = f.tenant then { g with slot0 := g.slot0.map slot, slot1 := g.slot1.map slot } else g

def failFetch (f : PageFault) (s : State) : State := { s with groups := s.groups.map fun p => (p.1, f.failFetch p.2) }

/-- Kill records that found the log full take the slots that are free now, oldest first (R298, R303). -/
def retryKills (s : State) (tn : Nat) : State :=
  (((tfind s.tenants tn).map fun t => t.killsPending).getD []).foldl
    (fun s k =>
      match writeRecord s tn k.1 15 0 0 k.2 with
      | .written s _ => sendMsix (updTenant s tn fun t => { t with killsPending := t.killsPending.erase k }) tn 0
      | .full => s
      | .failure => machineCheckNoRecord s tn) s

/-- A slot of the fault log has become free, or a fault has been answered: what waited goes on. -/
def resumeFaults (s : State) (tn : Nat) : State :=
  let (s, bad) := logFaults s tn
  advanceXchgs (progressCx (if bad then machineCheckNoRecord s tn else retryKills s tn))

/-- What a read brought from another device is used up. -/
def dropFetched (s : State) (tn va : Nat) : State :=
  { s with fetched := s.fetched.filter fun x => !(x.tenant == tn && x.va == va && !x.word) }

/-- A reply to record n: the slot is free, and what was parked goes on or takes its fatal path. -/
def takeReply (s : State) (tn n reply : Nat) : State :=
  let s := updTenant s tn fun t => { t with logWaits := t.logWaits.erase n }
  match s.faults.find? fun f => f.tenant == tn && f.record == some n with
  | none => resumeFaults s tn
  | some f =>
    let s := { s with faults := s.faults.erase f }
    resumeFaults (if reply = 1 ∨ f.waiters = 0 then s else if f.exec then failFetch f s else f.fail s) tn

/-- FAULT_REPLY (R303): the reply word of a record, which the device watches. A word on another device's page is asked for there; one that
cannot be had is a failure of the log (log entry 90). -/
def execFaultReply (tn n : Nat) (s : State) : Out :=
  .next
    (match tfind s.tenants tn with
    | none => s
    | some t =>
      if 64 ≤ n then s
      else
        match readUnit s tn (logAddr t n + 16) 4 .write with
        | .ok b =>
          let s := dropFetched s tn (logAddr t n + 16)
          if leNat b = 0 then s else takeReply s tn n (leNat b)
        | .wait dev r va => askRemote s tn dev r va
        | .failed va => machineCheckNoRecord (dropFetched s tn va) tn
        | .page _ _ => s)

/-- Whether a request to another device is an access by a tenant's translation. -/
def Remote.accesses (s : State) (tn : Nat) (r : Remote) : Bool :=
  match r.use with
  | .lane gid _ => ((groupTeam s gid).map fun x => x.1.tenant == tn).getD false
  | .copy id => s.copies.any fun c => c.id == id && c.tenant == tn
  | .unit t _ | .word t _ | .post t _ => t == tn
  | .peer _ _ => false

/-- TRANSLATION_FLUSH (R303): the cached translations of a page go, once every access made through one is performed. -/
def execTranslationFlush (tn va : Nat) (s : State) : Out :=
  .next
    (if (s.reqs.any fun r => (r.space == .m || r.space == .host) && r.tenant == tn) || s.remotes.any (Remote.accesses s tn) then s
    else { s with cache := s.cache.filter fun c => !(c.tenant == tn && c.page == va / c.size * c.size) })

/-! ## ECC errors (R305) -/

/-- The word of the instruction that a slot stands at; one that has begun no clause has none: free. -/
def slotWord (s : State) (sl : Slot) : W64 × State :=
  match sl.clause with
  | some c => (c.words.getD sl.path.ix 0, s)
  | none => drawFree s

/-- The lanes that trap 0x19 reports: the active ones of an MSTAT.ford (R244), else the path's. -/
def errorLanes (g : Group) (sl : Slot) (w : W64) : W32 :=
  match decode w with
  | .ok (.mstatFord _ _ _ p _) => sl.path.mask &&& mGet g p.toNat
  | _ => sl.path.mask

/-- Trap 0x19 in a group, at the instruction that parked it or else that its begun slot stands at. -/
def dataError (s : State) (gid : Nat) : State :=
  match tfind s.groups gid with
  | none => s
  | some g =>
    let n := match g.park with
      | some r => r.slot
      | none => if (g.slot0.bind fun sl => sl.clause).isSome then 0 else if (g.slot1.bind fun sl => sl.clause).isSome then 1 else 0
    match slotOf g n with
    | some sl =>
      let (w, s) := slotWord s sl
      takeTrap s gid n 0x19 0 (errorLanes g sl w) 0 w
    | none => s

/-- The dispatcher could not read a batch's records: the graph records state 3, and the batch is not placed (R304). -/
def failBatch (s : State) (tn slot : Nat) : State :=
  updGraph s tn slot fun g =>
    match g.closed with
    | [] => g
    | b :: rest => { g with closed := rest, killedNode := g.killedNode.or (some b.node) }

/-- UNCORRECTABLE_ERROR: the reading agent reports it, then its tenant takes a machine check; in state that no tenant owns it
resets every running context. -/
def execUncorrectableError (e : ErrorSite) (s : State) : Out :=
  .next
    (match e with
    | .copyRead id =>
      match s.copies.find? fun c => c.id == id with
      | some c => machineCheck (completeCopy s { c with state := some (6, 0) }) c.tenant
      | none => s
    | .walkRead core wid =>
      match (decoderOf s core).entries.find? fun e => e.wid == wid with
      | some e => machineCheck (failWalk s core e 13) e.stream.tenant
      | none => s
    | .queuedRead core n =>
      match (decoderOf s core).queue[n]? with
      | some r =>
        let r := { r with fellBack := namedStale s r.stream r.windows r.ford }
        machineCheck (endUnserved (dropQueued s core n) r 13) r.stream.tenant
      | none => s
    | .patchRead n =>
      match s.patches[n]? with
      | some r => if r.result.isSome then s else machineCheck (endPatch s n r (errorStatus 13)) r.stream.tenant
      | none => s
    | .rasterRead id =>
      match s.rasters.find? fun r => r.id == id with
      | some r => if r.error.isSome then s else machineCheck (failRaster s r 13) r.tenant
      | none => s
    | .mstatRead gid | .groupRead gid =>
      match tfind s.groups gid with
      | some g => if g.live then machineCheck (dataError s gid) g.tenant else s
      | none => s
    | .xchgRead id =>
      match xchgOf s id with
      | some x => machineCheck (fillOwed s (some x.owed) (owedScalar s x.owed (statusWord 6 0 x.units))) x.tenant
      | none => s
    | .batchRead tn slot => machineCheck (failBatch s tn slot) tn
    | .launchRead tn => machineCheck s tn
    | .hostRead tn => machineCheck (replyHost s none) tn
    | .unowned =>
      (runningTenants s).foldl (fun s tn => killRecord (contextReset s tn) tn (killWord 0 0 3 tn) 0 0 0) s)

/-- CORRECTED_ERROR: nothing visible changes, and the tenant's count goes up. -/
def execCorrectedError (tn : Nat) (s : State) : Out :=
  .next { s with corrected := tset 0 s.corrected tn (satInc64 (tget 0 s.corrected tn)) }

/-! ## Replay (R312) -/

/-- Whether the owner of a forced wait still waits. -/
def AlmanacWait.stands (s : State) (tn : Nat) (t : Tenant) (w : AlmanacWait) : Bool :=
  match w.ty with
  | 3 => s.keys.any fun e => e.tenant == tn && e.waiting.any fun x => x.entrant == w.owner
  | 4 => t.graphs.any fun g => g.generation == w.owner && g.nodes.any fun n => !n.openRecords.isEmpty
  | 5 => (s.reqs.any fun r => r.id == w.owner) || s.copies.any fun c => c.id == w.owner
  | _ => ((tfind s.groups (w.owner / 2)).map fun g => g.live).getD false

/-- REPLAY_DIVERGENCE: a forced wait longer than 2^20 clocks stops the context. -/
def execReplayDivergence (tn : Nat) (s : State) : Out :=
  .next
    (match tfind s.tenants tn with
    | none => s
    | some t =>
      if !(replaying s tn) || !(t.almanac.waits.any fun w => decide (w.since + 2 ^ 20 < s.now) && w.stands s tn t) then s
      else
        let s := contextReset (countTrap s tn 0x1B) tn
        let s := updTenant s tn fun t => { t with state := .configured, almanac := { t.almanac with state := 4 } }
        killRecord (storeM s tn (t.config.almanacBuffer + 5) (leBytes 1 4)) tn (killWord 0 0 3 tn) 0 0x1B 0)

end Sys2Proof.Machine
end

