-- ==== Sys2Proof/Machine/Boot.lean ====
section
/-! DEFINITION. Boot and measurement (R343 to R347), attestation (R348), tenant configuration and start (R349, R350), the
monitors (R351, R352) and power (R353). -/

namespace Sys2Proof.Config

/-- A tenant configuration as the bytes that are measured (R346, R348): no rule lays them out. Free. -/
opaque configBytes : Sys2Proof.TenantConfig → List (BitVec 8)

end Sys2Proof.Config

namespace Sys2Proof.Machine

open Sys2Proof

/-! ## Boot (R343 to R346) -/

/-- The measurement register with a component measured. -/
def extend (m c : Bytes) : Bytes := shake256 (m ++ shake256 c)

/-- The fields of an image that R344 gives ranges, and R345's sum. -/
def imageInRange (b : Bytes) : Bool :=
  let f := fun o n => leNat ((b.drop o).take n)
  let len := f 8 8
  let load := f 16 8
  decide (f 0 4 = 0x4D494C42) && decide (f 4 2 = 1) && decide (f 6 2 = 0) && decide (len % 64 = 0)
    && decide (len ≤ 16 * 2 ^ 20 - 49984) && decide (load % 64 = 0) && decide (load ≤ f 24 8) && decide (f 24 8 < load + len)
    && decide (load + len ≤ 16 * 2 ^ 20) && decide (f 96 32 = 0) && decide (49984 + len ≤ b.length)

/-- Bytes of control-core SRAM (R2). -/
def sramSize : Nat := 16 * 2 ^ 20

def imageKey (b : Bytes) : Bytes := (b.drop 32).take 64
def imagePayload (b : Bytes) : Bytes := (b.drop 49984).take (leNat ((b.drop 8).take 8))

/-- Whether the ROM accepts an image (R345). -/
def imageAccepted (revoked : List Bool) (b : Bytes) : Bool :=
  imageInRange b
    && (upto 4).any (fun j => shake256 (imageKey b) == Config.fusedDigest j && !(revoked.getD j false))
    && verifies (imageKey b) (b.take 128 ++ imagePayload b) ((b.drop 128).take 49856)

/-- The fused secret, and the identity key that it gives at every boot (R347). -/
def fusedSecret : Bytes := (upto 96).map Config.fusedSecret
def identityKey : Bytes := publicKey fusedSecret

/-- A link as it comes up. -/
def LarLink.fresh (now : Nat) : LarLink :=
  { up := true, sendSeq := 0, expect := 0, unacked := [], waiting := [], wire := [], replays := 0, lastIntact := now }

/-- A fabric configuration in R317's ranges. -/
def FabricConfig.inRange (x : Nat × List (Nat × Nat) × Nat) : FabricConfig :=
  let link := fun (n : Nat) => min 16 n
  { dev := x.1 % 1024
    routes := (upto 1024).map fun k => match x.2.1[k]? with
      | some (p, a) => (link p, link a)
      | none => (16, 16)
    timeout := max 1 (min 65535 x.2.2) }

/-- The payload loaded and entered, the image measured, the fabric configuration loaded and measured, the dies started: each core's
counter begins as the core leaves reset (R95). -/
def bootImage (s : State) (b : Bytes) : State :=
  let payload := imagePayload b
  let fab := payload.drop (Config.firmwareLength payload)
  let m := extend (extend (List.replicate 32 0) (b.take (49984 + payload.length))) fab
  { s with
    sram := writeBytes s.sram (leNat ((b.drop 16).take 8)) payload
    entry := some (leNat ((b.drop 24).take 8))
    coreStart := (upto 256).foldl (fun m core => tset 0 m core (s.now + Config.coreLag s.boots core)) []
    boot := .booted
    measure := m
    firmware := m
    partDigest := shake256 identityKey
    boots := s.boots + 1
    fabric := FabricConfig.inRange (Config.fabricFields fab)
    links := (upto 16).map fun n => (n, LarLink.fresh s.now)
    diesInReset := false }

/-- One attempt on a port: a file that SRAM holds is placed there whole, and then checked (log entry 83). -/
def bootAttempt (s : State) (port : Nat) (f : BootFile) : State :=
  match f.addressed, f.file with
  | true, some b =>
    if sramSize < b.length then { s with boot := .failed port s.now }
    else
      let s := { s with sram := writeBytes s.sram 0 b }
      if imageAccepted s.revoked b then bootImage s b else { s with boot := .failed port s.now }
  | _, _ => { s with boot := .failed port s.now }

/-- BOOT_ROM_START (R343): the attempt on port 0, or the one that a retry has begun. -/
def execBootRomStart (f : BootFile) (s : State) : Out :=
  .next
    (match s.boot with
    | .inReset => bootAttempt s 0 f
    | .trying port => bootAttempt s port f
    | .failed _ _ | .booted => s)

/-- Clocks in one millisecond. -/
def State.millisecond (s : State) : Nat := 1000 * s.clockMHz

/-- BOOT_RETRY (R343): 1 second after a failure the ROM begins again on the other port. -/
def execBootRetry (s : State) : Out :=
  .next
    (match s.boot with
    | .failed port at_ => if at_ + 1000 * s.millisecond ≤ s.now then { s with boot := .trying (1 - port) } else s
    | _ => s)

/-! ## Attestation (R347, R348) -/

/-- Bytes cut or padded to a length. -/
def fit (n : Nat) (b : Bytes) : Bytes := (b ++ List.replicate (n - b.length) 0).take n

/-- Bytes 0 to 255 of a report. -/
def reportBody (s : State) (subject : Option Nat) (nonce : Bytes) (config : Option TenantConfig) : Bytes :=
  leBytes 4 0x54544152 ++ leBytes 2 1 ++ leBytes 1 (subject.getD 0xFF) ++ leBytes 1 0 ++ fit 32 nonce ++ fit 32 s.partDigest
    ++ fit 32 s.firmware ++ (match config with
      | some c => shake256 (Config.configBytes c)
      | none => List.replicate 32 0) ++ leBytes 8 s.boots ++ List.replicate 112 0

/-- The configuration that a request's report covers; none: the requester may not have it. -/
def attestSubject (s : State) (r : AttestRequest) : Option (Option TenantConfig) :=
  let config := fun (tn : Nat) => (tfind s.tenants tn).bind fun t => if t.state = .absent then none else some t.config
  match r.vf, r.subject with
  | none, none => some none
  | none, some tn => (config tn).map some
  | some v, some tn => if v = tn then (config tn).map some else none
  | some _, none => none

/-- ATTESTATION_REQUEST (R348): reports are produced in the order of their requests. -/
def execAttestationRequest (r : AttestRequest) (s : State) : Out :=
  .next
    (match s.boot, attestSubject s r with
    | .booted, some c =>
      let body := reportBody s r.subject r.nonce c
      let rand := leBytes 32 (Config.signRandom s.reports.length).toNat
      { s with reports := s.reports ++ [body ++ fit 49856 (signWith fusedSecret rand body)] }
    | _, _ => s)

/-! ## Tenants (R349, R350) -/

def Monitors.clear : Monitors := ⟨Monitor.clear, Monitor.clear⟩

/-- A tenant as it is first configured. -/
def Tenant.fresh (c : TenantConfig) : Tenant :=
  { state := .configured, config := c, queues := [], graphs := [], graphGens := [], domains := [], traps := []
    copyMon := Monitors.clear, loadMon := Monitors.clear, procMon := Monitors.clear, chanMon := Monitors.clear
    queueMon := Monitors.clear, trapsCopied := [], nextSerial := 0
    almanac := { state := 0, written := 0, replay := [], orders := [], waits := [] }
    earlyCounts := [], endedCounts := [], msix := [], msixTable := [], gridSerial := 0, killsPending := [], logWaits := [] }

/-- A configuration with the fields that may change live taken from another. -/
def liveConfig (old new : TenantConfig) : TenantConfig :=
  { old with
    handler := new.handler, killScope := new.killScope, chanBudget := new.chanBudget, procBudget := new.procBudget
    rasterThreshold := new.rasterThreshold }

/-- The configuration that a write leaves. -/
def configWritten (w : ConfigWrite) (c : TenantConfig) : TenantConfig :=
  match w with
  | .all x => x
  | .handler a => { c with handler := a }
  | .killScope k => { c with killScope := k }
  | .chanBudget b => { c with chanBudget := b }
  | .procBudget b => { c with procBudget := b }
  | .rasterThreshold t => { c with rasterThreshold := t }
  | .powerLimit _ => c

/-- A range of scratch lies in the module's 1 GiB. -/
def inModule (base size : Nat) : Bool := decide (base + size ≤ 2 ^ 30)

/-- Bytes of a tenant's overflow area: 65,536 entries of 32 bytes (R150). -/
def overflowSize : Nat := 65536 * 32

/-- Whether two ranges, each a base and a size, have no byte in common. -/
def rangesApart (x y : Nat × Nat) : Bool := decide (x.1 + x.2 ≤ y.1) || decide (y.1 + y.2 ≤ x.1) || x.2 == 0 || y.2 == 0

/-- The ranges of scratch that are a tenant's alone (R162, R164, R310). -/
def tenantRanges (c : TenantConfig) : List (Nat × Nat) :=
  [(c.scratchBase, c.scratchSize), (c.lBase, c.lSize), (c.overflowBase, overflowSize)]

/-- Whether a configuration's ranges meet no other tenant's: windows of different tenants never overlap, and an L region lies outside
every window (R162, R164). -/
def rangesFree (s : State) (tn : Nat) (c : TenantConfig) : Bool :=
  s.tenants.all fun p => p.1 == tn || p.2.state == .absent ||
    (tenantRanges c).all fun x => (tenantRanges p.2.config).all fun y => rangesApart x y

/-- Whether a configuration names what the module has: its 256 cores, each once, its scratch (R2), an L region outside every window that
the scratch range may hold (R164), BAR2 in multiples of 64 KiB (R349). -/
def configLegal (c : TenantConfig) : Bool :=
  c.cores.all (fun x => decide (x < 256)) && decide (c.cores.eraseDups.length = c.cores.length)
    && inModule c.scratchBase c.scratchSize && inModule c.lBase c.lSize && inModule c.overflowBase overflowSize && inModule c.inbox 4096
    && rangesApart (c.lBase, c.lSize) (c.scratchBase, c.scratchSize) && rangesApart (c.lBase, c.lSize) (c.overflowBase, overflowSize)
    && decide (c.bar2Base % 65536 = 0) && decide (c.bar2Size % 65536 = 0)

/-- A mailbox write that is refused for what it names: no rule gives its status (log entry 84). -/
def refuseMailbox (s : State) : State :=
  let (x, s) := drawFree s
  { s with mailbox := some x.toNat }

/-- The limit that the PF sets, at most 1,500 W (R353). -/
def setPowerLimit (s : State) (w : Nat) : State :=
  if 1500 < w then refuseMailbox s else { s with powerLimit := w, mailbox := none }

/-- TENANT_CONFIG_WRITE (R350): a write that would change a "no" field of a running tenant fails with status 4. Scratch may change hands, so
the divergence areas' bytes are stored (log entry 88). -/
def execTenantConfigWrite (tn : Nat) (w : ConfigWrite) (s : State) : Out :=
  .next
    (if s.boot ≠ .booted ∨ 16 ≤ tn then s
    else
      match w, tfind s.tenants tn with
      | .powerLimit x, _ => setPowerLimit s x
      | .all c, none =>
        if configLegal c && rangesFree s tn c then { layAreas s 0 (2 ^ 30) with tenants := tput s.tenants tn (Tenant.fresh c), mailbox := none }
        else refuseMailbox s
      | _, none => s
      | _, some t =>
        let c := configWritten w t.config
        if !(configLegal c && rangesFree s tn c) then refuseMailbox s
        else if (t.state = .running ∨ t.state = .frozen) ∧ liveConfig t.config c ≠ c then { s with mailbox := some 4 }
        else
          { updTenant (layAreas s 0 (2 ^ 30)) tn fun t => { t with config := c, state := if t.state = .absent then .configured else t.state } with
            mailbox := none })

/-- The almanac's header (R311). -/
def almanacHeader (s : State) (tn : Nat) (c : TenantConfig) (state written : Nat) : Bytes :=
  leBytes 4 0x4E414C41 ++ leBytes 1 tn ++ leBytes 1 state ++ leBytes 2 1 ++ leBytes 8 c.almanacSize ++ leBytes 8 written
    ++ fit 32 s.partDigest ++ fit 32 s.firmware ++ List.replicate 168 0

/-- The entries that a recorded almanac's bytes hold. -/
def parseEntries : Nat → Bytes → List AlmanacEntry
  | 0, _ => []
  | fuel + 1, b =>
    if b.length < 16 then []
    else
      let f := fun o n => leNat ((b.drop o).take n)
      let n := 16 * f 2 2
      ⟨f 0 1, f 4 4, f 8 8, (b.drop 16).take n⟩ :: parseEntries fuel (b.drop (16 + n))

/-- The almanac that a starting tenant has; none: replay is refused (R312). -/
def startAlmanac (s : State) (tn : Nat) (c : TenantConfig) : Option (State × Almanac) :=
  match c.almanac with
  | .off => some (s, { state := 0, written := 0, replay := [], orders := [], waits := [] })
  | .record =>
    some (storePieces s tn c.almanacBuffer 16 (almanacHeader s tn c 1 0),
      { state := 1, written := 0, replay := [], orders := [], waits := [] })
  | .replay =>
    match readM s tn c.almanacBuffer 256 .read with
    | .ok h =>
      let n := leNat ((h.drop 16).take 8)
      if leNat (h.take 4) = 0x4E414C41 ∧ leNat ((h.drop 5).take 1) = 2 ∧ (h.drop 24).take 32 = s.partDigest
          ∧ (h.drop 56).take 32 = s.firmware then
        match readM s tn (c.almanacBuffer + 256) n .read with
        | .ok b =>
          -- what remains to be forced: of the entries of type 1 the host's own writes, since the program makes its launches itself
          let es := (parseEntries (n / 16) b).filter fun e => e.ty != 1 || decide (e.key < 4096)
          some (s, { state := 2, written := n, replay := es, orders := [], waits := [] })
        | _ => none
      else none
    | _ => none

/-- TENANT_START (R346, R350): the configuration is measured and the tenant runs; ROOT_PROGRAM_LAUNCH launches its root. -/
def execTenantStart (tn : Nat) (s : State) : Out :=
  .next
    (match tfind s.tenants tn with
    | none => s
    | some t =>
      if t.state ≠ .configured ∨ s.boot ≠ .booted ∨ coresTaken s tn t.config.cores then s
      else
        match startAlmanac s tn t.config with
        | none => s
        | some (s, a) =>
          updTenant { s with measure := extend s.measure (Config.configBytes t.config) } tn fun t =>
            { t with state := .running, almanac := a })

/-! ## Monitors (R351, R352) -/

/-- A clear: the fields go into the read copy and start again. -/
def Monitors.snapshot (m : Monitors) : Monitors := ⟨Monitor.clear, m.live⟩

def Tenant.clearMonitor (t : Tenant) (m : MonitorName) : Tenant :=
  match m with
  | .copy => { t with copyMon := t.copyMon.snapshot }
  | .load => { t with loadMon := t.loadMon.snapshot }
  | .procession => { t with procMon := t.procMon.snapshot }
  | .channel => { t with chanMon := t.chanMon.snapshot }
  | .queue => { t with queueMon := t.queueMon.snapshot }
  | .traps => { t with trapsCopied := t.traps, traps := [] }

/-- MONITOR_CLEAR (R352). -/
def execMonitorClear (tn : Nat) (m : MonitorName) (s : State) : Out := .next (updTenant s tn fun t => t.clearMonitor m)

/-- QUEUE_SAMPLE (R351): the occupancy of each launch queue, once in 1,024 clocks. -/
def execQueueSample (s : State) : Out :=
  .next
    (if s.now / 1024 ≤ s.sampled then s
    else
      { s with
        sampled := s.now / 1024
        tenants := s.tenants.map fun p =>
          (p.1, if p.2.state = .absent then p.2 else
            { p.2 with queueMon := (upto 4).foldl (fun m q => m.sample (p.2.queue q).length) p.2.queueMon }) })

/-! ## Power (R353) -/

/-- POWER_SAMPLE: power is read every 1 ms; over the limit, or a die above 95 °C, the clock goes down by 100 MHz to no less than 600; it goes up again once
both have been clear for 100 ms. -/
def execPowerSample (r : PowerReading) (s : State) : Out :=
  .next
    (if s.now < s.powerRead + s.millisecond then s
    else
      let s := { s with powerRead := s.now }
      if s.powerLimit < r.watts || r.dieTemps.any fun x => decide (95 < x) then
        { s with clockMHz := max 600 (s.clockMHz - 100), coolSince := s.now }
      else if s.clockMHz < 1200 ∧ s.coolSince + 100 * s.millisecond ≤ s.now then
        { s with clockMHz := min 1200 (s.clockMHz + 100) }
      else s)

/-- THERMAL_SHUTDOWN: a die at 110 °C; the compute dies are held in reset. -/
def execThermalShutdown (_die : Nat) (s : State) : Out :=
  .next ((runningTenants s).foldl machineCheck { s with diesInReset := true })

end Sys2Proof.Machine
end

