-- ==== Sys2Proof/Machine/Falu.lean ====
section
/-! DEFINITION. The VALU's floating-point, packed, conversion and LNS6 instructions (R101 to R119). Each writes its
destination in its active lanes and ORs its lanes' flags into %fflags (R61). -/

namespace Sys2Proof.Machine

open Sys2Proof

/-- A floating-point instruction: each active lane's writes and flags, from the group as it stood. -/
def falu (s : State) (u : Uses) (p : MCode) (f : Iss → Nat → List RegWrite × FFlags) : Out :=
  issue s { u with ms := p.toNat :: u.ms } p fun i =>
    let rs := (lanesOf (i.active p)).map (f i)
    let g := applyWrites i.g (rs.flatMap fun r => r.1)
    finish s i { g with fflags := rs.foldl (fun x r => x ||| r.2) g.fflags }

/-- A 32-bit result with its flags. -/
def fResult (i : Iss) (d : VCode) (l : Nat) (r : Nat × FFlags) : List RegWrite × FFlags :=
  (laneWrites i.g d.toNat l 1 r.1, r.2)

/-- An f32 source under its modifiers (R103). -/
def fSrc (i : Iss) (a : VCode) (neg abs : Bool) (l : Nat) : FVal :=
  (unpack fmtF32 (srcLane i.g a.toNat l 1)).modify neg abs

/-- Element j of a packed source in a 16-bit format under its modifiers (R58, R103). -/
def pkSrc (t : Ty) (i : Iss) (a : VCode) (neg abs : Bool) (l j : Nat) : FVal :=
  (unpack ((fmtOf t).getD fmtF16) (srcLane i.g a.toNat l 1 / 65536 ^ j % 65536)).modify neg abs

/-- One f32 operand to one f32 result (R111, R112). -/
def falu1 (s : State) (d a : VCode) (p : MCode) (na aa : Bool) (f : FVal → Nat × FFlags) : Out :=
  falu s { vs := [vreg d, vsrc a] } p fun i l => fResult i d l (f (fSrc i a na aa l))

/-- Two f32 operands to one f32 result (R106). -/
def falu2 (s : State) (d a b : VCode) (p : MCode) (na nb aa ab : Bool) (f : FVal → FVal → Nat × FFlags) : Out :=
  falu s { vs := [vreg d, vsrc a, vsrc b] } p fun i l => fResult i d l (f (fSrc i a na aa l) (fSrc i b nb ab l))

/-- FMIN and FMAX (R107): the result is one of the modified operands' patterns. -/
def faluMinMax (s : State) (mx : Bool) (d a b : VCode) (p : MCode) (na nb aa ab : Bool) : Out :=
  falu s { vs := [vreg d, vsrc a, vsrc b] } p fun i l =>
    fResult i d l (fMinMax fmtF32 mx (fSrc i a na aa l) (fSrc i b nb ab l)
      (modifyBits fmtF32 na aa (srcLane i.g a.toNat l 1)) (modifyBits fmtF32 nb ab (srcLane i.g b.toNat l 1)))

/-- FADD (R106). -/
def execFadd (d a b : VCode) (p : MCode) (rnd : Rnd) (na nb aa ab : Bool) (s : State) : Out :=
  falu2 s d a b p na nb aa ab (fAdd fmtF32 rnd)

/-- FSUB (R106). -/
def execFsub (d a b : VCode) (p : MCode) (rnd : Rnd) (na nb aa ab : Bool) (s : State) : Out :=
  falu2 s d a b p na nb aa ab fun x y => fAdd fmtF32 rnd x (y.modify true false)

/-- FMUL (R106). -/
def execFmul (d a b : VCode) (p : MCode) (rnd : Rnd) (na nb aa ab : Bool) (s : State) : Out :=
  falu2 s d a b p na nb aa ab (fMul fmtF32 rnd)

/-- FFMA (R106). -/
def execFfma (d a b c : VCode) (p : MCode) (rnd : Rnd) (na nb nc aa ab : Bool) (s : State) : Out :=
  falu s { vs := [vreg d, vsrc a, vsrc b, vsrc c] } p fun i l =>
    fResult i d l (fFma fmtF32 rnd (fSrc i a na aa l) (fSrc i b nb ab l) (fSrc i c nc false l))

/-- FMIN (R107); its rounding field has no effect (R102). -/
def execFmin (d a b : VCode) (p : MCode) (_rnd : Rnd) (na nb aa ab : Bool) (s : State) : Out :=
  faluMinMax s false d a b p na nb aa ab

/-- FMAX (R107); its rounding field has no effect (R102). -/
def execFmax (d a b : VCode) (p : MCode) (_rnd : Rnd) (na nb aa ab : Bool) (s : State) : Out :=
  faluMinMax s true d a b p na nb aa ab

/-- FCMP (R109): a quiet comparison; only a signalling NaN sets invalid. -/
def execFcmp (md : MCode) (cond : FCond) (a b : VCode) (p : MCode) (na nb aa ab : Bool) (s : State) : Out :=
  falu s { vs := [vsrc a, vsrc b], mdst := [md.toNat] } p fun i l =>
    let x := fSrc i a na aa l
    let y := fSrc i b nb ab l
    ([.maskLane md.toNat l (fcmpHolds cond x y)], if x.isSNan || y.isSNan then ffNV else 0)

/-- FCLASS (R110): no flag, not even for a signalling NaN. -/
def execFclass (d a : VCode) (p : MCode) (t : Ty) (s : State) : Out :=
  falu s { vs := [vreg d, vsrc a] } p fun i l =>
    fResult i d l (fClass ((fmtOf t).getD fmtF32) (srcLane i.g a.toNat l 1 % 2 ^ tyWidth t), 0)

/-- FSCALE (R108): the exponent is b read as s32. -/
def execFscale (d a b : VCode) (p : MCode) (rnd : Rnd) (na aa : Bool) (s : State) : Out :=
  falu s { vs := [vreg d, vsrc a, vsrc b] } p fun i l =>
    fResult i d l (fScale rnd (fSrc i a na aa l) (signedAt 32 (srcLane i.g b.toNat l 1)))

/-- FRINT (R111). -/
def execFrint (d a : VCode) (p : MCode) (rnd : Rnd) (na aa : Bool) (s : State) : Out :=
  falu s { vs := [vreg d, vsrc a] } p fun i l =>
    fResult i d l (fRint rnd (fSrc i a na aa l) (modifyBits fmtF32 na aa (srcLane i.g a.toNat l 1)))

/-- FRCP (R112). -/
def execFrcp (d a : VCode) (p : MCode) (rnd : Rnd) (na aa : Bool) (s : State) : Out :=
  falu1 s d a p na aa (fRcp rnd)

/-- FSQRT (R112). -/
def execFsqrt (d a : VCode) (p : MCode) (rnd : Rnd) (na aa : Bool) (s : State) : Out :=
  falu1 s d a p na aa (fSqrt rnd)

/-- FRSQ (R112). -/
def execFrsq (d a : VCode) (p : MCode) (rnd : Rnd) (na aa : Bool) (s : State) : Out :=
  falu1 s d a p na aa (fRsq rnd)

/-- FEXP2 (R112). -/
def execFexp2 (d a : VCode) (p : MCode) (rnd : Rnd) (na aa : Bool) (s : State) : Out :=
  falu1 s d a p na aa (fExp2 rnd)

/-- FLOG2 (R112). -/
def execFlog2 (d a : VCode) (p : MCode) (rnd : Rnd) (na aa : Bool) (s : State) : Out :=
  falu1 s d a p na aa (fLog2 rnd)

/-- PKFMA (R113): two independent fused multiply-adds on 16-bit elements. -/
def execPkfma (d a b c : VCode) (p : MCode) (t : Ty) (rnd : Rnd) (na nb nc aa ab : Bool) (s : State) : Out :=
  falu s { vs := [vreg d, vsrc a, vsrc b, vsrc c] } p fun i l =>
    let e := fun j => fFma ((fmtOf t).getD fmtF16) rnd (pkSrc t i a na aa l j) (pkSrc t i b nb ab l j) (pkSrc t i c nc false l j)
    fResult i d l ((e 0).1 + 65536 * (e 1).1, (e 0).2 ||| (e 1).2)

/-- FDOT2 (R114): two products and an f32 value, rounded once. -/
def execFdot2 (d a b c : VCode) (p : MCode) (t : Ty) (rnd : Rnd) (na nb nc aa ab : Bool) (s : State) : Out :=
  falu s { vs := [vreg d, vsrc a, vsrc b, vsrc c] } p fun i l =>
    fResult i d l (fDot2 fmtF32 rnd (pkSrc t i a na aa l 0) (pkSrc t i b nb ab l 0) (pkSrc t i a na aa l 1)
      (pkSrc t i b nb ab l 1) (fSrc i c nc false l))

/-- FCVT (R115, R116): b holds the block scale where a type is e4m3. -/
def execFcvt (d a b : VCode) (p : MCode) (t src : Ty) (rnd : Rnd) (s : State) : Out :=
  falu s { vs := vreg d :: vsrc a :: if t = .e4m3 ∨ src = .e4m3 then [vsrc b] else [] } p fun i l =>
    fResult i d l (fCvt t src rnd (srcLane i.g a.toNat l 1) (srcLane i.g b.toNat l 1 % 256))

/-- ICVT (R117): a 64-bit integer operand is an even pair. -/
def execIcvt (d a : VCode) (p : MCode) (t src : Ty) (rnd : Rnd) (s : State) : Out :=
  falu s { vs := [vreg d (tyRegs t), vsrc a (tyRegs src)] } p fun i l =>
    let x := srcLane i.g a.toNat l (tyRegs src)
    let r := if t.isArith then floatToInt t src rnd x else intToFloat t src rnd x
    (if t.isArith then vResult t i d l r.1 else laneWrites i.g d.toNat l 1 r.1, r.2)

/-- LMUL (R118). -/
def execLmul (d a b : VCode) (p : MCode) (s : State) : Out :=
  falu s { vs := [vreg d, vsrc a, vsrc b] } p fun i l => fResult i d l (lnsMul (srcLane i.g a.toNat l 1) (srcLane i.g b.toNat l 1))

/-- LSUM (R119): the exact array product added to an f32 value, rounded once in RNE. -/
def execLsum (d a b c : VCode) (p : MCode) (s : State) : Out :=
  falu s { vs := [vreg d, vsrc a, vsrc b, vsrc c] } p fun i l =>
    fResult i d l (fAdd fmtF32 .rne (lnsProduct (srcLane i.g a.toNat l 1) (srcLane i.g b.toNat l 1)) (fSrc i c false false l))

end Sys2Proof.Machine
end

