-- ==== Sys2Proof/Machine/Matrix.lean ====
section
/-! DEFINITION. The matrix engine (R210 to R225): operand slots, accumulator tiles and their tokens, MLOOP and its K steps,
MREAD, MWRITE and MSTORE. -/

namespace Sys2Proof.Machine

open Sys2Proof

/-! ## Arrays, slots and tiles -/

/-- The array that an instruction's x field names (R210). -/
def Iss.array (i : Iss) (x : BitVec 2) : Nat := arrayIx i.g.core x.toNat

def arrayGet (s : State) (arr : Nat) : MatArray := tget MatArray.empty s.arrays arr

def arraySet (s : State) (arr : Nat) (x : MatArray) : State := { s with arrays := tset MatArray.empty s.arrays arr x }

/-- A tile; one not listed is free, with side array and every element +0 (R214). -/
def MatArray.tile (x : MatArray) (n : Nat) : Tile := (tfind x.tiles n).getD Tile.freed

def MatArray.putTile (x : MatArray) (n : Nat) (t : Tile) : MatArray := { x with tiles := tput x.tiles n t }

/-- The n + 1 slots from S, modulo 16 (R216). -/
def slotRange (sl n : BitVec 4) : List Nat := (upto (n.toNat + 1)).map fun j => (sl.toNat + j) % 16

/-- Whether a tile has a job queued or running, and whether an MSTORE has not read it yet. -/
def MatArray.busy (x : MatArray) (tile : Nat) : Bool := x.jobs.any fun j => j.tile == tile

def storing (s : State) (arr tile : Nat) : Bool :=
  s.copies.any fun c => !c.tileRead && match c.tile with
    | some (core, x, a) => arrayIx core x == arr && a == tile
    | none => false

/-- The claimant of a slot of an array. -/
def MatArray.claimant (x : MatArray) (sl : Nat) : Option Nat := (tfind x.slots sl).bind fun o => o.claim

/-! ## Claiming and releasing slots (R216) -/

/-- SCLAIM. -/
def execSclaim (x : BitVec 2) (sl n : BitVec 4) (s : State) : Out :=
  issue s {} 0 fun i =>
    let a := arrayGet s (i.array x)
    let r := slotRange sl n
    if r.any fun k => match a.claimant k with
        | some g => g != i.gid
        | none => false then raise s i 0x0C
    else
      done (arraySet s (i.array x)
        { a with slots := r.foldl (fun m k =>
          if (a.claimant k).isNone then tput m k ⟨some i.gid, i.g.team, i.g.tenant, false, [], [], []⟩ else m) a.slots }) i

/-- SREL. -/
def execSrel (x : BitVec 2) (sl n : BitVec 4) (s : State) : Out :=
  issue s {} 0 fun i =>
    let a := arrayGet s (i.array x)
    let r := slotRange sl n
    if r.any fun k => a.claimant k != some i.gid then raise s i 0x0C
    else if r.any fun k => copyIntoSlot s (i.array x) k || a.jobs.any fun j => (jobSlots j).contains k then park s i .retry
    else done (arraySet s (i.array x) { a with slots := r.foldl (fun m k => tdel m k) a.slots }) i

/-! ## Tokens (R214, R217) -/

/-- Whether an ACQ of the same tile by a group of a lower partition of the core is to issue in this clock too: the turns that the agenda
gives no further clock. -/
def lowerAcq (s : State) (i : Iss) (x : BitVec 2) (acc : BitVec 3) : Bool :=
  (s.agenda.takeWhile fun t => t.dt == 0).any fun t => match t.act with
    | .issue gid n =>
      match issOf s gid n with
      | some j => j.g.core == i.g.core && decide (j.g.position % 8 < i.g.position % 8) && !(heldBack j.g n) && j.g.park.isNone &&
          j.instr == some (.acq x acc)
      | none => false
    | .event _ => false

/-- ACQ. Of two that reach a free tile in one clock the lower partition's goes first (R217). -/
def execAcq (x : BitVec 2) (acc : BitVec 3) (s : State) : Out :=
  issue s {} 0 fun i =>
    let a := arrayGet s (i.array x)
    let t := a.tile acc.toNat
    match t.owner with
    | none =>
      if lowerAcq s i x acc then s
      else done (arraySet s (i.array x) (a.putTile acc.toNat ⟨some i.gid, true, []⟩)) i
    | some g =>
      if g ≠ i.gid then raise s i 0x0B
      else if t.groupSide then done s i
      else if a.busy acc.toNat then park s i .retry
      else done (arraySet s (i.array x) (a.putTile acc.toNat { t with groupSide := true })) i

/-- An instruction that needs the issuing group to own the tile with side group; it parks while an MSTORE has not read the
tile, where it must (R214, R217, R223). -/
def tileOp (s : State) (i : Iss) (x : BitVec 2) (acc : BitVec 3) (waits : Bool) (k : MatArray → Tile → State) : State :=
  let a := arrayGet s (i.array x)
  let t := a.tile acc.toNat
  if t.owner ≠ some i.gid ∨ !t.groupSide then raise s i 0x0B
  else if waits && storing s (i.array x) acc.toNat then park s i .retry
  else k a t

/-- REL. -/
def execRel (x : BitVec 2) (acc : BitVec 3) (s : State) : Out :=
  issue s {} 0 fun i => tileOp s i x acc true fun a t =>
    done (arraySet s (i.array x) (a.putTile acc.toNat { t with groupSide := false })) i

/-- REL.free. -/
def execRelFree (x : BitVec 2) (acc : BitVec 3) (s : State) : Out :=
  issue s {} 0 fun i =>
    let a := arrayGet s (i.array x)
    if (a.tile acc.toNat).owner ≠ some i.gid then raise s i 0x0B
    else if a.busy acc.toNat || storing s (i.array x) acc.toNat then park s i .retry
    else done (arraySet s (i.array x) { a with tiles := tdel a.tiles acc.toNat }) i

/-- MZERO. -/
def execMzero (x : BitVec 2) (acc : BitVec 3) (s : State) : Out :=
  issue s {} 0 fun i => tileOp s i x acc true fun a t =>
    done (arraySet s (i.array x) (a.putTile acc.toNat { t with acc := [] })) i

/-! ## MLOOP (R218 to R222) -/

/-- The largest K of a format; 0 for a format that MLOOP does not take. -/
def formatK (f : Nat) : Nat := if f = 9 ∨ f = 10 then 64 else if f = 11 ∨ f = 12 then 128 else 0

/-- The shape and count scalars are legal (R218). -/
def shapeLegal (sh ct : Nat) : Bool :=
  decide (fld sh 28 36 = 0) && !(sh.testBit 15) && !(sh.testBit 7) && decide (1 ≤ fld sh 16 8)
    && decide (fld sh 16 8 ≤ formatK (fld sh 24 4)) && decide (1 ≤ fld sh 8 7) && decide (fld sh 8 7 ≤ 64)
    && decide (1 ≤ fld sh 0 7) && decide (fld sh 0 7 ≤ 64) && decide (ct < 2 ^ 32)

/-- Every visited slot is a team slot of the issuing group (R212, R219). -/
def teamSlots (i : Iss) (a : MatArray) (ks : List Nat) : Bool :=
  ks.all fun k => match tfind a.slots k with
    | some o => o.claim.isSome && o.team == i.g.team
    | none => false

/-- MLOOP. -/
def execMloop (x : BitVec 2) (acc : BitVec 3) (sa sb inc : BitVec 4) (ks1 ks2 : KCode) (pi : BitVec 5) (fs : FSel)
    (ra rb : Bool) (s : State) : Out :=
  issue s { fs := fs, ks := [ks1.toNat, ks2.toNat] } 0 fun i =>
    let sh := (kGet i.g ks1.toNat).toNat
    let ct := (kGet i.g ks2.toNat).toNat
    let a := arrayGet s (i.array x)
    let t := a.tile acc.toNat
    let j : Job := ⟨i.gid, acc.toNat, fld sh 24 4, fld sh 0 7, fld sh 8 7, fld sh 16 8, ct, 0, sa.toNat, sb.toNat, inc.toNat,
      pi.toNat, ra, rb, 0, [], 0, s.now⟩
    if !(shapeLegal sh ct) then raise s i 0x01
    else if t.owner ≠ some i.gid ∨ t.groupSide then raise s i 0x0B
    else if !(teamSlots i a (jobSlots j)) then raise s i 0x0C
    else if ct = 0 then done s i
    else if 4 ≤ a.jobs.length then park s i .retry
    else
      let (owed, s) := oweResult s i.gid .other (i.flag fs) [] [] 1
      done (arraySet s (i.array x) { a with jobs := a.jobs ++ [{ j with owed := owed }] }) i

/-- The slots of a job's next step. -/
def Job.stepSlots (j : Job) : Nat × Nat := ((j.a + j.step * j.inc) % 16, (j.b + j.step * j.inc) % 16)

def MatArray.full (x : MatArray) (sl : Nat) : Bool := ((tfind x.slots sl).map fun o => o.full).getD false

/-- Operand k of row r of a slot (R211), as the array takes it. -/
def OpSlot.operand (o : OpSlot) (f r k : Nat) : Nat × Nat :=
  if formatK f = 64 then (readNat o.elems (128 * r + 2 * k) 2, 127)
  else (readNat o.elems (128 * r + k) 1, if f = 11 then readNat o.scales (4 * r + k / 32) 1 else 127)

/-- The products of one block of an element's step: k from 32 · blk, below K. -/
def blockProducts (j : Job) (a b : OpSlot) (m n blk : Nat) : List FVal :=
  ((upto 32).filter fun e => decide (32 * blk + e < j.k)).map fun e =>
    let u := a.operand j.format m (32 * blk + e)
    let v := b.operand j.format n (32 * blk + e)
    arrayProduct ((formatTy j.format).getD .f16) u.1 u.2 v.1 v.2

/-- One element's sum after a K step (R71). -/
def stepRun (j : Job) (a b : OpSlot) (m n : Nat) (run : Nat) : Nat :=
  (upto ((j.k + 31) / 32)).foldl (fun r blk => accAdd r (blockSum (blockProducts j a b m n blk))) run

/-- The elements (m, n) of a job, as indexes 64 · m + n. -/
def Job.elements (j : Job) : List (Nat × Nat) := (upto j.m).flatMap fun m => (upto j.n).map fun n => (m, n)

/-- The job and its tile after one K step (R71, R220). -/
def kStep (j : Job) (t : Tile) (a b : OpSlot) : Job × Tile :=
  let last := decide (j.step + 1 = j.count)
  let promo := decide (j.since + 1 = j.p) || last
  let step1 := fun (p : Job × Tile) (e : Nat × Nat) =>
    let ix := 64 * e.1 + e.2
    let r := stepRun j a b e.1 e.2 (tget 0 p.1.run ix).toNat
    if promo then
      ({ p.1 with run := tset 0 p.1.run ix 0 },
        { p.2 with acc := tset 0 p.2.acc ix (BitVec.ofNat 32 (promote (tget 0 p.2.acc ix).toNat r)) })
    else ({ p.1 with run := tset 0 p.1.run ix (BitVec.ofNat 26 r) }, p.2)
  let (j', t') := j.elements.foldl step1 (j, t)
  ({ j' with step := j.step + 1, since := if promo then 0 else j.since + 1 }, t')

/-- Whether job n may run its next step: it is the first on its tile, its slots are full, and a first step waits 16 clocks
(R221, R222). -/
def jobReady (now : Nat) (x : MatArray) (n : Nat) (j : Job) : Bool :=
  !((x.jobs.take n).any fun k => k.tile == j.tile) && x.full j.stepSlots.1 && x.full j.stepSlots.2 &&
    (decide (0 < j.step) || decide (j.issued + 16 ≤ now))

def emptySlot (x : MatArray) (sl : Nat) : MatArray :=
  match tfind x.slots sl with
  | some o => { x with slots := tput x.slots sl { o with full := false } }
  | none => x

/-- MLOOP_K_STEP (R220, R221): the oldest job that is ready runs one step; its last one decrements its flag. -/
def execMloopKStep (core x : Nat) (s : State) : Out :=
  .next
    (let arr := arrayIx core (x % 4)
    let a := arrayGet s arr
    match ((upto a.jobs.length).zip a.jobs).find? fun p => jobReady s.now a p.1 p.2 with
    | none => s
    | some (n, j) =>
      match tfind a.slots j.stepSlots.1, tfind a.slots j.stepSlots.2 with
      | some oa, some ob =>
        let (j', t) := kStep j (a.tile j.tile) oa ob
        let a := a.putTile j.tile t
        let a := if j.ra then emptySlot a j.stepSlots.1 else a
        let a := if j.rb then emptySlot a j.stepSlots.2 else a
        if j'.step = j.count then
          sweepCore (fillOwed (arraySet s arr { a with jobs := removeIx a.jobs n }) (some j.owed) []) core
        else arraySet s arr { a with jobs := a.jobs.set n j' }
      | _, _ => s)

/-! ## MREAD and MWRITE (R223) -/

/-- The element of the tile that lane l of a half-row holds. -/
def halfRow (k l : Nat) : Nat := 64 * fld k 0 6 + 32 * fld k 6 1 + l

/-- What an accumulator element of these bits reads as (R72): a NaN is the canonical one; every other pattern stands as it is.
DEDUCED (log entry 87): R223's raw bits are bits that no conversion changes. -/
def elementRead (b : BitVec 32) : BitVec 32 := if fld b.toNat 23 8 = 255 && fld b.toNat 0 23 != 0 then 0x7FC00000 else b

/-- MREAD: the tile's elements as they read. -/
def execMread (x : BitVec 2) (acc : BitVec 3) (ks1 : KCode) (v : VCode) (fs : FSel) (s : State) : Out :=
  issue s { fs := fs, vs := [vreg v], ks := [ks1.toNat], tracked := 1 } 0 fun i =>
    let k := (kGet i.g ks1.toNat).toNat
    if 128 ≤ k then raise s i 0x01
    else tileOp s i x acc false fun _ t =>
      let d := vName i.g v.toNat
      done (oweResult s i.gid .other (i.flag fs) [d]
        ((lanesOf i.pathMask).map fun l => .lane d l (elementRead (tget 0 t.acc (halfRow k l)))) 0).2 i

/-- MWRITE. -/
def execMwrite (x : BitVec 2) (acc : BitVec 3) (ks1 : KCode) (v : VCode) (s : State) : Out :=
  issue s { vs := [vsrc v], ks := [ks1.toNat] } 0 fun i =>
    let k := (kGet i.g ks1.toNat).toNat
    if 128 ≤ k then raise s i 0x01
    else tileOp s i x acc true fun a t =>
      let acc' := (lanesOf i.pathMask).foldl
        (fun m l => tset 0 m (halfRow k l) (BitVec.ofNat 32 (srcLane i.g v.toNat l 1))) t.acc
      done (arraySet s (i.array x) (a.putTile acc.toNat { t with acc := acc' })) i

/-! ## MSTORE (R224) -/

/-- A tile as a source: f32, rows of 64. -/
def tileTensor : Tensor := ⟨0, 8, 2, 0, 0, 0, [64, 64, 1, 1], [256, 0, 0], 0, [0, 0, 0]⟩

/-- The checks of MSTORE, and the copy that it is: the tile's elements as they read. -/
def acceptMstore (s : State) (i : Iss) (tm : Team) (x : BitVec 2) (acc : BitVec 3) (bx id : Nat) : Accept Copy := do
  let dst ← tm.tensor id
  require (decide (id < 64) && decide (fld bx 46 2 = 0) && decide (fld bx 38 2 = 0) && dst.space != 4 && !dst.isMesh) 0x01
  let dst := dst.loopback s
  let rows := fld bx 40 6 + 1
  let cols := fld bx 32 6 + 1
  let o := [fld bx 0 16, fld bx 16 16, fld bx 48 16, 0]
  let box := [cols, rows, 1, 1]
  require (boxFits (max 2 dst.rank) box) 0x01
  require (pairAdmitted 0 8 dst.format) 0x01
  require (dst.boxInside o box && e4m3Fits tileTensor dst [0, 0, 0, 0] o box) 0x01
  match checkSpans tm ((dst.space, true, dst.span o box) :: match dst.scaleSpan o box with
      | some y => [(dst.space, true, y)]
      | none => []) with
  | some e => .error e
  | none => pure ()
  let t := (arrayGet s (i.array x)).tile acc.toNat
  require (t.owner == some i.gid && t.groupSide) 0x0B
  pure { Copy.fresh i .mstore tileTensor dst dst with
    dstC := o
    box := box
    members := [⟨tm.coreNumber i.g.core, i.g.core, 0⟩]
    data := (upto (cols * rows)).map fun n => ((elementRead (tget 0 t.acc (64 * (n / cols) + n % cols))).toNat, 127)
    total := cols * rows
    tile := some (i.g.core, x.toNat, acc.toNat)
    tileRead := false }

/-- MSTORE. -/
def execMstore (x : BitVec 2) (acc : BitVec 3) (ks1 ks2 : KCode) (fs : FSel) (s : State) : Out :=
  issue s { fs := fs, ks := [ks1.toNat, ks2.toNat], tracked := 1 } 0 fun i =>
    match teamOf s i.g with
    | none => s
    | some t =>
      match acceptMstore s i t x acc (kGet i.g ks1.toNat).toNat (kGet i.g ks2.toNat).toNat with
      | .error (code, a) => raiseAt s i code 0 (i.active 0) a
      | .ok c => enterCopy s i fs ks2 c

/-- MSTORE_TILE_READ (R224): within 64 clocks of acceptance the tile has been read. -/
def execMstoreTileRead (id : Nat) (s : State) : Out :=
  .next { s with copies := updateWhere (fun c => c.id == id) (fun c => { c with tileRead := true }) s.copies }

end Sys2Proof.Machine
end

