-- ==== Sys2Proof/Machine/Dispatch.lean ====
section
/-! DEFINITION. The dispatch: one arm per constructor of Instr, each one direct call of its meaning. -/

namespace Sys2Proof.Machine

open Sys2Proof

def exec (i : Instr) (s : State) : Host.Outcome State Fault Refusal :=
  match i with
  | .iaddVr d a b p t sat => Sys2Proof.Machine.execIaddVr d a b p t sat s
  | .isubVr d a b p t sat => Sys2Proof.Machine.execIsubVr d a b p t sat s
  | .imulVr d a b p t => Sys2Proof.Machine.execImulVr d a b p t s
  | .imulhVr d a b p t => Sys2Proof.Machine.execImulhVr d a b p t s
  | .imadVr d a b c p t sat => Sys2Proof.Machine.execImadVr d a b c p t sat s
  | .iminVr d a b p t => Sys2Proof.Machine.execIminVr d a b p t s
  | .imaxVr d a b p t => Sys2Proof.Machine.execImaxVr d a b p t s
  | .iabsVr d a p t => Sys2Proof.Machine.execIabsVr d a p t s
  | .inegVr d a p t => Sys2Proof.Machine.execInegVr d a p t s
  | .iaddcVr d a b mc p t => Sys2Proof.Machine.execIaddcVr d a b mc p t s
  | .isubbVr d a b mc p t => Sys2Proof.Machine.execIsubbVr d a b mc p t s
  | .andVr d a b p t => Sys2Proof.Machine.execAndVr d a b p t s
  | .orVr d a b p t => Sys2Proof.Machine.execOrVr d a b p t s
  | .xorVr d a b p t => Sys2Proof.Machine.execXorVr d a b p t s
  | .andnVr d a b p t => Sys2Proof.Machine.execAndnVr d a b p t s
  | .btabVr d a b c tt p t => Sys2Proof.Machine.execBtabVr d a b c tt p t s
  | .shlVr d a b p t => Sys2Proof.Machine.execShlVr d a b p t s
  | .shrVr d a b p t => Sys2Proof.Machine.execShrVr d a b p t s
  | .sarVr d a b p t => Sys2Proof.Machine.execSarVr d a b p t s
  | .rolVr d a b p t => Sys2Proof.Machine.execRolVr d a b p t s
  | .popcVr d a p t => Sys2Proof.Machine.execPopcVr d a p t s
  | .clzVr d a p t => Sys2Proof.Machine.execClzVr d a p t s
  | .ctzVr d a p t => Sys2Proof.Machine.execCtzVr d a p t s
  | .brevVr d a p t => Sys2Proof.Machine.execBrevVr d a p t s
  | .bfxVr d a b c p t => Sys2Proof.Machine.execBfxVr d a b c p t s
  | .binsVr d a b c p t => Sys2Proof.Machine.execBinsVr d a b c p t s
  | .ffcsVr d a p => Sys2Proof.Machine.execFfcsVr d a p s
  | .plsetVr d a b c p t => Sys2Proof.Machine.execPlsetVr d a b c p t s
  | .leaVr d a b c p t => Sys2Proof.Machine.execLeaVr d a b c p t s
  | .icmpVr md cond a b p t => Sys2Proof.Machine.execIcmpVr md cond a b p t s
  | .selVr d a b ms p t => Sys2Proof.Machine.execSelVr d a b ms p t s
  | .movVr d a p t => Sys2Proof.Machine.execMovVr d a p t s
  | .lshuf d a b mode p t => Sys2Proof.Machine.execLshuf d a b mode p t s
  | .bcast d a b p t => Sys2Proof.Machine.execBcast d a b p t s
  | .elect md p => Sys2Proof.Machine.execElect md p s
  | .retire p => Sys2Proof.Machine.execRetire p s
  | .movsVr d sr p t => Sys2Proof.Machine.execMovsVr d sr p t s
  | .moviVi d p imm => Sys2Proof.Machine.execMoviVi d p imm s
  | .iaddVi d a p imm => Sys2Proof.Machine.execIaddVi d a p imm s
  | .imulVi d a p imm => Sys2Proof.Machine.execImulVi d a p imm s
  | .andVi d a p imm => Sys2Proof.Machine.execAndVi d a p imm s
  | .orVi d a p imm => Sys2Proof.Machine.execOrVi d a p imm s
  | .xorVi d a p imm => Sys2Proof.Machine.execXorVi d a p imm s
  | .shlVi d a p imm => Sys2Proof.Machine.execShlVi d a p imm s
  | .shrVi d a p imm => Sys2Proof.Machine.execShrVi d a p imm s
  | .sarVi d a p imm => Sys2Proof.Machine.execSarVi d a p imm s
  | .icmpVi md cond a p imm => Sys2Proof.Machine.execIcmpVi md cond a p imm s
  | .fadd d a b p rnd na nb aa ab => Sys2Proof.Machine.execFadd d a b p rnd na nb aa ab s
  | .fsub d a b p rnd na nb aa ab => Sys2Proof.Machine.execFsub d a b p rnd na nb aa ab s
  | .fmul d a b p rnd na nb aa ab => Sys2Proof.Machine.execFmul d a b p rnd na nb aa ab s
  | .ffma d a b c p rnd na nb nc aa ab => Sys2Proof.Machine.execFfma d a b c p rnd na nb nc aa ab s
  | .fmin d a b p rnd na nb aa ab => Sys2Proof.Machine.execFmin d a b p rnd na nb aa ab s
  | .fmax d a b p rnd na nb aa ab => Sys2Proof.Machine.execFmax d a b p rnd na nb aa ab s
  | .fcmp md cond a b p na nb aa ab => Sys2Proof.Machine.execFcmp md cond a b p na nb aa ab s
  | .fclass d a p t => Sys2Proof.Machine.execFclass d a p t s
  | .fscale d a b p rnd na aa => Sys2Proof.Machine.execFscale d a b p rnd na aa s
  | .frint d a p rnd na aa => Sys2Proof.Machine.execFrint d a p rnd na aa s
  | .frcp d a p rnd na aa => Sys2Proof.Machine.execFrcp d a p rnd na aa s
  | .fsqrt d a p rnd na aa => Sys2Proof.Machine.execFsqrt d a p rnd na aa s
  | .frsq d a p rnd na aa => Sys2Proof.Machine.execFrsq d a p rnd na aa s
  | .fexp2 d a p rnd na aa => Sys2Proof.Machine.execFexp2 d a p rnd na aa s
  | .flog2 d a p rnd na aa => Sys2Proof.Machine.execFlog2 d a p rnd na aa s
  | .pkfma d a b c p t rnd na nb nc aa ab => Sys2Proof.Machine.execPkfma d a b c p t rnd na nb nc aa ab s
  | .fdot2 d a b c p t rnd na nb nc aa ab => Sys2Proof.Machine.execFdot2 d a b c p t rnd na nb nc aa ab s
  | .fcvt d a b p t src rnd => Sys2Proof.Machine.execFcvt d a b p t src rnd s
  | .icvt d a p t src rnd => Sys2Proof.Machine.execIcvt d a p t src rnd s
  | .lmul d a b p => Sys2Proof.Machine.execLmul d a b p s
  | .lsum d a b c p => Sys2Proof.Machine.execLsum d a b c p s
  | .iaddSr d a b t sat cc => Sys2Proof.Machine.execIaddSr d a b t sat cc s
  | .isubSr d a b t sat cc => Sys2Proof.Machine.execIsubSr d a b t sat cc s
  | .imulSr d a b t cc => Sys2Proof.Machine.execImulSr d a b t cc s
  | .imulhSr d a b t cc => Sys2Proof.Machine.execImulhSr d a b t cc s
  | .imadSr d a b c t sat cc => Sys2Proof.Machine.execImadSr d a b c t sat cc s
  | .iminSr d a b t cc => Sys2Proof.Machine.execIminSr d a b t cc s
  | .imaxSr d a b t cc => Sys2Proof.Machine.execImaxSr d a b t cc s
  | .iabsSr d a t cc => Sys2Proof.Machine.execIabsSr d a t cc s
  | .inegSr d a t cc => Sys2Proof.Machine.execInegSr d a t cc s
  | .iaddcSr d a b t cc => Sys2Proof.Machine.execIaddcSr d a b t cc s
  | .isubbSr d a b t cc => Sys2Proof.Machine.execIsubbSr d a b t cc s
  | .andSr d a b t cc => Sys2Proof.Machine.execAndSr d a b t cc s
  | .orSr d a b t cc => Sys2Proof.Machine.execOrSr d a b t cc s
  | .xorSr d a b t cc => Sys2Proof.Machine.execXorSr d a b t cc s
  | .andnSr d a b t cc => Sys2Proof.Machine.execAndnSr d a b t cc s
  | .btabSr d a b c tt t cc => Sys2Proof.Machine.execBtabSr d a b c tt t cc s
  | .shlSr d a b t cc => Sys2Proof.Machine.execShlSr d a b t cc s
  | .shrSr d a b t cc => Sys2Proof.Machine.execShrSr d a b t cc s
  | .sarSr d a b t cc => Sys2Proof.Machine.execSarSr d a b t cc s
  | .rolSr d a b t cc => Sys2Proof.Machine.execRolSr d a b t cc s
  | .popcSr d a t cc => Sys2Proof.Machine.execPopcSr d a t cc s
  | .clzSr d a t cc => Sys2Proof.Machine.execClzSr d a t cc s
  | .ctzSr d a t cc => Sys2Proof.Machine.execCtzSr d a t cc s
  | .brevSr d a t cc => Sys2Proof.Machine.execBrevSr d a t cc s
  | .bfxSr d a b c t cc => Sys2Proof.Machine.execBfxSr d a b c t cc s
  | .binsSr d a b c t cc => Sys2Proof.Machine.execBinsSr d a b c t cc s
  | .ffcsSr d a cc => Sys2Proof.Machine.execFfcsSr d a cc s
  | .plsetSr d a b c t cc => Sys2Proof.Machine.execPlsetSr d a b c t cc s
  | .leaSr d a b c t cc => Sys2Proof.Machine.execLeaSr d a b c t cc s
  | .icmpSr md cond a b t cc => Sys2Proof.Machine.execIcmpSr md cond a b t cc s
  | .selSr d a b ms t cc => Sys2Proof.Machine.execSelSr d a b ms t cc s
  | .movSr d a t cc => Sys2Proof.Machine.execMovSr d a t cc s
  | .mand md ma mb cc => Sys2Proof.Machine.execMand md ma mb cc s
  | .mor md ma mb cc => Sys2Proof.Machine.execMor md ma mb cc s
  | .mxor md ma mb cc => Sys2Proof.Machine.execMxor md ma mb cc s
  | .mandn md ma mb cc => Sys2Proof.Machine.execMandn md ma mb cc s
  | .mnot md ma cc => Sys2Proof.Machine.execMnot md ma cc s
  | .mmov md ma cc => Sys2Proof.Machine.execMmov md ma cc s
  | .mpopc d ma cc => Sys2Proof.Machine.execMpopc d ma cc s
  | .mfirst d ma cc => Sys2Proof.Machine.execMfirst d ma cc s
  | .movsSr d sr => Sys2Proof.Machine.execMovsSr d sr s
  | .movsFflagsWrite a => Sys2Proof.Machine.execMovsFflagsWrite a s
  | .clock d => Sys2Proof.Machine.execClock d s
  | .jmp a => Sys2Proof.Machine.execJmp a s
  | .moviSi d t cc imm => Sys2Proof.Machine.execMoviSi d t cc imm s
  | .iaddSi d a t cc imm => Sys2Proof.Machine.execIaddSi d a t cc imm s
  | .isubSi d a t cc imm => Sys2Proof.Machine.execIsubSi d a t cc imm s
  | .imulSi d a t cc imm => Sys2Proof.Machine.execImulSi d a t cc imm s
  | .andSi d a t cc imm => Sys2Proof.Machine.execAndSi d a t cc imm s
  | .orSi d a t cc imm => Sys2Proof.Machine.execOrSi d a t cc imm s
  | .xorSi d a t cc imm => Sys2Proof.Machine.execXorSi d a t cc imm s
  | .shlSi d a t cc imm => Sys2Proof.Machine.execShlSi d a t cc imm s
  | .shrSi d a t cc imm => Sys2Proof.Machine.execShrSi d a t cc imm s
  | .sarSi d a t cc imm => Sys2Proof.Machine.execSarSi d a t cc imm s
  | .iminSi d a t cc imm => Sys2Proof.Machine.execIminSi d a t cc imm s
  | .imaxSi d a t cc imm => Sys2Proof.Machine.execImaxSi d a t cc imm s
  | .icmpSi md cond a t cc imm => Sys2Proof.Machine.execIcmpSi md cond a t cc imm s
  | .frame e => Sys2Proof.Machine.execFrame e s
  | .rhead s1 n1 s2 n2 => Sys2Proof.Machine.execRhead s1 n1 s2 n2 s
  | .bra cond mk off => Sys2Proof.Machine.execBra cond mk off s
  | .call sh off => Sys2Proof.Machine.execCall sh off s
  | .ret => Sys2Proof.Machine.execRet s
  | .fork kt ms off => Sys2Proof.Machine.execFork kt ms off s
  | .join kt off => Sys2Proof.Machine.execJoin kt off s
  | .exit => Sys2Proof.Machine.execExit s
  | .nop => Sys2Proof.Machine.execNop s
  | .ldl data addr base p wd fs off => Sys2Proof.Machine.execLdl data addr base p wd fs off s
  | .stl data addr base p wd off => Sys2Proof.Machine.execStl data addr base p wd off s
  | .ldt data addr base p wd fs off => Sys2Proof.Machine.execLdt data addr base p wd fs off s
  | .stt data addr base p wd off => Sys2Proof.Machine.execStt data addr base p wd off s
  | .ldd data addr base p wd fs off => Sys2Proof.Machine.execLdd data addr base p wd fs off s
  | .std data addr base p wd off => Sys2Proof.Machine.execStd data addr base p wd off s
  | .atomT op data addr base p wd fs off => Sys2Proof.Machine.execAtomT op data addr base p wd fs off s
  | .redT op data addr base p wd off => Sys2Proof.Machine.execRedT op data addr base p wd off s
  | .atomD op data addr base p wd sc fs off => Sys2Proof.Machine.execAtomD op data addr base p wd sc fs off s
  | .redD op data addr base p wd sc off => Sys2Proof.Machine.execRedD op data addr base p wd sc off s
  | .atomM op data addr base p wd sc fs off => Sys2Proof.Machine.execAtomM op data addr base p wd sc fs off s
  | .redM op data addr base p wd sc off => Sys2Proof.Machine.execRedM op data addr base p wd sc off s
  | .barinit data base off => Sys2Proof.Machine.execBarinit data base off s
  | .barexp data base off => Sys2Proof.Machine.execBarexp data base off s
  | .bararr base off => Sys2Proof.Machine.execBararr base off s
  | .barwait base off => Sys2Proof.Machine.execBarwait base off s
  | .baraw base off => Sys2Proof.Machine.execBaraw base off s
  | .mwait data base p wd fs off => Sys2Proof.Machine.execMwait data base p wd fs off s
  | .fence sc => Sys2Proof.Machine.execFence sc s
  | .fenceAcq sc => Sys2Proof.Machine.execFenceAcq sc s
  | .fenceRel sc => Sys2Proof.Machine.execFenceRel sc s
  | .tidset t kb off => Sys2Proof.Machine.execTidset t kb off s
  | .tidinv t => Sys2Proof.Machine.execTidinv t s
  | .copy ka kb fs off => Sys2Proof.Machine.execCopy ka kb fs off s
  | .copyg ka kb v p fs off => Sys2Proof.Machine.execCopyg ka kb v p fs off s
  | .copys ka kb v p fs off => Sys2Proof.Machine.execCopys ka kb v p fs off s
  | .cbatch ka => Sys2Proof.Machine.execCbatch ka s
  | .waitb kb => Sys2Proof.Machine.execWaitb kb s
  | .route ka kb fs off => Sys2Proof.Machine.execRoute ka kb fs off s
  | .xchg ka kb fs off => Sys2Proof.Machine.execXchg ka kb fs off s
  | .sclaim x sl n => Sys2Proof.Machine.execSclaim x sl n s
  | .srel x sl n => Sys2Proof.Machine.execSrel x sl n s
  | .acq x acc => Sys2Proof.Machine.execAcq x acc s
  | .rel x acc => Sys2Proof.Machine.execRel x acc s
  | .relFree x acc => Sys2Proof.Machine.execRelFree x acc s
  | .mzero x acc => Sys2Proof.Machine.execMzero x acc s
  | .mloop x acc sa sb inc ks1 ks2 pi fs ra rb => Sys2Proof.Machine.execMloop x acc sa sb inc ks1 ks2 pi fs ra rb s
  | .mread x acc ks1 v fs => Sys2Proof.Machine.execMread x acc ks1 v fs s
  | .mwrite x acc ks1 v => Sys2Proof.Machine.execMwrite x acc ks1 v s
  | .mstore x acc ks1 ks2 fs => Sys2Proof.Machine.execMstore x acc ks1 ks2 fs s
  | .rinit d a p aux fs => Sys2Proof.Machine.execRinit d a p aux fs s
  | .rbox d a b p fs => Sys2Proof.Machine.execRbox d a b p fs s
  | .rtri d a b buf p fs => Sys2Proof.Machine.execRtri d a b buf p fs s
  | .mdec a b t buf p fs => Sys2Proof.Machine.execMdec a b t buf p fs s
  | .tbread d a buf p fs => Sys2Proof.Machine.execTbread d a buf p fs s
  | .mpatch d a b t p fs => Sys2Proof.Machine.execMpatch d a b t p fs s
  | .mstatBuf d buf p fs => Sys2Proof.Machine.execMstatBuf d buf p fs s
  | .mstatFord d a t p fs => Sys2Proof.Machine.execMstatFord d a t p fs s
  | .raster d a t p fs => Sys2Proof.Machine.execRaster d a t p fs s
  | .send ch data p => Sys2Proof.Machine.execSend ch data p s
  | .recv ch data p fs => Sys2Proof.Machine.execRecv ch data p fs s
  | .peek ch data p fs => Sys2Proof.Machine.execPeek ch data p fs s
  | .oopen seq dom dev tr => Sys2Proof.Machine.execOopen seq dom dev tr s
  | .oclose dom => Sys2Proof.Machine.execOclose dom s
  | .oenterAll key seq dom mr p fs => Sys2Proof.Machine.execOenterAll key seq dom mr p fs s
  | .oenterPart key seq dom mr p fs => Sys2Proof.Machine.execOenterPart key seq dom mr p fs s
  | .owait key seq dom mr p fs => Sys2Proof.Machine.execOwait key seq dom mr p fs s
  | .owaitPart key seq dom mr p fs => Sys2Proof.Machine.execOwaitPart key seq dom mr p fs s
  | .oleave key dom p => Sys2Proof.Machine.execOleave key dom p s
  | .oskip key seq dom p => Sys2Proof.Machine.execOskip key seq dom p s
  | .launch ka q => Sys2Proof.Machine.execLaunch ka q s
  | .glaunch ka kb q => Sys2Proof.Machine.execGlaunch ka kb q s
  | .emit vd kb p fs => Sys2Proof.Machine.execEmit vd kb p fs s
  | .commit vs p => Sys2Proof.Machine.execCommit vs p s
  | .signal ka kb irq vec => Sys2Proof.Machine.execSignal ka kb irq vec s
  | .waitg ka kb fs => Sys2Proof.Machine.execWaitg ka kb fs s
  | .reorder ka kb key p => Sys2Proof.Machine.execReorder ka kb key p s
  | .role n => Sys2Proof.Machine.execRole n s
  | .trap n => Sys2Proof.Machine.execTrap n s
  | .rett => Sys2Proof.Machine.execRett s
  | .cxsave ka kb kc fs => Sys2Proof.Machine.execCxsave ka kb kc fs s
  | .cxload ka kb kc fs => Sys2Proof.Machine.execCxload ka kb kc fs s
  | .cxkill ka kb fs => Sys2Proof.Machine.execCxkill ka kb fs s
  | .clauseSelection core part => Sys2Proof.Machine.execClauseSelection core part s
  | .starvationPromotion gid slot => Sys2Proof.Machine.execStarvationPromotion gid slot s
  | .congestionLevelUpdate cluster level => Sys2Proof.Machine.execCongestionLevelUpdate cluster level s
  | .resultArrival id => Sys2Proof.Machine.execResultArrival id s
  | .channelEntryArrival n => Sys2Proof.Machine.execChannelEntryArrival n s
  | .channelCreditReturn n => Sys2Proof.Machine.execChannelCreditReturn n s
  | .channelStallBudget gid => Sys2Proof.Machine.execChannelStallBudget gid s
  | .processionHomeRequest n => Sys2Proof.Machine.execProcessionHomeRequest n s
  | .processionLeaveArrival n => Sys2Proof.Machine.execProcessionLeaveArrival n s
  | .processionAdmissionReturn n => Sys2Proof.Machine.execProcessionAdmissionReturn n s
  | .processionStallBudget gid => Sys2Proof.Machine.execProcessionStallBudget gid s
  | .mwaitWake id => Sys2Proof.Machine.execMwaitWake id s
  | .roleGrant gid => Sys2Proof.Machine.execRoleGrant gid s
  | .reorderMove tm core => Sys2Proof.Machine.execReorderMove tm core s
  | .copyDelivery id => Sys2Proof.Machine.execCopyDelivery id s
  | .copyCompletion id => Sys2Proof.Machine.execCopyCompletion id s
  | .mloopKStep core x => Sys2Proof.Machine.execMloopKStep core x s
  | .mstoreTileRead id => Sys2Proof.Machine.execMstoreTileRead id s
  | .decoderServe core n => Sys2Proof.Machine.execDecoderServe core n s
  | .walkStep core wid => Sys2Proof.Machine.execWalkStep core wid s
  | .streamHoldGrant n => Sys2Proof.Machine.execStreamHoldGrant n s
  | .rasterTriangle id => Sys2Proof.Machine.execRasterTriangle id s
  | .rasterComplete id => Sys2Proof.Machine.execRasterComplete id s
  | .faultReply tn n => Sys2Proof.Machine.execFaultReply tn n s
  | .translationFlush tn va => Sys2Proof.Machine.execTranslationFlush tn va s
  | .uncorrectableError e => Sys2Proof.Machine.execUncorrectableError e s
  | .placementStep => Sys2Proof.Machine.execPlacementStep s
  | .headReserving tn q => Sys2Proof.Machine.execHeadReserving tn q s
  | .teamStart tm => Sys2Proof.Machine.execTeamStart tm s
  | .dependenceWordCheck tn q => Sys2Proof.Machine.execDependenceWordCheck tn q s
  | .gridCompletion gr => Sys2Proof.Machine.execGridCompletion gr s
  | .rootProgramLaunch tn => Sys2Proof.Machine.execRootProgramLaunch tn s
  | .batchTimeout tn gs node => Sys2Proof.Machine.execBatchTimeout tn gs node s
  | .batchIdleClose tn gs node => Sys2Proof.Machine.execBatchIdleClose tn gs node s
  | .graphCompletion tn gs => Sys2Proof.Machine.execGraphCompletion tn gs s
  | .hostInboxWrite tn off bytes => Sys2Proof.Machine.execHostInboxWrite tn off bytes s
  | .hostBar2Access tn off acc => Sys2Proof.Machine.execHostBar2Access tn off acc s
  | .remoteRequestServe n => Sys2Proof.Machine.execRemoteRequestServe n s
  | .flitReceive link f => Sys2Proof.Machine.execFlitReceive link f s
  | .negativeAcknowledgement link expected => Sys2Proof.Machine.execNegativeAcknowledgement link expected s
  | .linkDown link => Sys2Proof.Machine.execLinkDown link s
  | .parkedNotice n => Sys2Proof.Machine.execParkedNotice n s
  | .remoteResponse n => Sys2Proof.Machine.execRemoteResponse n s
  | .remoteTimeout id => Sys2Proof.Machine.execRemoteTimeout id s
  | .ucieLinkFailure => Sys2Proof.Machine.execUcieLinkFailure s
  | .xchgCountReceive n => Sys2Proof.Machine.execXchgCountReceive n s
  | .xchgCountResend n => Sys2Proof.Machine.execXchgCountResend n s
  | .xchgReadyReceive n => Sys2Proof.Machine.execXchgReadyReceive n s
  | .xchgRowReceive n => Sys2Proof.Machine.execXchgRowReceive n s
  | .xchgRowAck n => Sys2Proof.Machine.execXchgRowAck n s
  | .xchgDoneReceive n => Sys2Proof.Machine.execXchgDoneReceive n s
  | .xchgFailureReceive n => Sys2Proof.Machine.execXchgFailureReceive n s
  | .replayDivergence tn => Sys2Proof.Machine.execReplayDivergence tn s
  | .bootRomStart file => Sys2Proof.Machine.execBootRomStart file s
  | .bootRetry => Sys2Proof.Machine.execBootRetry s
  | .tenantConfigWrite tn c => Sys2Proof.Machine.execTenantConfigWrite tn c s
  | .tenantStart tn => Sys2Proof.Machine.execTenantStart tn s
  | .attestationRequest r => Sys2Proof.Machine.execAttestationRequest r s
  | .monitorClear tn mon => Sys2Proof.Machine.execMonitorClear tn mon s
  | .queueSample => Sys2Proof.Machine.execQueueSample s
  | .powerSample r => Sys2Proof.Machine.execPowerSample r s
  | .thermalShutdown die => Sys2Proof.Machine.execThermalShutdown die s
  | .accessPerformed id => Sys2Proof.Machine.execAccessPerformed id s
  | .correctedError tn => Sys2Proof.Machine.execCorrectedError tn s

end Sys2Proof.Machine
end

