-- ==== Sys2Proof/Machine/Schedule.lean ====
section
/-! DEFINITION. Which turn is taken next (log entry 1), and the placing of one word where the next step issues it. -/

namespace Sys2Proof.Machine

open Sys2Proof

/-! ## Turns -/

/-- The slots that hold a begun clause. -/
def issueActs (s : State) : List Act :=
  s.groups.flatMap fun p => [0, 1].filterMap fun n =>
    match slotOf p.2 n with
    | some sl => if sl.clause.isSome then some (Act.issue p.1 n) else none
    | none => none

/-- The partitions that hold groups, and what else groups may be due. -/
def groupEvents (s : State) : List Instr :=
  ((s.groups.map fun p => (p.2.core, p.2.position % 8)).eraseDups.map fun x => Instr.clauseSelection x.1 x.2) ++
    s.groups.flatMap fun p =>
      if p.2.park.isSome then [.channelStallBudget p.1, .processionStallBudget p.1, .roleGrant p.1] else []

/-- What memory, channels and processions have under way. -/
def memoryEvents (s : State) : List Instr :=
  (s.owed.map fun o => Instr.resultArrival o.id)
    ++ (s.reqs.map fun r => if r.isMwait && r.isWaiting then Instr.mwaitWake r.id else .accessPerformed r.id)
    ++ (upto s.sends.length).map Instr.channelEntryArrival ++ (upto s.returns.length).map Instr.channelCreditReturn
    ++ ((upto s.procMsgs.length).zip s.procMsgs).map fun p => match p.2 with
      | .request _ _ _ _ _ => Instr.processionHomeRequest p.1
      | .leave _ _ _ _ _ _ _ => .processionLeaveArrival p.1
      | .answer _ _ _ => .processionAdmissionReturn p.1

/-- What the engines have under way. -/
def engineEvents (s : State) : List Instr :=
  (s.copies.flatMap fun c => [Instr.copyDelivery c.id, .copyCompletion c.id, .mstoreTileRead c.id])
    ++ (s.arrays.filterMap fun p => if p.2.jobs.isEmpty then none else some (Instr.mloopKStep (p.1 / 4) (p.1 % 4)))
    ++ (s.decoders.flatMap fun p => (upto p.2.queue.length).map (Instr.decoderServe p.1)
      ++ p.2.entries.filterMap fun e => if e.active then some (Instr.walkStep p.1 e.wid) else none)
    ++ (upto s.patches.length).map Instr.streamHoldGrant
    ++ s.rasters.flatMap fun r => [Instr.rasterTriangle r.id, .rasterComplete r.id]

/-- The records of a tenant's fault log of which a reply has an effect now: those of open faults; all, where a fault or a kill record waits
for a slot, or where the log lies on another device. -/
def watchedReplies (s : State) (tn : Nat) (t : Tenant) : List Nat :=
  if t.logWaits.isEmpty then []
  else if !t.killsPending.isEmpty || (s.faults.any fun f => f.tenant == tn && f.record.isNone) ||
      (match translate s tn t.config.faultLog .write with
      | .ok (.remote _ _) => true
      | _ => false) then t.logWaits
  else s.faults.filterMap fun f => if f.tenant = tn then f.record else none

/-- What the launch engines, the dispatchers and the control cores may do. -/
def launchEvents (s : State) : List Instr :=
  [Instr.placementStep] ++ (s.teams.flatMap fun p => (if p.2.started then [] else [Instr.teamStart p.1])
      ++ p.2.cores.map (Instr.reorderMove p.1))
    ++ (s.grids.map fun p => Instr.gridCompletion p.1)
    ++ (s.tenants.flatMap fun p => if p.2.state = .running then
      [Instr.rootProgramLaunch p.1]
        ++ (upto 4).flatMap (fun q => [Instr.dependenceWordCheck p.1 q])
        ++ p.2.graphs.flatMap fun g => Instr.graphCompletion p.1 g.slot :: (upto g.nodes.length).flatMap fun n =>
          [Instr.batchTimeout p.1 g.slot n, .batchIdleClose p.1 g.slot n] else [])
    ++ (s.tenants.flatMap fun p => (watchedReplies s p.1 p.2).map (Instr.faultReply p.1))
    ++ if s.sampled < s.now / 1024 then [.queueSample] else []

/-- What the fabric has brought and what is due on it. -/
def fabricEvents (s : State) : List Instr :=
  (((upto s.rx.length).zip s.rx).map fun p => match p.2.pkt.msg with
    | .read _ _ | .write _ _ | .atomic _ _ _ _ _ | .check _ _ | .perform _ _ _ _ _ | .reduce _ _ => Instr.remoteRequestServe p.1
    | .response _ _ => .remoteResponse p.1
    | .count _ _ => .xchgCountReceive p.1
    | .ready _ _ => .xchgReadyReceive p.1
    | .row _ _ _ => .xchgRowReceive p.1
    | .rowAck _ _ => .xchgRowAck p.1
    | .done _ _ => .xchgDoneReceive p.1
    | .parked => .parkedNotice p.1
    | .failure _ => .xchgFailureReceive p.1)
    ++ (s.remotes.map fun r => Instr.remoteTimeout r.id) ++ (upto s.resends.length).map Instr.xchgCountResend

/-- Every act that may be due. What the outside world does, and the steps that only a fault or a lapse of time makes due
(LINK_DOWN, REPLAY_DIVERGENCE, STARVATION_PROMOTION, HEAD_RESERVING), come from the agenda alone. -/
def dueActs (s : State) : List Act :=
  issueActs s ++ (groupEvents s ++ memoryEvents s ++ engineEvents s ++ launchEvents s ++ fabricEvents s).map Act.event

/-- The turn taken next, and the state without it: the agenda's first; with an empty agenda, the acts that may be due come round
one clock after the other. -/
def nextTurn (s : State) : Turn × State :=
  match s.agenda with
  | t :: rest => (t, { s with agenda := rest })
  | [] => (⟨1, (dueActs s).getD (s.now % (dueActs s).length) (.event .placementStep)⟩, s)

/-! ## Placing a word (`withFetchWord`) -/

/-- A clause of one word: the class of its opcode, flag A = f0 and flag B = f1. -/
def oneWordClause (w : W64) : Clause :=
  ⟨⟨(classOfOpcode (opcodeOf w)).getD .valu, 0, 0, some 0, some 1, 0, false⟩, [w]⟩

/-- The slot that is to issue the word. -/
def wordSlot (sl : Slot) (w : W64) : Slot :=
  { sl with path := { sl.path with ix := 0 }, clause := some (oneWordClause w), resumed := false }

/-- A tenant, a team and a group where none is: what a launch would have placed (log entry 3). -/
def bareConfig : TenantConfig :=
  { cores := [0], scratchBase := 0x80000, scratchSize := 0x100000, lBase := 0, lSize := 0x80000, overflowBase := 0x400000
    translationRoot := 0, rootBlock := 0, inbox := 0xA0000, handler := 0, killScope := .group, chanBudget := 0, procBudget := 0
    rasterThreshold := 0, faultLog := 0, partition := 0, supervisor := true, bar2Base := 0, bar2Size := 0, almanac := .off
    almanacBuffer := 0, almanacSize := 0, saveArea := 0 }

def barePath : Path := ⟨0x1000, 0, BitVec.allOnes 32, ⟨false, false, false, false⟩, 0⟩

def bareSlot : Slot := ⟨barePath, none, false, 0, false, 0, none, false, none⟩

def bareGroup (tm : Nat) : Group :=
  { tenant := 0, team := tm, index := 0, core := 0, position := 0, placed := 0, priority := 0, vregs := [], window := 0
    extent := 0, resBase := 0, budget := 1024, regArea := 0x20000, progArea := 0x1000, lBase := 0, links := [], resLinks := 0
    kregs := [], mregs := [], flags := [], marks := [], slot0 := some bareSlot, slot1 := none, fflags := 0, near := [], role := 0
    batch := 0, launched := BitVec.allOnes 32, joins := [], forkSerial := 1, stack := [], park := none, handler := none
    fences := [], holdings := [], bufs := [], restart := 0 }

def bareTeam (gid : Nat) : Team :=
  { tenant := 0, grid := 0, index := 0, cores := [0], threads := 32, tPerCore := 0x10000, tmem := []
    windows := [⟨0xB0000, 0x10000, true⟩], tensors := [], barriers := [], roles := [], started := true, placedAt := 0
    live := [gid], gids := [gid], queues := [], credits := [], node := none }

/-- The state with a group that can issue: the focus's, or a bare one. -/
def withIssuer (s : State) : State :=
  match (tfind s.groups s.focus.1).bind fun g => slotOf g s.focus.2 with
  | some _ => s
  | none =>
    let tm := s.nextId
    let gid := s.nextId + 1
    { s with
      nextId := s.nextId + 2
      focus := (gid, 0)
      tenants := if (tfind s.tenants 0).isSome then s.tenants
        else tput s.tenants 0 { Tenant.fresh bareConfig with state := .running }
      teams := tput s.teams tm (bareTeam gid)
      groups := tput s.groups gid (bareGroup tm) }

/-- The state whose next step issues a word. -/
def placeWord (s : State) (_nbits w : Nat) : State :=
  let s := withIssuer s
  let x := BitVec.ofNat 64 w
  { updGroup s s.focus.1 fun g =>
      setSlot { g with park := none, fences := [] } s.focus.2 ((slotOf g s.focus.2).map fun sl => wordSlot sl x) with
    agenda := [⟨1, .issue s.focus.1 s.focus.2⟩]
    diesInReset := false
    ucieUp := true }

end Sys2Proof.Machine
end

