-- ==== Sys2Proof/Machine/Turn.lean ====
section
/-! DEFINITION. Taking a turn: the clock goes on, and the turn's act is performed. -/

namespace Sys2Proof.Machine

open Sys2Proof

/-- The instruction at a slot's index issues: it is decoded (steps 1 to 3 of R34) and executed, or its word traps. A slot that
holds no begun clause, is held back, is stopped, waits for its pipe or stalls with the group's other slot does nothing, and nothing
issues while the dies are held in reset (R353). -/
def issueTurn (s : State) : Out :=
  match issuer s with
  | none => .next s
  | some i =>
    if !(moduleUp s) || siblingExceeds s i then .next s
    else
      match checkWord i.cl.hdr.cls i.word with
      | .ok ins => exec ins s
      | .error code => if heldBack i.g i.n || isFrozen s i.g || waitsForPipe s i then .next s else .next (raise s i code)

/-- A turn. An event of the agenda is a step that no word encodes. -/
def takeTurn (t : Turn) (s : State) : Out :=
  let s := { s with now := s.now + t.dt }
  match t.act with
  | .issue gid n => issueTurn { s with focus := (gid, n) }
  | .event i => if (encode i).isNone then exec i s else .next s

end Sys2Proof.Machine
end

