-- ==== Sys2Proof/Safety.lean ====
section
/-! DEFINITION. What counts as a safe run, and the vocabulary of the statements: when an instruction comes up free to execute,
what it leaves unchanged, and the tables that say, in the manual's own terms, what each instruction computes. -/

namespace Sys2Proof.Machine

open Sys2Proof

/-! ## Safe runs -/

/-- The byte memories of teams and of operand slots are in canonical form. -/
def teamsCanonical (ts : SMap Team) : Bool := ts.all fun p => Memory.wf p.2.tmem

def arraysCanonical (xs : SMap MatArray) : Bool := xs.all fun p => p.2.slots.all fun q => Memory.wf q.2.elems && Memory.wf q.2.scales

/-- Every byte memory of the module is in its canonical form, those of saved contexts and of what their areas hold among them. -/
def State.canonical (s : State) : Bool :=
  Memory.wf s.scratch && Memory.wf s.main && Memory.wf s.hostMem && teamsCanonical s.teams && arraysCanonical s.arrays &&
    (s.saved ++ s.images).all fun c => teamsCanonical c.teams && arraysCanonical c.arrays

/-! ## When an instruction executes, and what it leaves -/

/-- The issuing slot is `i`; nothing holds it back (R145, R178, R292, R306, R24) and its clause has its pipe (R19); the operands pass
steps 4 to 7 of R34. -/
structure Executes (s : State) (i : Iss) (u : Uses) : Prop where
  issuing : issuer s = some i
  free : (heldBack i.g i.n || isFrozen s i.g || stalls s i u || waitsForPipe s i) = false
  passes : checkUses i.cl.hdr i.g (isSupervisor s i.g) u = none

/-- The issuing slot, with codes k, has gone past its instruction (R30), and the other slot is as it was. -/
def Iss.advanced (i : Iss) (now : Nat) (g' : Group) (k : Codes) : Prop :=
  slotOf g' i.n = some ((i.slot.withCodes k).past now i.cl) ∧ slotOf g' (1 - i.n) = slotOf i.g (1 - i.n)

/-- The issuing slot has left its clause for a header address (R21, R22), and the other slot is as it was. -/
def Iss.jumped (i : Iss) (now : Nat) (g' : Group) (hdr : Nat) : Prop :=
  slotOf g' i.n = some (i.slot.leave now i.cl hdr) ∧ slotOf g' (1 - i.n) = slotOf i.g (1 - i.n)

/-- The positions in `vregs` of n registers from code d in the lanes of a mask. -/
def Iss.elements (i : Iss) (d n : Nat) (act : W32) (x : Nat) : Prop :=
  ∃ l k, l < 32 ∧ laneIn act l = true ∧ k < n ∧ x = vBase (vName i.g (d + k)) + l

/-- The frame of an instruction that writes registers only: which elements, scalars and masks it may write, the codes of
its slot and %fflags afterwards. Everything else of the group is as it was, and no longer parked. -/
structure RegisterEffect (s : State) (i : Iss) (g' : Group) (vs ks ms : Nat → Prop) (codes : Codes) (ff : BitVec 5) : Prop where
  vector : ∀ x, ¬ vs x → tget 0 g'.vregs x = tget 0 i.g.vregs x
  scalar : ∀ c, c < 160 → ¬ ks c → kGet g' c = kGet i.g c
  hidden : i.g.handler.isSome = true → ∀ c, 152 ≤ c → tget 0 g'.kregs c = tget 0 i.g.kregs c
  mask : ∀ m, ¬ ms m → mGet g' m = mGet i.g m
  fflags : g'.fflags = ff
  slots : i.advanced s.now g' codes
  handlerSlot : g'.handler.map (fun h => h.slot) = i.g.handler.map (fun h => h.slot)
  rest : g' = { i.g with
    vregs := g'.vregs
    kregs := g'.kregs
    mregs := g'.mregs
    fflags := g'.fflags
    handler := g'.handler
    slot0 := g'.slot0
    slot1 := g'.slot1
    park := none }

/-- Nothing of a kind is written. -/
def nowhere (_ : Nat) : Prop := False

/-! ## What the integer instructions compute (R56, R57, R75, R80 to R93) -/

/-- The w bits of a register, read under a type. -/
def bitsAt (t : Ty) (x : Nat) : BitVec (tyWidth t) := BitVec.ofNat _ x

end Sys2Proof.Machine

namespace Sys2Proof

open Sys2Proof.Machine

/-- The integer that w bits stand for: two's complement for an s-type, unsigned otherwise (R75). -/
def Ty.intOf (t : Ty) (x : BitVec (tyWidth t)) : Int := if t.isSigned then x.toInt else x.toNat

/-- wrap or sat of an exact result (R57). -/
def Ty.narrow (t : Ty) (sat : Bool) (e : Int) : BitVec (tyWidth t) :=
  BitVec.ofInt _ (if sat then max (tyMin t) (min (tyMax t) e) else e)

/-- w bits as a register of r bits holds them (R56). -/
def Ty.held (t : Ty) (r : Nat) (x : BitVec (tyWidth t)) : Nat := if t.isSigned then (x.signExtend r).toNat else x.toNat

end Sys2Proof

namespace Sys2Proof.Machine

open Sys2Proof

/-- The exact results of R80 on the operands' integers. -/
def exactOf (op : ArithOp) (w : Nat) (x y z : Int) : Int :=
  match op with
  | .add => x + y
  | .sub => x - y
  | .mul => x * y
  | .mulh => Int.floor ((x * y : Rat) / 2 ^ w)
  | .mad => x * y + z
  | .min => if x ≤ y then x else y
  | .max => if x ≤ y then y else x
  | .abs => |x|
  | .neg => -x

/-- What an arithmetic instruction delivers. -/
def arithOf (op : ArithOp) (t : Ty) (sat : Bool) (x y z : BitVec (tyWidth t)) : BitVec (tyWidth t) :=
  t.narrow sat (exactOf op (tyWidth t) (t.intOf x) (t.intOf y) (t.intOf z))

/-- What a logical instruction or a shift delivers (R82). -/
def logicOf (op : LogicOp) {w : Nat} (x y : BitVec w) : BitVec w :=
  match op with
  | .and => x &&& y
  | .or => x ||| y
  | .xor => x ^^^ y
  | .andn => x &&& ~~~y
  | .shl => if y.toNat < w then x <<< y.toNat else 0
  | .shr => x >>> y.toNat
  | .sar => x.sshiftRight y.toNat
  | .rol => x.rotateLeft y.toNat

/-- The bits in which three words have the values of table index n. -/
def mintermOf {w : Nat} (n : Nat) (x y z : BitVec w) : BitVec w :=
  (if n.testBit 0 then x else ~~~x) &&& (if n.testBit 1 then y else ~~~y) &&& (if n.testBit 2 then z else ~~~z)

/-- BTAB as the union of the table's minterms (R83). -/
def tableOf {w : Nat} (tt : BitVec 8) (x y z : BitVec w) : BitVec w :=
  [0, 1, 2, 3, 4, 5, 6, 7].foldl (fun r n => if tt.getLsbD n then r ||| mintermOf n x y z else r) 0

/-- What the bit-counting instructions and MOV deliver (R84, R91). -/
def countOf (op : CountOp) {w : Nat} (x : BitVec w) : BitVec w :=
  match op with
  | .popc => BitVec.ofNat w ((List.range w).countP fun j => x.getLsbD j)
  | .clz => x.clz
  | .ctz => x.reverse.clz
  | .brev => x.reverse
  | .mov => x

/-- BFX (R85): the field is cut at bit w − 1, and its top bit is the sign of an s-type. -/
def fieldOf (t : Ty) (x pos len : BitVec (tyWidth t)) : BitVec (tyWidth t) :=
  if tyWidth t ≤ pos.toNat ∨ len = 0 then 0
  else
    let f := x.extractLsb' pos.toNat (min len.toNat (tyWidth t - pos.toNat))
    if t.isSigned then f.signExtend _ else f.setWidth _

/-- PLSET (R87): the result, and whether the set is refused. -/
def plsetOf {w : Nat} (x y z : BitVec w) : BitVec w × Bool :=
  if ((List.range w).countP fun j => (x ||| y).getLsbD j) ≤ z.toNat then (x ||| y, false) else (x, true)

/-- LEA (R88). -/
def leaOf (t : Ty) (x y z : BitVec (tyWidth t)) : BitVec (tyWidth t) :=
  if tyWidth t ≤ z.toNat then x else BitVec.ofInt _ (t.intOf x + t.intOf y * 2 ^ z.toNat)

/-- The comparisons of R39 and R89. -/
def compares (c : ICond) {w : Nat} (x y : BitVec w) : Bool :=
  match c with
  | .eq => x == y
  | .ne => x != y
  | .lts => x.slt y
  | .les => x.sle y
  | .gts => y.slt x
  | .ges => y.sle x
  | .ltu => x.ult y
  | .leu => x.ule y
  | .gtu => y.ult x
  | .geu => y.ule x

/-- FFCS (R86): the index of the lowest clear bit (64: none), and the word with that bit set. -/
def ffcsOf (x : BitVec 64) : Nat × BitVec 64 :=
  match (List.range 64).find? fun j => !(x.getLsbD j) with
  | some j => (j, x ||| BitVec.twoPow 64 j)
  | none => (64, x)

/-- The source lane of LSHUF, for lane L and the lane operand b (R93). -/
def sourceLane (mode : LaneMode) (lane b : Nat) : Nat :=
  match mode with
  | .idx => b % 32
  | .up => if b ≤ lane then lane - b else lane
  | .down => if lane + b ≤ 31 then lane + b else lane
  | .xor => lane ^^^ (b % 32)

/-! ### VALU tables -/

/-- A VALU instruction that writes one vector destination: its operand fields, its predicate, and each active lane's value. -/
structure LaneSpec where
  uses : Uses
  pred : MCode
  dst : Nat
  regs : Nat
  value : Iss → Nat → Nat

/-- A source of a type in one lane. -/
def Iss.bits (i : Iss) (t : Ty) (a : VCode) (l : Nat) : BitVec (tyWidth t) := bitsAt t (srcLane i.g a.toNat l (tyRegs t))

/-- The fields of a VR instruction of a type. -/
def vrUses (t : Ty) (d : VCode) (srcs : List VCode) (ms : List MCode) : Uses :=
  { vs := vreg d (tyRegs t) :: srcs.map fun a => vsrc a (tyRegs t), ms := ms.map fun m => m.toNat }

def laneOf (t : Ty) (d : VCode) (srcs : List VCode) (p : MCode) (v : Iss → Nat → BitVec (tyWidth t)) : LaneSpec :=
  ⟨vrUses t d srcs [p], p, d.toNat, tyRegs t, fun i l => t.held (32 * tyRegs t) (v i l)⟩

def lane1 (t : Ty) (d a : VCode) (p : MCode) (f : BitVec (tyWidth t) → BitVec (tyWidth t)) : LaneSpec :=
  laneOf t d [a] p fun i l => f (i.bits t a l)

def lane2 (t : Ty) (d a b : VCode) (p : MCode) (f : BitVec (tyWidth t) → BitVec (tyWidth t) → BitVec (tyWidth t)) : LaneSpec :=
  laneOf t d [a, b] p fun i l => f (i.bits t a l) (i.bits t b l)

def lane3 (t : Ty) (d a b c : VCode) (p : MCode)
    (f : BitVec (tyWidth t) → BitVec (tyWidth t) → BitVec (tyWidth t) → BitVec (tyWidth t)) : LaneSpec :=
  laneOf t d [a, b, c] p fun i l => f (i.bits t a l) (i.bits t b l) (i.bits t c l)

/-- A VI instruction: 32 bits, y from the immediate (R43). -/
def laneImm (d a : VCode) (p : MCode) (imm : W32) (f : W32 → W32 → W32) : LaneSpec := lane1 .b32 d a p fun x => f x imm

/-- The arithmetic instructions of the VALU (R80). -/
def valuArith : Instr → Option LaneSpec
  | .iaddVr d a b p t sat => some (lane2 t d a b p fun x y => arithOf .add t sat x y 0)
  | .isubVr d a b p t sat => some (lane2 t d a b p fun x y => arithOf .sub t sat x y 0)
  | .imulVr d a b p t => some (lane2 t d a b p fun x y => arithOf .mul t false x y 0)
  | .imulhVr d a b p t => some (lane2 t d a b p fun x y => arithOf .mulh t false x y 0)
  | .imadVr d a b c p t sat => some (lane3 t d a b c p (arithOf .mad t sat))
  | .iminVr d a b p t => some (lane2 t d a b p fun x y => arithOf .min t false x y 0)
  | .imaxVr d a b p t => some (lane2 t d a b p fun x y => arithOf .max t false x y 0)
  | .iabsVr d a p t => some (lane1 t d a p fun x => arithOf .abs t false x 0 0)
  | .inegVr d a p t => some (lane1 t d a p fun x => arithOf .neg t false x 0 0)
  | .leaVr d a b c p t => some (lane3 t d a b c p (leaOf t))
  | .iaddVi d a p imm => some (laneImm d a p imm fun x y => x + y)
  | .imulVi d a p imm => some (laneImm d a p imm fun x y => x * y)
  | _ => none

/-- The logical, shift, bit-field and move instructions of the VALU (R82 to R87, R91). -/
def valuLogic : Instr → Option LaneSpec
  | .andVr d a b p t => some (lane2 t d a b p (logicOf .and))
  | .orVr d a b p t => some (lane2 t d a b p (logicOf .or))
  | .xorVr d a b p t => some (lane2 t d a b p (logicOf .xor))
  | .andnVr d a b p t => some (lane2 t d a b p (logicOf .andn))
  | .shlVr d a b p t => some (lane2 t d a b p (logicOf .shl))
  | .shrVr d a b p t => some (lane2 t d a b p (logicOf .shr))
  | .sarVr d a b p t => some (lane2 t d a b p (logicOf .sar))
  | .rolVr d a b p t => some (lane2 t d a b p (logicOf .rol))
  | .btabVr d a b c tt p t => some (lane3 t d a b c p (tableOf tt))
  | .popcVr d a p t => some (lane1 t d a p (countOf .popc))
  | .clzVr d a p t => some (lane1 t d a p (countOf .clz))
  | .ctzVr d a p t => some (lane1 t d a p (countOf .ctz))
  | .brevVr d a p t => some (lane1 t d a p (countOf .brev))
  | .bfxVr d a b c p t => some (lane3 t d a b c p (fieldOf t))
  | .binsVr d a b c p t => some (lane3 t d a b c p fun x y z => (x &&& ~~~z) ||| (y &&& z))
  | .plsetVr d a b c p t => some (lane3 t d a b c p fun x y z => (plsetOf x y z).1)
  | .movVr d a p t => some (lane1 t d a p (countOf .mov))
  | .moviVi d p imm => some (laneOf .b32 d [] p fun _ _ => imm)
  | .andVi d a p imm => some (laneImm d a p imm (logicOf .and))
  | .orVi d a p imm => some (laneImm d a p imm (logicOf .or))
  | .xorVi d a p imm => some (laneImm d a p imm (logicOf .xor))
  | .shlVi d a p imm => some (laneImm d a p imm (logicOf .shl))
  | .shrVi d a p imm => some (laneImm d a p imm (logicOf .shr))
  | .sarVi d a p imm => some (laneImm d a p imm (logicOf .sar))
  | _ => none

/-- The contents of the special registers of R37 in one lane, but for %clock. -/
def specialOf (s : State) (i : Iss) (l : Nat) : Nat → Nat
  | 0 => l
  | 1 => i.g.index
  | 2 => (tfind s.teams i.g.team).elim 0 fun t => t.index
  | 3 => 32 * i.g.index + l
  | 4 => i.g.core
  | 5 => 32 * (i.g.core / 128) + 16 * (i.g.core / 8 % 2) + 4 * (i.g.core / 32 % 4) + i.g.core / 2 % 4
  | 6 => 2 * (i.g.core / 128) + i.g.core / 8 % 2
  | 7 => s.fabric.dev
  | 8 => i.g.tenant
  | 9 => i.g.role
  | 11 => i.g.fflags.toNat
  | 12 => i.g.batch.toNat
  | 13 => i.slot.path.mask.toNat
  | _ => 0

/-- The selecting and lane-exchanging instructions of the VALU, and MOVS but for %clock (R92 to R94). -/
def valuSelect (s : State) : Instr → Option LaneSpec
  | .selVr d a b ms p t =>
    some { laneOf t d [a, b] p (fun i l => if laneIn (mGet i.g ms.toNat) l then i.bits t a l else i.bits t b l) with
      uses := vrUses t d [a, b] [p, ms] }
  | .lshuf d a b mode p t => some (laneOf t d [a, b] p fun i l => i.bits t a (sourceLane mode l (i.bits t b l).toNat))
  | .bcast d a b p t =>
    some (laneOf t d [a, b] p fun i l =>
      match (List.range 32).find? (laneIn (i.active p)) with
      | some low => i.bits t a ((i.bits t b low).toNat % 32)
      | none => i.bits t a l)
  | .movsVr d sr p t =>
    if sr.toNat < 14 ∧ sr ≠ 10 ∧ t = .b32 then
      some (laneOf .b32 d [] p fun i l => BitVec.ofNat 32 (specialOf s i l sr.toNat))
    else none
  | _ => none

/-- A VALU instruction that writes its active lanes' bits of a mask. -/
structure MaskLaneSpec where
  uses : Uses
  pred : MCode
  mask : MCode
  value : Iss → Nat → Bool

/-- The integer comparisons of the VALU (R89). -/
def valuCompare : Instr → Option MaskLaneSpec
  | .icmpVr md c a b p t =>
    some ⟨{ vs := [vsrc a (tyRegs t), vsrc b (tyRegs t)], ms := [p.toNat], mdst := [md.toNat] }, p, md,
      fun i l => compares c (i.bits t a l) (i.bits t b l)⟩
  | .icmpVi md c a p imm =>
    some ⟨{ vs := [vsrc a], ms := [p.toNat], mdst := [md.toNat] }, p, md, fun i l => compares c (i.bits .b32 a l) imm⟩
  | _ => none

/-- IADDC (sub = false) and ISUBB of the VALU: the exact result with the carry or borrow in (R81). -/
def carryOf {w : Nat} (sub : Bool) (x y : BitVec w) (cin : Bool) : Int :=
  if sub then (x.toNat : Int) - y.toNat - cin.toNat else (x.toNat : Int) + y.toNat + cin.toNat

/-- The carry or borrow out (R81). -/
def carryOut {w : Nat} (sub : Bool) (x y : BitVec w) (cin : Bool) : Bool :=
  if sub then decide (carryOf sub x y cin < 0) else decide ((2 ^ w : Int) ≤ carryOf sub x y cin)

/-! ### SALU tables -/

/-- A SALU instruction that writes one scalar: its operand fields, what it writes, and the codes of R78. -/
structure ScalarSpec where
  uses : Uses
  dst : KCode
  value : Iss → W64
  cc : Bool
  codes : Iss → Codes

/-- A SALU instruction that writes a whole mask. -/
structure WholeMaskSpec where
  uses : Uses
  dst : MCode
  value : Iss → W32
  cc : Bool
  codes : Iss → Codes

/-- A scalar source under a type. -/
def Iss.kbits (i : Iss) (t : Ty) (a : KCode) : BitVec (tyWidth t) := bitsAt t (kGet i.g a.toNat).toNat

/-- The immediate of an SI form, extended to 64 bits (R44). -/
def immOf (t : Ty) (imm : W32) : W64 := if t.isSigned then imm.signExtend 64 else imm.setWidth 64

/-- The immediate as an operand of w bits. -/
def immBits (t : Ty) (imm : W32) : BitVec (tyWidth t) := (immOf t imm).setWidth _

/-- The codes of a delivered result (R78). -/
def codesFor {w : Nat} (r : BitVec w) (c v : Bool) : Codes := ⟨r == 0, r.msb, c, v⟩

/-- An exact signed value outside the s-range of w bits. -/
def beyond (w : Nat) (e : Int) : Bool := decide (e < -2 ^ (w - 1)) || decide (2 ^ (w - 1) ≤ e)

/-- The codes of x + y + cin (R78). -/
def codesOfSum {w : Nat} (x y : BitVec w) (cin : Bool) (r : BitVec w) : Codes :=
  codesFor r (decide (2 ^ w ≤ x.toNat + y.toNat + cin.toNat)) (beyond w (x.toInt + y.toInt + cin.toNat))

/-- The codes of x − y − borrow (R78). -/
def codesOfDifference {w : Nat} (x y : BitVec w) (bin : Bool) (r : BitVec w) : Codes :=
  codesFor r (decide (y.toNat + bin.toNat ≤ x.toNat)) (beyond w (x.toInt - y.toInt - bin.toNat))

/-- The codes of IMUL and IMAD (R78). -/
def codesOfProduct (t : Ty) (e : Int) (r : BitVec (tyWidth t)) : Codes :=
  codesFor r false (decide (e < tyMin t) || decide (tyMax t < e))

def scalarSpec (t : Ty) (d : KCode) (srcs : List KCode) (cc : Bool) (v : Iss → BitVec (tyWidth t)) (k : Iss → Codes) : ScalarSpec :=
  ⟨{ ks := d.toNat :: srcs.map fun a => a.toNat }, d, fun i => BitVec.ofNat 64 (t.held 64 (v i)), cc, k⟩

/-- A result whose codes are Z and N alone. -/
def scalarPlain (t : Ty) (d : KCode) (srcs : List KCode) (cc : Bool) (v : Iss → BitVec (tyWidth t)) : ScalarSpec :=
  scalarSpec t d srcs cc v fun i => codesFor (v i) false false

/-- A result of x and y with the codes of a sum, a difference or a product. -/
def scalarSum (t : Ty) (d : KCode) (srcs : List KCode) (cc sat : Bool) (x y : Iss → BitVec (tyWidth t)) : ScalarSpec :=
  let r := fun i => arithOf .add t sat (x i) (y i) 0
  scalarSpec t d srcs cc r fun i => codesOfSum (x i) (y i) false (r i)

def scalarDifference (t : Ty) (d : KCode) (srcs : List KCode) (cc sat : Bool) (x y : Iss → BitVec (tyWidth t)) : ScalarSpec :=
  let r := fun i => arithOf .sub t sat (x i) (y i) 0
  scalarSpec t d srcs cc r fun i => codesOfDifference (x i) (y i) false (r i)

def scalarProduct (t : Ty) (d : KCode) (srcs : List KCode) (cc sat : Bool) (x y z : Iss → BitVec (tyWidth t)) : ScalarSpec :=
  let r := fun i => arithOf .mad t sat (x i) (y i) (z i)
  scalarSpec t d srcs cc r fun i => codesOfProduct t (t.intOf (x i) * t.intOf (y i) + t.intOf (z i)) (r i)

/-- The arithmetic instructions of the SALU (R80, R81, R88). -/
def saluArith : Instr → Option ScalarSpec
  | .iaddSr d a b t sat cc => some (scalarSum t d [a, b] cc sat (fun i => i.kbits t a) fun i => i.kbits t b)
  | .isubSr d a b t sat cc => some (scalarDifference t d [a, b] cc sat (fun i => i.kbits t a) fun i => i.kbits t b)
  | .imulSr d a b t cc => some (scalarProduct t d [a, b] cc false (fun i => i.kbits t a) (fun i => i.kbits t b) fun _ => 0)
  | .imadSr d a b c t sat cc =>
    some (scalarProduct t d [a, b, c] cc sat (fun i => i.kbits t a) (fun i => i.kbits t b) fun i => i.kbits t c)
  | .imulhSr d a b t cc => some (scalarPlain t d [a, b] cc fun i => arithOf .mulh t false (i.kbits t a) (i.kbits t b) 0)
  | .iminSr d a b t cc => some (scalarPlain t d [a, b] cc fun i => arithOf .min t false (i.kbits t a) (i.kbits t b) 0)
  | .imaxSr d a b t cc => some (scalarPlain t d [a, b] cc fun i => arithOf .max t false (i.kbits t a) (i.kbits t b) 0)
  | .iabsSr d a t cc =>
    some (scalarSpec t d [a] cc (fun i => arithOf .abs t false (i.kbits t a) 0 0) fun i =>
      codesFor (arithOf .abs t false (i.kbits t a) 0 0) false (decide (t.intOf (i.kbits t a) = tyMin t)))
  | .inegSr d a t cc =>
    some (scalarSpec t d [a] cc (fun i => arithOf .neg t false (i.kbits t a) 0 0) fun i =>
      codesOfDifference 0 (i.kbits t a) false (arithOf .neg t false (i.kbits t a) 0 0))
  | .iaddcSr d a b t cc =>
    let r := fun (i : Iss) => BitVec.ofInt (tyWidth t) (carryOf false (i.kbits t a) (i.kbits t b) i.slot.path.codes.c)
    some (scalarSpec t d [a, b] cc r fun i => codesOfSum (i.kbits t a) (i.kbits t b) i.slot.path.codes.c (r i))
  | .isubbSr d a b t cc =>
    let r := fun (i : Iss) => BitVec.ofInt (tyWidth t) (carryOf true (i.kbits t a) (i.kbits t b) (!i.slot.path.codes.c))
    some (scalarSpec t d [a, b] cc r fun i => codesOfDifference (i.kbits t a) (i.kbits t b) (!i.slot.path.codes.c) (r i))
  | .leaSr d a b c t cc => some (scalarPlain t d [a, b, c] cc fun i => leaOf t (i.kbits t a) (i.kbits t b) (i.kbits t c))
  | .iaddSi d a t cc imm => some (scalarSum t d [a] cc false (fun i => i.kbits t a) fun _ => immBits t imm)
  | .isubSi d a t cc imm => some (scalarDifference t d [a] cc false (fun i => i.kbits t a) fun _ => immBits t imm)
  | .imulSi d a t cc imm => some (scalarProduct t d [a] cc false (fun i => i.kbits t a) (fun _ => immBits t imm) fun _ => 0)
  | .iminSi d a t cc imm => some (scalarPlain t d [a] cc fun i => arithOf .min t false (i.kbits t a) (immBits t imm) 0)
  | .imaxSi d a t cc imm => some (scalarPlain t d [a] cc fun i => arithOf .max t false (i.kbits t a) (immBits t imm) 0)
  | _ => none

def scalarLogic (t : Ty) (d a b : KCode) (cc : Bool) (op : LogicOp) : ScalarSpec :=
  scalarPlain t d [a, b] cc fun i => logicOf op (i.kbits t a) (i.kbits t b)

def scalarCount (t : Ty) (d a : KCode) (cc : Bool) (op : CountOp) : ScalarSpec :=
  scalarPlain t d [a] cc fun i => countOf op (i.kbits t a)

/-- The logical, shift, bit-field and move instructions of the SALU (R82 to R85, R87, R90 to R92). -/
def saluLogic : Instr → Option ScalarSpec
  | .andSr d a b t cc => some (scalarLogic t d a b cc .and)
  | .orSr d a b t cc => some (scalarLogic t d a b cc .or)
  | .xorSr d a b t cc => some (scalarLogic t d a b cc .xor)
  | .andnSr d a b t cc => some (scalarLogic t d a b cc .andn)
  | .shlSr d a b t cc => some (scalarLogic t d a b cc .shl)
  | .shrSr d a b t cc => some (scalarLogic t d a b cc .shr)
  | .sarSr d a b t cc => some (scalarLogic t d a b cc .sar)
  | .rolSr d a b t cc => some (scalarLogic t d a b cc .rol)
  | .andSi d a t cc imm => some (scalarPlain t d [a] cc fun i => logicOf .and (i.kbits t a) (immBits t imm))
  | .orSi d a t cc imm => some (scalarPlain t d [a] cc fun i => logicOf .or (i.kbits t a) (immBits t imm))
  | .xorSi d a t cc imm => some (scalarPlain t d [a] cc fun i => logicOf .xor (i.kbits t a) (immBits t imm))
  | .shlSi d a t cc imm => some (scalarPlain t d [a] cc fun i => logicOf .shl (i.kbits t a) (imm.setWidth _))
  | .shrSi d a t cc imm => some (scalarPlain t d [a] cc fun i => logicOf .shr (i.kbits t a) (imm.setWidth _))
  | .sarSi d a t cc imm => some (scalarPlain t d [a] cc fun i => logicOf .sar (i.kbits t a) (imm.setWidth _))
  | .btabSr d a b c tt t cc => some (scalarPlain t d [a, b, c] cc fun i => tableOf tt (i.kbits t a) (i.kbits t b) (i.kbits t c))
  | .popcSr d a t cc => some (scalarCount t d a cc .popc)
  | .clzSr d a t cc => some (scalarCount t d a cc .clz)
  | .ctzSr d a t cc => some (scalarCount t d a cc .ctz)
  | .brevSr d a t cc => some (scalarCount t d a cc .brev)
  | .movSr d a t cc => some (scalarCount t d a cc .mov)
  | .bfxSr d a b c t cc => some (scalarPlain t d [a, b, c] cc fun i => fieldOf t (i.kbits t a) (i.kbits t b) (i.kbits t c))
  | .binsSr d a b c t cc =>
    some (scalarPlain t d [a, b, c] cc fun i => (i.kbits t a &&& ~~~(i.kbits t c)) ||| (i.kbits t b &&& i.kbits t c))
  | .plsetSr d a b c t cc =>
    some (scalarSpec t d [a, b, c] cc (fun i => (plsetOf (i.kbits t a) (i.kbits t b) (i.kbits t c)).1) fun i =>
      ⟨(plsetOf (i.kbits t a) (i.kbits t b) (i.kbits t c)).2, false, false, false⟩)
  | .selSr d a b ms t cc =>
    some { scalarPlain t d [a, b] cc (fun i => if mGet i.g ms.toNat ≠ 0 then i.kbits t a else i.kbits t b) with
      uses := { ks := [d.toNat, a.toNat, b.toNat], ms := [ms.toNat] } }
  | .moviSi d t cc imm => some ⟨{ ks := [d.toNat] }, d, fun _ => immOf t imm, cc, fun _ => codesFor (immBits t imm) false false⟩
  | .mpopc d ma cc =>
    some ⟨{ ks := [d.toNat], ms := [ma.toNat] }, d,
      fun i => BitVec.ofNat 64 ((List.range 32).countP fun j => (mGet i.g ma.toNat).getLsbD j), cc,
      fun i => ⟨mGet i.g ma.toNat == 0, false, false, false⟩⟩
  | .mfirst d ma cc =>
    some ⟨{ ks := [d.toNat], ms := [ma.toNat] }, d,
      fun i => BitVec.ofNat 64 (((List.range 32).find? fun j => (mGet i.g ma.toNat).getLsbD j).getD 32), cc,
      fun i => ⟨mGet i.g ma.toNat == 0, false, false, false⟩⟩
  | _ => none

/-- The SALU instructions that write a mask (R89, R90). -/
def saluMasks : Instr → Option WholeMaskSpec
  | .mand md ma mb cc => some (maskSpec md [ma, mb] cc fun i => mGet i.g ma.toNat &&& mGet i.g mb.toNat)
  | .mor md ma mb cc => some (maskSpec md [ma, mb] cc fun i => mGet i.g ma.toNat ||| mGet i.g mb.toNat)
  | .mxor md ma mb cc => some (maskSpec md [ma, mb] cc fun i => mGet i.g ma.toNat ^^^ mGet i.g mb.toNat)
  | .mandn md ma mb cc => some (maskSpec md [ma, mb] cc fun i => mGet i.g ma.toNat &&& ~~~(mGet i.g mb.toNat))
  | .mnot md ma cc => some (maskSpec md [ma] cc fun i => ~~~(mGet i.g ma.toNat))
  | .mmov md ma cc => some (maskSpec md [ma] cc fun i => mGet i.g ma.toNat)
  | .icmpSr md c a b t cc => some (compareSpec md c t [a, b] cc (fun i => i.kbits t a) fun i => i.kbits t b)
  | .icmpSi md c a t cc imm => some (compareSpec md c t [a] cc (fun i => i.kbits t a) fun _ => immBits t imm)
  | _ => none
where
  maskSpec (md : MCode) (srcs : List MCode) (cc : Bool) (v : Iss → W32) : WholeMaskSpec :=
    ⟨{ ms := srcs.map fun m => m.toNat, mdst := [md.toNat] }, md, v, cc, fun i => ⟨v i == 0, false, false, false⟩⟩
  compareSpec (md : MCode) (c : ICond) (t : Ty) (srcs : List KCode) (cc : Bool) (x y : Iss → BitVec (tyWidth t)) : WholeMaskSpec :=
    ⟨{ ks := srcs.map fun a => a.toNat, mdst := [md.toNat] }, md,
      fun i => if compares c (x i) (y i) then BitVec.allOnes 32 else 0, cc,
      fun i => codesOfDifference (x i) (y i) false (x i - y i)⟩

/-- The codes of the issuing slot after a SALU instruction (R78). -/
def Iss.codesAfter (i : Iss) (cc : Bool) (k : Codes) : Codes := if cc then k else i.slot.path.codes

/-- The tenant of a group neither records an almanac nor replays one (R311, R312). -/
def noAlmanac (s : State) (tn : Nat) : Prop := ∀ t, tfind s.tenants tn = some t → t.config.almanac = .off

/-- A VALU instruction of a table completes: every active lane of the destination holds the table's value, and nothing else
changes but the issuing slot, which goes past the instruction. -/
def lanesComplete (s : State) (ins : Instr) (L : LaneSpec) : Prop :=
  ∀ i, Executes s i L.uses → ∃ g', exec ins s = .next (putGroup s i.gid g') ∧
    (∀ l, l < 32 → laneIn (i.active L.pred) l = true → vSpan g' L.dst l L.regs = L.value i l) ∧
    RegisterEffect s i g' (i.elements L.dst L.regs (i.active L.pred)) nowhere nowhere i.slot.path.codes i.g.fflags

/-- A SALU instruction of a table completes: the destination scalar holds the table's value, with cc = 1 the issuing slot's
codes are the table's, and nothing else changes but the slot, which goes past the instruction. -/
def scalarCompletes (s : State) (ins : Instr) (L : ScalarSpec) : Prop :=
  ∀ i, Executes s i L.uses → ∃ g', exec ins s = .next (putGroup s i.gid g') ∧ kGet g' L.dst.toNat = L.value i ∧
    RegisterEffect s i g' nowhere (· = L.dst.toNat) nowhere (i.codesAfter L.cc (L.codes i)) i.g.fflags

/-! ## Memory, as the statements see it -/

/-- One byte of a space. -/
def byteOf (s : State) : Space → Nat → Byte
  | .t tm, a => (tfind s.teams tm).elim 0 fun t => readByte t.tmem a
  | .d, a => readByte s.scratch a
  | .m, a => readByte s.main a
  | .host, a => readByte s.hostMem a

/-- Every byte of every space reads as before, but where `hit` holds. -/
def sameBytesBut (s t : State) (hit : Space → Nat → Prop) : Prop := ∀ sp a, ¬ hit sp a → byteOf t sp a = byteOf s sp a

/-- A byte of a divergence area whose bytes scratch has not yet (R127, log entry 88). -/
def inForkArea (s : State) (sp : Space) (a : Nat) : Prop := sp = .d ∧ ∃ p, p ∈ s.forkAreas ∧ p.1 ≤ a ∧ a < p.1 + 4096

/-- The divergence areas that are laid hold free bytes of their records and stack, and no other byte of scratch differs (log entry 88). -/
def areasLaid (s u : State) : Prop :=
  (∀ p, p ∈ u.forkAreas → p ∈ s.forkAreas) ∧
  (∀ a, ¬ inForkArea s .d a → readByte u.scratch a = readByte s.scratch a) ∧
  (s.forkAreas.Pairwise (fun p q => p.1 + 4096 ≤ q.1) → ∀ p k, p ∈ s.forkAreas → p ∉ u.forkAreas → k < 4096 →
    readByte u.scratch (p.1 + k) = Config.divergenceByte p.2.1 p.2.2 k)

/-- Every byte of every space reads as before. -/
def sameBytes (s t : State) : Prop := ∀ sp a, byteOf t sp a = byteOf s sp a

/-- Every group but one is as it was. -/
def othersKept (s t : State) (gid : Nat) : Prop := ∀ x, x ≠ gid → tfind t.groups x = tfind s.groups x

/-- The frame of an instruction that owes a result or none and writes no register: the pending marks and the flag it raises
(R24, R25), the slot it advances, and nothing else of the group. -/
structure OweEffect (s : State) (i : Iss) (g' : Group) (dests : List RegName) (flag : Option Nat) (up : Nat) (codes : Codes) : Prop where
  marks : g'.marks = i.g.marks ++ dests.map fun r => ⟨r, flag⟩
  flags : ∀ n, flagCount g' n = flagCount i.g n + if flag = some n then up else 0
  slots : i.advanced s.now g' codes
  rest : g' = { i.g with
    marks := g'.marks
    flags := g'.flags
    slot0 := g'.slot0
    slot1 := g'.slot1
    park := none }

/-- The issuing group has the frame above in a state, and every other group is as it was. -/
def Iss.owes (i : Iss) (s t : State) (dests : List RegName) (flag : Option Nat) (up : Nat) : Prop :=
  (∃ g', tfind t.groups i.gid = some g' ∧ OweEffect s i g' dests flag up i.slot.path.codes) ∧ othersKept s t i.gid

/-- The issuing group is past its instruction and otherwise as it was, and so is every other group. -/
def Iss.movedOn (i : Iss) (s t : State) : Prop := i.owes s t [] none 0

/-- The issuing group is as it was, but parked at its instruction, its clause off its pipe and its issue slot (R19). -/
def Iss.parkedAt (i : Iss) (t : State) (why : Park → Prop) : Prop :=
  ∃ r, why r.why ∧ r.slot = i.n ∧ tfind t.groups i.gid = some (releasePipe { i.g with park := some r } i.n)

/-! ### Accesses of L, T and D (R159 to R164) -/

/-- A load, store, ATOM or RED on L, T or D: its fields, and what each lane asks of memory. -/
structure AccessSpec where
  uses : Uses
  pred : MCode
  base : KCode
  addr : VCode
  off : BitVec 12
  space : LSpace
  write : Bool
  bytes : Nat
  kind : Iss → ReqKind
  operands : Iss → Nat → Nat × Nat
  dests : Iss → List RegName
  fs : FSel
  returns : Bool
  owedKind : OwedKind

/-- k[base] + addr + 4 × offset modulo 2^64 (R160). -/
def Iss.address (i : Iss) (base : KCode) (x : Nat) (off : BitVec 12) : Nat :=
  (kGet i.g base.toNat + BitVec.ofNat 64 x + 4 * off.signExtend 64).toNat

def AccessSpec.at_ (A : AccessSpec) (i : Iss) (l : Nat) : Nat := i.address A.base (srcLane i.g A.addr.toNat l 1) A.off

/-- Every byte of an access lies in its space's allocation (R159, R161, R162). -/
def allocated (s : State) (g : Group) (sp : LSpace) (write : Bool) (a n : Nat) : Prop :=
  match sp with
  | .l => a + n ≤ g.progArea
  | .t => ∃ t, tfind s.teams g.team = some t ∧ a + n ≤ t.tPerCore * t.cores.length
  | .d => ∃ t, tfind s.teams g.team = some t ∧ ∀ b, b = a ∨ b = a + n - 1 →
      ∃ w, w ∈ t.windows ∧ w.base ≤ b ∧ b < w.base + w.size ∧ (write = true → w.write = true)

/-- An access that writes T touches no registered barrier's 16 bytes (R174). -/
def clearOfBarriers (s : State) (g : Group) (a n : Nat) : Prop :=
  ∀ t, tfind s.teams g.team = some t → ∀ b, b ∈ t.barriers → a + n ≤ b.addr ∨ b.addr + 16 ≤ a

/-- A lane passes the checks of R160 and R174. -/
def AccessSpec.lanePasses (A : AccessSpec) (s : State) (i : Iss) (l : Nat) : Prop :=
  allocated s i.g A.space A.write (A.at_ i l) A.bytes ∧ A.at_ i l % A.bytes = 0 ∧
    (A.write = true → A.space = .t → clearOfBarriers s i.g (A.at_ i l) A.bytes)

/-- Where an access of a group is performed: T of its team, or scratch, L at 12 KiB + Lr from the group's L base (R164). -/
def performedIn (g : Group) : LSpace → Space
  | .t => .t g.team
  | .l | .d => .d

def performedAt (g : Group) (sp : LSpace) (a : Nat) : Nat :=
  match sp with
  | .l => g.lBase + 0x3000 + g.regArea + a
  | .t | .d => a

/-- One lane's part. -/
def AccessSpec.lane (A : AccessSpec) (i : Iss) (l : Nat) : LaneReq :=
  ⟨l, performedAt i.g A.space (A.at_ i l), (A.operands i l).1, (A.operands i l).2⟩

/-- The width at which a bank performs a load or store: 128 bits are two 64-bit halves (R166, R183). -/
def halfWidth (wd : Width) : Width := if wd = .w128 then .w64 else wd

/-- Requests that hold each of a list of lanes once, one request per 128-byte line, lanes in ascending order (R171). -/
structure Covers (new : List Req) (ls : List LaneReq) : Prop where
  lanes : ∀ r, r ∈ new → r.lanes = ls.filter fun l => l.addr / 128 == r.line
  all : ∀ l, l ∈ ls → ∃ r, r ∈ new ∧ r.line = l.addr / 128
  once : (new.map fun r => r.line).Nodup
  some_ : ∀ r, r ∈ new → r.lanes ≠ []

/-- Loads (R166). -/
def loadSpec : Instr → Option AccessSpec
  | .ldl data addr base p wd fs off => some (mk .l data addr base p wd fs off)
  | .ldt data addr base p wd fs off => some (mk .t data addr base p wd fs off)
  | .ldd data addr base p wd fs off => some (mk .d data addr base p wd fs off)
  | _ => none
where
  mk (sp : LSpace) (data addr : VCode) (base : KCode) (p : MCode) (wd : Width) (fs : FSel) (off : BitVec 12) : AccessSpec :=
    let n := widthRegs wd
    { uses := { fs := fs, vs := [vreg data n, vsrc addr], ks := [base.toNat], ms := [p.toNat], tracked := n }
      pred := p, base := base, addr := addr, off := off, space := sp, write := false, bytes := widthBytes wd
      kind := fun i => .load (halfWidth wd) (vName i.g data.toNat)
      operands := fun _ _ => (0, 0)
      dests := fun i => regSpan (vName i.g data.toNat) n
      fs := fs, returns := true, owedKind := if sp = .l then .localLoad else .load }

/-- Stores (R166). -/
def storeSpec : Instr → Option AccessSpec
  | .stl data addr base p wd off => some (mk .l data addr base p wd off)
  | .stt data addr base p wd off => some (mk .t data addr base p wd off)
  | .std data addr base p wd off => some (mk .d data addr base p wd off)
  | _ => none
where
  mk (sp : LSpace) (data addr : VCode) (base : KCode) (p : MCode) (wd : Width) (off : BitVec 12) : AccessSpec :=
    { uses := { vs := [storeData data (widthRegs wd), vsrc addr], ks := [base.toNat], ms := [p.toNat] }
      pred := p, base := base, addr := addr, off := off, space := sp, write := true, bytes := widthBytes wd
      kind := fun _ => .store (halfWidth wd)
      operands := fun i l => (srcLane i.g data.toNat l (widthRegs wd), 0)
      dests := fun _ => [], fs := .none, returns := false, owedKind := .other }

/-- ATOM and RED on T and D (R167 to R169). -/
def atomicSpec : Instr → Option AccessSpec
  | .atomT op data addr base p wd fs off => some (mk .t op data addr base p wd fs off true)
  | .redT op data addr base p wd off => some (mk .t op data addr base p wd .none off false)
  | .atomD op data addr base p wd _ fs off => some (mk .d op data addr base p wd fs off true)
  | .redD op data addr base p wd _ off => some (mk .d op data addr base p wd .none off false)
  | _ => none
where
  mk (sp : LSpace) (op : AtomOp) (data addr : VCode) (base : KCode) (p : MCode) (wd : Width) (fs : FSel) (off : BitVec 12)
      (ret : Bool) : AccessSpec :=
    let n := if wd = .w64 then 2 else 1
    let k := atomOperands op
    { uses := {
        fs := fs
        vs := [⟨if ret || k = 2 then .register else .source, data.toNat, n * max 1 k⟩, vsrc addr]
        ks := [base.toNat], ms := [p.toNat], tracked := if ret then n else 0 }
      pred := p, base := base, addr := addr, off := off, space := sp, write := true, bytes := widthBytes wd
      kind := fun i => .atomic op (wd == .w64) (if ret then some (vName i.g data.toNat, vName i.g data.toNat) else none)
      operands := fun i l => (if k = 0 then 0 else srcLane i.g data.toNat l n, if k = 2 then srcLane i.g (data.toNat + n) l n else 0)
      dests := fun i => if ret then regSpan (vName i.g data.toNat) n else []
      fs := fs, returns := ret, owedKind := .atomic }

/-- The new word and the word returned by each operation of R168, at a width of w bits. -/
def atomResult (op : AtomOp) {w : Nat} (old x y : BitVec w) : BitVec w × BitVec w :=
  match op with
  | .add => (old + x, old)
  | .sub => (old - x, old)
  | .smin => (if old.sle x then old else x, old)
  | .smax => (if x.sle old then old else x, old)
  | .min => (if old.ule x then old else x, old)
  | .max => (if x.ule old then old else x, old)
  | .and => (old &&& x, old)
  | .or => (old ||| x, old)
  | .xor => (old ^^^ x, old)
  | .exch => (x, old)
  | .inc => (if x.ule old then 0 else old + 1, old)
  | .dec => (if old = 0 ∨ x.ult old then x else old - 1, old)
  | .cas => (if old = x then y else old, old)
  | .fadd => (BitVec.ofNat w (fAdd fmtF32 .rne (unpack fmtF32 old.toNat) (unpack fmtF32 x.toNat)).1, old)
  | .bfadd =>
    let h := fun (n : Nat) => (fAdd fmtBf16 .rne (unpack fmtBf16 (old.extractLsb' n 16).toNat)
      (unpack fmtBf16 (x.extractLsb' n 16).toNat)).1
    (BitVec.ofNat w (h 0 + 2 ^ 16 * h 16), old)
  | .fmin => (BitVec.ofNat w (fMinMax fmtF32 false (unpack fmtF32 old.toNat) (unpack fmtF32 x.toNat) old.toNat x.toNat).1, old)
  | .fmax => (BitVec.ofNat w (fMinMax fmtF32 true (unpack fmtF32 old.toNat) (unpack fmtF32 x.toNat) old.toNat x.toNat).1, old)
  | .ffcs =>
    let r := ffcsOf (old.setWidth 64)
    (r.2.setWidth w, BitVec.ofNat w r.1)
  | .plset => ((plsetOf old x y).1, old)
  | .bins => ((old &&& ~~~y) ||| (x &&& y), old)

/-- The lanes of an access in ascending order, and what of them is queued first, and after it: the halves of a 128-bit access, the
second of which fills the registers from the third on. -/
def AccessSpec.lanesOf (A : AccessSpec) (i : Iss) : List LaneReq :=
  ((List.range 32).filter (laneIn (i.active A.pred))).map (A.lane i)

def AccessSpec.lower (A : AccessSpec) (i : Iss) : List LaneReq :=
  if A.bytes = 16 then (A.lanesOf i).map fun l => { l with x := l.x % 2 ^ 64 } else A.lanesOf i

def AccessSpec.upper (A : AccessSpec) (i : Iss) : List LaneReq :=
  if A.bytes = 16 then (A.lanesOf i).map fun l => ⟨l.lane, l.addr + 8, l.x / 2 ^ 64, 2⟩ else []

/-- A list names every request of the path's earlier instructions (R181). -/
def Iss.precedents (i : Iss) (s : State) (ids : List Nat) : Prop :=
  ∀ q, q ∈ s.reqs → q.gid = i.gid → q.path &&& i.slot.path.mask ≠ 0 → q.seq < s.nextSeq → q.id ∈ ids

/-- The fields of the requests of one memory instruction: they belong to the issuing path, have reached no bank, and bind no other
group yet; the requests of the path's earlier instructions precede them (R181). -/
structure RequestFields (s : State) (i : Iss) (r : Req) (sp : Space) (k : ReqKind) (p : MCode) (owed : Option Nat) : Prop where
  gid : r.gid = i.gid
  agent : r.tenant = i.g.tenant ∧ r.team = i.g.team ∧ r.core = i.g.core ∧ r.path = i.slot.path.mask ∧ r.reach = .own
  order : i.precedents s r.after
  fresh : r.arrived = none ∧ r.held = none
  seq : r.seq = s.nextSeq
  space : r.space = sp
  kind : r.kind = k
  active : r.active = i.active p
  owed : r.owed = owed

/-- A result newly owed to the issuing group, with nothing of it there yet. -/
def Iss.newOwed (i : Iss) (s : State) (kind : OwedKind) (flag : Option Nat) (dests : List RegName) (parts : Nat) : Owed :=
  ⟨s.nextId, i.gid, s.nextSeq, kind, flag, dests, [], parts, s.now⟩

/-- An access whose lanes all pass their checks issues: one request per line holds its lanes, the halves of 128 bits each in requests
of their own, the result is owed where the instruction returns one, the slot goes on, and no byte of memory changes yet. -/
def accessIssues (s : State) (ins : Instr) (A : AccessSpec) : Prop :=
  ∀ i, Executes s i A.uses → (∀ l, l < 32 → laneIn (i.active A.pred) l = true → A.lanePasses s i l) →
    sliceFull s i.g.core (performedIn i.g A.space) (A.lanesOf i) = false → i.active A.pred ≠ 0 →
    ∃ t lo hi, exec ins s = .next t ∧
      t = { s with
        reqs := s.reqs ++ lo ++ hi
        owed := s.owed ++ if A.returns then [i.newOwed s A.owedKind (i.flag A.fs) (A.dests i) (lo ++ hi).length] else []
        groups := t.groups
        partitions := t.partitions
        nextId := t.nextId
        nextSeq := s.nextSeq + 1 } ∧
      Covers lo (A.lower i) ∧ Covers hi (A.upper i) ∧
      (∀ r, r ∈ lo ++ hi → RequestFields s i r (performedIn i.g A.space) (A.kind i) A.pred (if A.returns then some s.nextId else none) ∧
        r.port = i.g.core) ∧
      i.owes s t (A.dests i) (if A.returns then i.flag A.fs else none) 1

/-- With no active lane an access sends no request; what it would have loaded is marked pending all the same, and its flag keeps
its count. -/
def accessWithoutLanes (s : State) (ins : Instr) (A : AccessSpec) : Prop :=
  ∀ i, Executes s i A.uses → i.active A.pred = 0 →
    ∃ t, exec ins s = .next t ∧ t = { s with
      groups := t.groups
      partitions := t.partitions
      nextSeq := s.nextSeq + 1 } ∧ i.owes s t (A.dests i) (if A.returns then i.flag A.fs else none) 0

/-- Where a lane fails a check of R160 the access traps: the allocation trap with exactly the lanes that lie outside their space
or touch a barrier, else 0x05 with exactly the misaligned lanes. -/
def accessTraps (s : State) (ins : Instr) (A : AccessSpec) : Prop :=
  ∀ i, Executes s i A.uses →
    let outside := fun l => ¬ (allocated s i.g A.space A.write (A.at_ i l) A.bytes ∧
      (A.write = true → A.space = .t → clearOfBarriers s i.g (A.at_ i l) A.bytes))
    let trapsWith := fun (code : Nat) (bad : Nat → Prop) => ∃ m low, low < 32 ∧ laneIn m low = true ∧
      (∀ l, l < 32 → (laneIn m l = true ↔ laneIn (i.active A.pred) l = true ∧ bad l)) ∧ (∀ l, l < low → laneIn m l = false) ∧
      exec ins s = .next (raiseAt s i code 0 m (A.at_ i low))
    ((∃ l, l < 32 ∧ laneIn (i.active A.pred) l = true ∧ outside l) → trapsWith (if A.space = .t then 0x06 else 0x07) outside) ∧
    ((∀ l, l < 32 → laneIn (i.active A.pred) l = true → ¬ outside l) →
      (∃ l, l < 32 ∧ laneIn (i.active A.pred) l = true ∧ A.at_ i l % A.bytes ≠ 0) →
      trapsWith 0x05 fun l => A.at_ i l % A.bytes ≠ 0)

/-- The lanes of a request whose stores take effect: on T, those that touch no registered barrier's record (log entry 70). -/
def Req.landing (s : State) (r : Req) (n : Nat) : List LaneReq :=
  match r.space with
  | .t tm => match tfind s.teams tm with
    | some t => r.lanes.filter fun l => t.barriers.all fun b => decide (l.addr + n ≤ b.addr ∨ b.addr + 16 ≤ l.addr)
    | none => r.lanes
  | _ => r.lanes

/-- The word at an address after lanes that read, modify and write aligned words of it in order. -/
def wordAfter (op : AtomOp) {w : Nat} (a : Nat) (ls : List LaneReq) (v : BitVec w) : BitVec w :=
  ls.foldl (fun v l => if l.addr = a then (atomResult op v (BitVec.ofNat w l.x) (BitVec.ofNat w l.y)).1 else v) v

/-- What lanes that write aligned words in order leave at an address. -/
def storedAfter (a : Nat) (ls : List LaneReq) (v : Nat) : Nat := ls.foldl (fun v l => if l.addr = a then l.x else v) v

/-- The bytes of a request's lanes. -/
def Req.touches (r : Req) (n : Nat) (sp : Space) (a : Nat) : Prop :=
  sp = r.space ∧ ∃ l, l ∈ r.lanes ∧ l.addr ≤ a ∧ a < l.addr + n

/-- A request can be performed: it is queued under its identifier, stands in its bank's queue or has no earlier one that holds it
back, its bank serves it (R172), no atomic that has read its line holds it off, its team exists where it is on T, its lanes are
aligned, and its tenant keeps no almanac. -/
structure Performable (s : State) (r : Req) (n : Nat) : Prop where
  queued : s.reqs.find? (fun q => q.id == r.id) = some r
  free : r.arrived.isSome = true ∨ (blockedReq s.reqs r = false ∧ pastSlice s r = false)
  waiting : r.isWaiting = false
  served : r.held = none ∧ heldOff s r = false ∧ bankTurn s r = true
  present : ∀ tm, r.space = .t tm → (tfind s.teams tm).isSome = true
  aligned : ∀ l, l ∈ r.lanes → l.addr % n = 0
  plain : noAlmanac s r.tenant

/-- The result that a request contributes to gains writes, and one part fewer is outstanding; other results stay. -/
def resultGains (s t : State) (owed : Option Nat) (ws : List RegWrite) : Prop :=
  t.owed = s.owed.map fun o => if owed = some o.id then { o with writes := o.writes ++ ws, parts := o.parts - 1 } else o

/-! ## Numbers (R58 to R69) -/

/-- The exact value of a finite float. -/
def FVal.value : FVal → Option Rat
  | .fin n m e => some ((if n then -1 else 1) * m * (2 : Rat) ^ e)
  | _ => none

/-- An exact value rounded once into a format (R60); an exact zero has a sign of its own and sets no flag. -/
def roundsOnce (f : Fmt) (r : Rnd) (x : Rat) (zeroNeg : Bool) (res : Nat × FFlags) : Prop :=
  (x = 0 → res = (withSign f zeroNeg 0, 0)) ∧
  (x ≠ 0 → ∃ (neg : Bool) (m : Nat) (e : Int), (if neg then -1 else 1) * m * (2 : Rat) ^ e = x ∧ res = roundFin f r neg m e false)

/-- The sign of an exact zero sum: the terms' own where all are zeros of one sign, else as R60 says. -/
def zeroSumSign (r : Rnd) (ts : List (Rat × Bool)) : Bool :=
  if ts.all (fun t => decide (t.1 = 0) && t.2) then true
  else if ts.all (fun t => decide (t.1 = 0) && !t.2) then false
  else r == .rdn

/-- g is the number of a grid that rounding an exact value takes (R60); a tie is left to the statement. -/
def takesNearest (grid : Rat → Prop) (r : Rnd) (x g : Rat) : Prop :=
  grid g ∧ match r with
  | .rne => ∀ q, grid q → |g - x| ≤ |q - x|
  | .rtz => |g| ≤ |x| ∧ 0 ≤ g * x ∧ ∀ q, grid q → |q| ≤ |x| → |q| ≤ |g|
  | .rup => x ≤ g ∧ ∀ q, grid q → x ≤ q → g ≤ q
  | .rdn => g ≤ x ∧ ∀ q, grid q → q ≤ x → q ≤ g

/-- The rounded magnitude of v leaves the format's finite numbers (R60, R61): `top` is the next one beyond the largest, as far above
it as `ulp` says. -/
def overflows (f : Fmt) (r : Rnd) (v : ℝ) : Prop :=
  let top : ℝ := 2 ^ (f.bias + 1)
  let ulp : ℝ := 2 ^ (f.bias - f.fbits)
  match r with
  | .rne => top - ulp / 2 ≤ |v|
  | .rtz => top ≤ |v|
  | .rup => top - ulp < v ∨ v ≤ -top
  | .rdn => top ≤ v ∨ v < ulp - top

/-- v is tiny: rounded as if the exponent range were unbounded, its magnitude lies below the smallest normal one (R61), which the
numbers just below it approach in steps of `ulp`. -/
def tinyAfter (f : Fmt) (r : Rnd) (v : ℝ) : Prop :=
  let edge : ℝ := 2 ^ f.emin
  let ulp : ℝ := 2 ^ (f.emin - f.fbits - 1)
  match r with
  | .rne => |v| < edge - ulp / 2
  | .rtz => |v| < edge
  | .rup => -edge < v ∧ v ≤ edge - ulp
  | .rdn => ulp - edge ≤ v ∧ v < edge

/-- q is the representable number that the mode takes for v (R60). -/
def takesRepresentable (f : Fmt) (r : Rnd) (v : ℝ) (bits : Nat) (q : Rat) : Prop :=
  match r with
  | .rne => ∀ b y, (unpack f b).value = some y → |(q : ℝ) - v| ≤ |(y : ℝ) - v| ∧ (|(q : ℝ) - v| = |(y : ℝ) - v| → y ≠ q → bits % 2 = 0)
  | .rtz => |(q : ℝ)| ≤ |v| ∧ ∀ b y, (unpack f b).value = some y → |(y : ℝ)| ≤ |v| → |y| ≤ |q|
  | .rup => v ≤ q ∧ ∀ b y, (unpack f b).value = some y → v ≤ y → q ≤ y
  | .rdn => (q : ℝ) ≤ v ∧ ∀ b y, (unpack f b).value = some y → (y : ℝ) ≤ v → y ≤ q

/-- A real number other than 0 rounded once into a format, with its flags (R60, R61). -/
def correctlyRounded (f : Fmt) (r : Rnd) (v : ℝ) (res : Nat × FFlags) : Prop :=
  (overflows f r v → res.2 = ffOF ||| ffNX ∧
    (0 < v → res.1 = if r = .rne ∨ r = .rup then f.infBits else f.infBits - 1) ∧
    (v < 0 → res.1 = f.signBit + if r = .rne ∨ r = .rdn then f.infBits else f.infBits - 1)) ∧
  (¬ overflows f r v → ∃ q, (unpack f res.1).value = some q ∧ takesRepresentable f r v res.1 q ∧
    res.1 < 2 * f.signBit ∧ ((unpack f res.1).sign = true ↔ v < 0) ∧ res.2 &&& (ffNV ||| ffDZ ||| ffOF) = 0 ∧
    (res.2.getLsbD 0 = true ↔ (q : ℝ) ≠ v) ∧ (res.2.getLsbD 1 = true ↔ (q : ℝ) ≠ v ∧ tinyAfter f r v))

/-- The number of R110's class bit of a pattern. -/
def classBit (f : Fmt) (x bit : Nat) : Prop :=
  (∀ sg, unpack f x = .nan sg → bit = if sg then 9 else 8) ∧ (∀ n, unpack f x = .inf n → bit = if n then 7 else 6) ∧
  ∀ q, (unpack f x).value = some q →
    bit = (if q = 0 then 0 else if |q| < (2 : Rat) ^ f.emin then 2 else 4) + if (unpack f x).sign then 1 else 0

/-- The decoded magnitude of an lns6 code (R66), and the threshold T of R67 below which the codes above n do not begin. -/
def lnsDecoded (c : Nat) : Rat := (([256, 304, 362, 431].getD (c % 4) 0 : Nat) / 256) * (2 : Rat) ^ (((c : Int) - 16) / 4)
def lnsThreshold (n : Nat) : Rat :=
  ([0x8B95C2, 0xA5FED7, 0xC5672A, 0xEAC0C7].getD (n % 4) 0 : Nat) * (2 : Rat) ^ ((n / 4 : Nat) - 27 : Int)

/-- The numbers of e4m3, and the next ones beyond them (R58, R64). -/
def e4m3Grid (q : Rat) : Prop := q = 512 ∨ q = -512 ∨ ∃ b, b < 256 ∧ (unpackE4m3 b).value = some q

/-- A VALU float instruction: its fields, its predicate, its destination, and each active lane's result with the flags it
raises. -/
structure FloatSpec where
  uses : Uses
  pred : MCode
  dst : Nat
  regs : Nat
  value : Iss → Nat → Nat × FFlags

/-- An f32 operand under its modifiers: absolute value first, then negation (R103). -/
def Iss.f32 (i : Iss) (a : VCode) (neg abs : Bool) (l : Nat) : FVal := (unpack fmtF32 (srcLane i.g a.toNat l 1)).modify neg abs

/-- Element j of a packed operand under its modifiers (R58, R103). -/
def Iss.half (i : Iss) (f : Fmt) (a : VCode) (neg abs : Bool) (l j : Nat) : FVal :=
  (unpack f (fld (srcLane i.g a.toNat l 1) (16 * j) 16)).modify neg abs

/-- The 16-bit format of a packed type. -/
def packedFmt (t : Ty) : Fmt := if t = .bf16 then fmtBf16 else fmtF16

def floatSpec (d : VCode) (n : Nat) (srcs : List VUse) (p : MCode) (v : Iss → Nat → Nat × FFlags) : FloatSpec :=
  ⟨{ vs := vreg d n :: srcs, ms := [p.toNat] }, p, d.toNat, n, v⟩

/-- The float instructions of the VALU that write a vector register (R106 to R119). -/
def valuFloat : Instr → Option FloatSpec
  | .fadd d a b p r na nb aa ab =>
    some (floatSpec d 1 [vsrc a, vsrc b] p fun i l => fAdd fmtF32 r (i.f32 a na aa l) (i.f32 b nb ab l))
  | .fsub d a b p r na nb aa ab =>
    some (floatSpec d 1 [vsrc a, vsrc b] p fun i l => fAdd fmtF32 r (i.f32 a na aa l) ((i.f32 b nb ab l).modify true false))
  | .fmul d a b p r na nb aa ab =>
    some (floatSpec d 1 [vsrc a, vsrc b] p fun i l => fMul fmtF32 r (i.f32 a na aa l) (i.f32 b nb ab l))
  | .ffma d a b c p r na nb nc aa ab =>
    some (floatSpec d 1 [vsrc a, vsrc b, vsrc c] p fun i l =>
      fFma fmtF32 r (i.f32 a na aa l) (i.f32 b nb ab l) (i.f32 c nc false l))
  | .fmin d a b p _ na nb aa ab => some (minMax d a b p na nb aa ab false)
  | .fmax d a b p _ na nb aa ab => some (minMax d a b p na nb aa ab true)
  | .fclass d a p t =>
    some (floatSpec d 1 [vsrc a] p fun i l =>
      (if t = .f32 then fClass fmtF32 (srcLane i.g a.toNat l 1) else fClass (packedFmt t) (fld (srcLane i.g a.toNat l 1) 0 16), 0))
  | .fscale d a b p r na aa =>
    some (floatSpec d 1 [vsrc a, vsrc b] p fun i l =>
      fScale r (i.f32 a na aa l) (BitVec.ofNat 32 (srcLane i.g b.toNat l 1)).toInt)
  | .frint d a p r na aa =>
    some (floatSpec d 1 [vsrc a] p fun i l => fRint r (i.f32 a na aa l) (modifyBits fmtF32 na aa (srcLane i.g a.toNat l 1)))
  | .frcp d a p r na aa => some (floatSpec d 1 [vsrc a] p fun i l => fRcp r (i.f32 a na aa l))
  | .fsqrt d a p r na aa => some (floatSpec d 1 [vsrc a] p fun i l => fSqrt r (i.f32 a na aa l))
  | .frsq d a p r na aa => some (floatSpec d 1 [vsrc a] p fun i l => fRsq r (i.f32 a na aa l))
  | .fexp2 d a p r na aa => some (floatSpec d 1 [vsrc a] p fun i l => fExp2 r (i.f32 a na aa l))
  | .flog2 d a p r na aa => some (floatSpec d 1 [vsrc a] p fun i l => fLog2 r (i.f32 a na aa l))
  | .pkfma d a b c p t r na nb nc aa ab =>
    let f := packedFmt t
    let e := fun i l j => fFma f r (i.half f a na aa l j) (i.half f b nb ab l j) (i.half f c nc false l j)
    some (floatSpec d 1 [vsrc a, vsrc b, vsrc c] p fun i l => ((e i l 0).1 + 2 ^ 16 * (e i l 1).1, (e i l 0).2 ||| (e i l 1).2))
  | .fdot2 d a b c p t r na nb nc aa ab =>
    let f := packedFmt t
    some (floatSpec d 1 [vsrc a, vsrc b, vsrc c] p fun i l =>
      fDot2 fmtF32 r (i.half f a na aa l 0) (i.half f b nb ab l 0) (i.half f a na aa l 1) (i.half f b nb ab l 1)
        (i.f32 c nc false l))
  | .fcvt d a b p t src r =>
    some (floatSpec d 1 (vsrc a :: if t = .e4m3 ∨ src = .e4m3 then [vsrc b] else []) p fun i l =>
      fCvt t src r (srcLane i.g a.toNat l 1) (fld (srcLane i.g b.toNat l 1) 0 8))
  | .icvt d a p t src r =>
    some (floatSpec d (tyRegs t) [vsrc a (tyRegs src)] p fun i l =>
      let x := srcLane i.g a.toNat l (tyRegs src)
      if t.isArith then (t.held (32 * tyRegs t) (bitsAt t (floatToInt t src r x).1), (floatToInt t src r x).2)
      else intToFloat t src r x)
  | .lmul d a b p => some (floatSpec d 1 [vsrc a, vsrc b] p fun i l => lnsMul (srcLane i.g a.toNat l 1) (srcLane i.g b.toNat l 1))
  | .lsum d a b c p =>
    some (floatSpec d 1 [vsrc a, vsrc b, vsrc c] p fun i l =>
      fAdd fmtF32 .rne (lnsProduct (srcLane i.g a.toNat l 1) (srcLane i.g b.toNat l 1)) (i.f32 c false false l))
  | _ => none
where
  minMax (d a b : VCode) (p : MCode) (na nb aa ab mx : Bool) : FloatSpec :=
    floatSpec d 1 [vsrc a, vsrc b] p fun i l =>
      fMinMax fmtF32 mx (i.f32 a na aa l) (i.f32 b nb ab l) (modifyBits fmtF32 na aa (srcLane i.g a.toNat l 1))
        (modifyBits fmtF32 nb ab (srcLane i.g b.toNat l 1))

/-- %fflags gains the flags of every active lane and loses none (R61). -/
def gathersFlags (old new : FFlags) (act : W32) (fl : Nat → FFlags) : Prop :=
  ∀ b, b < 5 → (new.getLsbD b = true ↔ old.getLsbD b = true ∨ ∃ l, l < 32 ∧ laneIn act l = true ∧ (fl l).getLsbD b = true)

/-- The comparisons of FCMP on exact values: unordered where an operand is a NaN, and −0 equal to +0 (R39, R109). -/
def floatCompares (c : FCond) (x y : FVal) : Bool :=
  match c, order x y with
  | .eq, some .eq | .le, some .eq | .ge, some .eq | .leu, some .eq | .geu, some .eq => true
  | .lt, some .lt | .le, some .lt | .ne, some .lt | .ltu, some .lt | .leu, some .lt => true
  | .gt, some .gt | .ge, some .gt | .ne, some .gt | .gtu, some .gt | .geu, some .gt => true
  | .ord, some _ => true
  | .ne, none | .ltu, none | .leu, none | .gtu, none | .geu, none | .uno, none => true
  | _, _ => false
where
  order (x y : FVal) : Option Ordering :=
    match x, y with
    | .nan _, _ => none
    | _, .nan _ => none
    | .inf a, .inf b => some (if a = b then .eq else if a then .lt else .gt)
    | .inf a, .fin _ _ _ => some (if a then .lt else .gt)
    | .fin _ _ _, .inf b => some (if b then .gt else .lt)
    | .fin n m e, .fin n' m' e' =>
      let v := fun (n : Bool) (m : Nat) (e : Int) => (if n then -1 else 1 : Rat) * m * (2 : Rat) ^ e
      some (compare (v n m e) (v n' m' e'))

/-! ## Barriers, as T-space shows them (R173) -/

/-- A barrier that has just been updated completes its phase when no arrival is due and the byte counts agree: the epoch advances
modulo 2^16, the quota is due again, the counts return to 0, and the phase's fault is recorded. -/
def phaseEnds (b : Barrier) (fault : Nat) (b' : Barrier) : Prop :=
  b'.addr = b.addr ∧ b'.epoch = (b.epoch + 1) % 2 ^ 16 ∧ b'.fault = fault ∧ b'.quota = b.quota ∧ b'.due = b.quota ∧
    b'.owed = 0 ∧ b'.landed = 0

/-- The barrier after the completion test of an update that leaves it as b. -/
def afterTest (b b' : Barrier) : Prop :=
  if b.due = 0 ∧ b.landed = b.owed then phaseEnds b 0 b' else b' = b

/-- A barrier of a team and its 16 bytes of T: epoch, fault, quota and due in word 0, owed and landed in word 1. -/
def holdsBarrier (t : State) (tm : Nat) (b : Barrier) : Prop :=
  (∃ x, tfind t.teams tm = some x ∧ x.barriers.find? (fun y => y.addr == b.addr) = some b) ∧
    readSpace t (.t tm) b.addr 8 = (b.epoch * 2 ^ 48 + b.fault * 2 ^ 46 + b.quota * 2 ^ 37 + b.due * 2 ^ 28) % 2 ^ 64 ∧
    readSpace t (.t tm) (b.addr + 8) 8 = (b.owed * 2 ^ 32 + b.landed) % 2 ^ 64

/-- The bytes of a barrier's record. -/
def barrierBytes (tm a : Nat) (sp : Space) (x : Nat) : Prop := sp = .t tm ∧ a ≤ x ∧ x < a + 16

/-- A barrier instruction reaches its registered barrier: the address is allocated, a multiple of 16, and registered. -/
structure AtBarrier (s : State) (i : Iss) (a : Nat) (b : Barrier) : Prop where
  inside : allocated s i.g .t true a 16
  aligned : a % 16 = 0
  registered : ∃ t, tfind s.teams i.g.team = some t ∧ t.barriers.find? (fun y => y.addr == a) = some b

/-- The requests that a release of the issuing group passes on, its own and those that count as performed for it, now count as
performed for every agent of a scope below the device's (R184 to R186); MWAITs (R187) and others are as they were. -/
def releasedTo (s : State) (i : Iss) (k : Reach) (rs : List Req) : Prop :=
  rs = s.reqs.map fun r =>
    if (r.gid == i.gid || r.covers i.g.team i.g.core) && !r.isMwait then { r with reach := r.reach.or k } else r

/-- Every MWAIT before the issuing instruction in its path, or in its group's paths of some lanes, has found its word to differ. -/
def waitsOver (s : State) (i : Iss) (m : W32 := i.slot.path.mask) : Prop :=
  ∀ r, r ∈ s.reqs → r.gid = i.gid → r.isMwait = true → r.path &&& m ≠ 0 → r.seq < s.nextSeq → r.isCaptured = true

/-- A broadcast operand read as n32: code 504 gives the lowest lane of the path (R149, R176). -/
def Iss.operand (i : Iss) (c : VCode) : Nat :=
  if c = 504 then ((List.range 32).find? (laneIn i.slot.path.mask)).getD 0
  else if c.toNat < 504 then (kGet i.g (c.toNat - 384)).toNat % 2 ^ 32 else 0

/-- A group's arrival is late: a fault has completed a phase early, arrivals of it are still to come, and the group has not arrived in
it (R173, R227; log entry 93). -/
def comesLate (b : Barrier) (gid : Nat) : Prop :=
  0 < b.late ∧ ∀ x, x ∈ b.arrivals → x.gid = gid → x.epoch ≠ (b.epoch + 65535) % 65536

/-- The group arrives at a barrier: due falls by 1 (from 0 to a free value, log entry 11), and completion is tested. Its arrival `y` is one
of the current phase, done where that completes; a late one has the fault of its own phase. -/
def arrives (b : Barrier) (gid : Nat) (b' : Barrier) (y : Arrival) : Prop :=
  ∃ x : Barrier, x.addr = b.addr ∧ x.epoch = b.epoch ∧ x.fault = b.fault ∧ x.quota = b.quota ∧ (0 < b.due → x.due = b.due - 1) ∧
    x.owed = b.owed ∧ x.landed = b.landed ∧ afterTest x b' ∧ b'.arrivals.find? (fun z => z.gid == gid) = some y ∧
    (comesLate b gid → y = ⟨gid, (b.epoch + 65535) % 65536, some b.fault⟩) ∧
    (¬ comesLate b gid → y = ⟨gid, b.epoch, if x.due = 0 ∧ b.landed = b.owed then some 0 else none⟩)

/-- The codes of BARWAIT's end (R176). -/
def barrierCodes (fault : Nat) : Codes := ⟨fault == 0, false, fault == 2, fault != 0⟩

/-! ## Control (R17, R30, R45, R46, R127 to R131) -/

/-- The group after an instruction that changes only what is named here: the window and its links, or nothing, with the slot
moved. -/
def sameButSlots (i : Iss) (g g' : Group) : Prop := g' = { g with
  slot0 := g'.slot0
  slot1 := g'.slot1
  park := none } ∧ slotOf g' (1 - i.n) = slotOf i.g (1 - i.n)

/-- A branch target: the clause's own header plus 8 times the signed offset (R45). -/
def Iss.target (i : Iss) (off : W32) : Nat := (BitVec.ofNat 64 i.slot.path.hdr + 8 * off.signExtend 64).toNat

/-- The header that follows the clause (R30). -/
def Iss.nextClause (i : Iss) : Nat := i.slot.path.hdr + 8 * (i.cl.words.length + 1)

/-- The lanes of a mask, counted. -/
def laneCount (m : W32) : Nat := (List.range 32).countP (laneIn m)

/-- A side of a FORK: the issuing path at a header with part of its mask and the record's token. -/
def Iss.side (i : Iss) (hdr : Nat) (m : W32) (tok : W64) : Path :=
  { i.slot.path with
    hdr := hdr
    ix := 0
    mask := m
    token := tok }

/-- A slot holds a path from its next clause on. -/
def holdsPath (x : Option Slot) (p : Path) : Prop := ∃ sl, x = some sl ∧ sl.path = p ∧ sl.clause = none

/-- The requests of a group's paths with some of these lanes precede all that a path with any of them issues from then on (R181). -/
def widened (rs : List Req) (gid : Nat) (ls : W32) : List Req :=
  rs.map fun q => if q.gid == gid && (q.path &&& ls) != 0 then { q with path := q.path ||| ls } else q

/-- The ending of a path with a token (R131), on the join records and the divergence stack: the record loses a live side; where no
other side is live it is freed, and a parked sibling resumes with the parent's token, or the ending passes to the parent. What resumes
comes with the lanes of its fork. -/
inductive TokenEnds : List JoinRecord → List StackEntry → W64 → List JoinRecord → List StackEntry → Option (Path × W32) → Prop
  | top {js st tok} : (∀ x, x ∈ js → x.token ≠ tok) → TokenEnds js st tok js st none
  | other {js st tok r} : js.find? (fun x => x.token == tok) = some r → r.live = 2 →
      TokenEnds js st tok (js.map fun x => if x.token = tok then { x with live := 1 } else x) st none
  | resumes {js st tok r e} : js.find? (fun x => x.token == tok) = some r → r.live ≠ 2 → r.parked = true →
      st.find? (fun e => e.parked && e.path.token == tok) = some e →
      TokenEnds js st tok (js.filter fun x => x.token != tok) (st.erase e) (some ({ e.path with token := r.parent }, r.lanes))
  | outward {js st tok r js' st' p} : js.find? (fun x => x.token == tok) = some r → r.live ≠ 2 → r.parked = false →
      TokenEnds (js.filter fun x => x.token != tok) st r.parent js' st' p → TokenEnds js st tok js' st' p

/-- A slot filled by the most recently pushed stacked entry, whose next issue is 8 clocks away (R128, R130); parked ones stay. -/
def poppedInto (now : Nat) (st st' : List StackEntry) (x : Option Slot) : Prop :=
  ((∀ e, e ∈ st → e.parked = true) → x = none ∧ st' = st) ∧
  ∀ e, st.find? (fun e => !e.parked) = some e → holdsPath x e.path ∧ st' = st.erase e ∧ ∀ sl, x = some sl → sl.notBefore = now + 8

/-- The slots after the path of slot n has left it (R130). -/
def slotsRefilled (now n : Nat) (g : Group) (st : List StackEntry) (g' : Group) : Prop :=
  (n = 0 → ∀ d, g.slot1 = some d → g'.slot0 = some d ∧ poppedInto now st g'.stack g'.slot1) ∧
  (n = 0 → g.slot1 = none → poppedInto now st g'.stack g'.slot0 ∧ g'.slot1 = none) ∧
  (n = 1 → g'.slot0 = g.slot0 ∧ poppedInto now st g'.stack g'.slot1)

/-- A group that the death of another ends, by kill scope (R296). -/
def inKillScope (s : State) (gid : Nat) (g : Group) (sc : KillScope) (x : Nat) : Prop :=
  match sc with
  | .group => x = gid
  | .team => ∃ t, tfind s.teams g.team = some t ∧ x ∈ t.live
  | .grid => ∃ t gr tm y, tfind s.teams g.team = some t ∧ tfind s.grids t.grid = some gr ∧ tm ∈ gr.liveTeams ∧
      tfind s.teams tm = some y ∧ x ∈ y.live

/-- The T bytes of the barrier records of a group's team. -/
def teamBarrierBytes (s : State) (g : Group) (sp : Space) (a : Nat) : Prop :=
  ∃ t b, tfind s.teams g.team = some t ∧ b ∈ t.barriers ∧ sp = .t g.team ∧ b.addr ≤ a ∧ a < b.addr + 16

/-- The live groups of a team on a core, in order of their index, each with its clause in slot 0 and in no handler (R136). -/
structure Gathered (s : State) (tm core : Nat) (ps : List (Nat × Group)) : Prop where
  all : ∀ q, q ∈ ps ↔ q ∈ s.groups ∧ q.2.live = true ∧ q.2.team = tm ∧ q.2.core = core
  order : ps.Pairwise (fun p q => p.2.index < q.2.index) ∧ s.groups.Pairwise (fun q r => q.1 < r.1)
  slots : ∀ p, p ∈ ps → (∃ i, issuer { s with focus := (p.1, 0) } = some i) ∧ p.2.handler = none

/-- The eight registers of the trap bank at entry (R293): cause, header address, lanes, address, word, codes, and two zeros. -/
def bankAtEntry (n : Nat) (sl : Slot) (code sub : Nat) (ln : W32) (addr : Nat) (word : W64) : List W64 :=
  [BitVec.ofNat 64 (code + 2 ^ 8 * sub + 2 ^ 16 * sl.path.ix + 2 ^ 21 * n),
    BitVec.ofNat 64 sl.path.hdr, ln.setWidth 64, BitVec.ofNat 64 addr, word,
    (BitVec.ofBool sl.path.codes.z ++ BitVec.ofBool sl.path.codes.n ++ BitVec.ofBool sl.path.codes.c
      ++ BitVec.ofBool sl.path.codes.v).setWidth 64, 0, 0]

/-- Whether a trap of a group can be delivered: its tenant has a handler and the group is not in handler mode (R292). -/
def deliverable (s : State) (g : Group) (entry : Nat) : Prop :=
  g.handler = none ∧ ∃ t, tfind s.tenants g.tenant = some t ∧ t.config.handler = entry ∧ entry ≠ 0

/-- The group has entered its handler from slot n (R292, R293, R26): the bank is written, the slot stands at the entry with no
clause begun and none before 24 clocks have passed, the near operand buffer is empty, a clause that the other slot has begun is off its
pipe (R28), and nothing else of the group changes. -/
def entersHandler (s t : State) (gid n entry : Nat) (bank : List W64) : Prop :=
  ∃ g sl, tfind s.groups gid = some g ∧ slotOf g n = some sl ∧ tfind t.groups gid = some (setSlot (setSlot { g with
    handler := some ⟨n, bank⟩
    near := []
    park := none } (1 - n) ((slotOf g (1 - n)).map fun x => { x with offPipe := x.clause.isSome })) n (some { sl with
      path := { sl.path with
        hdr := entry
        ix := 0 }
      clause := none
      resumed := false
      notBefore := s.now + 24
      offPipe := false
      fetchWait := none }))

/-- One trap of a code is counted for a tenant, saturating (R351), and nothing else but groups differs. -/
def trapCounted (s t : State) (tn code : Nat) : Prop :=
  (∃ x, tfind s.tenants tn = some x ∧ t = { s with
    groups := t.groups
    tenants := tput s.tenants tn { x with traps := tset 0 x.traps code (satInc64 (tget 0 x.traps code)) } })

/-! ## Tensors and copies (R195 to R209) -/

/-- k[b] + 32 × offset of an ASYNC instruction (R51). -/
def Iss.block (i : Iss) (kb : KCode) (off : BitVec 12) : Nat := (kGet i.g kb.toNat + 32 * off.signExtend 64).toNat

/-- The stores to a range of a space that an engine of the issuing group must find performed are (R190, R192, R201): those of the group,
and those that count as performed for it. -/
def quietOn (s : State) (i : Iss) (sp : Space) (a n : Nat) : Prop :=
  ∀ r, r ∈ s.reqs → r.gid = i.gid ∨ r.covers i.g.team i.g.core = true → (∃ w, r.kind = .store w) ∨ (∃ op w x, r.kind = .atomic op w x) →
    r.space = sp → ∀ l, l ∈ r.lanes → l.addr + r.kind.bytes ≤ a ∨ a + n ≤ l.addr

/-- The descriptor that 64 bytes of T hold, but for its reserved bytes (R196). -/
def descriptorAt (s : State) (tm a : Nat) : Tensor :=
  let f := fun o n => readSpace s (.t tm) (a + o) n
  ⟨f 0 1, f 1 1, f 2 1, f 3 1, f 4 4, f 8 8, [f 16 2, f 18 2, f 20 2, f 22 2], [f 24 4, f 28 4, f 32 4], f 40 8,
    [f 48 2, f 50 2, f 52 2]⟩

/-- A descriptor that TIDSET takes (R198, R211, R228). -/
structure Tensor.Admitted (t : Tensor) : Prop where
  space : 1 ≤ t.space ∧ t.space ≤ 5
  format : (formatTy t.format).isSome = true ∨ t.format = 16
  rank : 1 ≤ t.rank ∧ t.rank ≤ 4
  scale : t.flags = if t.format = 11 then 1 else 0
  device : if t.space = 5 then t.device < 1024 else t.device = 0
  extents : ∀ d, d < 4 → if d < t.rank then t.ext.getD d 0 ≠ 0 else t.ext.getD d 0 = 1
  reach : t.space = 3 ∨ t.space = 5 → t.base < 2 ^ 52
  aligned : t.format ≠ 16 → (t.space ≠ 4 → t.z ∣ t.base) ∧ ∀ x, x ∈ t.strides → t.z ∣ x
  tile : t.format ≠ 16 → t.space = 4 → t.base < 64 ∧ t.ext.getD 0 0 * t.z ≤ 128 ∧ t.ext.getD 1 0 ≤ 64 ∧
    t.ext.getD 2 0 = 1 ∧ t.ext.getD 3 0 = 1
  mesh : t.format = 16 → (t.space = 2 ∨ t.space = 3) ∧ t.rank = 1 ∧ t.ext = [1, 1, 1, 1] ∧ t.strides = [0, 0, 0] ∧
    t.scaleBase = 0 ∧ t.scaleStrides = [0, 0, 0] ∧ 64 ∣ t.base

/-- The fields of a copy's 32-byte block (R199). -/
structure CopyBlock where
  src : Nat
  dst : Nat
  options : Nat
  mask : Nat
  bar : Nat
  srcC : List Nat
  dstC : List Nat
  box : List Nat

def copyBlockAt (s : State) (tm a : Nat) : CopyBlock :=
  let f := fun o n => readSpace s (.t tm) (a + o) n
  let four := fun o => [f o 2, f (o + 2) 2, f (o + 4) 2, f (o + 6) 2]
  ⟨f 0 1, f 1 1, f 2 1, f 3 1, f 4 4, four 8, four 16, four 24⟩

def CopyBlock.op (b : CopyBlock) : Nat := b.options % 8
def CopyBlock.fill (b : CopyBlock) : Nat := b.options / 32 % 4

/-- COPY, COPYG with its index register and predicate, or COPYS. -/
inductive CopyForm where
  | copy
  | gather (v : VCode) (p : MCode)
  | scatter (v : VCode) (p : MCode)

def CopyForm.instr (f : CopyForm) (ka kb : KCode) (fs : FSel) (off : BitVec 12) : Instr :=
  match f with
  | .copy => .copy ka kb fs off
  | .gather v p => .copyg ka kb v p fs off
  | .scatter v p => .copys ka kb v p fs off

def CopyForm.uses (f : CopyForm) (ka kb : KCode) (fs : FSel) : Uses :=
  let u : Uses := { fs := fs, ks := [ka.toNat, kb.toNat], tracked := 1 }
  match f with
  | .copy => u
  | .gather v p | .scatter v p => { u with vs := [vreg v], ms := [p.toNat] }

/-- The lanes of a trap that a copy raises: the path's active ones. -/
def CopyForm.lanes (f : CopyForm) (i : Iss) : W32 :=
  match f with
  | .copy => i.active 0
  | .gather _ p | .scatter _ p => i.active p

/-- The rows of a gather or scatter: source row, destination row, lane (R206). -/
def CopyForm.rows (f : CopyForm) (i : Iss) (b : CopyBlock) : List (Nat × Nat × Nat) :=
  let ls := fun (p : MCode) => ((List.range 32).filter (laneIn (i.active p))).zipIdx
  match f with
  | .copy => []
  | .gather v p => (ls p).map fun x => (srcLane i.g v.toNat x.1 1, b.dstC.getD 1 0 + x.2, x.1)
  | .scatter v p => (ls p).map fun x => (b.srcC.getD 1 0 + x.2, srcLane i.g v.toNat x.1 1, x.1)

/-- The source and destination coordinates of each piece: the whole box, or one row per active lane. -/
def CopyForm.pieces (f : CopyForm) (i : Iss) (b : CopyBlock) : List (List Nat × List Nat) :=
  match f with
  | .copy => [(b.srcC, b.dstC)]
  | _ => (f.rows i b).map fun r => (b.srcC.set 1 r.1, b.dstC.set 1 r.2.1)

/-- The team cores that a copy keeps (R205): the group's own without multicast. -/
def keptCores (s : State) (i : Iss) (t : Team) (dst : Tensor) (mask : Nat) : List Nat :=
  if mask = 0 then [t.coreNumber i.g.core] else keptMembers s t i.g.team dst mask

/-- The formats that conversions are defined among: f32, f16, bf16, e4m3, lns6. -/
def convertibleFormat (x : Nat) : Prop := 8 ≤ x ∧ x ≤ 12

/-- A span of T or D passes check 12 of R200. -/
def spanPasses (t : Team) (kept : Option (List Nat)) (space : Nat) (write : Bool) (x : Span) : Prop :=
  let clear := fun (y : Span) => y.2 ≤ t.tPerCore * t.cores.length ∧
    (write = true → ∀ b, b ∈ t.barriers → y.2 ≤ b.addr ∨ b.addr + 16 ≤ y.1)
  match kept with
  | some ns => space = 1 → write = true → t.tPerCore ≠ 0 ∧ x.2 ≤ t.tPerCore * t.cores.length ∧ x.1 / t.tPerCore = (x.2 - 1) / t.tPerCore ∧
      ∀ n, n ∈ ns → clear (n * t.tPerCore + x.1 % t.tPerCore, n * t.tPerCore + x.1 % t.tPerCore + (x.2 - x.1))
  | none => (space = 1 → clear x) ∧
      (space = 2 → ∀ b, x.1 ≤ b → b < x.2 → ∃ w, w ∈ t.windows ∧ w.base ≤ b ∧ b < w.base + w.size ∧ (write = true → w.write = true))

/-- The conditions of R200, R202, R205 and R206 under which a copy is accepted; a space-5 tensor of this device counts as one of
M (R324). -/
structure CopyAdmitted (s : State) (i : Iss) (t : Team) (f : CopyForm) (b : CopyBlock) (src dst : Tensor) : Prop where
  source : ∃ d, tfind t.tensors b.src = some d ∧ src = d.loopback s
  destination : ∃ d, tfind t.tensors b.dst = some d ∧ dst = d.loopback s
  reserved : b.src < 64 ∧ b.dst < 64 ∧ b.options / 16 % 2 = 0 ∧ b.options < 128 ∧ b.mask < 16
  operation : b.op ≤ 2
  filled : b.fill = 3 → convertibleFormat src.format
  bound : (b.options / 8 % 2 = 1 ↔ b.bar ≠ 0) ∧ b.bar % 16 = 0 ∧
    (b.bar ≠ 0 → (t.barriers.find? fun x => x.addr == b.bar).isSome = true)
  places : src.format ≠ 16 ∧ dst.format ≠ 16 ∧ src.space ≠ 4 ∧ ¬ (src.space = 5 ∧ dst.space = 5)
  box : ∀ d, d < 4 → if d < max src.rank dst.rank then b.box.getD d 0 ≠ 0 else b.box.getD d 0 = 1
  formats : (b.op = 0 ∧ (src.format = dst.format ∨ (convertibleFormat src.format ∧ convertibleFormat dst.format))) ∨
    (b.op = 1 ∧ src.format = 8 ∧ dst.format = 8) ∨ (b.op = 2 ∧ src.format = 10 ∧ dst.format = 10)
  rows : f = .copy ∨ (b.box.getD 1 0 = 1 ∧ b.mask = 0)
  inside : ∀ p, p ∈ f.pieces i b → (∀ d, d < 4 → p.2.getD d 0 + b.box.getD d 1 ≤ dst.ext.getD d 0) ∧
    (b.fill = 0 → ∀ d, d < 4 → p.1.getD d 0 + b.box.getD d 1 ≤ src.ext.getD d 0) ∧
    (dst.format = 11 → p.2.getD 0 0 % 32 = 0 ∧ ((p.2.getD 0 0 + b.box.getD 0 1) % 32 = 0 ∨ p.2.getD 0 0 + b.box.getD 0 1 = dst.ext.getD 0 0)) ∧
    (src.format = 11 → dst.format = 11 → p.1.getD 0 0 % 32 = 0)
  size : boxSize b.box * (f.pieces i b).length * dst.z * max 1 ((List.range 4).countP fun n => b.mask.testBit n) ≤ 2 ^ 30 - 64
  multicast : b.mask ≠ 0 → (dst.space = 1 ∨ dst.space = 4) ∧ b.op = 0
  slot : dst.space = 4 → ∃ o, slotGet s (arrayIx i.g.core (dst.base % 4)) (dst.base / 4) = some o ∧ o.claim = some i.gid
  spans : ∀ x, x ∈ copySpans src dst b.fill b.box (f.pieces i b) →
    spanPasses t (if b.mask ≠ 0 ∧ x.2.1 = true then some (keptCores s i t dst b.mask) else none) x.1 x.2.1 x.2.2

/-- The team as an issuing group finds it: its own core among the team's, at most four windows (R162), cores named once. -/
structure TeamFits (i : Iss) (t : Team) : Prop where
  own : i.g.core ∈ t.cores
  windows : t.windows.length ≤ 4
  cores : t.cores.Nodup

/-- What a source box touches: nothing, where all its elements are filled with a constant (R199, R200). -/
def Tensor.reads (t : Tensor) (b : CopyBlock) (o : List Nat) : Option Span :=
  if b.fill = 2 ∨ (List.range 4).all (fun d => decide (o.getD d 0 < t.ext.getD d 0)) = true then some (t.span o b.box) else none

/-- The span shared by a copy's source and destination boxes, where they lie in one space (R203). -/
def boxesShare (src dst : Tensor) (b : CopyBlock) (ps : List (List Nat × List Nat)) : Nat :=
  match joinSpans (ps.filterMap fun p => src.reads b p.1), joinSpans (ps.map fun p => dst.span p.2 b.box) with
  | some x, some y => if src.space = dst.space ∧ src.space ≤ 3 then min x.2 y.2 - max x.1 y.1 else 0
  | _, _ => 0

/-- The conditions of R208 under which a ROUTE is accepted. -/
structure RouteAdmitted (s : State) (i : Iss) (t : Team) (a : Nat) (k n e bar : Nat) (ch pm ct : Tensor) : Prop where
  fields : k = readSpace s (.t i.g.team) (a + 3) 1 ∧ bar = readSpace s (.t i.g.team) (a + 4) 4 ∧
    n = readSpace s (.t i.g.team) (a + 8) 4 ∧ e = readSpace s (.t i.g.team) (a + 12) 2
  named : ∀ j x, (j, x) ∈ [(0, ch), (1, pm), (2, ct)] → readSpace s (.t i.g.team) (a + j) 1 < 64 ∧
    ∃ d, tfind t.tensors (readSpace s (.t i.g.team) (a + j) 1) = some d ∧ x = d.loopback s
  ranges : 1 ≤ k ∧ k ≤ 8 ∧ 1 ≤ n ∧ n ≤ 65536 ∧ 1 ≤ e ∧ e ≤ 1024 ∧ n * k ≤ 65536
  reserved : readSpace s (.t i.g.team) (a + 14) 18 = 0
  bound : bar % 16 = 0 ∧ (bar ≠ 0 → (t.barriers.find? fun x => x.addr == bar).isSome = true)
  shapes : ch.format = 5 ∧ ch.rank = 2 ∧ pm.format = 6 ∧ pm.rank = 1 ∧ ct.format = 6 ∧ ct.rank = 1
  spaces : ch.space ≠ 4 ∧ pm.space ≠ 4 ∧ ct.space ≠ 4
  extents : k ≤ ch.ext.getD 0 0 ∧ n ≤ ch.ext.getD 1 0 ∧ n * k ≤ pm.ext.getD 0 0 ∧ 2 * e ≤ ct.ext.getD 0 0
  spans : spanPasses t none ch.space false (ch.span [0, 0, 0, 0] [k, n, 1, 1]) ∧
    spanPasses t none pm.space true (pm.span [0, 0, 0, 0] [n * k, 1, 1, 1]) ∧
    spanPasses t none ct.space true (ct.span [0, 0, 0, 0] [2 * e, 1, 1, 1])

/-- Where a tensor of T or D keeps its bytes. -/
def Tensor.plainSpace (t : Tensor) (tm : Nat) : Space := if t.space = 1 then .t tm else .d

/-- What delivery puts at a destination element: the element itself, or its sum with what stands there (R202). -/
def delivers (op old x : Nat) : Nat :=
  match op with
  | 1 => (fAdd fmtF32 .rne (unpack fmtF32 old) (unpack fmtF32 x)).1
  | 2 => (fAdd fmtBf16 .rne (unpack fmtBf16 old) (unpack fmtBf16 x)).1
  | _ => x

/-- Every bank can serve another port now: it has served nothing in this clock, and no request waits there (R172). -/
def banksFree (s : State) : Prop :=
  ∀ b last at_, tfind s.banks b = some (last, at_) → at_ < s.now ∧ ∀ q, q ∈ s.reqs → q.arrived = none ∨ q.bank ≠ some b

/-- n bytes at a source address: out of a unit that the copy has read and kept, or as they stand (R190). -/
def Copy.sees (s : State) (c : Copy) (a n : Nat) : Nat :=
  match c.units.find? (fun u => u.1 == a / 8) with
  | some u => u.2 / 2 ^ (8 * (a % 8)) % 2 ^ (8 * n)
  | none => readSpace s (c.src.plainSpace c.team) a n

/-- The place of element n in its row, and the first element of its 32-element block there. -/
def Copy.inRow (c : Copy) (n : Nat) : Nat := n % c.box.getD 0 1
def Copy.blockStart (c : Copy) (n : Nat) : Nat := n - c.inRow n % 32

/-- The source value of element n and the scale of its block, 127 where it has none: as read already, or by the fill policy where it lies
outside the source (R64, R199, R202, R203). -/
def Copy.takes (s : State) (c : Copy) (n : Nat) : Nat × Nat :=
  if n < c.data.length then c.data.getD n (0, 127)
  else
    let x := (c.coords n).1
    let y := (List.range 4).map fun d => min (x.getD d 0) (c.src.ext.getD d 0 - 1)
    let filled := c.fill != 2 && (List.range 4).any fun d => decide (c.src.ext.getD d 0 ≤ x.getD d 0)
    (if filled then (if c.fill = 3 then nanBits ((formatTy c.src.format).getD .n8) else 0) else c.sees s (c.src.addr y) c.src.z,
      if c.src.format = 11 ∧ (if c.dst.format = 11 then c.blockStart n == n else !filled) then c.sees s (c.src.scaleAddr y) 1 else 127)

/-- The value of element n of a conversion, exact. -/
def Copy.exact (s : State) (c : Copy) (n : Nat) : FVal :=
  floatValue ((formatTy c.src.format).getD .n8) (c.takes s n).1 (c.takes s n).2

/-- The scale byte of element n's destination block: the source's, or the one that R64 chooses for the block's values taken as f32 (R202). -/
def Copy.blockScaleOf (s : State) (c : Copy) (n : Nat) : Nat :=
  if c.src.format = 11 then (c.takes s (c.blockStart n)).2
  else blockScale ((List.range (min 32 (c.box.getD 0 1 - c.inRow n / 32 * 32))).map fun j =>
    unpack fmtF32 (deliverFloat .f32 .rne (c.exact s (c.blockStart n + j)) 127).1)

/-- What element n brings: the source bits, or FCVT's to the destination's format (R202). -/
def Copy.brings (s : State) (c : Copy) (n : Nat) : Nat :=
  if c.op ≠ 0 ∨ c.src.format = c.dst.format then (c.takes s n).1
  else (deliverFloat ((formatTy c.dst.format).getD .n8) .rne (c.exact s n) (c.blockScaleOf s n)).1

/-- Whether element n opens a block of an e4m3 destination. -/
def Copy.opens (c : Copy) (n : Nat) : Prop := c.dst.format = 11 ∧ (c.coords n).2.getD 0 0 % 32 = 0

/-- A destination address as a member sees it: the same offset in its own part of T (R205). -/
def Copy.seenBy (c : Copy) (tPerCore : Nat) (m : Member) (a : Nat) : Nat :=
  if c.multi = true ∧ c.dst.space = 1 then m.n * tPerCore + a % tPerCore else a

/-- Element n delivered to a member in T or D: stored, or added to what stands there; with a block's first goes its scale byte. -/
def Copy.leaves (s : State) (c : Copy) (m : Member) (u : State) (n : Nat) : State :=
  let y := (c.coords n).2
  let sp := c.dst.plainSpace c.team
  let at_ := c.seenBy (tPerCoreOf s c.team) m
  let a := at_ (c.dst.addr y)
  let v := writeSpace u sp a c.dst.z (delivers c.op (readSpace u sp a c.dst.z) (c.brings s n))
  if c.dst.format = 11 ∧ y.getD 0 0 % 32 = 0 then writeSpace v sp (at_ (c.dst.scaleAddr y)) 1 (c.blockScaleOf s n) else v

/-- Element n delivered into a slot: 128 bytes a row, 4 scale bytes a row (R211, R213). -/
def Copy.fillsSlot (s : State) (c : Copy) (o : OpSlot) (n : Nat) : OpSlot :=
  let y := (c.coords n).2
  { o with
    elems := writeNat o.elems (c.dst.z * y.getD 0 0 + 128 * y.getD 1 0) c.dst.z (c.brings s n)
    scales := if c.dst.format = 11 ∧ y.getD 0 0 % 32 = 0 then writeNat o.scales (4 * y.getD 1 0 + y.getD 0 0 / 32) 1 (c.blockScaleOf s n)
      else o.scales }

/-- What precedes a copy has been performed: in its path, and for its agent (R190). -/
def Copy.inOrder (s : State) (c : Copy) : Prop :=
  ∀ r, r ∈ s.reqs → r.id ∈ c.after ∨ (r.covers c.team c.core = true ∧ r.seq < c.seq) → r.isCaptured = true

/-- A copy out of T or D whose next elements go to member m, the least advanced. -/
structure MovesNext (s : State) (c : Copy) (m : Member) : Prop where
  kind : c.kind = .copy ∨ c.kind = .gather ∨ c.kind = .scatter
  running : c.state = none ∧ c.asking = [] ∧ c.parkedOn = none ∧ c.fatal = none ∧ c.sent = 0 ∧ c.out = none ∧ c.held = none
  turn : ∃ before after_, c.members = before ++ m :: after_ ∧ (∀ x, x ∈ before → m.pos < x.pos ∧ x.n ≠ m.n) ∧
    ∀ x, x ∈ after_ → m.pos ≤ x.pos ∧ x.n ≠ m.n
  left : m.pos < c.total ∧ m.pos ≤ c.data.length ∧ c.data.length ≤ c.total
  rows : 1 ≤ c.box.getD 0 1 ∧ c.box.getD 0 1 ∣ c.total
  source : c.src.space = 1 ∨ c.src.space = 2
  formats : (c.op = 0 ∧ (c.src.format = c.dst.format ∨ (convertibleFormat c.src.format ∧ convertibleFormat c.dst.format))) ∨
    (c.op = 1 ∧ c.src.format = 8 ∧ c.dst.format = 8) ∨ (c.op = 2 ∧ c.src.format = 10 ∧ c.dst.format = 10)
  aligned : c.src.z ∣ c.src.base ∧ ∀ x, x ∈ c.src.strides → c.src.z ∣ x
  ordered : c.inOrder s
  awake : ∀ t, tfind s.tenants c.tenant = some t → t.state ≠ .frozen
  plain : noAlmanac s c.tenant
  banks : banksFree s

/-- Where a step of delivery to a member ends: with the row, or with the box where rows share units (log entry 33). -/
def Copy.stop (c : Copy) (m : Member) : Nat :=
  if c.together = true then c.total else (m.pos / c.box.getD 0 1 + 1) * c.box.getD 0 1

/-- k elements of a copy have been delivered to member m, and nothing else of it but what it has read differs. -/
def Copy.movedOn (c c' : Copy) (m : Member) (k : Nat) : Prop :=
  c' = { c with
    data := c'.data
    units := c'.units
    members := c.members.map fun x => if x.n = m.n then { x with pos := x.pos + k } else x
    delivered := c.delivered + c.dst.z * k
    sent := 0
    held := none }

/-- k times z bytes, credited z at a time to a copy's barrier, end no phase before the last of them, which ends it where it is due. -/
def Copy.credits (s t : State) (c : Copy) (z k : Nat) : Prop :=
  ∀ x tm br, c.barrier = some x → tfind s.teams c.team = some tm → tm.barriers.find? (fun y => y.addr == x) = some br →
    br.landed + z * k < 2 ^ 32 → (∀ j, 0 < j → j < k → ¬ (br.due = 0 ∧ br.landed + z * j = br.owed)) →
    ∃ br', afterTest { br with landed := br.landed + z * k } br' ∧ holdsBarrier t c.team br'

/-- A byte of the record of a copy's barrier. -/
def Copy.barrierByte (c : Copy) (q : Space) (a : Nat) : Prop := ∃ x, c.barrier = some x ∧ barrierBytes c.team x q a

/-- Whether batch b is batch n or an earlier one, modulo 2^16 (R207). -/
def upToBatch (n b : BitVec 16) : Prop := (n - b).toNat < 2 ^ 15

/-! ## The matrix engine (R210 to R225) -/

/-- The slots of SCLAIM and SREL (R216). -/
def slotsFrom (sl n : BitVec 4) : List Nat := (List.range (n.toNat + 1)).map fun j => (sl.toNat + j) % 16

/-- A job visits a slot in its first 16 steps (R219). -/
def visits (a b inc count k : Nat) : Prop := ∃ n, n < min count 16 ∧ (k = (a + n * inc) % 16 ∨ k = (b + n * inc) % 16)

/-- A copy into a slot, or a job that visits it, is incomplete (R216). -/
def slotInUse (s : State) (arr k : Nat) : Prop :=
  (∃ c m, c ∈ s.copies ∧ c.dst.space = 4 ∧ c.dst.base / 4 = k ∧ m ∈ c.members ∧ arr = 4 * m.core + c.dst.base % 4) ∨
    ∃ j, j ∈ (arrayGet s arr).jobs ∧ visits j.a j.b j.inc j.count k

/-- A job of a tile is queued or running; an MSTORE has not read it yet. -/
def tileRuns (s : State) (arr n : Nat) : Prop := ∃ j, j ∈ (arrayGet s arr).jobs ∧ j.tile = n
def tileStores (s : State) (arr n : Nat) : Prop :=
  ∃ c core x, c ∈ s.copies ∧ c.tileRead = false ∧ c.tile = some (core, x, n) ∧ arr = 4 * core + x

/-- Only one tile of one array differs. -/
def tileBecomes (s t : State) (arr n : Nat) (x : Tile) : Prop :=
  ∀ a, (arrayGet t a).slots = (arrayGet s a).slots ∧ (arrayGet t a).jobs = (arrayGet s a).jobs ∧
    ∀ m, (arrayGet t a).tile m = if a = arr ∧ m = n then x else (arrayGet s a).tile m

/-- The instruction has changed arrays only, and the slot has gone on. -/
def Iss.arraysOnly (i : Iss) (s t : State) : Prop := i.movedOn s t ∧ t = { s with
  groups := t.groups
  arrays := t.arrays }

/-- The group is parked at its instruction to test again, and nothing else has changed. -/
def Iss.waits (i : Iss) (s : State) (ins : Instr) : Prop :=
  ∃ t, exec ins s = .next t ∧ i.parkedAt t (fun w => w = .retry) ∧ t = { s with groups := t.groups } ∧ othersKept s t i.gid

/-- A legal shape and count (R218). -/
structure ShapeLegal (sh ct : Nat) : Prop where
  reserved : sh < 2 ^ 28 ∧ sh.testBit 15 = false ∧ sh.testBit 7 = false ∧ ct < 2 ^ 32
  format : sh / 2 ^ 24 = 9 ∨ sh / 2 ^ 24 = 10 ∨ sh / 2 ^ 24 = 11 ∨ sh / 2 ^ 24 = 12
  inner : 1 ≤ sh / 2 ^ 16 % 256 ∧ sh / 2 ^ 16 % 256 ≤ if sh / 2 ^ 24 ≤ 10 then 64 else 128
  columns : 1 ≤ sh / 2 ^ 8 % 128 ∧ sh / 2 ^ 8 % 128 ≤ 64
  rows : 1 ≤ sh % 128 ∧ sh % 128 ≤ 64

/-- A job's next step may run: both its slots are full, it is the first on its tile, and a first step waits 16 clocks. -/
def stepReady (now : Nat) (a : MatArray) (before : List Job) (j : Job) : Prop :=
  (∀ k, k ∈ before → k.tile ≠ j.tile) ∧ a.full ((j.a + j.step * j.inc) % 16) = true ∧ a.full ((j.b + j.step * j.inc) % 16) = true ∧
    (0 < j.step ∨ j.issued + 16 ≤ now)

/-- Every slot and tile of an array is held by a live group. -/
def allHeld (s : State) (a : MatArray) : Prop :=
  (∀ p, p ∈ a.slots → ∃ g, p.2.claim = some g ∧ groupLive s g = true) ∧
    ∀ p, p ∈ a.tiles → ∃ g, p.2.owner = some g ∧ groupLive s g = true

/-- The conditions of R224 under which an MSTORE is accepted. -/
structure StoreAdmitted (s : State) (i : Iss) (t : Team) (bx id : Nat) (dst : Tensor) (T : Tile) : Prop where
  named : id < 64 ∧ ∃ d, tfind t.tensors id = some d ∧ dst = d.loopback s
  reserved : bx / 2 ^ 46 % 4 = 0 ∧ bx / 2 ^ 38 % 4 = 0
  place : dst.space ≠ 4 ∧ dst.format ≠ 16 ∧ convertibleFormat dst.format
  inside : bx % 2 ^ 16 + (bx / 2 ^ 32 % 64 + 1) ≤ dst.ext.getD 0 0 ∧ bx / 2 ^ 16 % 2 ^ 16 + (bx / 2 ^ 40 % 64 + 1) ≤ dst.ext.getD 1 0 ∧
    bx / 2 ^ 48 % 2 ^ 16 + 1 ≤ dst.ext.getD 2 0 ∧ 1 ≤ dst.ext.getD 3 0
  blocks : dst.format = 11 → bx % 32 = 0 ∧
    ((bx % 2 ^ 16 + (bx / 2 ^ 32 % 64 + 1)) % 32 = 0 ∨ bx % 2 ^ 16 + (bx / 2 ^ 32 % 64 + 1) = dst.ext.getD 0 0)
  spans : let o := [bx % 2 ^ 16, bx / 2 ^ 16 % 2 ^ 16, bx / 2 ^ 48 % 2 ^ 16, 0]
    let box := [bx / 2 ^ 32 % 64 + 1, bx / 2 ^ 40 % 64 + 1, 1, 1]
    spanPasses t none dst.space true (dst.span o box) ∧ ∀ x, dst.scaleSpan o box = some x → spanPasses t none dst.space true x
  token : T.owner = some i.gid ∧ T.groupSide = true

/-- A magnitude of ACC26 below its least normal is a zero of its sign (R71). -/
def flushAcc (b : Nat) : Nat := if b / 2 ^ 17 % 256 = 0 then b / 2 ^ 25 * 2 ^ 25 else b

/-- An ACQ of the same tile by a group of a lower partition of the core is to issue in this clock too (R217). -/
def acqContested (s : State) (i : Iss) (x : BitVec 2) (acc : BitVec 3) : Prop :=
  ∃ before gid n after_ j, s.agenda = before ++ ⟨0, .issue gid n⟩ :: after_ ∧ (∀ u, u ∈ before → u.dt = 0) ∧ issOf s gid n = some j ∧
    j.g.core = i.g.core ∧ j.g.position % 8 < i.g.position % 8 ∧ heldBack j.g n = false ∧ j.g.park = none ∧ j.instr = some (.acq x acc)

/-- The element k of row r of a slot, in bits, and its block's scale byte (R211). -/
def slotElement (o : OpSlot) (f r k : Nat) : Nat × Nat :=
  if f ≤ 10 then (readNat o.elems (128 * r + 2 * k) 2, 127)
  else (readNat o.elems (128 * r + k) 1, if f = 11 then readNat o.scales (4 * r + k / 32) 1 else 127)

/-- The product of two floats, exact (R70, R72). -/
def productOf (x y p : FVal) : Prop :=
  let void := x.isNan = true ∨ y.isNan = true ∨ (x.isZero = true ∧ y.isInf = true) ∨ (x.isInf = true ∧ y.isZero = true)
  (void → p.isNan = true) ∧ (¬ void → x.isInf = true ∨ y.isInf = true → p = .inf (x.sign != y.sign)) ∧
    ∀ u v, x.value = some u → y.value = some v → p.value = some (u * v)

/-- What the array multiplies (R70): a bf16 subnormal is a zero of its sign; an e4m3 element is multiplied by its scale. -/
def arrayTakes (f : Nat) (x : Nat × Nat) (v : FVal) : Prop :=
  (f = 9 → v = unpack fmtF16 x.1) ∧
  (f = 10 → if x.1 / 128 % 256 = 0 then v.value = some 0 ∧ v.sign = x.1.testBit 15 else v = unpack fmtBf16 x.1) ∧
  (f = 11 → if x.2 = 255 ∨ (unpackE4m3 x.1).isNan = true then v.isNan = true
    else v.value = (unpackE4m3 x.1).value.map fun q => q * (2 : Rat) ^ ((x.2 : Int) - 127))

/-- R69's product of two lns6 operands in the array. -/
def lnsProductOf (x y : Nat) (p : FVal) : Prop :=
  let c := x % 32 + y % 32
  let sign : Rat := if (x / 32 % 2 = 1) = (y / 32 % 2 = 1) then 1 else -1
  if x % 64 = 32 ∨ y % 64 = 32 then p.isNan = true
  else if x % 32 = 0 ∨ y % 32 = 0 then p.value = some 0
  else p.value = some (sign * (([256, 304, 362, 431].getD (c % 4) 0 : Nat) / 256) * (2 : Rat) ^ (((c : Int) - 32) / 4))

/-- The product at inner position k of a step's element (m, n). -/
def productAt (j : Job) (a b : OpSlot) (m n k : Nat) (p : FVal) : Prop :=
  let x := slotElement a j.format m k
  let y := slotElement b j.format n k
  if j.format = 12 then lnsProductOf x.1 y.1 p
  else ∃ u v, arrayTakes j.format x u ∧ arrayTakes j.format y v ∧ productOf u v p

/-- The run of an element over a K step (R71): block after block, each the sum of the products of at most 32 inner positions. -/
def elementSum (j : Job) (a b : OpSlot) (m n before after_ : Nat) : Prop :=
  ∃ run : Nat → Nat, run 0 = before ∧ run ((j.k + 31) / 32) = after_ ∧ ∀ blk, blk < (j.k + 31) / 32 →
    ∃ ps : List FVal, ps.length = min 32 (j.k - 32 * blk) ∧ run (blk + 1) = accAdd (run blk) (blockSum ps) ∧
      ∀ e p, ps[e]? = some p → productAt j a b m n (32 * blk + e) p

/-- A promotion (R71, R72): acc + run as an IEEE binary32 addition to nearest. -/
def promoted (acc run x : Nat) : Prop :=
  let u := unpack fmtF32 acc
  let v := unpack fmtAcc run
  (u.isNan = true ∨ v.isNan = true ∨ (u.isInf = true ∧ v.isInf = true ∧ u.sign ≠ v.sign) → x = 0x7FC00000) ∧
  (∀ n, (u = .inf n ∧ v.isNan = false ∧ v ≠ .inf (!n)) ∨ (v = .inf n ∧ u.isNan = false ∧ u ≠ .inf (!n)) →
    x = if n then 0xFF800000 else 0x7F800000) ∧
  ∀ p q, u.value = some p → v.value = some q →
    ∃ fl, roundsOnce fmtF32 .rne (p + q) (zeroSumSign .rne [(p, u.sign), (q, v.sign)]) (x, fl)

/-- A product with everything below a unit cut off, the sign kept (R71). -/
def cutOff (u : Rat) (q : Rat) : Rat := (if q < 0 then -1 else 1) * (Int.floor (|q| / u) : Rat) * u

/-! ## Results computed at issue (R241 to R262) -/

/-- The instruction owes destinations whose values are computed at its issue, changes nothing else, and goes on. -/
def Iss.owesNow (i : Iss) (s t : State) (flag : Option Nat) (dests : List RegName) (ws : List RegWrite) : Prop :=
  t = { s with
    owed := s.owed ++ [⟨s.nextId, i.gid, s.nextSeq, .other, flag, dests, ws, 0, s.now⟩]
    groups := t.groups
    nextId := s.nextId + 1 } ∧ i.owes s t dests flag 1

/-- With no active lane: the destinations are marked, and the flag keeps its count. -/
def Iss.owesNothing (i : Iss) (s t : State) (flag : Option Nat) (dests : List RegName) : Prop :=
  t = { s with groups := t.groups } ∧ i.owes s t dests flag 0

/-- The active lanes, ascending. -/
def Iss.lanes (i : Iss) (p : MCode) : List Nat := (List.range 32).filter (laneIn (i.active p))

/-- Register a + j of a record in one lane, and its f32 value. -/
def rayWord (g : Group) (a l j : Nat) : Nat := (vGet g (vName g (a + j)) l).toNat
def rayVal (g : Group) (a l j : Nat) : FVal := unpack fmtF32 (rayWord g a l j)

/-- An invalid ray (R253). -/
def rayBad (g : Group) (a l : Nat) : Prop :=
  let v := rayVal g a l
  (∃ j, j < 3 ∧ (v j).value = none) ∨ (∃ j, 3 ≤ j ∧ j < 8 ∧ floatCompares .uno (v j) (v j) = true) ∨
    ((v 3).value = some 0 ∧ (v 4).value = some 0 ∧ (v 5).value = some 0)

/-- RINIT's twelve words of a lane (R251, R253). -/
def rayPrepared (g : Group) (a l : Nat) (ws : List Nat) : Prop :=
  let v := rayVal g a l
  let mag := fun j => (v (3 + j)).modify false true
  ∃ info, ws = [rayWord g a l 0, rayWord g a l 1, rayWord g a l 2, rayWord g a l 3, rayWord g a l 4, rayWord g a l 5,
      (fRcp .rne (v 3)).1, (fRcp .rne (v 4)).1, (fRcp .rne (v 5)).1, rayWord g a l 6, rayWord g a l 7, info] ∧
    (rayBad g a l → info = 1) ∧
    (¬ rayBad g a l → ∃ k, k < 3 ∧ (∀ j, j < 3 → floatCompares .lt (mag k) (mag j) = false) ∧
      (∀ j, j < k → floatCompares .lt (mag j) (mag k) = true) ∧
      info = 2 * k + if floatCompares .lt (v (3 + k)) (.fin false 0 0) then 8 else 0)

/-- An info word that makes the tests of a lane miss (R251). -/
def infoMisses (x : Nat) : Prop := x % 2 = 1 ∨ x / 2 % 4 = 3 ∨ 16 ≤ x

/-- x is at most y, as numbers; a NaN is not comparable. -/
def atMost (x y : FVal) : Prop :=
  x.isNan = false ∧ y.isNan = false ∧
    (x = .inf true ∨ y = .inf false ∨ ∃ p q, x.value = some p ∧ y.value = some q ∧ p ≤ q)

/-- The greatest and the least number of a list, NaNs left out (R107). -/
def greatestOf (xs : List FVal) (m : FVal) : Prop := m ∈ xs ∧ ∀ x, x ∈ xs → x.isNan = false → atMost x m
def leastOf (xs : List FVal) (m : FVal) : Prop := m ∈ xs ∧ ∀ x, x ∈ xs → x.isNan = false → atMost m x

/-- p is an exact number rounded to f32; infinities and NaN stay. -/
def roundsTo (r : Rnd) (x p : FVal) : Prop :=
  (x.isNan = true → p.isNan = true) ∧ (x.isInf = true → p = x) ∧
    ∀ v, x.value = some v → ∃ z b fl, roundsOnce fmtF32 r v z (b, fl) ∧ p = unpack fmtF32 b

/-- A plane of a node's child: n + q × 2^(e − 127), rounded once (R256). -/
def planeAt (n : FVal) (q e : Nat) (r : Rnd) (p : FVal) : Prop :=
  ∃ x v, n.value = some v ∧ x.value = some (v + q * (2 : Rat) ^ ((e : Int) - 127)) ∧ roundsTo r x p

/-- (plane − o) × r, exact (R257). -/
def slabPoint (plane o r x : FVal) : Prop :=
  ∃ d : FVal, (plane.isInf = true → d = plane) ∧ (∀ u v, plane.value = some u → o.value = some v → d.value = some (u - v)) ∧ productOf d r x

/-- The interval of one axis (R257). -/
def slabInterval (lo hi o r near far : FVal) : Prop :=
  (r.isInf = true → near = .inf true ∧ far = .inf false) ∧
  (r.isInf = false → ∃ x y m n, slabPoint lo o r x ∧ slabPoint hi o r y ∧
    (if x.isNan = true then m = y ∧ n = y else if y.isNan = true then m = x ∧ n = x else leastOf [x, y] m ∧ greatestOf [x, y] n) ∧
    roundsTo .rdn m near ∧ roundsTo .rup n far)

/-- R257's slab test: the ray is inside every slab that it is parallel to, and the intervals of the three axes and [tmin, tmax] have a
point in common; the distance is where they begin. -/
def slabMet (lo hi o r : Nat → FVal) (tmin tmax dist : FVal) : Prop :=
  (∀ j, j < 3 → (r j).isInf = true → atMost (lo j) (o j) ∧ atMost (o j) (hi j)) ∧
  ∃ (near far : Nat → FVal) (exit_ : FVal), (∀ j, j < 3 → slabInterval (lo j) (hi j) (o j) (r j) (near j) (far j)) ∧
    greatestOf [tmin, near 0, near 1, near 2] dist ∧ leastOf [tmax, far 0, far 1, far 2] exit_ ∧ atMost dist exit_

/-- The ray of a record meets child c of a node at a distance (R254 to R257). -/
def childMet (s : State) (g : Group) (a l node c : Nat) (dist : FVal) : Prop :=
  let byte := fun n => readSpace s .d (node + n) 1
  let n := fun j => unpack fmtF32 (readSpace s .d (node + 4 * j) 4)
  1 ≤ byte (45 + 6 * c) / 64 ∧
  (∀ j, j < 3 → (n j).isFin = true ∧ byte (12 + j) ≠ 255 ∧ byte (16 + 6 * c + j) ≤ byte (19 + 6 * c + j)) ∧
  ∃ lo hi : Nat → FVal, (∀ j, j < 3 → planeAt (n j) (byte (16 + 6 * c + j)) (byte (12 + j)) .rdn (lo j) ∧
      planeAt (n j) (byte (19 + 6 * c + j)) (byte (12 + j)) .rup (hi j)) ∧
    slabMet lo hi (rayVal g a l) (fun j => rayVal g a l (6 + j)) (rayVal g a l 9) (rayVal g a l 10) dist

/-- A record whose numbers are those of a valid ray: a finite origin, and no NaN among its reciprocals and bounds. -/
def rayRegular (g : Group) (a l : Nat) : Prop :=
  (∀ j, j < 3 → (rayVal g a l j).isFin = true) ∧ ∀ j, 6 ≤ j → j ≤ 10 → (rayVal g a l j).isNan = false

/-- The children of a node that a lane's ray meets, nearest first, the lower number first among equals (R257, R258). -/
structure NodeHits (s : State) (g : Group) (a l node : Nat) (hits : List (FVal × Nat)) : Prop where
  met : ∀ h, h ∈ hits → h.2 < 4 ∧ (rayRegular g a l → childMet s g a l node h.2 h.1)
  all : ¬ infoMisses (rayWord g a l 11) → rayRegular g a l → ∀ c x, c < 4 → childMet s g a l node c x → ∃ h, h ∈ hits ∧ h.2 = c
  none_ : infoMisses (rayWord g a l 11) → hits = []
  sorted : hits.Pairwise fun h k => atMost h.1 k.1 ∧ (atMost k.1 h.1 → h.2 < k.2)

/-- b is the f32 nearest to an exact number, a tie going to the even one (R60). -/
def nearestF32 (x : Rat) (b : Nat) : Prop :=
  b < 2 ^ 32 ∧ (x = 0 → b = 0) ∧ (x ≠ 0 → (2 ^ 31 ≤ b ↔ x < 0)) ∧
  ((2 : Rat) ^ 128 - 2 ^ 103 ≤ |x| → (unpack fmtF32 b).isInf = true) ∧
  (|x| < (2 : Rat) ^ 128 - 2 ^ 103 → ∃ v, (unpack fmtF32 b).value = some v ∧ ∀ c y, (unpack fmtF32 c).value = some y →
    |v - x| ≤ |y - x| ∧ (|v - x| = |y - x| → y ≠ v → b % 2 = 0))

/-- v is the finite f32 nearest to an exact number. -/
def nearestTo (x v : Rat) : Prop := ∃ b, nearestF32 x b ∧ (unpack fmtF32 b).value = some v

/-- A shear (R259): a quotient rounded to the nearest finite f32. -/
def shearOf (x y : FVal) (v : Rat) : Prop :=
  (∃ p q, x.value = some p ∧ y.value = some q ∧ q ≠ 0 ∧ nearestTo (p / q) v) ∨ (x.isFin = true ∧ y.isInf = true ∧ v = 0)

/-- A vertex of an entry, sheared and translated (R259): the three coordinates of X after the loop. -/
def shearedVertex (o v : Nat → FVal) (kx ky kz : Nat) (sx sy sz : Rat) (X : Rat × Rat × Rat) : Prop :=
  ∃ w : Nat → Rat, (∀ j, j < 3 → ∃ p q, (v j).value = some p ∧ (o j).value = some q ∧ nearestTo (p - q) (w j)) ∧
    nearestTo (w kx - sx * w kz) X.1 ∧ nearestTo (w ky - sy * w kz) X.2.1 ∧ nearestTo (sz * w kz) X.2.2

/-- The three vertices of entry e of a buffer as R259 shears them for the ray of a record: every rounded quantity is finite. -/
def triSheared (g : Group) (b : TriBuf) (a l e : Nat) (P Q S : Rat × Rat × Rat) : Prop :=
  let info := rayWord g a l 11
  let kz := info / 2 % 4
  let k1 := (kz + 1) % 3
  let k2 := (kz + 2) % 3
  let kx := if info / 8 % 2 = 1 then k2 else k1
  let ky := if info / 8 % 2 = 1 then k1 else k2
  let dir := fun k => rayVal g a l (3 + k)
  let vert := fun n j => unpack fmtF32 (tget 0 b.words (16 * e + 3 * n + j)).toNat
  ∃ sx sy sz, shearOf (dir kx) (dir kz) sx ∧ shearOf (dir ky) (dir kz) sy ∧ shearOf (.fin false 1 0) (dir kz) sz ∧
    shearedVertex (rayVal g a l) (vert 0) kx ky kz sx sy sz P ∧ shearedVertex (rayVal g a l) (vert 1) kx ky kz sx sy sz Q ∧
    shearedVertex (rayVal g a l) (vert 2) kx ky kz sx sy sz S

/-- The edge from A to B, with third vertex C, is owned (R260). -/
def ownedEdge (A B C : Rat × Rat × Rat) : Prop :=
  let nx := B.2.1 - A.2.1
  let ny := A.1 - B.1
  let sg : Rat := if nx * (C.1 - A.1) + ny * (C.2.1 - A.2.1) < 0 then -1 else 1
  0 < sg * nx ∨ (nx = 0 ∧ 0 < sg * ny)

/-- The edge functions of R259: of QS, SP and PQ. -/
def edgeU (Q S : Rat × Rat × Rat) : Rat := S.1 * Q.2.1 - S.2.1 * Q.1
def edgeV (P S : Rat × Rat × Rat) : Rat := P.1 * S.2.1 - P.2.1 * S.1
def edgeW (P Q : Rat × Rat × Rat) : Rat := Q.1 * P.2.1 - Q.2.1 * P.1

/-- A lane's ray crosses the sheared triangle (R259): each edge function has the sign of det or is zero on an owned edge. -/
def triCrossed (P Q S : Rat × Rat × Rat) : Prop :=
  let det := edgeU Q S + edgeV P S + edgeW P Q
  let in_ := fun (f : Rat) (A B C : Rat × Rat × Rat) => 0 < f * det ∨ (f = 0 ∧ ownedEdge A B C)
  det ≠ 0 ∧ in_ (edgeU Q S) Q S P ∧ in_ (edgeV P S) S P Q ∧ in_ (edgeW P Q) P Q S

/-- RBOX's twelve words: four distances, then four words of the hit mask, the hit count, the child and its reference (R258). -/
def nodeWords (s : State) (node : Nat) (hits : List (FVal × Nat)) (ws : List Nat) : Prop :=
  ws.length = 12 ∧ ∀ n, n < 4 → ws.getD n 0 = (hits[n]?).elim 0x7F800000 (fun h => roundVal .rne h.1) ∧
    ws.getD (4 + 2 * n) 0 < 2 ^ 32 ∧
    ws.getD (4 + 2 * n) 0 + 2 ^ 32 * ws.getD (5 + 2 * n) 0 = (hits.map fun h => 2 ^ h.2).sum * 2 ^ 53 + hits.length * 2 ^ 50 +
      (hits[n]?).elim 0 fun h => h.2 * 2 ^ 48 + readSpace s .d (node + 40 + 6 * h.2) 6

/-- The stream that an identifier names: a mesh of the team's table (R228). -/
def namesStream (s : State) (i : Iss) (t : BitVec 6) (st : Stream) : Prop :=
  ∃ tm d, tfind s.teams i.g.team = some tm ∧ tfind tm.tensors t.toNat = some d ∧ d.format = 16 ∧ st = ⟨i.g.tenant, d.space, d.base⟩

/-- The scalar that a RAY operand names (R241). -/
def Iss.scalar (i : Iss) (c : VCode) : Nat := if c = 505 then 0 else (kGet i.g (c.toNat - 384)).toNat

/-- Every access that the issuing group has made, and every one that counts as performed for it, has been performed (R184 to R186), and
the MWAITs of its path, or of its group's paths of some lanes, have found their words to differ (R187). -/
def allPerformed (s : State) (i : Iss) (m : W32 := i.slot.path.mask) : Prop :=
  waitsOver s i m ∧
    ∀ r, r ∈ s.reqs → r.gid = i.gid ∨ r.covers i.g.team i.g.core = true → r.seq < s.nextSeq → r.isMwait = true

/-- The same for a release at device scope, which those on host pages do not keep back (R184). -/
def devicePerformed (s : State) (i : Iss) (m : W32) : Prop :=
  waitsOver s i m ∧
    ∀ r, r ∈ s.reqs → r.gid = i.gid ∨ r.covers i.g.team i.g.core = true → r.seq < s.nextSeq → r.isMwait = true ∨ r.space = .host

/-- The stores and atomics that an engine read of the issuing group must find performed are (R192). -/
def storesPerformed (s : State) (i : Iss) : Prop :=
  ∀ r, r ∈ s.reqs → r.gid = i.gid ∨ r.covers i.g.team i.g.core = true → r.seq < s.nextSeq →
    ¬ ((∃ w, r.kind = .store w) ∨ ∃ op w x, r.kind = .atomic op w x)

/-- A buffer's status word: state, cause, delivered count (R244). -/
def bufferWord (w : W32) (state cause delivered : Nat) : Prop :=
  w.toNat / 2 ^ 28 = state ∧ w.toNat / 2 ^ 24 % 16 = cause ∧ w.toNat / 2 ^ 16 % 32 = delivered

/-- Bit k of a bit string that begins at an address (R230). -/
def areaBit (s : State) (a k : Nat) : Bool := (readByte s.scratch (a + k / 8)).getLsbD (k % 8)

/-- A raster block and what it names (R246). -/
structure RasterAdmitted (s : State) (i : Iss) (tm : Team) (va : Nat) (r : RasterBlock) (mt : Tensor) (mx : List W32)
    (b : LaunchBlock) : Prop where
  block : va % 64 = 0 ∧ va + 64 ≤ tm.tPerCore * tm.cores.length ∧ r = parseRaster (readBytes tm.tmem va 64)
  reserved : readSpace s (.t i.g.team) (va + 20) 4 = 0 ∧ readSpace s (.t i.g.team) (va + 40) 24 = 0
  range : 1 ≤ r.count ∧ 1 ≤ r.width ∧ r.width ≤ 16384 ∧ 1 ≤ r.height ∧ r.height ≤ 16384
  transform : (∃ d, tfind tm.tensors r.transform = some d ∧ mt = d.loopback s) ∧ mt.format = 8 ∧ mt.rank = 2 ∧ mt.ext = [4, 4, 1, 1] ∧
    (mt.space = 1 ∨ mt.space = 2) ∧ spanPasses tm none mt.space false (mt.span [0, 0, 0, 0] [4, 4, 1, 1])
  matrix : mx = (List.range 16).map fun n => BitVec.ofNat 32 (readSpace s (mt.plainSpace i.g.team) (mt.addr [n % 4, n / 4, 0, 0]) 4)
  graph : ∃ g, graphOfHandle s i.g.tenant (BitVec.ofNat 64 r.graph) = some g ∧ r.node < g.nodes.length ∧ r.node ≠ g.entry
  launch : blockAddrLegal r.launch = true ∧ ∃ x, loadLaunchAt s i.g.tenant r.launch = .ok (.ok (b, x))

/-! ## Channels and processions (R137 to R158) -/

/-- The receiving side that a direction's entries arrive at (R137). -/
def sideOf (d : Nat) : Nat := [1, 0, 4, 5, 2, 3].getD d d

/-- The lane whose value element j of an entry takes (R144). -/
def feeds (d j : Nat) : Nat := if d = 0 then (j + 31) % 32 else if d = 1 then (j + 1) % 32 else j

/-- A channel's number among the 64 of its group: 8 × direction + queue. -/
def channelOf (g : Nat) (ch : BitVec 6) : Nat := 64 * g + ch.toNat

/-- A handle's bits (R148). -/
def handleBits (n : Nat) (d : Domain) : W64 :=
  BitVec.ofNat 64 (n + (if d.trap then 2 ^ 6 else 0) + (if d.device then 2 ^ 7 else d.die * 2 ^ 8) + d.generation.toNat * 2 ^ 16)

/-- A handle names an open domain that the group may use (R148, R149). -/
structure HandleUsable (s : State) (i : Iss) (h : W64) (tn : Tenant) (d : Domain) : Prop where
  tenant : tfind s.tenants i.g.tenant = some tn
  domain : tfind tn.domains (h.toNat % 64) = some d ∧ d.opened = true ∧ h = handleBits (h.toNat % 64) d
  scope : d.device = true ∨ d.die = dieOf i.g.core

/-- A lane's key and sequence number (R151). -/
def Iss.keyOf (i : Iss) (key : VCode) (l : Nat) : W64 := BitVec.ofNat 64 (srcLane i.g key.toNat l 2)
def Iss.numberOf (i : Iss) (seq : VCode) (l : Nat) : W32 := BitVec.ofNat 32 (srcLane i.g seq.toNat l 1)

/-- A lane holds a key under a handle, and with a number. -/
def holds (g : Group) (l : Nat) (h key : W64) : Prop := ∃ x, g.holdings.find? (fun x => x.lane == l) = some x ∧ x.handle = h ∧ x.key = key
def holdsNumber (g : Group) (l : Nat) (h key : W64) (n : W32) : Prop :=
  ∃ x, g.holdings.find? (fun x => x.lane == l) = some x ∧ x.handle = h ∧ x.key = key ∧ x.seq = n

/-- The four forms of OENTER and OWAIT: whether it keeps lanes that hold already, and whether it answers at once. -/
def enterInstr (wait part : Bool) (key seq : VCode) (dom : KCode) (mr p : MCode) (fs : FSel) : Instr :=
  match wait, part with
  | false, false => .oenterAll key seq dom mr p fs
  | false, true => .oenterPart key seq dom mr p fs
  | true, false => .owait key seq dom mr p fs
  | true, true => .owaitPart key seq dom mr p fs

/-- Every home slice has room for a whole group's keys. -/
def homesHaveRoom (s : State) : Prop := ∀ sl, (s.keys.filter fun e => e.slice == sl && !e.overflow).length + 32 ≤ 1024

/-- A monitor with one more sample (R351). -/
structure Sampled (m m1 : Monitor) (x : Nat) : Prop where
  ends : m1.min.toNat = min m.min.toNat x ∧ m1.max.toNat = max m.max.toNat x
  sums : m1.count.toNat = min (m.count.toNat + 1) (2 ^ 64 - 1) ∧ m1.sum = m.sum + BitVec.ofNat 64 x
  bins : ∀ b, (tget 0 m1.bins b).toNat =
    if b = min 15 (Nat.log2 (x + 1)) then min ((tget 0 m.bins b).toNat + 1) (2 ^ 32 - 1) else (tget 0 m.bins b).toNat

/-- An admission's wait is sampled by its tenant's procession monitor, and no tenant is otherwise changed (R152, R351). -/
def admissionSampled (s t : State) (tn x : Nat) : Prop :=
  (∀ k, k ≠ tn → tfind t.tenants k = tfind s.tenants k) ∧ ∀ y, tfind s.tenants tn = some y → ∃ m, tfind t.tenants tn = some { y with
    procMon := m } ∧ m.copied = y.procMon.copied ∧ (x < 2 ^ 64 → Sampled y.procMon.live m.live x)

/-- The entrants of some lanes (R151): one for each key and number that they present, with exactly the lanes that present it. -/
def entrantsOf (i : Iss) (key seq : VCode) (ls : Nat → Prop) (ents : List Entrant) : Prop :=
  (∀ l, l < 32 → ls l → ∃ e, e ∈ ents ∧ e.key = i.keyOf key l ∧ e.seq = i.numberOf seq l) ∧
    ∀ e, e ∈ ents → e.answer = none ∧ (∃ l, l < 32 ∧ laneIn e.lanes l = true) ∧
      ∀ l, l < 32 → (laneIn e.lanes l = true ↔ ls l ∧ i.keyOf key l = e.key ∧ i.numberOf seq l = e.seq)

/-- The entry of a key at its home (R150). -/
def entryOf (s : State) (tn dom : Nat) (key : W64) : Option KeyEntry :=
  s.keys.find? fun e => e.tenant == tn && e.domain == dom && e.key == key

/-! ## Grids, teams and graphs (R266 to R283) -/

/-- The module with one more grid, last in queue q of a tenant (R270, R271): in none of its teams placed, ready at once where it has
no dependence. -/
def queuesGrid (s t : State) (tn q : Nat) (b : LaunchBlock) (graph : Option (Nat × Nat)) (root : Bool) (x y : Tenant) : Prop :=
  t = { s with
    groups := t.groups
    tenants := tput s.tenants tn { y with
      queues := tput x.queues q (tget [] x.queues q ++ [s.nextId])
      gridSerial := x.gridSerial + 1 }
    grids := tput s.grids s.nextId
      { tenant := tn, queue := q, block := b, graph := graph, isRoot := root, placedTeams := 0, liveTeams := []
        depReady := decide (b.dependence = .none), passedOver := 0, reserve := none, serial := x.gridSerial
        parkedOn := none, fatal := false }
    fetched := t.fetched
    nextId := s.nextId + 1 }

/-- What R270 has checked of a launch block. -/
structure LaunchLegal (c : TenantConfig) (b : LaunchBlock) : Prop where
  entry : b.entry % 8 = 0 ∧ b.entry < 2 ^ 52
  shape : 1 ≤ b.gx ∧ 1 ≤ b.gy ∧ 1 ≤ b.threads ∧ b.threads ≤ 8192
  ports : b.ports = true → b.gx ≤ 16 ∧ b.gy ≤ 16 ∧ b.threads ≤ 2048
  plain : b.roles = [] → 96 ≤ b.budget ∧ b.budget ≤ 1024 ∧ b.entry ≠ 0 ∧ b.role = 0
  roles : b.roles ≠ [] → b.entry = 0 ∧ b.budget = 0 ∧ (∃ r, r ∈ b.roles ∧ r.number = b.role) ∧
    ∀ r, r ∈ b.roles → 96 ≤ r.budget ∧ r.budget ≤ 1024 ∧ r.entry % 8 = 0 ∧ r.entry < 2 ^ 52
  sizes : b.tPerCore ≤ 512 * 1024 ∧ b.progArea ≤ 256 * 1024 ∧ 65536 ≤ b.regArea ∧ b.regArea ≤ 128 * 65536
  windows : ∀ w, w ∈ b.windows → c.scratchBase ≤ w.base ∧ w.base + w.size ≤ c.scratchBase + c.scratchSize
  words : ∀ a, b.completion = .d a ∨ b.dependence = .d a → a % 8 = 0 ∧ c.scratchBase ≤ a ∧ a + 8 ≤ c.scratchBase + c.scratchSize
  params : (b.params.map fun p => p.1).Nodup ∧ ∀ p, p ∈ b.params → p.1 < 160
  tensors : (b.tensors.map fun x => x.1).Nodup ∧ ∀ x, x ∈ b.tensors → x.1 < 64

/-- A scalar's value at a group's start: the last of these that names it, else 0 (R27, R269, R279). -/
def startScalar (ps : List (Nat × W64)) (c : Nat) : W64 := ((ps.reverse.find? fun p => p.1 == c).map fun p => p.2).getD 0

/-- A group as R27 starts it, of a team of a grid. -/
structure GroupStarts (s : State) (g : Group) (tm ix core : Nat) (gr : Grid) (extra : List (Nat × W64)) : Prop where
  place : g.tenant = gr.tenant ∧ g.team = tm ∧ g.index = ix ∧ g.core = core ∧ g.position % 8 = ix % 8 ∧ g.priority = gr.queue
  registers : g.vregs = [] ∧ g.mregs = [] ∧ g.marks = [] ∧ g.flags = [] ∧ g.fflags = 0 ∧ g.links = [] ∧ g.joins = [] ∧ g.stack = []
  window : g.window = 0 ∧ g.extent = 0 ∧ g.resBase = 0 ∧ g.batch = 0 ∧ g.role = gr.block.role ∧ g.handler = none ∧ g.park = none
  scalars : ∀ c, kGet g c = startScalar (gr.block.params ++ extra) c
  lanes : ∀ l, l < 32 → (laneIn g.launched l = true ↔ 32 * ix + l < gr.block.threads)
  budget : (gr.block.roles = [] → g.budget = gr.block.budget) ∧
    ∀ r, gr.block.roles.find? (fun x => x.number == gr.block.role) = some r → g.budget = r.budget
  path : g.slot1 = none ∧ ∃ sl, g.slot0 = some sl ∧ sl.clause = none ∧ sl.path.ix = 0 ∧ sl.path.mask = g.launched ∧
    sl.path.codes = ⟨false, false, false, false⟩ ∧ sl.path.token = 0 ∧ (gr.block.roles = [] → sl.path.hdr = gr.block.entry) ∧
    ∀ r, gr.block.roles.find? (fun x => x.number == gr.block.role) = some r → sl.path.hdr = r.entry

/-- A team of a grid placed on cores, with its groups (R121, R195, R273); nothing of it has started. -/
structure TeamPlaced (s t : State) (gr : Nat) (g : Grid) (tm ix : Nat) (cores : List Nat) (extra : List (Nat × W64)) (x : Team) : Prop where
  listed : tfind t.teams tm = some x
  fields : x.tenant = g.tenant ∧ x.grid = gr ∧ x.index = ix ∧ x.cores = cores ∧ x.threads = g.block.threads ∧
    x.tPerCore = g.block.tPerCore ∧ x.windows = g.block.windows ∧ x.roles = g.block.roles ∧ x.barriers = [] ∧ x.queues = [] ∧
    x.credits = [] ∧ x.started = false ∧ x.placedAt = s.now ∧ x.node = g.graph
  tensors : ∀ n, tfind x.tensors n = ((g.block.tensors.reverse.find? fun p => p.1 == n).map fun p => p.2)
  groups : x.live = x.gids ∧ x.live.length = (g.block.threads + 31) / 32 ∧ ∀ n gid, x.live[n]? = some gid →
    ∃ y, tfind t.groups gid = some y ∧ GroupStarts s y tm n (cores.getD (n / 64) 0) g extra

/-- Nothing but a graph of a tenant differs in a tenant's table. -/
def onlyGraph (s t : State) (tn gs : Nat) : Prop :=
  (∀ x, x ≠ tn → tfind t.tenants x = tfind s.tenants x) ∧ (∀ x, x ≠ gs → graphOf t tn x = graphOf s tn x) ∧
    ∀ x, tfind s.tenants tn = some x → ∃ gs', tfind t.tenants tn = some { x with graphs := gs' }

/-- A node's open batch has closed: its records await placement in their order (R279, R280). -/
def closesBatch (s t : State) (tn gs node : Nat) : Prop :=
  t = { s with tenants := t.tenants } ∧ onlyGraph s t tn gs ∧ ∀ g n, graphOf s tn gs = some g → g.nodes[node]? = some n →
    graphOf t tn gs = some { g with
      closed := g.closed ++ [⟨node, n.openRecords⟩]
      nodes := g.nodes.set node { n with
        openRecords := []
        openedTick := 0 } }

/-- The word that a SIGNAL, a completion or a dependence names lies here (R268, R323). -/
def wordLies (s : State) (tn : Nat) (w : WordAddr) (sp : Space) (a : Nat) : Prop :=
  (w = .d a ∧ sp = .d) ∨ ∃ va, w = .m va ∧ ((translate s tn va .write = .ok (.main a) ∧ sp = .m) ∨
    (translate s tn va .write = .ok (.host a) ∧ Config.hostTakesAtomics a = true ∧ sp = .host))

/-- A word of 8 bytes. -/
def wordBytes (sp : Space) (a : Nat) (q : Space) (b : Nat) : Prop := q = sp ∧ a ≤ b ∧ b < a + 8

/-- x is added to a word modulo 2^64, and no other byte changes but where `gone` holds. -/
def wordAdded (s t : State) (sp : Space) (a x : Nat) (gone : Space → Prop) : Prop :=
  readSpace t sp a 8 = (readSpace s sp a 8 + x) % 2 ^ 64 ∧ sameBytesBut s t fun q b => wordBytes sp a q b ∨ gone q

/-! ## Contexts, faults and clause selection (R284 to R312) -/

/-- A context instruction's status is owed, its value there already, to an issuing group that has gone on. -/
def Iss.owesStatus (i : Iss) (s t : State) (fs : FSel) (ka : KCode) (status : Nat) : Prop :=
  ⟨s.nextId, i.gid, s.nextSeq, .other, i.flag fs, [kName i.g ka.toNat], [kWrite i.g ka.toNat (BitVec.ofNat 64 status)], 0, s.now⟩
      ∈ t.owed ∧
    ∃ g', tfind t.groups i.gid = some g' ∧ OweEffect s i g' [kName i.g ka.toNat] (i.flag fs) 1 i.slot.path.codes

/-- What of a tenant is on its way nowhere: no request, result, channel entry or credit, message or copy of its groups. -/
structure Drained (s : State) (tn : Nat) : Prop where
  requests : ∀ r, r ∈ s.reqs → r.tenant ≠ tn
  groups : ∀ p, p ∈ s.groups → p.2.tenant = tn →
    (∀ o, o ∈ s.owed → o.gid ≠ p.1) ∧ ∀ r, p.2.park = some r → ∀ a x y z w f, r.why ≠ .remote a x y z w f
  teams : ∀ p, p ∈ s.teams → p.2.tenant = tn → (∀ x, x ∈ s.sends → x.team ≠ p.1) ∧ ∀ x, x ∈ s.returns → x.team ≠ p.1
  copies : ∀ c, c ∈ s.copies → c.tenant = tn → c.sent = 0 ∧ c.asking = []
  exchanges : ∀ x, x ∈ s.xchgs → x.tenant ≠ tn

/-- The identifiers of results, of engine operations and of exchanges are below the next one to be given out. -/
structure FreshIds (s : State) : Prop where
  owed : ∀ o, o ∈ s.owed → o.id < s.nextId
  requests : ∀ r, r ∈ s.reqs → ∀ id, r.owed = some id → id < s.nextId
  exchanges : ∀ x, x ∈ s.xchgs → x.id < s.nextId
  contexts : (∀ o, o ∈ s.cxops → o.owed < s.nextId) ∧ ∀ r, r ∈ s.remotes → ∀ tn id, r.use = .post tn (.op id) → id < s.nextId
  engines : (∀ p, p ∈ s.patches → p.owed < s.nextId) ∧ (∀ r, r ∈ s.rasters → r.id < s.nextId) ∧
    ∀ d e, d ∈ s.decoders → e ∈ d.2.entries → e.wid < s.nextId
  saved : ∀ c, c ∈ s.saved ++ s.images → (∀ o, o ∈ c.owed → o.id < s.nextId) ∧ (∀ r, r ∈ c.reqs → ∀ id, r.owed = some id → id < s.nextId) ∧
    (∀ p, p ∈ c.patches → p.owed < s.nextId) ∧ ∀ r, r ∈ c.rasters → r.id < s.nextId

/-- The issuing group is of no team or grid that a kill of a group's scope ends. -/
structure Apart (s : State) (i : Iss) (g : Group) : Prop where
  team : g.team ≠ i.g.team
  lists : ∀ x tm, tfind s.teams x = some tm → i.gid ∈ tm.live → x = i.g.team
  grid : ∀ tm gr, tfind s.teams g.team = some tm → tfind s.grids tm.grid = some gr → i.g.team ∉ gr.liveTeams

/-- Bytes that a tenant's context takes (R307). -/
def contextSize (s : State) (t : Tenant) (tn : Nat) : Nat :=
  let teams := s.teams.filter fun p => p.2.tenant == tn
  4096 + (teams.map fun p => 8192 + p.2.tPerCore * p.2.cores.length).sum
    + 16384 * (s.groups.filter fun p => p.2.tenant == tn).length + 32768 * (teams.map fun p => (changedPositions p.2).length).sum
    + 278528 * (s.arrays.filter fun p => t.config.cores.contains (p.1 / 4)).length
    + 256 * (s.copies.filter fun c => c.tenant == tn).length + 1024 * (s.rasters.filter fun r => r.tenant == tn).length
    + 512 * t.graphs.length

/-- The addresses of an area lie in main memory, one to one, where `place` says, and stay there whatever is written to that part of
it (R302). -/
structure AreaMapped (s : State) (tn area bytes : Nat) (need : Need) (place : Nat → Nat) : Prop where
  granted : ∀ m, (∀ a, (∀ va, area ≤ va → va < area + bytes → place va ≠ a) → readByte m a = readByte s.main a) →
    ∀ va, area ≤ va → va < area + bytes → translate { s with main := m } tn va need = .ok (.main (place va))
  apart : ∀ va vb, area ≤ va → va < area + bytes → area ≤ vb → vb < area + bytes → place va = place vb → va = vb

/-- n bytes of a tenant's area, and the number that they are. -/
def areaBytes (s : State) (place : Nat → Nat) (va n : Nat) : Bytes := (List.range n).map fun k => readByte s.main (place (va + k))

def areaField (s : State) (place : Nat → Nat) (va n : Nat) : Nat := leNat (areaBytes s place va n)

/-- The header of a context area (R307). -/
def areaHeader (s : State) (place : Nat → Nat) (area tn : Nat) : Prop :=
  areaField s place area 4 = 0x58434C42 ∧ areaField s place (area + 4) 1 = tn ∧ areaField s place (area + 6) 2 = 1

/-- How long the area is that its header describes: the offset of its last run, and what the count says that this takes. -/
def areaLength (s : State) (place : Nat → Nat) (area : Nat) : Nat :=
  areaField s place (area + 112) 8 + 512 * areaField s place (area + 32) 4

/-- A core of which nothing is taken, and that has left reset. -/
structure CoreIdle (s : State) (d : Nat) : Prop where
  groups : ∀ p, p ∈ s.groups → p.2.core ≠ d
  teams : ∀ p, p ∈ s.teams → d ∉ p.2.cores
  arrays : ∀ x, x < 4 → tfind s.arrays (4 * d + x) = none
  up : tget 0 s.coreStart d ≤ s.now

/-- The groups of a saved team that stood on its core j, and of them those of a partition. -/
def SavedContext.on (c : SavedContext) (tm j part : Nat) : List (Nat × Group) :=
  c.groups.filter fun p => p.2.team == tm && p.2.index / 64 == j && p.2.position % 8 == part

/-- A saved team fits on as many idle cores as it has (R121, R124). -/
structure TeamRoom (c : SavedContext) (tm : Nat) (x : Team) : Prop where
  tmem : x.tPerCore ≤ 512 * 1024
  queues : ∀ p, p ∈ c.arrays → p.2.jobs.length ≤ 4
  positions : ∀ j part, j < x.cores.length → part < 8 → (c.on tm j part).length ≤ 8
  registers : ∀ j part, j < x.cores.length → part < 8 →
    let sum := ((c.on tm j part).map fun p => p.2.budget).sum
    sum ≤ 1024 ∧ ∀ a b, a ∈ x.roles → b ∈ x.roles → sum + (a.budget - b.budget) ≤ 1024

/-- A saved context whose numbers name each thing once, and nothing that the module holds. -/
structure ContextFits (s : State) (i : Iss) (c : SavedContext) : Prop where
  teams : (c.teams.map fun p => p.1).Nodup
  groups : (c.groups.map fun p => p.1).Nodup ∧ ∀ p, p ∈ c.groups → p.1 ≠ i.gid ∧ tfind s.groups p.1 = none ∧
    ∃ x, (p.2.team, x) ∈ c.teams ∧ p.2.index / 64 < x.cores.length
  requests : ∀ r, r ∈ c.decoder → ∃ p, p ∈ c.groups ∧ p.1 = r.gid

/-- Group g' is a saved group resumed on a core (R121, R306, R308): its position is of the same partition; its registers are as they
were, those of its register stack as its register area holds them. -/
structure Resumes (s : State) (c : SavedContext) (g g' : Group) (core : Nat) : Prop where
  rest : g' = { g with
    core := core
    position := g'.position
    vregs := g'.vregs
    bufs := g'.bufs
    restart := s.now }
  bufs : c.decoder = [] → g'.bufs = g.bufs
  partition : g'.position < 64 ∧ g'.position % 8 = g.position % 8
  registers : ∀ n l, l < 32 → n < 64 → vGet g' (.v n) l = vGet g (.v n) l
  stack : ∀ n l, l < 32 → g.resBase ≤ n → n < g.window + g.extent →
    (vGet g' (.stack n) l).toNat = readSpace s .d (g.lBase + 0x3000 + 128 * n + 4 * l) 4

/-- Nothing live of a tenant is left, and its queues, graphs and domains are empty (R297). -/
def contextGone (t : State) (tn : Nat) : Prop :=
  (∀ x g, tfind t.groups x = some g → g.tenant = tn → g.live = false) ∧ ∀ x, tfind t.tenants tn = some x →
    x.graphs = [] ∧ x.domains = [] ∧ ∀ q, tget [] x.queues q = []

/-- The tenant of the access that an uncorrectable error spoiled (R305). -/
def errorTenant (s : State) (e : ErrorSite) (tn : Nat) : Prop :=
  match e with
  | .copyRead id => ∃ c, s.copies.find? (fun c => c.id == id) = some c ∧ c.tenant = tn
  | .walkRead core wid => ∃ x, (decoderOf s core).entries.find? (fun x => x.wid == wid) = some x ∧ x.stream.tenant = tn
  | .queuedRead core n => ∃ r, (decoderOf s core).queue[n]? = some r ∧ r.stream.tenant = tn
  | .patchRead n => ∃ p, s.patches[n]? = some p ∧ p.result = none ∧ p.stream.tenant = tn
  | .rasterRead id => ∃ r, s.rasters.find? (fun r => r.id == id) = some r ∧ r.error = none ∧ r.tenant = tn
  | .mstatRead gid | .groupRead gid => ∃ g, tfind s.groups gid = some g ∧ g.live = true ∧ g.tenant = tn
  | .xchgRead id => ∃ x, xchgOf s id = some x ∧ x.tenant = tn
  | .batchRead t _ | .launchRead t | .hostRead t => t = tn
  | .unowned => False

/-- Record i of a tenant's fault log is the first free one, and lies at pa in main memory. -/
def recordAt (s : State) (tn : Nat) (t : Tenant) (i pa : Nat) : Prop :=
  tfind s.tenants tn = some t ∧ freeRecord s tn t = some i ∧ translate s tn (t.config.faultLog + 32 * i) .write = .ok (.main pa)

/-- The words of an instruction-memory address, in main memory from pa (R21, R30). -/
def fetchedAt (s : State) (tn hdr pa n : Nat) : Prop :=
  hdr < 2 ^ 52 ∧ ∀ k, k ≤ n → translate s tn (hdr + 8 * k) .exec = .ok (.main (pa + 8 * k))

/-- A partition's only live group, which may start a clause from slot 0 (R19, R22). -/
structure Lone (s : State) (core part gid : Nat) (g : Group) (sl : Slot) (t : Tenant) (tm : Team) : Prop where
  found : tfind s.groups gid = some g ∧ s.groups.Pairwise (fun q r => q.1 < r.1)
  here : g.core = core ∧ g.position % 8 = part
  only : ∀ p, p ∈ s.groups → p.2.core = core → p.2.position % 8 = part → p.2.live = true → p.1 = gid
  pipe : sl.offPipe = false
  slots : g.slot0 = some sl ∧ g.slot1 = none ∧ sl.clause = none ∧ sl.resumed = false ∧ sl.notBefore ≤ s.now
  free : g.park = none ∧ g.handler = none
  running : s.diesInReset = false ∧ s.ucieUp = true ∧ tfind s.tenants g.tenant = some t ∧ t.state = .running ∧ tfind s.teams g.team = some tm ∧ tm.started = true

/-! ## Exchanges (R325 to R329) -/

/-- A block of an XCHG at an address of T, what it names, and the peer list and counts read there (R325, R326). -/
structure ExchangeAdmitted (s : State) (i : Iss) (t : Team) (a : Nat) (b : XBlock) (devs counts : List Nat) : Prop where
  named : ∀ j x, (j, x) ∈ [(0, b.send), (1, b.recv), (2, b.counts), (3, b.received), (16, b.peers), (17, b.completion)] →
    readSpace s (.t i.g.team) (a + j) 1 < 64 ∧ tfind t.tensors (readSpace s (.t i.g.team) (a + j) 1) = some x ∧
      (x.space = 2 ∨ x.space = 3)
  reserved : readSpace s (.t i.g.team) (a + 4) 4 = 0 ∧ readSpace s (.t i.g.team) (a + 11) 1 = 0 ∧
    readSpace s (.t i.g.team) (a + 18) 14 = 0
  fields : b.n = readSpace s (.t i.g.team) (a + 8) 2 ∧ b.g = readSpace s (.t i.g.team) (a + 10) 1 ∧
    b.tag = readSpace s (.t i.g.team) (a + 12) 4
  ranges : 1 ≤ b.n ∧ b.n ≤ 1024 ∧ 1 ≤ b.g ∧ b.g ≤ 64
  rows : b.send.rank = 2 ∧ b.recv.rank = 2 ∧ b.recv.format = b.send.format ∧ b.recv.ext.getD 0 0 = b.send.ext.getD 0 0
  lists : ∀ x f n, (x, f, n) ∈ [(b.counts, 6, 2 * b.n * b.g), (b.received, 6, b.n * b.g + b.n), (b.peers, 5, b.n), (b.completion, 7, b.n)] →
    x.format = f ∧ x.rank = 1 ∧ n ≤ x.ext.getD 0 0
  peers : devs.length = b.n ∧ tensorRead s i.g.tenant b.peers (b.peers.addr [0, 0, 0, 0]) (2 * b.n) = .ok (devs.flatMap (leBytes 2))
  counted : counts.length = 2 * b.n * b.g ∧ (∀ c, c ∈ counts → c < 2 ^ 32) ∧
    tensorRead s i.g.tenant b.counts (b.counts.addr [0, 0, 0, 0]) (8 * b.n * b.g) = .ok (counts.flatMap (leBytes 4))
  devices : devs.Nodup ∧ (∀ d, d ∈ devs → d < 1024) ∧ s.fabric.dev ∈ devs
  fresh : ∀ x, x ∈ s.xchgs → x.tenant = i.g.tenant → x.tag ≠ b.tag
  whole : spanPasses t none b.send.space false (b.send.span [0, 0, 0, 0] [b.send.ext.getD 0 0, b.send.ext.getD 1 0, 1, 1]) ∧
    spanPasses t none b.recv.space true (b.recv.span [0, 0, 0, 0] [b.recv.ext.getD 0 0, b.recv.ext.getD 1 0, 1, 1])
  parts : ∀ x w n, (x, w, n) ∈ [(b.counts, false, 2 * b.n * b.g), (b.received, true, b.n * b.g + b.n), (b.peers, false, b.n),
    (b.completion, true, b.n)] → spanPasses t none x.space w (x.span [0, 0, 0, 0] [n, 1, 1, 1])

/-- A write of an exchange's, or a context's, is on its way to another device (R323). -/
def posted (s : State) (tn id : Nat) : Prop := ∃ r, r ∈ s.remotes ∧ r.use = .post tn (.op id)

/-- A packet stands at place n of the fabric port. -/
def portHolds (s : State) (n : Nat) (p : Packet) : Prop := ∃ pk nt, s.rx[n]? = some ⟨p, pk, nt⟩

/-- The packet at place n of the fabric port is the first of its exchange from its device that is served in order; a failure goes
before those that a parked notice has answered. -/
structure ArrivesNext (s : State) (n : Nat) (p : Packet) : Prop where
  there : portHolds s n p
  order : ∀ a, a ∈ s.rx.take n → a.pkt.src = p.src → a.pkt.part = p.part → a.pkt.msg.xTag = p.msg.xTag → p.msg.xTag ≠ none →
    (p.src = s.fabric.dev ∧ a.pkt.req ≠ p.req) ∨ ((∃ t, p.msg = .failure t) ∧ a.noticed = true)

/-- It belongs to exchange x, and came from its peer q, which has not failed. -/
structure FromPeer (s : State) (p : Packet) (tag : Nat) (x : Xchg) (q : Nat) (y : Peer) : Prop where
  named : xchgFor s p tag = some (x, q, y)
  listed : xchgOf s x.id = some x
  whole : y.failed = false

/-- A peer's own send has nothing to do, and its completion word is written or does not wait for anything here. -/
structure PeerIdle (z : Peer) : Prop where
  whole : z.failed = false
  sends : z.readyIn ≠ some true ∨ (z.doneSent = true ∧ (z.cut = true ∨ z.mine.sum ≤ z.sent))
  settled : z.doneIn = none ∨ z.completed.isSome = true

/-- An exchange of a running tenant in which only peer q may have something to do, and that no page holds up. -/
structure OnlyPeer (s : State) (x : Xchg) (q : Nat) : Prop where
  running : ∃ t0, tfind s.tenants x.tenant = some t0 ∧ t0.state = .running
  waits : x.waits = [] ∧ x.posts = [] ∧ x.capacity = false
  others : ∀ k z, k ≠ q → x.peers[k]? = some z → PeerIdle z
  goes : ∃ z, z ∈ x.peers ∧ z.completed = none

/-- Messages to peer k of an exchange go out. -/
def reaches (s : State) (x : Xchg) (k : Nat) : Prop :=
  k = x.me ∨ (partitionOf s x.tenant ≠ 0 ∧ ∀ z, x.peers[k]? = some z → (routeTo s z.dev).isSome = true)

/-- An exchange has become z, and every other is as it was. -/
def exchangeIs (s t : State) (x z : Xchg) : Prop := xchgOf t x.id = some z ∧ ∀ k, k ≠ x.id → xchgOf t k = xchgOf s k

/-- The same flits, outstanding requests and arrived packets. -/
def sameFabric (s t : State) : Prop := t.links = s.links ∧ t.remotes = s.remotes ∧ t.rx = s.rx ∧ t.nextId = s.nextId

/-- Rows that a peer has announced, and the rows of the peers before peer k, in the order of the list. -/
def announced (z : Peer) : Nat := (z.counts.getD []).sum

def rowsBefore (ps : List Peer) (k : Nat) : Nat := ((ps.take k).map announced).sum

/-- The stream of a tensor of an exchange, as accesses name it. -/
def Tensor.of (t : Tensor) (tn : Nat) : Stream := ⟨tn, t.space, t.base⟩

/-- A peer of an exchange has failed, or its DONE names another count than its COUNT did. -/
abbrev peerBad (x : Xchg) : Prop := ∃ z, z ∈ x.peers ∧ (z.failed = true ∨ ∃ r, z.doneIn = some r ∧ r ≠ announced z)

/-- The XCHG status word of an exchange whose completion words are all written (R204, R328). -/
structure ExchangeStatus (x : Xchg) (w : Nat) : Prop where
  units : w % 2 ^ 24 = min 0xFFFFFF (((x.peers.map fun z => z.written).sum * (x.send.ext.getD 0 0 * x.send.z) + 63) / 64)
  state : w / 2 ^ 28 = if x.fatal = false ∧ (∀ z, z ∈ x.peers → z.completed = some 1) ∧ ¬ peerBad x then 1
    else if 0 < (x.peers.map fun z => z.written).sum * (x.send.ext.getD 0 0 * x.send.z) then 2 else 3
  where_ : w / 2 ^ 24 % 16 = if x.capacity then 0xF
    else if peerBad x then 0xE
    else if x.fatal then 0xD else 0

/-- The completion word of a peer has been written, with x1 the exchange then: the exchange goes on, or has ended with its status. -/
structure PeerCompletes (s m u : State) (x x1 : Xchg) : Prop where
  bytes : sameBytes m u
  fabric : sameFabric m u
  goesOn : (∃ z, z ∈ x1.peers ∧ (z.completed = none ∨ (z.doneSent = false ∧ z.failed = false ∧ z.readyIn ≠ some false))) →
    exchangeIs s u x x1 ∧ u.owed = s.owed
  ends : (∀ z, z ∈ x1.peers → z.completed ≠ none ∧ (z.doneSent = true ∨ z.failed = true ∨ z.readyIn = some false)) → s.saved = [] →
    xchgOf u x.id = none ∧ (∀ k, k ≠ x.id → xchgOf u k = xchgOf s k) ∧
    ∀ o k, s.owed.find? (fun o => o.id == x.owed) = some o → o.dests = [.k k] →
      ∃ w, ExchangeStatus x1 w ∧ resultGains s u (some x.owed) [.k k (BitVec.ofNat 64 w)]

/-! ## Translation and the fabric (R302, R317 to R323) -/

/-- A page-table entry's frame, and the rules of R322 for one that names a table of a size and for one that maps a page of a size. -/
def frameOf (e : W64) : Nat := (e.extractLsb' 8 44).toNat * 256

structure NamesTable (limit : Nat) (e : W64) (size : Nat) : Prop where
  bits : e.getLsbD 0 = true ∧ e.getLsbD 1 = false ∧ e.extractLsb' 4 4 = 0 ∧ e.extractLsb' 52 12 = 0
  frame : frameOf e % size = 0 ∧ frameOf e + size ≤ limit

structure MapsPage (limit : Nat) (e : W64) (size : Nat) : Prop where
  bits : e.getLsbD 0 = true ∧ e.getLsbD 1 = true ∧ e.extractLsb' 4 4 = 0 ∧ e.extractLsb' 62 2 ≠ 3 ∧
    (e.extractLsb' 62 2 ≠ 2 → e.extractLsb' 52 10 = 0)
  frame : frameOf e % size = 0 ∧ (e.extractLsb' 62 2 = 0 → frameOf e + size ≤ limit)

/-- Entry n of a table in main memory. -/
def entryAt (s : State) (table n : Nat) : W64 := BitVec.ofNat 64 (readSpace s .m (table + 8 * n) 8)

/-- The bytes of main memory of the module's variant (R1). -/
def installed (s : State) : Nat := if s.variant = .bh4m then 2 ^ 37 else 2 ^ 38

/-- The tables from a root map an address by a leaf entry, with its page's size (R321). -/
def tablesMap (s : State) (root va : Nat) (e : W64) (size : Nat) : Prop :=
  let e1 := entryAt s root (va / 2 ^ 39 % 2 ^ 13)
  let e2 := entryAt s (frameOf e1) (va / 2 ^ 30 % 2 ^ 9)
  let e3 := entryAt s (frameOf e2) (va / 2 ^ 21 % 2 ^ 9)
  let e4 := entryAt s (frameOf e3) (va / 2 ^ 16 % 2 ^ 5)
  NamesTable (installed s) e1 4096 ∧ ((e = e2 ∧ size = 2 ^ 30 ∧ MapsPage (installed s) e2 (2 ^ 30)) ∨ (NamesTable (installed s) e2 4096 ∧
    ((e = e3 ∧ size = 2 ^ 21 ∧ MapsPage (installed s) e3 (2 ^ 21)) ∨
      (NamesTable (installed s) e3 256 ∧ e = e4 ∧ size = 2 ^ 16 ∧ MapsPage (installed s) e4 (2 ^ 16)))))

/-- A leaf entry grants an access. -/
def entryGrants (e : W64) (need : Need) : Prop :=
  (need = .write → e.getLsbD 2 = true) ∧ (need = .exec → e.getLsbD 3 = true ∧ e.extractLsb' 62 2 = 0)

/-- The place at which an access is performed (R323). -/
def entryPlace (e : W64) (size va : Nat) (p : Place) : Prop :=
  (e.extractLsb' 62 2 = 0 → p = .main (frameOf e + va % size)) ∧ (e.extractLsb' 62 2 = 1 → p = .host (frameOf e + va % size)) ∧
    (e.extractLsb' 62 2 = 2 → p = .remote (e.extractLsb' 52 10).toNat (frameOf e + va % size))

/-- The number of a message's flit type (R318). -/
def typeNumber : FabricMsg → Nat
  | .read _ _ => 1
  | .write _ _ => 2
  | .atomic _ _ _ _ _ | .check _ _ | .perform _ _ _ _ _ | .reduce _ _ => 3
  | .response _ _ | .rowAck _ _ => 4
  | .count _ _ => 5
  | .ready _ _ => 6
  | .row _ _ _ => 7
  | .done _ _ => 8
  | .parked => 10
  | .failure _ => 11

/-- A flit as a link puts it on the wire: stamped with its sequence, the last one received intact, and its check. -/
def stamped (l : LarLink) (f x : Flit) : Prop :=
  x = { f with seq := l.sendSeq, ack := l.expect - 1, check := x.check } ∧ x.check = crc64 (flitBytes x)

/-- A link with one more flit on it. -/
def puts (l : LarLink) (f : Flit) (l1 : LarLink) : Prop :=
  (1024 ≤ l.unacked.length → l1 = { l with waiting := l.waiting ++ [f] }) ∧
  (l.unacked.length < 1024 → ∃ x, stamped l f x ∧ l1 = { l with
    sendSeq := l.sendSeq + 1
    unacked := l.unacked ++ [x]
    wire := l.wire ++ [x] })

/-- A link on which nothing waits, after an acknowledgement. -/
def acknowledged (l : LarLink) (ack : BitVec 12) (l1 : LarLink) : Prop :=
  ((∀ x, x ∈ l.unacked → x.seq ≠ ack) → l1 = l) ∧
  ∀ j x, l.unacked[j]? = some x → x.seq = ack → (∀ y, y ∈ l.unacked.take j → y.seq ≠ ack) → l1 = { l with
    unacked := l.unacked.drop (j + 1)
    replays := 0 }

/-- A link's replay from an expected sequence. -/
def replayed (l : LarLink) (expected : BitVec 12) (l1 : LarLink) : Prop :=
  ((∀ x, x ∈ l.unacked → x.seq ≠ expected) → l1 = l) ∧
  ∀ j x, l.unacked[j]? = some x → x.seq = expected → (∀ y, y ∈ l.unacked.take j → y.seq ≠ expected) → l1 = { l with
    unacked := l.unacked.drop j
    wire := l.wire ++ l.unacked.drop j
    replays := if j = 0 then l.replays + 1 else 1 }

/-- A link after a negative acknowledgement has gone out on it, naming the expected sequence. -/
def refuses (l l1 : LarLink) : Prop :=
  ∃ x, l1 = { l with wire := l.wire ++ [x] } ∧ x.ty = 9 ∧ x.ack + 1 = l.expect ∧ x.check = crc64 (flitBytes x)

/-- Two flits are of one message; two messages of one exchange come from one device. -/
def sameMessage (x f : Flit) : Bool := decide (x.src = f.src ∧ x.part = f.part ∧ x.req = f.req ∧ x.ty = f.ty)

def inStream (s : State) (a p : Packet) : Prop :=
  a.msg.xTag ≠ none ∧ a.msg.xTag = p.msg.xTag ∧ a.src = p.src ∧ a.part = p.part ∧ (p.src = s.fabric.dev → a.req = p.req)

/-- A packet of a remote request that has arrived and waits for nothing, in the tenant of its partition (R317). -/
structure RequestHere (s : State) (n : Nat) (p : Packet) (nt : Bool) (tn : Nat) (t : Tenant) : Prop where
  there : s.rx[n]? = some ⟨p, none, nt⟩
  tenant : tenantOfPartition s p.part = some tn ∧ tfind s.tenants tn = some t

/-- The turn of arrived request n at its banks: they are free, and no request has arrived before it (R172). -/
def turnComes (s : State) (n : Nat) : Prop := banksFree s ∧ ∀ a, a ∈ s.rx.take n → a.pkt.msg.access = none

/-- Bytes from an address of a space. -/
def bytesFrom (sp : Space) (a n : Nat) (q : Space) (b : Nat) : Prop := q = sp ∧ a ≤ b ∧ b < a + n

/-- Where in main or host memory a place lies. -/
def localPlace (p : Place) (sp : Space) (a : Nat) : Prop := (p = .main a ∧ sp = .m) ∨ (p = .host a ∧ sp = .host)

/-- Nothing of a tenant but these fields may differ: its own memory, its pages, what waits for its words or has read them. -/
def requestFrame (v u : State) : Prop := u = { v with
  main := u.main
  hostMem := u.hostMem
  cache := u.cache
  reqs := u.reqs
  copies := u.copies
  banks := u.banks
  grids := u.grids }

/-! ## The host, boot and power (R343 to R353) -/

/-- A tenant's bytes from va lie together in main memory from pa, for an access. -/
def mappedAt (s : State) (tn va n pa : Nat) (need : Need) : Prop :=
  ∀ j, j < n → translate s tn (va + j) need = .ok (.main (pa + j))

/-- A tenant as its first configuration leaves it. -/
structure TenantFresh (t : Tenant) (c : TenantConfig) : Prop where
  config : t.state = .configured ∧ t.config = c
  empty : t.queues = [] ∧ t.graphs = [] ∧ t.domains = [] ∧ t.traps = [] ∧ t.earlyCounts = [] ∧ t.msix = [] ∧ t.killsPending = []
  monitors : ∀ m, m ∈ [t.copyMon, t.loadMon, t.procMon, t.chanMon, t.queueMon] → m.live = ⟨BitVec.allOnes 64, 0, 0, 0, []⟩

/-- Two ranges, base and size, have no byte in common. -/
def noneShared (x y : Nat × Nat) : Prop := ∀ b, x.1 ≤ b → b < x.1 + x.2 → ¬ (y.1 ≤ b ∧ b < y.1 + y.2)

/-- A configuration names what the module has: its cores, each once, its scratch (R2), an L region outside its scratch range and its
overflow area (R164), an aperture in multiples of 64 KiB (R349). -/
structure ConfigLegal (c : TenantConfig) : Prop where
  cores : c.cores.Nodup ∧ ∀ x, x ∈ c.cores → x < 256
  scratch : c.scratchBase + c.scratchSize ≤ 2 ^ 30 ∧ c.lBase + c.lSize ≤ 2 ^ 30 ∧ c.overflowBase + 2 ^ 21 ≤ 2 ^ 30 ∧ c.inbox + 4096 ≤ 2 ^ 30
  apart : noneShared (c.lBase, c.lSize) (c.scratchBase, c.scratchSize) ∧ noneShared (c.lBase, c.lSize) (c.overflowBase, 2 ^ 21)
  aperture : c.bar2Base % 65536 = 0 ∧ c.bar2Size % 65536 = 0

/-- The ranges of scratch that belong to a tenant alone (R310): its own scratch range, its L region, and 65,536 entries of 32 bytes. -/
def ownRanges (c : TenantConfig) : List (Nat × Nat) := [(c.scratchBase, c.scratchSize), (c.lBase, c.lSize), (c.overflowBase, 2 ^ 21)]

/-- A tenant's configuration leaves every other tenant's ranges alone (R162, R310). -/
def leavesOthers (s : State) (tn : Nat) (c : TenantConfig) : Prop :=
  ∀ p, p ∈ s.tenants → p.1 ≠ tn → p.2.state ≠ .absent → ∀ x y, x ∈ ownRanges c → y ∈ ownRanges p.2.config → noneShared x y

/-- Two configurations differ in no field that R350 marks 'no'. -/
def sameButLive (c d : TenantConfig) : Prop := d = { c with
  handler := d.handler
  killScope := d.killScope
  chanBudget := d.chanBudget
  procBudget := d.procBudget
  rasterThreshold := d.rasterThreshold }

/-- The health monitors of a tenant, by name. -/
def Tenant.monitor (t : Tenant) : MonitorName → Option Monitors
  | .copy => some t.copyMon
  | .load => some t.loadMon
  | .procession => some t.procMon
  | .channel => some t.chanMon
  | .queue => some t.queueMon
  | .traps => none

/-- An image that the boot ROM accepts (R344, R345). -/
structure ImageAccepted (s : State) (b : Bytes) (len : Nat) : Prop where
  header : leNat (b.take 4) = 0x4D494C42 ∧ leNat ((b.drop 4).take 2) = 1 ∧ leNat ((b.drop 6).take 2) = 0 ∧ leNat ((b.drop 96).take 32) = 0
  length : len = leNat ((b.drop 8).take 8) ∧ len % 64 = 0 ∧ len ≤ 16 * 2 ^ 20 - 49984 ∧ 49984 + len ≤ b.length
  load : ∃ load entry, load = leNat ((b.drop 16).take 8) ∧ entry = leNat ((b.drop 24).take 8) ∧ load % 64 = 0 ∧
    load ≤ entry ∧ entry < load + len ∧ load + len ≤ 16 * 2 ^ 20
  key : ∃ j, j < 4 ∧ shake256 ((b.drop 32).take 64) = Config.fusedDigest j ∧ s.revoked.getD j false = false
  signed : verifies ((b.drop 32).take 64) (b.take 128 ++ (b.drop 49984).take len) ((b.drop 128).take 49856) = true

/-- The fabric configuration in a payload (R344): what follows the firmware. -/
def fabricIn (payload : Bytes) : Bytes := payload.drop (Config.firmwareLength payload)

/-- A fabric configuration in the ranges of R317. -/
structure FabricInRange (f : FabricConfig) : Prop where
  device : f.dev < 1024
  routes : f.routes.length = 1024 ∧ ∀ r, r ∈ f.routes → r.1 ≤ 16 ∧ r.2 ≤ 16
  timeout : 1 ≤ f.timeout ∧ f.timeout ≤ 65535

/-- m = SHAKE256(m ‖ SHAKE256(c)) (R346). -/
def measured (m c : Bytes) : Bytes := shake256 (m ++ shake256 c)

/-- Bytes o to o + n − 1 of a report. -/
def Bytes.field (b : Bytes) (o n : Nat) : Bytes := (b.drop o).take n

/-- The contexts that run. -/
def runs (s : State) (tn : Nat) : Prop := ∃ t, tfind s.tenants tn = some t ∧ (t.state = .running ∨ t.state = .frozen)

/-- Every running context has been stopped by a machine check, and saved with state 2 (R305). -/
def allChecked (s u : State) : Prop :=
  (∀ x g, tfind u.groups x = some g → g.live = true → ¬ runs s g.tenant) ∧
    ∀ tn, runs s tn → ∃ c, c ∈ u.saved ∧ c.tenant = tn ∧ c.state = 2

/-! ## Words and steps (R34, R55) -/

/-- The classes whose opcodes R55 assigns to each range. -/
def classRange : EngineClass → Nat × Nat
  | .valu => (0x000, 0x0FF)
  | .salu => (0x100, 0x17F)
  | .mem => (0x180, 0x1FF)
  | .async => (0x200, 0x23F)
  | .mtx => (0x240, 0x27F)
  | .ray => (0x280, 0x2BF)
  | .chan => (0x2C0, 0x2FF)
  | .sys => (0x300, 0x33F)

/-- A word's opcode belongs to a clause's class; NOP's belongs to every one. -/
def wordInClass (w : W64) (c : EngineClass) : Prop :=
  (w.extractLsb' 54 10).toNat = 0 ∨
    ((classRange c).1 ≤ (w.extractLsb' 54 10).toNat ∧ (w.extractLsb' 54 10).toNat ≤ (classRange c).2)

/-- The state in which a turn of the agenda is taken. -/
def State.turned (s : State) (dt : Nat) (rest : List Turn) : State := { s with
  agenda := rest
  now := s.now + dt }

/-- The first of steps 4 to 7 of R34 that an instruction's operands fail. -/
structure FailsStep (i : Iss) (supervisor : Bool) (u : Uses) (code : Nat) : Prop where
  flag : code = 0x02 ↔ (u.fs = .a ∧ i.cl.hdr.flagA = none) ∨ (u.fs = .b ∧ i.cl.hdr.flagB = none)
  scalars : code ≠ 0x02 → (∃ k, k ∈ u.ks ∧ 160 ≤ k) ∨ 0 ∈ u.mdst → code = 0x03
  window : code ≠ 0x02 → (∃ v, v ∈ u.vs ∧ v.code < 384 ∧ 64 ≤ v.code + v.n - 1 ∧ i.g.extent ≤ v.code + v.n - 1 - 64 ∧ 0 < v.n) → code = 0x03
  privileged : code ≠ 0x02 → code ≠ 0x03 → u.priv = true → supervisor = false → code = 0x16
  pending : code = 0x04 → (∃ v, v ∈ u.vs ∧ ∃ r, r ∈ v.names i.g ∧ pendingReg i.g r = true) ∨
    (∃ k, k ∈ u.ks ∧ pendingReg i.g (kName i.g k) = true) ∨ (∃ m, m ∈ u.ms ++ u.mdst ∧ pendingReg i.g (.m m) = true) ∨
    (∃ b, b ∈ u.bufs ∧ pendingReg i.g (.buf b) = true) ∨ ∃ r, r ∈ u.live ∧ ∃ x, x ∈ rangeNames i.g r ∧ pendingReg i.g x = true
  known : code = 0x02 ∨ code = 0x03 ∨ code = 0x16 ∨ code = 0x04

/-- The operand fields and the predicate of the instructions that the tables above give. -/
def operandsOf (ins : Instr) (u : Uses) (p : MCode) : Prop :=
  (∃ L, (valuArith ins = some L ∨ valuLogic ins = some L) ∧ u = L.uses ∧ p = L.pred) ∨
  (∃ F, valuFloat ins = some F ∧ u = F.uses ∧ p = F.pred) ∨
  (∃ S, (saluArith ins = some S ∨ saluLogic ins = some S) ∧ u = S.uses ∧ p = 0) ∨
  (∃ A, (loadSpec ins = some A ∨ storeSpec ins = some A ∨ atomicSpec ins = some A) ∧ u = A.uses ∧ p = A.pred) ∨
  ∃ ka kb kc fs, (ins = .cxsave ka kb kc fs ∨ ins = .cxload ka kb kc fs) ∧ p = 0 ∧
    u = { fs := fs, ks := [ka.toNat, kb.toNat, kc.toNat], priv := true, tracked := 1 }

/-! ## The decoding automaton (R228 to R240, R245) -/

/-- A stream header that passes R229, offsets from the base. -/
structure MeshHeader (s : State) (base : Nat) (m : Mesh) : Prop where
  fixed : readSpace s .d base 4 = 0x3148534D ∧ readSpace s .d (base + 4) 1 = 1 ∧ readSpace s .d (base + 5) 1 < 4 ∧
    readSpace s .d (base + 60) 4 = 0
  counts : m.fords = readSpace s .d (base + 6) 2 ∧ m.fords ≠ 0 ∧ m.tris = readSpace s .d (base + 8) 4 ∧ m.tris ≠ 0 ∧
    m.verts = readSpace s .d (base + 12) 4
  width : m.w = 4 * (readSpace s .d (base + 5) 1 + 1)
  areas : m.symAt = base + readSpace s .d (base + 16) 4 ∧ m.corAt = base + readSpace s .d (base + 20) 4 ∧
    m.dirAt = base + readSpace s .d (base + 24) 4 ∧ m.recAt = base + readSpace s .d (base + 28) 4
  frame : m.origin = [readSpace s .d (base + 32) 4, readSpace s .d (base + 36) 4, readSpace s .d (base + 40) 4] ∧
    m.scale = [readSpace s .d (base + 44) 4, readSpace s .d (base + 48) 4, readSpace s .d (base + 52) 4]
  length : m.symLen = readSpace s .d (base + 56) 4

/-- Directory entry j (R232). -/
def fordEntry (s : State) (m : Mesh) (j : Nat) : FordDir :=
  let f := fun o n => readSpace s .d (m.dirAt + 16 * j + o) n
  ⟨f 0 4, f 4 4, f 8 4, f 12 2, f 14 1⟩

/-- An entry that a walk takes for well formed: as f rises strictly from 0, entry j's is at least j. -/
def fordFits (s : State) (m : Mesh) (j : Nat) : Prop :=
  (fordEntry s m j).state ≤ 2 ∧ readSpace s .d (m.dirAt + 16 * j + 15) 1 = 0 ∧ j ≤ (fordEntry s m j).f ∧
    (j = 0 → fordEntry s m j = ⟨0, 0, 0, (fordEntry s m j).gen, 1⟩)

/-- Bit k of an area as a walk sees it: out of a unit that it has read, or as it stands (R190, R230). -/
def Walk.seesBit (s : State) (w : Walk) (area k : Nat) : Bool :=
  let a := area + k / 8
  match w.units.find? (fun u => u.1 == a / 8 * 8) with
  | some u => u.2.testBit (8 * (a % 8) + k % 8)
  | none => areaBit s area k

/-- n bits of a string from a position, the least significant first (R230). -/
def bitField (bit : Nat → Bool) (pos n : Nat) : Nat := ((List.range n).map fun j => if bit (pos + j) then 2 ^ j else 0).sum

/-- Component j of vertex v's correction, of w bits (R231). -/
def correctionOf (bit : Nat → Bool) (w v j : Nat) : Int := (BitVec.ofNat w (bitField bit (3 * w * v + w * j) w)).toInt

/-- A walk as its units, its header and its record hold it. -/
structure WalkFits (m : Mesh) (w : Walk) : Prop where
  slots : w.head < 16 ∧ w.ga < 16 ∧ w.gb < 16 ∧ w.opp < 16
  positions : ∀ i j, (w.pos i).getD j 0 < 65536
  counts : w.tri < 2 ^ 32 ∧ w.verts < 2 ^ 32 ∧ w.symPos < 2 ^ 32 ∧ ∀ i, tget 0 w.vid i < 2 ^ 32
  units : ∀ u, u ∈ w.units → u.2 < 2 ^ 64
  width : m.w ∈ [4, 8, 12, 16]

/-- predict() of R234, per coordinate. -/
def predicted (w : Walk) (j : Nat) : Int :=
  let at_ := fun i => ((w.pos i).getD j 0 : Int)
  if w.oppValid then (at_ w.ga + at_ w.gb - at_ w.opp) % 65536 else (at_ w.ga + at_ w.gb) / 2

/-- new_vertex(p) of R234: slot h takes the next vertex. -/
structure Introduces (cor : Nat → Bool) (m : Mesh) (p : Nat → Int) (w w' : Walk) : Prop where
  kept : w' = { w with
    verts := w.verts + 1
    head := (w.head + 1) % 16
    valid := w'.valid
    vid := w'.vid
    q := w'.q
    units := w'.units }
  valid : ∀ i, i < 16 → w'.valid.getLsbD i = (w.valid.getLsbD i || i == w.head)
  number : ∀ i, tget 0 w'.vid i = if i = w.head then w.verts else tget 0 w.vid i
  position : ∀ i j, j < 3 → ((w'.pos i).getD j 0 : Int) =
    if i = w.head then (p j + correctionOf cor m.w w.verts j) % 65536 else (w.pos i).getD j 0

/-- The gate after a triangle with apex a, to the right or to the left (R234). -/
def gateMoved (right : Bool) (w : Walk) (a : Nat) : Walk :=
  { w with
    opp := if right then w.ga else w.gb
    ga := if right then w.gb else a
    gb := if right then a else w.ga
    oppValid := true
    tri := w.tri + 1 }

/-- Two walks are the same but for the units that they keep. -/
def sameWalk (x y : Walk) : Prop := x = { y with units := x.units }

/-- A coordinate: origin + q × scale, rounded once; NaN canonical (R231). -/
def dequantised (o sc q b : Nat) : Prop :=
  let x := unpack fmtF32 o
  let y := unpack fmtF32 sc
  (∀ u v, x.value = some u → y.value = some v →
    ∃ fl, roundsOnce fmtF32 .rne (u + q * v) (zeroSumSign .rne [(u, x.sign), (q * v, y.sign)]) (b, fl)) ∧
  (x.isNan = true ∨ y.isNan = true ∨ (y.isInf = true ∧ (q = 0 ∨ (x.isInf = true ∧ x.sign ≠ y.sign))) → b = 0x7FC00000) ∧
  (∀ n, x = .inf n → y.isFin = true → b = if n then 0xFF800000 else 0x7F800000) ∧
  ∀ n, y = .inf n → q ≠ 0 → x.isNan = false → (x.isInf = true → x.sign = n) → b = if n then 0xFF800000 else 0x7F800000

/-- The 16 words of a triangle of slots t that a walk has emitted (R243). -/
structure TriangleHolds (m : Mesh) (w : Walk) (t : Tri) (ws : List Nat) : Prop where
  length : ws.length = 16
  vertices : ∀ k j, k < 3 → j < 3 → dequantised (m.origin.getD j 0) (m.scale.getD j 0)
    ((w.pos ([t.1, t.2.1, t.2.2].getD k 0)).getD j 0) (ws.getD (3 * k + j) 0)
  number : ws.getD 9 0 = w.tri - 1
  vids : ∀ k, k < 3 → ws.getD (10 + k) 0 = tget 0 w.vid ([t.1, t.2.1, t.2.2].getD k 0)
  zeros : ∀ n, 13 ≤ n → n < 16 → ws.getD n 0 = 0

/-- The three vertices of a triangle's 16 words. -/
def triangleVertices (ws : List Nat) : List (List Nat) := [ws.take 3, (ws.drop 3).take 3, (ws.drop 6).take 3]

/-- A ford record (R233). -/
structure RecordHolds (s : State) (a : Nat) (w : Walk) (gen : Nat) : Prop where
  head : readSpace s .d a 4 = w.tri ∧ readSpace s .d (a + 4) 2 = gen ∧ readSpace s .d (a + 6) 1 = w.ga + 16 * w.gb ∧
    readSpace s .d (a + 7) 1 = w.opp + 16 * w.head ∧ readSpace s .d (a + 8) 2 = w.valid.toNat
  flags : readSpace s .d (a + 10) 1 = (if w.gateSet then 1 else 0) + (if w.oppValid then 2 else 0) ∧ readSpace s .d (a + 11) 1 = 0
  place : readSpace s .d (a + 12) 4 = w.symPos ∧ readSpace s .d (a + 16) 4 = w.verts ∧ readSpace s .d (a + 20) 12 = 0
  slots : ∀ i, i < 16 → readSpace s .d (a + 32 + 10 * i) 4 = tget 0 w.vid i ∧
    ∀ j, j < 3 → readSpace s .d (a + 36 + 10 * i + 2 * j) 2 = (w.pos i).getD j 0

/-- An entry that an MPATCH of vertex v makes stale (R245). -/
def staled (s : State) (m : Mesh) (v j : Nat) : Bool :=
  decide (1 ≤ j) && decide (j < m.fords) && (fordEntry s m j).state != 0 && decide (v < (fordEntry s m j).verts)

/-! ## The rasteriser's classification and tiles (R247 to R249) -/

/-- A vertex on the screen (R247), where every value is finite: clip components, NDC and screen coordinates each rounded once. -/
structure OnScreen (r : Raster) (v : List Nat) (w sx sy z : Rat) : Prop where
  at_ : ∃ (m : Nat → Rat) (x : Nat → Rat) (c ndc : Nat → Rat),
    (∀ n, n < 16 → (unpack fmtF32 (r.matrix.getD n 0).toNat).value = some (m n)) ∧
    (∀ j, j < 3 → (unpack fmtF32 (v.getD j 0)).value = some (x j)) ∧
    (∀ n, n < 4 → nearestTo (m (4 * n) * x 0 + m (4 * n + 1) * x 1 + m (4 * n + 2) * x 2 + m (4 * n + 3)) (c n)) ∧
    w = c 3 ∧ w ≠ 0 ∧ (∀ j, j < 3 → nearestTo (c j / w) (ndc j)) ∧ z = ndc 2 ∧
    nearestTo ((ndc 0 + 1) * r.width / 2) sx ∧ nearestTo ((1 - ndc 1) * r.height / 2) sy

/-- Three vertices on the screen, each in front of the viewer. -/
structure TriangleOnScreen (r : Raster) (vs : List (List Nat)) (sx sy z : Nat → Rat) : Prop where
  each : ∀ k, k < 3 → ∃ w, 0 < w ∧ OnScreen r (vs.getD k []) w (sx k) (sy k) (z k)

/-- All three vertices lie beyond one viewport edge. -/
def beyondEdge (r : Raster) (sx sy : Nat → Rat) : Prop :=
  (∀ k, k < 3 → sx k < 0) ∨ (∀ k, k < 3 → (r.width : Rat) < sx k) ∨ (∀ k, k < 3 → sy k < 0) ∨ ∀ k, k < 3 → (r.height : Rat) < sy k

/-- The triangle's vertices seen from a pixel's centre. -/
def fromCentre (sx sy : Nat → Rat) (px py k : Nat) : Rat × Rat × Rat := (sx k - (px + 1 / 2), sy k - (py + 1 / 2), 0)

/-- A pixel of the viewport whose centre lies inside the triangle, edges owned by the top-left rule (R248, R260). -/
def pixelCovered (r : Raster) (sx sy : Nat → Rat) (px py : Nat) : Prop :=
  px < r.width ∧ py < r.height ∧ triCrossed (fromCentre sx sy px py 0) (fromCentre sx sy px py 1) (fromCentre sx sy px py 2)

/-- Tile (tx, ty) meets the triangle's pixel box inside the viewport (R248). -/
def tileMet (r : Raster) (sx sy : Nat → Rat) (tx ty : Nat) : Prop :=
  ∃ px py : Nat, px / 8 = tx ∧ py / 8 = ty ∧ px < r.width ∧ py < r.height ∧
    (∃ k, k < 3 ∧ ⌊sx k⌋ ≤ (px : Int)) ∧ (∃ k, k < 3 ∧ (px : Int) ≤ ⌊sx k⌋) ∧
    (∃ k, k < 3 ∧ ⌊sy k⌋ ≤ (py : Int)) ∧ ∃ k, k < 3 ∧ (py : Int) ≤ ⌊sy k⌋

/-- A tile's key and the count of its numbers (R248). -/
def keyOfTile (r : Raster) (tx ty : Nat) : W64 := BitVec.ofNat 64 (r.target * 2 ^ 32 + ty * 2 ^ 16 + tx)
def nextNumber (r : Raster) (key : W64) : Nat := ((r.tileSeq.find? fun x => x.1 == key).map fun x => x.2).getD 0

/-- v1 to v5 of a tile's fragment group (R248). -/
def fragmentRegs (r : Raster) (sx sy : Nat → Rat) (tx ty : Nat) (regs : SMap W32) : Prop :=
  ∀ l, l < 32 →
    let px := 8 * tx + l % 8
    let py := 8 * ty + l / 8
    let reg := fun n => (tget 0 regs (32 * n + l)).toNat
    reg 1 < 4 ∧ (reg 1 % 2 = 1 ↔ pixelCovered r sx sy px py) ∧ (2 ≤ reg 1 ↔ pixelCovered r sx sy px (py + 4)) ∧
    ∀ y b, (y, b) = (py, 2) ∨ (y, b) = (py + 4, 4) →
      let at_ := fun k => fromCentre sx sy px y k
      let det := edgeU (at_ 1) (at_ 2) + edgeV (at_ 0) (at_ 2) + edgeW (at_ 0) (at_ 1)
      nearestF32 (edgeU (at_ 1) (at_ 2) / det) (reg b) ∧ nearestF32 (edgeV (at_ 0) (at_ 2) / det) (reg (b + 1))

/-- The work that a triangle gives a tile: a fragment group with its registers where it covers a centre there, else a number to skip. -/
def tileGets (r : Raster) (sx sy : Nat → Rat) (tri tx ty : Nat) (x : RasterWork) : Prop :=
  let key := keyOfTile r tx ty
  let n := nextNumber r key
  let met := ∃ px py : Nat, px / 8 = tx ∧ py / 8 = ty ∧ pixelCovered r sx sy px py
  (met → ∃ regs, x = .fragment tri n key regs ∧ fragmentRegs r sx sy tx ty regs) ∧ (¬ met → x = .skip n key)

/-- A small triangle's record (R249); what is not finite in it is not said here. -/
structure SmallRecord (tri : Nat) (sx sy z : Nat → Rat) (b : Bytes) : Prop where
  length : b.length = 48
  number : leNat (b.take 4) = tri % 2 ^ 32
  vertices : ∀ k, k < 3 → (unpack fmtF32 (leNat ((b.drop (4 + 12 * k)).take 4))).value = some (sx k) ∧
    (unpack fmtF32 (leNat ((b.drop (8 + 12 * k)).take 4))).value = some (sy k) ∧
    (unpack fmtF32 (leNat ((b.drop (12 + 12 * k)).take 4))).value = some (z k)
  zeros : leNat (b.drop 40) = 0

end Sys2Proof.Machine
end

