-- ==== Sys2Proof/Certificates/Slice0/Obligations.lean ====
section
/-! DEFINITION. The statements for the provers. -/

open Sys2Proof Sys2Proof.Machine

/-! ## Integer instructions -/

/-- R80, R88, R77: the arithmetic instructions of the VALU, in VR and VI form. R82 to R85, R87, R91: the logical, shift, table,
counting, field, PLSET and move instructions of the VALU. R92 to R94: SEL, LSHUF, BCAST and MOVS (but for %clock) in the VALU; a
lane outside the path is read as it stands (R77). R80, R81, R88, R78: the arithmetic instructions of the SALU, in SR and SI form,
and their condition codes; what V of IADDC and ISUBB of an n-type reports is log entry 68. R82 to R85, R87, R90 to R92, R78: the
logical, shift, counting, field, selecting and move instructions of the SALU. -/
def Obligations.IntegerResults : Prop :=
  (∀ s ins L, valuArith ins = some L → lanesComplete s ins L) ∧
  (∀ s ins L, valuLogic ins = some L → lanesComplete s ins L) ∧
  (∀ s ins L, valuSelect s ins = some L → lanesComplete s ins L) ∧
  (∀ s ins L, saluArith ins = some L → scalarCompletes s ins L) ∧
  (∀ s ins L, saluLogic ins = some L → scalarCompletes s ins L)

/-- R89 and R77: ICMP of the VALU writes its active lanes' bits of the mask, and leaves every other bit. R81: IADDC and ISUBB of
the VALU: the result, and the carry or borrow out in the active lanes of the carry mask. R133: ELECT writes the whole mask: the
lowest active lane's bit alone, or 0 where no lane is active. R89, R90: the SALU instructions that write a mask; the mask is
written whole. R86: FFCS in both units. The VALU form leaves the word with its lowest clear bit set and writes the index after it,
so the index remains where d overlaps a (that d is one register, odd codes among them, is log entry 69); the SALU form also
reports a full word in Z. -/
def Obligations.MaskAndCarryResults : Prop :=
  (∀ s ins M, valuCompare ins = some M → ∀ i, Executes s i M.uses → ∃ g', exec ins s = .next (putGroup s i.gid g') ∧
    (∀ l, l < 32 → laneIn (mGet g' M.mask.toNat) l =
      if laneIn (i.active M.pred) l then M.value i l else laneIn (mGet i.g M.mask.toNat) l) ∧
    RegisterEffect s i g' nowhere nowhere (· = M.mask.toNat) i.slot.path.codes i.g.fflags) ∧
  (∀ s i (sub : Bool) d a b mc p t,
    Executes s i { vrUses t d [a, b] [p] with mdst := [mc.toNat] } →
    ∃ g', exec (if sub then .isubbVr d a b mc p t else .iaddcVr d a b mc p t) s = .next (putGroup s i.gid g') ∧
      (∀ l, l < 32 → laneIn (i.active p) l = true →
        vSpan g' d.toNat l (tyRegs t) = t.held (32 * tyRegs t)
          (BitVec.ofInt _ (carryOf sub (i.bits t a l) (i.bits t b l) (laneIn (mGet i.g mc.toNat) l)))) ∧
      (∀ l, l < 32 → laneIn (mGet g' mc.toNat) l =
        if laneIn (i.active p) l then carryOut sub (i.bits t a l) (i.bits t b l) (laneIn (mGet i.g mc.toNat) l)
        else laneIn (mGet i.g mc.toNat) l) ∧
      RegisterEffect s i g' (i.elements d.toNat (tyRegs t) (i.active p)) nowhere (· = mc.toNat) i.slot.path.codes i.g.fflags) ∧
  (∀ s i md p, Executes s i { ms := [p.toNat], mdst := [md.toNat] } →
    ∃ g', exec (.elect md p) s = .next (putGroup s i.gid g') ∧
      (∀ l, l < 32 → (laneIn (mGet g' md.toNat) l = true ↔
        laneIn (i.active p) l = true ∧ ∀ j, j < l → laneIn (i.active p) j = false)) ∧
      RegisterEffect s i g' nowhere nowhere (· = md.toNat) i.slot.path.codes i.g.fflags) ∧
  (∀ s ins M, saluMasks ins = some M → ∀ i, Executes s i M.uses →
    ∃ g', exec ins s = .next (putGroup s i.gid g') ∧ mGet g' M.dst.toNat = M.value i ∧
      RegisterEffect s i g' nowhere nowhere (· = M.dst.toNat) (i.codesAfter M.cc (M.codes i)) i.g.fflags) ∧
  ((∀ s i d a p, Executes s i { vs := [vreg d, vreg a 2], ms := [p.toNat] } →
    ∃ g', exec (.ffcsVr d a p) s = .next (putGroup s i.gid g') ∧
      (∀ l, l < 32 → laneIn (i.active p) l = true →
        vSpan g' d.toNat l 1 = (ffcsOf (i.bits .b64 a l)).1 ∧
        (d.toNat ≠ a.toNat → d.toNat ≠ a.toNat + 1 → vSpan g' a.toNat l 2 = (ffcsOf (i.bits .b64 a l)).2.toNat)) ∧
      RegisterEffect s i g' (fun x => i.elements d.toNat 1 (i.active p) x ∨ i.elements a.toNat 2 (i.active p) x)
        nowhere nowhere i.slot.path.codes i.g.fflags) ∧
  ∀ s i d a cc, Executes s i { ks := [d.toNat, a.toNat] } →
    ∃ g', exec (.ffcsSr d a cc) s = .next (putGroup s i.gid g') ∧
      kGet g' d.toNat = BitVec.ofNat 64 (ffcsOf (kGet i.g a.toNat)).1 ∧
      (d ≠ a → kGet g' a.toNat = (ffcsOf (kGet i.g a.toNat)).2) ∧
      RegisterEffect s i g' nowhere (fun c => c = d.toNat ∨ c = a.toNat) nowhere
        (i.codesAfter cc ⟨kGet i.g a.toNat == BitVec.allOnes 64, false, false, false⟩) i.g.fflags)

/-- R94, R95: MOVS of a special register into a scalar, MOVS to %fflags, and the readings of the clock: the clocks since the
group's core left reset, where the tenant neither records nor replays an almanac. -/
def Obligations.SpecialRegisterMoves : Prop :=
  (∀ s i d sr, sr ≠ 0 → sr ≠ 3 → sr ≠ 10 → sr.toNat < 14 → Executes s i { ks := [d.toNat] } →
    ∃ g', exec (.movsSr d sr) s = .next (putGroup s i.gid g') ∧ kGet g' d.toNat = BitVec.ofNat 64 (specialOf s i 0 sr.toNat) ∧
      RegisterEffect s i g' nowhere (· = d.toNat) nowhere i.slot.path.codes i.g.fflags) ∧
  (∀ s i a, Executes s i { ks := [a.toNat] } →
    ∃ g', exec (.movsFflagsWrite a) s = .next (putGroup s i.gid g') ∧
      RegisterEffect s i g' nowhere nowhere nowhere i.slot.path.codes ((kGet i.g a.toNat).setWidth 5)) ∧
  (∀ s i d ins, noAlmanac s i.g.tenant → ins = .clock d ∨ ins = .movsSr d 10 → Executes s i { ks := [d.toNat] } →
    ∃ g', exec ins s = .next (putGroup s i.gid g') ∧
      kGet g' d.toNat = BitVec.ofNat 64 (s.now - tget 0 s.coreStart i.g.core) ∧
      RegisterEffect s i g' nowhere (· = d.toNat) nowhere i.slot.path.codes i.g.fflags) ∧
  ∀ s i d p t, noAlmanac s i.g.tenant → Executes s i { vs := [vreg d 2], ms := [p.toNat] } →
    ∃ g', exec (.movsVr d 10 p t) s = .next (putGroup s i.gid g') ∧
      (∀ l, l < 32 → laneIn (i.active p) l = true →
        vSpan g' d.toNat l 2 = (s.now - tget 0 s.coreStart i.g.core) % 2 ^ 64) ∧
      RegisterEffect s i g' (i.elements d.toNat 2 (i.active p)) nowhere nowhere i.slot.path.codes i.g.fflags

/-! ## Float instructions -/

/-- R101, R106 to R119, R61, R77: a float instruction writes each active lane's result and ORs its active lanes' flags into
%fflags; nothing else changes. R109: FCMP compares exact values, quietly; a signalling NaN operand of an active lane sets invalid.
R60, R63, R106, R108, R114 to R117: FADD, FSUB, FMUL, FFMA, PKFMA, FDOT2 and FSCALE round the exact sum, product, sum of products
or scaled value once; FCVT rounds the exact value of its source once, to e4m3 of what the block scale divides it to, where 448
stands for all beyond it (that 448 and 512 are neighbours, and 480 goes to 448, is log entry 63); ICVT rounds an integer once, or
a value to an integer that it clamps. R59, R106, R108, R114 to R117: the special operands of the same instructions. A NaN gives
the canonical NaN, and invalid where it signals; so do opposite infinities and 0 × ∞, with invalid, the latter even beside a NaN;
other infinities go through. -/
def Obligations.FloatResults : Prop :=
  (∀ s ins L, valuFloat ins = some L → ins.wf = true → ∀ i, Executes s i L.uses → ∃ g', exec ins s = .next (putGroup s i.gid g') ∧
    (∀ l, l < 32 → laneIn (i.active L.pred) l = true → vSpan g' L.dst l L.regs = (L.value i l).1 % 2 ^ (32 * L.regs)) ∧
    gathersFlags i.g.fflags g'.fflags (i.active L.pred) (fun l => (L.value i l).2) ∧
    RegisterEffect s i g' (i.elements L.dst L.regs (i.active L.pred)) nowhere nowhere i.slot.path.codes g'.fflags) ∧
  (∀ s i md c a b p na nb aa ab, Executes s i { vs := [vsrc a, vsrc b], ms := [p.toNat], mdst := [md.toNat] } →
    ∃ g', exec (.fcmp md c a b p na nb aa ab) s = .next (putGroup s i.gid g') ∧
      (∀ l, l < 32 → laneIn (mGet g' md.toNat) l =
        if laneIn (i.active p) l then floatCompares c (i.f32 a na aa l) (i.f32 b nb ab l) else laneIn (mGet i.g md.toNat) l) ∧
      gathersFlags i.g.fflags g'.fflags (i.active p)
        (fun l => if (i.f32 a na aa l).isSNan ∨ (i.f32 b nb ab l).isSNan then ffNV else 0) ∧
      RegisterEffect s i g' nowhere nowhere (· = md.toNat) i.slot.path.codes g'.fflags) ∧
  ((∀ f r, f = fmtF32 ∨ f = fmtF16 ∨ f = fmtBf16 →
    (∀ x y z p q w, x.value = some p → y.value = some q → z.value = some w →
      roundsOnce f r (p + q) (zeroSumSign r [(p, x.sign), (q, y.sign)]) (fAdd f r x y) ∧
      roundsOnce f r (p * q) (x.sign != y.sign) (fMul f r x y) ∧
      roundsOnce f r (p * q + w) (zeroSumSign r [(p * q, x.sign != y.sign), (w, z.sign)]) (fFma f r x y z) ∧
      ∀ x' y' p' q', x'.value = some p' → y'.value = some q' → roundsOnce f r (p * q + p' * q' + w)
        (zeroSumSign r [(p * q, x.sign != y.sign), (p' * q', x'.sign != y'.sign), (w, z.sign)]) (fDot2 f r x y x' y' z)) ∧
    (∀ t src x s p, fmtOf t = some f → (floatValue src x s).value = some p →
      roundsOnce f r p (floatValue src x s).sign (fCvt t src r x s)) ∧
    ∀ t src x, fmtOf t = some f → roundsOnce f r (tyVal src x : Int) false (intToFloat t src r x)) ∧
  (∀ r b na aa n p, let x := (unpack fmtF32 b).modify na aa
    x.value = some p → roundsOnce fmtF32 r (p * (2 : Rat) ^ (n : Int)) x.sign (fScale r x n)) ∧
  (∀ r src x s p, (floatValue src x s).value = some p → s < 255 →
    let v := p * (2 : Rat) ^ ((127 : Int) - s)
    let res := fCvt .e4m3 src r x s
    let top := (if p < 0 then 0xFE else 0x7E, ffOF ||| ffNX)
    (512 < |v| → res = top) ∧
    (|v| ≤ 512 → ∃ g, takesNearest e4m3Grid r v g ∧ (|g| = 512 → res = top) ∧
      (|g| < 512 → (unpackE4m3 res.1).value = some g ∧ (res.2.getLsbD 0 = true ↔ g ≠ v) ∧ res.2 &&& (ffNV ||| ffDZ ||| ffOF) = 0 ∧
        (res.2.getLsbD 1 = true ↔ g ≠ v ∧ tinyAfter fmtE4m3 r v) ∧
        (r = .rne → ∀ q, e4m3Grid q → q ≠ g → |q - v| = |g - v| → res.1 % 2 = 0)))) ∧
  ∀ r t src x p, (floatValue src x 127).value = some p →
    ∃ k : Int, takesNearest (fun q => ∃ n : Int, q = n) r p k ∧ (r = .rne → |(k : Rat) - p| = 1 / 2 → k % 2 = 0) ∧
      floatToInt t src r x = if tyMin t ≤ k ∧ k ≤ tyMax t then (wrapBits (tyWidth t) k, if (k : Rat) = p then 0 else ffNX)
        else (wrapBits (tyWidth t) (if k < tyMin t then tyMin t else tyMax t), ffNV)) ∧
  ((∀ f r x y z,
    let nan := fun (xs : List FVal) => (f.nan, if xs.any FVal.isSNan then ffNV else 0)
    let inf := fun (n : Bool) => (withSign f n f.infBits, (0 : FFlags))
    let bad := (f.nan, ffNV)
    (x.isNan = true ∨ y.isNan = true → fAdd f r x y = nan [x, y] ∧ fMul f r x y = nan [x, y]) ∧
    (∀ n, x = .inf n → (y = .inf (!n) → fAdd f r x y = bad) ∧ (y.isNan = false → y ≠ .inf (!n) → fAdd f r x y = inf n) ∧
      (y.isZero = true → fMul f r x y = bad ∧ fFma f r x y z = bad) ∧
      (y.isNan = false → y.isZero = false → fMul f r x y = inf (n != y.sign) ∧
        (z = .inf (n == y.sign) → fFma f r x y z = bad) ∧
        (z.isNan = false → z ≠ .inf (n == y.sign) → fFma f r x y z = inf (n != y.sign)))) ∧
    fMul f r x y = fMul f r y x ∧ fAdd f r x y = fAdd f r y x ∧ fFma f r x y z = fFma f r y x z ∧
    (x.isNan = true ∨ y.isNan = true ∨ (z.isNan = true ∧ ¬ (x.isInf = true ∧ y.isZero = true) ∧ ¬ (x.isZero = true ∧ y.isInf = true)) →
      fFma f r x y z = nan [x, y, z]) ∧
    (x.isFin = true → y.isFin = true → ∀ n, z = .inf n → fFma f r x y z = inf n)) ∧
  (∀ f r x0 y0 x1 y1 z,
    let ops := [x0, y0, x1, y1, z]
    let zeroTimesInf := fun (x y : FVal) => (x.isInf = true ∧ y.isZero = true) ∨ (x.isZero = true ∧ y.isInf = true)
    (zeroTimesInf x0 y0 ∨ zeroTimesInf x1 y1 → fDot2 f r x0 y0 x1 y1 z = (f.nan, ffNV)) ∧
    (¬ zeroTimesInf x0 y0 → ¬ zeroTimesInf x1 y1 → (∃ x, x ∈ ops ∧ x.isNan = true) →
      fDot2 f r x0 y0 x1 y1 z = (f.nan, if ops.any FVal.isSNan then ffNV else 0)) ∧
    ((∀ x, x ∈ ops → x.isNan = false) → ¬ zeroTimesInf x0 y0 → ¬ zeroTimesInf x1 y1 →
      let infs := fun (n : Bool) => ((x0.isInf || y0.isInf) && (x0.sign != y0.sign) == n) ||
        ((x1.isInf || y1.isInf) && (x1.sign != y1.sign) == n) || z == .inf n
      (infs true = true → infs false = true → fDot2 f r x0 y0 x1 y1 z = (f.nan, ffNV)) ∧
      ∀ n, infs n = true → infs (!n) = false → fDot2 f r x0 y0 x1 y1 z = (withSign f n f.infBits, 0))) ∧
  (∀ r n, (∀ sg, fScale r (.nan sg) n = (fmtF32.nan, if sg then ffNV else 0)) ∧
    ∀ s, fScale r (.inf s) n = (withSign fmtF32 s fmtF32.infBits, 0)) ∧
  ∀ t src r x s, (∀ f sg, fmtOf t = some f → floatValue src x s = .nan sg → fCvt t src r x s = (f.nan, if sg then ffNV else 0)) ∧
    (∀ f n, fmtOf t = some f → floatValue src x s = .inf n → fCvt t src r x s = (withSign f n f.infBits, 0)) ∧
    fCvt .e4m3 src r x 255 = (0x7F, ffNV) ∧
    (s ≠ 255 → (∀ sg, floatValue src x s = .nan sg → fCvt .e4m3 src r x s = (0x7F, if sg then ffNV else 0)) ∧
      ∀ n, floatValue src x s = .inf n → fCvt .e4m3 src r x s = (if n then 0xFE else 0x7E, ffOF ||| ffNX)) ∧
    (∀ sg, floatValue src x 127 = .nan sg → floatToInt t src r x = (0, ffNV)) ∧
    ∀ n, floatValue src x 127 = .inf n → floatToInt t src r x = (wrapBits (tyWidth t) (if n then tyMin t else tyMax t), ffNV))

/-- R60, R61: a finite value rounded into f32, f16 or bf16: the representable number that the mode takes, a tie going to the even
fraction, or the mode's result of an overflow; an exact zero sum of operands of opposite sign is +0, but −0 in RDN; overflow,
underflow (tiny after rounding, and inexact) and inexact are set exactly where R61 says. -/
def Obligations.RoundingIsCorrect : Prop :=
  ∀ f r (neg : Bool) (m : Nat) (e : Int), f = fmtF32 ∨ f = fmtF16 ∨ f = fmtBf16 →
    (m = 0 → roundFin f r neg m e false = (withSign f neg 0, 0)) ∧
    (m ≠ 0 → correctlyRounded f r ((if neg then -1 else 1) * m * (2 : ℝ) ^ e) (roundFin f r neg m e false)) ∧
    (∀ x y p, x.value = some p → y.value = some (-p) → x.sign = !y.sign → fAdd f r x y = (withSign f (r == .rdn) 0, 0)) ∧
    Rnd.ofBits 0 = .rne ∧ Rnd.ofBits 1 = .rtz ∧ Rnd.ofBits 2 = .rup ∧ Rnd.ofBits 3 = .rdn

/-- R107, R111: FMIN and FMAX deliver one of their modified operands, chosen and never rounded, a number before a NaN and −0 below
+0; FRINT delivers the integer that its mode takes, with x's sign, and sets no flag but a signalling NaN's invalid. R112's table
of special operands: zeros, infinities, negative values and NaNs, with the flags they set. R112: FRCP, FSQRT and FRSQ deliver the
exact real function value of the modified operand rounded once. Of FEXP2 and FLOG2 this says what R112 names exactly: 2 to an
integer power, everything from 128 on, and the logarithm of a power of two (the rounding of their other values rests on log entry
9). R66 to R69, R115, R118, R119: an lns6 code has its decoded value; FCVT to lns6 counts the thresholds that its source's
magnitude reaches; LMUL adds the codes; LSUM's product is exact. An e4m3 source is taken as the f32 that rounding its scaled value
to nearest gives, and an infinity among them sets invalid alone (log entry 98); a NaR operand of LMUL goes before a zero one (log
entry 64). R68: a value read from lns6 and converted back returns the same code and sets no flag. -/
def Obligations.FunctionAndLnsResults : Prop :=
  ((∀ mx a b na aa nb ab,
    let x := (unpack fmtF32 a).modify na aa
    let y := (unpack fmtF32 b).modify nb ab
    let pa := modifyBits fmtF32 na aa a
    let pb := modifyBits fmtF32 nb ab b
    let res := fMinMax fmtF32 mx x y pa pb
    (x.isNan = true → y.isNan = true → res = (0x7FC00000, if x.isSNan || y.isSNan then ffNV else 0)) ∧
    (x.isNan = true → y.isNan = false → res = (pb, if x.isSNan then ffNV else 0)) ∧
    (x.isNan = false → y.isNan = true → res = (pa, if y.isSNan then ffNV else 0)) ∧
    (x.isNan = false → y.isNan = false → res.2 = 0 ∧ (res.1 = pa ∨ res.1 = pb) ∧ unpack fmtF32 pa = x ∧ unpack fmtF32 pb = y ∧
      let v := unpack fmtF32 res.1
      (if mx then atMost x v ∧ atMost y v else atMost v x ∧ atMost v y) ∧
      (x.isZero = true → y.isZero = true → v.sign = if mx then x.sign && y.sign else x.sign || y.sign))) ∧
  ∀ r a na aa,
    let x := (unpack fmtF32 a).modify na aa
    let raw := modifyBits fmtF32 na aa a
    let res := fRint r x raw
    (∀ sg, x = .nan sg → res = (0x7FC00000, if sg then ffNV else 0)) ∧ (x.isInf = true → res = (raw, 0)) ∧
    ∀ p, x.value = some p → res.2 = 0 ∧ (p = 0 ∨ 2 ^ 23 ≤ |p| → res.1 = raw) ∧ (unpack fmtF32 res.1).sign = x.sign ∧
      ∃ k : Int, (unpack fmtF32 res.1).value = some (k : Rat) ∧ takesNearest (fun q => ∃ n : Int, q = n) r p k ∧
        (r = .rne → |(k : Rat) - p| = 1 / 2 → k % 2 = 0)) ∧
  (∀ r, (∀ n e, fRcp r (.fin n 0 e) = (withSign fmtF32 n fmtF32.infBits, ffDZ) ∧
      fSqrt r (.fin n 0 e) = (withSign fmtF32 n 0, 0) ∧ fRsq r (.fin n 0 e) = (withSign fmtF32 n fmtF32.infBits, ffDZ) ∧
      fExp2 r (.fin n 0 e) = (0x3F800000, 0) ∧ fLog2 r (.fin n 0 e) = (0xFF800000, ffDZ)) ∧
    (∀ n, fRcp r (.inf n) = (withSign fmtF32 n 0, 0)) ∧
    fSqrt r (.inf false) = (0x7F800000, 0) ∧ fRsq r (.inf false) = (0, 0) ∧ fExp2 r (.inf false) = (0x7F800000, 0) ∧
    fLog2 r (.inf false) = (0x7F800000, 0) ∧ fSqrt r (.inf true) = (0x7FC00000, ffNV) ∧ fRsq r (.inf true) = (0x7FC00000, ffNV) ∧
    fExp2 r (.inf true) = (0, 0) ∧ fLog2 r (.inf true) = (0x7FC00000, ffNV) ∧
    (∀ m e, 0 < m → fSqrt r (.fin true m e) = (0x7FC00000, ffNV) ∧ fRsq r (.fin true m e) = (0x7FC00000, ffNV) ∧
      fLog2 r (.fin true m e) = (0x7FC00000, ffNV)) ∧
    ∀ sg f, f = fRcp r ∨ f = fSqrt r ∨ f = fRsq r ∨ f = fExp2 r ∨ f = fLog2 r →
      f (.nan sg) = (0x7FC00000, if sg then ffNV else 0)) ∧
  (∀ r a na aa p, let x := (unpack fmtF32 a).modify na aa
    x.value = some p →
      (p ≠ 0 → correctlyRounded fmtF32 r ((p : ℝ)⁻¹) (fRcp r x)) ∧
      (0 < p → correctlyRounded fmtF32 r (Real.sqrt p) (fSqrt r x) ∧ correctlyRounded fmtF32 r (Real.sqrt p)⁻¹ (fRsq r x)) ∧
      (∀ n : Int, p = n → n < 128 → -149 ≤ n → (fExp2 r x).2 = 0 ∧ (unpack fmtF32 (fExp2 r x).1).value = some ((2 : Rat) ^ n)) ∧
      (128 ≤ p → fExp2 r x = (if r = .rne ∨ r = .rup then 0x7F800000 else 0x7F7FFFFF, ffOF ||| ffNX)) ∧
      ∀ n : Int, p = (2 : Rat) ^ n → (fLog2 r x).2 = 0 ∧ (unpack fmtF32 (fLog2 r x).1).value = some (n : Rat) ∧
        (n = 0 → (fLog2 r x).1 = 0)) ∧
  ((∀ c, 0 < c → c < 32 → (lnsValue c).value = some (lnsDecoded c) ∧ (lnsValue (32 + c)).value = some (-lnsDecoded c)) ∧
  lnsValue 0 = .fin false 0 0 ∧ lnsValue 32 = .nan false ∧ (∀ x, lnsValue x = lnsValue (x % 64)) ∧
  (∀ src r b s w,
    let x := floatValue src b s
    let res := fCvt .lns6 src r b s
    (∀ sg, x = .nan sg → res = (0x20, if sg then ffNV else 0)) ∧
    (x.isNan = false → (if src = .e4m3 then roundsTo .rne x w else w = x) →
      (w.isInf = true → res = (0x20, ffNV)) ∧
      ∀ p, w.value = some p → (p = 0 → res = (0, 0)) ∧
        (p ≠ 0 → ∃ c, c < 32 ∧ (∀ n, n < 31 → (lnsThreshold n ≤ |p| ↔ n < c)) ∧ (c = 0 → res = (0, ffUF ||| ffNX)) ∧
          (c ≠ 0 → res = ((if p < 0 then 32 else 0) + c,
            if lnsThreshold 31 ≤ |p| then ffOF ||| ffNX else if |p| = lnsDecoded c then 0 else ffNX))))) ∧
  (∀ x y,
    let k : Int := (x % 32 : Nat) + (y % 32 : Nat) - 16
    let sign := if x.testBit 5 != y.testBit 5 then 32 else 0
    (x % 64 = 32 ∨ y % 64 = 32 → lnsMul x y = (0x20, 0)) ∧
    (x % 64 ≠ 32 → y % 64 ≠ 32 →
      (x % 32 = 0 ∨ y % 32 = 0 → lnsMul x y = (0, 0)) ∧
      (x % 32 ≠ 0 → y % 32 ≠ 0 → lnsMul x y =
        if k ≤ 0 then (0, ffUF ||| ffNX) else if 32 ≤ k then (sign + 31, ffOF ||| ffNX) else (sign + k.toNat, 0)))) ∧
  ∀ x y, lnsProductOf x y (lnsProduct x y) ∧ (lnsProduct x y).isSNan = false) ∧
  (∀ c, c < 64 → toLns6 (lnsValue c) = (c, 0))

/-- R110: FCLASS writes, in each active lane, a word with the one bit set that names the class of the operand read in the type; it
sets no flag, and changes nothing else. -/
def Obligations.ClassBits : Prop :=
  ∀ s i d a p t f n, Executes s i { vs := [vreg d, vsrc a], ms := [p.toNat] } →
    (t, f, n) = (Ty.f32, fmtF32, 32) ∨ (t, f, n) = (Ty.f16, fmtF16, 16) ∨ (t, f, n) = (Ty.bf16, fmtBf16, 16) →
    ∃ g', exec (.fclass d a p t) s = .next (putGroup s i.gid g') ∧
      (∀ l, l < 32 → laneIn (i.active p) l = true →
        ∃ bit, classBit f (fld (srcLane i.g a.toNat l 1) 0 n) bit ∧ vSpan g' d.toNat l 1 = 2 ^ bit) ∧
      RegisterEffect s i g' (i.elements d.toNat 1 (i.active p)) nowhere nowhere i.slot.path.codes i.g.fflags

/-! ## Memory -/

/-- R160, R164, R166, R171, R24, R25: loads from L, T and D. R160, R164, R166, R171, R174: stores to L, T and D. R160, R167 to
R169, R171, R174: ATOM and RED on T and D; an ATOM with no active lane marks its destination, and its flag keeps its count (log
entry 21). -/
def Obligations.AccessesIssue : Prop :=
  (∀ s ins A, loadSpec ins = some A → accessIssues s ins A ∧ accessWithoutLanes s ins A ∧ accessTraps s ins A) ∧
  (∀ s ins A, storeSpec ins = some A → accessIssues s ins A ∧ accessWithoutLanes s ins A ∧ accessTraps s ins A) ∧
  (∀ s ins A, atomicSpec ins = some A → accessIssues s ins A ∧ accessWithoutLanes s ins A ∧ accessTraps s ins A)

/-- R170, R323: an ATOM or RED on M whose lanes are aligned and all translate to local main memory or to a host page that performs
the operation issues them to their homes, .sys and host lanes through the fabric port; no byte changes yet. Which host addresses
perform one is log entry 89. With no lane active it goes on, its destination marked and its flag's count unchanged (log entry 21).
Where lanes translate to other devices and none meets a fault, it sends nothing to a home yet: it parks, and asks each of those
devices first (log entry 73). -/
def Obligations.AtomicsOnMainIssue : Prop :=
  ∀ s i (ret : Bool) op data addr base p wd sc fs off,
    let n := if wd = .w64 then 2 else 1
    let k := atomOperands op
    let ins := if ret then .atomM op data addr base p wd sc fs off else .redM op data addr base p wd sc off
    let va := fun l => i.address base (srcLane i.g addr.toNat l 1) off
    let lane := fun (l pa : Nat) => (⟨l, pa, if k = 0 then 0 else srcLane i.g data.toNat l n,
      if k = 2 then srcLane i.g (data.toNat + n) l n else 0⟩ : LaneReq)
    let act := (List.range 32).filter (laneIn (i.active p))
    let main := act.filterMap fun l => match translate s i.g.tenant (va l) .write with
      | .ok (.main pa) => some (lane l pa)
      | _ => none
    let host := act.filterMap fun l => match translate s i.g.tenant (va l) .write with
      | .ok (.host pa) => some (lane l pa)
      | _ => none
    let flag := if ret then i.flag fs else none
    let d := vName i.g data.toNat
    Executes s i {
      fs := if ret then fs else .none
      vs := [⟨if ret || k = 2 then .register else .source, data.toNat, n * max 1 k⟩, vsrc addr]
      ks := [base.toNat], ms := [p.toNat], tracked := if ret then n else 0 } →
    i.g.park = none →
    let here := fun l => (∃ pa, translate s i.g.tenant (va l) .write = .ok (.main pa)) ∨
      ∃ pa, translate s i.g.tenant (va l) .write = .ok (.host pa) ∧ (op = .add ∨ op = .sub ∨ op = .exch ∨ op = .cas) ∧
        Config.hostTakesAtomics pa = true
    let there := fun l => ∃ dev a, translate s i.g.tenant (va l) .write = .ok (.remote dev a)
    (i.active p = 0 → ∃ t, exec ins s = .next t ∧ t = { s with
      groups := t.groups
      nextSeq := s.nextSeq + 1 } ∧ i.owes s t (if ret then regSpan d n else []) flag 0) ∧
    ((∀ l, l < 32 → laneIn (i.active p) l = true → va l % widthBytes wd = 0 ∧ (here l ∨ there l)) →
      (∃ l, l < 32 ∧ laneIn (i.active p) l = true ∧ there l) →
      ∃ t wt bad, exec ins s = .next t ∧ sameBytes s t ∧ t.reqs = s.reqs ∧ t.owed = s.owed ∧
        i.parkedAt t (fun w => w = .remote true wt bad [] [] []) ∧
        ∀ l, l ∈ wt ++ bad ↔ l < 32 ∧ laneIn (i.active p) l = true ∧ there l) ∧
    (sliceFull s i.g.core .m main = false → i.active p ≠ 0 →
    (∀ l, l < 32 → laneIn (i.active p) l = true → va l % widthBytes wd = 0 ∧ here l) →
    ∃ t m h, exec ins s = .next t ∧
      t = { s with
        reqs := s.reqs ++ m ++ h
        owed := s.owed ++ if ret then [i.newOwed s .mainAtomic flag (regSpan d n) (m ++ h).length] else []
        groups := t.groups
        partitions := t.partitions
        cache := t.cache
        nextId := t.nextId
        nextSeq := s.nextSeq + 1 } ∧
      Covers m main ∧ Covers h host ∧
      (∀ r, r ∈ m ++ h → RequestFields s i r (if r ∈ m then .m else .host)
        (.atomic op (wd == .w64) (if ret then some (d, d) else none)) p (if ret then some s.nextId else none) ∧
        r.port = if r ∈ m ∧ sc ≠ .sys then i.g.core else fabricPort) ∧
      i.owes s t (if ret then regSpan d n else []) flag 1)

/-- R166, R169, R177, R189: what a bank does with a request at its execution point. A store leaves its lanes' bytes; an atomic
applies its lanes in ascending order, each reading what those before it left, and returns what R168 says; a load and an MWAIT
change no byte. On M an atomic reads a lane's word and writes it at its next step, at which it reads the next lane's (log entry
15). No byte outside the lanes' words changes, and the results gathered are those of R166 to R168. A store to a registered
barrier's record is lost (log entry 70). -/
def Obligations.RequestsPerform : Prop :=
  (∀ s r w, r.kind = .store w → Performable s r (widthBytes w) →
    ∃ t, exec (.accessPerformed r.id) s = .next t ∧ sameBytesBut s t (r.touches (widthBytes w)) ∧
      (∀ a, a % widthBytes w = 0 →
        readSpace t r.space a (widthBytes w) =
          storedAfter a (r.landing s (widthBytes w)) (readSpace s r.space a (widthBytes w)) % 256 ^ widthBytes w) ∧
      (r.owed = none → t.owed = s.owed) ∧ t.groups = s.groups ∧ ∀ q, q ∈ t.reqs → q.id ≠ r.id) ∧
  (∀ s r w d, r.kind = .load w d → Performable s r (widthBytes w) →
    ∃ t, exec (.accessPerformed r.id) s = .next t ∧ sameBytes s t ∧ t.groups = s.groups ∧
      resultGains s t r.owed (r.lanes.flatMap fun l =>
        let x := readSpace s r.space l.addr (widthBytes w)
        spanWrites (regPlus d l.y) l.lane (widthRegs w)
          (if w = .s8 then ((BitVec.ofNat 8 x).signExtend 32).toNat
            else if w = .s16 then ((BitVec.ofNat 16 x).signExtend 32).toNat else x)) ∧
      ∀ q, q ∈ t.reqs → q.id ≠ r.id) ∧
  (∀ s r op wide ret, r.kind = .atomic op wide ret → r.space ≠ .m → Performable s r (if wide then 8 else 4) →
    op.widthOk (if wide then .w64 else .w32) = true →
    let n := if wide then 8 else 4
    let old := fun a => BitVec.ofNat (8 * n) (readSpace s r.space a n)
    ∃ t, exec (.accessPerformed r.id) s = .next t ∧ sameBytesBut s t (r.touches n) ∧ t.groups = s.groups ∧
      (∀ a, a % n = 0 → readSpace t r.space a n = (wordAfter op a (r.landing s n) (old a)).toNat) ∧
      (r.owed = none → t.owed = s.owed) ∧
      (∀ d, ret = some (d, d) → resultGains s t r.owed ((List.range r.lanes.length).flatMap fun j =>
        (r.lanes[j]?).elim [] fun l => spanWrites d l.lane (if wide then 2 else 1)
          (atomResult op (wordAfter op l.addr (({ r with lanes := r.lanes.take j } : Req).landing s n) (old l.addr)) (BitVec.ofNat _ l.x) (BitVec.ofNat _ l.y)).2.toNat)) ∧
      ∀ q, q ∈ t.reqs → q.id ≠ r.id) ∧
  (∀ s r op wide ret l rest, r.kind = .atomic op wide ret → r.space = .m → r.lanes = l :: rest →
    Performable s r (if wide then 8 else 4) →
    ∃ t, exec (.accessPerformed r.id) s = .next t ∧ sameBytes s t ∧ t.groups = s.groups ∧ t.owed = s.owed ∧
      t.reqs = s.reqs.map fun q => if q.id = r.id then { q with held := some (readSpace s .m l.addr (if wide then 8 else 4)) } else q) ∧
  (∀ s r op wide ret l rest x, r.kind = .atomic op wide ret → r.space = .m → r.lanes = l :: rest → r.held = some x →
    s.reqs.find? (fun q => q.id == r.id) = some r → op.widthOk (if wide then .w64 else .w32) = true →
    let n := if wide then 8 else 4
    let res := atomResult op (BitVec.ofNat (8 * n) x) (BitVec.ofNat _ l.x) (BitVec.ofNat _ l.y)
    let ws := match ret with
      | some (d, _) => spanWrites d l.lane (if wide then 2 else 1) res.2.toNat
      | none => []
    x < 2 ^ (8 * n) → ∃ t, exec (.accessPerformed r.id) s = .next t ∧ sameBytesBut s t (bytesFrom .m l.addr n) ∧
      readSpace t .m l.addr n = res.1.toNat ∧ t.groups = s.groups ∧
      (rest = [] → resultGains s t r.owed ws ∧ ∀ q, q ∈ t.reqs → q.id ≠ r.id) ∧
      ∀ l' more, rest = l' :: more →
        t.owed = (s.owed.map fun o => if r.owed = some o.id then { o with writes := o.writes ++ ws } else o) ∧
        ∀ q, q ∈ t.reqs → q.id = r.id → q.lanes = rest ∧ q.held = some (readSpace t .m l'.addr n)) ∧
  ∀ s r wide e d l rest, r.kind = .mwait wide e d false none → r.lanes = l :: rest → Performable s r 1 →
    let n := if wide then 8 else 4
    let x := readSpace s r.space l.addr n
    ∃ t, exec (.accessPerformed r.id) s = .next t ∧ sameBytes s t ∧ t.groups = s.groups ∧
      (x ≠ e → (∀ q, q ∈ t.reqs → q.id ≠ r.id) ∧ resultGains s t r.owed
        (((List.range 32).filter (laneIn r.active)).flatMap fun l => spanWrites d l (if wide then 2 else 1) x)) ∧
      (x = e → t.owed = s.owed ∧ ∃ q, q ∈ t.reqs ∧ q.id = r.id ∧ q.kind = .mwait wide e d true none ∧ q.arrived = none)

/-- R173, R176, R182: BARINIT with a count of 1 to 256 registers the barrier, epoch and byte counts 0 and the count due; with 0 it
removes the address from the registry. Every waiter parked on it is released, one whose phase had completed with that phase's
fault, and no other byte of T changes. It waits for the group's earlier stores to those 16 bytes. R173, R176, R185: BAREXP adds to
the bytes owed, BARARR arrives; both then test completion, and the record in T shows the outcome. BARARR is a release at team
scope: what the group has issued, and what counts as performed for it, counts so for the team from then on, and it waits for no
access but its path's MWAITs (log entries 15 and 20). A second arrival in a phase traps with 0x01. An arrival of a phase that a
fault has completed early takes that fault, and counts against the phase that runs (log entry 93). R176, R185: BARWAIT and BARAW.
A wait whose phase has completed resumes at once with the codes of that phase's fault; one whose phase is open parks the group; a
waiter that a BARINIT released resumes with V alone, or with the fault of a phase that had completed; a group that has not arrived
traps. BARAW releases and arrives first, once its path's MWAITs are over (log entry 20), and goes on at once where its arrival
completes the phase or belongs to one that a fault completed (log entry 93). -/
def Obligations.BarriersCount : Prop :=
  (∀ s i data base off t,
    let a := i.address base 0 off
    let n := i.operand data
    Executes s i { vs := [vbro data], ks := [base.toNat] } → i.g.park = none → tfind s.teams i.g.team = some t →
    allocated s i.g .t true a 16 → a % 16 = 0 → n ≤ 256 →
    (t.barriers.length < 16 ∨ (t.barriers.find? fun b => b.addr == a).isSome = true) →
    (¬ quietOn s i (.t i.g.team) a 16 → exec (.barinit data base off) s = .next s) ∧
    (quietOn s i (.t i.g.team) a 16 → ∃ u, exec (.barinit data base off) s = .next u ∧
      (0 < n → holdsBarrier u i.g.team ⟨a, 0, 0, n, n, 0, 0, [], 0⟩) ∧
      (n = 0 → ∀ x, tfind u.teams i.g.team = some x → ∀ b, b ∈ x.barriers → b.addr ≠ a) ∧
      sameBytesBut s u (barrierBytes i.g.team a) ∧
      (∃ g', tfind u.groups i.gid = some g' ∧ OweEffect s i g' [] none 0 i.slot.path.codes) ∧
      ∀ x g, x ≠ i.gid → tfind s.groups x = some g →
        tfind u.groups x = some (match g.park with
          | some ⟨sl, c, .barrier b e none⟩ =>
            let ended := (t.barriers.find? fun y => y.addr == a).bind fun y => (y.arrivals.find? fun z => z.gid == x).bind fun z => z.done
            if g.team = i.g.team ∧ b = a then
              { g with park := some ⟨sl, c, match ended with
                | some f => .barrier b e (some f)
                | none => .barrierReleased⟩ }
            else g
          | _ => g))) ∧
  ((∀ s i data base off b, Executes s i { vs := [vbro data], ks := [base.toNat] } → AtBarrier s i (i.address base 0 off) b →
    b.owed + i.operand data < 2 ^ 32 →
    ∃ t b', exec (.barexp data base off) s = .next t ∧ afterTest { b with owed := b.owed + i.operand data } b' ∧
      holdsBarrier t i.g.team b' ∧ sameBytesBut s t (barrierBytes i.g.team b.addr) ∧ i.movedOn s t) ∧
  (∀ s i base off b, Executes s i { ks := [base.toNat] } → AtBarrier s i (i.address base 0 off) b →
    b.arrived i.gid = false →
    (waitsOver s i → ∃ t b' y, exec (.bararr base off) s = .next t ∧ arrives b i.gid b' y ∧ holdsBarrier t i.g.team b' ∧
      sameBytesBut s t (barrierBytes i.g.team b.addr) ∧ i.movedOn s t ∧ releasedTo s i .team t.reqs) ∧
    (¬ waitsOver s i → exec (.bararr base off) s = .next s)) ∧
  ∀ s i base off b, Executes s i { ks := [base.toNat] } → AtBarrier s i (i.address base 0 off) b →
    b.arrived i.gid = true → exec (.bararr base off) s = .next (raise s i 0x01)) ∧
  ((∀ s i base off b x f, Executes s i { ks := [base.toNat] } → AtBarrier s i (i.address base 0 off) b → i.g.park = none →
    b.arrivals.find? (fun y => y.gid == i.gid) = some x → x.done = some f →
    ∃ g', exec (.barwait base off) s = .next (putGroup s i.gid g') ∧ OweEffect s i g' [] none 0 (barrierCodes f)) ∧
  (∀ s i base off b x, Executes s i { ks := [base.toNat] } → AtBarrier s i (i.address base 0 off) b → i.g.park = none →
    b.arrivals.find? (fun y => y.gid == i.gid) = some x → x.done = none →
    ∃ t, exec (.barwait base off) s = .next t ∧ i.parkedAt t (fun w => w = .barrier b.addr x.epoch none) ∧ sameBytes s t ∧
      othersKept s t i.gid) ∧
  (∀ s i base off b, Executes s i { ks := [base.toNat] } → AtBarrier s i (i.address base 0 off) b → i.g.park = none →
    b.arrivals.find? (fun y => y.gid == i.gid) = none → exec (.barwait base off) s = .next (raise s i 0x01)) ∧
  (∀ s i base off ins r, ins = .barwait base off ∨ ins = .baraw base off → Executes s i { ks := [base.toNat] } →
    i.g.park = some r →
    (r.why = .barrierReleased →
      ∃ g', exec ins s = .next (putGroup s i.gid g') ∧ OweEffect s i g' [] none 0 ⟨false, false, false, true⟩) ∧
    ∀ a e f, r.why = .barrier a e (some f) →
      ∃ g', exec ins s = .next (putGroup s i.gid g') ∧ OweEffect s i g' [] none 0 (barrierCodes f)) ∧
  ∀ s i base off b, Executes s i { ks := [base.toNat] } → AtBarrier s i (i.address base 0 off) b → i.g.park = none →
    b.arrived i.gid = false →
    (¬ waitsOver s i → exec (.baraw base off) s = .next s) ∧
    (waitsOver s i → ∃ t b' y, exec (.baraw base off) s = .next t ∧ arrives b i.gid b' y ∧ holdsBarrier t i.g.team b' ∧
      sameBytesBut s t (barrierBytes i.g.team b.addr) ∧ othersKept s t i.gid ∧ releasedTo s i .team t.reqs ∧
      match y.done with
      | some f => ∃ g', tfind t.groups i.gid = some g' ∧ OweEffect s i g' [] none 0 (barrierCodes f)
      | none => i.parkedAt t fun w => w = .barrier b.addr y.epoch none))

/-- R177: MWAIT with an active lane sends one request for one word, whose expected value is data in the lowest active lane, and
owes the word; with none it sends none. R178, R184: a FENCE completes at issue in every kind and scope, and leaves an open fence
over the group's earlier accesses; until its condition holds, an instruction of any class but VALU and SALU leaves the state as it
is. A release at .team makes what it passes on count for the team and waits for MWAITs alone; one at .clus or .dev makes accesses
of host pages count for the module and waits for the others; one at .sys waits for all (log entry 15). R24, R25, R100, R177: a
result with nothing outstanding is written to its registers, elements of spilled register-stack entries to the register area
(R18), and its flag falls by 1, never below 0; the word of an MWAIT that a write made differ joins its result. A result owed to a
group that has ended is discarded, and with the last one that has a destination the group and its budget go. -/
def Obligations.WaitsAndFences : Prop :=
  (∀ s i data base p wd fs off,
    let n := widthRegs wd
    let a := i.address base 0 off
    let d := vName i.g data.toNat
    let u : Uses := { fs := fs, vs := [vreg data n], ks := [base.toNat], ms := [p.toNat], tracked := n }
    Executes s i u →
    (i.active p = 0 → ∃ t, exec (.mwait data base p wd fs off) s = .next t ∧ t.reqs = s.reqs ∧ t.owed = s.owed ∧
      i.owes s t (regSpan d n) (i.flag fs) 0) ∧
    ∀ low, low < 32 → laneIn (i.active p) low = true → (∀ l, l < low → laneIn (i.active p) l = false) →
      allocated s i.g .d false a (widthBytes wd) → a % widthBytes wd = 0 → sliceFull s i.g.core .d [⟨low, a, 0, 0⟩] = false →
      ∃ t r, exec (.mwait data base p wd fs off) s = .next t ∧
        t = { s with
          reqs := s.reqs ++ [r]
          owed := s.owed ++ [i.newOwed s .mwait (i.flag fs) (regSpan d n) 1]
          groups := t.groups
          partitions := t.partitions
          nextId := t.nextId
          nextSeq := s.nextSeq + 1 } ∧
        RequestFields s i r .d (.mwait (wd == .w64) (srcLane i.g data.toNat low n) d false none) p (some s.nextId) ∧
        r.lanes = [⟨low, a, 0, 0⟩] ∧ r.line = a / 128 ∧ r.port = i.g.core ∧ i.owes s t (regSpan d n) (i.flag fs) 1) ∧
  ((∀ s i ins sc acq rel, (ins, acq, rel) = (.fence sc, true, true) ∨ (ins, acq, rel) = (.fenceAcq sc, true, false) ∨
      (ins, acq, rel) = (.fenceRel sc, false, true) → Executes s i {} →
    ∃ g' rs, exec ins s = .next (putGroup { s with
        reqs := rs
        nextSeq := s.nextSeq + 1 } i.gid g') ∧ i.advanced s.now g' i.slot.path.codes ∧
      (rel = true → sc = .team → releasedTo s i .team rs) ∧ (rel = false ∨ sc = .sys → rs = s.reqs) ∧
      (rel = true → sc = .clus ∨ sc = .dev → rs = s.reqs.map fun r =>
        if (r.gid == i.gid || r.covers i.g.team i.g.core) && !r.isMwait && r.space == .host then { r with reach := r.reach.or .dev }
        else r) ∧
      (∃ fs, g' = { i.g with
        fences := fs
        slot0 := g'.slot0
        slot1 := g'.slot1
        park := none } ∧ ⟨acq, rel && sc != .team, rel && sc == .team, sc == .sys, s.nextSeq⟩ ∈ fs ∧
        ∀ f, f ∈ i.g.fences → fenceMet s i.gid i.g f = false → f ∈ fs)) ∧
  ∀ s i uf p k f, issuer s = some i → f ∈ i.g.fences → i.cl.hdr.cls ≠ .valu → i.cl.hdr.cls ≠ .salu →
    ((f.rel = true ∧ ∃ r, r ∈ s.reqs ∧ (r.gid = i.gid ∨ r.covers i.g.team i.g.core = true) ∧ r.seq < f.seq ∧
        r.isMwait = false ∧ (f.sys = true ∨ r.space ≠ .host)) ∨
      ((f.rel = true ∨ f.team = true) ∧ ∃ r, r ∈ s.reqs ∧ r.gid = i.gid ∧ r.seq < f.seq ∧ r.isMwait = true ∧ r.isCaptured = false ∧
        r.path ≠ 0) ∨
      (f.acq = true ∧ ∃ o, o ∈ s.owed ∧ o.gid = i.gid ∧ o.kind.bindsAcq = true ∧ o.seq < f.seq)) →
    issueG s uf p k = .next s) ∧
  ((∀ s o g, s.owed.find? (fun x => x.id == o.id) = some o → o.parts = 0 → tfind s.groups o.gid = some g → g.live = true →
    (∀ r n x, RegWrite.lane r n x ∈ o.writes → ∀ m, r = .stack m → g.resBase ≤ m) →
    ∃ t g', exec (.resultArrival o.id) s = .next t ∧ sameBytes s t ∧ othersKept s t o.gid ∧
      t.owed = s.owed.filter (fun x => x.id != o.id) ∧ tfind t.groups o.gid = some g' ∧
      (∀ n, flagCount g' n = flagCount g n - if o.flag = some n then 1 else 0) ∧
      g' = { applyWrites g o.writes with flags := g'.flags }) ∧
  (∀ s o g n l x, s.owed.find? (fun x => x.id == o.id) = some o → o.parts = 0 → tfind s.groups o.gid = some g → g.live = true →
    o.writes = [.lane (.stack n) l x] → n < g.resBase →
    let a := g.lBase + 0x3000 + 128 * n + 4 * l
    ∃ t g', exec (.resultArrival o.id) s = .next t ∧ readSpace t .d a 4 = x.toNat ∧
      sameBytesBut s t (fun sp b => sp = .d ∧ a ≤ b ∧ b < a + 4) ∧ tfind t.groups o.gid = some g' ∧ g'.vregs = g.vregs) ∧
  (∀ s o, s.owed.find? (fun x => x.id == o.id) = some o → o.parts ≠ 0 → exec (.resultArrival o.id) s = .next s) ∧
  (∀ s o g, s.owed.find? (fun x => x.id == o.id) = some o → o.parts = 0 → tfind s.groups o.gid = some g → g.live = false →
    ∃ t, exec (.resultArrival o.id) s = .next t ∧ sameBytes s t ∧ othersKept s t o.gid ∧
      t.owed = s.owed.filter (fun x => x.id != o.id) ∧
      tfind t.groups o.gid = if ∃ q, q ∈ s.owed ∧ q.id ≠ o.id ∧ q.gid = o.gid ∧ q.dests ≠ [] then some g else none) ∧
  ∀ s r wide e d x, s.reqs.find? (fun q => q.id == r.id) = some r → r.kind = .mwait wide e d true (some x) →
    ∃ t, exec (.mwaitWake r.id) s = .next t ∧ sameBytes s t ∧ t.groups = s.groups ∧
      t.reqs = s.reqs.filter (fun q => q.id != r.id) ∧
      resultGains s t r.owed (((List.range 32).filter (laneIn r.active)).flatMap fun l => spanWrites d l (if wide then 2 else 1) x))

/-! ## Control, frames and paths -/

/-- R30, R22, R34, R96: NOP changes no state but the slot's place: the next instruction of the clause, or, after its last one, the
header after the clause, where the gap and the give-way bit bind the next clause. RHEAD does the same and stages its registers.
R97, R98, R45: BRA goes to its target when its condition holds and on otherwise; JMP goes to the address in its scalar, or traps
with 0x05 where that is no multiple of 8. R46 on the codes that a subtraction or ICMP leaves (R78): each condition is the
comparison of its name; AL is always taken, and MZ, MNZ and MALL test the mask. -/
def Obligations.ControlFlow : Prop :=
  ((∀ s i, Executes s i {} → ∃ g' sl, exec .nop s = .next (putGroup s i.gid g') ∧ sameButSlots i i.g g' ∧ slotOf g' i.n = some sl ∧
    sl.path.mask = i.slot.path.mask ∧ sl.path.codes = i.slot.path.codes ∧ sl.path.token = i.slot.path.token ∧
    (i.slot.path.ix + 1 < i.cl.words.length → sl.path.hdr = i.slot.path.hdr ∧ sl.path.ix = i.slot.path.ix + 1 ∧
      sl.clause = some i.cl) ∧
    (i.cl.words.length ≤ i.slot.path.ix + 1 → sl.path.hdr = i.nextClause ∧ sl.path.ix = 0 ∧ sl.clause = none ∧
      sl.notBefore = s.now + 1 + i.cl.hdr.gap ∧ sl.giveWay = i.cl.hdr.giveWay)) ∧
  ∀ s i s1 n1 s2 n2, Executes s i { ranges := [(s1.toNat, n1.toNat), (s2.toNat, n2.toNat)] } →
    ∃ g' near, exec (.rhead s1 n1 s2 n2) s = .next (putGroup s i.gid g') ∧ sameButSlots i { i.g with near := near } g' ∧
      i.advanced s.now g' i.slot.path.codes ∧
      ∀ c, c ∈ near ↔ (s1.toNat ≤ c ∧ c < s1.toNat + n1.toNat) ∨ (s2.toNat ≤ c ∧ c < s2.toNat + n2.toNat)) ∧
  ((∀ s i c mk off, Executes s i { ms := if c = .mz ∨ c = .mnz ∨ c = .mall then [mk.toNat] else [] } →
    ∃ g', exec (.bra c mk off) s = .next (putGroup s i.gid g') ∧ sameButSlots i i.g g' ∧
      if condHolds c i.slot.path.codes (mGet i.g mk.toNat) then i.jumped s.now g' (i.target off)
      else i.advanced s.now g' i.slot.path.codes) ∧
  ∀ s i a, Executes s i { ks := [a.toNat] } →
    ((kGet i.g a.toNat).toNat % 8 = 0 → ∃ g', exec (.jmp a) s = .next (putGroup s i.gid g') ∧ sameButSlots i i.g g' ∧
      i.jumped s.now g' (kGet i.g a.toNat).toNat) ∧
    ((kGet i.g a.toNat).toNat % 8 ≠ 0 →
      exec (.jmp a) s = .next (raiseAt s i 0x05 0 i.slot.path.mask (kGet i.g a.toNat).toNat))) ∧
  (∀ w (x y : BitVec w) m, 0 < w →
    let k := codesOfDifference x y false (x - y)
    (condHolds .eq k m = true ↔ x = y) ∧ (condHolds .ne k m = true ↔ x ≠ y) ∧
    (condHolds .lt k m = true ↔ x.toInt < y.toInt) ∧ (condHolds .ge k m = true ↔ y.toInt ≤ x.toInt) ∧
    (condHolds .gt k m = true ↔ y.toInt < x.toInt) ∧ (condHolds .le k m = true ↔ x.toInt ≤ y.toInt) ∧
    (condHolds .ltu k m = true ↔ x.toNat < y.toNat) ∧ (condHolds .geu k m = true ↔ y.toNat ≤ x.toNat) ∧
    (condHolds .gtu k m = true ↔ y.toNat < x.toNat) ∧ (condHolds .leu k m = true ↔ x.toNat ≤ y.toNat) ∧
    (condHolds .vs k m = true ↔ x.toInt - y.toInt < -2 ^ (w - 1) ∨ 2 ^ (w - 1) ≤ x.toInt - y.toInt) ∧
    (condHolds .vc k m = true ↔ -2 ^ (w - 1) ≤ x.toInt - y.toInt ∧ x.toInt - y.toInt < 2 ^ (w - 1)) ∧ condHolds .al k m = true ∧
    (condHolds .mz k m = true ↔ ∀ l, l < 32 → laneIn m l = false) ∧ (condHolds .mnz k m = true ↔ ∃ l, l < 32 ∧ laneIn m l = true) ∧
    (condHolds .mall k m = true ↔ ∀ l, l < 32 → laneIn m l = true))

/-- R17, R99, R301: CALL, RET and FRAME move the window where no join record is outstanding, the group is in no handler, and every
entry and link concerned is resident: the link is pushed or popped, W and E move, and RET's code returns to the link's header. A
CALL with s > E and a FRAME with e > S trap with 0x03; each with a join record outstanding, and a RET at depth 0, with 0x01; a
FRAME beyond the register area with 0x08 and cause 3. R18, R299: a FRAME whose entries are not all resident is serviced and
executes again: res_base rises, never above W, until the window fits; every entry that leaves is written to the register area,
where each lane's word is found, and no other byte changes. The slot stays at the FRAME, and one register-overflow trap is
counted. R18, R299: a RET whose caller's entries are not resident is serviced and executes again: res_base falls exactly to W − s,
and the entries below the old res_base hold what the register area holds. R164, R299: a CALL that finds all 16 links resident is
serviced and executes again: each of them is written to the link area, in the form that no rule gives (log entry 10), and none
stays; a CALL past 1,024 links traps with cause 3 (R301). A RET that finds none resident has the last 16 brought back from the
area: the links that were written there, or what other bytes stand for, which is free (log entry 10). One trap is counted, and no
other byte changes. -/
def Obligations.WindowsMove : Prop :=
  ((∀ s i sh off, i.g.handler = none → i.g.joins = [] → Executes s i {} → sh.toNat ≤ i.g.extent → i.g.resLinks ≠ 16 →
    ∃ g', exec (.call sh off) s = .next (putGroup s i.gid g') ∧ sameButSlots i { i.g with
        links := ⟨i.nextClause, sh.toNat, i.g.extent⟩ :: i.g.links
        resLinks := i.g.resLinks + 1
        window := i.g.window + sh.toNat
        extent := i.g.extent - sh.toNat
        near := [] } g' ∧ i.jumped s.now g' (i.target off)) ∧
  (∀ s i l rest, i.g.handler = none → i.g.joins = [] → Executes s i {} → i.g.links = l :: rest → i.g.resLinks ≠ 0 →
    i.g.resBase + l.shift ≤ i.g.window →
    ∃ g', exec .ret s = .next (putGroup s i.gid g') ∧ sameButSlots i { i.g with
        links := rest
        resLinks := i.g.resLinks - 1
        window := i.g.window - l.shift
        extent := l.extent
        near := [] } g' ∧ i.jumped s.now g' l.ret) ∧
  (∀ s i sh off, Executes s i {} → i.g.extent < sh.toNat → exec (.call sh off) s = .next (raise s i 0x03)) ∧
  (∀ s i e, Executes s i {} → i.g.budget - 64 < e.toNat → exec (.frame e) s = .next (raise s i 0x03)) ∧
  (∀ s i ins, i.g.handler = none → i.g.joins ≠ [] → Executes s i {} →
    (∃ sh off, ins = .call sh off ∧ sh.toNat ≤ i.g.extent) ∨ ins = .ret ∨ (∃ e, ins = .frame e ∧ e.toNat ≤ i.g.budget - 64) →
    exec ins s = .next (raise s i 0x01)) ∧
  (∀ s i, i.g.handler = none → i.g.joins = [] → Executes s i {} → i.g.links = [] → exec .ret s = .next (raise s i 0x01)) ∧
  (∀ s i e, i.g.handler = none → i.g.joins = [] → Executes s i {} → e.toNat ≤ i.g.budget - 64 →
    i.g.regArea < 128 * (i.g.window + e.toNat) → exec (.frame e) s = .next (raiseAt s i 0x08 3 i.slot.path.mask 0)) ∧
  ∀ s i e, i.g.handler = none → i.g.joins = [] → Executes s i {} → e.toNat ≤ i.g.budget - 64 →
    128 * (i.g.window + e.toNat) ≤ i.g.regArea → i.g.window + e.toNat ≤ i.g.resBase + (i.g.budget - 64) →
    ∃ g', exec (.frame e) s = .next (putGroup s i.gid g') ∧ sameButSlots i { i.g with
        extent := e.toNat
        near := [] } g' ∧ i.advanced s.now g' i.slot.path.codes) ∧
  (∀ s i e t0, i.g.handler = none → i.g.joins = [] → Executes s i {} → e.toNat ≤ i.g.budget - 64 →
    128 * (i.g.window + e.toNat) ≤ i.g.regArea → i.g.resBase + (i.g.budget - 64) < i.g.window + e.toNat →
    tfind s.tenants i.g.tenant = some t0 →
    let area := i.g.lBase + 0x3000
    ∃ t g', exec (.frame e) s = .next t ∧ tfind t.groups i.gid = some g' ∧ i.g.resBase < g'.resBase ∧ g'.resBase ≤ i.g.window ∧
      i.g.window + e.toNat ≤ g'.resBase + (i.g.budget - 64) ∧
      g' = { i.g with
        resBase := g'.resBase
        vregs := g'.vregs } ∧
      (∀ n l, l < 32 → n < i.g.resBase ∨ g'.resBase ≤ n → vGet g' (.stack n) l = vGet i.g (.stack n) l) ∧
      (∀ n l, l < 32 → n < 64 → vGet g' (.v n) l = vGet i.g (.v n) l) ∧
      (∀ n l, l < 32 → i.g.resBase ≤ n → n < g'.resBase →
        readSpace t .d (area + 128 * n + 4 * l) 4 = (vGet i.g (.stack n) l).toNat) ∧
      sameBytesBut s t (fun sp a => sp = .d ∧ area + 128 * i.g.resBase ≤ a ∧ a < area + 128 * g'.resBase) ∧
      tget 0 ((tfind t.tenants i.g.tenant).elim [] fun x => x.traps) 0x08 = satInc64 (tget 0 t0.traps 0x08) ∧
      othersKept s t i.gid) ∧
  (∀ s i l rest, i.g.handler = none → i.g.joins = [] → Executes s i {} → i.g.links = l :: rest → i.g.resLinks ≠ 0 →
    l.shift ≤ i.g.window → i.g.window < i.g.resBase + l.shift →
    i.g.resBase - (i.g.window - l.shift) ≤ i.g.budget - 64 →
    let area := i.g.lBase + 0x3000
    ∃ t g', exec .ret s = .next t ∧ sameBytes s t ∧ othersKept s t i.gid ∧ tfind t.groups i.gid = some g' ∧
      g' = { i.g with
        resBase := i.g.window - l.shift
        vregs := g'.vregs } ∧
      (∀ n x, x < 32 → i.g.window - l.shift ≤ n → n < i.g.resBase →
        (vGet g' (.stack n) x).toNat = readSpace s .d (area + 128 * n + 4 * x) 4) ∧
      ∀ n x, x < 32 → i.g.resBase ≤ n → n < i.g.window - l.shift + (i.g.budget - 64) →
        vGet g' (.stack n) x = vGet i.g (.stack n) x) ∧
  ((∀ s i sh off t0, i.g.handler = none → i.g.joins = [] → Executes s i {} → sh.toNat ≤ i.g.extent → i.g.resLinks = 16 →
    16 ≤ i.g.links.length → i.g.links.length ≤ 1024 → tfind s.tenants i.g.tenant = some t0 →
    let first := i.g.links.length - 16
    let area := i.g.lBase + 0x1000
    ∃ t, exec (.call sh off) s = .next t ∧ tfind t.groups i.gid = some { i.g with resLinks := 0 } ∧ othersKept s t i.gid ∧
      (∀ n l, first ≤ n → i.g.links[i.g.links.length - 1 - n]? = some l → n < i.g.links.length →
        readSpace t .d (area + 8 * n) 8 = (Config.linkWord l).toNat) ∧
      sameBytesBut s t (bytesFrom .d (area + 8 * first) 128) ∧
      tget 0 ((tfind t.tenants i.g.tenant).elim [] fun x => x.traps) 0x08 = satInc64 (tget 0 t0.traps 0x08)) ∧
  (∀ s i sh off, i.g.handler = none → i.g.joins = [] → Executes s i {} → sh.toNat ≤ i.g.extent → i.g.resLinks = 16 →
    1024 < i.g.links.length → exec (.call sh off) s = .next (raiseAt s i 0x08 3 i.slot.path.mask 0)) ∧
  ∀ s i t0, i.g.handler = none → i.g.joins = [] → Executes s i {} → i.g.links ≠ [] → i.g.resLinks = 0 →
    tfind s.tenants i.g.tenant = some t0 →
    ∃ t ls, exec .ret s = .next t ∧ tfind t.groups i.gid = some { i.g with
        links := ls
        resLinks := min 16 i.g.links.length } ∧ othersKept s t i.gid ∧ ls.length = i.g.links.length ∧
      (∀ k l, i.g.links[k]? = some l →
        let w := BitVec.ofNat 64 (readSpace s .d (i.g.lBase + 0x1000 + 8 * (i.g.links.length - 1 - k)) 8)
        ls[k]? = some (if k < 16 ∧ w ≠ Config.linkWord l then Config.linkOf w else l)) ∧
      sameBytes s t ∧ tget 0 ((tfind t.tenants i.g.tenant).elim [] fun x => x.traps) 0x09 = satInc64 (tget 0 t0.traps 0x09))

/-- R127, R128: FORK takes a free record, writes its token to the scalar, and splits the path: the smaller side (the target's on a
tie) goes to slot 1, the other stays or is stacked; an empty side forms no path. A path displaced from slot 1 is stacked, and goes
on with the clause it has begun (log entry 95). The group's divergence area holds the new records and stack; its bytes are free,
and no other byte changes (log entry 88). With 32 records outstanding FORK traps with 0x0A. R129, R130, R181: JOIN parks the path
while the record's other side is live, merges it with a parked sibling, and goes on alone where the sibling has ended; a token
that is 0 or not the path's own traps with 0x01. The slots of a parked path are refilled (log entry 74). What the fork's sides
have issued precedes all that the path past the JOIN issues. Only the divergence area's bytes, which are free, change in memory
(log entry 88). -/
def Obligations.ForksAndJoins : Prop :=
  ((∀ s i kt ms off, i.g.handler = none → Executes s i { ks := [kt.toNat], ms := [ms.toNat] } →
    (∀ r, r < 32 → ∃ x, x ∈ i.g.joins ∧ x.index = r) → exec (.fork kt ms off) s = .next (raise s i 0x0A)) ∧
  ∀ s i kt ms off, i.g.handler = none → Executes s i { ks := [kt.toNat], ms := [ms.toNat] } →
    (∃ r, r < 32 ∧ ∀ x, x ∈ i.g.joins → x.index ≠ r) →
    let P := i.slot.path.mask
    let T := P &&& mGet i.g ms.toNat
    let F := P &&& ~~~(mGet i.g ms.toNat)
    ∃ t0 g' r, exec (.fork kt ms off) s = .next t0 ∧ t0 = { putGroup s i.gid g' with forkAreas := tput s.forkAreas i.g.lBase (g'.joins, g'.stack) } ∧ r < 32 ∧ (∀ x, x ∈ i.g.joins → x.index ≠ r) ∧
      let tok := BitVec.ofNat 64 (i.g.forkSerial * 2 ^ 16 + r)
      let t := i.side (i.target off) T tok
      let f := i.side i.nextClause F tok
      let minor := if laneCount T ≤ laneCount F then t else f
      let major := if laneCount T ≤ laneCount F then f else t
      kGet g' kt.toNat = tok ∧ (∀ c, c < 160 → c ≠ kt.toNat → kGet g' c = kGet i.g c) ∧
      g'.joins = i.g.joins ++ [⟨r, tok, i.slot.path.token, (if T = 0 then 0 else 1) + (if F = 0 then 0 else 1), false, P⟩] ∧
      g'.forkSerial = (if i.g.forkSerial = 65535 then 1 else i.g.forkSerial + 1) ∧
      g' = { i.g with
        kregs := g'.kregs
        joins := g'.joins
        forkSerial := g'.forkSerial
        slot0 := g'.slot0
        slot1 := g'.slot1
        stack := g'.stack
        park := none } ∧
      (minor.mask = 0 → holdsPath (slotOf g' i.n) major ∧ slotOf g' (1 - i.n) = slotOf i.g (1 - i.n) ∧ g'.stack = i.g.stack) ∧
      (minor.mask ≠ 0 → holdsPath g'.slot1 minor ∧
        (i.n = 0 → holdsPath g'.slot0 major ∧
          g'.stack = (i.g.slot1.elim [] fun d => [⟨d.path, d.resumed || d.clause.isSome, false⟩]) ++ i.g.stack) ∧
        (i.n = 1 → g'.slot0 = i.g.slot0 ∧ g'.stack = ⟨major, false, false⟩ :: i.g.stack))) ∧
  (∀ s i kt off, i.g.handler = none → Executes s i { ks := [kt.toNat] } →
    let tok := kGet i.g kt.toNat
    (tok = 0 ∨ tok ≠ i.slot.path.token → exec (.join kt off) s = .next (raise s i 0x01)) ∧
    ∀ r, tok ≠ 0 → tok = i.slot.path.token → i.g.joins.find? (fun x => x.token == tok) = some r →
      ∃ t g', exec (.join kt off) s = .next t ∧ t = { putGroup s i.gid g' with
          forkAreas := tput s.forkAreas i.g.lBase (g'.joins, g'.stack)
          reqs := t.reqs } ∧
        g' = { i.g with
          joins := g'.joins
          stack := g'.stack
          slot0 := g'.slot0
          slot1 := g'.slot1
          park := none } ∧
        t.reqs = (if r.live = 2 then s.reqs else widened s.reqs i.gid r.lanes) ∧
        (r.live = 2 → g'.joins = (i.g.joins.map fun x => if x.token = tok then { x with
              live := 1
              parked := true } else x) ∧
          slotsRefilled s.now i.n i.g (⟨{ i.slot.path with
            hdr := i.target off
            ix := 0 }, false, true⟩ :: i.g.stack) g') ∧
        (r.live ≠ 2 → g'.joins = i.g.joins.filter (fun x => x.token != tok) ∧ slotOf g' (1 - i.n) = slotOf i.g (1 - i.n) ∧
          ∃ sl, slotOf g' i.n = some sl ∧ sl.path.hdr = i.target off ∧ sl.path.ix = 0 ∧ sl.path.codes = i.slot.path.codes ∧
            sl.path.token = r.parent ∧
            ((r.parked = false → sl.path.mask = i.slot.path.mask ∧ g'.stack = i.g.stack) ∧
              ∀ e, r.parked = true → i.g.stack.find? (fun e => e.parked && e.path.token == tok) = some e →
                sl.path.mask = i.slot.path.mask ||| e.path.mask ∧ g'.stack = i.g.stack.erase e)))

/-- R22, R100, R130, R131, R134, R175: EXIT, or a RETIRE of the whole path, ends the path. A parked sibling resumes in its slot at
its JOIN's label with the parent's token, after the gap of the clause that ended, the ending having passed outward through records
with no other side, and what its fork's sides have issued precedes its accesses (R181); else the slots are refilled (log entry
74), or, where no path is left, the group ends, leaves every barrier of its team and no longer counts as live; with no result owed
its budget is free. A RETIRE of some lanes takes them from the mask, and of none changes nothing. In memory only the team's
barrier records change, where the group ends, or the divergence area's free bytes (log entry 88), where a path does. -/
def Obligations.PathsEnd : Prop :=
  (∀ s i ins js st res, (ins = .exit ∧ Executes s i {}) ∨
      (∃ p, ins = .retire p ∧ Executes s i { ms := [p.toNat] } ∧ i.g.handler = none ∧ i.active p ≠ 0 ∧ i.active p = i.slot.path.mask) →
    i.g.joins.length ≤ 32 → TokenEnds i.g.joins i.g.stack i.slot.path.token js st res → i.g.slot0.isSome = true →
    let ended := res = none ∧ slotOf i.g (1 - i.n) = none ∧ ∀ e, e ∈ st → e.parked = true
    (ended → ∃ t, exec ins s = .next t ∧ sameBytesBut s t (teamBarrierBytes s i.g) ∧
      (∀ g', tfind t.groups i.gid = some g' → g'.live = false) ∧
      (∀ x tm, tfind t.teams x = some tm → i.g.team = x → i.gid ∉ tm.live) ∧
      ((∀ o, o ∈ s.owed → o.gid = i.gid → o.dests = []) → tfind t.groups i.gid = none)) ∧
    (¬ ended → ∃ t g', exec ins s = .next t ∧ tfind t.groups i.gid = some g' ∧ sameBytes s t ∧ t.forkAreas = tput s.forkAreas i.g.lBase (g'.joins, g'.stack) ∧
      othersKept s t i.gid ∧ t.reqs = (res.elim s.reqs fun p => widened s.reqs i.gid p.2) ∧
      (∀ p ls, res = some (p, ls) → g'.stack = st ∧ slotOf g' (1 - i.n) = slotOf i.g (1 - i.n) ∧ ∃ sl, slotOf g' i.n = some sl ∧ sl.path = p ∧
        sl.clause = none ∧ sl.notBefore = s.now + 1 + i.cl.hdr.gap ∧ sl.giveWay = i.cl.hdr.giveWay) ∧
      (res = none → slotsRefilled s.now i.n i.g st g') ∧
      (∀ h, h ∈ g'.holdings ↔ h ∈ i.g.holdings ∧ laneIn i.slot.path.mask h.lane = false) ∧
      g' = { i.g with
        holdings := g'.holdings
        handler := if ∃ h, i.g.handler = some h ∧ h.slot = i.n then none else i.g.handler
        joins := js
        stack := g'.stack
        slot0 := g'.slot0
        slot1 := g'.slot1
        park := none })) ∧
  ∀ s i p, Executes s i { ms := [p.toNat] } → i.g.handler = none → i.active p ≠ i.slot.path.mask ∨ i.active p = 0 →
    ∃ t g' sl, exec (.retire p) s = .next t ∧ tfind t.groups i.gid = some g' ∧ slotOf g' i.n = some sl ∧
      sl.path.mask = i.slot.path.mask &&& ~~~(i.active p) ∧ sameBytes s t ∧ othersKept s t i.gid ∧
      (∀ h, h ∈ g'.holdings ↔ h ∈ i.g.holdings ∧ laneIn (i.active p) h.lane = false) ∧
      g' = { i.g with
        holdings := g'.holdings
        slot0 := g'.slot0
        slot1 := g'.slot1
        park := none }

/-- R22, R124 to R126: ROLE of a declared role with slot 1, the join records and the links empty drains the group, then gives its
budget back and waits; ROLE_GRANT gives the oldest waiter, of two of one clock the lower group identifier (log entry 77), its new
budget once the free registers cover it (how much of a team's headroom counts as used is log entry 78), and the group starts at
the role's entry with an empty window, after the gap of the clause that held the ROLE. -/
def Obligations.RolesChange : Prop :=
  (∀ s i n t r, Executes s i {} → i.g.handler = none → i.g.park = none → tfind s.teams i.g.team = some t →
    t.roles.find? (fun x => x.number == n.toNat) = some r → i.g.slot1 = none → i.g.joins = [] → i.g.links = [] →
    ∃ u g', exec (.role n) s = .next u ∧ tfind u.groups i.gid = some g' ∧ othersKept s u i.gid ∧ sameBytes s u ∧
      if drained s i.gid then g'.budget = 0 ∧ g'.flags = [] ∧ g'.marks = [] ∧ g'.park = some ⟨i.n, s.now, .roleGrant n.toNat⟩
      else g' = releasePipe { i.g with park := some ⟨i.n, s.now, .roleDrain n.toNat⟩ } i.n) ∧
  ∀ s gid g t sl since n r x c, x.clause = some c → tfind s.groups gid = some g → g.park = some ⟨sl, since, .roleGrant n⟩ →
    tfind s.teams g.team = some t → t.roles.find? (fun x => x.number == n) = some r → slotOf g sl = some x →
    (∀ p, p ∈ partitionGroups s g.core g.partition → ∀ y c m, p.2.park = some ⟨y, c, .roleGrant m⟩ →
      since < c ∨ (since = c ∧ gid ≤ p.1)) →
    r.budget ≤ freeRegisters s g.core g.partition g.team →
    ∃ g', exec (.roleGrant gid) s = .next (putGroup s gid g') ∧ g'.budget = r.budget ∧ g'.role = n ∧ g'.window = 0 ∧ g'.extent = 0 ∧
      g'.links = [] ∧ g'.park = none ∧
      ∃ y, slotOf g' sl = some y ∧ y.path.hdr = r.entry ∧ y.path.ix = 0 ∧ y.path.mask = x.path.mask ∧ y.clause = none ∧
        y.notBefore = s.now + 1 + c.hdr.gap ∧ y.giveWay = c.hdr.giveWay

/-- R135, R136: a REORDER that passes its checks parks its group; once every live group of the team on the core has arrived with
the same descriptor and key, REORDER_MOVE gives the participant with position k in order the threads 32·k to 32·k + 31 of all
taken lanes sorted stably by key, group and lane, with v0 and the live list, register-stack entries among it, and the count in its
scalar; one left with none ends. Arrivals that differ trap with 0x01 and move nothing. -/
def Obligations.ReorderSorts : Prop :=
  (∀ s i ka kb key p, i.g.handler = none → i.g.park = none → i.g.slot1 = none → i.g.joins = [] → i.g.holdings = [] →
    let rs := liveRanges (kGet i.g kb.toNat).toNat
    pendingReg i.g (kName i.g kb.toNat) = false → kb.toNat < 160 →
    Executes s i { vs := [vsrc key], ks := [ka.toNat, kb.toNat], ms := [p.toNat], live := rs } →
    (rs.map fun r => r.2).sum ≤ 64 → (∀ r, r ∈ rs → r.2 = 0 → r.1 = 0) →
    ∃ t, exec (.reorder ka kb key p) s = .next t ∧ sameBytes s t ∧ othersKept s t i.gid ∧
      i.parkedAt t fun w => w = .reorder (kGet i.g kb.toNat) key (i.active p) ka.toNat) ∧
  (∀ s tm core ps d key, Gathered s tm core ps → ps ≠ [] →
    (∀ p, p ∈ ps → ∃ pr ka, p.2.reorderArrival = some (d, key, pr, ka) ∧ ka < 160) →
    ∃ t, ∃ ts : List (Nat × Nat), exec (.reorderMove tm core) s = .next t ∧
      ts.Perm ((List.range ps.length).flatMap fun k => ((List.range 32).filter fun l =>
        (ps[k]?).any fun p => p.2.reorderArrival.any fun x => laneIn x.2.2.1 l).map fun l => (k, l)) ∧
      (let keyOf := fun (x : Nat × Nat) => (ps[x.1]?).elim 0 fun p => srcLane p.2 key.toNat x.2 1
      ts.Pairwise fun x y => keyOf x < keyOf y ∨ (keyOf x = keyOf y ∧ (x.1 < y.1 ∨ (x.1 = y.1 ∧ x.2 < y.2)))) ∧
      (ps.length ≤ (ts.length + 31) / 32 → sameBytes s t ∧ ∀ x, (∀ p, p ∈ ps → p.1 ≠ x) → tfind t.groups x = tfind s.groups x) ∧
      ∀ k p pr ka, ps[k]? = some p → p.2.reorderArrival = some (d, key, pr, ka) →
        let mine := (ts.drop (32 * k)).take 32
        (mine = [] → ∀ g', tfind t.groups p.1 = some g' → g'.live = false) ∧
        (mine ≠ [] → ∃ g' sl, tfind t.groups p.1 = some g' ∧ kGet g' ka = BitVec.ofNat 64 mine.length ∧
          (∀ j q l c, mine[j]? = some (q, l) → c ∈ movedCodes d → ∀ o, ps[q]? = some o →
            vGet g' (vName p.2 c) j = vGet o.2 (vName o.2 c) l) ∧
          slotOf g' 0 = some sl ∧ (∀ l, l < 32 → (laneIn sl.path.mask l = true ↔ l < mine.length)) ∧
          g' = { p.2 with
            vregs := g'.vregs
            kregs := g'.kregs
            near := []
            slot0 := g'.slot0
            park := none })) ∧
  ∀ s tm core ps a b, Gathered s tm core ps → a ∈ ps → b ∈ ps → (∀ p, p ∈ ps → ∃ x, p.2.reorderArrival = some x) →
    (a.2.reorderArrival.map fun x => (x.1, x.2.1)) ≠ (b.2.reorderArrival.map fun x => (x.1, x.2.1)) →
    (∀ p, p ∈ ps → ∃ entry, deliverable s p.2 entry) → ∃ t, exec (.reorderMove tm core) s = .next t ∧ sameBytes s t ∧
      ∀ p, p ∈ ps → ∃ entry bank, entersHandler s t p.1 0 entry bank ∧ (bank.getD 0 0).toNat % 2 ^ 8 = 0x01

/-- R11, R15, R25, R34 to R36, R309: an instruction takes the trap of the first of steps 4 to 7 that its operands fail, and has no
effect: a flag that its header does not name, a scalar code beyond 159 or a windowed name beyond the frame, a privileged
instruction outside the supervisor tenant, a pending operand. R34, R28, R292, R293, R295: TRAP n raises 0x15 with subcause n, and
an operand check of R34 that fails raises its code at any encoded instruction that makes it. A deliverable trap is counted and the
group enters its handler with the bank of R293; where the group is in handler mode or its tenant has no handler, every group of
its kill scope, itself, its team or its grid, dies instead, and with a record that can be written no other group changes but that
a deadlocked EMIT may learn of it. R295: RETT in handler mode returns the path to the header, index and codes of the bank and ends
handler mode, bound by no gap and no give-way of its clause (log entry 97); outside handler mode, or where the header is no
multiple of 8 or at 2^52 or above, it raises 0x01. -/
def Obligations.TrapsAndReturns : Prop :=
  (∀ s ins u p i code, operandsOf ins u p → issuer s = some i → (heldBack i.g i.n || isFrozen s i.g || stalls s i u || waitsForPipe s i) = false →
    checkUses i.cl.hdr i.g (isSupervisor s i.g) u = some code →
    exec ins s = .next (raise s i code p) ∧ FailsStep i (isSupervisor s i.g) u code) ∧
  ((∀ s i n, Executes s i {} → exec (.trap n) s = .next (raiseAt s i 0x15 n.toNat i.slot.path.mask 0)) ∧
  (∀ s i uf p k code, issuer s = some i → (heldBack i.g i.n || isFrozen s i.g || stalls s i (uf i.g) || waitsForPipe s i) = false →
    checkUses i.cl.hdr i.g (isSupervisor s i.g) (uf i.g) = some code →
    issueG s uf p k = .next (raiseAt s i code 0 (i.active p) 0)) ∧
  (∀ s gid g n sl code sub ln addr word entry, tfind s.groups gid = some g → slotOf g n = some sl → deliverable s g entry →
    entersHandler s (takeTrap s gid n code sub ln addr word) gid n entry (bankAtEntry n sl code sub ln addr word) ∧
    trapCounted s (takeTrap s gid n code sub ln addr word) g.tenant code ∧
    othersKept s (takeTrap s gid n code sub ln addr word) gid) ∧
  ∀ s gid g n sl code sub ln addr word t, tfind s.groups gid = some g → slotOf g n = some sl → tfind s.tenants g.tenant = some t →
    t.config.handler = 0 ∨ g.handler.isSome = true →
    let u := takeTrap s gid n code sub ln addr word
    (∀ x, inKillScope s gid g t.config.killScope x → ∀ g', tfind u.groups x = some g' → g'.live = false) ∧
    ∀ j pa, recordAt s g.tenant t j pa → ∀ x g0, ¬ inKillScope s gid g t.config.killScope x → tfind s.groups x = some g0 →
      ∃ g', tfind u.groups x = some g' ∧ g' = { g0 with park := g'.park }) ∧
  (∀ s i, Executes s i {} →
    (i.g.handler = none → exec .rett s = .next (raise s i 0x01)) ∧
    ∀ h, i.g.handler = some h →
      let hdr := (h.bank.getD 1 0).toNat
      (hdr % 8 ≠ 0 ∨ 2 ^ 52 ≤ hdr → exec .rett s = .next (raise s i 0x01)) ∧
      (hdr % 8 = 0 → hdr < 2 ^ 52 → ∃ g' sl, exec .rett s = .next (putGroup s i.gid g') ∧ slotOf g' i.n = some sl ∧
        sl.path = { i.slot.path with
          hdr := hdr
          ix := (h.bank.getD 0 0).toNat / 2 ^ 16 % 32
          codes := ⟨(h.bank.getD 5 0).getLsbD 3, (h.bank.getD 5 0).getLsbD 2, (h.bank.getD 5 0).getLsbD 1, (h.bank.getD 5 0).getLsbD 0⟩ } ∧
        sl.clause = none ∧ sl.resumed = true ∧ sl.notBefore = s.now ∧ slotOf g' (1 - i.n) = slotOf i.g (1 - i.n) ∧
        g' = { i.g with
          handler := none
          marks := g'.marks
          slot0 := g'.slot0
          slot1 := g'.slot1 } ∧
        ∀ k, k ∈ g'.marks ↔ k ∈ i.g.marks ∧ ∀ n, k.reg ≠ .bank n))

/-! ## Copies and routing -/

/-- R195, R196, R198: TIDSET reads 64 bytes of T at a 64-aligned address and installs the descriptor they hold where it is legal
(the base of a slot tensor is no byte address, log entry 36); an illegal one raises 0x12 and changes no entry. TIDINV makes the
entry invalid. The traps carry the lanes launched (log entry 29). R207: CBATCH writes the open batch's number and opens the next;
WAITB of the open batch or a later one traps, and otherwise parks the group while a copy or exchange of an earlier batch is
incomplete. -/
def Obligations.TensorTableAndBatches : Prop :=
  ((∀ s i t kb off tm, Executes s i { ks := [kb.toNat] } → tfind s.teams i.g.team = some tm →
    let a := i.block kb off
    let d := descriptorAt s i.g.team a
    let legal := d.Admitted ∧ readSpace s (.t i.g.team) (a + 36) 4 = 0 ∧ readSpace s (.t i.g.team) (a + 54) 10 = 0
    (tm.tPerCore * tm.cores.length < a + 64 → exec (.tidset t kb off) s = .next (raiseAt s i 0x06 0 i.g.launched a)) ∧
    (a + 64 ≤ tm.tPerCore * tm.cores.length → a % 64 ≠ 0 →
      exec (.tidset t kb off) s = .next (raiseAt s i 0x05 0 i.g.launched a)) ∧
    (a + 64 ≤ tm.tPerCore * tm.cores.length → a % 64 = 0 → quietOn s i (.t i.g.team) a 64 →
      (¬ legal → exec (.tidset t kb off) s = .next (raise s i 0x12)) ∧
      (legal → ∃ u, exec (.tidset t kb off) s = .next u ∧ i.movedOn s u ∧ u = { s with
        groups := u.groups
        teams := tput s.teams i.g.team { tm with tensors := tput tm.tensors t.toNat d } }))) ∧
  ∀ s i t tm, Executes s i {} → tfind s.teams i.g.team = some tm →
    ∃ u, exec (.tidinv t) s = .next u ∧ i.movedOn s u ∧ u = { s with
      groups := u.groups
      teams := tput s.teams i.g.team { tm with tensors := tdel tm.tensors t.toNat } }) ∧
  ((∀ s i ka, Executes s i { ks := [ka.toNat] } →
    let j := { i with g := { i.g with batch := i.g.batch + 1 } }
    ∃ g', exec (.cbatch ka) s = .next (putGroup s i.gid g') ∧ kGet g' ka.toNat = i.g.batch.setWidth 64 ∧
      RegisterEffect s j g' nowhere (· = ka.toNat) nowhere i.slot.path.codes i.g.fflags) ∧
  ∀ s i kb, Executes s i { ks := [kb.toNat] } →
    let n := (kGet i.g kb.toNat).setWidth 16
    let unfinished := (∃ c, c ∈ s.copies ∧ c.gid = i.gid ∧ upToBatch n c.batch) ∨ ∃ x, x ∈ s.xchgs ∧ x.gid = i.gid ∧ upToBatch n x.batch
    (upToBatch n i.g.batch → exec (.waitb kb) s = .next (raise s i 0x01)) ∧
    (¬ upToBatch n i.g.batch → unfinished → ∃ t, exec (.waitb kb) s = .next t ∧ i.parkedAt t (fun w => w = .retry) ∧
      sameBytes s t ∧ othersKept s t i.gid) ∧
    (¬ upToBatch n i.g.batch → ¬ unfinished → ∃ t, exec (.waitb kb) s = .next t ∧ i.movedOn s t ∧ sameBytes s t))

/-- R199 to R201, R203, R205 to R207, R24: a COPY, COPYG or COPYS that meets R200's conditions is accepted: it joins the open
batch, owes its status scalar, joins the fill order of a slot destination, and credits the members it drops. It waits for the
group's own stores to its block; a block that is misaligned or outside T traps. -/
def Obligations.CopiesAccepted : Prop :=
  ∀ s i t f ka kb fs off, Executes s i (f.uses ka kb fs) → tfind s.teams i.g.team = some t → TeamFits i t →
    let a := i.block kb off
    let b := copyBlockAt s i.g.team a
    let ins := f.instr ka kb fs off
    (¬ quietOn s i (.t i.g.team) a 32 → exec ins s = .next s) ∧
    (quietOn s i (.t i.g.team) a 32 →
      (a % 32 ≠ 0 → exec ins s = .next (raiseAt s i 0x05 0 (f.lanes i) a)) ∧
      (a % 32 = 0 → t.tPerCore * t.cores.length < a + 32 → exec ins s = .next (raiseAt s i 0x06 0 (f.lanes i) a)) ∧
      ∀ src dst, a % 32 = 0 → a + 32 ≤ t.tPerCore * t.cores.length → CopyAdmitted s i t f b src dst →
        let ps := f.pieces i b
        let total := boxSize b.box * ps.length
        let kept := keptCores s i t dst b.mask
        let lost := (List.range 4).filter fun n => b.mask.testBit n && !(kept.contains n)
        ∃ u ahead state serial after_, exec ins s = .next u ∧ i.precedents s after_ ∧
          let c : Copy :=
            { id := s.nextId + 1, gid := i.gid, serial := serial, after := after_, tenant := i.g.tenant, team := i.g.team, core := i.g.core
              kind := match f with
                | .copy => .copy
                | .gather _ _ => .gather
                | .scatter _ _ => .scatter
              seq := s.nextSeq, src := src, dst := dst, dst2 := dst, srcC := b.srcC, dstC := b.dstC, box := b.box, op := b.op
              fill := b.fill, barrier := if b.bar = 0 then none else some b.bar, multi := decide (b.mask ≠ 0)
              members := kept.map fun n => ⟨n, t.cores.getD n 0, 0⟩, dropped := (lost.map fun n => 2 ^ n).sum
              rows := f.rows i b, ahead := ahead, data := [], out := none, total := total, delivered := 0, state := state
              parkedOn := none, fatal := none, got := [], asking := [], units := [], held := none
              sent := 0, tile := none, tileRead := true
              owed := s.nextId, batch := i.g.batch, accepted := s.now }
          u = { s with
            copies := s.copies ++ [c]
            owed := s.owed ++ [i.newOwed s .copy (i.flag fs) [kName i.g ka.toNat] 1]
            groups := u.groups
            teams := u.teams
            arrays := u.arrays
            nextId := s.nextId + 2
            nextSeq := s.nextSeq + 1 } ∧
          i.owes s u [kName i.g ka.toNat] (i.flag fs) 1 ∧
          (src.space ≠ dst.space → ahead = false ∧ state = none) ∧
          (b.mask = 0 → (ahead = true ↔ 0 < boxesShare src dst b ps ∧ boxesShare src dst b ps ≤ 65536) ∧
            state = if 65536 < boxesShare src dst b ps then some (5, 0) else none) ∧
          (dst.space ≠ 4 → u.arrays = s.arrays) ∧
          (∀ arr n, slotGet u arr n = (slotGet s arr n).map fun o =>
            if dst.space = 4 ∧ n = dst.base / 4 ∧ ∃ k, k ∈ kept ∧ arr = arrayIx (t.cores.getD k 0) (dst.base % 4) then
              { o with fill := o.fill ++ [c.id] } else o) ∧
          (b.bar = 0 ∨ lost = [] → u.teams = s.teams) ∧
          ∀ br, t.barriers.find? (fun x => x.addr == b.bar) = some br → lost ≠ [] → b.bar ≠ 0 →
            br.landed + lost.length * total * dst.z < 2 ^ 32 →
            (∃ br', afterTest { br with landed := br.landed + lost.length * total * dst.z } br' ∧ holdsBarrier u i.g.team br') ∧
              sameBytesBut s u (barrierBytes i.g.team b.bar))

/-- R208, R209, R199, R24: a ROUTE that meets its conditions is accepted as a copy is, and its output holds the kept (token, slot)
pairs sorted stably by expert, then 0xFFFF_FFFF, then the counts, then the exclusive offsets. -/
def Obligations.RouteSortsExperts : Prop :=
  (∀ s i t ka kb fs off k n e bar ch pm ct, Executes s i (CopyForm.copy.uses ka kb fs) → tfind s.teams i.g.team = some t →
    i.g.core ∈ t.cores → t.windows.length ≤ 4 →
    let a := i.block kb off
    quietOn s i (.t i.g.team) a 32 → a % 32 = 0 → a + 32 ≤ t.tPerCore * t.cores.length →
    RouteAdmitted s i t a k n e bar ch pm ct →
    ∃ u j serial after_, exec (.route ka kb fs off) s = .next u ∧ i.precedents s after_ ∧ t.cores[j]? = some i.g.core ∧ i.owes s u [kName i.g ka.toNat] (i.flag fs) 1 ∧
      u = { s with
        copies := s.copies ++ [
          { id := s.nextId + 1, gid := i.gid, serial := serial, after := after_, tenant := i.g.tenant, team := i.g.team, core := i.g.core
            kind := .route, seq := s.nextSeq, src := ch, dst := pm, dst2 := { ct with ext := [2 * e, 1, 1, 1] }, srcC := [0, 0, 0, 0]
            dstC := [0, 0, 0, 0], box := [k, n, 1, 1], op := 0, fill := 0, barrier := if bar = 0 then none else some bar
            multi := false, members := [⟨j, i.g.core, 0⟩], dropped := 0, rows := [], ahead := false, data := [], out := none
            total := n * k + 2 * e, delivered := 0, state := none, parkedOn := none, fatal := none, got := [], asking := []
            units := [], held := none, sent := 0, tile := none, tileRead := true, owed := s.nextId, batch := i.g.batch, accepted := s.now }]
        owed := s.owed ++ [i.newOwed s .copy (i.flag fs) [kName i.g ka.toNat] 1]
        groups := u.groups
        nextId := s.nextId + 2
        nextSeq := s.nextSeq + 1 }) ∧
  ∀ k e (xs : List Nat), 1 ≤ k → k ≤ 8 →
    let kept := (List.range xs.length).filter fun q => xs.getD q 0 < e
    let perm := ((routeOutput k e xs).take kept.length).map fun x => x / 8 * k + x % 8
    perm.Perm kept ∧
    perm.Pairwise (fun q r => xs.getD q 0 < xs.getD r 0 ∨ (xs.getD q 0 = xs.getD r 0 ∧ q < r)) ∧
    (∀ x, x ∈ (routeOutput k e xs).take kept.length → x % 8 < k) ∧
    routeOutput k e xs = (routeOutput k e xs).take kept.length ++ List.replicate (xs.length - kept.length) 0xFFFFFFFF
      ++ (List.range e).map (fun x => xs.countP (· == x)) ++ (List.range e).map fun x => xs.countP (· < x)

/-- R199, R202 to R205, R213, R172: a step of delivery reads what is still to be read of the row, and delivers the row's elements
in order to the least advanced member, in T or D or in a slot, once the banks are free (how much one step moves is the model's:
logs 33, 71). Each brings its source bits, the fill's, or FCVT's; an e4m3 block brings its scale; a reduction adds. A bound
barrier is credited element by element. A copy that has delivered everything completes: its status word, with the units of 64
bytes delivered, joins its result, its slot is full, and where it faulted its barrier's phase completes with fault 1. -/
def Obligations.CopiesDeliverAndComplete : Prop :=
  (∀ s c m, s.copies.find? (fun x => x.id == c.id) = some c → MovesNext s c m → c.dst.space = 1 ∨ c.dst.space = 2 →
    let k := c.stop m - m.pos
    ∃ t c', exec (.copyDelivery c.id) s = .next t ∧ t.groups = s.groups ∧ t.owed = s.owed ∧ t.arrays = s.arrays ∧
      (∀ q a, ¬ c.barrierByte q a → byteOf t q a = byteOf (((List.range k).map (· + m.pos)).foldl (c.leaves s m) s) q a) ∧
      t.copies.find? (fun x => x.id == c.id) = some c' ∧ c.movedOn c' m k ∧ c.stop m ≤ c'.data.length ∧ c.credits s t c.dst.z k) ∧
  (∀ s c m o, s.copies.find? (fun x => x.id == c.id) = some c → MovesNext s c m → c.dst.space = 4 →
    slotGet s (arrayIx m.core (c.dst.base % 4)) (c.dst.base / 4) = some o → o.fill.head? = some c.id → 0 < m.pos ∨ o.full = false →
    let k := c.stop m - m.pos
    ∃ t c', exec (.copyDelivery c.id) s = .next t ∧ t.groups = s.groups ∧ t.owed = s.owed ∧ sameBytesBut s t c.barrierByte ∧
      (∀ arr n, slotGet t arr n = if arr = arrayIx m.core (c.dst.base % 4) ∧ n = c.dst.base / 4 then
        some (((List.range k).map (· + m.pos)).foldl (c.fillsSlot s) o) else slotGet s arr n) ∧
      t.copies.find? (fun x => x.id == c.id) = some c' ∧ c.movedOn c' m k ∧ c.stop m ≤ c'.data.length ∧ c.credits s t c.dst.z k) ∧
  (∀ s c o n, s.copies.find? (fun x => x.id == c.id) = some c →
    c.state.isSome = true ∨ ((∀ m, m ∈ c.members → m.pos = c.total) ∧ c.asking = [] ∧ c.sent = 0) →
    s.owed.find? (fun x => x.id == c.owed) = some o → o.dests = [.k n] →
    let st := c.state.getD (if c.dropped = 0 then (1, 0) else (4, c.dropped))
    let bad := ∃ a, c.barrier = some a ∧ (st.1 = 2 ∨ st.1 = 3)
    ∃ t, exec (.copyCompletion c.id) s = .next t ∧ t.groups = s.groups ∧ t.copies = s.copies.filter (fun x => x.id != c.id) ∧
      resultGains s t (some c.owed) [.k n (BitVec.ofNat 64 (st.1 * 2 ^ 28 + st.2 * 2 ^ 24 + (c.delivered + 63) / 64))] ∧
      (¬ bad → sameBytes s t) ∧
      (∀ m y g, c.dst.space = 4 → m ∈ c.members → slotGet s (arrayIx m.core (c.dst.base % 4)) (c.dst.base / 4) = some y → c.id ∈ y.fill →
        y.claim = some g → groupLive s g = true → slotGet t (arrayIx m.core (c.dst.base % 4)) (c.dst.base / 4) = some { y with
          full := true
          fill := y.fill.filter fun x => x != c.id }) ∧
      ∀ a tm br, bad → c.barrier = some a → tfind s.teams c.team = some tm → tm.barriers.find? (fun x => x.addr == a) = some br →
        sameBytesBut s t (barrierBytes c.team a) ∧ ∃ br', phaseEnds br 1 br' ∧ holdsBarrier t c.team br') ∧
  ∀ s c, s.copies.find? (fun x => x.id == c.id) = some c → c.state = none → (∃ m, m ∈ c.members ∧ m.pos ≠ c.total) →
    exec (.copyCompletion c.id) s = .next s

/-- R202, R320, R324: a copy to another device sends its next elements there, those that continue one 8-byte unit in one write, a
reduction's one at a time, and waits; no byte changes here. Once the device has answered they count as delivered, and credit the
barrier. A fatal write ends the copy, with the bytes acknowledged so far and nothing more. -/
def Obligations.CopiesReachOtherDevices : Prop :=
  (∀ s c m v msg, s.copies.find? (fun x => x.id == c.id) = some c → MovesNext s c m → c.members = [m] → c.dst.space = 5 → c.dst.format ≠ 11 →
    sendRemote s c.tenant c.dst.device msg (.copy c.id) = some v →
    let place := fun n => c.dst.addr (c.coords n).2
    let z := c.dst.z
    let x := c.brings s m.pos
    z ∣ place m.pos →
    (∃ k, (c.op = 0 ∧ 1 ≤ k ∧ m.pos / c.box.getD 0 1 = (m.pos + k - 1) / c.box.getD 0 1 ∧
          (∀ j, j < k → place (m.pos + j) = place m.pos + z * j ∧ (0 < j → (place m.pos + z * j) % 8 ≠ 0)) ∧
          ((place m.pos + z * k) % 8 = 0 ∨ (m.pos + k) % c.box.getD 0 1 = 0 ∨ place (m.pos + k) ≠ place m.pos + z * k) ∧
          msg = .write (place m.pos) ((List.range k).flatMap fun j => leBytes z (c.brings s (m.pos + j)))) ∨
        (c.op = 1 ∧ k = 1 ∧ msg = .atomic .fadd false (place m.pos) x 0) ∨ (c.op = 2 ∧ k = 1 ∧ msg = .reduce (place m.pos) x)) →
    ∃ t c', exec (.copyDelivery c.id) s = .next t ∧ sameBytes s t ∧ t.groups = s.groups ∧ t.owed = s.owed ∧ t.links = v.links ∧
      t.rx = v.rx ∧ t.remotes = v.remotes ∧ t.copies.find? (fun x => x.id == c.id) = some c' ∧ c' = { c with
        data := c'.data
        units := c'.units
        asking := [s.nextId]
        sent := c'.sent } ∧
      (c.op = 0 → 0 < c'.sent) ∧ (c.op ≠ 0 → c'.sent = 1)) ∧
  (∀ s c m rest, s.copies.find? (fun x => x.id == c.id) = some c → c.state = none → c.asking = [] → c.out = none → c.inOrder s →
    c.fatal ≠ some true → 0 < c.sent → c.members = m :: rest →
    ∃ t c', exec (.copyDelivery c.id) s = .next t ∧ sameBytesBut s t c.barrierByte ∧ t.groups = s.groups ∧ t.owed = s.owed ∧
      t.copies.find? (fun x => x.id == c.id) = some c' ∧ c.movedOn c' m c.sent ∧ c'.data = c.data ∧ c'.units = c.units ∧
      c.credits s t (c.dst.z * c.sent) 1) ∧
  ∀ s c, s.copies.find? (fun x => x.id == c.id) = some c → c.state = none → c.asking = [] → c.inOrder s → c.fatal = some true →
    ∃ t where_, exec (.copyDelivery c.id) s = .next t ∧ sameBytes s t ∧ t.groups = s.groups ∧ t.owed = s.owed ∧
      t.copies.find? (fun x => x.id == c.id) = some { c with state := some (if c.delivered = 0 then 3 else 2, where_) } ∧
      (c.kind = .copy → where_ = 0)

/-! ## The matrix engine -/

/-- R212, R213, R216: SCLAIM claims every free slot of its range, empty and zero, or traps where another group holds one; SREL
waits for copies and jobs of its range and frees it. R214, R217: ACQ, REL, REL.free and MZERO on a tile: the owner and side they
need or 0x0B, what they wait for, and the tile's owner, side and elements afterwards. Of two ACQs of a free tile in one clock the
lower partition's is first. -/
def Obligations.SlotsAndTokens : Prop :=
  (∀ s i x sl n, Executes s i {} →
    let arr := arrayIx i.g.core x.toNat
    let r := slotsFrom sl n
    let held := fun k => (slotGet s arr k).bind fun o => o.claim
    ((∃ k g, k ∈ r ∧ held k = some g ∧ g ≠ i.gid) → exec (.sclaim x sl n) s = .next (raise s i 0x0C)) ∧
    ((∀ k g, k ∈ r → held k = some g → g = i.gid) → ∃ t, exec (.sclaim x sl n) s = .next t ∧ i.arraysOnly s t ∧
      (∀ a k, slotGet t a k = if a = arr ∧ k ∈ r ∧ held k = none then some ⟨some i.gid, i.g.team, i.g.tenant, false, [], [], []⟩
        else slotGet s a k) ∧
      ∀ a, (arrayGet t a).tiles = (arrayGet s a).tiles ∧ (arrayGet t a).jobs = (arrayGet s a).jobs) ∧
    ((∃ k, k ∈ r ∧ held k ≠ some i.gid) → exec (.srel x sl n) s = .next (raise s i 0x0C)) ∧
    ((∀ k, k ∈ r → held k = some i.gid) →
      ((∃ k, k ∈ r ∧ slotInUse s arr k) → i.waits s (.srel x sl n)) ∧
      ((∀ k, k ∈ r → ¬ slotInUse s arr k) → ∃ t, exec (.srel x sl n) s = .next t ∧ i.arraysOnly s t ∧
        (∀ a k, slotGet t a k = if a = arr ∧ k ∈ r then none else slotGet s a k) ∧
        ∀ a, (arrayGet t a).tiles = (arrayGet s a).tiles ∧ (arrayGet t a).jobs = (arrayGet s a).jobs))) ∧
  (∀ s i x acc, Executes s i {} →
    let arr := arrayIx i.g.core x.toNat
    let n := acc.toNat
    let T := (arrayGet s arr).tile n
    let becomes := fun (ins : Instr) (y : Tile) => ∃ t, exec ins s = .next t ∧ i.arraysOnly s t ∧ tileBecomes s t arr n y
    (T.owner = none → acqContested s i x acc → exec (.acq x acc) s = .next s) ∧
    (T.owner = none → ¬ acqContested s i x acc → becomes (.acq x acc) ⟨some i.gid, true, []⟩) ∧
    (∀ g, T.owner = some g → g ≠ i.gid → exec (.acq x acc) s = .next (raise s i 0x0B)) ∧
    (T.owner = some i.gid →
      (T.groupSide = true → becomes (.acq x acc) T) ∧
      (T.groupSide = false → tileRuns s arr n → i.waits s (.acq x acc)) ∧
      (T.groupSide = false → ¬ tileRuns s arr n → becomes (.acq x acc) { T with groupSide := true })) ∧
    (∀ ins y, (ins, y) = (Instr.rel x acc, { T with groupSide := false }) ∨ (ins, y) = (Instr.mzero x acc, { T with acc := [] }) →
      (T.owner ≠ some i.gid ∨ T.groupSide = false → exec ins s = .next (raise s i 0x0B)) ∧
      (T.owner = some i.gid → T.groupSide = true → (tileStores s arr n → i.waits s ins) ∧ (¬ tileStores s arr n → becomes ins y))) ∧
    (T.owner ≠ some i.gid → exec (.relFree x acc) s = .next (raise s i 0x0B)) ∧
    (T.owner = some i.gid → tileRuns s arr n ∨ tileStores s arr n → i.waits s (.relFree x acc)) ∧
    (T.owner = some i.gid → ¬ tileRuns s arr n → ¬ tileStores s arr n → becomes (.relFree x acc) ⟨none, false, []⟩))

/-- R223, R214, R72: MREAD owes each lane of the path its element of the half-row, a NaN as the canonical one (R72 over R223's raw
bits is log entry 87, DEDUCED); MWRITE replaces those elements; both trap on a scalar above 127 and without the token. R224, R207,
R24: an MSTORE that meets its conditions joins the open batch as a copy of the tile's elements, a NaN as the canonical one (R72;
log entry 87); its tile read lets the instructions that wait for it go on. -/
def Obligations.TilesAreReadAndStored : Prop :=
  (∀ s i x acc ks1 v,
    let arr := arrayIx i.g.core x.toNat
    let n := acc.toNat
    let T := (arrayGet s arr).tile n
    let k := (kGet i.g ks1.toNat).toNat
    let elem := fun l => 64 * (k % 64) + 32 * (k / 64) + l
    let reads := fun b : BitVec 32 => if b.toNat / 2 ^ 23 % 256 = 255 ∧ b.toNat % 2 ^ 23 ≠ 0 then 0x7FC00000#32 else b
    (∀ fs, Executes s i { fs := fs, vs := [vreg v], ks := [ks1.toNat], tracked := 1 } →
      (128 ≤ k → exec (.mread x acc ks1 v fs) s = .next (raise s i 0x01)) ∧
      (k < 128 → T.owner ≠ some i.gid ∨ T.groupSide = false → exec (.mread x acc ks1 v fs) s = .next (raise s i 0x0B)) ∧
      (k < 128 → T.owner = some i.gid → T.groupSide = true → ∃ t, exec (.mread x acc ks1 v fs) s = .next t ∧
        t = { s with
          owed := s.owed ++ [⟨s.nextId, i.gid, s.nextSeq, .other, i.flag fs, [vName i.g v.toNat],
            ((List.range 32).filter (laneIn i.slot.path.mask)).map fun l => .lane (vName i.g v.toNat) l (reads (tget 0 T.acc (elem l))), 0, s.now⟩]
          groups := t.groups
          nextId := s.nextId + 1 } ∧
        i.owes s t [vName i.g v.toNat] (i.flag fs) 1)) ∧
    (Executes s i { vs := [vsrc v], ks := [ks1.toNat] } →
      (128 ≤ k → exec (.mwrite x acc ks1 v) s = .next (raise s i 0x01)) ∧
      (k < 128 → T.owner ≠ some i.gid ∨ T.groupSide = false → exec (.mwrite x acc ks1 v) s = .next (raise s i 0x0B)) ∧
      (k < 128 → T.owner = some i.gid → T.groupSide = true →
        (tileStores s arr n → i.waits s (.mwrite x acc ks1 v)) ∧
        (¬ tileStores s arr n → ∃ t T', exec (.mwrite x acc ks1 v) s = .next t ∧ i.arraysOnly s t ∧ tileBecomes s t arr n T' ∧
          T'.owner = T.owner ∧ T'.groupSide = T.groupSide ∧
          (∀ l, l < 32 → laneIn i.slot.path.mask l = true → tget 0 T'.acc (elem l) = BitVec.ofNat 32 (srcLane i.g v.toNat l 1)) ∧
          ∀ e, (∀ l, l < 32 → laneIn i.slot.path.mask l = true → e ≠ elem l) → tget 0 T'.acc e = tget 0 T.acc e)))) ∧
  ((∀ s i t x acc ks1 ks2 fs dst, Executes s i { fs := fs, ks := [ks1.toNat, ks2.toNat], tracked := 1 } →
    tfind s.teams i.g.team = some t → i.g.core ∈ t.cores → t.windows.length ≤ 4 →
    let bx := (kGet i.g ks1.toNat).toNat
    let T := (arrayGet s (arrayIx i.g.core x.toNat)).tile acc.toNat
    let cols := bx / 2 ^ 32 % 64 + 1
    let rows := bx / 2 ^ 40 % 64 + 1
    let reads := fun b : BitVec 32 => if b.toNat / 2 ^ 23 % 256 = 255 ∧ b.toNat % 2 ^ 23 ≠ 0 then 0x7FC00000#32 else b
    StoreAdmitted s i t bx (kGet i.g ks2.toNat).toNat dst T →
    ∃ u j src serial after_, exec (.mstore x acc ks1 ks2 fs) s = .next u ∧ i.precedents s after_ ∧ t.cores[j]? = some i.g.core ∧ i.owes s u [kName i.g ks2.toNat] (i.flag fs) 1 ∧
      src.format = 8 ∧ (∀ m n, src.ext = [64, 64, 1, 1] ∧ src.addr [n, m, 0, 0] = 256 * m + 4 * n) ∧
      u = { s with
        copies := s.copies ++ [
          { id := s.nextId + 1, gid := i.gid, serial := serial, after := after_, tenant := i.g.tenant, team := i.g.team, core := i.g.core
            kind := .mstore, seq := s.nextSeq, src := src, dst := dst, dst2 := dst, srcC := [0, 0, 0, 0]
            dstC := [bx % 2 ^ 16, bx / 2 ^ 16 % 2 ^ 16, bx / 2 ^ 48 % 2 ^ 16, 0], box := [cols, rows, 1, 1], op := 0, fill := 0
            barrier := none, multi := false, members := [⟨j, i.g.core, 0⟩], dropped := 0, rows := [], ahead := false
            data := (List.range (cols * rows)).map fun n => ((reads (tget 0 T.acc (64 * (n / cols) + n % cols))).toNat, 127)
            out := none, total := cols * rows, delivered := 0, state := none, parkedOn := none, fatal := none, got := []
            asking := [], units := [], held := none, sent := 0, tile := some (i.g.core, x.toNat, acc.toNat), tileRead := false, owed := s.nextId
            batch := i.g.batch, accepted := s.now }]
        owed := s.owed ++ [i.newOwed s .copy (i.flag fs) [kName i.g ks2.toNat] 1]
        groups := u.groups
        nextId := s.nextId + 2
        nextSeq := s.nextSeq + 1 }) ∧
  ∀ s id, ∃ t, exec (.mstoreTileRead id) s = .next t ∧ t = { s with copies := t.copies } ∧
    t.copies = s.copies.map fun c => if c.id = id then { c with tileRead := true } else c)

/-- R218, R219, R24: MLOOP with a legal shape, the tile on the array side and team slots queues its job and raises its flag; a
full queue parks the group, a count of 0 completes at once; its checks trap in their order. -/
def Obligations.MloopQueues : Prop :=
  ∀ s i x acc sa sb inc ks1 ks2 p fs ra rb, Executes s i { fs := fs, ks := [ks1.toNat, ks2.toNat] } →
    let ins := Instr.mloop x acc sa sb inc ks1 ks2 p fs ra rb
    let arr := arrayIx i.g.core x.toNat
    let a := arrayGet s arr
    let T := a.tile acc.toNat
    let sh := (kGet i.g ks1.toNat).toNat
    let ct := (kGet i.g ks2.toNat).toNat
    let token := T.owner = some i.gid ∧ T.groupSide = false
    let slots := ∀ k, visits sa.toNat sb.toNat inc.toNat ct k → ∃ o, slotGet s arr k = some o ∧ o.claim.isSome = true ∧ o.team = i.g.team
    (¬ ShapeLegal sh ct → exec ins s = .next (raise s i 0x01)) ∧
    (ShapeLegal sh ct → ¬ token → exec ins s = .next (raise s i 0x0B)) ∧
    (ShapeLegal sh ct → token → ¬ slots → exec ins s = .next (raise s i 0x0C)) ∧
    (ShapeLegal sh ct → token → slots →
      (ct = 0 → ∃ t, exec ins s = .next t ∧ i.movedOn s t ∧ t = { s with groups := t.groups }) ∧
      (ct ≠ 0 → 4 ≤ a.jobs.length → i.waits s ins) ∧
      (ct ≠ 0 → a.jobs.length < 4 → ∃ t, exec ins s = .next t ∧ i.owes s t [] (i.flag fs) 1 ∧
        t = { s with
          owed := s.owed ++ [i.newOwed s .other (i.flag fs) [] 1]
          groups := t.groups
          arrays := t.arrays
          nextId := s.nextId + 1 } ∧
        ∀ b, arrayGet t b = if b = arr then { a with jobs := a.jobs ++ [⟨i.gid, acc.toNat, sh / 2 ^ 24, sh % 128, sh / 2 ^ 8 % 128,
          sh / 2 ^ 16 % 256, ct, 0, sa.toNat, sb.toNat, inc.toNat, p.toNat, ra, rb, 0, [], s.nextId, s.now⟩] } else arrayGet s b))

/-- R69 to R72, R211, R220, R221: a K step runs the oldest job whose step can run. Each element below (M, N) adds its blocks' sums
of exact products to its ACC26 sum one after the other, and at a promotion that sum to the accumulator in binary32; released slots
turn empty; the last step ends the job and its result is due. R71, R72: a block's sum of exact products, each cut off 33 binary
places below the leading one; NaN and infinite products; run + b rounded to ACC26 with R71's sign of zero. A sum just below 2^-126
is rounded on the grid of the least normals (log 65). -/
def Obligations.KStepsRun : Prop :=
  (∀ s core x before j after_ oa ob T, x < 4 →
    let arr := arrayIx core x
    let a := arrayGet s arr
    let sa := (j.a + j.step * j.inc) % 16
    let sb := (j.b + j.step * j.inc) % 16
    a.jobs = before ++ j :: after_ → stepReady s.now a before j →
    (∀ p k q, before = p ++ k :: q → ¬ stepReady s.now a p k) →
    tfind a.slots sa = some oa → tfind a.slots sb = some ob → tfind a.tiles j.tile = some T → allHeld s a → j.m ≤ 64 → j.n ≤ 64 → 9 ≤ j.format ∧ j.format ≤ 12 →
    let last := j.step + 1 = j.count
    let promotes := j.since + 1 = j.p ∨ last
    ∃ (sum : Nat → Nat → Nat) (total : Nat → Nat → Nat) (t : State) (T' : Tile),
      (∀ m n, m < j.m → n < j.n → elementSum j oa ob m n (tget 0 j.run (64 * m + n)).toNat (sum m n) ∧
        promoted (tget 0 T.acc (64 * m + n)).toNat (sum m n) (total m n)) ∧
      exec (.mloopKStep core x) s = .next t ∧ t.groups = s.groups ∧ sameBytes s t ∧
      (arrayGet t arr).tile j.tile = T' ∧ T'.owner = T.owner ∧ T'.groupSide = T.groupSide ∧
      (∀ m n, m < 64 → n < 64 → tget 0 T'.acc (64 * m + n) =
        if m < j.m ∧ n < j.n ∧ promotes then BitVec.ofNat 32 (total m n)
        else tget 0 T.acc (64 * m + n)) ∧
      (∀ k, slotGet t arr k = (slotGet s arr k).map fun o =>
        if (j.ra = true ∧ k = sa) ∨ (j.rb = true ∧ k = sb) then { o with full := false } else o) ∧
      (last → (arrayGet t arr).jobs = before ++ after_ ∧ resultGains s t (some j.owed) []) ∧
      (¬ last → t.owed = s.owed ∧ ∃ j', (arrayGet t arr).jobs = before ++ j' :: after_ ∧ j' = { j with
          step := j.step + 1
          since := if promotes then 0 else j.since + 1
          run := j'.run } ∧
        ∀ m n, m < j.m → n < j.n → tget 0 j'.run (64 * m + n) = if promotes then 0 else BitVec.ofNat 26 (sum m n))) ∧
  ((∀ ps : List FVal, (∀ p, p ∈ ps → p.value = some 0) → blockSum ps = 0) ∧
  (∀ (ps : List FVal) (E : Int), (∀ p, p ∈ ps → ∃ q, p.value = some q ∧ |q| < (2 : Rat) ^ (E + 1)) →
    (∃ p q, p ∈ ps ∧ p.value = some q ∧ (2 : Rat) ^ E ≤ |q|) →
    ∃ (neg : Bool) (m : Nat) (e : Int), (if neg then -1 else 1 : Rat) * m * (2 : Rat) ^ e =
        (ps.map fun p => cutOff ((2 : Rat) ^ (E - 33)) (p.value.getD 0)).sum ∧ (m = 0 → neg = false) ∧
      blockSum ps = flushAcc (roundFin fmtAcc .rne neg m e false).1) ∧
  (∀ (ps : List FVal) sg, .nan sg ∈ ps ∨ (.inf true ∈ ps ∧ .inf false ∈ ps) → blockSum ps = fmtAcc.nan) ∧
  (∀ (ps : List FVal) n, .inf n ∈ ps → (∀ sg, .nan sg ∉ ps) → .inf (!n) ∉ ps → blockSum ps = withSign fmtAcc n fmtAcc.infBits) ∧
  (∀ x y, let u := unpack fmtAcc x
    let v := unpack fmtAcc y
    (u.isNan = true ∨ v.isNan = true ∨ (u.isInf = true ∧ v.isInf = true ∧ u.sign ≠ v.sign) → accAdd x y = fmtAcc.nan) ∧
    ∀ n, (u = .inf n ∧ v.isNan = false ∧ v ≠ .inf (!n)) ∨ (v = .inf n ∧ u.isNan = false ∧ u ≠ .inf (!n)) →
      accAdd x y = withSign fmtAcc n fmtAcc.infBits) ∧
  ∀ x y u v, (unpack fmtAcc x).value = some u → (unpack fmtAcc y).value = some v →
    ∃ (neg : Bool) (m : Nat) (e : Int), (if neg then -1 else 1 : Rat) * m * (2 : Rat) ^ e = u + v ∧
      (m = 0 → (neg = true ↔ u = 0 ∧ v = 0 ∧ (unpack fmtAcc x).sign = true ∧ (unpack fmtAcc y).sign = true)) ∧
      accAdd x y = flushAcc (roundFin fmtAcc .rne neg m e false).1)

/-! ## Meshes, rays and the rasteriser -/

/-- R251 to R253: RINIT owes each active lane its record, and with an auxiliary mask the lane's bit says whether the ray is
invalid. R254 to R258: RBOX owes each active lane the children that R257's slab test finds its ray to meet, nearest first, each
with its distance; a node outside D or misaligned traps, and RBOX waits for stores to the node that precede it. The planes of a
child enclose the exact ones. The node is read at the issue (log 47); the signs of exact zeros, and distances as numbers, are log
48's. R259 to R261, R235: RTRI owes each active lane a hit or a miss; a failed buffer traps. An invalid record, or an entry that
is not delivered, misses. Otherwise the vertices are sheared; where a rounded quantity is not finite, det is 0, an edge function
has the wrong sign or is zero on an edge not owned, or T / det lies outside [tmin, tmax], the lane misses; else it gets t, the two
weights and the triangle's index. -/
def Obligations.RaysAreTested : Prop :=
  (∀ s i d a p (aux : MCode) fs,
    let dests := regSpan (vName i.g d.toNat) 12 ++ if aux = 0 then [] else [RegName.m aux.toNat]
    Executes s i {
      fs := fs, vs := [vreg d 12, vreg a 8], ms := [p.toNat], mdst := if aux = 0 then [] else [aux.toNat]
      tracked := if aux = 0 then 12 else 13 } →
    (i.active p = 0 → ∃ t, exec (.rinit d a p aux fs) s = .next t ∧ i.owesNothing s t (i.flag fs) dests) ∧
    (i.active p ≠ 0 → ∃ (t : State) (words : Nat → List Nat) (bad : Nat → Bool), exec (.rinit d a p aux fs) s = .next t ∧
      (∀ l, rayPrepared i.g a.toNat l (words l) ∧ (bad l = true ↔ rayBad i.g a.toNat l)) ∧
      i.owesNow s t (i.flag fs) dests ((i.lanes p).flatMap fun l => rayWrites (vName i.g d.toNat) l (words l) ++
        if aux = 0 then [] else [.maskLane aux.toNat l (bad l)]))) ∧
  ((∀ s i d a b p fs,
    let node := fun l => srcLane i.g b.toNat l 1
    let ins := Instr.rbox d a b p fs
    let dests := regSpan (vName i.g d.toNat) 12
    Executes s i { fs := fs, vs := [vreg d 12, vreg a 12, vsrc b], ms := [p.toNat], tracked := 12 } →
    (i.active p = 0 → ∃ t, exec ins s = .next t ∧ i.owesNothing s t (i.flag fs) dests) ∧
    ((∃ l, l ∈ i.lanes p ∧ ¬ allocated s i.g .d false (node l) 64) → ∃ m x, exec ins s = .next (raiseAt s i 0x07 0 m x)) ∧
    ((∀ l, l ∈ i.lanes p → allocated s i.g .d false (node l) 64) → (∃ l, l ∈ i.lanes p ∧ node l % 64 ≠ 0) →
      ∃ m x, exec ins s = .next (raiseAt s i 0x05 0 m x)) ∧
    (i.active p ≠ 0 → (∀ l, l ∈ i.lanes p → allocated s i.g .d false (node l) 64 ∧ node l % 64 = 0) →
      (∃ l, l ∈ i.lanes p ∧ ¬ quietOn s i .d (node l) 64) → exec ins s = .next s) ∧
    (i.active p ≠ 0 → (∀ l, l ∈ i.lanes p → allocated s i.g .d false (node l) 64 ∧ node l % 64 = 0 ∧ quietOn s i .d (node l) 64) →
      ∃ (t : State) (hits : Nat → List (FVal × Nat)) (ws : Nat → List Nat), exec ins s = .next t ∧
        (∀ l, NodeHits s i.g a.toNat l (node l) (hits l) ∧ nodeWords s (node l) (hits l) (ws l)) ∧
        i.owesNow s t (i.flag fs) dests ((i.lanes p).flatMap fun l => rayWrites (vName i.g d.toNat) l (ws l)))) ∧
  ∀ n v lo hi e q, n.value = some v →
    ((boxPlanes n lo hi e).1.value = some q → q ≤ v + lo * (2 : Rat) ^ ((e : Int) - 127)) ∧
    ((boxPlanes n lo hi e).2.value = some q → v + hi * (2 : Rat) ^ ((e : Int) - 127) ≤ q)) ∧
  ((∀ s i d a b buf p fs,
    let bf := bufOf i.g buf.toNat
    let ins := Instr.rtri d a b buf p fs
    let dests := regSpan (vName i.g d.toNat) 4
    Executes s i { fs := fs, vs := [vreg d 4, vreg a 12, vsrc b], ms := [p.toNat], bufs := [buf.toNat], tracked := 4 } →
    (i.active p = 0 → ∃ t, exec ins s = .next t ∧ i.owesNothing s t (i.flag fs) dests) ∧
    (i.active p ≠ 0 → bf.status.toNat / 2 ^ 28 = 2 →
      let c := bf.status.toNat / 2 ^ 24 % 16
      exec ins s = .next (raiseAt s i (if c = 12 then 0x13 else if c = 13 then 0x19 else if c = 14 then 0x07 else 0x17)
        (if c = 12 ∨ c = 13 ∨ c = 14 then 0 else c) (i.active p) 0)) ∧
    (i.active p ≠ 0 → bf.status.toNat / 2 ^ 28 ≠ 2 → ∃ t, exec ins s = .next t ∧ i.owesNow s t (i.flag fs) dests
      ((i.lanes p).flatMap fun l => rayWrites (vName i.g d.toNat) l (triLane i.g bf a.toNat l (srcLane i.g b.toNat l 1))))) ∧
  ∀ g b a l e,
    (infoMisses (rayWord g a l 11) ∨ 16 ≤ e ∨ b.status.toNat / 2 ^ 16 % 32 ≤ e → triLane g b a l e = [0x7F800000, 0, 0, 0xFFFFFFFF]) ∧
    (¬ infoMisses (rayWord g a l 11) → e < 16 → e < b.status.toNat / 2 ^ 16 % 32 →
      ((∀ P Q S, ¬ triSheared g b a l e P Q S) → triLane g b a l e = [0x7F800000, 0, 0, 0xFFFFFFFF]) ∧
      ∀ P Q S, triSheared g b a l e P Q S →
        let det := edgeU Q S + edgeV P S + edgeW P Q
        (¬ triCrossed P Q S → triLane g b a l e = [0x7F800000, 0, 0, 0xFFFFFFFF]) ∧
        (triCrossed P Q S → ∃ t v w, nearestF32 ((edgeU Q S * P.2.2 + edgeV P S * Q.2.2 + edgeW P Q * S.2.2) / det) t ∧
          nearestF32 (edgeV P S / det) v ∧ nearestF32 (edgeW P Q / det) w ∧
          (atMost (rayVal g a l 9) (unpack fmtF32 t) ∧ atMost (unpack fmtF32 t) (rayVal g a l 10) →
            triLane g b a l e = [t, v, w, (tget 0 b.words (16 * e + 9)).toNat]) ∧
          (¬ (atMost (rayVal g a l 9) (unpack fmtF32 t) ∧ atMost (unpack fmtF32 t) (rayVal g a l 10)) →
            triLane g b a l e = [0x7F800000, 0, 0, 0xFFFFFFFF]))))

/-- R241 to R244: MDEC queues its request and marks its buffer, or waits for a place; its scalars' ranges trap whatever lanes are
active, after the stream's entry (log 49). TBREAD owes the words that have been delivered, 0 elsewhere; MSTAT.buf owes the
buffer's status word, MSTAT.ford bytes 12 to 15 of a directory entry. -/
def Obligations.BuffersFillAndRead : Prop :=
  (∀ s i a b t buf p fs st, Executes s i { fs := fs, vs := [vscalar a, vscalar b], ms := [p.toNat], bufs := [buf.toNat] } →
    namesStream s i t st →
    let x := i.scalar a
    let y := i.scalar b
    let legal := x < 2 ^ 32 ∧ y < 2 ^ 32 ∧ y / 2 ^ 5 % 2 ^ 11 = 0 ∧ 1 ≤ y % 32 ∧ y % 32 ≤ 16
    let q := (decoderOf s i.g.core).queue
    let ins := Instr.mdec a b t buf p fs
    (¬ legal → exec ins s = .next (raise s i 0x01 p)) ∧
    (legal → i.active p = 0 → ∃ u, exec ins s = .next u ∧ i.owesNothing s u (i.flag fs) [.buf buf.toNat]) ∧
    (legal → i.active p ≠ 0 → 64 ≤ q.length → i.waits s ins) ∧
    (legal → i.active p ≠ 0 → q.length < 64 → ∃ u ws, exec ins s = .next u ∧
      Iss.owes { i with g := { i.g with bufs := tput i.g.bufs buf.toNat ⟨0, []⟩ } } s u [.buf buf.toNat] (i.flag fs) 1 ∧
      u = { s with
        decoders := u.decoders
        owed := s.owed ++ [i.newOwed s .other (i.flag fs) [] 1]
        groups := u.groups
        nextId := s.nextId + 1
        nextSeq := s.nextSeq + 1 } ∧
      decoderOf u i.g.core = ⟨q ++ [⟨i.gid, buf.toNat, st, y / 2 ^ 16, x, y % 32, ws, s.nextId, 0, false, false, 0, none, false⟩],
        (decoderOf s i.g.core).entries⟩ ∧
      (∀ tm, tfind s.teams i.g.team = some tm → ws = tm.windows) ∧ ∀ c, c ≠ i.g.core → decoderOf u c = decoderOf s c)) ∧
  (∀ s i d a buf p fs, Executes s i { fs := fs, vs := [vreg d, vsrc a], ms := [p.toNat], bufs := [buf.toNat], tracked := 1 } →
    let b := bufOf i.g buf.toNat
    let word := fun x => if x / 16 < min 16 (b.status.toNat / 2 ^ 16 % 32) then tget 0 b.words x else 0
    (i.active p = 0 → ∃ t, exec (.tbread d a buf p fs) s = .next t ∧ i.owesNothing s t (i.flag fs) [vName i.g d.toNat]) ∧
    (i.active p ≠ 0 → b.status.toNat / 2 ^ 28 ≠ 2 → ∃ t, exec (.tbread d a buf p fs) s = .next t ∧
      i.owesNow s t (i.flag fs) [vName i.g d.toNat]
        ((i.lanes p).map fun l => .lane (vName i.g d.toNat) l (word (srcLane i.g a.toNat l 1))))) ∧
  (∀ s i d buf p fs, Executes s i { fs := fs, vs := [vreg d], ms := [p.toNat], bufs := [buf.toNat], tracked := 1 } → i.active p ≠ 0 →
    ∃ t, exec (.mstatBuf d buf p fs) s = .next t ∧ i.owesNow s t (i.flag fs) [vName i.g d.toNat]
      ((i.lanes p).map fun l => .lane (vName i.g d.toNat) l (bufOf i.g buf.toNat).status)) ∧
  ∀ s i d a t p fs st ws, Executes s i { fs := fs, vs := [vreg d, vscalar a], ms := [p.toNat], tracked := 1 } →
    namesStream s i t st → i.active p ≠ 0 → storesPerformed s i → i.scalar a < 65536 → st.space = 2 →
    (∀ tm, tfind s.teams i.g.team = some tm → ws = tm.windows) →
    let m := parseMesh st.base (readBytes s.scratch st.base 64)
    let j := i.scalar a
    meshOk st ws false [(st.base, st.base + 64)] = true →
    (∀ h, m = some h → j < h.fords → meshOk st ws false [(fordAddr h j, fordAddr h j + 16)] = true) →
    ∃ u x, exec (.mstatFord d a t p fs) s = .next u ∧
      Iss.owesNow i { s with fetched := u.fetched } u (i.flag fs) [vName i.g d.toNat] ((i.lanes p).map fun l => .lane (vName i.g d.toNat) l x) ∧
      (m = none → x = 0xFFFFFFFF) ∧
      ∀ h, m = some h → x = if j < h.fords then BitVec.ofNat 32 (readSpace s .d (fordAddr h j + 12) 4) else 0xFFFFFFFF

/-- R228 to R235, R237: the header's fields, the fords and the decoding automaton, symbol by symbol. A header that fails R229 is
cause 1; a request is served from the nearest ford at or before the one it names that is neither stale nor unused, or fails with
cause 2 or 9 (an entry whose f cannot rise strictly is malformed, log 92). A symbol is read from the bits as the walk sees them,
each 8-byte unit at one moment (log 81); new vertices take their correction, the gate moves, and a symbol that cannot be carried
out ends with its cause. R236, R235, R234, R239, R243: a request that can be served from ford 0 begins a walk in the initial
state; one that fails ends with its cause, the origin in its status then a free value (log 11). A symbol that emits a wanted
triangle writes its 16 words, and the request ends once its count is delivered; where the walk has reached a ford that is stale it
then writes the ford's record and makes its entry valid, and an entry that it finds malformed, or whose f does not rise past a
position that the walk has left (R232), ends the walk only after that delivery (when an entry is read is log 81). A step waits for
the banks that it needs (log entry 71). -/
def Obligations.DecodersServe : Prop :=
  ((∀ s base, (∀ m, parseMesh base (readBytes s.scratch base 64) = some m ↔ MeshHeader s base m)) ∧
  (∀ s st ws ford first count, st.space = 2 → meshOk st ws false [(st.base, st.base + 64)] = true →
    let found := findFord s st ws ford first count
    ((∀ m, ¬ MeshHeader s st.base m) → found = .error (.err 1)) ∧
    ∀ m, MeshHeader s st.base m → (∀ j, j < m.fords → meshOk st ws false [(m.dirAt + 16 * j, m.dirAt + 16 * j + 16)] = true) →
      (m.fords ≤ ford → found = .error (.err 2)) ∧
      (ford < m.fords → ¬ fordFits s m ford → found = .error (.err 9)) ∧
      (ford < m.fords → fordFits s m ford → first < (fordEntry s m ford).f ∨ m.tris < first + count → found = .error (.err 2)) ∧
      ∀ k, ford < m.fords → (fordEntry s m ford).f ≤ first → first + count ≤ m.tris → k ≤ ford →
        (∀ j, k ≤ j → j ≤ ford → fordFits s m j) → (∀ j, k ≤ j → j < ford → (fordEntry s m j).f < (fordEntry s m (j + 1)).f) →
        (fordEntry s m k).state = 1 → (∀ j, k < j → j ≤ ford → (fordEntry s m j).state ≠ 1) →
        found = .ok (readBytes s.scratch st.base 64, m, k, fordEntry s m k, decide (k ≠ ford))) ∧
  (∀ s st m w, st.space = 2 → WalkFits m w →
    let sym := fun k => w.seesBit s m.symAt k
    let cor := fun k => w.seesBit s m.corAt k
    let out := walkSymbol s st m w
    let fails := fun (c : Nat) => out = .error (.err c)
    let gives := fun (w' : Walk) (tr : Option Tri) => ∃ u, sameWalk u w' ∧ WalkFits m u ∧ out = .ok (u, tr)
    let x := bitField sym w.symPos 3
    let past := fun n => { w with symPos := w.symPos + n }
    let slotAt := fun n => bitField sym (w.symPos + n) 4
    (m.symLen < w.symPos + 3 → fails 3) ∧
    (w.symPos + 3 ≤ m.symLen →
      (x ≤ 3 → w.gateSet = false → fails 5) ∧
      (x ≤ 1 → w.gateSet = true → m.verts ≤ w.verts → fails 8) ∧
      (x ≤ 1 → w.gateSet = true → w.verts < m.verts → w.head = w.ga ∨ w.head = w.gb → fails 7) ∧
      (x ≤ 1 → w.gateSet = true → w.verts < m.verts → w.head ≠ w.ga → w.head ≠ w.gb → w.tri + 1 < 2 ^ 32 → w.verts + 1 < 2 ^ 32 →
        w.symPos + 3 < 2 ^ 32 → ∃ w1, Introduces cor m (predicted w) (past 3) w1 ∧ gives (gateMoved (x == 0) w1 w.head) (some (w.ga, w.gb, w.head))) ∧
      (x = 2 ∨ x = 3 → w.gateSet = true → m.symLen < w.symPos + 7 → fails 3) ∧
      (x = 2 ∨ x = 3 → w.gateSet = true → w.symPos + 7 ≤ m.symLen → w.valid.getLsbD (slotAt 3) = false → fails 6) ∧
      (x = 2 ∨ x = 3 → w.gateSet = true → w.symPos + 7 ≤ m.symLen → w.valid.getLsbD (slotAt 3) = true → w.tri + 1 < 2 ^ 32 →
        w.symPos + 7 < 2 ^ 32 → gives (gateMoved (x == 2) (past 7) (slotAt 3)) (some (w.ga, w.gb, slotAt 3))) ∧
      (x = 4 → m.verts < w.verts + 3 → fails 8) ∧
      (x = 4 → w.verts + 3 ≤ m.verts → w.tri + 1 < 2 ^ 32 → w.verts + 3 < 2 ^ 32 → w.symPos + 3 < 2 ^ 32 →
        let a := w.head
        let b := (w.head + 1) % 16
        let c := (w.head + 2) % 16
        let h := (w.head + 15) % 16
        ∃ w1 w2 w3, Introduces cor m (fun j => if w.valid.getLsbD h then (w.pos h).getD j 0 else 0) (past 3) w1 ∧
          Introduces cor m (fun j => (w1.pos a).getD j 0) w1 w2 ∧ Introduces cor m (fun j => (w2.pos b).getD j 0) w2 w3 ∧
          gives { w3 with
            ga := b
            gb := c
            opp := a
            gateSet := true
            oppValid := true
            tri := w.tri + 1 } (some (a, b, c))) ∧
      (x = 5 → m.symLen < w.symPos + 11 → fails 3) ∧
      (x = 5 → w.symPos + 11 ≤ m.symLen → w.valid.getLsbD (slotAt 3) = false ∨ w.valid.getLsbD (slotAt 7) = false → fails 6) ∧
      (x = 5 → w.symPos + 11 ≤ m.symLen → w.valid.getLsbD (slotAt 3) = true → w.valid.getLsbD (slotAt 7) = true → w.symPos + 11 < 2 ^ 32 →
        gives { past 11 with
          ga := slotAt 3
          gb := slotAt 7
          gateSet := true
          oppValid := false } none) ∧
      (x = 6 → fails 10) ∧ (x = 7 → fails 4))) ∧
  ∀ m w tr, TriangleHolds m w tr (triangleWords m w tr)) ∧
  ((∀ s core r q g, (decoderOf s core).queue = r :: q → (∀ x, x ∈ s.patches → x.granted = true → x.stream ≠ r.stream) →
    tfind s.groups r.gid = some g → (∀ x, x ∈ s.reqs → x.gid ≠ r.gid ∧ x.covers g.team g.core = false) → r.parkedOn = none →
    r.fatal = false → banksFree s →
    let found := findFord s r.stream r.windows r.ford r.first r.count
    (∀ c, found = .error (.err c) → c < 16 → r.delivered ≤ 16 → ∃ t g', exec (.decoderServe core 0) s = .next t ∧
      (decoderOf t core).queue = q ∧ tfind t.groups r.gid = some g' ∧ bufferWord (bufOf g' r.buf).status (if c = 0 then 1 else 2) c r.delivered ∧
      resultGains s t (some r.owed) []) ∧
    (∀ head m d fb, found = .ok (head, m, 0, d, fb) →
      (∀ e, e ∈ (decoderOf s core).entries → e.fits r.stream 0 d.gen r.first = false) →
      ((decoderOf s core).entries.filter fun e => e.active).length < 2 → (decoderOf s core).entries.length < 32 → FreshIds s →
      ∃ t e, exec (.decoderServe core 0) s = .next t ∧ (decoderOf t core).queue = q ∧ e ∈ (decoderOf t core).entries ∧
        e.walk = Walk.initial ∧ e.stream = r.stream ∧ e.origin = 0 ∧ e.generation = d.gen ∧ e.next = 1 ∧ e.active = true ∧
        e.head = head ∧ e.due = none ∧ e.reqs = [{ r with
          fellBack := fb
          joined := false
          origin := 0
          parkedOn := none
          fatal := false }] ∧ t.groups = s.groups ∧ t.owed = s.owed ∧ sameBytes s t)) ∧
  ∀ s core e r g m w tr, (decoderOf s core).entries.find? (fun y => y.wid == e.wid) = some e → e.active = true → e.parkedOn = none →
    e.fatal = false → e.due = none → e.reqs = [r] → e.stream.space = 2 → tfind s.groups r.gid = some g →
    parseMesh e.stream.base e.head = some m → WalkFits m e.walk → walkSymbol s e.stream m e.walk = .ok (w, some tr) → WalkFits m w →
    meshOk e.stream r.windows false (stepReads s e.stream m e.walk) = true →
    r.first ≤ w.tri - 1 → w.tri - 1 < r.first + r.count → r.delivered < 16 → r.origin < 65536 → banksFree s →
    let entry := w.tri - 1 - r.first
    let f := fun j => (fordEntry s m j).f
    let here := m.dirAt + 16 * e.next
    let rec_ := m.recAt + 192 * e.next
    let reached := e.next < m.fords ∧ f e.next = w.tri
    let stale := reached ∧ fordFits s m e.next ∧ (fordEntry s m e.next).state = 2
    let inWindows := meshOk e.stream r.windows false [(here, here + 16)] = true
    let mayWrite := meshOk e.stream r.windows true [(rec_, rec_ + 192), (here + 12, here + 16)] = true
    ∃ t g', exec (.walkStep core e.wid) s = .next t ∧ tfind t.groups r.gid = some g' ∧
      (∀ n, n < 16 → tget 0 (bufOf g' r.buf).words (16 * entry + n) = BitVec.ofNat 32 ((triangleWords m w tr).getD n 0)) ∧
      (∀ n, n < 16 * entry ∨ 16 * entry + 16 ≤ n → tget 0 (bufOf g' r.buf).words n = tget 0 (bufOf g r.buf).words n) ∧
      (r.count ≤ r.delivered + 1 → bufferWord (bufOf g' r.buf).status 1 0 (r.delivered + 1) ∧ resultGains s t (some r.owed) []) ∧
      (e.next = m.fords ∨ (e.next < m.fords ∧ w.tri ≤ f e.next ∧ (reached → inWindows ∧ fordFits s m e.next ∧ (stale → mayWrite))) →
        ∃ e', (decoderOf t core).entries.find? (fun y => y.wid == e.wid) = some e' ∧ sameWalk e'.walk w ∧
          (r.delivered + 1 < r.count → e'.reqs = [{ r with delivered := r.delivered + 1 }] ∧ e'.active = true ∧ t.owed = s.owed) ∧
          (r.count ≤ r.delivered + 1 → e'.reqs = [] ∧ e'.active = false) ∧
          (reached → e'.next = e.next + 1) ∧ (¬ reached → e'.next = e.next) ∧ (¬ stale → sameBytes s t) ∧
          (stale → rec_ + 192 ≤ here ∨ here + 16 ≤ rec_ →
            RecordHolds t rec_ w (fordEntry s m e.next).gen ∧ readSpace t .d (here + 12) 2 = (fordEntry s m e.next).gen ∧
            readSpace t .d (here + 14) 1 = 1 ∧ readSpace t .d (here + 15) 1 = 0 ∧
            sameBytesBut s t fun sp a => sp = .d ∧ ((rec_ ≤ a ∧ a < rec_ + 192) ∨ (here + 12 ≤ a ∧ a < here + 15)))) ∧
      ((reached ∧ ¬ fordFits s m e.next) ∨ (e.next < m.fords ∧ f e.next < w.tri) → inWindows → r.delivered + 1 < r.count → sameBytes s t ∧
        (∀ y, y ∈ (decoderOf t core).entries → y.wid ≠ e.wid) ∧ bufferWord (bufOf g' r.buf).status 2 9 (r.delivered + 1)))

/-- R238, R245: MPATCH queues its request and owes its status; with no active lane it sends nothing. It reads the header once, and
ends with a cause or asks for its hold, which is granted once no other patch holds the stream; with no walk of the stream active
the granted patch replaces the vertex's correction bits, makes every ford past the vertex that is not unused stale under its next
generation, purges the resting entries past it from every cache, writes no other bit, and its status counts the fords. The
scalars' ranges trap whatever lanes are active (log 49); what the hold waits for, and that writes to other devices are awaited, is
log 50's. -/
def Obligations.PatchesHoldAndWrite : Prop :=
  (∀ s i d a b t p fs st, Executes s i { fs := fs, vs := [vreg d, vscalar a, vscalar b], ms := [p.toNat], tracked := 1 } →
    namesStream s i t st →
    let v := i.scalar a
    let c := i.scalar b
    let ins := Instr.mpatch d a b t p fs
    (2 ^ 32 ≤ v ∨ 2 ^ 48 ≤ c → exec ins s = .next (raise s i 0x01 p)) ∧
    (v < 2 ^ 32 → c < 2 ^ 48 → i.active p = 0 → ∃ u, exec ins s = .next u ∧ i.owesNothing s u (i.flag fs) [vName i.g d.toNat]) ∧
    (v < 2 ^ 32 → c < 2 ^ 48 → i.active p ≠ 0 → ∃ u ws, exec ins s = .next u ∧ i.owes s u [vName i.g d.toNat] (i.flag fs) 1 ∧
      (∀ tm, tfind s.teams i.g.team = some tm → ws = tm.windows) ∧
      u = { s with
        patches := s.patches ++ [⟨i.gid, none, st, v, [(BitVec.ofNat 16 c).toInt, (BitVec.ofNat 16 (c / 2 ^ 16)).toInt,
          (BitVec.ofNat 16 (c / 2 ^ 32)).toInt], i.active p, s.nextId, false, none, ws, none, false⟩]
        owed := s.owed ++ [i.newOwed s .other (i.flag fs) [vName i.g d.toNat] 1]
        groups := u.groups
        nextId := s.nextId + 1
        nextSeq := s.nextSeq + 1 })) ∧
  ∀ s n r m g, s.patches[n]? = some r → r.result = none → r.parkedOn = none → r.fatal = false → tfind s.groups r.gid = some g →
    (∀ x, x ∈ s.reqs → x.gid ≠ r.gid ∧ x.covers g.team g.core = false) →
    r.stream.space = 2 → r.windows.length ≤ 4 → meshOk r.stream r.windows false [(r.stream.base, r.stream.base + 64)] = true →
    r.corr.length = 3 → banksFree s →
    let cause := if m.verts ≤ r.vertex then 8 else if ∀ c, c ∈ r.corr → -2 ^ (m.w - 1) ≤ c ∧ c < 2 ^ (m.w - 1) then 0 else 11
    let ends := fun (t : State) (status : Nat) => t.patches = removeIx s.patches n ∧ ∀ o, s.owed.find? (fun y => y.id == r.owed) = some o →
      resultGains s t (some r.owed) (o.dests.flatMap fun d => ((List.range 32).filter (laneIn r.lanes)).map fun l => .lane d l (BitVec.ofNat 32 status))
    (r.head = none → (∀ h, ¬ MeshHeader s r.stream.base h) → ∃ t, exec (.streamHoldGrant n) s = .next t ∧ ends t 0x21000000 ∧ sameBytes s t) ∧
    (r.head = none → MeshHeader s r.stream.base m → cause ≠ 0 →
      ∃ t, exec (.streamHoldGrant n) s = .next t ∧ ends t (0x20000000 + cause * 2 ^ 24) ∧ sameBytes s t) ∧
    (r.head = none → MeshHeader s r.stream.base m → cause = 0 → ∃ t, exec (.streamHoldGrant n) s = .next t ∧ t = { s with
      banks := t.banks
      fetched := t.fetched
      patches := s.patches.set n { r with head := some (readBytes s.scratch r.stream.base 64) } }) ∧
    ∀ h, r.head = some h → parseMesh r.stream.base h = some m →
    (r.granted = false → (∀ x, x ∈ s.patches → x.granted = true → x.stream ≠ r.stream) →
      ∃ t, exec (.streamHoldGrant n) s = .next t ∧ t = { s with patches := s.patches.set n { r with granted := true } }) ∧
    (r.granted = true → walksActive s r.stream = true → exec (.streamHoldGrant n) s = .next s) ∧
    (r.granted = true → walksActive s r.stream = false → posting s r.stream.tenant (.op r.owed) = false →
      let span := bitSpan m.corAt (3 * m.w * r.vertex) (3 * m.w)
      let dir := (m.dirAt, m.dirAt + 16 * m.fords)
      (∀ write, meshOk r.stream r.windows write [span, dir] = true) → span.2 ≤ dir.1 ∨ dir.2 ≤ span.1 →
      let marked := (List.range m.fords).filter (staled s m r.vertex)
      ∃ t, exec (.streamHoldGrant n) s = .next t ∧ ends t (0x10000000 + marked.length) ∧ t.groups = s.groups ∧
        (sameBytesBut s t fun sp a => sp = .d ∧ ((span.1 ≤ a ∧ a < span.2) ∨
          ∃ j, j ∈ marked ∧ m.dirAt + 16 * j + 12 ≤ a ∧ a < m.dirAt + 16 * j + 15)) ∧
        (∀ j, j ∈ marked → readSpace t .d (m.dirAt + 16 * j + 12) 2 = ((fordEntry s m j).gen + 1) % 65536 ∧
          readSpace t .d (m.dirAt + 16 * j + 14) 1 = 2) ∧
        (∀ core e, e ∈ (decoderOf t core).entries ↔ e ∈ (decoderOf s core).entries ∧
          ¬ (e.stream = r.stream ∧ e.active = false ∧ r.vertex < e.walk.verts)) ∧
        ∀ k, (span.1 - m.corAt) * 8 ≤ k → k < (span.2 - m.corAt) * 8 → areaBit t m.corAt k =
          if 3 * m.w * r.vertex ≤ k ∧ k < 3 * m.w * r.vertex + 3 * m.w then
            (BitVec.ofInt m.w (r.corr.getD ((k - 3 * m.w * r.vertex) / m.w) 0)).getLsbD ((k - 3 * m.w * r.vertex) % m.w)
          else areaBit s m.corAt k)

/-- R246 to R249: RASTER reads its block, matrix and launch block at acceptance and owes its status word; its first piece opens
the lowest closed domain index of its die (which index is log 40's; what acceptance checks, and the pixel box, log 51's). A
triangle whose vertices are not all finite and in front of the viewer, or whose area is below the threshold, becomes a small-path
record of its screen coordinates; one beyond a viewport edge is discarded; of any other each tile that its pixel box meets takes
its next number, with a fragment group where a pixel centre is covered and a skip elsewhere. R234, R246 to R249, R278, R280: a
RASTER's walk classifies each wanted triangle that it emits. Work is done in order: a fragment group is launched on the die as a
grid of its own, with its registers, the triangle, the handle, the key and the number in k1 to k4; a skip is sent to the key's
home; a record takes the lowest free slot of the reservoir and is committed to the node. When all is classified and every fragment
group has ended, the status word arrives and the domain closes (log 51). A capture that fails ends the walk, and the work of the
triangles classified before is still done (R234). -/
def Obligations.RastersRun : Prop :=
  ((∀ s i d a t p fs st tm r mt mx b, Executes s i { fs := fs, vs := [vreg d, vscalar a], ms := [p.toNat], tracked := 1 } →
    namesStream s i t st → tfind s.teams i.g.team = some tm → tm.windows.length ≤ 4 → i.active p ≠ 0 → storesPerformed s i →
    RasterAdmitted s i tm (i.scalar a) r mt mx b →
    ∃ u, exec (.raster d a t p fs) s = .next u ∧ i.owes s u [vName i.g d.toNat] (i.flag fs) 1 ∧
      u = { s with
        rasters := s.rasters ++ [
          { id := s.nextId + 1, gid := i.gid, tenant := i.g.tenant, die := dieOf i.g.core, stream := st, first := r.first
            count := r.count, ford := r.ford, matrix := mx, width := r.width, height := r.height, target := r.target
            node := r.node, graph := BitVec.ofNat 64 r.graph, launch := b, queue := i.g.priority, handle := none, walk := none
            head := [], next := 0, due := false, windows := tm.windows, done := 0, pending := [], tileSeq := [], grids := []
            error := none, lanes := i.active p, owed := s.nextId, parkedOn := none, fatal := false }]
        owed := s.owed ++ [i.newOwed s .other (i.flag fs) [vName i.g d.toNat] 1]
        groups := u.groups
        fetched := u.fetched
        nextId := s.nextId + 2
        nextSeq := s.nextSeq + 1 }) ∧
  (∀ s r tn n g, s.rasters.find? (fun x => x.id == r.id) = some r → r.error = none → r.parkedOn = none → r.fatal = false →
    r.handle = none → tfind s.groups r.gid = some g → (∀ x, x ∈ s.reqs → x.gid ≠ r.gid ∧ x.covers g.team g.core = false) →
    tfind s.tenants r.tenant = some tn → n < 64 →
    (∀ d, tfind tn.domains n = some d → d.opened = false) → (∀ k, k < n → ∃ d, tfind tn.domains k = some d ∧ d.opened = true) →
    ∃ t r' d, exec (.rasterTriangle r.id) s = .next t ∧ t.rasters.find? (fun x => x.id == r.id) = some r' ∧
      r' = { r with handle := some (handleOf n d) } ∧ d.opened = true ∧ d.device = false ∧ d.die = r.die ∧ d.base = 0 ∧
      tfind t.tenants r.tenant = some { tn with domains := tput tn.domains n d } ∧ t.groups = s.groups ∧ sameBytes s t) ∧
  ∀ (r : Raster) (th : W32) (vs : List (List Nat)) tri, 1 ≤ r.width → r.width ≤ 16384 → 1 ≤ r.height → r.height ≤ 16384 →
    r.target < 2 ^ 32 → vs.length = 3 →
    let r' := classify r th (vs.map (screenVertex r)) tri
    let adds := fun (ws : List RasterWork) => r' = { r with
      done := r.done + 1
      pending := r.pending ++ ws
      tileSeq := r'.tileSeq }
    ((∀ sx sy z, ¬ TriangleOnScreen r vs sx sy z) → ∃ b, adds [.record b] ∧ r'.tileSeq = r.tileSeq ∧ b.length = 48 ∧
      leNat (b.take 4) = tri % 2 ^ 32 ∧ leNat (b.drop 40) = 0) ∧
    ∀ sx sy z, TriangleOnScreen r vs sx sy z →
      (beyondEdge r sx sy → adds [] ∧ r'.tileSeq = r.tileSeq) ∧
      (¬ beyondEdge r sx sy →
        let at_ := fun k => (sx k, sy k, (0 : Rat))
        ∃ area, nearestF32 (|edgeU (at_ 1) (at_ 2) + edgeV (at_ 0) (at_ 2) + edgeW (at_ 0) (at_ 1)| / 2) area ∧
        (th = 0x7F800000 ∨ ¬ atMost (unpack fmtF32 th.toNat) (unpack fmtF32 area) →
          ∃ b, adds [.record b] ∧ r'.tileSeq = r.tileSeq ∧ SmallRecord tri sx sy z b) ∧
        (th ≠ 0x7F800000 → atMost (unpack fmtF32 th.toNat) (unpack fmtF32 area) → ∃ ws, adds ws ∧
          (∀ x, x ∈ ws → ∃ tx ty, tileMet r sx sy tx ty ∧ tileGets r sx sy tri tx ty x) ∧
          (∀ tx ty, tileMet r sx sy tx ty → ws.countP (fun x => match x with
              | .fragment _ _ key _ | .skip _ key => key == keyOfTile r tx ty
              | .record _ => false) = 1 ∧ nextNumber r' (keyOfTile r tx ty) = nextNumber r (keyOfTile r tx ty) + 1) ∧
          ∀ key, (∀ tx ty, tileMet r sx sy tx ty → key ≠ keyOfTile r tx ty) → nextNumber r' key = nextNumber r key))) ∧
  ((∀ s r h m w w' tr, s.rasters.find? (fun x => x.id == r.id) = some r → r.error = none → r.parkedOn = none → r.fatal = false →
    r.handle = some h → r.pending = [] → r.walk = some w → r.due = false → parseMesh r.stream.base r.head = some m → r.stream.space = 2 →
    meshOk r.stream r.windows false (stepReads s r.stream m w) = true → walkSymbol s r.stream m w = .ok (w', some tr) →
    banksFree s →
    let f := (fordEntry s m r.next).f
    let here := m.dirAt + 16 * r.next
    let quiet := r.next = m.fords ∨ (r.next < m.fords ∧ w'.tri < f)
    let broken := r.next < m.fords ∧ f < w'.tri ∧ meshOk r.stream r.windows false [(here, here + 16)] = true
    quiet ∨ broken → ∃ t r', exec (.rasterTriangle r.id) s = .next t ∧ t.rasters.find? (fun x => x.id == r.id) = some r' ∧ t.groups = s.groups ∧
      sameBytes s t ∧
      (quiet → w'.tri ≤ r.first → r' = { r with walk := if r.done = r.count then none else some w' }) ∧
      (r.first < w'.tri → ∃ vs th, vs = triangleVertices (triangleWords m w' tr) ∧ (∀ tn, tfind s.tenants r.tenant = some tn → th = tn.config.rasterThreshold) ∧
        let c := classify r th (vs.map (screenVertex r)) (w'.tri - 1)
        (quiet → r' = { c with walk := if c.done = r.count then none else some w' }) ∧
        (broken → r' = { c with
          walk := none
          error := if c.done = r.count then none else some 9 }))) ∧
  (∀ s r h tri seq key regs rest core, FreshIds s → s.rasters.find? (fun x => x.id == r.id) = some r → r.error = none → r.parkedOn = none →
    r.fatal = false → r.handle = some h → r.pending = .fragment tri seq key regs :: rest →
    placeOnDie s r.tenant r.die r.launch.single = some core →
    ∃ t r' gid y gr, exec (.rasterTriangle r.id) s = .next t ∧ t.rasters.find? (fun x => x.id == r.id) = some r' ∧
      r' = { r with
        pending := rest
        grids := r.grids ++ [s.nextId] } ∧
      tfind t.grids s.nextId = some gr ∧ gr.block = r.launch.single ∧ gr.tenant = r.tenant ∧ gr.queue = r.queue ∧
      tfind s.groups gid = none ∧ tfind t.groups gid = some y ∧ y.vregs = regs ∧ dieOf core = r.die ∧
      GroupStarts s { y with vregs := [] } (s.nextId + 1) 0 core gr
        [(1, BitVec.ofNat 64 tri), (2, h), (3, key), (4, BitVec.ofNat 64 seq)]) ∧
  (∀ s s1 r h d seq key rest, s.rasters.find? (fun x => x.id == r.id) = some r → r.error = none → r.parkedOn = none → r.fatal = false →
    r.handle = some h → r.pending = .skip seq key :: rest → domainOf s r.tenant h = some d →
    ensureKeys s r.tenant (h.toNat % 64) d [key] = (s1, false) →
    ∃ t r' x, exec (.rasterTriangle r.id) s = .next t ∧ t.rasters.find? (fun x => x.id == r.id) = some r' ∧
      r' = { r with pending := rest } ∧ t.groups = s.groups ∧ sameBytes s t ∧ t.keys = s1.keys ∧
      t.procMsgs = s.procMsgs ++ [.request r.tenant (h.toNat % 64) key ⟨x, r.id, BitVec.ofNat 32 seq, 0, true, s.now⟩ true]) ∧
  (∀ s r h g b rest, s.rasters.find? (fun x => x.id == r.id) = some r → r.error = none → r.parkedOn = none → r.fatal = false →
    r.handle = some h → r.pending = .record b :: rest → b.length = 48 → graphOfHandle s r.tenant r.graph = some g →
    graphOf s r.tenant g.slot = some g → g.emitQueue = [] → g.reserved.length < g.slots → r.node < g.nodes.length →
    ∃ t r' k g', exec (.rasterTriangle r.id) s = .next t ∧ t.rasters.find? (fun x => x.id == r.id) = some r' ∧
      r' = { r with pending := rest } ∧ (∀ x, x ∈ g.reserved → x.slot ≠ k) ∧ (∀ j, j < k → ∃ x, x ∈ g.reserved ∧ x.slot = j) ∧
      (∀ j, j < 48 → readByte t.scratch (g.base + 256 * k + j) = b.getD j 0) ∧
      (sameBytesBut s t fun sp a => sp = .d ∧ g.base + 256 * k ≤ a ∧ a < g.base + 256 * k + 48) ∧
      graphOf t r.tenant g.slot = some g' ∧ g'.reserved = g.reserved ++ [⟨k, r.id, r.node, true⟩] ∧
      ((∃ n, g'.nodes[r.node]? = some n ∧ k ∈ n.openRecords) ∨ ∃ c, c ∈ g'.closed ∧ c.node = r.node ∧ k ∈ c.records)) ∧
  ∀ s r o ds h, s.rasters.find? (fun x => x.id == r.id) = some r → r.handle = some h → r.pending = [] → r.walk = none →
    (∀ g, g ∈ r.grids → tfind s.grids g = none) → s.owed.find? (fun x => x.id == r.owed) = some o → o.dests = ds →
    r.error.isSome = true ∨ r.done = r.count →
    ∃ t, exec (.rasterComplete r.id) s = .next t ∧ t.rasters = s.rasters.filter (fun x => x.id != r.id) ∧
      (∀ tn d, tfind t.tenants r.tenant = some tn → tfind tn.domains (h.toNat % 64) = some d → d.opened = false) ∧
      resultGains s t (some r.owed) (ds.flatMap fun d => ((List.range 32).filter (laneIn r.lanes)).map fun l => .lane d l
        (BitVec.ofNat 32 (r.error.elim (0x10000000 ||| r.done) fun c => 0x20000000 + c * 2 ^ 24))))

/-! ## Channels and processions -/

/-- R137, R140 to R146: SEND takes a credit and sends one entry of 32 elements, shifted on the lane channels; RECV takes the head
of its queue and returns a credit, PEEK leaves it; both wait while they cannot; without a partner they trap, and with no active
lane do nothing, without a partner too (log 23). Entries and credits arrive when they are due, and a wait beyond the budget, which
starts again on a restore, traps. -/
def Obligations.ChannelsCarry : Prop :=
  (∀ s i ch data p, Executes s i { vs := [vsrc data], ms := [p.toNat] } →
    let ins := Instr.send ch data p
    (i.active p = 0 → ∃ t, exec ins s = .next t ∧ i.movedOn s t ∧ t = { s with groups := t.groups }) ∧
    (i.active p ≠ 0 → partner s i.g (ch.toNat / 8) false = none → exec ins s = .next (raise s i 0x0D p)) ∧
    ∀ tm g lat t0, i.active p ≠ 0 → partner s i.g (ch.toNat / 8) false = some (tm, g, lat) → tfind s.teams i.g.team = some t0 →
      (tget 4 t0.credits (channelOf i.g.index ch) = 0 → i.waits s ins) ∧
      (tget 4 t0.credits (channelOf i.g.index ch) ≠ 0 → ∃ t e, exec ins s = .next t ∧ i.movedOn s t ∧
        t = { s with
          sends := s.sends ++ [⟨tm, 64 * g + 8 * sideOf (ch.toNat / 8) + ch.toNat % 8, e, s.now + lat⟩]
          teams := tput s.teams i.g.team { t0 with
            credits := tset 4 t0.credits (channelOf i.g.index ch) (tget 4 t0.credits (channelOf i.g.index ch) - 1) }
          groups := t.groups
          tenants := t.tenants } ∧
        e.length = 32 ∧ ∀ j, j < 32 → e.getD j 0 = if laneIn (i.active p) (feeds (ch.toNat / 8) j) then
          BitVec.ofNat 32 (srcLane i.g data.toNat (feeds (ch.toNat / 8) j) 1) else 0)) ∧
  (∀ s i ch data p fs (peek : Bool), Executes s i { fs := fs, vs := [vreg data], ms := [p.toNat], tracked := 1 } →
    let ins := if peek then Instr.peek ch data p fs else .recv ch data p fs
    let me := channelOf i.g.index ch
    (i.active p = 0 → ∃ t, exec ins s = .next t ∧ i.movedOn s t ∧ t = { s with groups := t.groups }) ∧
    (i.active p ≠ 0 → partner s i.g (ch.toNat / 8) true = none → exec ins s = .next (raise s i 0x0D p)) ∧
    ∀ tm g lat t0, i.active p ≠ 0 → partner s i.g (ch.toNat / 8) true = some (tm, g, lat) → tfind s.teams i.g.team = some t0 →
      (tget [] t0.queues me = [] → i.waits s ins) ∧
      ∀ e rest, tget [] t0.queues me = e :: rest → ∃ t, exec ins s = .next t ∧
        Iss.owesNow i { s with
            tenants := t.tenants
            teams := if peek then s.teams else tput s.teams i.g.team { t0 with queues := tset [] t0.queues me rest }
            returns := s.returns ++ if peek then [] else [⟨tm, 64 * g + 8 * sideOf (ch.toNat / 8) + ch.toNat % 8, [], s.now + lat⟩] } t
          (i.flag fs) [vName i.g data.toNat] ((i.lanes p).map fun l => .lane (vName i.g data.toNat) l (e.getD l 0))) ∧
  (∀ s n x t0, s.sends[n]? = some x → tfind s.teams x.team = some t0 →
    (s.now < x.due → exec (.channelEntryArrival n) s = .next s) ∧
    (x.due ≤ s.now → (∀ y, y ∈ s.sends.take n → y.team = x.team → y.index ≠ x.index) →
      exec (.channelEntryArrival n) s = .next { s with
        sends := removeIx s.sends n
        teams := tput s.teams x.team { t0 with queues := tset [] t0.queues x.index (tget [] t0.queues x.index ++ [x.entry]) } })) ∧
  (∀ s n x t0, s.returns[n]? = some x → tfind s.teams x.team = some t0 → x.due ≤ s.now →
    exec (.channelCreditReturn n) s = .next { s with
      returns := removeIx s.returns n
      teams := tput s.teams x.team { t0 with credits := tset 4 t0.credits x.index (tget 4 t0.credits x.index + 1) } }) ∧
  ∀ s gid g r tn i ins p, tfind s.groups gid = some g → g.park = some r → tfind s.tenants g.tenant = some tn →
    issOf s gid r.slot = some i → i.instr = some ins →
    (∃ ch data, ins = .send ch data p) ∨ (∃ ch data fs, ins = .recv ch data p fs ∨ ins = .peek ch data p fs) →
    (tn.config.chanBudget ≠ 0 → 1024 * tn.config.chanBudget.toNat < s.now - max r.since g.restart →
      ∃ u, exec (.channelStallBudget gid) s = .next (raise u i 0x0E p) ∧ u = { s with tenants := u.tenants }) ∧
    (tn.config.chanBudget = 0 ∨ s.now - max r.since g.restart ≤ 1024 * tn.config.chanBudget.toNat → exec (.channelStallBudget gid) s = .next s)

/-- R148, R149, R157: OOPEN opens a closed index with its next generation and writes the handle, or traps with 0x10; OCLOSE of a
usable handle discards the domain's entries, answers everything that waits for one as timed out, and closes the index. -/
def Obligations.DomainsOpenAndClose : Prop :=
  (∀ s i seq dom dev tr tn, Executes s i { vs := [vbro seq], ks := [dom.toNat] } → tfind s.tenants i.g.tenant = some tn →
    ((∀ n, n < 64 → ∃ d, tfind tn.domains n = some d ∧ d.opened = true) → exec (.oopen seq dom dev tr) s = .next (raise s i 0x10)) ∧
    ((∃ n, n < 64 ∧ ∀ d, tfind tn.domains n = some d → d.opened = false) → ∃ g' n d, n < 64 ∧
      exec (.oopen seq dom dev tr) s = .next (putGroup { s with
        tenants := tput s.tenants i.g.tenant { tn with domains := tput tn.domains n d } } i.gid g') ∧
      (∀ x, tfind tn.domains n = some x → x.opened = false) ∧
      d.opened = true ∧ d.generation = ((tfind tn.domains n).elim 0 fun x => x.generation) + 1 ∧ d.device = dev ∧
      d.die = dieOf i.g.core ∧ d.trap = tr ∧ d.base = BitVec.ofNat 32 (i.operand seq) ∧ kGet g' dom.toNat = handleBits n d ∧
      RegisterEffect s i g' nowhere (· = dom.toNat) nowhere i.slot.path.codes i.g.fflags)) ∧
  ∀ s i dom, Executes s i { ks := [dom.toNat] } →
    let h := kGet i.g dom.toNat
    ((∀ tn d, ¬ HandleUsable s i h tn d) → exec (.oclose dom) s = .next (raise s i 0x01)) ∧
    ∀ tn d, HandleUsable s i h tn d → ∃ t tn', exec (.oclose dom) s = .next t ∧ i.movedOn s t ∧
      t = { s with
        keys := s.keys.filter fun e => !(e.tenant == i.g.tenant && e.domain == h.toNat % 64)
        procMsgs := t.procMsgs
        tenants := tput s.tenants i.g.tenant tn'
        groups := t.groups } ∧
      (∀ x, tfind tn'.domains (h.toNat % 64) = some x → x.opened = false) ∧
      (∀ n, n ≠ h.toNat % 64 → tfind tn'.domains n = tfind tn.domains n) ∧
      (∀ e w, e ∈ s.keys → e.tenant = i.g.tenant → e.domain = h.toNat % 64 → w ∈ e.waiting → .answer w.gid w.entrant false ∈ t.procMsgs) ∧
      (∀ k w b, .request i.g.tenant (h.toNat % 64) k w b ∈ s.procMsgs → .answer w.gid w.entrant false ∈ t.procMsgs) ∧
      ∀ k w b, .request i.g.tenant (h.toNat % 64) k w b ∉ t.procMsgs

/-- R151, R152, R154: OENTER and OWAIT present one entrant per key to the keys' homes and park; once every entrant is answered
they owe the mask of the admitted lanes. A clash of numbers or an unusable handle traps with 0x01, a lane that holds already with
0x0F. OSKIP presents one number, parks, and goes on when its number has been passed. -/
def Obligations.ProcessionsEnter : Prop :=
  (∀ s i wait part key seq dom mr p fs,
    Executes s i { fs := fs, vs := [vsrc key 2, vsrc seq], ks := [dom.toNat], ms := [p.toNat], mdst := [mr.toNat], tracked := 1 } →
    let ins := enterInstr wait part key seq dom mr p fs
    let h := kGet i.g dom.toNat
    let act := fun l => laneIn (i.active p) l = true
    let mine := fun l => wait = true ∧ holdsNumber i.g l h (i.keyOf key l) (i.numberOf seq l)
    let clash := ∃ l k, l < 32 ∧ k < 32 ∧ act l ∧ act k ∧ i.keyOf key l = i.keyOf key k ∧ i.numberOf seq l ≠ i.numberOf seq k
    let holder := ∃ l, l < 32 ∧ act l ∧ ¬ mine l ∧ (i.g.holdings.find? fun x => x.lane == l).isSome = true
    (i.g.park = none →
      ((∀ tn d, ¬ HandleUsable s i h tn d) → exec ins s = .next (raise s i 0x01 p)) ∧
      ∀ tn d, HandleUsable s i h tn d →
        (clash → exec ins s = .next (raise s i 0x01 p)) ∧
        (¬ clash → holder → exec ins s = .next (raise s i 0x0F p)) ∧
        (¬ clash → ¬ holder → homesHaveRoom s →
          ∃ held : W32, (∀ l, l < 32 → (laneIn held l = true ↔ act l ∧ mine l)) ∧
            ((∀ l, l < 32 → act l → mine l) → ∃ t, exec ins s = .next t ∧ i.owesNow s t (i.flag fs) [.m mr.toNat] [.mask mr.toNat held]) ∧
            ((∃ l, l < 32 ∧ act l ∧ ¬ mine l) → ∃ t ents, exec ins s = .next t ∧
              entrantsOf i key seq (fun l => act l ∧ ¬ mine l) ents ∧ (ents.map fun e => e.id).Nodup ∧
              t = { s with
                groups := t.groups
                keys := t.keys
                nextId := s.nextId + ents.length
                procMsgs := s.procMsgs ++ ents.map fun e =>
                  .request i.g.tenant (h.toNat % 64) e.key ⟨e.id, i.gid, e.seq, e.lanes, false, s.now⟩ (!part) } ∧
              i.parkedAt t (fun w => w = .procession (!part) ents held h) ∧ othersKept s t i.gid ∧
              (∀ e, e ∈ s.keys → e ∈ t.keys) ∧
              ∀ e, e ∈ ents → ∃ k, entryOf t i.g.tenant (h.toNat % 64) e.key = some k ∧
                (entryOf s i.g.tenant (h.toNat % 64) e.key = none → k.next = d.base ∧ k.holder = none ∧ k.waiting = []))))  ∧
    ∀ r b ents held h', i.g.park = some r → r.why = .procession b ents held h' →
      ((∃ e, e ∈ ents ∧ e.answer = none) → exec ins s = .next s) ∧
      ((∀ e, e ∈ ents → e.answer ≠ none) → ∃ t m, exec ins s = .next t ∧ i.owesNow s t (i.flag fs) [.m mr.toNat] [.mask mr.toNat m] ∧
        ∀ l, l < 32 → (laneIn m l = true ↔ laneIn held l = true ∨ ∃ e, e ∈ ents ∧ e.answer = some true ∧ laneIn e.lanes l = true))) ∧
  ∀ s i key seq dom p, Executes s i { vs := [vsrc key 2, vsrc seq], ks := [dom.toNat], ms := [p.toNat] } →
    let ins := Instr.oskip key seq dom p
    let h := kGet i.g dom.toNat
    (i.g.park = none → i.active p = 0 → ∃ t, exec ins s = .next t ∧ i.movedOn s t ∧ t = { s with groups := t.groups }) ∧
    (∀ tn d low, i.g.park = none → low < 32 → laneIn (i.active p) low = true → HandleUsable s i h tn d → homesHaveRoom s →
      (∀ l, l < 32 → laneIn (i.active p) l = true → i.keyOf key l = i.keyOf key low ∧ i.numberOf seq l = i.numberOf seq low) →
      ∃ t, exec ins s = .next t ∧ i.parkedAt t (fun w => w = .oskip s.nextId h false) ∧ t = { s with
        groups := t.groups
        keys := t.keys
        nextId := s.nextId + 1
        procMsgs := s.procMsgs ++
          [.request i.g.tenant (h.toNat % 64) (i.keyOf key low) ⟨s.nextId, i.gid, i.numberOf seq low, i.active p, true, s.now⟩ true] }) ∧
    ∀ r e h' fin, i.g.park = some r → r.why = .oskip e h' fin →
      (fin = false → exec ins s = .next s) ∧
      (fin = true → ∃ t, exec ins s = .next t ∧ i.movedOn s t ∧ t = { s with groups := t.groups })

/-- R152 to R155, R158, R185, R351: a home admits the request whose number is next expected and that no holder keeps out, and
samples its wait; a leave advances next expected and admits the next. It is a release at its domain's scope: on the module it
waits until the accesses before it are performed, but for those of host pages, which count from then on for the module; on a die
the accesses count for the die's agents, and it waits for its path's MWAITs alone (logs 15, 20). An answer gives the entrant's
lanes their holding; OLEAVE posts the leave of each entrant it ends; a wait beyond the budget ends. -/
def Obligations.ProcessionsAdmitInOrder : Prop :=
  (∀ s n tn dom key w blocking e, s.procMsgs[n]? = some (.request tn dom key w blocking) →
    (∀ x, x ∈ s.procMsgs.take n → ∃ g en ok, x = .answer g en ok) → entryOf s tn dom key = some e → e.waiting = [] → noAlmanac s tn →
    (e.holder = none → e.next = w.seq → ∃ t e', exec (.processionHomeRequest n) s = .next t ∧
      t = { s with
        procMsgs := removeIx s.procMsgs n ++ [.answer w.gid w.entrant true]
        tenants := t.tenants
        keys := t.keys } ∧ (w.skip = true → t.tenants = s.tenants) ∧ (w.skip = false → admissionSampled s t tn (s.now - w.since)) ∧ entryOf t tn dom key = some e' ∧
      e' = if w.skip then { e with next := e.next + 1 } else { e with holder := some (w.entrant, w.gid) }) ∧
    (e.holder ≠ none ∨ e.next ≠ w.seq → blocking = true → ∃ t, exec (.processionHomeRequest n) s = .next t ∧
      t = { s with
        procMsgs := removeIx s.procMsgs n
        keys := t.keys } ∧ entryOf t tn dom key = some { e with waiting := [w] }) ∧
    (e.holder ≠ none ∨ e.next ≠ w.seq → blocking = false → exec (.processionHomeRequest n) s = .next { s with
      procMsgs := removeIx s.procMsgs n ++ [.answer w.gid w.entrant false] })) ∧
  (∀ s n tn dom key en gid seq rel e, s.procMsgs[n]? = some (.leave tn dom key en gid seq rel) →
    (∀ x, x ∈ s.procMsgs.take n → ∃ g e ok, x = .answer g e ok) → entryOf s tn dom key = some e → e.holder = some (en, gid) →
    noAlmanac s tn → ∀ x d, tfind s.tenants tn = some x → tfind x.domains dom = some d →
    let before := fun (r : Req) => r.isCaptured = false ∧ (r.id ∈ rel.after ∨ (r.covers rel.team rel.core = true ∧ r.seq < seq))
    let counts := fun (r : Req) => before r ∧ r.isMwait = false ∧ (d.device = false ∨ r.space = .host)
    let waits := ∃ r, r ∈ s.reqs ∧ before r ∧ ¬ counts r
    let passed := fun (rs : List Req) => rs.length = s.reqs.length ∧ ∀ (k : Nat) (r r' : Req), s.reqs[k]? = some r → rs[k]? = some r' →
      (counts r → r' = { r with reach := r.reach.or (if d.device then .dev else .die) }) ∧ (¬ counts r → r' = r)
    (waits → exec (.processionLeaveArrival n) s = .next s) ∧
    (¬ waits →
      ((∀ w, w ∈ e.waiting → w.seq ≠ e.next + 1) → ∃ t, exec (.processionLeaveArrival n) s = .next t ∧ passed t.reqs ∧
        t = { s with
          reqs := t.reqs
          procMsgs := removeIx s.procMsgs n
          keys := t.keys } ∧ entryOf t tn dom key = some { e with
            holder := none
            next := e.next + 1 }) ∧
      ∀ w, e.waiting = [w] → w.seq = e.next + 1 → w.skip = false → ∃ t, exec (.processionLeaveArrival n) s = .next t ∧ passed t.reqs ∧
        t = { s with
          reqs := t.reqs
          procMsgs := removeIx s.procMsgs n ++ [.answer w.gid w.entrant true]
          tenants := t.tenants
          keys := t.keys } ∧ admissionSampled s t tn (s.now - w.since) ∧ entryOf t tn dom key = some { e with
            holder := some (w.entrant, w.gid)
            next := e.next + 1
            waiting := [] })) ∧
  (∀ s n gid en ok g r b ents held h, s.procMsgs[n]? = some (.answer gid en ok) → s.saved = [] → tfind s.groups gid = some g →
    g.park = some r → r.why = .procession b ents held h → (ents.map fun e => e.id).Nodup →
    ∃ t g', exec (.processionAdmissionReturn n) s = .next t ∧ t = { s with
        procMsgs := removeIx s.procMsgs n
        groups := t.groups } ∧ tfind t.groups gid = some g' ∧ othersKept s t gid ∧
      g' = { g with
        park := some ⟨r.slot, r.since, .procession b (ents.map fun e => if e.id = en then { e with answer := some ok } else e) held h⟩
        holdings := g'.holdings } ∧
      ∀ x, x ∈ g'.holdings ↔ x ∈ g.holdings ∨ (ok = true ∧ ∃ e, e ∈ ents ∧ e.id = en ∧ e.answer = none ∧ x.lane < 32 ∧
        laneIn e.lanes x.lane = true ∧ x.handle = h ∧ x.key = e.key ∧ x.seq = e.seq ∧ x.entrant = en)) ∧
  (∀ s i key dom p tn d, Executes s i { vs := [vsrc key 2], ks := [dom.toNat], ms := [p.toNat] } →
    let h := kGet i.g dom.toNat
    HandleUsable s i h tn d →
    ((∃ l, l < 32 ∧ laneIn (i.active p) l = true ∧ ¬ holds i.g l h (i.keyOf key l)) → exec (.oleave key dom p) s = .next (raise s i 0x01 p)) ∧
    ((∀ l, l < 32 → laneIn (i.active p) l = true → holds i.g l h (i.keyOf key l)) → ∃ t, exec (.oleave key dom p) s = .next t ∧
      Iss.movedOn { i with g := { i.g with holdings := i.g.holdings.filter fun x => !(laneIn (i.active p) x.lane) } } s t ∧
      t = { s with
        procMsgs := t.procMsgs
        groups := t.groups
        nextSeq := s.nextSeq + 1 } ∧
      (∀ m, m ∈ s.procMsgs → m ∈ t.procMsgs) ∧
      ∀ x, x ∈ i.g.holdings → laneIn (i.active p) x.lane = true →
        (∀ y, y ∈ i.g.holdings → y.entrant = x.entrant → laneIn (i.active p) y.lane = true) →
        ∃ ids, i.precedents s ids ∧ (∀ n, n ∈ ids → ∃ q, q ∈ s.reqs ∧ q.gid = i.gid ∧ q.id = n) ∧
          .leave i.g.tenant (x.handle.toNat % 64) x.key x.entrant i.gid s.nextSeq ⟨i.g.team, i.g.core, ids⟩ ∈ t.procMsgs)) ∧
  ∀ s gid g r tn i ents held h, tfind s.groups gid = some g → g.park = some r → r.why = .procession true ents held h →
    tfind s.tenants g.tenant = some tn → issOf s gid r.slot = some i → (∀ m, m ∈ s.procMsgs → ∀ en ok, m ≠ .answer gid en ok) →
    (tn.config.procBudget = 0 ∨ s.now - max r.since g.restart ≤ 1024 * tn.config.procBudget.toNat → exec (.processionStallBudget gid) s = .next s) ∧
    ∀ d, tn.config.procBudget ≠ 0 → 1024 * tn.config.procBudget.toNat < s.now - max r.since g.restart → tfind tn.domains (h.toNat % 64) = some d →
      d.opened = true → h = handleBits (h.toNat % 64) d → (∃ e, e ∈ ents ∧ e.answer = none) → (ents.map fun e => e.id).Nodup →
      (d.trap = false → ∃ t g', exec (.processionStallBudget gid) s = .next t ∧ tfind t.groups gid = some g' ∧ othersKept s t gid ∧
        g' = { g with
          park := some ⟨r.slot, r.since, .procession true
            (ents.map fun e => if e.answer = none then { e with answer := some false } else e) held h⟩ }) ∧
      (d.trap = true → ∃ u p, exec (.processionStallBudget gid) s = .next (raise u i 0x11 p) ∧
        ∀ x e, e ∈ ents → tfind u.groups gid = some x → ∀ y, y ∈ x.holdings → y.entrant ≠ e.id)

/-! ## Launches and graphs -/

/-- R267, R268, R270, R271: LAUNCH of a block that passes the checks appends one grid to its queue, or waits while the queue is
full or an earlier access is not performed; a failed check raises 0x18 with its cause. The control cores launch the root block the
same way on queue 3 while no grid of it stands; a root block that fails a check, or cannot be read, launches nothing (logs 44,
80), and one on another device is asked for (log 80). What the checks admit is as R268 to R270 say. -/
def Obligations.GridsAreQueued : Prop :=
  (∀ s i ka q t0, Executes s i { ks := [ka.toNat] } → tfind s.tenants i.g.tenant = some t0 → noAlmanac s i.g.tenant →
    let va := (kGet i.g ka.toNat).toNat
    let load := loadLaunchAt s i.g.tenant va
    let len := (tget [] t0.queues q.toNat).length
    (va % 64 ≠ 0 ∨ 2 ^ 52 ≤ va → exec (.launch ka q) s = .next (raiseAt s i 0x18 1 i.slot.path.mask 0)) ∧
    (∀ c, load = .ok (.error c) → exec (.launch ka q) s = .next (raiseAt s i 0x18 c i.slot.path.mask 0)) ∧
    ∀ b bytes, load = .ok (.ok (b, bytes)) →
      (¬ allPerformed s i ∨ 64 ≤ len → i.waits s (.launch ka q)) ∧
      (allPerformed s i → len < 64 → ∃ t, exec (.launch ka q) s = .next t ∧ i.movedOn s t ∧
        queuesGrid s t i.g.tenant q.toNat b none false t0 t0)) ∧
  (∀ s tn t0 b bytes, tfind s.tenants tn = some t0 → loadLaunchAt s tn t0.config.rootBlock = .ok (.ok (b, bytes)) →
    let stands := ∃ p, p ∈ s.grids ∧ p.2.tenant = tn ∧ p.2.isRoot = true
    let room := (tget [] t0.queues 3).length < 64
    (t0.state ≠ .running ∨ stands ∨ ¬ room → exec (.rootProgramLaunch tn) s = .next s) ∧
    (t0.state = .running → ¬ stands → room →
      ∃ t, exec (.rootProgramLaunch tn) s = .next t ∧ t.groups = s.groups ∧ queuesGrid s t tn 3 b none true t0 t0)) ∧
  (∀ s tn t0, tfind s.tenants tn = some t0 → t0.state = .running → (∀ p, p ∈ s.grids → p.2.tenant = tn → p.2.isRoot = false) →
    (tget [] t0.queues 3).length < 64 →
    let load := loadLaunchAt s tn t0.config.rootBlock
    let ins := Instr.rootProgramLaunch tn
    ((∃ c, load = .ok (.error c)) ∨ (∃ va, load = .failed va) → ∃ t, exec ins s = .next t ∧ t = { s with fetched := t.fetched }) ∧
    ∀ dev rva va, load = .wait dev rva va → (∀ r, r ∈ s.remotes → r.use ≠ .unit tn va) →
      ∃ t, exec ins s = .next t ∧ t.grids = s.grids ∧ t.tenants = s.tenants ∧
        (t.remotes = s.remotes ++ [⟨s.nextId, dev, .unit tn va, s.now, false, false⟩] ∨ ∃ x, x ∈ t.fetched ∧ x.tenant = tn ∧ x.va = va ∧ x.data = none)) ∧
  ∀ c bytes a b, checkLaunch c bytes a = .ok b → LaunchLegal c b

/-- R271 to R273, R279, R281: a placement step places the next team of a ready head, all of a ported one, or a batch, whose
records it copies into T; a head that does not fit is passed over. A one-core team goes to the core that keeps the most free
positions, a ported block to the northernmost, then westernmost rectangle. A graph offers first the oldest batch of the node with
the most records that wait, of equal ones the lowest node, and the next where that one does not fit. A batch's team is a grid of
its own (log 61). What a group's L allocation holds of an earlier group's join records and stack is free (log 88). A team starts
64 clocks later. A head passed over at 4,096 steps running holds what is freed from then on. -/
def Obligations.TeamsArePlaced : Prop :=
  (∀ s tn t q gr rest g, s.cxops = [] → s.diesInReset = false → s.ucieUp = true → (∀ p, p ∈ s.teams → teamBusy s p.1 p.2 = true) → s.tenants = [(tn, t)] →
    t.state = .running → t.graphs = [] → q < 4 → tget [] t.queues q = gr :: rest → (∀ k, k < 4 → k ≠ q → tget [] t.queues k = []) →
    tfind s.grids gr = some g → g.depReady = true → g.tenant = tn → g.queue = q →
    let place := if g.block.ports then rectangleFor s tn gr g.block else placeFor s tn gr g.block
    (place = none → exec .placementStep s = .next { s with grids := tput s.grids gr { g with passedOver := g.passedOver + 1 } }) ∧
    ∀ cs, place = some cs →
      (g.block.ports = false → ∃ u x last, exec .placementStep s = .next u ∧ TeamPlaced s u gr g s.nextId g.placedTeams cs [] x ∧
        x.tmem = [] ∧ last = decide (g.block.gx * g.block.gy ≤ g.placedTeams + 1) ∧ (∀ y, y < s.nextId → tfind u.groups y = tfind s.groups y) ∧
        sameBytesBut s u (fun sp a => sp = .t s.nextId ∨ inForkArea s sp a) ∧ areasLaid s u ∧
        (∀ y h p, y ∈ x.live → tfind u.groups y = some h → p ∈ u.forkAreas → p.1 + 4096 ≤ h.lBase ∨ h.lBase + 0x3000 + h.regArea + h.progArea ≤ p.1) ∧
        tfind u.grids gr = some { g with
          placedTeams := g.placedTeams + 1
          liveTeams := g.liveTeams ++ [s.nextId]
          passedOver := 0
          reserve := if last then none else g.reserve } ∧
        ∀ t', tfind u.tenants tn = some t' → tget [] t'.queues q = if last then rest.filter (· != gr) else gr :: rest) ∧
      (g.block.ports = true → ∃ u, exec .placementStep s = .next u ∧
        (∀ k c, cs[k]? = some c → ∃ tm x, s.nextId ≤ tm ∧ TeamPlaced s u gr g tm k [c] [] x ∧ x.tmem = []) ∧
        ∀ t', tfind u.tenants tn = some t' → gr ∉ tget [] t'.queues q)) ∧
  (∀ s tn t g b n cs before after, s.cxops = [] → s.diesInReset = false → s.ucieUp = true →
    (∀ p, p ∈ s.teams → teamBusy s p.1 p.2 = true) → s.tenants = [(tn, t)] → banksFree s →
    t.state = .running → t.graphs = [g] → (∀ k, k < 4 → tget [] t.queues k = []) → g.nodes[b.node]? = some n →
    placeFor s tn s.nextId n.block = some cs →
    let mine := fun k => g.closed.filter fun x => x.node == k
    let waiting := fun k => ((mine k).map fun x => x.records.length).sum + ((g.nodes[k]?).map fun x => x.openRecords.length).getD 0
    g.closed = before ++ b :: after → (∀ x, x ∈ before → x.node ≠ b.node) →
    (∀ k m, k ≠ b.node → g.nodes[k]? = some m → mine k ≠ [] → placeFor s tn s.nextId m.block = none ∨
      waiting k < waiting b.node ∨ (waiting k = waiting b.node ∧ b.node < k)) →
    ∃ u x gr, exec .placementStep s = .next u ∧ gr.block = n.block ∧ gr.queue = g.queue ∧ gr.tenant = tn ∧ gr.graph = some (g.slot, b.node) ∧
      TeamPlaced s u s.nextId gr (s.nextId + 1) 0 cs [(1, BitVec.ofNat 64 b.records.length), (2, BitVec.ofNat 64 b.node),
        (3, BitVec.ofNat 64 (g.generation * 2 ^ 16 + g.slot))] x ∧
      (∀ k j, k < b.records.length → j < n.recordSize →
        readByte x.tmem (k * n.recordSize + j) = readByte s.scratch (g.base + 256 * b.records.getD k 0 + j)) ∧
      graphOf u tn g.slot = some { g with
        closed := before ++ after
        reserved := g.reserved.filter fun r => !(b.records.contains r.slot)
        batches := min (2 ^ 24 - 1) (g.batches + 1) }) ∧
  (∀ s tn t q gr rest g, s.cxops = [] → s.diesInReset = false → s.ucieUp = true → (∀ p, p ∈ s.teams → teamBusy s p.1 p.2 = true) →
    s.tenants = [(tn, t)] → t.state = .running → q < 4 → tget [] t.queues q = gr :: rest → gr ∉ rest →
    (∀ k, k < 4 → k ≠ q → gr ∉ tget [] t.queues k) → tfind s.grids gr = some g → g.depReady = true → gr < s.nextId →
    let place := if g.block.ports then rectangleFor s tn gr g.block else placeFor s tn gr g.block
    ∃ u, exec .placementStep s = .next u ∧ ∀ x, tfind u.grids gr = some x → x.passedOver = if place = none then g.passedOver + 1 else 0) ∧
  (∀ s tn t gr b cs, tfind s.tenants tn = some t → placeFor s tn gr b = some cs → b.threads ≤ 2048 →
    let free := fun c => (freePositions s c).length
    ∃ c, cs = [c] ∧ c ∈ t.config.cores ∧ coreFits s (otherReserves s tn gr) b 0 c = true ∧
      ∀ d, d ∈ t.config.cores → coreFits s (otherReserves s tn gr) b 0 d = true → free d < free c ∨ (free d = free c ∧ c ≤ d)) ∧
  (∀ s tn t gr b cs, tfind s.tenants tn = some t → rectangleFor s tn gr b = some cs →
    let rect := fun r c => (List.range b.gy).flatMap fun y => (List.range b.gx).map fun x => 16 * (r + y) + (c + x)
    let fits := fun r c => r + b.gy ≤ 16 ∧ c + b.gx ≤ 16 ∧
      ∀ d, d ∈ rect r c → d ∈ t.config.cores ∧ coreFits s (otherReserves s tn gr) b 0 d = true
    ∃ r c, cs = rect r c ∧ fits r c ∧ ∀ r' c', fits r' c' → r' < 16 → c' < 16 → r < r' ∨ (r = r' ∧ c ≤ c')) ∧
  (∀ s tm x, tfind s.teams tm = some x →
    exec (.teamStart tm) s = .next { s with teams := tput s.teams tm { x with started := x.started || decide (x.placedAt + 64 ≤ s.now) } }) ∧
  ∀ s tn q t gr rest g, tfind s.tenants tn = some t → tget [] t.queues q = gr :: rest → tfind s.grids gr = some g →
    g.reserve = none → 4096 ≤ g.passedOver → ∃ r, exec (.headReserving tn q) s = .next { s with grids := tput s.grids gr { g with reserve := some r } } ∧
      ∀ c p, c ∈ t.config.cores → p < 64 → ((tget 0 r.positions c).testBit p = true ↔ ∀ x, x ∈ s.groups → ¬ (x.2.core = c ∧ x.2.position = p))

/-- R271, R274, R283: a head's dependence is met once its word is at least the value; a fatal reply drops the grid with a kill
record of scope grid. A grid whose teams have all ended adds 1 to its completion word and leaves with its teams. SIGNAL adds to
its word, after the group's earlier accesses, and then sends its vector. -/
def Obligations.WordsAreAddedTo : Prop :=
  (∀ s tn q t gr rest g, tfind s.tenants tn = some t → tget [] t.queues q = gr :: rest → tfind s.grids gr = some g → g.depReady = false →
    let ins := Instr.dependenceWordCheck tn q
    (g.fatal = true → exec ins s = .next (killRecord { s with
      grids := tdel s.grids gr
      tenants := tput s.tenants tn { t with queues := tset [] t.queues q ((gr :: rest).filter (· != gr)) } } tn (2 * 16 + tn) 0 0 0)) ∧
    (∀ a, g.fatal = false → g.block.dependence = .d a → exec ins s = .next { s with
      grids := tput s.grids gr { g with depReady := decide (g.block.depValue ≤ readSpace s .d a 8) } }) ∧
    (∀ va a, g.fatal = false → g.block.dependence = .m va → g.parkedOn = none → va % 8 = 0 →
      translate s tn (va / 64 * 64) .read = .ok (.main a) →
      ∃ u, exec ins s = .next u ∧ u = { s with
        grids := tput s.grids gr { g with depReady := decide (g.block.depValue ≤ readSpace s .m (a + va % 64) 8) }
        fetched := u.fetched })) ∧
  (∀ s gr g, tfind s.grids gr = some g →
    let ended := g.block.gx * g.block.gy ≤ g.placedTeams ∧ ∀ tm, tm ∈ g.liveTeams → ∃ x, tfind s.teams tm = some x ∧ teamBusy s tm x = false
    let gone := fun sp => ∃ tm, tm ∈ g.liveTeams ∧ sp = .t tm
    let leaves := fun (t : State) => tfind t.grids gr = none ∧ ∀ tm, tm ∈ g.liveTeams → tfind t.teams tm = none
    (¬ ended → exec (.gridCompletion gr) s = .next s) ∧
    (ended → g.parkedOn = none → g.block.completion = .none ∨ g.fatal = true →
      ∃ t, exec (.gridCompletion gr) s = .next t ∧ leaves t ∧ sameBytesBut s t fun sp _ => gone sp) ∧
    ∀ sp a, ended → g.parkedOn = none → g.fatal = false → wordLies s g.tenant g.block.completion sp a →
      ∃ t, exec (.gridCompletion gr) s = .next t ∧ leaves t ∧ wordAdded s t sp a 1 gone) ∧
  ∀ s i ka kb irq vec t0, Executes s i { ks := [ka.toNat, kb.toNat] } → tfind s.tenants i.g.tenant = some t0 →
    let w := (kGet i.g ka.toNat).toNat
    let ins := Instr.signal ka kb irq vec
    let word := fun x => (∃ a, w = 2 ^ 63 + a ∧ a % 8 = 0 ∧ a < 2 ^ 30 ∧ x = .d a) ∨ ∃ a, w = 3 * 2 ^ 62 + a ∧ a % 8 = 0 ∧ a < 2 ^ 52 ∧ x = .m a
    ((∀ x, ¬ word x) → exec ins s = .next (raise s i 0x01)) ∧
    (∀ a, word (.d a) → ¬ allocated s i.g .d true a 8 → exec ins s = .next (raiseAt s i 0x07 0 i.slot.path.mask a)) ∧
    ∀ x sp a, word x → wordLies s i.g.tenant x sp a → (sp = .d → allocated s i.g .d true a 8) → i.g.park = none →
      (¬ allPerformed s i (BitVec.allOnes 32) → exec ins s = .next s) ∧
      (allPerformed s i (BitVec.allOnes 32) → ∃ t, exec ins s = .next t ∧ i.movedOn s t ∧ wordAdded s t sp a (kGet i.g kb.toNat).toNat (fun _ => False) ∧
        tfind t.tenants i.g.tenant = some { t0 with msix := t0.msix ++ if irq then [vec.toNat] else [] })

/-- R275 to R277: GLAUNCH takes the lowest free graph slot (which one is log 104's), with its next generation, queues the entry
grid and writes the handle, or traps. WAITG owes the final status, whose delivery frees the slot. A graph ends once its entry grid
has, no record is held and nothing of its teams is under way; it adds 1 to its completion word and ends with state 1, 2 after a
deadlock, or 3 with the node first killed. R277: the delivery of WAITG's status frees the graph's slot, and no other. -/
def Obligations.GraphsLaunchAndEnd : Prop :=
  ((∀ s i ka kb q t0, Executes s i { ks := [ka.toNat, kb.toNat] } → tfind s.tenants i.g.tenant = some t0 → noAlmanac s i.g.tenant →
    let tn := i.g.tenant
    let load := loadGraph s tn (kGet i.g kb.toNat).toNat
    let ins := Instr.glaunch ka kb q
    let used := fun n => ∃ x, x ∈ t0.graphs ∧ x.slot = n
    (∀ c, load = .ok (.error c) → exec ins s = .next (raiseAt s i 0x18 c i.slot.path.mask 0)) ∧
    ∀ g bytes, load = .ok (.ok (g, bytes)) →
      ((∀ n, n < 4 → used n) → exec ins s = .next (raiseAt s i 0x18 11 i.slot.path.mask 0)) ∧
      ∀ n nd, n < 4 → ¬ used n → (∀ k, k < n → used k) → g.nodes[g.entry]? = some nd →
        (¬ allPerformed s i ∨ 64 ≤ (tget [] t0.queues q.toNat).length → i.waits s ins) ∧
        (allPerformed s i → (tget [] t0.queues q.toNat).length < 64 →
          let gen := (tget 0 t0.graphGens n + 1) % 2 ^ 16
          ∃ t g', exec ins s = .next t ∧ tfind t.groups i.gid = some g' ∧ othersKept s t i.gid ∧
            kGet g' ka.toNat = BitVec.ofNat 64 (gen * 2 ^ 16 + n) ∧
            RegisterEffect s i g' nowhere (· = ka.toNat) nowhere i.slot.path.codes i.g.fflags ∧
            queuesGrid s t tn q.toNat nd.block (some (n, g.entry)) false t0 { t0 with
              graphs := t0.graphs ++ [{ g with
                slot := n
                generation := gen
                queue := q.toNat }]
              graphGens := tset 0 t0.graphGens n gen })) ∧
  (∀ s i ka kb fs t0, Executes s i { fs := fs, ks := [ka.toNat, kb.toNat], tracked := 1 } → tfind s.tenants i.g.tenant = some t0 →
    FreshIds s →
    let h := (kGet i.g kb.toNat).toNat
    let mine := fun (g : Graph) => g.generation * 2 ^ 16 + g.slot == h
    let ins := Instr.waitg ka kb fs
    let d := kName i.g ka.toNat
    (t0.graphs.find? mine = none → exec ins s = .next (raise s i 0x01)) ∧
    ∀ g, t0.graphs.find? mine = some g →
      (g.waiter.isSome = true → exec ins s = .next (raise s i 0x01)) ∧
      (∀ x, g.waiter = none → g.final = some x → ∃ t, exec ins s = .next t ∧
        i.owesNow { s with tenants := tput s.tenants i.g.tenant { t0 with graphs := t0.graphs.map fun y =>
          if y.slot = g.slot then { y with waiter := some s.nextId } else y } } t
          (i.flag fs) [d] [kWrite i.g ka.toNat (x.setWidth 64)]) ∧
      (g.waiter = none → g.final = none → ∃ t, exec ins s = .next t ∧ i.owes s t [d] (i.flag fs) 1 ∧ t = { s with
        owed := s.owed ++ [i.newOwed s .other (i.flag fs) [d] 1]
        groups := t.groups
        nextId := s.nextId + 1
        tenants := tput s.tenants i.g.tenant { t0 with graphs := t0.graphs.map fun y =>
          if y.slot = g.slot then { y with waiter := some s.nextId } else y } })) ∧
  ∀ s tn gs g, graphOf s tn gs = some g → g.final = none → g.parkedOn = none →
    let ended := g.entryEnded = true ∧ g.reserved = [] ∧
      ∀ p n, p ∈ s.teams → p.2.tenant = tn → p.2.node = some (gs, n) → teamBusy s p.1 p.2 = false
    let st := match g.killedNode with
      | some n => 3 * 2 ^ 28 + n * 2 ^ 24 + g.batches
      | none => (if g.deadlocked then 2 else 1) * 2 ^ 28 + g.batches
    let ins := Instr.graphCompletion tn gs
    let records := fun (t : State) => onlyGraph s t tn gs ∧ t.groups = s.groups ∧
      graphOf t tn gs = some { g with final := some (BitVec.ofNat 32 st) } ∧ (g.waiter = none → t.owed = s.owed) ∧
      ∀ id o n, g.waiter = some id → s.owed.find? (fun x => x.id == id) = some o → o.dests = [.k n] →
        resultGains s t (some id) [.k n (BitVec.ofNat 64 st)]
    (¬ ended → exec ins s = .next s) ∧
    (ended → g.completion = .none ∨ g.fatal = true → ∃ t, exec ins s = .next t ∧ records t ∧ sameBytes s t) ∧
    ∀ sp a, ended → g.fatal = false → wordLies s tn g.completion sp a →
      ∃ t, exec ins s = .next t ∧ records t ∧ wordAdded s t sp a 1 (fun _ => False)) ∧
  (∀ s id o g0 tn t gs g x, s.owed.find? (fun y => y.id == id) = some o → o.id = id → o.parts = 0 → o.kind = .other →
    tfind s.groups o.gid = some g0 → tfind s.tenants tn = some t → (t.graphs.map fun y => y.slot).Nodup → graphOf s tn gs = some g → g.final = some x → g.waiter = some id →
    (∀ p y, p ∈ s.tenants → y ∈ p.2.graphs → y.waiter = some id → p.1 = tn ∧ y.slot = gs) →
    ∃ u, exec (.resultArrival id) s = .next u ∧ graphOf u tn gs = none ∧
      ∀ n k, n ≠ tn ∨ k ≠ gs → graphOf u n k = graphOf s n k)

/-- R278 to R280, R282: EMIT owes each active lane the address of one of the lowest free slots, in lane order, or parks in the
graph's queue, where a deadlock is found; it traps at its next issue (log 46). COMMIT appends its records to their node's open
batch, which closes once it is full, when its time-out has passed, before another record joins it, or when the graph is idle. -/
def Obligations.RecordsFlow : Prop :=
  (∀ s i vd kb p fs tm gs nn g, Executes s i { fs := fs, vs := [vreg vd], ks := [kb.toNat], ms := [p.toNat], tracked := 1 } →
    i.g.handler = none → tfind s.teams i.g.team = some tm → tm.node = some (gs, nn) → graphOf s i.g.tenant gs = some g →
    let k := (kGet i.g kb.toNat).toNat
    let ls := i.lanes p
    let d := vName i.g vd.toNat
    let ins := Instr.emit vd kb p fs
    let used := fun n => ∃ r, r ∈ g.reserved ∧ r.slot = n
    let first := (∀ x, x ∈ g.emitQueue → x = i.gid) ∨ g.emitQueue.head? = some i.gid
    let dead := ∃ r, i.g.park = some r ∧ r.why = .emit true
    (g.nodes.length ≤ k ∨ k = g.entry → exec ins s = .next (raise s i 0x01 p)) ∧
    (k < g.nodes.length → k ≠ g.entry →
      (ls = [] → ∃ t, exec ins s = .next t ∧ i.owesNow s t (i.flag fs) [d] []) ∧
      (ls ≠ [] → dead → ∃ u, exec ins s = .next (raise u i 0x14 p) ∧ u = { s with tenants := u.tenants } ∧ onlyGraph s u i.g.tenant gs ∧
        graphOf u i.g.tenant gs = some { g with emitQueue := g.emitQueue.filter (· != i.gid) }) ∧
      (ls ≠ [] → ¬ dead → first → g.reserved.length + ls.length ≤ g.slots → ∃ (t : State) (ks : List Nat), exec ins s = .next t ∧
        ks.length = ls.length ∧ ks.Pairwise (· < ·) ∧ (∀ x, x ∈ ks → x < g.slots ∧ ¬ used x) ∧
        (∀ x y, x ∈ ks → ¬ used y → y ∉ ks → x < y) ∧ onlyGraph s t i.g.tenant gs ∧
        graphOf t i.g.tenant gs = some { g with
          emitQueue := g.emitQueue.filter (· != i.gid)
          reserved := g.reserved ++ ks.map fun x => ⟨x, i.gid, k, false⟩ } ∧
        i.owesNow { s with tenants := t.tenants } t (i.flag fs) [d]
          ((ls.zip ks).map fun x => .lane d x.1 (BitVec.ofNat 32 (g.base + 256 * x.2)))) ∧
      (ls ≠ [] → ¬ dead → ¬ (first ∧ g.reserved.length + ls.length ≤ g.slots) → s.groups.Pairwise (fun q r => q.1 < r.1) →
        ∃ t stuck, exec ins s = .next t ∧ i.parkedAt t (fun w => w = .emit stuck) ∧ onlyGraph s t i.g.tenant gs ∧
          (stuck = true ↔ g.reserved.length = g.slots ∧ (∀ r, r ∈ g.reserved → r.committed = false) ∧
            ∀ x, x ∈ graphGroups s i.g.tenant gs → x.1 ≠ i.gid → x.2.atEmit = true) ∧
          graphOf t i.g.tenant gs = some { g with
            emitQueue := if i.gid ∈ g.emitQueue then g.emitQueue else g.emitQueue ++ [i.gid]
            deadlocked := g.deadlocked || stuck }))) ∧
  (∀ s i vs p tm gs nn g, Executes s i { vs := [vsrc vs], ms := [p.toNat] } → noAlmanac s i.g.tenant →
    tfind s.teams i.g.team = some tm → tm.node = some (gs, nn) → graphOf s i.g.tenant gs = some g →
    let at_ := fun l => srcLane i.g vs.toNat l 1
    let names := fun l k => at_ l = g.base + 256 * k ∧ ∃ r, g.reserved.find? (fun x => x.slot == k) = some r ∧ r.committed = false
    let ins := Instr.commit vs p
    ((∃ l, l ∈ i.lanes p ∧ ∀ k r, at_ l = g.base + 256 * k → r ∈ g.reserved → r.slot = k → r.committed = true) ∨
      (∃ l l', l ∈ i.lanes p ∧ l' ∈ i.lanes p ∧ l ≠ l' ∧ at_ l = at_ l') → exec ins s = .next (raise s i 0x01 p)) ∧
    ∀ ks node n, ks.length = (i.lanes p).length → (∀ x, x ∈ (i.lanes p).zip ks → names x.1 x.2) → ks.Nodup → ks ≠ [] →
      (∀ k r, k ∈ ks → g.reserved.find? (fun x => x.slot == k) = some r → r.node = node) → g.nodes[node]? = some n →
      let due := n.timeout ≠ 0 ∧ n.openRecords ≠ [] ∧ n.openedTick + n.timeout ≤ s.now / 12
      let rs := (if due then [] else n.openRecords) ++ ks
      rs.length ≤ n.batch →
      (¬ devicePerformed s i (BitVec.allOnes 32) → exec ins s = .next s) ∧
      (devicePerformed s i (BitVec.allOnes 32) → ∃ t, exec ins s = .next t ∧ i.movedOn s t ∧ onlyGraph s t i.g.tenant gs ∧
        (t.reqs = s.reqs.map fun r => if (r.gid == i.gid || r.covers i.g.team i.g.core) && !r.isMwait && r.space == .host then
          { r with reach := r.reach.or .dev } else r) ∧
        let full := rs.length = n.batch
        graphOf t i.g.tenant gs = some { g with
          reserved := g.reserved.map fun r => if r.slot ∈ ks then { r with committed := true } else r
          closed := (g.closed ++ if due then [⟨node, n.openRecords⟩] else []) ++ if full then [⟨node, rs⟩] else []
          nodes := g.nodes.set node { n with
            openRecords := if full then [] else rs
            openedTick := if full then 0 else if n.openRecords = [] ∨ due then s.now / 12 else n.openedTick } })) ∧
  (∀ s tn gs node g n, noAlmanac s tn → graphOf s tn gs = some g → g.nodes[node]? = some n →
    let due := n.timeout ≠ 0 ∧ n.openRecords ≠ [] ∧ n.openedTick + n.timeout ≤ s.now / 12
    (due → ∃ t, exec (.batchTimeout tn gs node) s = .next t ∧ closesBatch s t tn gs node) ∧
    (¬ due → exec (.batchTimeout tn gs node) s = .next s)) ∧
  ∀ s tn gs node g n, noAlmanac s tn → graphOf s tn gs = some g → g.nodes[node]? = some n → n.openRecords ≠ [] →
    let idle := g.closed = [] ∧ ∀ x, x ∈ graphGroups s tn gs → x.2.atEmit = true
    (idle → ∃ t, exec (.batchIdleClose tn gs node) s = .next t ∧ closesBatch s t tn gs node) ∧
    (¬ idle → exec (.batchIdleClose tn gs node) s = .next s)

/-! ## Contexts, faults and selection -/

/-- R306 to R309: CXSAVE and CXLOAD of a tenant in the wrong condition owe state 4; ill-formed operands raise 0x01, and both wait
for the group's earlier accesses. CXSAVE of a drained tenant takes its context out of the module and writes the area, its header
as R307 lays it out, or owes state 3 where the area is too small. The layout of the records is free (log entry 8). R121, R147,
R306 to R309: CXLOAD reads its area: a header that names no context of the tenant owes state 5, an area that is too small state 3.
Else the context that the area holds comes back, whichever was saved last: a team where it stood if those cores are free, a ported
block on some block of its shape. Every group comes back with every register, its stack reloaded and its stall budgets begun
again, on the core of its team's number, once no die is held in reset (R353). That the old place is tried first is the model's
choice (log entry 56). R296, R297, R309: CXKILL kills the group at a position, its team or its grid, or resets a context, and owes
state 1, or state 4 where nothing stands there; ill-formed operands raise 0x01, and it waits for the group's earlier accesses. -/
def Obligations.ContextInstructions : Prop :=
  ((∀ s i ka kb kc fs (save : Bool), Executes s i { fs := fs, ks := [ka.toNat, kb.toNat, kc.toNat], priv := true, tracked := 1 } →
    FreshIds s →
    let ins := if save then Instr.cxsave ka kb kc fs else .cxload ka kb kc fs
    let kt := (kGet i.g kb.toNat).toNat
    let area := (kGet i.g kc.toNat).toNat
    let tn := kt % 16
    let bad := kt / 2 ^ 4 % 2 ^ 28 ≠ 0 ∨ area % 4096 ≠ 0 ∨ 2 ^ 52 ≤ area ∨ tn = i.g.tenant
    let running := ∃ t, tfind s.tenants tn = some t ∧ t.state = .running
    (bad → exec ins s = .next (raise s i 0x01)) ∧
    (¬ bad → ¬ allPerformed s i → exec ins s = .next s) ∧
    (¬ bad → allPerformed s i → (save = true ∧ ¬ running) ∨ (save = false ∧ running) →
      ∃ t, exec ins s = .next t ∧ i.owesStatus s t fs ka (4 * 2 ^ 28) ∧ sameBytes s t ∧ othersKept s t i.gid ∧ t.tenants = s.tenants)) ∧
  ∀ s i ka kb kc fs t0 place, Executes s i { fs := fs, ks := [ka.toNat, kb.toNat, kc.toNat], priv := true, tracked := 1 } →
    FreshIds s → s.cxops = [] → allPerformed s i →
    let kt := (kGet i.g kb.toNat).toNat
    let area := (kGet i.g kc.toNat).toNat
    let tn := kt % 16
    let size := kt / 2 ^ 32 * 4096
    let need := contextSize s t0 tn
    kt / 2 ^ 4 % 2 ^ 28 = 0 → area % 4096 = 0 → area < 2 ^ 52 → tn ≠ i.g.tenant → tfind s.tenants tn = some t0 → t0.state = .running →
    Drained s tn →
    (size < need → ∃ t, exec (.cxsave ka kb kc fs) s = .next t ∧ i.owesStatus s t fs ka (3 * 2 ^ 28 + (need + 4095) / 4096) ∧
      sameBytes s t ∧ othersKept s t i.gid) ∧
    (need ≤ size → AreaMapped s i.g.tenant area need .write place →
      ∃ t c, exec (.cxsave ka kb kc fs) s = .next t ∧ i.owesStatus s t fs ka (2 ^ 28 + (need + 4095) / 4096) ∧
        c ∈ t.saved ∧ c ∈ t.images ∧ c.tenant = tn ∧ c.area = area ∧ c.state = 1 ∧
        c.groups = ((s.groups.filter fun p => p.2.tenant == tn).map fun p => (p.1, saveGroup p.2)) ∧
        c.teams = (s.teams.filter fun p => p.2.tenant == tn) ∧
        (∀ p, p ∈ t.groups → p.2.tenant ≠ tn) ∧ (∀ p, p ∈ t.teams → p.2.tenant ≠ tn) ∧
        (∀ x, tfind t.tenants tn = some x → x.state = .saved) ∧
        areaHeader t place area tn ∧ areaField t place (area + 5) 1 = 1 ∧ areaField t place (area + 8) 4 = c.teams.length % 2 ^ 32 ∧
        areaField t place (area + 12) 4 = c.groups.length % 2 ^ 32 ∧ areaField t place (area + 64) 8 = 4096 ∧
        (∀ k, k < need → areaBytes t place (area + k) 1 = [(contextImage c).getD k 0]) ∧
        ∀ a, (∀ va, area ≤ va → va < area + need → place va ≠ a) → readByte t.main a = readByte s.main a)) ∧
  (∀ s i ka kb kc fs t0 place, Executes s i { fs := fs, ks := [ka.toNat, kb.toNat, kc.toNat], priv := true, tracked := 1 } →
    FreshIds s → s.cxops = [] → s.xchgs = [] → allPerformed s i → s.diesInReset = false → s.ucieUp = true →
    let kt := (kGet i.g kb.toNat).toNat
    let area := (kGet i.g kc.toNat).toNat
    let tn := kt % 16
    let size := kt / 2 ^ 32 * 4096
    let ins := Instr.cxload ka kb kc fs
    let own := i.g.tenant
    kt / 2 ^ 4 % 2 ^ 28 = 0 → area % 4096 = 0 → area < 2 ^ 52 → tn ≠ own → tfind s.tenants tn = some t0 → t0.state ≠ .running →
    t0.state ≠ .frozen →
    (∀ p, p ∈ s.tenants → p.1 ≠ tn → p.2.state = .running ∨ p.2.state = .frozen → ∀ d, d ∈ p.2.config.cores → d ∉ t0.config.cores) →
    AreaMapped s own area 4096 .read place →
    let n := areaLength s place area
    (¬ areaHeader s place area tn → ∃ t, exec ins s = .next t ∧ i.owesStatus s t fs ka (5 * 2 ^ 28) ∧ sameBytes s t ∧ othersKept s t i.gid) ∧
    (areaHeader s place area tn → size < n → ∃ t, exec ins s = .next t ∧ i.owesStatus s t fs ka (3 * 2 ^ 28 + (n + 4095) / 4096) ∧
      sameBytes s t ∧ othersKept s t i.gid) ∧
    ∀ c, areaHeader s place area tn → n ≤ size → AreaMapped s own area n .read place →
      s.images.find? (fun c => c.tenant == tn && contextImage c == areaBytes s place area n) = some c → ContextFits s i c →
      let back := fun (t : State) => i.owesStatus s t fs ka (2 ^ 28 + (n + 4095) / 4096) ∧
        (∀ x, tfind t.tenants tn = some x → x.state = .running) ∧ (∀ p, p ∈ t.saved → p.tenant ≠ tn) ∧
        ∀ x, x ≠ i.gid → (∀ p, p ∈ c.groups → p.1 ≠ x) → tfind t.groups x = tfind s.groups x
      (∀ tm x, c.teams = [(tm, x)] → (∀ g, tfind s.grids x.grid = some g → g.block.ports = false) → x.cores.Nodup →
        (∀ d, d ∈ x.cores → d ∈ t0.config.cores ∧ CoreIdle s d) → TeamRoom c tm x →
        ∃ t, exec ins s = .next t ∧ back t ∧ tfind t.teams tm = some x ∧
          (∀ p q g h, p ∈ c.groups → q ∈ c.groups → p.1 ≠ q.1 → tfind t.groups p.1 = some g → tfind t.groups q.1 = some h →
            g.core = h.core → g.position ≠ h.position) ∧
          ∀ p, p ∈ c.groups → ∃ g', tfind t.groups p.1 = some g' ∧ Resumes s c p.2 g' (x.cores.getD (p.2.index / 64) 0)) ∧
      ∀ gr g r k, tfind s.grids gr = some g → g.block.ports = true → c.teams ≠ [] →
        (∀ p, p ∈ c.teams → p.2.grid = gr ∧ p.2.cores.length = 1 ∧ p.2.index < g.block.gx * g.block.gy ∧ TeamRoom c p.1 p.2) →
        (c.teams.map fun p => p.2.index).Nodup → (∃ p, p ∈ c.teams ∧ ∃ d, d ∈ p.2.cores ∧ d ∉ t0.config.cores) →
        r + g.block.gy ≤ 16 → k + g.block.gx ≤ 16 → r < 16 → k < 16 →
        (∀ y x, y < g.block.gy → x < g.block.gx → 16 * (r + y) + (k + x) ∈ t0.config.cores ∧ CoreIdle s (16 * (r + y) + (k + x))) →
        ∃ t r' k', exec ins s = .next t ∧ back t ∧ ∀ p, p ∈ c.teams →
          let core := 16 * (r' + p.2.index / g.block.gx) + (k' + p.2.index % g.block.gx)
          core ∈ t0.config.cores ∧ tfind t.teams p.1 = some { p.2 with cores := [core] } ∧
            ∀ q, q ∈ c.groups → q.2.team = p.1 → ∃ g', tfind t.groups q.1 = some g' ∧ Resumes s c q.2 g' core) ∧
  (∀ s i ka kb fs, Executes s i { fs := fs, ks := [ka.toNat, kb.toNat], priv := true, tracked := 1 } →
    FreshIds s →
    let kw := (kGet i.g kb.toNat).toNat
    let tn := kw % 16
    let scope := kw / 16 % 4
    let bad := 2 ^ 22 ≤ kw ∨ kw / 64 % 4 ≠ 0 ∨ tn = i.g.tenant ∨ (scope = 3 ∧ kw / 256 ≠ 0)
    let at_ := s.groups.find? fun p => p.2.live && p.2.tenant == tn && p.2.core == kw / 256 % 256 && p.2.position == kw / 65536
    let ins := Instr.cxkill ka kb fs
    let dead := fun (t : State) x => ∀ g', tfind t.groups x = some g' → g'.live = false
    (bad → exec ins s = .next (raise s i 0x01)) ∧
    (¬ bad → ¬ allPerformed s i → exec ins s = .next s) ∧
    (¬ bad → allPerformed s i → scope ≠ 3 → at_ = none →
      ∃ t, exec ins s = .next t ∧ i.owesStatus s t fs ka (4 * 2 ^ 28) ∧ sameBytes s t ∧ othersKept s t i.gid) ∧
    (∀ gid g, ¬ bad → allPerformed s i → scope ≠ 3 → at_ = some (gid, g) → tfind s.groups gid = some g →
      scope = 0 ∨ Apart s i g →
      ∃ t, exec ins s = .next t ∧ i.owesStatus s t fs ka (2 ^ 28) ∧ (scope = 0 → dead t gid) ∧
        (∀ tm x, scope = 1 → tfind s.teams g.team = some tm → x ∈ tm.live → dead t x) ∧
        ∀ tm gr y ym x, scope = 2 → tfind s.teams g.team = some tm → tfind s.grids tm.grid = some gr → y ∈ gr.liveTeams →
          tfind s.teams y = some ym → x ∈ ym.live → dead t x) ∧
    (∀ t0, ¬ bad → allPerformed s i → scope = 3 → tfind s.tenants tn = some t0 → t0.state = .running →
      ∃ t, exec ins s = .next t ∧ i.owesStatus s t fs ka (2 ^ 28) ∧ contextGone t tn))

/-- R19, R21, R22, R30 to R33, R284 to R287: a clause is its header and the count + 1 words after it; a header that R32 refuses
traps with 0x02, a fetch that a fatal reply failed with 0x13. A lone eligible slot begins its clause, which clears the marks of
the flags it waits on; one whose flags are open, whose first instruction would exceed a limit of R24 or R171, or whose turn in the
rotation of memory-bound groups has not come, begins nothing. The words are read as they stand then (log entry 76). At most as
many clauses begin as there are free issue slots, of different groups and on different free pipes, the best first. A candidate
passed over 256 times is promoted. -/
def Obligations.ClausesAreSelected : Prop :=
  (∀ w h, parseHeader w = some h → (w.extractLsb' 24 8 = 0x5A ∧ w.extractLsb' 0 24 = 0) ∧ h.count = (w.extractLsb' 56 4).toNat ∧
    h.wait = w.extractLsb' 44 12 ∧ h.gap = (w.extractLsb' 33 3).toNat ∧ h.giveWay = w.getLsbD 32 ∧
    (h.flagA = if (w.extractLsb' 40 4).toNat = 15 then none else some (w.extractLsb' 40 4).toNat) ∧
    (h.flagB = if (w.extractLsb' 36 4).toNat = 15 then none else some (w.extractLsb' 36 4).toNat) ∧
    (∀ a, h.flagA = some a → a < 12 ∧ h.flagB ≠ some a) ∧ (∀ b, h.flagB = some b → b < 12) ∧
    (w.extractLsb' 60 4).toNat = match h.cls with
      | .valu => 0
      | .salu => 1
      | .mem => 2
      | .async => 3
      | .mtx => 4
      | .ray => 5
      | .chan => 6
      | .sys => 7) ∧
  (∀ w : W64, let names := fun n => n < 12 ∨ n = 15
    let a := (w.extractLsb' 40 4).toNat
    let b := (w.extractLsb' 36 4).toNat
    w.extractLsb' 24 8 = 0x5A → w.extractLsb' 0 24 = 0 → (w.extractLsb' 60 4).toNat < 8 → names a → names b → a = 15 ∨ a ≠ b →
      ∃ h, parseHeader w = some h) ∧
  (∀ s tn hdr pa h, fetchedAt s tn hdr pa 16 → parseHeader (BitVec.ofNat 64 (readSpace s .m pa 8)) = some h →
    fetchClause s tn hdr = .clause ⟨h, (List.range (h.count + 1)).map fun k => BitVec.ofNat 64 (readSpace s .m (pa + 8 + 8 * k) 8)⟩) ∧
  (∀ s tn hdr pa, fetchedAt s tn hdr pa 0 → parseHeader (BitVec.ofNat 64 (readSpace s .m pa 8)) = none →
    fetchClause s tn hdr = .illegal (some (BitVec.ofNat 64 (readSpace s .m pa 8)))) ∧
  (∀ s tn hdr, 2 ^ 52 ≤ hdr → fetchClause s tn hdr = .illegal none) ∧
  (∀ s (i : Iss), let most := fun n => 64 ≤ trackedCount s i.gid + n
    (i.cl.hdr.cls.limited = true → most 0 → firstExceeds s i = true) ∧
    (i.cl.hdr.cls.limited = true → ¬ most 13 → (∀ r, r ∈ s.reqs → r.core ≠ i.g.core) → firstExceeds s i = false) ∧
    (i.cl.hdr.cls.limited = false → firstExceeds s i = false)) ∧
  (∀ s core part gid g sl t tm, Lone s core part gid g sl t tm →
    let ins := Instr.clauseSelection core part
    let trapped := fun (s : State) code hdr w (u : State) =>
      u = { takeTrap (putGroup s gid { g with slot0 := some { sl with path := { sl.path with ix := 0 } } }) gid 0 code 0 sl.path.mask hdr w with
        partitions := u.partitions }
    (∀ c, sl.fetchWait = none → fetchClause s g.tenant sl.path.hdr = .clause c →
      fetchClause (fillCache s g.tenant sl.path.hdr .exec) g.tenant sl.path.hdr = .clause c →
      let u := fillCache s g.tenant sl.path.hdr .exec
      let rot := (tget (⟨[], 0⟩ : Partition) s.partitions (8 * core + part)).rotation
      let turn := (rot.filter fun x => groupLive s x).take (max 1 (8 - tget 0 s.congestion (clusterOf core)))
      let throttled := c.hdr.cls = .mem ∧ gid ∈ rot ∧ gid ∉ turn
      let exceeds := firstExceeds u ⟨gid, 0, g, { sl with clause := some c }, c⟩ = true
      let waits := (∃ f, f < 12 ∧ c.hdr.wait.getLsbD f = true ∧ flagCount g f ≠ 0) ∨ exceeds ∨ throttled
      (waits → ∃ u, exec ins s = .next u ∧ u.groups = s.groups ∧ sameBytes s u) ∧
      (¬ waits → g.fences = [] → ∃ u g', exec ins s = .next u ∧
        tfind u.groups gid = some g' ∧ othersKept s u gid ∧ sameBytes s u ∧
        g' = { g with
          marks := g'.marks
          slot0 := some { sl with
            clause := some c
            passed := 0
            promoted := none
            giveWay := false } } ∧
        ∀ m, m ∈ g'.marks ↔ m ∈ g.marks ∧ ∀ f, m.flag = some f → c.hdr.wait.getLsbD f = false)) ∧
    (∀ w, sl.fetchWait = none → fetchClause s g.tenant sl.path.hdr = .illegal (some w) → ∃ u, exec ins s = .next u ∧ trapped s 0x02 0 w u) ∧
    (∀ pg, sl.fetchWait = some (pg, true) →
      ∃ u w x, exec ins s = .next u ∧ x = { s with draws := x.draws } ∧ trapped x 0x13 sl.path.hdr w u) ∧
    ∀ va f, sl.fetchWait = none → fetchClause s g.tenant sl.path.hdr = .page va f →
      let x := faultPage (putGroup s gid { g with slot0 := some { sl with fetchWait := some (va / 65536, false) } }) g.tenant va 7 .exec f
      (∀ c, fetchClause x g.tenant sl.path.hdr ≠ .clause c) → ∃ u, exec ins s = .next u ∧ u = { x with partitions := u.partitions }) ∧
  (∀ fuel cs busy free,
    let out := selectClauses fuel cs busy free
    out.length ≤ free ∧ (out.map fun c => c.gid).Nodup ∧ (out.map fun c => c.pipe).Nodup ∧
      (∀ c, c ∈ out → c ∈ cs ∧ c.pipe ∉ busy) ∧ ∀ c d, out.head? = some c → d ∈ cs → d.pipe ∉ busy → d.before c = true → c.before d = true ∨ c = d) ∧
  (∀ (a b : Cand), (a.prom.isSome = true → b.prom = none → a.before b = true) ∧
    (a.prom = none → b.prom = none → b.prio < a.prio → a.before b = true) ∧
    (a.prom = none → b.prom = none → a.prio = b.prio → a.gives = false → b.gives = true → a.before b = true) ∧
    (a.prom = none → b.prom = none → a.prio = b.prio → a.gives = b.gives → a.age < b.age ∨ (a.age = b.age ∧ a.n < b.n) → a.before b = true)) ∧
  (∀ s gid n g sl, tfind s.groups gid = some g → slotOf g n = some sl →
    (256 ≤ sl.passed → sl.promoted = none → ∃ x, exec (.starvationPromotion gid n) s =
      .next (putGroup s gid (setSlot g n (some { sl with promoted := some x })))) ∧
    (sl.passed < 256 → ∃ t, exec (.starvationPromotion gid n) s = .next t ∧ tfind t.groups gid = some g ∧ othersKept s t gid)) ∧
  ∀ s cl l, cl < 64 → exec (.congestionLevelUpdate cl l) s = .next { s with congestion := tset 0 s.congestion cl (min 7 l) }

/-- R298, R302 to R305, R312: a page fault's record, and a kill record, as R303 lays them out, with their MSI-X vectors, and an
access that shares a fault counted in its record; a fault of no page that is present covers 64 KiB (log 105); a reply of 1 frees
what the fault held, any other non-zero one puts it on its fatal path, and 0 does nothing. A flush waits for the accesses made. A
corrected error only counts; an uncorrectable one saves the tenant's context with state 2, resets it and sends vector 0, at once
or with a kill record that the full log holds back; a diverged replay, one with a forced wait of more than 2^20 clocks that still
stands, stops its context, and its tenant stands as configured (log 43). -/
def Obligations.FaultsAreAnswered : Prop :=
  (∀ s tn t i pa va agent need forb, recordAt s tn t i pa → (∀ f, f ∈ s.faults → f.tenant ≠ tn) → va < 2 ^ 64 → agent < 256 →
    ∃ f, (faultPage s tn va agent need forb).faults = s.faults ++ [f] ∧ f.tenant = tn ∧ f.record = some i ∧
      f.page ≤ va / 65536 ∧ va / 65536 < f.page + f.size ∧ f.waiters = (if agent = 10 then 0 else 1) ∧ (forb = false → f.size = 1) ∧
      (∀ e size, forb = true → leafOf s tn va need = some (e, size) → f.size = size / 65536) ∧
      let u := faultPage s tn va agent need forb
      readSpace u .m pa 8 = va ∧ readSpace u .m (pa + 8) 1 = agent ∧
      readSpace u .m (pa + 9) 1 = (if need = .write then 1 else 0) + (if need = .exec then 2 else 0) + (if forb then 4 else 0) ∧
      readSpace u .m (pa + 10) 2 = f.waiters ∧ readSpace u .m (pa + 12) 4 ≠ 0 ∧ readSpace u .m (pa + 16) 4 = 0 ∧ readSpace u .m (pa + 20) 8 = 0 ∧
      sameBytesBut s u (fun sp a => sp = .m ∧ pa ≤ a ∧ a < pa + 32) ∧ u.groups = s.groups ∧
      ∀ x, tfind u.tenants tn = some x → x.msix = t.msix ++ [1]) ∧
  (∀ s tn t f k pa va need forb agent, tfind s.tenants tn = some t → s.faults = [f] → f.tenant = tn → f.write = decide (need = .write) →
    f.exec = decide (need = .exec) → f.page ≤ va / 65536 → va / 65536 < f.page + f.size → f.record = some k → agent ≠ 10 →
    translate s tn (t.config.faultLog + 32 * k + 10) .write = .ok (.main pa) →
    let u := faultPage s tn va agent need forb
    u.faults = [{ f with waiters := f.waiters + 1 }] ∧ readSpace u .m pa 2 = min 65535 (f.waiters + 1) ∧
      sameBytesBut s u fun sp a => sp = .m ∧ pa ≤ a ∧ a < pa + 2) ∧
  (∀ s tn t i pa kw hdr bank ln, recordAt s tn t i pa → kw < 2 ^ 32 → hdr < 2 ^ 64 → bank < 2 ^ 32 → ln < 2 ^ 32 →
    let u := killRecord s tn kw hdr bank ln
    readSpace u .m pa 8 = hdr ∧ readSpace u .m (pa + 8) 1 = 15 ∧ readSpace u .m (pa + 16) 4 = 0 ∧ readSpace u .m (pa + 20) 4 = kw ∧
      readSpace u .m (pa + 24) 4 = bank ∧ readSpace u .m (pa + 28) 4 = ln ∧
      sameBytesBut s u (fun sp a => sp = .m ∧ pa ≤ a ∧ a < pa + 32) ∧ ∀ x, tfind u.tenants tn = some x → x.msix = t.msix ++ [0]) ∧
  (∀ s tn t n f pa, tfind s.tenants tn = some t → n < 64 → translate s tn (t.config.faultLog + 32 * n + 16) .write = .ok (.main pa) →
    s.faults = [f] → f.tenant = tn → f.record = some n → s.cxops = [] → s.xchgs = [] → t.killsPending = [] →
    let reply := readSpace s .m pa 4
    let on := fun pg => f.page ≤ pg ∧ pg < f.page + f.size
    (reply = 0 → ∃ u, exec (.faultReply tn n) s = .next u ∧ u = { s with fetched := u.fetched }) ∧
    (reply = 1 → ∃ u, exec (.faultReply tn n) s = .next u ∧ u = { s with
      faults := []
      fetched := u.fetched
      tenants := tput s.tenants tn { t with logWaits := t.logWaits.erase n } }) ∧
    (2 ≤ reply → f.waiters ≠ 0 → f.exec = true → ∃ u, exec (.faultReply tn n) s = .next u ∧ u.faults = [] ∧ sameBytes s u ∧
      ∀ gid g, tfind s.groups gid = some g → g.tenant = tn → ∃ g', tfind u.groups gid = some g' ∧ ∀ k sl, k < 2 → slotOf g k = some sl →
        (∀ pg x, sl.fetchWait = some (pg, x) → on pg → slotOf g' k = some { sl with fetchWait := some (pg, true) }) ∧
        ((∀ pg x, sl.fetchWait = some (pg, x) → ¬ on pg) → slotOf g' k = some sl)) ∧
    (2 ≤ reply → f.waiters ≠ 0 → f.exec = false → ∃ u, exec (.faultReply tn n) s = .next u ∧ u.faults = [] ∧ sameBytes s u ∧
      (∀ gid g r w pages fatal, tfind s.groups gid = some g → g.tenant = tn → g.park = some r → r.why = .page w pages fatal → w = f.write →
        tfind u.groups gid = some { g with park := some { r with why := .page w pages (fatal ++ pages.filter fun pg => on pg) } }) ∧
      (∀ gid g, tfind s.groups gid = some g → (∀ r w pages fatal, g.park = some r → r.why ≠ .page w pages fatal) →
        tfind u.groups gid = some g) ∧
      ∀ c pg, c ∈ s.copies → c.tenant = tn → c.parkedOn = some (pg, f.write) → on pg → { c with fatal := some f.write } ∈ u.copies)) ∧
  (∀ s tn va,
    let made := (∃ r, r ∈ s.reqs ∧ (r.space = .m ∨ r.space = .host) ∧ r.tenant = tn) ∨ ∃ r, r ∈ s.remotes ∧ r.accesses s tn = true
    (made → exec (.translationFlush tn va) s = .next s) ∧
    (¬ made → ∃ u, exec (.translationFlush tn va) s = .next u ∧ u = { s with cache := u.cache } ∧
      ∀ c, c ∈ u.cache ↔ c ∈ s.cache ∧ ¬ (c.tenant = tn ∧ c.page = va / c.size * c.size))) ∧
  (∀ s tn, ∃ u, exec (.correctedError tn) s = .next u ∧ u = { s with corrected := u.corrected } ∧
    tget 0 u.corrected tn = if tget 0 s.corrected tn = BitVec.allOnes 64 then BitVec.allOnes 64 else tget 0 s.corrected tn + 1) ∧
  (∀ s e tn t, errorTenant s e tn → tfind s.tenants tn = some t → ∃ u, exec (.uncorrectableError e) s = .next u ∧
    (∀ p, p ∈ u.groups → p.2.tenant ≠ tn) ∧ contextGone u tn ∧ (∃ c, c ∈ u.saved ∧ c.tenant = tn ∧ c.state = 2) ∧
    ∀ x, tfind u.tenants tn = some x → 0 ∈ x.msix ∨ x.killsPending ≠ []) ∧
  (∀ s, ∃ u, exec (.uncorrectableError .unowned) s = .next u ∧ ∀ x g, tfind u.groups x = some g → g.live = true →
    ∀ t, tfind s.tenants g.tenant = some t → t.state ≠ .running ∧ t.state ≠ .frozen) ∧
  ∀ s tn t, tfind s.tenants tn = some t → t.config.almanac = .replay →
    ((∀ w, w ∈ t.almanac.waits → s.now ≤ w.since + 2 ^ 20) → exec (.replayDivergence tn) s = .next s) ∧
    ∀ w, w ∈ t.almanac.waits → w.stands s tn t = true →
      (w.since + 2 ^ 20 < s.now → ∃ u, exec (.replayDivergence tn) s = .next u ∧ contextGone u tn ∧
        ∀ x, tfind u.tenants tn = some x → x.state = .configured ∧ x.almanac.state = 4)

/-! ## The fabric and the host -/

/-- R325 to R327, R329, R24: an XCHG whose block and tensors pass R326's checks is accepted: it owes its status scalar, joins the
open batch, and sends each peer its counts in a COUNT. It waits for the group's earlier accesses, and parks while four exchanges
of its tenant are outstanding; a block that is misaligned or outside T traps. -/
def Obligations.ExchangesBegin : Prop :=
  ∀ s i t ka kb fs off, Executes s i { fs := fs, ks := [ka.toNat, kb.toNat], tracked := 1 } → tfind s.teams i.g.team = some t →
    t.windows.length ≤ 4 →
    let a := i.block kb off
    let ins := Instr.xchg ka kb fs off
    let tn := i.g.tenant
    (¬ allPerformed s i → exec ins s = .next s) ∧
    (allPerformed s i →
      (a % 32 ≠ 0 → exec ins s = .next (raiseAt s i 0x05 0 (i.active 0) a)) ∧
      (a % 32 = 0 → t.tPerCore * t.cores.length < a + 32 → exec ins s = .next (raiseAt s i 0x06 0 (i.active 0) a)) ∧
      ∀ b devs counts, a % 32 = 0 → a + 32 ≤ t.tPerCore * t.cores.length → ExchangeAdmitted s i t a b devs counts →
        let outstanding := (s.xchgs.filter fun x => x.tenant == tn).length
        (4 ≤ outstanding → i.waits s ins) ∧
        ∀ t0, outstanding < 4 → tfind s.tenants tn = some t0 → t0.earlyCounts = [] → FreshIds s →
          (∀ d, d ∈ devs → d = s.fabric.dev ∨ (t0.config.partition ≠ 0 ∧ (routeTo s d).isSome = true)) →
          ∃ u me, exec ins s = .next u ∧ devs[me]? = some s.fabric.dev ∧ i.owes s u [kName i.g ka.toNat] (i.flag fs) 1 ∧
            let x : Xchg :=
              { id := s.nextId + 1, gid := i.gid, tenant := tn, tag := b.tag, send := b.send, recv := b.recv
                received := b.received, completion := b.completion, g := b.g, me := me
                peers := (List.range b.n).map fun q =>
                  { dev := devs.getD q 0, mine := (counts.drop (q * b.g)).take b.g, first := counts.getD (b.n * b.g + q * b.g) 0
                    readyIn := none, sent := 0, acked := 0, cut := false, doneSent := false, counts := none, written := 0
                    refusing := false, failed := false, doneIn := none, completed := none }
                counted := false, capacity := false, fatal := false, waits := [], posts := [], owed := s.nextId, batch := i.g.batch
                accepted := s.now }
            let v := { s with
              owed := s.owed ++ [i.newOwed s .copy (i.flag fs) [kName i.g ka.toNat] 1]
              xchgs := s.xchgs ++ [x]
              nextId := s.nextId + 2
              nextSeq := s.nextSeq + 1 }
            u = { (List.range b.n).foldl (fun w q => xSend w x q (.count b.tag ((counts.drop (q * b.g)).take b.g))) v with
              groups := u.groups
              tenants := u.tenants
              fetched := u.fetched })

/-- R317, R327, R328: a message of an exchange is a request to its peer, or arrives here at once where the peer is this device. A
COUNT waits at the fabric port for its exchange, is refused beyond 1,024 of a tenant or where a reset ended its exchange, and is
recorded once; the last writes the received tensor and sends READY. READY(ok) sends the rows in order; an acknowledged send ends
with DONE. A row, its elements without scale bytes, is written at its place as soon as every COUNT is in, or refused, as one
beyond its peer's COUNT is (logs 54, 55); it is acknowledged once the write is performed, and one on a page that is not present
waits, with a parked notice for every message of its stream. DONE and a failure write the peer's completion word; the last one
ends the exchange with its status. A refused COUNT is sent again when 4,096 clocks have passed. -/
def Obligations.ExchangesMoveRows : Prop :=
  (∀ s x q m z, x.peers[q]? = some z → z.failed = false →
    (q = x.me → xSend s x q m = { s with
      rx := s.rx ++ [⟨⟨s.fabric.dev, s.fabric.dev, partitionOf s x.tenant, BitVec.ofNat 32 x.id, m⟩, none, false⟩] }) ∧
    (q ≠ x.me → partitionOf s x.tenant ≠ 0 → (routeTo s z.dev).isSome = true →
      xSend s x q m = { sendPacket { s with nextId := s.nextId + 1 }
          ⟨s.fabric.dev, z.dev, partitionOf s x.tenant, BitVec.ofNat 32 s.nextId, m⟩ with
        remotes := s.remotes ++ [⟨s.nextId, z.dev, .peer x.id q, s.now, false, false⟩] })) ∧
  (∀ s p tag x q y, xchgFor s p tag = some (x, q, y) → x ∈ s.xchgs ∧ x.tag = tag ∧ x.peers[q]? = some y ∧ y.dev = p.src ∧
    (p.src = s.fabric.dev → x.id % 2 ^ 32 = p.req.toNat) ∧
    (p.src ≠ s.fabric.dev → p.part ≠ 0 ∧ ∃ e, e ∈ s.tenants ∧ e.1 = x.tenant ∧ e.2.state ≠ .absent ∧ e.2.config.partition = p.part)) ∧
  (∀ s n p tag cs, ArrivesNext s n p → p.msg = .count tag cs → xchgFor s p tag = none →
    let d := dropArrived s n
    let refused := fun k => answer d p (.response false k)
    (tenantOfPartition s p.part = none → exec (.xchgCountReceive n) s = .next (refused 0)) ∧
    ∀ tn t0, tenantOfPartition s p.part = some tn → tfind s.tenants tn = some t0 →
      ((tag, p.src) ∈ t0.endedCounts → exec (.xchgCountReceive n) s = .next { refused 0 with
        tenants := tput s.tenants tn { t0 with endedCounts := t0.endedCounts.filter fun e => e != (tag, p.src) } }) ∧
      ((tag, p.src) ∉ t0.endedCounts → 1024 ≤ t0.earlyCounts.length → exec (.xchgCountReceive n) s = .next (refused 1)) ∧
      ((tag, p.src) ∉ t0.endedCounts → t0.earlyCounts.length < 1024 → exec (.xchgCountReceive n) s = .next
        { answer d p (.response true 0) with
          tenants := tput s.tenants tn { t0 with earlyCounts := t0.earlyCounts ++ [p] } })) ∧
  (∀ s n p tag cs x q y, ArrivesNext s n p → p.msg = .count tag cs → FromPeer s p tag x q y → OnlyPeer s x q → y.counts = none →
    cs.length = x.g → x.counted = false → y.doneIn = none → y.completed = none →
    let v := answer (dropArrived s n) p (.response true 0)
    let x1 := { x with peers := x.peers.set q { y with counts := some cs } }
    ((∃ z, z ∈ x1.peers ∧ z.counts = none) →
      ∃ u, exec (.xchgCountReceive n) s = .next u ∧ u = { v with xchgs := u.xchgs } ∧ exchangeIs s u x x1) ∧
    ((∀ k z, x1.peers[k]? = some z → z.counts ≠ none ∧ z.readyIn = none ∧ z.doneSent = false ∧ reaches s x k) →
      let ok := decide (rowsBefore x1.peers x.peers.length ≤ x.recv.ext.getD 1 0)
      ∀ m, FreshIds s → meshWrite { v with nextId := s.nextId + 1 } (x.received.of x.tenant) (.op s.nextId)
          [(x.received.addr [0, 0, 0, 0], ((x1.peers.flatMap fun z => z.counts.getD []) ++
            (List.range x.peers.length).map (rowsBefore x1.peers)).flatMap (leBytes 4))] = .ok m →
        ∃ u, exec (.xchgCountReceive n) s = .next u ∧
          (posted m x.tenant s.nextId → sameFabric m u ∧ sameBytes m u ∧
            exchangeIs s u x { x1 with posts := [⟨s.nextId, .received, false⟩] }) ∧
          (¬ posted m x.tenant s.nextId →
            let w := (List.range x.peers.length).foldl (fun w k => xSend w x k (.ready x.tag ok)) m
            (ok = true → sameFabric w u ∧ sameBytes m u ∧ exchangeIs s u x { x1 with counted := true }) ∧
            (ok = false → x.completion.space = 2 → u.links = w.links ∧ u.remotes = w.remotes ∧ u.rx = w.rx ∧
              ∃ z, xchgOf u x.id = some z ∧ z.counted = true ∧ z.capacity = true ∧
                ∀ y1, y1 ∈ z.peers → y1.completed.isSome = true)))) ∧
  (∀ s n p tag ok x q y, ArrivesNext s n p → p.msg = .ready tag ok → FromPeer s p tag x q y → OnlyPeer s x q → y.readyIn = none →
    y.doneIn = none ∨ y.completed.isSome = true → (x.counted = false → ∃ z, z ∈ x.peers ∧ z.counts = none) →
    let v := answer (dropArrived s n) p (.response true 0)
    (ok = false ∨ x.counted = false → ∃ u, exec (.xchgReadyReceive n) s = .next u ∧ u = { v with xchgs := u.xchgs } ∧
      exchangeIs s u x { x with peers := x.peers.set q { y with readyIn := some ok } }) ∧
    ∀ (bs : Nat → Bytes), ok = true → x.counted = true → y.sent = 0 → y.acked = 0 → y.cut = false → y.doneSent = false → 0 < y.mine.sum →
      y.first + y.mine.sum ≤ x.send.ext.getD 1 0 → reaches s x q →
      s.fetched = [] → (∀ j, j < y.mine.sum → meshRead s (x.send.of x.tenant) (x.send.addr [0, y.first + j, 0, 0])
        (x.send.ext.getD 0 0 * x.send.z) = .ok (bs j)) →
      ∃ u, exec (.xchgReadyReceive n) s = .next u ∧
        u = { (List.range y.mine.sum).foldl (fun w j => xSend w x q (.row x.tag j (bs j))) v with xchgs := u.xchgs } ∧
        exchangeIs s u x { x with peers := x.peers.set q { y with
          readyIn := some true
          sent := y.mine.sum } }) ∧
  (∀ s n p tag j b, ArrivesNext s n p → p.msg = .row tag j b →
    let ins := Instr.xchgRowReceive n
    let refused := sendPacket (dropArrived s n) ⟨s.fabric.dev, p.src, p.part, p.req, .rowAck tag true⟩
    (xchgFor s p tag = none → exec ins s = .next refused) ∧
    (∀ x q y, xchgFor s p tag = some (x, q, y) → y.failed = true → exec ins s = .next (dropArrived s n)) ∧
    ∀ x q y, FromPeer s p tag x q y →
      let heard := ∀ z, z ∈ x.peers → z.counts ≠ none
      let fits := rowsBefore x.peers x.peers.length ≤ x.recv.ext.getD 1 0
      (¬ heard → exec ins s = .next s) ∧
      (heard → x.posts = [] → ¬ fits ∨ y.refusing = true ∨ announced y ≤ j → exec ins s = .next refused) ∧
      (heard → x.posts = [] → fits → y.refusing = false → j < announced y → x.waits = [] → b.length = x.send.ext.getD 0 0 * x.send.z →
        let wrote := meshWrite { s with nextId := s.nextId + 1 } (x.recv.of x.tenant) (.op s.nextId)
          [(x.recv.addr [0, rowsBefore x.peers q + j, 0, 0], b)]
        (∀ m, wrote = .ok m → ∃ u, exec ins s = .next u ∧ sameBytes m u ∧
          (posted m x.tenant s.nextId → sameFabric m u ∧ exchangeIs s u x { x with posts := [⟨s.nextId, .row q, false⟩] }) ∧
          (¬ posted m x.tenant s.nextId →
            sameFabric (sendPacket (dropArrived m n) ⟨s.fabric.dev, p.src, p.part, p.req, .rowAck tag false⟩) u ∧
            exchangeIs s u x { x with peers := x.peers.set q { y with written := y.written + 1 } })) ∧
        ((∃ va w f, wrote = .error (.page va w f)) → ∃ u, exec ins s = .next u ∧ ∀ (k : Nat) (a : Arrived), s.rx[k]? = some a → a.pkt.src = p.src →
          a.pkt.part = p.part → a.pkt.msg.xTag = some tag → (p.src = s.fabric.dev → a.pkt.req = p.req) →
            u.rx[k]? = some { a with noticed := true }))) ∧
  (∀ s n p tag rf x q y, portHolds s n p → p.msg = .rowAck tag rf → ackedPeer s p = some (x.id, q) → xchgOf s x.id = some x →
    x.peers[q]? = some y → OnlyPeer s x q → x.counted = true → y.failed = false → y.readyIn = some true → y.cut = false →
    y.doneSent = false → y.sent = y.mine.sum → y.doneIn = none ∨ y.completed.isSome = true → reaches s x q →
    let d := dropRemote (dropArrived s n) p
    (y.acked + 1 < y.mine.sum → ∃ u, exec (.xchgRowAck n) s = .next u ∧ u = { d with xchgs := u.xchgs } ∧
      exchangeIs s u x { x with peers := x.peers.set q { y with acked := y.acked + 1 } }) ∧
    (y.acked + 1 = y.mine.sum → ∃ u, exec (.xchgRowAck n) s = .next u ∧
      u = { xSend d x q (.done x.tag y.mine.sum) with xchgs := u.xchgs } ∧
      exchangeIs s u x { x with peers := x.peers.set q { y with
        acked := y.acked + 1
        doneSent := true } })) ∧
  (∀ s n p tag rows x q y, ArrivesNext s n p → p.msg = .done tag rows → FromPeer s p tag x q y → OnlyPeer s x q → PeerIdle y →
    x.counted = true → y.doneIn = none → y.completed = none →
    let st := if rows = announced y ∧ y.refusing = false then 1 else if y.written = 0 then 3 else 2
    ∀ m, meshWrite { answer (dropArrived s n) p (.response true 0) with nextId := s.nextId + 1 } (x.completion.of x.tenant) (.op s.nextId)
        [(x.completion.addr [q, 0, 0, 0], leBytes 8 (x.tag * 2 ^ 32 + st * 2 ^ 28 + min 0xFFFFFF y.written))] = .ok m →
      ¬ posted m x.tenant s.nextId →
      ∃ u, exec (.xchgDoneReceive n) s = .next u ∧ PeerCompletes s m u x { x with peers := x.peers.set q { y with
        doneIn := some rows
        completed := some st } }) ∧
  (∀ s n p tag x q y, ArrivesNext s n p → p.msg = .failure tag → FromPeer s p tag x q y → OnlyPeer s x q → q ≠ x.me →
    x.counted = true → y.doneIn = none → y.completed = none →
    let st := if y.written = 0 then 3 else 2
    let d := dropArrived s n
    ∀ m, meshWrite { d with remotes := s.remotes.filter fun r => r.use != .peer x.id q, nextId := s.nextId + 1 } (x.completion.of x.tenant)
        (.op s.nextId) [(x.completion.addr [q, 0, 0, 0], leBytes 8 (x.tag * 2 ^ 32 + st * 2 ^ 28 + min 0xFFFFFF y.written))] = .ok m →
      ¬ posted m x.tenant s.nextId →
      ∃ u, exec (.xchgFailureReceive n) s = .next u ∧ PeerCompletes s m u x { x with peers := x.peers.set q { y with
        failed := true
        counts := some (y.counts.getD (List.replicate x.g 0))
        completed := some st } }) ∧
  ∀ s n due id q, s.resends[n]? = some (due, id, q) →
    (xchgOf s id = none → exec (.xchgCountResend n) s = .next { s with resends := removeIx s.resends n }) ∧
    ∀ x, xchgOf s id = some x →
      (s.now < due → exec (.xchgCountResend n) s = .next s) ∧
      ∀ y, due ≤ s.now → OnlyPeer s x q → x.peers[q]? = some y → PeerIdle y → reaches s x q → x.counted = false →
        (∃ z, z ∈ x.peers ∧ z.counts = none) →
        exec (.xchgCountResend n) s = .next (xSend { s with resends := removeIx s.resends n } x q (.count x.tag y.mine))

/-- R302, R321 to R323: with no cached translation of the tenant, an address below 2^52 is translated by the leaf that its tables
reach; an entry that breaks a rule of R321 or R322 is not present. -/
def Obligations.PagesTranslate : Prop :=
  ∀ s tn t va need, tfind s.tenants tn = some t → (∀ c, c ∈ s.cache → c.tenant ≠ tn) →
    (2 ^ 52 ≤ va → translate s tn va need = .notPresent) ∧
    (va < 2 ^ 52 →
      ((¬ ∃ e size, tablesMap s t.config.translationRoot va e size) → translate s tn va need = .notPresent) ∧
      ∀ e size, tablesMap s t.config.translationRoot va e size →
        (¬ entryGrants e need → translate s tn va need = .forbidden) ∧
        (entryGrants e need → ∃ p, translate s tn va need = .ok p ∧ entryPlace e size va p))

/-- R317 to R319, R320, R328: a packet goes out as flits of at most 224 bytes on its destination's primary link, or on the
alternate; a link keeps up to 1,024 flits that are not acknowledged. How many flits a message takes, and what they say, is free
(log entry 12). A flit received intact and in order is accepted, the last of a message brings its packet, behind a parked one of
its exchange with a notice, and one for another device is forwarded; any other is answered with a negative acknowledgement, whose
acknowledge field plus 1 is the number expected, and at which the sender replays; idle flits and negative acknowledgements take no
number (log 52). A link goes down after 64 replays of one flit or 2^20 clocks of silence, and what it had not delivered goes to
the alternates in its order. -/
def Obligations.LinksCarryFlits : Prop :=
  (∀ s d a b, s.fabric.routes[d]? = some (a, b) →
    let up := fun n => n < 16 ∧ ∃ l, tfind s.links n = some l ∧ l.up = true
    (up a → routeTo s d = some a) ∧ (¬ up a → up b → routeTo s d = some b) ∧ (¬ up a → ¬ up b → routeTo s d = none)) ∧
  (∀ s p, p.dest = s.fabric.dev → sendPacket s p = { s with rx := s.rx ++ [⟨p, none, false⟩] }) ∧
  (∀ s p, p.dest ≠ s.fabric.dev → ∃ fs : List Flit, fs ≠ [] ∧ sendPacket s p = fs.foldl sendFlit s ∧
    (∀ f, f ∈ fs → f.ty.toNat = typeNumber p.msg ∧ f.dest = BitVec.ofNat 10 p.dest ∧ f.src = BitVec.ofNat 10 p.src ∧ f.hops = 0 ∧
      f.part = p.part ∧ f.req = p.req ∧ f.payload.length ≤ 224 ∧ f.len.toNat = (f.payload.length + 15) / 16) ∧
    ∀ tag f, p.msg = .rowAck tag true → fs.head? = some f → leNat (f.payload.take 4) = 2) ∧
  (∀ s (f : Flit), (routeTo s f.dest.toNat = none → sendFlit s f = s) ∧
    ∀ n l, routeTo s f.dest.toNat = some n → tfind s.links n = some l →
      ∃ l1, puts l f l1 ∧ sendFlit s f = { s with links := tput s.links n l1 }) ∧
  (∀ s n l f, tfind s.links n = some l → l.up = true → l.waiting = [] →
    let ins := Instr.flitReceive n f
    let with_ := fun l1 => ({ s with links := tput s.links n l1 } : State)
    (f.check ≠ crc64 (flitBytes f) → ∃ l1, exec ins s = .next (with_ l1) ∧ refuses l l1) ∧
    (f.check = crc64 (flitBytes f) → ∃ l1, acknowledged { l with lastIntact := s.now } f.ack l1 ∧
      (f.ty = 0 → exec ins s = .next (with_ l1)) ∧
      (f.ty = 9 → ∃ l2, exec ins s = .next (with_ l2) ∧ replayed l1 (f.ack + 1) l2) ∧
      (f.ty ≠ 0 → f.ty ≠ 9 → f.seq ≠ l.expect → ∃ l2, exec ins s = .next (with_ l2) ∧ refuses l1 l2) ∧
      (f.ty ≠ 0 → f.ty ≠ 9 → f.seq = l.expect →
        let v := with_ { l1 with expect := l.expect + 1 }
        let before := s.parts.filter fun x => sameMessage x f
        (f.dest.toNat = s.fabric.dev → packetOf before f = none → exec ins s = .next { v with parts := s.parts ++ [f] }) ∧
        (f.dest.toNat = s.fabric.dev → ∀ p, packetOf before f = some p →
          let w := { v with parts := s.parts.filter fun x => !(sameMessage x f) }
          let behind := p.msg.isFailure = false ∧ ∃ a, a ∈ s.rx ∧ a.noticed = true ∧ inStream s p a.pkt
          p.src = f.src.toNat ∧ p.dest = f.dest.toNat ∧ p.part = f.part ∧ p.req = f.req ∧
          (¬ behind → exec ins s = .next { w with rx := s.rx ++ [⟨p, none, false⟩] }) ∧
          (behind → exec ins s = .next { answer w p .parked with rx := s.rx ++ [⟨p, none, true⟩] })) ∧
        (f.dest.toNat ≠ s.fabric.dev → 62 ≤ f.hops.toNat → exec ins s = .next v) ∧
        (f.dest.toNat ≠ s.fabric.dev → f.hops.toNat < 62 → exec ins s = .next (sendFlit v { f with hops := f.hops + 1 }))))) ∧
  (∀ s n l e, tfind s.links n = some l → l.up = true → ∃ l1, exec (.negativeAcknowledgement n e) s =
    .next { s with links := tput s.links n l1 } ∧ replayed l (BitVec.ofNat 12 e) l1) ∧
  ∀ s n l, tfind s.links n = some l → s.remotes = [] → s.xchgs = [] →
    let due := 64 ≤ l.replays ∨ l.lastIntact + 2 ^ 20 ≤ s.now
    (l.up = false ∨ ¬ due → exec (.linkDown n) s = .next s) ∧
    (l.up = true → due → exec (.linkDown n) s = .next ((l.unacked ++ l.waiting).foldl sendFlit { s with links := tput s.links n { l with
      up := false
      unacked := []
      waiting := []
      replays := 0 } }))

/-- R317, R320, R323, R324: a request of another device is served in the tenant that holds its partition, at the byte its own
tables give, and answered, once its turn at the banks has come (log 71); it is refused where no tenant holds the partition, and
waits behind a parked notice for a page or a pre-empted context. A check before a remote atomic answers with the place, and the
operation that follows is performed there (log entry 73); who serves, and what waits, is log 53. A response reaches what waits for
it; one to no outstanding request is dropped, and a refused one takes the fatal path, as a time-out does; for a record of the
fault log that is the machine check (log 90). A parked notice stops the timer. A die link that cannot recover stops every running
context. -/
def Obligations.RequestsAreServed : Prop :=
  (∀ s n p pk nt va w agent, s.rx[n]? = some ⟨p, pk, nt⟩ → p.msg.access = some (va, w, agent) → tenantOfPartition s p.part = none →
    exec (.remoteRequestServe n) s = .next (answer (dropArrived s n) p (.response false 0))) ∧
  (∀ s n p nt tn t va w agent, RequestHere s n p nt tn t → p.msg.access = some (va, w, agent) → t.state = .saved ∨ t.state = .frozen →
    (nt = true → exec (.remoteRequestServe n) s = .next s) ∧
    (nt = false → exec (.remoteRequestServe n) s = .next { answer s p .parked with rx := s.rx.set n ⟨p, none, true⟩ })) ∧
  (∀ s n p nt tn t va k place sp a, RequestHere s n p nt tn t → t.state = .running → p.src ≠ s.fabric.dev → p.msg = .read va k →
    translate s tn va .read = .ok place → localPlace place sp a → turnComes s n →
    ∃ u, exec (.remoteRequestServe n) s = .next u ∧
      u = { answer (dropArrived s n) p (.response true (readSpace s sp a k)) with
        cache := u.cache
        banks := u.banks }) ∧
  (∀ s n p nt tn t va b place sp a, RequestHere s n p nt tn t → t.state = .running → p.src ≠ s.fabric.dev → p.msg = .write va b →
    translate s tn va .write = .ok place → localPlace place sp a → turnComes s n →
    ∃ u, exec (.remoteRequestServe n) s = .next u ∧ requestFrame (answer (dropArrived s n) p (.response true 0)) u ∧
      readSpace u sp a b.length = leNat b ∧ sameBytesBut s u (bytesFrom sp a b.length)) ∧
  (∀ s n p nt tn t op wide va x y place sp a, RequestHere s n p nt tn t → t.state = .running → p.src ≠ s.fabric.dev → turnComes s n →
    localPlace place sp a →
    (p.msg = .atomic op wide va x y ∧ translate s tn va .write = .ok place ∧
      (sp = .host → (op = .add ∨ op = .sub ∨ op = .exch ∨ op = .cas) ∧ Config.hostTakesAtomics a = true)) ∨
    p.msg = .perform op wide (2 * a + if sp = .host then 1 else 0) x y →
    let k := if wide then 8 else 4
    let r := atomResult op (BitVec.ofNat (8 * k) (readSpace s sp a k)) (BitVec.ofNat _ x) (BitVec.ofNat _ y)
    ∃ u, exec (.remoteRequestServe n) s = .next u ∧ requestFrame (answer (dropArrived s n) p (.response true r.2.toNat)) u ∧
      readSpace u sp a k = r.1.toNat ∧ sameBytesBut s u (bytesFrom sp a k)) ∧
  (∀ s n p nt tn t va x a, RequestHere s n p nt tn t → t.state = .running → p.src ≠ s.fabric.dev → p.msg = .reduce va x →
    translate s tn va .write = .ok (.main a) → turnComes s n →
    ∃ u, exec (.remoteRequestServe n) s = .next u ∧ requestFrame (answer (dropArrived s n) p (.response true 0)) u ∧
      readSpace u .m a 2 = delivers 2 (readSpace s .m a 2) x ∧ sameBytesBut s u (bytesFrom .m a 2)) ∧
  (∀ s n p nt tn t op va a, RequestHere s n p nt tn t → t.state = .running → p.src ≠ s.fabric.dev → p.msg = .check op va →
    translate s tn va .write = .ok (.main a) → ∃ u, exec (.remoteRequestServe n) s = .next u ∧
      u = { answer (dropArrived s n) p (.response true (2 * a)) with cache := u.cache }) ∧
  (∀ s n p nt tn t va w agent i pa, RequestHere s n p nt tn t → t.state = .running → p.msg.access = some (va, w, agent) →
    (∀ op wide x y, p.msg ≠ .perform op wide va x y) → (translate s tn va (if w then .write else .read) = .notPresent ∨ translate s tn va (if w then .write else .read) = .forbidden) →
    recordAt s tn t i pa → (∀ f, f ∈ s.faults → f.tenant ≠ tn) →
    ∃ u, exec (.remoteRequestServe n) s = .next u ∧ u.rx[n]? = some ⟨p, some (va / 65536, w, false), true⟩ ∧
      (nt = false → u.links = (answer s p .parked).links) ∧ ∃ f, u.faults = s.faults ++ [f] ∧ f.tenant = tn ∧ f.page ≤ va / 65536 ∧
        va / 65536 < f.page + f.size ∧ f.write = w ∧ f.exec = false ∧ f.agent = agent) ∧
  (∀ s n p pk nt ok data, s.rx[n]? = some ⟨p, pk, nt⟩ → p.msg = .response ok data → s.xchgs = [] →
    let d := dropArrived s n
    (remoteFor s p = none → exec (.remoteResponse n) s = .next d) ∧
    ∀ r, remoteFor s p = some r →
      let e := { d with remotes := s.remotes.filter fun x => x.id != r.id }
      (∀ gid ln g q ask wt fl rets ps far, r.use = .lane gid ln → tfind s.groups gid = some g → g.park = some q →
        q.why = .remote ask wt fl rets ps far →
        (ok = true → exec (.remoteResponse n) s = .next (putGroup e gid { g with
          park := some { q with why := .remote ask (wt.filter fun l => l != ln) fl (rets ++ [(ln, data)]) ps far } })) ∧
        (ok = false → exec (.remoteResponse n) s = .next (putGroup e gid { g with
          park := some { q with why := .remote ask (wt.filter fun l => l != ln) (fl ++ [ln]) rets ps far } }))) ∧
      (∀ tn va, r.use = .unit tn va → exec (.remoteResponse n) s = .next { e with
        fetched := s.fetched ++ [⟨tn, va, false, if ok then some (leBytes 64 data) else none⟩] }) ∧
      (∀ id q, r.use = .peer id q → ok = false → data = 1 → exec (.remoteResponse n) s = .next { e with
        resends := s.resends ++ [(s.now + 4096, id, q)] }) ∧
      (∀ tn, r.use = .post tn .log → ok = false → exec (.remoteResponse n) s = .next (machineCheckNoRecord e tn)) ∧
      ∀ tn id o, r.use = .post tn (.op id) → ok = false → o ∈ s.cxops → o.owed = id →
        ∃ u, exec (.remoteResponse n) s = .next u ∧ { o with fatal := true } ∈ u.cxops) ∧
  (∀ s n p pk nt, s.rx[n]? = some ⟨p, pk, nt⟩ → p.msg = .parked →
    (remoteFor s p = none → exec (.parkedNotice n) s = .next (dropArrived s n)) ∧
    ∀ r, remoteFor s p = some r → s.xchgs = [] → exec (.parkedNotice n) s = .next { dropArrived s n with
      remotes := s.remotes.map fun x => if x.id = r.id then { x with stopped := true } else x }) ∧
  (∀ s r, s.remotes.find? (fun x => x.id == r.id) = some r → s.xchgs = [] →
    let due := r.lost = true ∨ (r.stopped = false ∧ r.since + 65536 * s.fabric.timeout ≤ s.now)
    let e := { s with remotes := s.remotes.filter fun x => x.id != r.id }
    (¬ due → exec (.remoteTimeout r.id) s = .next s) ∧
    (∀ tn va, due → r.use = .unit tn va → exec (.remoteTimeout r.id) s = .next { e with
      fetched := s.fetched ++ [⟨tn, va, false, none⟩] }) ∧
    (∀ tn, due → r.use = .post tn .log → exec (.remoteTimeout r.id) s = .next (machineCheckNoRecord e tn)) ∧
    ∀ gid ln g q ask wt fl rets ps far, due → r.use = .lane gid ln → tfind s.groups gid = some g → g.park = some q →
      q.why = .remote ask wt fl rets ps far → exec (.remoteTimeout r.id) s = .next (putGroup e gid { g with
        park := some { q with why := .remote ask (wt.filter fun l => l != ln) (fl ++ [ln]) rets ps far } })) ∧
  ∀ s, ∃ u, exec .ucieLinkFailure s = .next u ∧ u.ucieUp = false ∧ allChecked s u

/-- R267, R310, R346, R347, R349, R350, R353: an inbox write stores its bytes; an access through BAR2 inside the aperture is
translated and performed, or completes as an Unsupported Request with a record of agent 10 of its own. BAR0 and the MSI-X table
are read, the PF reads a trap counter (where the monitors stand is log entry 85) and the certificate, and sets the power limit.
Configuration installs a tenant; a write that would change a 'no' field of a running one fails with status 4, one beyond what the
module has with a status that no rule gives, and one whose ranges meet another tenant's (R162, R164; log entry 84). A refused
access writes its own record where a fault is open (log 58). A tenant whose cores no running one has starts, its configuration
measured, and waits while they are taken (log 86). A configuration lays the free bytes of ended groups' join records and stacks
(log 88). -/
def Obligations.HostServes : Prop :=
  (∀ s tn t off b, tfind s.tenants tn = some t → noAlmanac s tn →
    (t.state = .absent ∨ 4096 < off + b.length → exec (.hostInboxWrite tn off b) s = .next s) ∧
    (t.state ≠ .absent → off + b.length ≤ 4096 → ∃ u, exec (.hostInboxWrite tn off b) s = .next u ∧
      u = { s with
        scratch := u.scratch
        reqs := u.reqs
        grids := u.grids } ∧
      ∀ a, readByte u.scratch a = if t.config.inbox + off ≤ a then (b[a - (t.config.inbox + off)]?).getD (readByte s.scratch a)
        else readByte s.scratch a)) ∧
  (∀ s tn t off n, tfind s.tenants tn = some t →
    let va := t.config.bar2Base + off
    let ins := Instr.hostBar2Access tn off (.read n)
    (t.state = .absent ∨ n = 0 ∨ t.config.bar2Size < off + n → exec ins s = .next s) ∧
    (t.state ≠ .absent → 0 < n → off + n ≤ t.config.bar2Size →
      (∀ pa, mappedAt s tn (va / 64 * 64) (va % 64 + n) pa .read → ∃ u, exec ins s = .next u ∧ u = { s with
        hostReplies := s.hostReplies ++ [some ((List.range n).map fun j => readByte s.main (pa + va % 64 + j))]
        fetched := u.fetched }) ∧
      ∀ i pa, (∃ b : Bool, translate s tn (va / 64 * 64) .read = if b then .forbidden else .notPresent) → recordAt s tn t i pa →
        (∀ f, f ∈ s.faults → f.tenant ≠ tn) → ∃ u f, exec ins s = .next u ∧ u.hostReplies = s.hostReplies ++ [none] ∧
          u.faults = s.faults ++ [f] ∧ f.tenant = tn ∧ f.page ≤ va / 65536 ∧ va / 65536 < f.page + f.size ∧ f.agent = 10 ∧ readSpace u .m (pa + 8) 1 = 10 ∧
          readSpace u .m (pa + 10) 2 = 0)) ∧
  (∀ s tn t off n i pa f, tfind s.tenants tn = some t →
    let va := t.config.bar2Base + off
    t.state ≠ .absent → 0 < n → off + n ≤ t.config.bar2Size →
    (∃ b : Bool, translate s tn (va / 64 * 64) .read = if b then .forbidden else .notPresent) → recordAt s tn t i pa → s.faults = [f] →
    f.tenant = tn → f.page ≤ va / 65536 → va / 65536 < f.page + f.size → f.write = false → f.exec = false →
    ∃ u, exec (.hostBar2Access tn off (.read n)) s = .next u ∧ u.hostReplies = s.hostReplies ++ [none] ∧ u.faults = s.faults ∧
      readSpace u .m (pa + 8) 1 = 10 ∧ readSpace u .m (pa + 10) 2 = 0) ∧
  (∀ s tn t off b pa, tfind s.tenants tn = some t → noAlmanac s tn → t.state ≠ .absent → 0 < b.length →
    off + b.length ≤ t.config.bar2Size → mappedAt s tn (t.config.bar2Base + off) b.length pa .write →
    ∃ u, exec (.hostBar2Access tn off (.write b)) s = .next u ∧ u = { s with
        main := u.main
        reqs := u.reqs
        copies := u.copies
        grids := u.grids
        fetched := u.fetched } ∧
      ∀ a, readByte u.main a = if pa ≤ a then (b[a - pa]?).getD (readByte s.main a) else readByte s.main a) ∧
  (∀ s tn t off n, tfind s.tenants tn = some t → t.state ≠ .absent → 0 < n →
    (off + n ≤ 65536 → ∃ u b, exec (.hostBar2Access tn off (.bar0Read n)) s = .next u ∧ b.length = n ∧ u = { s with
        hostReplies := s.hostReplies ++ [some b]
        draws := s.draws + n } ∧
      ∀ k, k < n → off + k < 4096 → b[k]? = some (readByte s.scratch (t.config.inbox + off + k))) ∧
    (off + n ≤ 32768 → exec (.hostBar2Access tn off (.tableRead n)) s = .next { s with
      hostReplies := s.hostReplies ++ [some ((List.range n).map fun k => readByte t.msixTable (off + k))] })) ∧
  (∀ s tn t off b, tfind s.tenants tn = some t → t.state ≠ .absent → off + b.length ≤ 32768 →
    ∃ u x, exec (.hostBar2Access tn off (.tableWrite b)) s = .next u ∧ u = { s with tenants := tput s.tenants tn { t with msixTable := x } } ∧
      ∀ a, readByte x a = if off ≤ a then (b[a - off]?).getD (readByte t.msixTable a) else readByte t.msixTable a) ∧
  (∀ s tn off, exec (.hostBar2Access tn off .pfCertificate) s = .next { s with hostReplies := s.hostReplies ++ [some Config.certificate] }) ∧
  (∀ s tn t off, tfind s.tenants tn = some t → t.state ≠ .absent → exec (.hostBar2Access tn off (.pfMonitor .traps)) s = .next { s with
    hostReplies := s.hostReplies ++ [some ((List.range 27).flatMap fun c => leBytes 8 (tget 0 t.trapsCopied (c + 1)).toNat)] }) ∧
  (∀ s tn c, s.boot = .booted → tn < 16 → tfind s.tenants tn = none → ConfigLegal c → leavesOthers s tn c →
    ∃ u t, exec (.tenantConfigWrite tn (.all c)) s = .next u ∧ TenantFresh t c ∧ areasLaid s u ∧ u = { s with
      scratch := u.scratch
      forkAreas := u.forkAreas
      tenants := tput s.tenants tn t
      mailbox := none }) ∧
  (∀ s tn t c w, s.boot = .booted → tn < 16 → tfind s.tenants tn = some t →
    (w = .all c ∨ (w = .handler c.handler ∧ c = { t.config with handler := c.handler }) ∨
      (w = .killScope c.killScope ∧ c = { t.config with killScope := c.killScope }) ∨
      (w = .chanBudget c.chanBudget ∧ c = { t.config with chanBudget := c.chanBudget }) ∨
      (w = .procBudget c.procBudget ∧ c = { t.config with procBudget := c.procBudget }) ∨
      (w = .rasterThreshold c.rasterThreshold ∧ c = { t.config with rasterThreshold := c.rasterThreshold })) →
    (¬ (ConfigLegal c ∧ leavesOthers s tn c) → ∃ u x, exec (.tenantConfigWrite tn w) s = .next u ∧ u = { s with
      mailbox := some x
      draws := s.draws + 1 }) ∧ (ConfigLegal c → leavesOthers s tn c →
    let runs := t.state = .running ∨ t.state = .frozen
    (runs → ¬ sameButLive t.config c → exec (.tenantConfigWrite tn w) s = .next { s with mailbox := some 4 }) ∧
    (¬ runs ∨ sameButLive t.config c → ∃ u, exec (.tenantConfigWrite tn w) s = .next u ∧ areasLaid s u ∧ u = { s with
      scratch := u.scratch
      forkAreas := u.forkAreas
      tenants := tput s.tenants tn { t with
        config := c
        state := if t.state = .absent then .configured else t.state }
      mailbox := none }))) ∧
  (∀ s tn w, s.boot = .booted → tn < 16 →
    (w ≤ 1500 → exec (.tenantConfigWrite tn (.powerLimit w)) s = .next { s with
      powerLimit := w
      mailbox := none }) ∧
    (1500 < w → ∃ u, exec (.tenantConfigWrite tn (.powerLimit w)) s = .next u ∧ u.powerLimit = s.powerLimit ∧ u.mailbox.isSome = true)) ∧
  (∀ s tn w, s.boot ≠ .booted ∨ 16 ≤ tn → exec (.tenantConfigWrite tn w) s = .next s) ∧
  ∀ s tn t, tfind s.tenants tn = some t → t.config.almanac = .off →
    let taken := ∃ p, p ∈ s.tenants ∧ p.1 ≠ tn ∧ (p.2.state = .running ∨ p.2.state = .frozen) ∧ ∃ d, d ∈ p.2.config.cores ∧ d ∈ t.config.cores
    (t.state ≠ .configured ∨ s.boot ≠ .booted ∨ taken → exec (.tenantStart tn) s = .next s) ∧
    (t.state = .configured → s.boot = .booted → ¬ taken → ∃ u t1, exec (.tenantStart tn) s = .next u ∧ t1.state = .running ∧
      t1 = { t with
        state := .running
        almanac := t1.almanac } ∧ u = { s with
        measure := measured s.measure (Config.configBytes t.config)
        tenants := tput s.tenants tn t1 })

/-- R95, R317, R343 to R348, R351 to R353: the ROM boots an image that it accepts, with its payload where its header says,
measures it and the fabric configuration, and starts the dies; otherwise it tries the other port 1 second later. Where the file
stands before (log entry 83), where the fabric configuration begins and what it says are free. A report has R348's fields and is
signed with the identity key (log entries 7 and 82), and a VF gets only its own tenant's. The queues are sampled once in 1,024
clocks; a clear snapshots a monitor. Power, read once in a millisecond, and heat lower the clock, by 100 MHz a step as it rises
(log 59), and at 110 °C every context is stopped. -/
def Obligations.ModuleBootsAndReports : Prop :=
  (∀ s f port, (s.boot = .inReset ∧ port = 0) ∨ s.boot = .trying port →
    (∀ b len, f.addressed = true → f.file = some b → b.length ≤ 16 * 2 ^ 20 → ImageAccepted s b len → ∃ u, exec (.bootRomStart f) s = .next u ∧
      u.boot = .booted ∧ u.diesInReset = false ∧ u.boots = s.boots + 1 ∧ u.partDigest = shake256 identityKey ∧
      u.measure = measured (measured (List.replicate 32 0) (b.take (49984 + len))) (fabricIn ((b.drop 49984).take len)) ∧
      (∀ k, k < len → readByte u.sram (leNat ((b.drop 16).take 8) + k) = b.getD (49984 + k) 0) ∧ u.entry = some (leNat ((b.drop 24).take 8)) ∧
      (∀ core, core < 256 → tget 0 u.coreStart core = s.now + Config.coreLag s.boots core) ∧ FabricInRange u.fabric ∧
      u.firmware = u.measure ∧ (∀ n, n < 16 → ∃ l, tfind u.links n = some l ∧ l.up = true ∧ l.unacked = []) ∧
      u = { s with
        boot := u.boot
        measure := u.measure
        firmware := u.firmware
        partDigest := u.partDigest
        boots := u.boots
        sram := u.sram
        entry := u.entry
        coreStart := u.coreStart
        fabric := u.fabric
        links := u.links
        diesInReset := u.diesInReset }) ∧
    (f.addressed = false ∨ f.file = none ∨ (∃ b, f.file = some b ∧ 16 * 2 ^ 20 < b.length) →
      exec (.bootRomStart f) s = .next { s with boot := .failed port s.now }) ∧
    ∀ b, f.addressed = true → f.file = some b → b.length ≤ 16 * 2 ^ 20 → (¬ ∃ len, ImageAccepted s b len) →
      ∃ u, exec (.bootRomStart f) s = .next u ∧ u = { s with
          boot := .failed port s.now
          sram := u.sram } ∧
        ∀ a, readByte u.sram a = (b[a]?).getD (readByte s.sram a)) ∧
  (∀ s port at_, s.boot = .failed port at_ →
    let second := 1000 * (1000 * s.clockMHz)
    (s.now < at_ + second → exec .bootRetry s = .next s) ∧
    (at_ + second ≤ s.now → exec .bootRetry s = .next { s with boot := .trying (1 - port) })) ∧
  (∀ s r c, s.boot = .booted →
    (r.subject = none ∧ r.vf = none ∧ c = none) ∨ (∃ tn t, r.subject = some tn ∧ (r.vf = none ∨ r.vf = some tn) ∧
      tfind s.tenants tn = some t ∧ t.state ≠ .absent ∧ c = some t.config) →
    ∃ b, exec (.attestationRequest r) s = .next { s with reports := s.reports ++ [b] } ∧ b.length = 50112 ∧
      leNat (Bytes.field b 0 4) = 0x54544152 ∧ leNat (Bytes.field b 4 2) = 1 ∧
      leNat (Bytes.field b 6 1) = (r.subject.getD 0xFF) % 256 ∧ leNat (Bytes.field b 7 1) = 0 ∧
      (r.nonce.length = 32 → Bytes.field b 8 32 = r.nonce) ∧ (s.partDigest.length = 32 → Bytes.field b 40 32 = s.partDigest) ∧
      (s.firmware.length = 32 → Bytes.field b 72 32 = s.firmware) ∧
      Bytes.field b 104 32 = (match c with
        | some x => shake256 (Config.configBytes x)
        | none => List.replicate 32 0) ∧
      leNat (Bytes.field b 136 8) = s.boots % 2 ^ 64 ∧ Bytes.field b 144 112 = List.replicate 112 0 ∧
      ∃ rand, rand.length = 32 ∧ ((signWith fusedSecret rand (b.take 256)).length = 49856 → b.drop 256 = signWith fusedSecret rand (b.take 256))) ∧
  (∀ s r, s.boot ≠ .booted ∨ (∃ v, r.vf = some v ∧ r.subject ≠ some v) → exec (.attestationRequest r) s = .next s) ∧
  (∀ s tn t m, tfind s.tenants tn = some t → ∃ t1, exec (.monitorClear tn m) s = .next { s with tenants := tput s.tenants tn t1 } ∧
    (∀ x, t.monitor m = some x → t1.monitor m = some ⟨⟨BitVec.allOnes 64, 0, 0, 0, []⟩, x.live⟩) ∧
    (∀ k, k ≠ m → t1.monitor k = t.monitor k) ∧ (m = .traps → t1.traps = [] ∧ t1.trapsCopied = t.traps) ∧
    (m ≠ .traps → t1.traps = t.traps ∧ t1.trapsCopied = t.trapsCopied)) ∧
  (∀ (m : Monitor) x, x < 2 ^ 64 → Sampled m (m.sample x) x) ∧
  (∀ s, s.now / 1024 ≤ s.sampled → exec .queueSample s = .next s) ∧
  (∀ s, s.sampled < s.now / 1024 → ∃ u, exec .queueSample s = .next u ∧ u = { s with
      tenants := u.tenants
      sampled := s.now / 1024 } ∧ ∀ tn t, tfind s.tenants tn = some t →
    (t.state = .absent → tfind u.tenants tn = some t) ∧
    (t.state ≠ .absent →
      let at_ := fun q => (tget [] t.queues q).length
      tfind u.tenants tn = some { t with queueMon := (((t.queueMon.sample (at_ 0)).sample (at_ 1)).sample (at_ 2)).sample (at_ 3) })) ∧
  (∀ s r,
    let hot := s.powerLimit < r.watts ∨ ∃ x, x ∈ r.dieTemps ∧ 95 < x
    let read := { s with powerRead := s.now }
    (s.now < s.powerRead + 1000 * s.clockMHz → exec (.powerSample r) s = .next s) ∧ (s.powerRead + 1000 * s.clockMHz ≤ s.now →
    (hot → exec (.powerSample r) s = .next { read with
      clockMHz := max 600 (s.clockMHz - 100)
      coolSince := s.now }) ∧
    (¬ hot → s.clockMHz < 1200 → s.coolSince + 100 * (1000 * s.clockMHz) ≤ s.now →
      exec (.powerSample r) s = .next { read with clockMHz := min 1200 (s.clockMHz + 100) }) ∧
    (¬ hot → 1200 ≤ s.clockMHz ∨ s.now < s.coolSince + 100 * (1000 * s.clockMHz) → exec (.powerSample r) s = .next read))) ∧
  ∀ s die, ∃ u, exec (.thermalShutdown die) s = .next u ∧ u.diesInReset = true ∧ allChecked s u

/-- R346: the measurement register is zeros at reset. A boot measures the image, to the end of its payload, and then the fabric
configuration, and that value is the firmware measurement; a tenant's start measures its configuration, and the firmware
measurement stays. Every output is 32 bytes long. That SHAKE256 is FIPS 202's, how long a payload's firmware is and how a
configuration is laid out to be measured are log entry 7. -/
def Obligations.MeasurementRegister : Prop :=
  State.reset.measure = List.replicate 32 0 ∧
  (∀ m c, (measured m c).length = 32 ∧ (shake256 c).length = 32) ∧
  (∀ s f b len t, (s.boot = .inReset ∨ ∃ port, s.boot = .trying port) → f.addressed = true → f.file = some b →
    b.length ≤ 16 * 2 ^ 20 → ImageAccepted s b len → exec (.bootRomStart f) s = .next t →
    t.firmware = t.measure ∧ t.measure =
      measured (measured (List.replicate 32 0) (b.take (49984 + len))) (fabricIn ((b.drop 49984).take len))) ∧
  ∀ s tn x t y, tfind s.tenants tn = some x → x.state = .configured → exec (.tenantStart tn) s = .next t →
    tfind t.tenants tn = some y → y.state = .running →
    t.measure = measured s.measure (Config.configBytes x.config) ∧ t.firmware = s.firmware

/-! ## The whole machine -/

/-- R38 to R55: the decoder reads every well-formed instruction back from its word, with every operand at every value the encoding
admits; a word that decodes is the word of what it decodes to; and its opcode is assigned, in one class only, but for NOP. -/
def Obligations.DecodeReadsEncode : Prop :=
  (∀ i w, i.wf = true → encode i = some w → decode w = .ok i) ∧
  (∀ i w, decode w = .ok i → i.wf = true ∧ encode i = some w) ∧
  ∀ i w, encode i = some w → assignedOpcode (w.extractLsb' 54 10).toNat = true ∧
    ∃ c, wordInClass w c ∧ ∀ d, wordInClass w d → d = c ∨ i = .nop

/-- The worked encodings of the manual (after R55 and at the instructions' entries), one of each class: the word decodes to the
instruction it stands for. -/
def Obligations.WordsDecode : Prop :=
  let is := fun w i => decodeTableWord 64 w = some i
  is 0x20C0600008082000 (.ffma 3#9 0#9 1#9 2#9 0#4 .rne false false false false false) ∧
    is 0x5080808A00000001 (.isubSi 2#8 2#8 .s32 true 1#32) ∧ is 0x6100A03040801000 (.ldd 5#9 3#9 4#8 0#4 .w32 .a 0#12) ∧
    is 0x8200C20000800002 (.xchg 3#8 8#8 .a 2#12) ∧ is 0x91820003C0004040 (.mread 0#2 1#3 30#8 8#9 .a) ∧
    is 0xA0460281E0020000 (.rbox 48#9 40#9 60#9 0#4 .a) ∧ is 0xB068018200000000 (.recv 40#6 3#9 0#4 .a) ∧
    is 0xC142814010000000 (.waitg 10#8 5#8 .a) ∧ is 0x0000000000000000 .nop

/-- No byte memory ever leaves its canonical form: the model's own bookkeeping (log entry 4). -/
def Obligations.MemoryStaysCanonical : Prop := ∀ s t, s.canonical = true → step s = .next t → t.canonical = true

/-- Every identifier of a result or an exchange, in the module or in a saved context, stays below the next to be given out, so
that none is given out twice: the model's own bookkeeping (log entry 13). -/
def Obligations.IdentifiersStayFresh : Prop := ∀ s t, FreshIds s → step s = .next t → FreshIds t

/-- R343, R346: at reset the compute dies are held in reset, boot has not begun, the measurement register is zeros, and nothing is
resident, queued or on its way; the two invariants hold. That every byte reads 0 is the model's choice (log entry 4), and so are
the table without tenants, the empty queues and links, and the clock at 0 (log entry 6). -/
def Obligations.ResetHolds : Prop :=
  let s := State.reset
  s.diesInReset = true ∧ s.boot = .inReset ∧ s.measure = List.replicate 32 0 ∧ s.groups = [] ∧ s.teams = [] ∧ s.grids = [] ∧
    s.tenants = [] ∧ s.reqs = [] ∧ s.owed = [] ∧ s.rx = [] ∧ s.remotes = [] ∧ s.now = 0 ∧ s.canonical = true ∧ FreshIds s ∧
    ∀ sp a, byteOf s sp a = 0

/-- R30, R34: a step takes the agenda's first turn. Where the turn issues a slot of a group whose word decodes and is of its
clause's class, the step is exec of that instruction; another word raises 0x01 or 0x02. While the group's other slot waits at a
limit of R171 inside its clause, a slot in a clause of the limited classes does nothing (log 94), and nothing issues while a die
is held in reset (R353). A turn that names a step of the table that no word encodes is exec of that step. That the agenda says
which turn comes next is the model's (log entry 1), and so is the state whose next step issues a given word (log 3). -/
def Obligations.StepRunsTheInstruction : Prop :=
  (∀ s gid n dt rest, s.agenda = ⟨dt, .issue gid n⟩ :: rest →
    let v := { s.turned dt rest with focus := (gid, n) }
    (issuer v = none ∨ s.diesInReset = true ∨ s.ucieUp = false → step s = .next v) ∧
    ∀ i, issuer v = some i → s.diesInReset = false → s.ucieUp = true →
      (∀ sl c, slotOf i.g (1 - n) = some sl → sl.clause = some c → heldBack i.g (1 - n) = false → i.cl.hdr.cls.limited = true →
        firstExceeds v ⟨i.gid, 1 - n, i.g, sl, c⟩ = true → step s = .next v) ∧
      ((∀ sl c, slotOf i.g (1 - n) = some sl → sl.clause = some c → heldBack i.g (1 - n) = false → i.cl.hdr.cls.limited = true →
        firstExceeds v ⟨i.gid, 1 - n, i.g, sl, c⟩ = false) →
      (∀ ins, decode i.word = .ok ins → wordInClass i.word i.cl.hdr.cls → step s = exec ins v) ∧
      ((heldBack i.g n || isFrozen v i.g || waitsForPipe v i) = false →
        (assignedOpcode (opcodeOf i.word) = false → step s = .next (raise v i 0x01)) ∧
        (assignedOpcode (opcodeOf i.word) = true → ¬ wordInClass i.word i.cl.hdr.cls → step s = .next (raise v i 0x02)) ∧
        (∀ e, wordInClass i.word i.cl.hdr.cls → decode i.word = .error e → step s = .next (raise v i 0x01))))) ∧
  (∀ s ins dt rest, s.agenda = ⟨dt, .event ins⟩ :: rest → encode ins = none → step s = exec ins (s.turned dt rest)) ∧
  (∀ s ins dt rest, s.agenda = ⟨dt, .event ins⟩ :: rest → encode ins ≠ none → step s = .next (s.turned dt rest)) ∧
  ∀ s gid n i, s.focus = (gid, n) → issuer s = some i →
    ∀ w, w < 2 ^ 64 → (s.withFetchWord 64 w).diesInReset = false ∧ (s.withFetchWord 64 w).ucieUp = true ∧ ∃ j, issuer { (s.withFetchWord 64 w).turned 1 [] with focus := (gid, n) } = some j ∧ j.word = BitVec.ofNat 64 w

/-- No instruction stops the machine: exec answers a next state, which may be the same where the instruction waits, but for an
encoded instruction with no issuing slot, a fault of the model's own (log 14); so does every step. -/
def Obligations.EveryStepGoesOn : Prop :=
  (∀ i s, (∃ t, exec i s = .next t) ∨ (exec i s = .fault .noIssuer ∧ issuer s = none ∧ encode i ≠ none)) ∧
    ∀ s, ∃ t, step s = .next t
end

