-- ==== Sys2Proof/Laws/Map.lean ====
section
/-! SUPPORT. Laws of the sparse tables and of byte memory. -/

namespace Sys2Proof.Machine

open Sys2Proof

/-! ## Sparse tables -/

theorem tfind_tput_self {β : Type} (m : SMap β) (k : Nat) (v : β) : tfind (tput m k v) k = some v := by
  induction m with
  | nil => simp [tput, tfind]
  | cons p m ih =>
    obtain ⟨k', v'⟩ := p
    unfold tput
    split
    · simp [tfind]
    · split
      · simp [tfind]
      · simp [tfind, *]

theorem tfind_tput_other {β : Type} (m : SMap β) (k : Nat) (v : β) {x : Nat} (h : x ≠ k) : tfind (tput m k v) x = tfind m x := by
  induction m with
  | nil => simp [tput, tfind, h]
  | cons p m ih =>
    obtain ⟨k', v'⟩ := p
    unfold tput
    split
    · simp [tfind, h]
    · split
      · subst k; simp [tfind, h]
      · simp [tfind, ih]

theorem tfind_tput {β : Type} (m : SMap β) (k : Nat) (v : β) (x : Nat) :
    tfind (tput m k v) x = if x = k then some v else tfind m x := by
  split
  · subst x; exact tfind_tput_self m k v
  · exact tfind_tput_other m k v ‹_›

theorem tfind_tdel {β : Type} (m : SMap β) (k x : Nat) : tfind (tdel m k) x = if x = k then none else tfind m x := by
  induction m with
  | nil => simp [tdel, tfind]
  | cons p m ih =>
    obtain ⟨k', v'⟩ := p
    unfold tdel at ih ⊢
    by_cases hk : k' = k
    · subst k'
      rw [List.filter_cons_of_neg (by simp), ih]
      by_cases hx : x = k <;> simp [tfind, hx]
    · rw [List.filter_cons_of_pos (by simpa using hk)]
      by_cases hx : x = k'
      · subst x; simp [tfind, hk]
      · simp [tfind, hx, ih]

/-- A table reads as what was written last, and elsewhere as before. -/
theorem tget_tset {β : Type} [DecidableEq β] (d : β) (m : SMap β) (k : Nat) (v : β) (x : Nat) :
    tget d (tset d m k v) x = if x = k then v else tget d m x := by
  unfold tget tset
  by_cases hv : v = d
  · rw [if_pos hv, tfind_tdel]
    by_cases hx : x = k <;> simp [hx, hv]
  · rw [if_neg hv, tfind_tput]
    by_cases hx : x = k <;> simp [hx]

@[simp] theorem tget_tset_self {β : Type} [DecidableEq β] (d : β) (m : SMap β) (k : Nat) (v : β) : tget d (tset d m k v) k = v := by
  simp [tget_tset]

theorem tget_tset_other {β : Type} [DecidableEq β] (d : β) (m : SMap β) (k : Nat) (v : β) {x : Nat} (h : x ≠ k) :
    tget d (tset d m k v) x = tget d m x := by
  simp [tget_tset, h]

/-! ## The canonical form -/

/-- The canonical form, as two facts on the list. -/
theorem tcanon_iff {β : Type} [DecidableEq β] (d : β) (m : SMap β) :
    tcanon d m = true ↔ m.Pairwise (fun p q => p.1 < q.1) ∧ ∀ p ∈ m, p.2 ≠ d := by
  induction m with
  | nil => simp [tcanon]
  | cons p m ih =>
    cases m with
    | nil => obtain ⟨k, v⟩ := p; simp [tcanon]
    | cons q m =>
      obtain ⟨k, v⟩ := p
      obtain ⟨k', v'⟩ := q
      rw [tcanon, Bool.and_eq_true, Bool.and_eq_true, ih]
      simp only [List.pairwise_cons, List.mem_cons, decide_eq_true_eq, forall_eq_or_imp]
      constructor
      · rintro ⟨⟨hv, hk⟩, ⟨hp, hpw⟩, hv', hm⟩
        exact ⟨⟨⟨hk, fun a ha => lt_trans hk (hp a ha)⟩, hp, hpw⟩, hv, hv', hm⟩
      · rintro ⟨⟨⟨hk, _⟩, hp, hpw⟩, hv, hv', hm⟩
        exact ⟨⟨hv, hk⟩, ⟨hp, hpw⟩, hv', hm⟩

theorem mem_tput {β : Type} {m : SMap β} {k : Nat} {v : β} {p : Nat × β} (h : p ∈ tput m k v) : p = (k, v) ∨ p ∈ m := by
  induction m with
  | nil => simpa [tput] using h
  | cons q m ih =>
    obtain ⟨k', v'⟩ := q
    unfold tput at h
    split at h
    · simpa using h
    · split at h
      · rcases List.mem_cons.1 h with h | h
        · exact .inl h
        · exact .inr (List.mem_cons_of_mem _ h)
      · rcases List.mem_cons.1 h with h | h
        · exact .inr (h ▸ List.mem_cons_self)
        · exact (ih h).imp id (List.mem_cons_of_mem _)

theorem tput_sorted {β : Type} (m : SMap β) (k : Nat) (v : β) (h : m.Pairwise fun p q => p.1 < q.1) :
    (tput m k v).Pairwise fun p q => p.1 < q.1 := by
  induction m with
  | nil => simp [tput]
  | cons q m ih =>
    obtain ⟨k', v'⟩ := q
    obtain ⟨h1, h2⟩ := List.pairwise_cons.1 h
    unfold tput
    split
    · rename_i hk
      refine List.pairwise_cons.2 ⟨fun p hp => ?_, h⟩
      rcases List.mem_cons.1 hp with rfl | hp
      · exact hk
      · exact lt_trans hk (h1 p hp)
    · split
      · subst k; exact List.pairwise_cons.2 ⟨h1, h2⟩
      · refine List.pairwise_cons.2 ⟨fun p hp => ?_, ih h2⟩
        rcases mem_tput hp with rfl | hp
        · simp only; omega
        · exact h1 p hp

/-- Writing keeps the canonical form. -/
theorem tcanon_tset {β : Type} [DecidableEq β] (d : β) (m : SMap β) (k : Nat) (v : β) (h : tcanon d m = true) :
    tcanon d (tset d m k v) = true := by
  rw [tcanon_iff] at h ⊢
  unfold tset
  split
  · exact ⟨h.1.filter _, fun p hp => h.2 p (List.mem_of_mem_filter hp)⟩
  · refine ⟨tput_sorted m k v h.1, fun p hp => ?_⟩
    rcases mem_tput hp with rfl | hp
    · assumption
    · exact h.2 p hp

/-! ## Byte memory -/

/-- A byte reads as what was written last, and every other byte as before. -/
theorem readByte_writeByte (m : Mem) (a : Nat) (b : Byte) (x : Nat) :
    readByte (writeByte m a b) x = if x = a then b else readByte m x := tget_tset _ m a b x

theorem wf_writeByte (m : Mem) (a : Nat) (b : Byte) (h : Memory.wf m = true) : Memory.wf (writeByte m a b) = true :=
  tcanon_tset _ m a b h

theorem readByte_writeBytes (m : Mem) (a : Nat) (bs : Bytes) (x : Nat) :
    readByte (writeBytes m a bs) x = if a ≤ x then (bs[x - a]?).getD (readByte m x) else readByte m x := by
  induction bs generalizing m a with
  | nil => simp [writeBytes]
  | cons b bs ih =>
    rw [writeBytes, ih, readByte_writeByte]
    by_cases h1 : a + 1 ≤ x
    · have h2 : x - a = (x - (a + 1)) + 1 := by omega
      have h3 : x ≠ a := by omega
      have h4 : a ≤ x := by omega
      simp [h1, h2, h3, h4]
    · by_cases h2 : x = a
      · subst x; simp
      · have h3 : ¬ a ≤ x := by omega
        simp [h1, h2, h3]

/-- Bytes outside the stored ones read as before. -/
theorem readByte_writeBytes_outside (m : Mem) (a : Nat) (bs : Bytes) {x : Nat} (h : x < a ∨ a + bs.length ≤ x) :
    readByte (writeBytes m a bs) x = readByte m x := by
  rw [readByte_writeBytes]
  split
  · rw [List.getElem?_eq_none (by omega)]; rfl
  · rfl

theorem wf_writeBytes (m : Mem) (a : Nat) (bs : Bytes) (h : Memory.wf m = true) : Memory.wf (writeBytes m a bs) = true := by
  induction bs generalizing m a with
  | nil => exact h
  | cons b bs ih => exact ih _ _ (wf_writeByte m a b h)

@[simp] theorem leBytes_length (n x : Nat) : (leBytes n x).length = n := by
  induction n generalizing x with
  | zero => rfl
  | succ n ih => simp [leBytes, ih]

theorem wf_writeNat (m : Mem) (a n x : Nat) (h : Memory.wf m = true) : Memory.wf (writeNat m a n x) = true := wf_writeBytes m a _ h

theorem readByte_writeNat_outside (m : Mem) (a n v : Nat) {x : Nat} (h : x < a ∨ a + n ≤ x) :
    readByte (writeNat m a n v) x = readByte m x := readByte_writeBytes_outside m a _ (by simpa using h)

theorem leNat_leBytes (n x : Nat) : leNat (leBytes n x) = x % 256 ^ n := by
  induction n generalizing x with
  | zero => simp [leBytes, leNat, Nat.mod_one]
  | succ n ih =>
    rw [leBytes, leNat, ih, pow_succ, mul_comm (256 ^ n) 256, Nat.mod_mul]
    simp

theorem readBytes_eq (m : Mem) (a : Nat) (bs : Bytes) : readBytes (writeBytes m a bs) a bs.length = bs := by
  suffices h : ∀ (n : Nat) (k : Nat) (m' : Mem), (∀ j, j < n → readByte m' (a + k + j) = bs[k + j]?.getD 0) → k + n = bs.length →
      readBytes m' (a + k) n = bs.drop k by
    simpa using h bs.length 0 (writeBytes m a bs)
      (fun j hj => by rw [readByte_writeBytes]; simp [List.getElem?_eq_getElem hj]) (by simp)
  intro n
  induction n with
  | zero => intro k m' _ hk; simp [readBytes]; omega
  | succ n ih =>
    intro k m' hb hk
    have hlt : k < bs.length := by omega
    rw [readBytes, List.drop_eq_getElem_cons hlt, add_assoc a k 1]
    refine congrArg₂ List.cons ?_ (ih (k + 1) m' (fun j hj => ?_) (by omega))
    · have := hb 0 (by omega); simpa [List.getElem?_eq_getElem hlt] using this
    · have := hb (j + 1) (by omega)
      rw [show a + (k + 1) + j = a + k + (j + 1) by omega, show k + 1 + j = k + (j + 1) by omega]
      exact this

/-- A number stored reads back, cut to its n bytes. -/
theorem readNat_writeNat (m : Mem) (a n x : Nat) : readNat (writeNat m a n x) a n = x % 256 ^ n := by
  have h := readBytes_eq m a (leBytes n x)
  rw [leBytes_length] at h
  rw [readNat, writeNat, h, leNat_leBytes]

end Sys2Proof.Machine
end

