-- ==== Sys2Proof/Laws/State.lean ====
section
/-! SUPPORT. One lemma for each field and each update of the state and of a group. -/

namespace Sys2Proof.Machine

open Sys2Proof


/-! ## The state: one group, team, grid or tenant replaced -/

@[simp] theorem putGroup_now (s : State) (gid : Nat) (g : Group) : (putGroup s gid g).now = s.now := rfl
@[simp] theorem putGroup_agenda (s : State) (gid : Nat) (g : Group) : (putGroup s gid g).agenda = s.agenda := rfl
@[simp] theorem putGroup_focus (s : State) (gid : Nat) (g : Group) : (putGroup s gid g).focus = s.focus := rfl
@[simp] theorem putGroup_nextId (s : State) (gid : Nat) (g : Group) : (putGroup s gid g).nextId = s.nextId := rfl
@[simp] theorem putGroup_nextSeq (s : State) (gid : Nat) (g : Group) : (putGroup s gid g).nextSeq = s.nextSeq := rfl
@[simp] theorem putGroup_draws (s : State) (gid : Nat) (g : Group) : (putGroup s gid g).draws = s.draws := rfl
@[simp] theorem putGroup_scratch (s : State) (gid : Nat) (g : Group) : (putGroup s gid g).scratch = s.scratch := rfl
@[simp] theorem putGroup_main (s : State) (gid : Nat) (g : Group) : (putGroup s gid g).main = s.main := rfl
@[simp] theorem putGroup_hostMem (s : State) (gid : Nat) (g : Group) : (putGroup s gid g).hostMem = s.hostMem := rfl
@[simp] theorem putGroup_teams (s : State) (gid : Nat) (g : Group) : (putGroup s gid g).teams = s.teams := rfl
@[simp] theorem putGroup_grids (s : State) (gid : Nat) (g : Group) : (putGroup s gid g).grids = s.grids := rfl
@[simp] theorem putGroup_tenants (s : State) (gid : Nat) (g : Group) : (putGroup s gid g).tenants = s.tenants := rfl
@[simp] theorem putGroup_partitions (s : State) (gid : Nat) (g : Group) : (putGroup s gid g).partitions = s.partitions := rfl
@[simp] theorem putGroup_congestion (s : State) (gid : Nat) (g : Group) : (putGroup s gid g).congestion = s.congestion := rfl
@[simp] theorem putGroup_coreStart (s : State) (gid : Nat) (g : Group) : (putGroup s gid g).coreStart = s.coreStart := rfl
@[simp] theorem putGroup_banks (s : State) (gid : Nat) (g : Group) : (putGroup s gid g).banks = s.banks := rfl
@[simp] theorem putGroup_reqs (s : State) (gid : Nat) (g : Group) : (putGroup s gid g).reqs = s.reqs := rfl
@[simp] theorem putGroup_owed (s : State) (gid : Nat) (g : Group) : (putGroup s gid g).owed = s.owed := rfl
@[simp] theorem putGroup_sends (s : State) (gid : Nat) (g : Group) : (putGroup s gid g).sends = s.sends := rfl
@[simp] theorem putGroup_returns (s : State) (gid : Nat) (g : Group) : (putGroup s gid g).returns = s.returns := rfl
@[simp] theorem putGroup_keys (s : State) (gid : Nat) (g : Group) : (putGroup s gid g).keys = s.keys := rfl
@[simp] theorem putGroup_procMsgs (s : State) (gid : Nat) (g : Group) : (putGroup s gid g).procMsgs = s.procMsgs := rfl
@[simp] theorem putGroup_copies (s : State) (gid : Nat) (g : Group) : (putGroup s gid g).copies = s.copies := rfl
@[simp] theorem putGroup_arrays (s : State) (gid : Nat) (g : Group) : (putGroup s gid g).arrays = s.arrays := rfl
@[simp] theorem putGroup_decoders (s : State) (gid : Nat) (g : Group) : (putGroup s gid g).decoders = s.decoders := rfl
@[simp] theorem putGroup_patches (s : State) (gid : Nat) (g : Group) : (putGroup s gid g).patches = s.patches := rfl
@[simp] theorem putGroup_rasters (s : State) (gid : Nat) (g : Group) : (putGroup s gid g).rasters = s.rasters := rfl
@[simp] theorem putGroup_faults (s : State) (gid : Nat) (g : Group) : (putGroup s gid g).faults = s.faults := rfl
@[simp] theorem putGroup_cache (s : State) (gid : Nat) (g : Group) : (putGroup s gid g).cache = s.cache := rfl
@[simp] theorem putGroup_xchgs (s : State) (gid : Nat) (g : Group) : (putGroup s gid g).xchgs = s.xchgs := rfl
@[simp] theorem putGroup_resends (s : State) (gid : Nat) (g : Group) : (putGroup s gid g).resends = s.resends := rfl
@[simp] theorem putGroup_fabric (s : State) (gid : Nat) (g : Group) : (putGroup s gid g).fabric = s.fabric := rfl
@[simp] theorem putGroup_links (s : State) (gid : Nat) (g : Group) : (putGroup s gid g).links = s.links := rfl
@[simp] theorem putGroup_rx (s : State) (gid : Nat) (g : Group) : (putGroup s gid g).rx = s.rx := rfl
@[simp] theorem putGroup_parts (s : State) (gid : Nat) (g : Group) : (putGroup s gid g).parts = s.parts := rfl
@[simp] theorem putGroup_remotes (s : State) (gid : Nat) (g : Group) : (putGroup s gid g).remotes = s.remotes := rfl
@[simp] theorem putGroup_fetched (s : State) (gid : Nat) (g : Group) : (putGroup s gid g).fetched = s.fetched := rfl
@[simp] theorem putGroup_saved (s : State) (gid : Nat) (g : Group) : (putGroup s gid g).saved = s.saved := rfl
@[simp] theorem putGroup_images (s : State) (gid : Nat) (g : Group) : (putGroup s gid g).images = s.images := rfl
@[simp] theorem putGroup_cxops (s : State) (gid : Nat) (g : Group) : (putGroup s gid g).cxops = s.cxops := rfl
@[simp] theorem putGroup_hostReplies (s : State) (gid : Nat) (g : Group) : (putGroup s gid g).hostReplies = s.hostReplies := rfl
@[simp] theorem putGroup_rrTenant (s : State) (gid : Nat) (g : Group) : (putGroup s gid g).rrTenant = s.rrTenant := rfl
@[simp] theorem putGroup_boot (s : State) (gid : Nat) (g : Group) : (putGroup s gid g).boot = s.boot := rfl
@[simp] theorem putGroup_measure (s : State) (gid : Nat) (g : Group) : (putGroup s gid g).measure = s.measure := rfl
@[simp] theorem putGroup_firmware (s : State) (gid : Nat) (g : Group) : (putGroup s gid g).firmware = s.firmware := rfl
@[simp] theorem putGroup_partDigest (s : State) (gid : Nat) (g : Group) : (putGroup s gid g).partDigest = s.partDigest := rfl
@[simp] theorem putGroup_boots (s : State) (gid : Nat) (g : Group) : (putGroup s gid g).boots = s.boots := rfl
@[simp] theorem putGroup_revoked (s : State) (gid : Nat) (g : Group) : (putGroup s gid g).revoked = s.revoked := rfl
@[simp] theorem putGroup_sram (s : State) (gid : Nat) (g : Group) : (putGroup s gid g).sram = s.sram := rfl
@[simp] theorem putGroup_entry (s : State) (gid : Nat) (g : Group) : (putGroup s gid g).entry = s.entry := rfl
@[simp] theorem putGroup_reports (s : State) (gid : Nat) (g : Group) : (putGroup s gid g).reports = s.reports := rfl
@[simp] theorem putGroup_mailbox (s : State) (gid : Nat) (g : Group) : (putGroup s gid g).mailbox = s.mailbox := rfl
@[simp] theorem putGroup_powerLimit (s : State) (gid : Nat) (g : Group) : (putGroup s gid g).powerLimit = s.powerLimit := rfl
@[simp] theorem putGroup_clockMHz (s : State) (gid : Nat) (g : Group) : (putGroup s gid g).clockMHz = s.clockMHz := rfl
@[simp] theorem putGroup_sampled (s : State) (gid : Nat) (g : Group) : (putGroup s gid g).sampled = s.sampled := rfl
@[simp] theorem putGroup_coolSince (s : State) (gid : Nat) (g : Group) : (putGroup s gid g).coolSince = s.coolSince := rfl
@[simp] theorem putGroup_powerRead (s : State) (gid : Nat) (g : Group) : (putGroup s gid g).powerRead = s.powerRead := rfl
@[simp] theorem putGroup_forkAreas (s : State) (gid : Nat) (g : Group) : (putGroup s gid g).forkAreas = s.forkAreas := rfl
@[simp] theorem putGroup_diesInReset (s : State) (gid : Nat) (g : Group) : (putGroup s gid g).diesInReset = s.diesInReset := rfl
@[simp] theorem putGroup_ucieUp (s : State) (gid : Nat) (g : Group) : (putGroup s gid g).ucieUp = s.ucieUp := rfl
@[simp] theorem putGroup_corrected (s : State) (gid : Nat) (g : Group) : (putGroup s gid g).corrected = s.corrected := rfl
@[simp] theorem putGroup_variant (s : State) (gid : Nat) (g : Group) : (putGroup s gid g).variant = s.variant := rfl
@[simp] theorem putGroup_groups (s : State) (gid : Nat) (g : Group) : (putGroup s gid g).groups = tput s.groups gid g := rfl
@[simp] theorem updGroup_now (s : State) (n : Nat) (h : Group → Group) : (updGroup s n h).now = s.now := by unfold updGroup; split <;> rfl
@[simp] theorem updGroup_agenda (s : State) (n : Nat) (h : Group → Group) : (updGroup s n h).agenda = s.agenda := by unfold updGroup; split <;> rfl
@[simp] theorem updGroup_focus (s : State) (n : Nat) (h : Group → Group) : (updGroup s n h).focus = s.focus := by unfold updGroup; split <;> rfl
@[simp] theorem updGroup_nextId (s : State) (n : Nat) (h : Group → Group) : (updGroup s n h).nextId = s.nextId := by unfold updGroup; split <;> rfl
@[simp] theorem updGroup_nextSeq (s : State) (n : Nat) (h : Group → Group) : (updGroup s n h).nextSeq = s.nextSeq := by unfold updGroup; split <;> rfl
@[simp] theorem updGroup_draws (s : State) (n : Nat) (h : Group → Group) : (updGroup s n h).draws = s.draws := by unfold updGroup; split <;> rfl
@[simp] theorem updGroup_scratch (s : State) (n : Nat) (h : Group → Group) : (updGroup s n h).scratch = s.scratch := by unfold updGroup; split <;> rfl
@[simp] theorem updGroup_main (s : State) (n : Nat) (h : Group → Group) : (updGroup s n h).main = s.main := by unfold updGroup; split <;> rfl
@[simp] theorem updGroup_hostMem (s : State) (n : Nat) (h : Group → Group) : (updGroup s n h).hostMem = s.hostMem := by unfold updGroup; split <;> rfl
@[simp] theorem updGroup_teams (s : State) (n : Nat) (h : Group → Group) : (updGroup s n h).teams = s.teams := by unfold updGroup; split <;> rfl
@[simp] theorem updGroup_grids (s : State) (n : Nat) (h : Group → Group) : (updGroup s n h).grids = s.grids := by unfold updGroup; split <;> rfl
@[simp] theorem updGroup_tenants (s : State) (n : Nat) (h : Group → Group) : (updGroup s n h).tenants = s.tenants := by unfold updGroup; split <;> rfl
@[simp] theorem updGroup_partitions (s : State) (n : Nat) (h : Group → Group) : (updGroup s n h).partitions = s.partitions := by unfold updGroup; split <;> rfl
@[simp] theorem updGroup_congestion (s : State) (n : Nat) (h : Group → Group) : (updGroup s n h).congestion = s.congestion := by unfold updGroup; split <;> rfl
@[simp] theorem updGroup_coreStart (s : State) (n : Nat) (h : Group → Group) : (updGroup s n h).coreStart = s.coreStart := by unfold updGroup; split <;> rfl
@[simp] theorem updGroup_banks (s : State) (n : Nat) (h : Group → Group) : (updGroup s n h).banks = s.banks := by unfold updGroup; split <;> rfl
@[simp] theorem updGroup_reqs (s : State) (n : Nat) (h : Group → Group) : (updGroup s n h).reqs = s.reqs := by unfold updGroup; split <;> rfl
@[simp] theorem updGroup_owed (s : State) (n : Nat) (h : Group → Group) : (updGroup s n h).owed = s.owed := by unfold updGroup; split <;> rfl
@[simp] theorem updGroup_sends (s : State) (n : Nat) (h : Group → Group) : (updGroup s n h).sends = s.sends := by unfold updGroup; split <;> rfl
@[simp] theorem updGroup_returns (s : State) (n : Nat) (h : Group → Group) : (updGroup s n h).returns = s.returns := by unfold updGroup; split <;> rfl
@[simp] theorem updGroup_keys (s : State) (n : Nat) (h : Group → Group) : (updGroup s n h).keys = s.keys := by unfold updGroup; split <;> rfl
@[simp] theorem updGroup_procMsgs (s : State) (n : Nat) (h : Group → Group) : (updGroup s n h).procMsgs = s.procMsgs := by unfold updGroup; split <;> rfl
@[simp] theorem updGroup_copies (s : State) (n : Nat) (h : Group → Group) : (updGroup s n h).copies = s.copies := by unfold updGroup; split <;> rfl
@[simp] theorem updGroup_arrays (s : State) (n : Nat) (h : Group → Group) : (updGroup s n h).arrays = s.arrays := by unfold updGroup; split <;> rfl
@[simp] theorem updGroup_decoders (s : State) (n : Nat) (h : Group → Group) : (updGroup s n h).decoders = s.decoders := by unfold updGroup; split <;> rfl
@[simp] theorem updGroup_patches (s : State) (n : Nat) (h : Group → Group) : (updGroup s n h).patches = s.patches := by unfold updGroup; split <;> rfl
@[simp] theorem updGroup_rasters (s : State) (n : Nat) (h : Group → Group) : (updGroup s n h).rasters = s.rasters := by unfold updGroup; split <;> rfl
@[simp] theorem updGroup_faults (s : State) (n : Nat) (h : Group → Group) : (updGroup s n h).faults = s.faults := by unfold updGroup; split <;> rfl
@[simp] theorem updGroup_cache (s : State) (n : Nat) (h : Group → Group) : (updGroup s n h).cache = s.cache := by unfold updGroup; split <;> rfl
@[simp] theorem updGroup_xchgs (s : State) (n : Nat) (h : Group → Group) : (updGroup s n h).xchgs = s.xchgs := by unfold updGroup; split <;> rfl
@[simp] theorem updGroup_resends (s : State) (n : Nat) (h : Group → Group) : (updGroup s n h).resends = s.resends := by unfold updGroup; split <;> rfl
@[simp] theorem updGroup_fabric (s : State) (n : Nat) (h : Group → Group) : (updGroup s n h).fabric = s.fabric := by unfold updGroup; split <;> rfl
@[simp] theorem updGroup_links (s : State) (n : Nat) (h : Group → Group) : (updGroup s n h).links = s.links := by unfold updGroup; split <;> rfl
@[simp] theorem updGroup_rx (s : State) (n : Nat) (h : Group → Group) : (updGroup s n h).rx = s.rx := by unfold updGroup; split <;> rfl
@[simp] theorem updGroup_parts (s : State) (n : Nat) (h : Group → Group) : (updGroup s n h).parts = s.parts := by unfold updGroup; split <;> rfl
@[simp] theorem updGroup_remotes (s : State) (n : Nat) (h : Group → Group) : (updGroup s n h).remotes = s.remotes := by unfold updGroup; split <;> rfl
@[simp] theorem updGroup_fetched (s : State) (n : Nat) (h : Group → Group) : (updGroup s n h).fetched = s.fetched := by unfold updGroup; split <;> rfl
@[simp] theorem updGroup_saved (s : State) (n : Nat) (h : Group → Group) : (updGroup s n h).saved = s.saved := by unfold updGroup; split <;> rfl
@[simp] theorem updGroup_images (s : State) (n : Nat) (h : Group → Group) : (updGroup s n h).images = s.images := by unfold updGroup; split <;> rfl
@[simp] theorem updGroup_cxops (s : State) (n : Nat) (h : Group → Group) : (updGroup s n h).cxops = s.cxops := by unfold updGroup; split <;> rfl
@[simp] theorem updGroup_hostReplies (s : State) (n : Nat) (h : Group → Group) : (updGroup s n h).hostReplies = s.hostReplies := by unfold updGroup; split <;> rfl
@[simp] theorem updGroup_rrTenant (s : State) (n : Nat) (h : Group → Group) : (updGroup s n h).rrTenant = s.rrTenant := by unfold updGroup; split <;> rfl
@[simp] theorem updGroup_boot (s : State) (n : Nat) (h : Group → Group) : (updGroup s n h).boot = s.boot := by unfold updGroup; split <;> rfl
@[simp] theorem updGroup_measure (s : State) (n : Nat) (h : Group → Group) : (updGroup s n h).measure = s.measure := by unfold updGroup; split <;> rfl
@[simp] theorem updGroup_firmware (s : State) (n : Nat) (h : Group → Group) : (updGroup s n h).firmware = s.firmware := by unfold updGroup; split <;> rfl
@[simp] theorem updGroup_partDigest (s : State) (n : Nat) (h : Group → Group) : (updGroup s n h).partDigest = s.partDigest := by unfold updGroup; split <;> rfl
@[simp] theorem updGroup_boots (s : State) (n : Nat) (h : Group → Group) : (updGroup s n h).boots = s.boots := by unfold updGroup; split <;> rfl
@[simp] theorem updGroup_revoked (s : State) (n : Nat) (h : Group → Group) : (updGroup s n h).revoked = s.revoked := by unfold updGroup; split <;> rfl
@[simp] theorem updGroup_sram (s : State) (n : Nat) (h : Group → Group) : (updGroup s n h).sram = s.sram := by unfold updGroup; split <;> rfl
@[simp] theorem updGroup_entry (s : State) (n : Nat) (h : Group → Group) : (updGroup s n h).entry = s.entry := by unfold updGroup; split <;> rfl
@[simp] theorem updGroup_reports (s : State) (n : Nat) (h : Group → Group) : (updGroup s n h).reports = s.reports := by unfold updGroup; split <;> rfl
@[simp] theorem updGroup_mailbox (s : State) (n : Nat) (h : Group → Group) : (updGroup s n h).mailbox = s.mailbox := by unfold updGroup; split <;> rfl
@[simp] theorem updGroup_powerLimit (s : State) (n : Nat) (h : Group → Group) : (updGroup s n h).powerLimit = s.powerLimit := by unfold updGroup; split <;> rfl
@[simp] theorem updGroup_clockMHz (s : State) (n : Nat) (h : Group → Group) : (updGroup s n h).clockMHz = s.clockMHz := by unfold updGroup; split <;> rfl
@[simp] theorem updGroup_sampled (s : State) (n : Nat) (h : Group → Group) : (updGroup s n h).sampled = s.sampled := by unfold updGroup; split <;> rfl
@[simp] theorem updGroup_coolSince (s : State) (n : Nat) (h : Group → Group) : (updGroup s n h).coolSince = s.coolSince := by unfold updGroup; split <;> rfl
@[simp] theorem updGroup_powerRead (s : State) (n : Nat) (h : Group → Group) : (updGroup s n h).powerRead = s.powerRead := by unfold updGroup; split <;> rfl
@[simp] theorem updGroup_forkAreas (s : State) (n : Nat) (h : Group → Group) : (updGroup s n h).forkAreas = s.forkAreas := by unfold updGroup; split <;> rfl
@[simp] theorem updGroup_diesInReset (s : State) (n : Nat) (h : Group → Group) : (updGroup s n h).diesInReset = s.diesInReset := by unfold updGroup; split <;> rfl
@[simp] theorem updGroup_ucieUp (s : State) (n : Nat) (h : Group → Group) : (updGroup s n h).ucieUp = s.ucieUp := by unfold updGroup; split <;> rfl
@[simp] theorem updGroup_corrected (s : State) (n : Nat) (h : Group → Group) : (updGroup s n h).corrected = s.corrected := by unfold updGroup; split <;> rfl
@[simp] theorem updGroup_variant (s : State) (n : Nat) (h : Group → Group) : (updGroup s n h).variant = s.variant := by unfold updGroup; split <;> rfl

theorem tfind_updGroup (s : State) (n : Nat) (h : Group → Group) (x : Nat) :
    tfind (updGroup s n h).groups x = if x = n then (tfind s.groups x).map h else tfind s.groups x := by
  unfold updGroup
  by_cases hx : x = n
  · subst x; cases hg : tfind s.groups n <;> simp [hg, tfind_tput]
  · cases hg : tfind s.groups n <;> simp [hx, tfind_tput]

@[simp] theorem updTeam_now (s : State) (n : Nat) (h : Team → Team) : (updTeam s n h).now = s.now := by unfold updTeam; split <;> rfl
@[simp] theorem updTeam_agenda (s : State) (n : Nat) (h : Team → Team) : (updTeam s n h).agenda = s.agenda := by unfold updTeam; split <;> rfl
@[simp] theorem updTeam_focus (s : State) (n : Nat) (h : Team → Team) : (updTeam s n h).focus = s.focus := by unfold updTeam; split <;> rfl
@[simp] theorem updTeam_nextId (s : State) (n : Nat) (h : Team → Team) : (updTeam s n h).nextId = s.nextId := by unfold updTeam; split <;> rfl
@[simp] theorem updTeam_nextSeq (s : State) (n : Nat) (h : Team → Team) : (updTeam s n h).nextSeq = s.nextSeq := by unfold updTeam; split <;> rfl
@[simp] theorem updTeam_draws (s : State) (n : Nat) (h : Team → Team) : (updTeam s n h).draws = s.draws := by unfold updTeam; split <;> rfl
@[simp] theorem updTeam_scratch (s : State) (n : Nat) (h : Team → Team) : (updTeam s n h).scratch = s.scratch := by unfold updTeam; split <;> rfl
@[simp] theorem updTeam_main (s : State) (n : Nat) (h : Team → Team) : (updTeam s n h).main = s.main := by unfold updTeam; split <;> rfl
@[simp] theorem updTeam_hostMem (s : State) (n : Nat) (h : Team → Team) : (updTeam s n h).hostMem = s.hostMem := by unfold updTeam; split <;> rfl
@[simp] theorem updTeam_groups (s : State) (n : Nat) (h : Team → Team) : (updTeam s n h).groups = s.groups := by unfold updTeam; split <;> rfl
@[simp] theorem updTeam_grids (s : State) (n : Nat) (h : Team → Team) : (updTeam s n h).grids = s.grids := by unfold updTeam; split <;> rfl
@[simp] theorem updTeam_tenants (s : State) (n : Nat) (h : Team → Team) : (updTeam s n h).tenants = s.tenants := by unfold updTeam; split <;> rfl
@[simp] theorem updTeam_partitions (s : State) (n : Nat) (h : Team → Team) : (updTeam s n h).partitions = s.partitions := by unfold updTeam; split <;> rfl
@[simp] theorem updTeam_congestion (s : State) (n : Nat) (h : Team → Team) : (updTeam s n h).congestion = s.congestion := by unfold updTeam; split <;> rfl
@[simp] theorem updTeam_coreStart (s : State) (n : Nat) (h : Team → Team) : (updTeam s n h).coreStart = s.coreStart := by unfold updTeam; split <;> rfl
@[simp] theorem updTeam_banks (s : State) (n : Nat) (h : Team → Team) : (updTeam s n h).banks = s.banks := by unfold updTeam; split <;> rfl
@[simp] theorem updTeam_reqs (s : State) (n : Nat) (h : Team → Team) : (updTeam s n h).reqs = s.reqs := by unfold updTeam; split <;> rfl
@[simp] theorem updTeam_owed (s : State) (n : Nat) (h : Team → Team) : (updTeam s n h).owed = s.owed := by unfold updTeam; split <;> rfl
@[simp] theorem updTeam_sends (s : State) (n : Nat) (h : Team → Team) : (updTeam s n h).sends = s.sends := by unfold updTeam; split <;> rfl
@[simp] theorem updTeam_returns (s : State) (n : Nat) (h : Team → Team) : (updTeam s n h).returns = s.returns := by unfold updTeam; split <;> rfl
@[simp] theorem updTeam_keys (s : State) (n : Nat) (h : Team → Team) : (updTeam s n h).keys = s.keys := by unfold updTeam; split <;> rfl
@[simp] theorem updTeam_procMsgs (s : State) (n : Nat) (h : Team → Team) : (updTeam s n h).procMsgs = s.procMsgs := by unfold updTeam; split <;> rfl
@[simp] theorem updTeam_copies (s : State) (n : Nat) (h : Team → Team) : (updTeam s n h).copies = s.copies := by unfold updTeam; split <;> rfl
@[simp] theorem updTeam_arrays (s : State) (n : Nat) (h : Team → Team) : (updTeam s n h).arrays = s.arrays := by unfold updTeam; split <;> rfl
@[simp] theorem updTeam_decoders (s : State) (n : Nat) (h : Team → Team) : (updTeam s n h).decoders = s.decoders := by unfold updTeam; split <;> rfl
@[simp] theorem updTeam_patches (s : State) (n : Nat) (h : Team → Team) : (updTeam s n h).patches = s.patches := by unfold updTeam; split <;> rfl
@[simp] theorem updTeam_rasters (s : State) (n : Nat) (h : Team → Team) : (updTeam s n h).rasters = s.rasters := by unfold updTeam; split <;> rfl
@[simp] theorem updTeam_faults (s : State) (n : Nat) (h : Team → Team) : (updTeam s n h).faults = s.faults := by unfold updTeam; split <;> rfl
@[simp] theorem updTeam_cache (s : State) (n : Nat) (h : Team → Team) : (updTeam s n h).cache = s.cache := by unfold updTeam; split <;> rfl
@[simp] theorem updTeam_xchgs (s : State) (n : Nat) (h : Team → Team) : (updTeam s n h).xchgs = s.xchgs := by unfold updTeam; split <;> rfl
@[simp] theorem updTeam_resends (s : State) (n : Nat) (h : Team → Team) : (updTeam s n h).resends = s.resends := by unfold updTeam; split <;> rfl
@[simp] theorem updTeam_fabric (s : State) (n : Nat) (h : Team → Team) : (updTeam s n h).fabric = s.fabric := by unfold updTeam; split <;> rfl
@[simp] theorem updTeam_links (s : State) (n : Nat) (h : Team → Team) : (updTeam s n h).links = s.links := by unfold updTeam; split <;> rfl
@[simp] theorem updTeam_rx (s : State) (n : Nat) (h : Team → Team) : (updTeam s n h).rx = s.rx := by unfold updTeam; split <;> rfl
@[simp] theorem updTeam_parts (s : State) (n : Nat) (h : Team → Team) : (updTeam s n h).parts = s.parts := by unfold updTeam; split <;> rfl
@[simp] theorem updTeam_remotes (s : State) (n : Nat) (h : Team → Team) : (updTeam s n h).remotes = s.remotes := by unfold updTeam; split <;> rfl
@[simp] theorem updTeam_fetched (s : State) (n : Nat) (h : Team → Team) : (updTeam s n h).fetched = s.fetched := by unfold updTeam; split <;> rfl
@[simp] theorem updTeam_saved (s : State) (n : Nat) (h : Team → Team) : (updTeam s n h).saved = s.saved := by unfold updTeam; split <;> rfl
@[simp] theorem updTeam_images (s : State) (n : Nat) (h : Team → Team) : (updTeam s n h).images = s.images := by unfold updTeam; split <;> rfl
@[simp] theorem updTeam_cxops (s : State) (n : Nat) (h : Team → Team) : (updTeam s n h).cxops = s.cxops := by unfold updTeam; split <;> rfl
@[simp] theorem updTeam_hostReplies (s : State) (n : Nat) (h : Team → Team) : (updTeam s n h).hostReplies = s.hostReplies := by unfold updTeam; split <;> rfl
@[simp] theorem updTeam_rrTenant (s : State) (n : Nat) (h : Team → Team) : (updTeam s n h).rrTenant = s.rrTenant := by unfold updTeam; split <;> rfl
@[simp] theorem updTeam_boot (s : State) (n : Nat) (h : Team → Team) : (updTeam s n h).boot = s.boot := by unfold updTeam; split <;> rfl
@[simp] theorem updTeam_measure (s : State) (n : Nat) (h : Team → Team) : (updTeam s n h).measure = s.measure := by unfold updTeam; split <;> rfl
@[simp] theorem updTeam_firmware (s : State) (n : Nat) (h : Team → Team) : (updTeam s n h).firmware = s.firmware := by unfold updTeam; split <;> rfl
@[simp] theorem updTeam_partDigest (s : State) (n : Nat) (h : Team → Team) : (updTeam s n h).partDigest = s.partDigest := by unfold updTeam; split <;> rfl
@[simp] theorem updTeam_boots (s : State) (n : Nat) (h : Team → Team) : (updTeam s n h).boots = s.boots := by unfold updTeam; split <;> rfl
@[simp] theorem updTeam_revoked (s : State) (n : Nat) (h : Team → Team) : (updTeam s n h).revoked = s.revoked := by unfold updTeam; split <;> rfl
@[simp] theorem updTeam_sram (s : State) (n : Nat) (h : Team → Team) : (updTeam s n h).sram = s.sram := by unfold updTeam; split <;> rfl
@[simp] theorem updTeam_entry (s : State) (n : Nat) (h : Team → Team) : (updTeam s n h).entry = s.entry := by unfold updTeam; split <;> rfl
@[simp] theorem updTeam_reports (s : State) (n : Nat) (h : Team → Team) : (updTeam s n h).reports = s.reports := by unfold updTeam; split <;> rfl
@[simp] theorem updTeam_mailbox (s : State) (n : Nat) (h : Team → Team) : (updTeam s n h).mailbox = s.mailbox := by unfold updTeam; split <;> rfl
@[simp] theorem updTeam_powerLimit (s : State) (n : Nat) (h : Team → Team) : (updTeam s n h).powerLimit = s.powerLimit := by unfold updTeam; split <;> rfl
@[simp] theorem updTeam_clockMHz (s : State) (n : Nat) (h : Team → Team) : (updTeam s n h).clockMHz = s.clockMHz := by unfold updTeam; split <;> rfl
@[simp] theorem updTeam_sampled (s : State) (n : Nat) (h : Team → Team) : (updTeam s n h).sampled = s.sampled := by unfold updTeam; split <;> rfl
@[simp] theorem updTeam_coolSince (s : State) (n : Nat) (h : Team → Team) : (updTeam s n h).coolSince = s.coolSince := by unfold updTeam; split <;> rfl
@[simp] theorem updTeam_powerRead (s : State) (n : Nat) (h : Team → Team) : (updTeam s n h).powerRead = s.powerRead := by unfold updTeam; split <;> rfl
@[simp] theorem updTeam_forkAreas (s : State) (n : Nat) (h : Team → Team) : (updTeam s n h).forkAreas = s.forkAreas := by unfold updTeam; split <;> rfl
@[simp] theorem updTeam_diesInReset (s : State) (n : Nat) (h : Team → Team) : (updTeam s n h).diesInReset = s.diesInReset := by unfold updTeam; split <;> rfl
@[simp] theorem updTeam_ucieUp (s : State) (n : Nat) (h : Team → Team) : (updTeam s n h).ucieUp = s.ucieUp := by unfold updTeam; split <;> rfl
@[simp] theorem updTeam_corrected (s : State) (n : Nat) (h : Team → Team) : (updTeam s n h).corrected = s.corrected := by unfold updTeam; split <;> rfl
@[simp] theorem updTeam_variant (s : State) (n : Nat) (h : Team → Team) : (updTeam s n h).variant = s.variant := by unfold updTeam; split <;> rfl

theorem tfind_updTeam (s : State) (n : Nat) (h : Team → Team) (x : Nat) :
    tfind (updTeam s n h).teams x = if x = n then (tfind s.teams x).map h else tfind s.teams x := by
  unfold updTeam
  by_cases hx : x = n
  · subst x; cases hg : tfind s.teams n <;> simp [hg, tfind_tput]
  · cases hg : tfind s.teams n <;> simp [hx, tfind_tput]

@[simp] theorem updGrid_now (s : State) (n : Nat) (h : Grid → Grid) : (updGrid s n h).now = s.now := by unfold updGrid; split <;> rfl
@[simp] theorem updGrid_agenda (s : State) (n : Nat) (h : Grid → Grid) : (updGrid s n h).agenda = s.agenda := by unfold updGrid; split <;> rfl
@[simp] theorem updGrid_focus (s : State) (n : Nat) (h : Grid → Grid) : (updGrid s n h).focus = s.focus := by unfold updGrid; split <;> rfl
@[simp] theorem updGrid_nextId (s : State) (n : Nat) (h : Grid → Grid) : (updGrid s n h).nextId = s.nextId := by unfold updGrid; split <;> rfl
@[simp] theorem updGrid_nextSeq (s : State) (n : Nat) (h : Grid → Grid) : (updGrid s n h).nextSeq = s.nextSeq := by unfold updGrid; split <;> rfl
@[simp] theorem updGrid_draws (s : State) (n : Nat) (h : Grid → Grid) : (updGrid s n h).draws = s.draws := by unfold updGrid; split <;> rfl
@[simp] theorem updGrid_scratch (s : State) (n : Nat) (h : Grid → Grid) : (updGrid s n h).scratch = s.scratch := by unfold updGrid; split <;> rfl
@[simp] theorem updGrid_main (s : State) (n : Nat) (h : Grid → Grid) : (updGrid s n h).main = s.main := by unfold updGrid; split <;> rfl
@[simp] theorem updGrid_hostMem (s : State) (n : Nat) (h : Grid → Grid) : (updGrid s n h).hostMem = s.hostMem := by unfold updGrid; split <;> rfl
@[simp] theorem updGrid_groups (s : State) (n : Nat) (h : Grid → Grid) : (updGrid s n h).groups = s.groups := by unfold updGrid; split <;> rfl
@[simp] theorem updGrid_teams (s : State) (n : Nat) (h : Grid → Grid) : (updGrid s n h).teams = s.teams := by unfold updGrid; split <;> rfl
@[simp] theorem updGrid_tenants (s : State) (n : Nat) (h : Grid → Grid) : (updGrid s n h).tenants = s.tenants := by unfold updGrid; split <;> rfl
@[simp] theorem updGrid_partitions (s : State) (n : Nat) (h : Grid → Grid) : (updGrid s n h).partitions = s.partitions := by unfold updGrid; split <;> rfl
@[simp] theorem updGrid_congestion (s : State) (n : Nat) (h : Grid → Grid) : (updGrid s n h).congestion = s.congestion := by unfold updGrid; split <;> rfl
@[simp] theorem updGrid_coreStart (s : State) (n : Nat) (h : Grid → Grid) : (updGrid s n h).coreStart = s.coreStart := by unfold updGrid; split <;> rfl
@[simp] theorem updGrid_banks (s : State) (n : Nat) (h : Grid → Grid) : (updGrid s n h).banks = s.banks := by unfold updGrid; split <;> rfl
@[simp] theorem updGrid_reqs (s : State) (n : Nat) (h : Grid → Grid) : (updGrid s n h).reqs = s.reqs := by unfold updGrid; split <;> rfl
@[simp] theorem updGrid_owed (s : State) (n : Nat) (h : Grid → Grid) : (updGrid s n h).owed = s.owed := by unfold updGrid; split <;> rfl
@[simp] theorem updGrid_sends (s : State) (n : Nat) (h : Grid → Grid) : (updGrid s n h).sends = s.sends := by unfold updGrid; split <;> rfl
@[simp] theorem updGrid_returns (s : State) (n : Nat) (h : Grid → Grid) : (updGrid s n h).returns = s.returns := by unfold updGrid; split <;> rfl
@[simp] theorem updGrid_keys (s : State) (n : Nat) (h : Grid → Grid) : (updGrid s n h).keys = s.keys := by unfold updGrid; split <;> rfl
@[simp] theorem updGrid_procMsgs (s : State) (n : Nat) (h : Grid → Grid) : (updGrid s n h).procMsgs = s.procMsgs := by unfold updGrid; split <;> rfl
@[simp] theorem updGrid_copies (s : State) (n : Nat) (h : Grid → Grid) : (updGrid s n h).copies = s.copies := by unfold updGrid; split <;> rfl
@[simp] theorem updGrid_arrays (s : State) (n : Nat) (h : Grid → Grid) : (updGrid s n h).arrays = s.arrays := by unfold updGrid; split <;> rfl
@[simp] theorem updGrid_decoders (s : State) (n : Nat) (h : Grid → Grid) : (updGrid s n h).decoders = s.decoders := by unfold updGrid; split <;> rfl
@[simp] theorem updGrid_patches (s : State) (n : Nat) (h : Grid → Grid) : (updGrid s n h).patches = s.patches := by unfold updGrid; split <;> rfl
@[simp] theorem updGrid_rasters (s : State) (n : Nat) (h : Grid → Grid) : (updGrid s n h).rasters = s.rasters := by unfold updGrid; split <;> rfl
@[simp] theorem updGrid_faults (s : State) (n : Nat) (h : Grid → Grid) : (updGrid s n h).faults = s.faults := by unfold updGrid; split <;> rfl
@[simp] theorem updGrid_cache (s : State) (n : Nat) (h : Grid → Grid) : (updGrid s n h).cache = s.cache := by unfold updGrid; split <;> rfl
@[simp] theorem updGrid_xchgs (s : State) (n : Nat) (h : Grid → Grid) : (updGrid s n h).xchgs = s.xchgs := by unfold updGrid; split <;> rfl
@[simp] theorem updGrid_resends (s : State) (n : Nat) (h : Grid → Grid) : (updGrid s n h).resends = s.resends := by unfold updGrid; split <;> rfl
@[simp] theorem updGrid_fabric (s : State) (n : Nat) (h : Grid → Grid) : (updGrid s n h).fabric = s.fabric := by unfold updGrid; split <;> rfl
@[simp] theorem updGrid_links (s : State) (n : Nat) (h : Grid → Grid) : (updGrid s n h).links = s.links := by unfold updGrid; split <;> rfl
@[simp] theorem updGrid_rx (s : State) (n : Nat) (h : Grid → Grid) : (updGrid s n h).rx = s.rx := by unfold updGrid; split <;> rfl
@[simp] theorem updGrid_parts (s : State) (n : Nat) (h : Grid → Grid) : (updGrid s n h).parts = s.parts := by unfold updGrid; split <;> rfl
@[simp] theorem updGrid_remotes (s : State) (n : Nat) (h : Grid → Grid) : (updGrid s n h).remotes = s.remotes := by unfold updGrid; split <;> rfl
@[simp] theorem updGrid_fetched (s : State) (n : Nat) (h : Grid → Grid) : (updGrid s n h).fetched = s.fetched := by unfold updGrid; split <;> rfl
@[simp] theorem updGrid_saved (s : State) (n : Nat) (h : Grid → Grid) : (updGrid s n h).saved = s.saved := by unfold updGrid; split <;> rfl
@[simp] theorem updGrid_images (s : State) (n : Nat) (h : Grid → Grid) : (updGrid s n h).images = s.images := by unfold updGrid; split <;> rfl
@[simp] theorem updGrid_cxops (s : State) (n : Nat) (h : Grid → Grid) : (updGrid s n h).cxops = s.cxops := by unfold updGrid; split <;> rfl
@[simp] theorem updGrid_hostReplies (s : State) (n : Nat) (h : Grid → Grid) : (updGrid s n h).hostReplies = s.hostReplies := by unfold updGrid; split <;> rfl
@[simp] theorem updGrid_rrTenant (s : State) (n : Nat) (h : Grid → Grid) : (updGrid s n h).rrTenant = s.rrTenant := by unfold updGrid; split <;> rfl
@[simp] theorem updGrid_boot (s : State) (n : Nat) (h : Grid → Grid) : (updGrid s n h).boot = s.boot := by unfold updGrid; split <;> rfl
@[simp] theorem updGrid_measure (s : State) (n : Nat) (h : Grid → Grid) : (updGrid s n h).measure = s.measure := by unfold updGrid; split <;> rfl
@[simp] theorem updGrid_firmware (s : State) (n : Nat) (h : Grid → Grid) : (updGrid s n h).firmware = s.firmware := by unfold updGrid; split <;> rfl
@[simp] theorem updGrid_partDigest (s : State) (n : Nat) (h : Grid → Grid) : (updGrid s n h).partDigest = s.partDigest := by unfold updGrid; split <;> rfl
@[simp] theorem updGrid_boots (s : State) (n : Nat) (h : Grid → Grid) : (updGrid s n h).boots = s.boots := by unfold updGrid; split <;> rfl
@[simp] theorem updGrid_revoked (s : State) (n : Nat) (h : Grid → Grid) : (updGrid s n h).revoked = s.revoked := by unfold updGrid; split <;> rfl
@[simp] theorem updGrid_sram (s : State) (n : Nat) (h : Grid → Grid) : (updGrid s n h).sram = s.sram := by unfold updGrid; split <;> rfl
@[simp] theorem updGrid_entry (s : State) (n : Nat) (h : Grid → Grid) : (updGrid s n h).entry = s.entry := by unfold updGrid; split <;> rfl
@[simp] theorem updGrid_reports (s : State) (n : Nat) (h : Grid → Grid) : (updGrid s n h).reports = s.reports := by unfold updGrid; split <;> rfl
@[simp] theorem updGrid_mailbox (s : State) (n : Nat) (h : Grid → Grid) : (updGrid s n h).mailbox = s.mailbox := by unfold updGrid; split <;> rfl
@[simp] theorem updGrid_powerLimit (s : State) (n : Nat) (h : Grid → Grid) : (updGrid s n h).powerLimit = s.powerLimit := by unfold updGrid; split <;> rfl
@[simp] theorem updGrid_clockMHz (s : State) (n : Nat) (h : Grid → Grid) : (updGrid s n h).clockMHz = s.clockMHz := by unfold updGrid; split <;> rfl
@[simp] theorem updGrid_sampled (s : State) (n : Nat) (h : Grid → Grid) : (updGrid s n h).sampled = s.sampled := by unfold updGrid; split <;> rfl
@[simp] theorem updGrid_coolSince (s : State) (n : Nat) (h : Grid → Grid) : (updGrid s n h).coolSince = s.coolSince := by unfold updGrid; split <;> rfl
@[simp] theorem updGrid_powerRead (s : State) (n : Nat) (h : Grid → Grid) : (updGrid s n h).powerRead = s.powerRead := by unfold updGrid; split <;> rfl
@[simp] theorem updGrid_forkAreas (s : State) (n : Nat) (h : Grid → Grid) : (updGrid s n h).forkAreas = s.forkAreas := by unfold updGrid; split <;> rfl
@[simp] theorem updGrid_diesInReset (s : State) (n : Nat) (h : Grid → Grid) : (updGrid s n h).diesInReset = s.diesInReset := by unfold updGrid; split <;> rfl
@[simp] theorem updGrid_ucieUp (s : State) (n : Nat) (h : Grid → Grid) : (updGrid s n h).ucieUp = s.ucieUp := by unfold updGrid; split <;> rfl
@[simp] theorem updGrid_corrected (s : State) (n : Nat) (h : Grid → Grid) : (updGrid s n h).corrected = s.corrected := by unfold updGrid; split <;> rfl
@[simp] theorem updGrid_variant (s : State) (n : Nat) (h : Grid → Grid) : (updGrid s n h).variant = s.variant := by unfold updGrid; split <;> rfl

theorem tfind_updGrid (s : State) (n : Nat) (h : Grid → Grid) (x : Nat) :
    tfind (updGrid s n h).grids x = if x = n then (tfind s.grids x).map h else tfind s.grids x := by
  unfold updGrid
  by_cases hx : x = n
  · subst x; cases hg : tfind s.grids n <;> simp [hg, tfind_tput]
  · cases hg : tfind s.grids n <;> simp [hx, tfind_tput]

@[simp] theorem updTenant_now (s : State) (n : Nat) (h : Tenant → Tenant) : (updTenant s n h).now = s.now := by unfold updTenant; split <;> rfl
@[simp] theorem updTenant_agenda (s : State) (n : Nat) (h : Tenant → Tenant) : (updTenant s n h).agenda = s.agenda := by unfold updTenant; split <;> rfl
@[simp] theorem updTenant_focus (s : State) (n : Nat) (h : Tenant → Tenant) : (updTenant s n h).focus = s.focus := by unfold updTenant; split <;> rfl
@[simp] theorem updTenant_nextId (s : State) (n : Nat) (h : Tenant → Tenant) : (updTenant s n h).nextId = s.nextId := by unfold updTenant; split <;> rfl
@[simp] theorem updTenant_nextSeq (s : State) (n : Nat) (h : Tenant → Tenant) : (updTenant s n h).nextSeq = s.nextSeq := by unfold updTenant; split <;> rfl
@[simp] theorem updTenant_draws (s : State) (n : Nat) (h : Tenant → Tenant) : (updTenant s n h).draws = s.draws := by unfold updTenant; split <;> rfl
@[simp] theorem updTenant_scratch (s : State) (n : Nat) (h : Tenant → Tenant) : (updTenant s n h).scratch = s.scratch := by unfold updTenant; split <;> rfl
@[simp] theorem updTenant_main (s : State) (n : Nat) (h : Tenant → Tenant) : (updTenant s n h).main = s.main := by unfold updTenant; split <;> rfl
@[simp] theorem updTenant_hostMem (s : State) (n : Nat) (h : Tenant → Tenant) : (updTenant s n h).hostMem = s.hostMem := by unfold updTenant; split <;> rfl
@[simp] theorem updTenant_groups (s : State) (n : Nat) (h : Tenant → Tenant) : (updTenant s n h).groups = s.groups := by unfold updTenant; split <;> rfl
@[simp] theorem updTenant_teams (s : State) (n : Nat) (h : Tenant → Tenant) : (updTenant s n h).teams = s.teams := by unfold updTenant; split <;> rfl
@[simp] theorem updTenant_grids (s : State) (n : Nat) (h : Tenant → Tenant) : (updTenant s n h).grids = s.grids := by unfold updTenant; split <;> rfl
@[simp] theorem updTenant_partitions (s : State) (n : Nat) (h : Tenant → Tenant) : (updTenant s n h).partitions = s.partitions := by unfold updTenant; split <;> rfl
@[simp] theorem updTenant_congestion (s : State) (n : Nat) (h : Tenant → Tenant) : (updTenant s n h).congestion = s.congestion := by unfold updTenant; split <;> rfl
@[simp] theorem updTenant_coreStart (s : State) (n : Nat) (h : Tenant → Tenant) : (updTenant s n h).coreStart = s.coreStart := by unfold updTenant; split <;> rfl
@[simp] theorem updTenant_banks (s : State) (n : Nat) (h : Tenant → Tenant) : (updTenant s n h).banks = s.banks := by unfold updTenant; split <;> rfl
@[simp] theorem updTenant_reqs (s : State) (n : Nat) (h : Tenant → Tenant) : (updTenant s n h).reqs = s.reqs := by unfold updTenant; split <;> rfl
@[simp] theorem updTenant_owed (s : State) (n : Nat) (h : Tenant → Tenant) : (updTenant s n h).owed = s.owed := by unfold updTenant; split <;> rfl
@[simp] theorem updTenant_sends (s : State) (n : Nat) (h : Tenant → Tenant) : (updTenant s n h).sends = s.sends := by unfold updTenant; split <;> rfl
@[simp] theorem updTenant_returns (s : State) (n : Nat) (h : Tenant → Tenant) : (updTenant s n h).returns = s.returns := by unfold updTenant; split <;> rfl
@[simp] theorem updTenant_keys (s : State) (n : Nat) (h : Tenant → Tenant) : (updTenant s n h).keys = s.keys := by unfold updTenant; split <;> rfl
@[simp] theorem updTenant_procMsgs (s : State) (n : Nat) (h : Tenant → Tenant) : (updTenant s n h).procMsgs = s.procMsgs := by unfold updTenant; split <;> rfl
@[simp] theorem updTenant_copies (s : State) (n : Nat) (h : Tenant → Tenant) : (updTenant s n h).copies = s.copies := by unfold updTenant; split <;> rfl
@[simp] theorem updTenant_arrays (s : State) (n : Nat) (h : Tenant → Tenant) : (updTenant s n h).arrays = s.arrays := by unfold updTenant; split <;> rfl
@[simp] theorem updTenant_decoders (s : State) (n : Nat) (h : Tenant → Tenant) : (updTenant s n h).decoders = s.decoders := by unfold updTenant; split <;> rfl
@[simp] theorem updTenant_patches (s : State) (n : Nat) (h : Tenant → Tenant) : (updTenant s n h).patches = s.patches := by unfold updTenant; split <;> rfl
@[simp] theorem updTenant_rasters (s : State) (n : Nat) (h : Tenant → Tenant) : (updTenant s n h).rasters = s.rasters := by unfold updTenant; split <;> rfl
@[simp] theorem updTenant_faults (s : State) (n : Nat) (h : Tenant → Tenant) : (updTenant s n h).faults = s.faults := by unfold updTenant; split <;> rfl
@[simp] theorem updTenant_cache (s : State) (n : Nat) (h : Tenant → Tenant) : (updTenant s n h).cache = s.cache := by unfold updTenant; split <;> rfl
@[simp] theorem updTenant_xchgs (s : State) (n : Nat) (h : Tenant → Tenant) : (updTenant s n h).xchgs = s.xchgs := by unfold updTenant; split <;> rfl
@[simp] theorem updTenant_resends (s : State) (n : Nat) (h : Tenant → Tenant) : (updTenant s n h).resends = s.resends := by unfold updTenant; split <;> rfl
@[simp] theorem updTenant_fabric (s : State) (n : Nat) (h : Tenant → Tenant) : (updTenant s n h).fabric = s.fabric := by unfold updTenant; split <;> rfl
@[simp] theorem updTenant_links (s : State) (n : Nat) (h : Tenant → Tenant) : (updTenant s n h).links = s.links := by unfold updTenant; split <;> rfl
@[simp] theorem updTenant_rx (s : State) (n : Nat) (h : Tenant → Tenant) : (updTenant s n h).rx = s.rx := by unfold updTenant; split <;> rfl
@[simp] theorem updTenant_parts (s : State) (n : Nat) (h : Tenant → Tenant) : (updTenant s n h).parts = s.parts := by unfold updTenant; split <;> rfl
@[simp] theorem updTenant_remotes (s : State) (n : Nat) (h : Tenant → Tenant) : (updTenant s n h).remotes = s.remotes := by unfold updTenant; split <;> rfl
@[simp] theorem updTenant_fetched (s : State) (n : Nat) (h : Tenant → Tenant) : (updTenant s n h).fetched = s.fetched := by unfold updTenant; split <;> rfl
@[simp] theorem updTenant_saved (s : State) (n : Nat) (h : Tenant → Tenant) : (updTenant s n h).saved = s.saved := by unfold updTenant; split <;> rfl
@[simp] theorem updTenant_images (s : State) (n : Nat) (h : Tenant → Tenant) : (updTenant s n h).images = s.images := by unfold updTenant; split <;> rfl
@[simp] theorem updTenant_cxops (s : State) (n : Nat) (h : Tenant → Tenant) : (updTenant s n h).cxops = s.cxops := by unfold updTenant; split <;> rfl
@[simp] theorem updTenant_hostReplies (s : State) (n : Nat) (h : Tenant → Tenant) : (updTenant s n h).hostReplies = s.hostReplies := by unfold updTenant; split <;> rfl
@[simp] theorem updTenant_rrTenant (s : State) (n : Nat) (h : Tenant → Tenant) : (updTenant s n h).rrTenant = s.rrTenant := by unfold updTenant; split <;> rfl
@[simp] theorem updTenant_boot (s : State) (n : Nat) (h : Tenant → Tenant) : (updTenant s n h).boot = s.boot := by unfold updTenant; split <;> rfl
@[simp] theorem updTenant_measure (s : State) (n : Nat) (h : Tenant → Tenant) : (updTenant s n h).measure = s.measure := by unfold updTenant; split <;> rfl
@[simp] theorem updTenant_firmware (s : State) (n : Nat) (h : Tenant → Tenant) : (updTenant s n h).firmware = s.firmware := by unfold updTenant; split <;> rfl
@[simp] theorem updTenant_partDigest (s : State) (n : Nat) (h : Tenant → Tenant) : (updTenant s n h).partDigest = s.partDigest := by unfold updTenant; split <;> rfl
@[simp] theorem updTenant_boots (s : State) (n : Nat) (h : Tenant → Tenant) : (updTenant s n h).boots = s.boots := by unfold updTenant; split <;> rfl
@[simp] theorem updTenant_revoked (s : State) (n : Nat) (h : Tenant → Tenant) : (updTenant s n h).revoked = s.revoked := by unfold updTenant; split <;> rfl
@[simp] theorem updTenant_sram (s : State) (n : Nat) (h : Tenant → Tenant) : (updTenant s n h).sram = s.sram := by unfold updTenant; split <;> rfl
@[simp] theorem updTenant_entry (s : State) (n : Nat) (h : Tenant → Tenant) : (updTenant s n h).entry = s.entry := by unfold updTenant; split <;> rfl
@[simp] theorem updTenant_reports (s : State) (n : Nat) (h : Tenant → Tenant) : (updTenant s n h).reports = s.reports := by unfold updTenant; split <;> rfl
@[simp] theorem updTenant_mailbox (s : State) (n : Nat) (h : Tenant → Tenant) : (updTenant s n h).mailbox = s.mailbox := by unfold updTenant; split <;> rfl
@[simp] theorem updTenant_powerLimit (s : State) (n : Nat) (h : Tenant → Tenant) : (updTenant s n h).powerLimit = s.powerLimit := by unfold updTenant; split <;> rfl
@[simp] theorem updTenant_clockMHz (s : State) (n : Nat) (h : Tenant → Tenant) : (updTenant s n h).clockMHz = s.clockMHz := by unfold updTenant; split <;> rfl
@[simp] theorem updTenant_sampled (s : State) (n : Nat) (h : Tenant → Tenant) : (updTenant s n h).sampled = s.sampled := by unfold updTenant; split <;> rfl
@[simp] theorem updTenant_coolSince (s : State) (n : Nat) (h : Tenant → Tenant) : (updTenant s n h).coolSince = s.coolSince := by unfold updTenant; split <;> rfl
@[simp] theorem updTenant_powerRead (s : State) (n : Nat) (h : Tenant → Tenant) : (updTenant s n h).powerRead = s.powerRead := by unfold updTenant; split <;> rfl
@[simp] theorem updTenant_forkAreas (s : State) (n : Nat) (h : Tenant → Tenant) : (updTenant s n h).forkAreas = s.forkAreas := by unfold updTenant; split <;> rfl
@[simp] theorem updTenant_diesInReset (s : State) (n : Nat) (h : Tenant → Tenant) : (updTenant s n h).diesInReset = s.diesInReset := by unfold updTenant; split <;> rfl
@[simp] theorem updTenant_ucieUp (s : State) (n : Nat) (h : Tenant → Tenant) : (updTenant s n h).ucieUp = s.ucieUp := by unfold updTenant; split <;> rfl
@[simp] theorem updTenant_corrected (s : State) (n : Nat) (h : Tenant → Tenant) : (updTenant s n h).corrected = s.corrected := by unfold updTenant; split <;> rfl
@[simp] theorem updTenant_variant (s : State) (n : Nat) (h : Tenant → Tenant) : (updTenant s n h).variant = s.variant := by unfold updTenant; split <;> rfl

theorem tfind_updTenant (s : State) (n : Nat) (h : Tenant → Tenant) (x : Nat) :
    tfind (updTenant s n h).tenants x = if x = n then (tfind s.tenants x).map h else tfind s.tenants x := by
  unfold updTenant
  by_cases hx : x = n
  · subst x; cases hg : tfind s.tenants n <;> simp [hg, tfind_tput]
  · cases hg : tfind s.tenants n <;> simp [hx, tfind_tput]


/-! ## The state: a free value drawn, an identifier taken, a write to memory -/

@[simp] theorem drawFree_now (s : State) : (drawFree s).2.now = s.now := rfl
@[simp] theorem freshId_now (s : State) : (freshId s).2.now = s.now := rfl
@[simp] theorem bumpSeq_now (s : State) : (bumpSeq s).now = s.now := rfl
@[simp] theorem drawFree_agenda (s : State) : (drawFree s).2.agenda = s.agenda := rfl
@[simp] theorem freshId_agenda (s : State) : (freshId s).2.agenda = s.agenda := rfl
@[simp] theorem bumpSeq_agenda (s : State) : (bumpSeq s).agenda = s.agenda := rfl
@[simp] theorem drawFree_focus (s : State) : (drawFree s).2.focus = s.focus := rfl
@[simp] theorem freshId_focus (s : State) : (freshId s).2.focus = s.focus := rfl
@[simp] theorem bumpSeq_focus (s : State) : (bumpSeq s).focus = s.focus := rfl
@[simp] theorem drawFree_nextId (s : State) : (drawFree s).2.nextId = s.nextId := rfl
@[simp] theorem bumpSeq_nextId (s : State) : (bumpSeq s).nextId = s.nextId := rfl
@[simp] theorem drawFree_nextSeq (s : State) : (drawFree s).2.nextSeq = s.nextSeq := rfl
@[simp] theorem freshId_nextSeq (s : State) : (freshId s).2.nextSeq = s.nextSeq := rfl
@[simp] theorem freshId_draws (s : State) : (freshId s).2.draws = s.draws := rfl
@[simp] theorem bumpSeq_draws (s : State) : (bumpSeq s).draws = s.draws := rfl
@[simp] theorem drawFree_scratch (s : State) : (drawFree s).2.scratch = s.scratch := rfl
@[simp] theorem freshId_scratch (s : State) : (freshId s).2.scratch = s.scratch := rfl
@[simp] theorem bumpSeq_scratch (s : State) : (bumpSeq s).scratch = s.scratch := rfl
@[simp] theorem drawFree_main (s : State) : (drawFree s).2.main = s.main := rfl
@[simp] theorem freshId_main (s : State) : (freshId s).2.main = s.main := rfl
@[simp] theorem bumpSeq_main (s : State) : (bumpSeq s).main = s.main := rfl
@[simp] theorem drawFree_hostMem (s : State) : (drawFree s).2.hostMem = s.hostMem := rfl
@[simp] theorem freshId_hostMem (s : State) : (freshId s).2.hostMem = s.hostMem := rfl
@[simp] theorem bumpSeq_hostMem (s : State) : (bumpSeq s).hostMem = s.hostMem := rfl
@[simp] theorem drawFree_groups (s : State) : (drawFree s).2.groups = s.groups := rfl
@[simp] theorem freshId_groups (s : State) : (freshId s).2.groups = s.groups := rfl
@[simp] theorem bumpSeq_groups (s : State) : (bumpSeq s).groups = s.groups := rfl
@[simp] theorem drawFree_teams (s : State) : (drawFree s).2.teams = s.teams := rfl
@[simp] theorem freshId_teams (s : State) : (freshId s).2.teams = s.teams := rfl
@[simp] theorem bumpSeq_teams (s : State) : (bumpSeq s).teams = s.teams := rfl
@[simp] theorem drawFree_grids (s : State) : (drawFree s).2.grids = s.grids := rfl
@[simp] theorem freshId_grids (s : State) : (freshId s).2.grids = s.grids := rfl
@[simp] theorem bumpSeq_grids (s : State) : (bumpSeq s).grids = s.grids := rfl
@[simp] theorem drawFree_tenants (s : State) : (drawFree s).2.tenants = s.tenants := rfl
@[simp] theorem freshId_tenants (s : State) : (freshId s).2.tenants = s.tenants := rfl
@[simp] theorem bumpSeq_tenants (s : State) : (bumpSeq s).tenants = s.tenants := rfl
@[simp] theorem drawFree_partitions (s : State) : (drawFree s).2.partitions = s.partitions := rfl
@[simp] theorem freshId_partitions (s : State) : (freshId s).2.partitions = s.partitions := rfl
@[simp] theorem bumpSeq_partitions (s : State) : (bumpSeq s).partitions = s.partitions := rfl
@[simp] theorem drawFree_congestion (s : State) : (drawFree s).2.congestion = s.congestion := rfl
@[simp] theorem freshId_congestion (s : State) : (freshId s).2.congestion = s.congestion := rfl
@[simp] theorem bumpSeq_congestion (s : State) : (bumpSeq s).congestion = s.congestion := rfl
@[simp] theorem drawFree_coreStart (s : State) : (drawFree s).2.coreStart = s.coreStart := rfl
@[simp] theorem freshId_coreStart (s : State) : (freshId s).2.coreStart = s.coreStart := rfl
@[simp] theorem bumpSeq_coreStart (s : State) : (bumpSeq s).coreStart = s.coreStart := rfl
@[simp] theorem drawFree_banks (s : State) : (drawFree s).2.banks = s.banks := rfl
@[simp] theorem freshId_banks (s : State) : (freshId s).2.banks = s.banks := rfl
@[simp] theorem bumpSeq_banks (s : State) : (bumpSeq s).banks = s.banks := rfl
@[simp] theorem drawFree_reqs (s : State) : (drawFree s).2.reqs = s.reqs := rfl
@[simp] theorem freshId_reqs (s : State) : (freshId s).2.reqs = s.reqs := rfl
@[simp] theorem bumpSeq_reqs (s : State) : (bumpSeq s).reqs = s.reqs := rfl
@[simp] theorem drawFree_owed (s : State) : (drawFree s).2.owed = s.owed := rfl
@[simp] theorem freshId_owed (s : State) : (freshId s).2.owed = s.owed := rfl
@[simp] theorem bumpSeq_owed (s : State) : (bumpSeq s).owed = s.owed := rfl
@[simp] theorem drawFree_sends (s : State) : (drawFree s).2.sends = s.sends := rfl
@[simp] theorem freshId_sends (s : State) : (freshId s).2.sends = s.sends := rfl
@[simp] theorem bumpSeq_sends (s : State) : (bumpSeq s).sends = s.sends := rfl
@[simp] theorem drawFree_returns (s : State) : (drawFree s).2.returns = s.returns := rfl
@[simp] theorem freshId_returns (s : State) : (freshId s).2.returns = s.returns := rfl
@[simp] theorem bumpSeq_returns (s : State) : (bumpSeq s).returns = s.returns := rfl
@[simp] theorem drawFree_keys (s : State) : (drawFree s).2.keys = s.keys := rfl
@[simp] theorem freshId_keys (s : State) : (freshId s).2.keys = s.keys := rfl
@[simp] theorem bumpSeq_keys (s : State) : (bumpSeq s).keys = s.keys := rfl
@[simp] theorem drawFree_procMsgs (s : State) : (drawFree s).2.procMsgs = s.procMsgs := rfl
@[simp] theorem freshId_procMsgs (s : State) : (freshId s).2.procMsgs = s.procMsgs := rfl
@[simp] theorem bumpSeq_procMsgs (s : State) : (bumpSeq s).procMsgs = s.procMsgs := rfl
@[simp] theorem drawFree_copies (s : State) : (drawFree s).2.copies = s.copies := rfl
@[simp] theorem freshId_copies (s : State) : (freshId s).2.copies = s.copies := rfl
@[simp] theorem bumpSeq_copies (s : State) : (bumpSeq s).copies = s.copies := rfl
@[simp] theorem drawFree_arrays (s : State) : (drawFree s).2.arrays = s.arrays := rfl
@[simp] theorem freshId_arrays (s : State) : (freshId s).2.arrays = s.arrays := rfl
@[simp] theorem bumpSeq_arrays (s : State) : (bumpSeq s).arrays = s.arrays := rfl
@[simp] theorem drawFree_decoders (s : State) : (drawFree s).2.decoders = s.decoders := rfl
@[simp] theorem freshId_decoders (s : State) : (freshId s).2.decoders = s.decoders := rfl
@[simp] theorem bumpSeq_decoders (s : State) : (bumpSeq s).decoders = s.decoders := rfl
@[simp] theorem drawFree_patches (s : State) : (drawFree s).2.patches = s.patches := rfl
@[simp] theorem freshId_patches (s : State) : (freshId s).2.patches = s.patches := rfl
@[simp] theorem bumpSeq_patches (s : State) : (bumpSeq s).patches = s.patches := rfl
@[simp] theorem drawFree_rasters (s : State) : (drawFree s).2.rasters = s.rasters := rfl
@[simp] theorem freshId_rasters (s : State) : (freshId s).2.rasters = s.rasters := rfl
@[simp] theorem bumpSeq_rasters (s : State) : (bumpSeq s).rasters = s.rasters := rfl
@[simp] theorem drawFree_faults (s : State) : (drawFree s).2.faults = s.faults := rfl
@[simp] theorem freshId_faults (s : State) : (freshId s).2.faults = s.faults := rfl
@[simp] theorem bumpSeq_faults (s : State) : (bumpSeq s).faults = s.faults := rfl
@[simp] theorem drawFree_cache (s : State) : (drawFree s).2.cache = s.cache := rfl
@[simp] theorem freshId_cache (s : State) : (freshId s).2.cache = s.cache := rfl
@[simp] theorem bumpSeq_cache (s : State) : (bumpSeq s).cache = s.cache := rfl
@[simp] theorem drawFree_xchgs (s : State) : (drawFree s).2.xchgs = s.xchgs := rfl
@[simp] theorem freshId_xchgs (s : State) : (freshId s).2.xchgs = s.xchgs := rfl
@[simp] theorem bumpSeq_xchgs (s : State) : (bumpSeq s).xchgs = s.xchgs := rfl
@[simp] theorem drawFree_resends (s : State) : (drawFree s).2.resends = s.resends := rfl
@[simp] theorem freshId_resends (s : State) : (freshId s).2.resends = s.resends := rfl
@[simp] theorem bumpSeq_resends (s : State) : (bumpSeq s).resends = s.resends := rfl
@[simp] theorem drawFree_fabric (s : State) : (drawFree s).2.fabric = s.fabric := rfl
@[simp] theorem freshId_fabric (s : State) : (freshId s).2.fabric = s.fabric := rfl
@[simp] theorem bumpSeq_fabric (s : State) : (bumpSeq s).fabric = s.fabric := rfl
@[simp] theorem drawFree_links (s : State) : (drawFree s).2.links = s.links := rfl
@[simp] theorem freshId_links (s : State) : (freshId s).2.links = s.links := rfl
@[simp] theorem bumpSeq_links (s : State) : (bumpSeq s).links = s.links := rfl
@[simp] theorem drawFree_rx (s : State) : (drawFree s).2.rx = s.rx := rfl
@[simp] theorem freshId_rx (s : State) : (freshId s).2.rx = s.rx := rfl
@[simp] theorem bumpSeq_rx (s : State) : (bumpSeq s).rx = s.rx := rfl
@[simp] theorem drawFree_parts (s : State) : (drawFree s).2.parts = s.parts := rfl
@[simp] theorem freshId_parts (s : State) : (freshId s).2.parts = s.parts := rfl
@[simp] theorem bumpSeq_parts (s : State) : (bumpSeq s).parts = s.parts := rfl
@[simp] theorem drawFree_remotes (s : State) : (drawFree s).2.remotes = s.remotes := rfl
@[simp] theorem freshId_remotes (s : State) : (freshId s).2.remotes = s.remotes := rfl
@[simp] theorem bumpSeq_remotes (s : State) : (bumpSeq s).remotes = s.remotes := rfl
@[simp] theorem drawFree_fetched (s : State) : (drawFree s).2.fetched = s.fetched := rfl
@[simp] theorem freshId_fetched (s : State) : (freshId s).2.fetched = s.fetched := rfl
@[simp] theorem bumpSeq_fetched (s : State) : (bumpSeq s).fetched = s.fetched := rfl
@[simp] theorem drawFree_saved (s : State) : (drawFree s).2.saved = s.saved := rfl
@[simp] theorem freshId_saved (s : State) : (freshId s).2.saved = s.saved := rfl
@[simp] theorem bumpSeq_saved (s : State) : (bumpSeq s).saved = s.saved := rfl
@[simp] theorem drawFree_images (s : State) : (drawFree s).2.images = s.images := rfl
@[simp] theorem freshId_images (s : State) : (freshId s).2.images = s.images := rfl
@[simp] theorem bumpSeq_images (s : State) : (bumpSeq s).images = s.images := rfl
@[simp] theorem drawFree_cxops (s : State) : (drawFree s).2.cxops = s.cxops := rfl
@[simp] theorem freshId_cxops (s : State) : (freshId s).2.cxops = s.cxops := rfl
@[simp] theorem bumpSeq_cxops (s : State) : (bumpSeq s).cxops = s.cxops := rfl
@[simp] theorem drawFree_hostReplies (s : State) : (drawFree s).2.hostReplies = s.hostReplies := rfl
@[simp] theorem freshId_hostReplies (s : State) : (freshId s).2.hostReplies = s.hostReplies := rfl
@[simp] theorem bumpSeq_hostReplies (s : State) : (bumpSeq s).hostReplies = s.hostReplies := rfl
@[simp] theorem drawFree_rrTenant (s : State) : (drawFree s).2.rrTenant = s.rrTenant := rfl
@[simp] theorem freshId_rrTenant (s : State) : (freshId s).2.rrTenant = s.rrTenant := rfl
@[simp] theorem bumpSeq_rrTenant (s : State) : (bumpSeq s).rrTenant = s.rrTenant := rfl
@[simp] theorem drawFree_boot (s : State) : (drawFree s).2.boot = s.boot := rfl
@[simp] theorem freshId_boot (s : State) : (freshId s).2.boot = s.boot := rfl
@[simp] theorem bumpSeq_boot (s : State) : (bumpSeq s).boot = s.boot := rfl
@[simp] theorem drawFree_measure (s : State) : (drawFree s).2.measure = s.measure := rfl
@[simp] theorem freshId_measure (s : State) : (freshId s).2.measure = s.measure := rfl
@[simp] theorem bumpSeq_measure (s : State) : (bumpSeq s).measure = s.measure := rfl
@[simp] theorem drawFree_firmware (s : State) : (drawFree s).2.firmware = s.firmware := rfl
@[simp] theorem freshId_firmware (s : State) : (freshId s).2.firmware = s.firmware := rfl
@[simp] theorem bumpSeq_firmware (s : State) : (bumpSeq s).firmware = s.firmware := rfl
@[simp] theorem drawFree_partDigest (s : State) : (drawFree s).2.partDigest = s.partDigest := rfl
@[simp] theorem freshId_partDigest (s : State) : (freshId s).2.partDigest = s.partDigest := rfl
@[simp] theorem bumpSeq_partDigest (s : State) : (bumpSeq s).partDigest = s.partDigest := rfl
@[simp] theorem drawFree_boots (s : State) : (drawFree s).2.boots = s.boots := rfl
@[simp] theorem freshId_boots (s : State) : (freshId s).2.boots = s.boots := rfl
@[simp] theorem bumpSeq_boots (s : State) : (bumpSeq s).boots = s.boots := rfl
@[simp] theorem drawFree_revoked (s : State) : (drawFree s).2.revoked = s.revoked := rfl
@[simp] theorem freshId_revoked (s : State) : (freshId s).2.revoked = s.revoked := rfl
@[simp] theorem bumpSeq_revoked (s : State) : (bumpSeq s).revoked = s.revoked := rfl
@[simp] theorem drawFree_sram (s : State) : (drawFree s).2.sram = s.sram := rfl
@[simp] theorem freshId_sram (s : State) : (freshId s).2.sram = s.sram := rfl
@[simp] theorem bumpSeq_sram (s : State) : (bumpSeq s).sram = s.sram := rfl
@[simp] theorem drawFree_entry (s : State) : (drawFree s).2.entry = s.entry := rfl
@[simp] theorem freshId_entry (s : State) : (freshId s).2.entry = s.entry := rfl
@[simp] theorem bumpSeq_entry (s : State) : (bumpSeq s).entry = s.entry := rfl
@[simp] theorem drawFree_reports (s : State) : (drawFree s).2.reports = s.reports := rfl
@[simp] theorem freshId_reports (s : State) : (freshId s).2.reports = s.reports := rfl
@[simp] theorem bumpSeq_reports (s : State) : (bumpSeq s).reports = s.reports := rfl
@[simp] theorem drawFree_mailbox (s : State) : (drawFree s).2.mailbox = s.mailbox := rfl
@[simp] theorem freshId_mailbox (s : State) : (freshId s).2.mailbox = s.mailbox := rfl
@[simp] theorem bumpSeq_mailbox (s : State) : (bumpSeq s).mailbox = s.mailbox := rfl
@[simp] theorem drawFree_powerLimit (s : State) : (drawFree s).2.powerLimit = s.powerLimit := rfl
@[simp] theorem freshId_powerLimit (s : State) : (freshId s).2.powerLimit = s.powerLimit := rfl
@[simp] theorem bumpSeq_powerLimit (s : State) : (bumpSeq s).powerLimit = s.powerLimit := rfl
@[simp] theorem drawFree_clockMHz (s : State) : (drawFree s).2.clockMHz = s.clockMHz := rfl
@[simp] theorem freshId_clockMHz (s : State) : (freshId s).2.clockMHz = s.clockMHz := rfl
@[simp] theorem bumpSeq_clockMHz (s : State) : (bumpSeq s).clockMHz = s.clockMHz := rfl
@[simp] theorem drawFree_sampled (s : State) : (drawFree s).2.sampled = s.sampled := rfl
@[simp] theorem freshId_sampled (s : State) : (freshId s).2.sampled = s.sampled := rfl
@[simp] theorem bumpSeq_sampled (s : State) : (bumpSeq s).sampled = s.sampled := rfl
@[simp] theorem drawFree_coolSince (s : State) : (drawFree s).2.coolSince = s.coolSince := rfl
@[simp] theorem drawFree_powerRead (s : State) : (drawFree s).2.powerRead = s.powerRead := rfl
@[simp] theorem drawFree_forkAreas (s : State) : (drawFree s).2.forkAreas = s.forkAreas := rfl
@[simp] theorem freshId_coolSince (s : State) : (freshId s).2.coolSince = s.coolSince := rfl
@[simp] theorem freshId_powerRead (s : State) : (freshId s).2.powerRead = s.powerRead := rfl
@[simp] theorem freshId_forkAreas (s : State) : (freshId s).2.forkAreas = s.forkAreas := rfl
@[simp] theorem bumpSeq_coolSince (s : State) : (bumpSeq s).coolSince = s.coolSince := rfl
@[simp] theorem bumpSeq_powerRead (s : State) : (bumpSeq s).powerRead = s.powerRead := rfl
@[simp] theorem bumpSeq_forkAreas (s : State) : (bumpSeq s).forkAreas = s.forkAreas := rfl
@[simp] theorem drawFree_diesInReset (s : State) : (drawFree s).2.diesInReset = s.diesInReset := rfl
@[simp] theorem freshId_diesInReset (s : State) : (freshId s).2.diesInReset = s.diesInReset := rfl
@[simp] theorem bumpSeq_diesInReset (s : State) : (bumpSeq s).diesInReset = s.diesInReset := rfl
@[simp] theorem drawFree_ucieUp (s : State) : (drawFree s).2.ucieUp = s.ucieUp := rfl
@[simp] theorem freshId_ucieUp (s : State) : (freshId s).2.ucieUp = s.ucieUp := rfl
@[simp] theorem bumpSeq_ucieUp (s : State) : (bumpSeq s).ucieUp = s.ucieUp := rfl
@[simp] theorem drawFree_corrected (s : State) : (drawFree s).2.corrected = s.corrected := rfl
@[simp] theorem freshId_corrected (s : State) : (freshId s).2.corrected = s.corrected := rfl
@[simp] theorem bumpSeq_corrected (s : State) : (bumpSeq s).corrected = s.corrected := rfl
@[simp] theorem drawFree_variant (s : State) : (drawFree s).2.variant = s.variant := rfl
@[simp] theorem freshId_variant (s : State) : (freshId s).2.variant = s.variant := rfl
@[simp] theorem bumpSeq_variant (s : State) : (bumpSeq s).variant = s.variant := rfl
@[simp] theorem bumpSeq_nextSeq (s : State) : (bumpSeq s).nextSeq = s.nextSeq + 1 := rfl
@[simp] theorem writeSpace_now (s : State) (sp : Space) (a n x : Nat) : (writeSpace s sp a n x).now = s.now := by cases sp <;> simp [writeSpace]
@[simp] theorem countTrap_now (s : State) (tn c : Nat) : (countTrap s tn c).now = s.now := by simp [countTrap]
@[simp] theorem writeSpace_agenda (s : State) (sp : Space) (a n x : Nat) : (writeSpace s sp a n x).agenda = s.agenda := by cases sp <;> simp [writeSpace]
@[simp] theorem countTrap_agenda (s : State) (tn c : Nat) : (countTrap s tn c).agenda = s.agenda := by simp [countTrap]
@[simp] theorem writeSpace_focus (s : State) (sp : Space) (a n x : Nat) : (writeSpace s sp a n x).focus = s.focus := by cases sp <;> simp [writeSpace]
@[simp] theorem countTrap_focus (s : State) (tn c : Nat) : (countTrap s tn c).focus = s.focus := by simp [countTrap]
@[simp] theorem writeSpace_nextId (s : State) (sp : Space) (a n x : Nat) : (writeSpace s sp a n x).nextId = s.nextId := by cases sp <;> simp [writeSpace]
@[simp] theorem countTrap_nextId (s : State) (tn c : Nat) : (countTrap s tn c).nextId = s.nextId := by simp [countTrap]
@[simp] theorem writeSpace_nextSeq (s : State) (sp : Space) (a n x : Nat) : (writeSpace s sp a n x).nextSeq = s.nextSeq := by cases sp <;> simp [writeSpace]
@[simp] theorem countTrap_nextSeq (s : State) (tn c : Nat) : (countTrap s tn c).nextSeq = s.nextSeq := by simp [countTrap]
@[simp] theorem writeSpace_draws (s : State) (sp : Space) (a n x : Nat) : (writeSpace s sp a n x).draws = s.draws := by cases sp <;> simp [writeSpace]
@[simp] theorem countTrap_draws (s : State) (tn c : Nat) : (countTrap s tn c).draws = s.draws := by simp [countTrap]
@[simp] theorem countTrap_scratch (s : State) (tn c : Nat) : (countTrap s tn c).scratch = s.scratch := by simp [countTrap]
@[simp] theorem countTrap_main (s : State) (tn c : Nat) : (countTrap s tn c).main = s.main := by simp [countTrap]
@[simp] theorem countTrap_hostMem (s : State) (tn c : Nat) : (countTrap s tn c).hostMem = s.hostMem := by simp [countTrap]
@[simp] theorem writeSpace_groups (s : State) (sp : Space) (a n x : Nat) : (writeSpace s sp a n x).groups = s.groups := by cases sp <;> simp [writeSpace]
@[simp] theorem countTrap_groups (s : State) (tn c : Nat) : (countTrap s tn c).groups = s.groups := by simp [countTrap]
@[simp] theorem countTrap_teams (s : State) (tn c : Nat) : (countTrap s tn c).teams = s.teams := by simp [countTrap]
@[simp] theorem writeSpace_grids (s : State) (sp : Space) (a n x : Nat) : (writeSpace s sp a n x).grids = s.grids := by cases sp <;> simp [writeSpace]
@[simp] theorem countTrap_grids (s : State) (tn c : Nat) : (countTrap s tn c).grids = s.grids := by simp [countTrap]
@[simp] theorem writeSpace_tenants (s : State) (sp : Space) (a n x : Nat) : (writeSpace s sp a n x).tenants = s.tenants := by cases sp <;> simp [writeSpace]
@[simp] theorem writeSpace_partitions (s : State) (sp : Space) (a n x : Nat) : (writeSpace s sp a n x).partitions = s.partitions := by cases sp <;> simp [writeSpace]
@[simp] theorem countTrap_partitions (s : State) (tn c : Nat) : (countTrap s tn c).partitions = s.partitions := by simp [countTrap]
@[simp] theorem writeSpace_congestion (s : State) (sp : Space) (a n x : Nat) : (writeSpace s sp a n x).congestion = s.congestion := by cases sp <;> simp [writeSpace]
@[simp] theorem countTrap_congestion (s : State) (tn c : Nat) : (countTrap s tn c).congestion = s.congestion := by simp [countTrap]
@[simp] theorem writeSpace_coreStart (s : State) (sp : Space) (a n x : Nat) : (writeSpace s sp a n x).coreStart = s.coreStart := by cases sp <;> simp [writeSpace]
@[simp] theorem countTrap_coreStart (s : State) (tn c : Nat) : (countTrap s tn c).coreStart = s.coreStart := by simp [countTrap]
@[simp] theorem writeSpace_banks (s : State) (sp : Space) (a n x : Nat) : (writeSpace s sp a n x).banks = s.banks := by cases sp <;> simp [writeSpace]
@[simp] theorem countTrap_banks (s : State) (tn c : Nat) : (countTrap s tn c).banks = s.banks := by simp [countTrap]
@[simp] theorem writeSpace_reqs (s : State) (sp : Space) (a n x : Nat) : (writeSpace s sp a n x).reqs = s.reqs := by cases sp <;> simp [writeSpace]
@[simp] theorem countTrap_reqs (s : State) (tn c : Nat) : (countTrap s tn c).reqs = s.reqs := by simp [countTrap]
@[simp] theorem writeSpace_owed (s : State) (sp : Space) (a n x : Nat) : (writeSpace s sp a n x).owed = s.owed := by cases sp <;> simp [writeSpace]
@[simp] theorem countTrap_owed (s : State) (tn c : Nat) : (countTrap s tn c).owed = s.owed := by simp [countTrap]
@[simp] theorem writeSpace_sends (s : State) (sp : Space) (a n x : Nat) : (writeSpace s sp a n x).sends = s.sends := by cases sp <;> simp [writeSpace]
@[simp] theorem countTrap_sends (s : State) (tn c : Nat) : (countTrap s tn c).sends = s.sends := by simp [countTrap]
@[simp] theorem writeSpace_returns (s : State) (sp : Space) (a n x : Nat) : (writeSpace s sp a n x).returns = s.returns := by cases sp <;> simp [writeSpace]
@[simp] theorem countTrap_returns (s : State) (tn c : Nat) : (countTrap s tn c).returns = s.returns := by simp [countTrap]
@[simp] theorem writeSpace_keys (s : State) (sp : Space) (a n x : Nat) : (writeSpace s sp a n x).keys = s.keys := by cases sp <;> simp [writeSpace]
@[simp] theorem countTrap_keys (s : State) (tn c : Nat) : (countTrap s tn c).keys = s.keys := by simp [countTrap]
@[simp] theorem writeSpace_procMsgs (s : State) (sp : Space) (a n x : Nat) : (writeSpace s sp a n x).procMsgs = s.procMsgs := by cases sp <;> simp [writeSpace]
@[simp] theorem countTrap_procMsgs (s : State) (tn c : Nat) : (countTrap s tn c).procMsgs = s.procMsgs := by simp [countTrap]
@[simp] theorem writeSpace_copies (s : State) (sp : Space) (a n x : Nat) : (writeSpace s sp a n x).copies = s.copies := by cases sp <;> simp [writeSpace]
@[simp] theorem countTrap_copies (s : State) (tn c : Nat) : (countTrap s tn c).copies = s.copies := by simp [countTrap]
@[simp] theorem writeSpace_arrays (s : State) (sp : Space) (a n x : Nat) : (writeSpace s sp a n x).arrays = s.arrays := by cases sp <;> simp [writeSpace]
@[simp] theorem countTrap_arrays (s : State) (tn c : Nat) : (countTrap s tn c).arrays = s.arrays := by simp [countTrap]
@[simp] theorem writeSpace_decoders (s : State) (sp : Space) (a n x : Nat) : (writeSpace s sp a n x).decoders = s.decoders := by cases sp <;> simp [writeSpace]
@[simp] theorem countTrap_decoders (s : State) (tn c : Nat) : (countTrap s tn c).decoders = s.decoders := by simp [countTrap]
@[simp] theorem writeSpace_patches (s : State) (sp : Space) (a n x : Nat) : (writeSpace s sp a n x).patches = s.patches := by cases sp <;> simp [writeSpace]
@[simp] theorem countTrap_patches (s : State) (tn c : Nat) : (countTrap s tn c).patches = s.patches := by simp [countTrap]
@[simp] theorem writeSpace_rasters (s : State) (sp : Space) (a n x : Nat) : (writeSpace s sp a n x).rasters = s.rasters := by cases sp <;> simp [writeSpace]
@[simp] theorem countTrap_rasters (s : State) (tn c : Nat) : (countTrap s tn c).rasters = s.rasters := by simp [countTrap]
@[simp] theorem writeSpace_faults (s : State) (sp : Space) (a n x : Nat) : (writeSpace s sp a n x).faults = s.faults := by cases sp <;> simp [writeSpace]
@[simp] theorem countTrap_faults (s : State) (tn c : Nat) : (countTrap s tn c).faults = s.faults := by simp [countTrap]
@[simp] theorem writeSpace_cache (s : State) (sp : Space) (a n x : Nat) : (writeSpace s sp a n x).cache = s.cache := by cases sp <;> simp [writeSpace]
@[simp] theorem countTrap_cache (s : State) (tn c : Nat) : (countTrap s tn c).cache = s.cache := by simp [countTrap]
@[simp] theorem writeSpace_xchgs (s : State) (sp : Space) (a n x : Nat) : (writeSpace s sp a n x).xchgs = s.xchgs := by cases sp <;> simp [writeSpace]
@[simp] theorem countTrap_xchgs (s : State) (tn c : Nat) : (countTrap s tn c).xchgs = s.xchgs := by simp [countTrap]
@[simp] theorem writeSpace_resends (s : State) (sp : Space) (a n x : Nat) : (writeSpace s sp a n x).resends = s.resends := by cases sp <;> simp [writeSpace]
@[simp] theorem countTrap_resends (s : State) (tn c : Nat) : (countTrap s tn c).resends = s.resends := by simp [countTrap]
@[simp] theorem writeSpace_fabric (s : State) (sp : Space) (a n x : Nat) : (writeSpace s sp a n x).fabric = s.fabric := by cases sp <;> simp [writeSpace]
@[simp] theorem countTrap_fabric (s : State) (tn c : Nat) : (countTrap s tn c).fabric = s.fabric := by simp [countTrap]
@[simp] theorem writeSpace_links (s : State) (sp : Space) (a n x : Nat) : (writeSpace s sp a n x).links = s.links := by cases sp <;> simp [writeSpace]
@[simp] theorem countTrap_links (s : State) (tn c : Nat) : (countTrap s tn c).links = s.links := by simp [countTrap]
@[simp] theorem writeSpace_rx (s : State) (sp : Space) (a n x : Nat) : (writeSpace s sp a n x).rx = s.rx := by cases sp <;> simp [writeSpace]
@[simp] theorem countTrap_rx (s : State) (tn c : Nat) : (countTrap s tn c).rx = s.rx := by simp [countTrap]
@[simp] theorem writeSpace_parts (s : State) (sp : Space) (a n x : Nat) : (writeSpace s sp a n x).parts = s.parts := by cases sp <;> simp [writeSpace]
@[simp] theorem countTrap_parts (s : State) (tn c : Nat) : (countTrap s tn c).parts = s.parts := by simp [countTrap]
@[simp] theorem writeSpace_remotes (s : State) (sp : Space) (a n x : Nat) : (writeSpace s sp a n x).remotes = s.remotes := by cases sp <;> simp [writeSpace]
@[simp] theorem countTrap_remotes (s : State) (tn c : Nat) : (countTrap s tn c).remotes = s.remotes := by simp [countTrap]
@[simp] theorem writeSpace_fetched (s : State) (sp : Space) (a n x : Nat) : (writeSpace s sp a n x).fetched = s.fetched := by cases sp <;> simp [writeSpace]
@[simp] theorem countTrap_fetched (s : State) (tn c : Nat) : (countTrap s tn c).fetched = s.fetched := by simp [countTrap]
@[simp] theorem writeSpace_saved (s : State) (sp : Space) (a n x : Nat) : (writeSpace s sp a n x).saved = s.saved := by cases sp <;> simp [writeSpace]
@[simp] theorem countTrap_saved (s : State) (tn c : Nat) : (countTrap s tn c).saved = s.saved := by simp [countTrap]
@[simp] theorem writeSpace_images (s : State) (sp : Space) (a n x : Nat) : (writeSpace s sp a n x).images = s.images := by cases sp <;> simp [writeSpace]
@[simp] theorem countTrap_images (s : State) (tn c : Nat) : (countTrap s tn c).images = s.images := by simp [countTrap]
@[simp] theorem writeSpace_cxops (s : State) (sp : Space) (a n x : Nat) : (writeSpace s sp a n x).cxops = s.cxops := by cases sp <;> simp [writeSpace]
@[simp] theorem countTrap_cxops (s : State) (tn c : Nat) : (countTrap s tn c).cxops = s.cxops := by simp [countTrap]
@[simp] theorem writeSpace_hostReplies (s : State) (sp : Space) (a n x : Nat) : (writeSpace s sp a n x).hostReplies = s.hostReplies := by cases sp <;> simp [writeSpace]
@[simp] theorem countTrap_hostReplies (s : State) (tn c : Nat) : (countTrap s tn c).hostReplies = s.hostReplies := by simp [countTrap]
@[simp] theorem writeSpace_rrTenant (s : State) (sp : Space) (a n x : Nat) : (writeSpace s sp a n x).rrTenant = s.rrTenant := by cases sp <;> simp [writeSpace]
@[simp] theorem countTrap_rrTenant (s : State) (tn c : Nat) : (countTrap s tn c).rrTenant = s.rrTenant := by simp [countTrap]
@[simp] theorem writeSpace_boot (s : State) (sp : Space) (a n x : Nat) : (writeSpace s sp a n x).boot = s.boot := by cases sp <;> simp [writeSpace]
@[simp] theorem countTrap_boot (s : State) (tn c : Nat) : (countTrap s tn c).boot = s.boot := by simp [countTrap]
@[simp] theorem writeSpace_measure (s : State) (sp : Space) (a n x : Nat) : (writeSpace s sp a n x).measure = s.measure := by cases sp <;> simp [writeSpace]
@[simp] theorem countTrap_measure (s : State) (tn c : Nat) : (countTrap s tn c).measure = s.measure := by simp [countTrap]
@[simp] theorem writeSpace_firmware (s : State) (sp : Space) (a n x : Nat) : (writeSpace s sp a n x).firmware = s.firmware := by cases sp <;> simp [writeSpace]
@[simp] theorem countTrap_firmware (s : State) (tn c : Nat) : (countTrap s tn c).firmware = s.firmware := by simp [countTrap]
@[simp] theorem writeSpace_partDigest (s : State) (sp : Space) (a n x : Nat) : (writeSpace s sp a n x).partDigest = s.partDigest := by cases sp <;> simp [writeSpace]
@[simp] theorem countTrap_partDigest (s : State) (tn c : Nat) : (countTrap s tn c).partDigest = s.partDigest := by simp [countTrap]
@[simp] theorem writeSpace_boots (s : State) (sp : Space) (a n x : Nat) : (writeSpace s sp a n x).boots = s.boots := by cases sp <;> simp [writeSpace]
@[simp] theorem countTrap_boots (s : State) (tn c : Nat) : (countTrap s tn c).boots = s.boots := by simp [countTrap]
@[simp] theorem writeSpace_revoked (s : State) (sp : Space) (a n x : Nat) : (writeSpace s sp a n x).revoked = s.revoked := by cases sp <;> simp [writeSpace]
@[simp] theorem countTrap_revoked (s : State) (tn c : Nat) : (countTrap s tn c).revoked = s.revoked := by simp [countTrap]
@[simp] theorem writeSpace_sram (s : State) (sp : Space) (a n x : Nat) : (writeSpace s sp a n x).sram = s.sram := by cases sp <;> simp [writeSpace]
@[simp] theorem countTrap_sram (s : State) (tn c : Nat) : (countTrap s tn c).sram = s.sram := by simp [countTrap]
@[simp] theorem writeSpace_entry (s : State) (sp : Space) (a n x : Nat) : (writeSpace s sp a n x).entry = s.entry := by cases sp <;> simp [writeSpace]
@[simp] theorem countTrap_entry (s : State) (tn c : Nat) : (countTrap s tn c).entry = s.entry := by simp [countTrap]
@[simp] theorem writeSpace_reports (s : State) (sp : Space) (a n x : Nat) : (writeSpace s sp a n x).reports = s.reports := by cases sp <;> simp [writeSpace]
@[simp] theorem countTrap_reports (s : State) (tn c : Nat) : (countTrap s tn c).reports = s.reports := by simp [countTrap]
@[simp] theorem writeSpace_mailbox (s : State) (sp : Space) (a n x : Nat) : (writeSpace s sp a n x).mailbox = s.mailbox := by cases sp <;> simp [writeSpace]
@[simp] theorem countTrap_mailbox (s : State) (tn c : Nat) : (countTrap s tn c).mailbox = s.mailbox := by simp [countTrap]
@[simp] theorem writeSpace_powerLimit (s : State) (sp : Space) (a n x : Nat) : (writeSpace s sp a n x).powerLimit = s.powerLimit := by cases sp <;> simp [writeSpace]
@[simp] theorem countTrap_powerLimit (s : State) (tn c : Nat) : (countTrap s tn c).powerLimit = s.powerLimit := by simp [countTrap]
@[simp] theorem writeSpace_clockMHz (s : State) (sp : Space) (a n x : Nat) : (writeSpace s sp a n x).clockMHz = s.clockMHz := by cases sp <;> simp [writeSpace]
@[simp] theorem countTrap_clockMHz (s : State) (tn c : Nat) : (countTrap s tn c).clockMHz = s.clockMHz := by simp [countTrap]
@[simp] theorem writeSpace_sampled (s : State) (sp : Space) (a n x : Nat) : (writeSpace s sp a n x).sampled = s.sampled := by cases sp <;> simp [writeSpace]
@[simp] theorem countTrap_sampled (s : State) (tn c : Nat) : (countTrap s tn c).sampled = s.sampled := by simp [countTrap]
@[simp] theorem writeSpace_coolSince (s : State) (sp : Space) (a n x : Nat) : (writeSpace s sp a n x).coolSince = s.coolSince := by cases sp <;> simp [writeSpace]
@[simp] theorem writeSpace_powerRead (s : State) (sp : Space) (a n x : Nat) : (writeSpace s sp a n x).powerRead = s.powerRead := by cases sp <;> simp [writeSpace]
@[simp] theorem writeSpace_forkAreas (s : State) (sp : Space) (a n x : Nat) : (writeSpace s sp a n x).forkAreas = s.forkAreas := by cases sp <;> simp [writeSpace]
@[simp] theorem countTrap_coolSince (s : State) (tn c : Nat) : (countTrap s tn c).coolSince = s.coolSince := by simp [countTrap]
@[simp] theorem countTrap_powerRead (s : State) (tn c : Nat) : (countTrap s tn c).powerRead = s.powerRead := by simp [countTrap]
@[simp] theorem countTrap_forkAreas (s : State) (tn c : Nat) : (countTrap s tn c).forkAreas = s.forkAreas := by simp [countTrap]
@[simp] theorem writeSpace_diesInReset (s : State) (sp : Space) (a n x : Nat) : (writeSpace s sp a n x).diesInReset = s.diesInReset := by cases sp <;> simp [writeSpace]
@[simp] theorem countTrap_diesInReset (s : State) (tn c : Nat) : (countTrap s tn c).diesInReset = s.diesInReset := by simp [countTrap]
@[simp] theorem writeSpace_ucieUp (s : State) (sp : Space) (a n x : Nat) : (writeSpace s sp a n x).ucieUp = s.ucieUp := by cases sp <;> simp [writeSpace]
@[simp] theorem countTrap_ucieUp (s : State) (tn c : Nat) : (countTrap s tn c).ucieUp = s.ucieUp := by simp [countTrap]
@[simp] theorem writeSpace_corrected (s : State) (sp : Space) (a n x : Nat) : (writeSpace s sp a n x).corrected = s.corrected := by cases sp <;> simp [writeSpace]
@[simp] theorem countTrap_corrected (s : State) (tn c : Nat) : (countTrap s tn c).corrected = s.corrected := by simp [countTrap]
@[simp] theorem writeSpace_variant (s : State) (sp : Space) (a n x : Nat) : (writeSpace s sp a n x).variant = s.variant := by cases sp <;> simp [writeSpace]
@[simp] theorem countTrap_variant (s : State) (tn c : Nat) : (countTrap s tn c).variant = s.variant := by simp [countTrap]

/-! ## A group: register writes, marks, flags, slots -/

@[simp] theorem applyWrite_tenant (g : Group) (w : RegWrite) : (applyWrite g w).tenant = g.tenant := by unfold applyWrite; split <;> (try split) <;> rfl
@[simp] theorem applyWrites_tenant (g : Group) (ws : List RegWrite) : (applyWrites g ws).tenant = g.tenant := by
  unfold applyWrites
  induction ws generalizing g with
  | nil => rfl
  | cons w ws ih => simp [ih]
@[simp] theorem markPending_tenant (g : Group) (rs : List RegName) (fl : Option Nat) : (markPending g rs fl).tenant = g.tenant := rfl
@[simp] theorem flagUp_tenant (g : Group) (fl : Option Nat) : (flagUp g fl).tenant = g.tenant := by cases fl <;> rfl
@[simp] theorem flagDown_tenant (g : Group) (fl : Option Nat) : (flagDown g fl).tenant = g.tenant := by cases fl <;> rfl
@[simp] theorem setSlot_tenant (g : Group) (n : Nat) (x : Option Slot) : (setSlot g n x).tenant = g.tenant := by unfold setSlot; split <;> rfl
@[simp] theorem pastG_tenant (now : Nat) (i : Iss) (g : Group) : (pastG now i g).tenant = g.tenant := by simp [pastG]
@[simp] theorem jumpG_tenant (now : Nat) (i : Iss) (g : Group) (a : Nat) : (jumpG now i g a).tenant = g.tenant := by simp [jumpG]
@[simp] theorem applyWrite_team (g : Group) (w : RegWrite) : (applyWrite g w).team = g.team := by unfold applyWrite; split <;> (try split) <;> rfl
@[simp] theorem applyWrites_team (g : Group) (ws : List RegWrite) : (applyWrites g ws).team = g.team := by
  unfold applyWrites
  induction ws generalizing g with
  | nil => rfl
  | cons w ws ih => simp [ih]
@[simp] theorem markPending_team (g : Group) (rs : List RegName) (fl : Option Nat) : (markPending g rs fl).team = g.team := rfl
@[simp] theorem flagUp_team (g : Group) (fl : Option Nat) : (flagUp g fl).team = g.team := by cases fl <;> rfl
@[simp] theorem flagDown_team (g : Group) (fl : Option Nat) : (flagDown g fl).team = g.team := by cases fl <;> rfl
@[simp] theorem setSlot_team (g : Group) (n : Nat) (x : Option Slot) : (setSlot g n x).team = g.team := by unfold setSlot; split <;> rfl
@[simp] theorem pastG_team (now : Nat) (i : Iss) (g : Group) : (pastG now i g).team = g.team := by simp [pastG]
@[simp] theorem jumpG_team (now : Nat) (i : Iss) (g : Group) (a : Nat) : (jumpG now i g a).team = g.team := by simp [jumpG]
@[simp] theorem applyWrite_index (g : Group) (w : RegWrite) : (applyWrite g w).index = g.index := by unfold applyWrite; split <;> (try split) <;> rfl
@[simp] theorem applyWrites_index (g : Group) (ws : List RegWrite) : (applyWrites g ws).index = g.index := by
  unfold applyWrites
  induction ws generalizing g with
  | nil => rfl
  | cons w ws ih => simp [ih]
@[simp] theorem markPending_index (g : Group) (rs : List RegName) (fl : Option Nat) : (markPending g rs fl).index = g.index := rfl
@[simp] theorem flagUp_index (g : Group) (fl : Option Nat) : (flagUp g fl).index = g.index := by cases fl <;> rfl
@[simp] theorem flagDown_index (g : Group) (fl : Option Nat) : (flagDown g fl).index = g.index := by cases fl <;> rfl
@[simp] theorem setSlot_index (g : Group) (n : Nat) (x : Option Slot) : (setSlot g n x).index = g.index := by unfold setSlot; split <;> rfl
@[simp] theorem pastG_index (now : Nat) (i : Iss) (g : Group) : (pastG now i g).index = g.index := by simp [pastG]
@[simp] theorem jumpG_index (now : Nat) (i : Iss) (g : Group) (a : Nat) : (jumpG now i g a).index = g.index := by simp [jumpG]
@[simp] theorem applyWrite_core (g : Group) (w : RegWrite) : (applyWrite g w).core = g.core := by unfold applyWrite; split <;> (try split) <;> rfl
@[simp] theorem applyWrites_core (g : Group) (ws : List RegWrite) : (applyWrites g ws).core = g.core := by
  unfold applyWrites
  induction ws generalizing g with
  | nil => rfl
  | cons w ws ih => simp [ih]
@[simp] theorem markPending_core (g : Group) (rs : List RegName) (fl : Option Nat) : (markPending g rs fl).core = g.core := rfl
@[simp] theorem flagUp_core (g : Group) (fl : Option Nat) : (flagUp g fl).core = g.core := by cases fl <;> rfl
@[simp] theorem flagDown_core (g : Group) (fl : Option Nat) : (flagDown g fl).core = g.core := by cases fl <;> rfl
@[simp] theorem setSlot_core (g : Group) (n : Nat) (x : Option Slot) : (setSlot g n x).core = g.core := by unfold setSlot; split <;> rfl
@[simp] theorem pastG_core (now : Nat) (i : Iss) (g : Group) : (pastG now i g).core = g.core := by simp [pastG]
@[simp] theorem jumpG_core (now : Nat) (i : Iss) (g : Group) (a : Nat) : (jumpG now i g a).core = g.core := by simp [jumpG]
@[simp] theorem applyWrite_position (g : Group) (w : RegWrite) : (applyWrite g w).position = g.position := by unfold applyWrite; split <;> (try split) <;> rfl
@[simp] theorem applyWrites_position (g : Group) (ws : List RegWrite) : (applyWrites g ws).position = g.position := by
  unfold applyWrites
  induction ws generalizing g with
  | nil => rfl
  | cons w ws ih => simp [ih]
@[simp] theorem markPending_position (g : Group) (rs : List RegName) (fl : Option Nat) : (markPending g rs fl).position = g.position := rfl
@[simp] theorem flagUp_position (g : Group) (fl : Option Nat) : (flagUp g fl).position = g.position := by cases fl <;> rfl
@[simp] theorem flagDown_position (g : Group) (fl : Option Nat) : (flagDown g fl).position = g.position := by cases fl <;> rfl
@[simp] theorem setSlot_position (g : Group) (n : Nat) (x : Option Slot) : (setSlot g n x).position = g.position := by unfold setSlot; split <;> rfl
@[simp] theorem pastG_position (now : Nat) (i : Iss) (g : Group) : (pastG now i g).position = g.position := by simp [pastG]
@[simp] theorem jumpG_position (now : Nat) (i : Iss) (g : Group) (a : Nat) : (jumpG now i g a).position = g.position := by simp [jumpG]
@[simp] theorem applyWrite_placed (g : Group) (w : RegWrite) : (applyWrite g w).placed = g.placed := by unfold applyWrite; split <;> (try split) <;> rfl
@[simp] theorem applyWrites_placed (g : Group) (ws : List RegWrite) : (applyWrites g ws).placed = g.placed := by
  unfold applyWrites
  induction ws generalizing g with
  | nil => rfl
  | cons w ws ih => simp [ih]
@[simp] theorem markPending_placed (g : Group) (rs : List RegName) (fl : Option Nat) : (markPending g rs fl).placed = g.placed := rfl
@[simp] theorem flagUp_placed (g : Group) (fl : Option Nat) : (flagUp g fl).placed = g.placed := by cases fl <;> rfl
@[simp] theorem flagDown_placed (g : Group) (fl : Option Nat) : (flagDown g fl).placed = g.placed := by cases fl <;> rfl
@[simp] theorem setSlot_placed (g : Group) (n : Nat) (x : Option Slot) : (setSlot g n x).placed = g.placed := by unfold setSlot; split <;> rfl
@[simp] theorem pastG_placed (now : Nat) (i : Iss) (g : Group) : (pastG now i g).placed = g.placed := by simp [pastG]
@[simp] theorem jumpG_placed (now : Nat) (i : Iss) (g : Group) (a : Nat) : (jumpG now i g a).placed = g.placed := by simp [jumpG]
@[simp] theorem applyWrite_priority (g : Group) (w : RegWrite) : (applyWrite g w).priority = g.priority := by unfold applyWrite; split <;> (try split) <;> rfl
@[simp] theorem applyWrites_priority (g : Group) (ws : List RegWrite) : (applyWrites g ws).priority = g.priority := by
  unfold applyWrites
  induction ws generalizing g with
  | nil => rfl
  | cons w ws ih => simp [ih]
@[simp] theorem markPending_priority (g : Group) (rs : List RegName) (fl : Option Nat) : (markPending g rs fl).priority = g.priority := rfl
@[simp] theorem flagUp_priority (g : Group) (fl : Option Nat) : (flagUp g fl).priority = g.priority := by cases fl <;> rfl
@[simp] theorem flagDown_priority (g : Group) (fl : Option Nat) : (flagDown g fl).priority = g.priority := by cases fl <;> rfl
@[simp] theorem setSlot_priority (g : Group) (n : Nat) (x : Option Slot) : (setSlot g n x).priority = g.priority := by unfold setSlot; split <;> rfl
@[simp] theorem pastG_priority (now : Nat) (i : Iss) (g : Group) : (pastG now i g).priority = g.priority := by simp [pastG]
@[simp] theorem jumpG_priority (now : Nat) (i : Iss) (g : Group) (a : Nat) : (jumpG now i g a).priority = g.priority := by simp [jumpG]
@[simp] theorem markPending_vregs (g : Group) (rs : List RegName) (fl : Option Nat) : (markPending g rs fl).vregs = g.vregs := rfl
@[simp] theorem flagUp_vregs (g : Group) (fl : Option Nat) : (flagUp g fl).vregs = g.vregs := by cases fl <;> rfl
@[simp] theorem flagDown_vregs (g : Group) (fl : Option Nat) : (flagDown g fl).vregs = g.vregs := by cases fl <;> rfl
@[simp] theorem setSlot_vregs (g : Group) (n : Nat) (x : Option Slot) : (setSlot g n x).vregs = g.vregs := by unfold setSlot; split <;> rfl
@[simp] theorem pastG_vregs (now : Nat) (i : Iss) (g : Group) : (pastG now i g).vregs = g.vregs := by simp [pastG]
@[simp] theorem jumpG_vregs (now : Nat) (i : Iss) (g : Group) (a : Nat) : (jumpG now i g a).vregs = g.vregs := by simp [jumpG]
@[simp] theorem applyWrite_window (g : Group) (w : RegWrite) : (applyWrite g w).window = g.window := by unfold applyWrite; split <;> (try split) <;> rfl
@[simp] theorem applyWrites_window (g : Group) (ws : List RegWrite) : (applyWrites g ws).window = g.window := by
  unfold applyWrites
  induction ws generalizing g with
  | nil => rfl
  | cons w ws ih => simp [ih]
@[simp] theorem markPending_window (g : Group) (rs : List RegName) (fl : Option Nat) : (markPending g rs fl).window = g.window := rfl
@[simp] theorem flagUp_window (g : Group) (fl : Option Nat) : (flagUp g fl).window = g.window := by cases fl <;> rfl
@[simp] theorem flagDown_window (g : Group) (fl : Option Nat) : (flagDown g fl).window = g.window := by cases fl <;> rfl
@[simp] theorem setSlot_window (g : Group) (n : Nat) (x : Option Slot) : (setSlot g n x).window = g.window := by unfold setSlot; split <;> rfl
@[simp] theorem pastG_window (now : Nat) (i : Iss) (g : Group) : (pastG now i g).window = g.window := by simp [pastG]
@[simp] theorem jumpG_window (now : Nat) (i : Iss) (g : Group) (a : Nat) : (jumpG now i g a).window = g.window := by simp [jumpG]
@[simp] theorem applyWrite_extent (g : Group) (w : RegWrite) : (applyWrite g w).extent = g.extent := by unfold applyWrite; split <;> (try split) <;> rfl
@[simp] theorem applyWrites_extent (g : Group) (ws : List RegWrite) : (applyWrites g ws).extent = g.extent := by
  unfold applyWrites
  induction ws generalizing g with
  | nil => rfl
  | cons w ws ih => simp [ih]
@[simp] theorem markPending_extent (g : Group) (rs : List RegName) (fl : Option Nat) : (markPending g rs fl).extent = g.extent := rfl
@[simp] theorem flagUp_extent (g : Group) (fl : Option Nat) : (flagUp g fl).extent = g.extent := by cases fl <;> rfl
@[simp] theorem flagDown_extent (g : Group) (fl : Option Nat) : (flagDown g fl).extent = g.extent := by cases fl <;> rfl
@[simp] theorem setSlot_extent (g : Group) (n : Nat) (x : Option Slot) : (setSlot g n x).extent = g.extent := by unfold setSlot; split <;> rfl
@[simp] theorem pastG_extent (now : Nat) (i : Iss) (g : Group) : (pastG now i g).extent = g.extent := by simp [pastG]
@[simp] theorem jumpG_extent (now : Nat) (i : Iss) (g : Group) (a : Nat) : (jumpG now i g a).extent = g.extent := by simp [jumpG]
@[simp] theorem applyWrite_resBase (g : Group) (w : RegWrite) : (applyWrite g w).resBase = g.resBase := by unfold applyWrite; split <;> (try split) <;> rfl
@[simp] theorem applyWrites_resBase (g : Group) (ws : List RegWrite) : (applyWrites g ws).resBase = g.resBase := by
  unfold applyWrites
  induction ws generalizing g with
  | nil => rfl
  | cons w ws ih => simp [ih]
@[simp] theorem markPending_resBase (g : Group) (rs : List RegName) (fl : Option Nat) : (markPending g rs fl).resBase = g.resBase := rfl
@[simp] theorem flagUp_resBase (g : Group) (fl : Option Nat) : (flagUp g fl).resBase = g.resBase := by cases fl <;> rfl
@[simp] theorem flagDown_resBase (g : Group) (fl : Option Nat) : (flagDown g fl).resBase = g.resBase := by cases fl <;> rfl
@[simp] theorem setSlot_resBase (g : Group) (n : Nat) (x : Option Slot) : (setSlot g n x).resBase = g.resBase := by unfold setSlot; split <;> rfl
@[simp] theorem pastG_resBase (now : Nat) (i : Iss) (g : Group) : (pastG now i g).resBase = g.resBase := by simp [pastG]
@[simp] theorem jumpG_resBase (now : Nat) (i : Iss) (g : Group) (a : Nat) : (jumpG now i g a).resBase = g.resBase := by simp [jumpG]
@[simp] theorem applyWrite_budget (g : Group) (w : RegWrite) : (applyWrite g w).budget = g.budget := by unfold applyWrite; split <;> (try split) <;> rfl
@[simp] theorem applyWrites_budget (g : Group) (ws : List RegWrite) : (applyWrites g ws).budget = g.budget := by
  unfold applyWrites
  induction ws generalizing g with
  | nil => rfl
  | cons w ws ih => simp [ih]
@[simp] theorem markPending_budget (g : Group) (rs : List RegName) (fl : Option Nat) : (markPending g rs fl).budget = g.budget := rfl
@[simp] theorem flagUp_budget (g : Group) (fl : Option Nat) : (flagUp g fl).budget = g.budget := by cases fl <;> rfl
@[simp] theorem flagDown_budget (g : Group) (fl : Option Nat) : (flagDown g fl).budget = g.budget := by cases fl <;> rfl
@[simp] theorem setSlot_budget (g : Group) (n : Nat) (x : Option Slot) : (setSlot g n x).budget = g.budget := by unfold setSlot; split <;> rfl
@[simp] theorem pastG_budget (now : Nat) (i : Iss) (g : Group) : (pastG now i g).budget = g.budget := by simp [pastG]
@[simp] theorem jumpG_budget (now : Nat) (i : Iss) (g : Group) (a : Nat) : (jumpG now i g a).budget = g.budget := by simp [jumpG]
@[simp] theorem applyWrite_regArea (g : Group) (w : RegWrite) : (applyWrite g w).regArea = g.regArea := by unfold applyWrite; split <;> (try split) <;> rfl
@[simp] theorem applyWrites_regArea (g : Group) (ws : List RegWrite) : (applyWrites g ws).regArea = g.regArea := by
  unfold applyWrites
  induction ws generalizing g with
  | nil => rfl
  | cons w ws ih => simp [ih]
@[simp] theorem markPending_regArea (g : Group) (rs : List RegName) (fl : Option Nat) : (markPending g rs fl).regArea = g.regArea := rfl
@[simp] theorem flagUp_regArea (g : Group) (fl : Option Nat) : (flagUp g fl).regArea = g.regArea := by cases fl <;> rfl
@[simp] theorem flagDown_regArea (g : Group) (fl : Option Nat) : (flagDown g fl).regArea = g.regArea := by cases fl <;> rfl
@[simp] theorem setSlot_regArea (g : Group) (n : Nat) (x : Option Slot) : (setSlot g n x).regArea = g.regArea := by unfold setSlot; split <;> rfl
@[simp] theorem pastG_regArea (now : Nat) (i : Iss) (g : Group) : (pastG now i g).regArea = g.regArea := by simp [pastG]
@[simp] theorem jumpG_regArea (now : Nat) (i : Iss) (g : Group) (a : Nat) : (jumpG now i g a).regArea = g.regArea := by simp [jumpG]
@[simp] theorem applyWrite_progArea (g : Group) (w : RegWrite) : (applyWrite g w).progArea = g.progArea := by unfold applyWrite; split <;> (try split) <;> rfl
@[simp] theorem applyWrites_progArea (g : Group) (ws : List RegWrite) : (applyWrites g ws).progArea = g.progArea := by
  unfold applyWrites
  induction ws generalizing g with
  | nil => rfl
  | cons w ws ih => simp [ih]
@[simp] theorem markPending_progArea (g : Group) (rs : List RegName) (fl : Option Nat) : (markPending g rs fl).progArea = g.progArea := rfl
@[simp] theorem flagUp_progArea (g : Group) (fl : Option Nat) : (flagUp g fl).progArea = g.progArea := by cases fl <;> rfl
@[simp] theorem flagDown_progArea (g : Group) (fl : Option Nat) : (flagDown g fl).progArea = g.progArea := by cases fl <;> rfl
@[simp] theorem setSlot_progArea (g : Group) (n : Nat) (x : Option Slot) : (setSlot g n x).progArea = g.progArea := by unfold setSlot; split <;> rfl
@[simp] theorem pastG_progArea (now : Nat) (i : Iss) (g : Group) : (pastG now i g).progArea = g.progArea := by simp [pastG]
@[simp] theorem jumpG_progArea (now : Nat) (i : Iss) (g : Group) (a : Nat) : (jumpG now i g a).progArea = g.progArea := by simp [jumpG]
@[simp] theorem applyWrite_lBase (g : Group) (w : RegWrite) : (applyWrite g w).lBase = g.lBase := by unfold applyWrite; split <;> (try split) <;> rfl
@[simp] theorem applyWrites_lBase (g : Group) (ws : List RegWrite) : (applyWrites g ws).lBase = g.lBase := by
  unfold applyWrites
  induction ws generalizing g with
  | nil => rfl
  | cons w ws ih => simp [ih]
@[simp] theorem markPending_lBase (g : Group) (rs : List RegName) (fl : Option Nat) : (markPending g rs fl).lBase = g.lBase := rfl
@[simp] theorem flagUp_lBase (g : Group) (fl : Option Nat) : (flagUp g fl).lBase = g.lBase := by cases fl <;> rfl
@[simp] theorem flagDown_lBase (g : Group) (fl : Option Nat) : (flagDown g fl).lBase = g.lBase := by cases fl <;> rfl
@[simp] theorem setSlot_lBase (g : Group) (n : Nat) (x : Option Slot) : (setSlot g n x).lBase = g.lBase := by unfold setSlot; split <;> rfl
@[simp] theorem pastG_lBase (now : Nat) (i : Iss) (g : Group) : (pastG now i g).lBase = g.lBase := by simp [pastG]
@[simp] theorem jumpG_lBase (now : Nat) (i : Iss) (g : Group) (a : Nat) : (jumpG now i g a).lBase = g.lBase := by simp [jumpG]
@[simp] theorem applyWrite_links (g : Group) (w : RegWrite) : (applyWrite g w).links = g.links := by unfold applyWrite; split <;> (try split) <;> rfl
@[simp] theorem applyWrites_links (g : Group) (ws : List RegWrite) : (applyWrites g ws).links = g.links := by
  unfold applyWrites
  induction ws generalizing g with
  | nil => rfl
  | cons w ws ih => simp [ih]
@[simp] theorem markPending_links (g : Group) (rs : List RegName) (fl : Option Nat) : (markPending g rs fl).links = g.links := rfl
@[simp] theorem flagUp_links (g : Group) (fl : Option Nat) : (flagUp g fl).links = g.links := by cases fl <;> rfl
@[simp] theorem flagDown_links (g : Group) (fl : Option Nat) : (flagDown g fl).links = g.links := by cases fl <;> rfl
@[simp] theorem setSlot_links (g : Group) (n : Nat) (x : Option Slot) : (setSlot g n x).links = g.links := by unfold setSlot; split <;> rfl
@[simp] theorem pastG_links (now : Nat) (i : Iss) (g : Group) : (pastG now i g).links = g.links := by simp [pastG]
@[simp] theorem jumpG_links (now : Nat) (i : Iss) (g : Group) (a : Nat) : (jumpG now i g a).links = g.links := by simp [jumpG]
@[simp] theorem applyWrite_resLinks (g : Group) (w : RegWrite) : (applyWrite g w).resLinks = g.resLinks := by unfold applyWrite; split <;> (try split) <;> rfl
@[simp] theorem applyWrites_resLinks (g : Group) (ws : List RegWrite) : (applyWrites g ws).resLinks = g.resLinks := by
  unfold applyWrites
  induction ws generalizing g with
  | nil => rfl
  | cons w ws ih => simp [ih]
@[simp] theorem markPending_resLinks (g : Group) (rs : List RegName) (fl : Option Nat) : (markPending g rs fl).resLinks = g.resLinks := rfl
@[simp] theorem flagUp_resLinks (g : Group) (fl : Option Nat) : (flagUp g fl).resLinks = g.resLinks := by cases fl <;> rfl
@[simp] theorem flagDown_resLinks (g : Group) (fl : Option Nat) : (flagDown g fl).resLinks = g.resLinks := by cases fl <;> rfl
@[simp] theorem setSlot_resLinks (g : Group) (n : Nat) (x : Option Slot) : (setSlot g n x).resLinks = g.resLinks := by unfold setSlot; split <;> rfl
@[simp] theorem pastG_resLinks (now : Nat) (i : Iss) (g : Group) : (pastG now i g).resLinks = g.resLinks := by simp [pastG]
@[simp] theorem jumpG_resLinks (now : Nat) (i : Iss) (g : Group) (a : Nat) : (jumpG now i g a).resLinks = g.resLinks := by simp [jumpG]
@[simp] theorem markPending_kregs (g : Group) (rs : List RegName) (fl : Option Nat) : (markPending g rs fl).kregs = g.kregs := rfl
@[simp] theorem flagUp_kregs (g : Group) (fl : Option Nat) : (flagUp g fl).kregs = g.kregs := by cases fl <;> rfl
@[simp] theorem flagDown_kregs (g : Group) (fl : Option Nat) : (flagDown g fl).kregs = g.kregs := by cases fl <;> rfl
@[simp] theorem setSlot_kregs (g : Group) (n : Nat) (x : Option Slot) : (setSlot g n x).kregs = g.kregs := by unfold setSlot; split <;> rfl
@[simp] theorem pastG_kregs (now : Nat) (i : Iss) (g : Group) : (pastG now i g).kregs = g.kregs := by simp [pastG]
@[simp] theorem jumpG_kregs (now : Nat) (i : Iss) (g : Group) (a : Nat) : (jumpG now i g a).kregs = g.kregs := by simp [jumpG]
@[simp] theorem markPending_mregs (g : Group) (rs : List RegName) (fl : Option Nat) : (markPending g rs fl).mregs = g.mregs := rfl
@[simp] theorem flagUp_mregs (g : Group) (fl : Option Nat) : (flagUp g fl).mregs = g.mregs := by cases fl <;> rfl
@[simp] theorem flagDown_mregs (g : Group) (fl : Option Nat) : (flagDown g fl).mregs = g.mregs := by cases fl <;> rfl
@[simp] theorem setSlot_mregs (g : Group) (n : Nat) (x : Option Slot) : (setSlot g n x).mregs = g.mregs := by unfold setSlot; split <;> rfl
@[simp] theorem pastG_mregs (now : Nat) (i : Iss) (g : Group) : (pastG now i g).mregs = g.mregs := by simp [pastG]
@[simp] theorem jumpG_mregs (now : Nat) (i : Iss) (g : Group) (a : Nat) : (jumpG now i g a).mregs = g.mregs := by simp [jumpG]
@[simp] theorem applyWrite_flags (g : Group) (w : RegWrite) : (applyWrite g w).flags = g.flags := by unfold applyWrite; split <;> (try split) <;> rfl
@[simp] theorem applyWrites_flags (g : Group) (ws : List RegWrite) : (applyWrites g ws).flags = g.flags := by
  unfold applyWrites
  induction ws generalizing g with
  | nil => rfl
  | cons w ws ih => simp [ih]
@[simp] theorem markPending_flags (g : Group) (rs : List RegName) (fl : Option Nat) : (markPending g rs fl).flags = g.flags := rfl
@[simp] theorem setSlot_flags (g : Group) (n : Nat) (x : Option Slot) : (setSlot g n x).flags = g.flags := by unfold setSlot; split <;> rfl
@[simp] theorem pastG_flags (now : Nat) (i : Iss) (g : Group) : (pastG now i g).flags = g.flags := by simp [pastG]
@[simp] theorem jumpG_flags (now : Nat) (i : Iss) (g : Group) (a : Nat) : (jumpG now i g a).flags = g.flags := by simp [jumpG]
@[simp] theorem applyWrite_marks (g : Group) (w : RegWrite) : (applyWrite g w).marks = g.marks := by unfold applyWrite; split <;> (try split) <;> rfl
@[simp] theorem applyWrites_marks (g : Group) (ws : List RegWrite) : (applyWrites g ws).marks = g.marks := by
  unfold applyWrites
  induction ws generalizing g with
  | nil => rfl
  | cons w ws ih => simp [ih]
@[simp] theorem flagUp_marks (g : Group) (fl : Option Nat) : (flagUp g fl).marks = g.marks := by cases fl <;> rfl
@[simp] theorem flagDown_marks (g : Group) (fl : Option Nat) : (flagDown g fl).marks = g.marks := by cases fl <;> rfl
@[simp] theorem setSlot_marks (g : Group) (n : Nat) (x : Option Slot) : (setSlot g n x).marks = g.marks := by unfold setSlot; split <;> rfl
@[simp] theorem pastG_marks (now : Nat) (i : Iss) (g : Group) : (pastG now i g).marks = g.marks := by simp [pastG]
@[simp] theorem jumpG_marks (now : Nat) (i : Iss) (g : Group) (a : Nat) : (jumpG now i g a).marks = g.marks := by simp [jumpG]
@[simp] theorem applyWrite_slot0 (g : Group) (w : RegWrite) : (applyWrite g w).slot0 = g.slot0 := by unfold applyWrite; split <;> (try split) <;> rfl
@[simp] theorem applyWrites_slot0 (g : Group) (ws : List RegWrite) : (applyWrites g ws).slot0 = g.slot0 := by
  unfold applyWrites
  induction ws generalizing g with
  | nil => rfl
  | cons w ws ih => simp [ih]
@[simp] theorem markPending_slot0 (g : Group) (rs : List RegName) (fl : Option Nat) : (markPending g rs fl).slot0 = g.slot0 := rfl
@[simp] theorem flagUp_slot0 (g : Group) (fl : Option Nat) : (flagUp g fl).slot0 = g.slot0 := by cases fl <;> rfl
@[simp] theorem flagDown_slot0 (g : Group) (fl : Option Nat) : (flagDown g fl).slot0 = g.slot0 := by cases fl <;> rfl
@[simp] theorem applyWrite_slot1 (g : Group) (w : RegWrite) : (applyWrite g w).slot1 = g.slot1 := by unfold applyWrite; split <;> (try split) <;> rfl
@[simp] theorem applyWrites_slot1 (g : Group) (ws : List RegWrite) : (applyWrites g ws).slot1 = g.slot1 := by
  unfold applyWrites
  induction ws generalizing g with
  | nil => rfl
  | cons w ws ih => simp [ih]
@[simp] theorem markPending_slot1 (g : Group) (rs : List RegName) (fl : Option Nat) : (markPending g rs fl).slot1 = g.slot1 := rfl
@[simp] theorem flagUp_slot1 (g : Group) (fl : Option Nat) : (flagUp g fl).slot1 = g.slot1 := by cases fl <;> rfl
@[simp] theorem flagDown_slot1 (g : Group) (fl : Option Nat) : (flagDown g fl).slot1 = g.slot1 := by cases fl <;> rfl
@[simp] theorem applyWrite_fflags (g : Group) (w : RegWrite) : (applyWrite g w).fflags = g.fflags := by unfold applyWrite; split <;> (try split) <;> rfl
@[simp] theorem applyWrites_fflags (g : Group) (ws : List RegWrite) : (applyWrites g ws).fflags = g.fflags := by
  unfold applyWrites
  induction ws generalizing g with
  | nil => rfl
  | cons w ws ih => simp [ih]
@[simp] theorem markPending_fflags (g : Group) (rs : List RegName) (fl : Option Nat) : (markPending g rs fl).fflags = g.fflags := rfl
@[simp] theorem flagUp_fflags (g : Group) (fl : Option Nat) : (flagUp g fl).fflags = g.fflags := by cases fl <;> rfl
@[simp] theorem flagDown_fflags (g : Group) (fl : Option Nat) : (flagDown g fl).fflags = g.fflags := by cases fl <;> rfl
@[simp] theorem setSlot_fflags (g : Group) (n : Nat) (x : Option Slot) : (setSlot g n x).fflags = g.fflags := by unfold setSlot; split <;> rfl
@[simp] theorem pastG_fflags (now : Nat) (i : Iss) (g : Group) : (pastG now i g).fflags = g.fflags := by simp [pastG]
@[simp] theorem jumpG_fflags (now : Nat) (i : Iss) (g : Group) (a : Nat) : (jumpG now i g a).fflags = g.fflags := by simp [jumpG]
@[simp] theorem applyWrite_near (g : Group) (w : RegWrite) : (applyWrite g w).near = g.near := by unfold applyWrite; split <;> (try split) <;> rfl
@[simp] theorem applyWrites_near (g : Group) (ws : List RegWrite) : (applyWrites g ws).near = g.near := by
  unfold applyWrites
  induction ws generalizing g with
  | nil => rfl
  | cons w ws ih => simp [ih]
@[simp] theorem markPending_near (g : Group) (rs : List RegName) (fl : Option Nat) : (markPending g rs fl).near = g.near := rfl
@[simp] theorem flagUp_near (g : Group) (fl : Option Nat) : (flagUp g fl).near = g.near := by cases fl <;> rfl
@[simp] theorem flagDown_near (g : Group) (fl : Option Nat) : (flagDown g fl).near = g.near := by cases fl <;> rfl
@[simp] theorem setSlot_near (g : Group) (n : Nat) (x : Option Slot) : (setSlot g n x).near = g.near := by unfold setSlot; split <;> rfl
@[simp] theorem pastG_near (now : Nat) (i : Iss) (g : Group) : (pastG now i g).near = g.near := by simp [pastG]
@[simp] theorem jumpG_near (now : Nat) (i : Iss) (g : Group) (a : Nat) : (jumpG now i g a).near = g.near := by simp [jumpG]
@[simp] theorem applyWrite_role (g : Group) (w : RegWrite) : (applyWrite g w).role = g.role := by unfold applyWrite; split <;> (try split) <;> rfl
@[simp] theorem applyWrites_role (g : Group) (ws : List RegWrite) : (applyWrites g ws).role = g.role := by
  unfold applyWrites
  induction ws generalizing g with
  | nil => rfl
  | cons w ws ih => simp [ih]
@[simp] theorem markPending_role (g : Group) (rs : List RegName) (fl : Option Nat) : (markPending g rs fl).role = g.role := rfl
@[simp] theorem flagUp_role (g : Group) (fl : Option Nat) : (flagUp g fl).role = g.role := by cases fl <;> rfl
@[simp] theorem flagDown_role (g : Group) (fl : Option Nat) : (flagDown g fl).role = g.role := by cases fl <;> rfl
@[simp] theorem setSlot_role (g : Group) (n : Nat) (x : Option Slot) : (setSlot g n x).role = g.role := by unfold setSlot; split <;> rfl
@[simp] theorem pastG_role (now : Nat) (i : Iss) (g : Group) : (pastG now i g).role = g.role := by simp [pastG]
@[simp] theorem jumpG_role (now : Nat) (i : Iss) (g : Group) (a : Nat) : (jumpG now i g a).role = g.role := by simp [jumpG]
@[simp] theorem applyWrite_batch (g : Group) (w : RegWrite) : (applyWrite g w).batch = g.batch := by unfold applyWrite; split <;> (try split) <;> rfl
@[simp] theorem applyWrites_batch (g : Group) (ws : List RegWrite) : (applyWrites g ws).batch = g.batch := by
  unfold applyWrites
  induction ws generalizing g with
  | nil => rfl
  | cons w ws ih => simp [ih]
@[simp] theorem markPending_batch (g : Group) (rs : List RegName) (fl : Option Nat) : (markPending g rs fl).batch = g.batch := rfl
@[simp] theorem flagUp_batch (g : Group) (fl : Option Nat) : (flagUp g fl).batch = g.batch := by cases fl <;> rfl
@[simp] theorem flagDown_batch (g : Group) (fl : Option Nat) : (flagDown g fl).batch = g.batch := by cases fl <;> rfl
@[simp] theorem setSlot_batch (g : Group) (n : Nat) (x : Option Slot) : (setSlot g n x).batch = g.batch := by unfold setSlot; split <;> rfl
@[simp] theorem pastG_batch (now : Nat) (i : Iss) (g : Group) : (pastG now i g).batch = g.batch := by simp [pastG]
@[simp] theorem jumpG_batch (now : Nat) (i : Iss) (g : Group) (a : Nat) : (jumpG now i g a).batch = g.batch := by simp [jumpG]
@[simp] theorem applyWrite_launched (g : Group) (w : RegWrite) : (applyWrite g w).launched = g.launched := by unfold applyWrite; split <;> (try split) <;> rfl
@[simp] theorem applyWrites_launched (g : Group) (ws : List RegWrite) : (applyWrites g ws).launched = g.launched := by
  unfold applyWrites
  induction ws generalizing g with
  | nil => rfl
  | cons w ws ih => simp [ih]
@[simp] theorem markPending_launched (g : Group) (rs : List RegName) (fl : Option Nat) : (markPending g rs fl).launched = g.launched := rfl
@[simp] theorem flagUp_launched (g : Group) (fl : Option Nat) : (flagUp g fl).launched = g.launched := by cases fl <;> rfl
@[simp] theorem flagDown_launched (g : Group) (fl : Option Nat) : (flagDown g fl).launched = g.launched := by cases fl <;> rfl
@[simp] theorem setSlot_launched (g : Group) (n : Nat) (x : Option Slot) : (setSlot g n x).launched = g.launched := by unfold setSlot; split <;> rfl
@[simp] theorem pastG_launched (now : Nat) (i : Iss) (g : Group) : (pastG now i g).launched = g.launched := by simp [pastG]
@[simp] theorem jumpG_launched (now : Nat) (i : Iss) (g : Group) (a : Nat) : (jumpG now i g a).launched = g.launched := by simp [jumpG]
@[simp] theorem applyWrite_joins (g : Group) (w : RegWrite) : (applyWrite g w).joins = g.joins := by unfold applyWrite; split <;> (try split) <;> rfl
@[simp] theorem applyWrites_joins (g : Group) (ws : List RegWrite) : (applyWrites g ws).joins = g.joins := by
  unfold applyWrites
  induction ws generalizing g with
  | nil => rfl
  | cons w ws ih => simp [ih]
@[simp] theorem markPending_joins (g : Group) (rs : List RegName) (fl : Option Nat) : (markPending g rs fl).joins = g.joins := rfl
@[simp] theorem flagUp_joins (g : Group) (fl : Option Nat) : (flagUp g fl).joins = g.joins := by cases fl <;> rfl
@[simp] theorem flagDown_joins (g : Group) (fl : Option Nat) : (flagDown g fl).joins = g.joins := by cases fl <;> rfl
@[simp] theorem setSlot_joins (g : Group) (n : Nat) (x : Option Slot) : (setSlot g n x).joins = g.joins := by unfold setSlot; split <;> rfl
@[simp] theorem pastG_joins (now : Nat) (i : Iss) (g : Group) : (pastG now i g).joins = g.joins := by simp [pastG]
@[simp] theorem jumpG_joins (now : Nat) (i : Iss) (g : Group) (a : Nat) : (jumpG now i g a).joins = g.joins := by simp [jumpG]
@[simp] theorem applyWrite_forkSerial (g : Group) (w : RegWrite) : (applyWrite g w).forkSerial = g.forkSerial := by unfold applyWrite; split <;> (try split) <;> rfl
@[simp] theorem applyWrites_forkSerial (g : Group) (ws : List RegWrite) : (applyWrites g ws).forkSerial = g.forkSerial := by
  unfold applyWrites
  induction ws generalizing g with
  | nil => rfl
  | cons w ws ih => simp [ih]
@[simp] theorem markPending_forkSerial (g : Group) (rs : List RegName) (fl : Option Nat) : (markPending g rs fl).forkSerial = g.forkSerial := rfl
@[simp] theorem flagUp_forkSerial (g : Group) (fl : Option Nat) : (flagUp g fl).forkSerial = g.forkSerial := by cases fl <;> rfl
@[simp] theorem flagDown_forkSerial (g : Group) (fl : Option Nat) : (flagDown g fl).forkSerial = g.forkSerial := by cases fl <;> rfl
@[simp] theorem setSlot_forkSerial (g : Group) (n : Nat) (x : Option Slot) : (setSlot g n x).forkSerial = g.forkSerial := by unfold setSlot; split <;> rfl
@[simp] theorem pastG_forkSerial (now : Nat) (i : Iss) (g : Group) : (pastG now i g).forkSerial = g.forkSerial := by simp [pastG]
@[simp] theorem jumpG_forkSerial (now : Nat) (i : Iss) (g : Group) (a : Nat) : (jumpG now i g a).forkSerial = g.forkSerial := by simp [jumpG]
@[simp] theorem applyWrite_stack (g : Group) (w : RegWrite) : (applyWrite g w).stack = g.stack := by unfold applyWrite; split <;> (try split) <;> rfl
@[simp] theorem applyWrites_stack (g : Group) (ws : List RegWrite) : (applyWrites g ws).stack = g.stack := by
  unfold applyWrites
  induction ws generalizing g with
  | nil => rfl
  | cons w ws ih => simp [ih]
@[simp] theorem markPending_stack (g : Group) (rs : List RegName) (fl : Option Nat) : (markPending g rs fl).stack = g.stack := rfl
@[simp] theorem flagUp_stack (g : Group) (fl : Option Nat) : (flagUp g fl).stack = g.stack := by cases fl <;> rfl
@[simp] theorem flagDown_stack (g : Group) (fl : Option Nat) : (flagDown g fl).stack = g.stack := by cases fl <;> rfl
@[simp] theorem setSlot_stack (g : Group) (n : Nat) (x : Option Slot) : (setSlot g n x).stack = g.stack := by unfold setSlot; split <;> rfl
@[simp] theorem pastG_stack (now : Nat) (i : Iss) (g : Group) : (pastG now i g).stack = g.stack := by simp [pastG]
@[simp] theorem jumpG_stack (now : Nat) (i : Iss) (g : Group) (a : Nat) : (jumpG now i g a).stack = g.stack := by simp [jumpG]
@[simp] theorem applyWrite_park (g : Group) (w : RegWrite) : (applyWrite g w).park = g.park := by unfold applyWrite; split <;> (try split) <;> rfl
@[simp] theorem applyWrites_park (g : Group) (ws : List RegWrite) : (applyWrites g ws).park = g.park := by
  unfold applyWrites
  induction ws generalizing g with
  | nil => rfl
  | cons w ws ih => simp [ih]
@[simp] theorem markPending_park (g : Group) (rs : List RegName) (fl : Option Nat) : (markPending g rs fl).park = g.park := rfl
@[simp] theorem flagUp_park (g : Group) (fl : Option Nat) : (flagUp g fl).park = g.park := by cases fl <;> rfl
@[simp] theorem flagDown_park (g : Group) (fl : Option Nat) : (flagDown g fl).park = g.park := by cases fl <;> rfl
@[simp] theorem setSlot_park (g : Group) (n : Nat) (x : Option Slot) : (setSlot g n x).park = g.park := by unfold setSlot; split <;> rfl
@[simp] theorem markPending_handler (g : Group) (rs : List RegName) (fl : Option Nat) : (markPending g rs fl).handler = g.handler := rfl
@[simp] theorem flagUp_handler (g : Group) (fl : Option Nat) : (flagUp g fl).handler = g.handler := by cases fl <;> rfl
@[simp] theorem flagDown_handler (g : Group) (fl : Option Nat) : (flagDown g fl).handler = g.handler := by cases fl <;> rfl
@[simp] theorem setSlot_handler (g : Group) (n : Nat) (x : Option Slot) : (setSlot g n x).handler = g.handler := by unfold setSlot; split <;> rfl
@[simp] theorem pastG_handler (now : Nat) (i : Iss) (g : Group) : (pastG now i g).handler = g.handler := by simp [pastG]
@[simp] theorem jumpG_handler (now : Nat) (i : Iss) (g : Group) (a : Nat) : (jumpG now i g a).handler = g.handler := by simp [jumpG]
@[simp] theorem applyWrite_fences (g : Group) (w : RegWrite) : (applyWrite g w).fences = g.fences := by unfold applyWrite; split <;> (try split) <;> rfl
@[simp] theorem applyWrites_fences (g : Group) (ws : List RegWrite) : (applyWrites g ws).fences = g.fences := by
  unfold applyWrites
  induction ws generalizing g with
  | nil => rfl
  | cons w ws ih => simp [ih]
@[simp] theorem markPending_fences (g : Group) (rs : List RegName) (fl : Option Nat) : (markPending g rs fl).fences = g.fences := rfl
@[simp] theorem flagUp_fences (g : Group) (fl : Option Nat) : (flagUp g fl).fences = g.fences := by cases fl <;> rfl
@[simp] theorem flagDown_fences (g : Group) (fl : Option Nat) : (flagDown g fl).fences = g.fences := by cases fl <;> rfl
@[simp] theorem setSlot_fences (g : Group) (n : Nat) (x : Option Slot) : (setSlot g n x).fences = g.fences := by unfold setSlot; split <;> rfl
@[simp] theorem pastG_fences (now : Nat) (i : Iss) (g : Group) : (pastG now i g).fences = g.fences := by simp [pastG]
@[simp] theorem jumpG_fences (now : Nat) (i : Iss) (g : Group) (a : Nat) : (jumpG now i g a).fences = g.fences := by simp [jumpG]
@[simp] theorem applyWrite_holdings (g : Group) (w : RegWrite) : (applyWrite g w).holdings = g.holdings := by unfold applyWrite; split <;> (try split) <;> rfl
@[simp] theorem applyWrites_holdings (g : Group) (ws : List RegWrite) : (applyWrites g ws).holdings = g.holdings := by
  unfold applyWrites
  induction ws generalizing g with
  | nil => rfl
  | cons w ws ih => simp [ih]
@[simp] theorem markPending_holdings (g : Group) (rs : List RegName) (fl : Option Nat) : (markPending g rs fl).holdings = g.holdings := rfl
@[simp] theorem flagUp_holdings (g : Group) (fl : Option Nat) : (flagUp g fl).holdings = g.holdings := by cases fl <;> rfl
@[simp] theorem flagDown_holdings (g : Group) (fl : Option Nat) : (flagDown g fl).holdings = g.holdings := by cases fl <;> rfl
@[simp] theorem setSlot_holdings (g : Group) (n : Nat) (x : Option Slot) : (setSlot g n x).holdings = g.holdings := by unfold setSlot; split <;> rfl
@[simp] theorem pastG_holdings (now : Nat) (i : Iss) (g : Group) : (pastG now i g).holdings = g.holdings := by simp [pastG]
@[simp] theorem jumpG_holdings (now : Nat) (i : Iss) (g : Group) (a : Nat) : (jumpG now i g a).holdings = g.holdings := by simp [jumpG]
@[simp] theorem applyWrite_bufs (g : Group) (w : RegWrite) : (applyWrite g w).bufs = g.bufs := by unfold applyWrite; split <;> (try split) <;> rfl
@[simp] theorem applyWrites_bufs (g : Group) (ws : List RegWrite) : (applyWrites g ws).bufs = g.bufs := by
  unfold applyWrites
  induction ws generalizing g with
  | nil => rfl
  | cons w ws ih => simp [ih]
@[simp] theorem markPending_bufs (g : Group) (rs : List RegName) (fl : Option Nat) : (markPending g rs fl).bufs = g.bufs := rfl
@[simp] theorem flagUp_bufs (g : Group) (fl : Option Nat) : (flagUp g fl).bufs = g.bufs := by cases fl <;> rfl
@[simp] theorem flagDown_bufs (g : Group) (fl : Option Nat) : (flagDown g fl).bufs = g.bufs := by cases fl <;> rfl
@[simp] theorem setSlot_bufs (g : Group) (n : Nat) (x : Option Slot) : (setSlot g n x).bufs = g.bufs := by unfold setSlot; split <;> rfl
@[simp] theorem pastG_bufs (now : Nat) (i : Iss) (g : Group) : (pastG now i g).bufs = g.bufs := by simp [pastG]
@[simp] theorem jumpG_bufs (now : Nat) (i : Iss) (g : Group) (a : Nat) : (jumpG now i g a).bufs = g.bufs := by simp [jumpG]
@[simp] theorem applyWrite_restart (g : Group) (w : RegWrite) : (applyWrite g w).restart = g.restart := by unfold applyWrite; split <;> (try split) <;> rfl
@[simp] theorem applyWrites_restart (g : Group) (ws : List RegWrite) : (applyWrites g ws).restart = g.restart := by
  unfold applyWrites
  induction ws generalizing g with
  | nil => rfl
  | cons w ws ih => simp [ih]
@[simp] theorem markPending_restart (g : Group) (rs : List RegName) (fl : Option Nat) : (markPending g rs fl).restart = g.restart := rfl
@[simp] theorem flagUp_restart (g : Group) (fl : Option Nat) : (flagUp g fl).restart = g.restart := by cases fl <;> rfl
@[simp] theorem flagDown_restart (g : Group) (fl : Option Nat) : (flagDown g fl).restart = g.restart := by cases fl <;> rfl
@[simp] theorem setSlot_restart (g : Group) (n : Nat) (x : Option Slot) : (setSlot g n x).restart = g.restart := by unfold setSlot; split <;> rfl
@[simp] theorem pastG_restart (now : Nat) (i : Iss) (g : Group) : (pastG now i g).restart = g.restart := by simp [pastG]
@[simp] theorem jumpG_restart (now : Nat) (i : Iss) (g : Group) (a : Nat) : (jumpG now i g a).restart = g.restart := by simp [jumpG]
@[simp] theorem pastG_park (now : Nat) (i : Iss) (g : Group) : (pastG now i g).park = none := by simp [pastG]
@[simp] theorem jumpG_park (now : Nat) (i : Iss) (g : Group) (a : Nat) : (jumpG now i g a).park = none := by simp [jumpG]
@[simp] theorem markPending_marks (g : Group) (rs : List RegName) (fl : Option Nat) : (markPending g rs fl).marks = g.marks ++ rs.map fun r => ⟨r, fl⟩ := rfl

theorem slotOf_setSlot {g : Group} {n : Nat} {x : Option Slot} (h : n < 2) (m : Nat) :
    slotOf (setSlot g n x) m = if m = n then x else slotOf g m := by
  match n, h with
  | 0, _ => match m with
    | 0 => rfl
    | 1 => rfl
    | _ + 2 => rfl
  | 1, _ => match m with
    | 0 => rfl
    | 1 => rfl
    | m + 2 => simp [slotOf]

/-- Only slots 0 and 1 hold a path. -/
theorem slotOf_lt {g : Group} {n : Nat} {sl : Slot} (h : slotOf g n = some sl) : n < 2 := by
  match n with
  | 0 => omega
  | 1 => omega
  | _ + 2 => simp [slotOf] at h

/-- Two values of a structure that agree in every field are equal. -/
theorem group_eq {x y : Group} (h0 : x.tenant = y.tenant) (h1 : x.team = y.team) (h2 : x.index = y.index) (h3 : x.core = y.core) (h4 : x.position = y.position) (h5 : x.placed = y.placed) (h6 : x.priority = y.priority) (h7 : x.vregs = y.vregs) (h8 : x.window = y.window) (h9 : x.extent = y.extent) (h10 : x.resBase = y.resBase) (h11 : x.budget = y.budget) (h12 : x.regArea = y.regArea) (h13 : x.progArea = y.progArea) (h14 : x.lBase = y.lBase) (h15 : x.links = y.links) (h16 : x.resLinks = y.resLinks) (h17 : x.kregs = y.kregs) (h18 : x.mregs = y.mregs) (h19 : x.flags = y.flags) (h20 : x.marks = y.marks) (h21 : x.slot0 = y.slot0) (h22 : x.slot1 = y.slot1) (h23 : x.fflags = y.fflags) (h24 : x.near = y.near) (h25 : x.role = y.role) (h26 : x.batch = y.batch) (h27 : x.launched = y.launched) (h28 : x.joins = y.joins) (h29 : x.forkSerial = y.forkSerial) (h30 : x.stack = y.stack) (h31 : x.park = y.park) (h32 : x.handler = y.handler) (h33 : x.fences = y.fences) (h34 : x.holdings = y.holdings) (h35 : x.bufs = y.bufs) (h36 : x.restart = y.restart) : x = y := by
  cases x; cases y; simp only [Group.mk.injEq]
  exact ⟨h0, h1, h2, h3, h4, h5, h6, h7, h8, h9, h10, h11, h12, h13, h14, h15, h16, h17, h18, h19, h20, h21, h22, h23, h24, h25, h26, h27, h28, h29, h30, h31, h32, h33, h34, h35, h36⟩

/-- Two values of a structure that agree in every field are equal. -/
theorem state_eq {x y : State} (h0 : x.now = y.now) (h1 : x.agenda = y.agenda) (h2 : x.focus = y.focus) (h3 : x.nextId = y.nextId) (h4 : x.nextSeq = y.nextSeq) (h5 : x.draws = y.draws) (h6 : x.scratch = y.scratch) (h7 : x.main = y.main) (h8 : x.hostMem = y.hostMem) (h9 : x.groups = y.groups) (h10 : x.teams = y.teams) (h11 : x.grids = y.grids) (h12 : x.tenants = y.tenants) (h13 : x.partitions = y.partitions) (h14 : x.congestion = y.congestion) (h15 : x.coreStart = y.coreStart) (h16 : x.banks = y.banks) (h17 : x.reqs = y.reqs) (h18 : x.owed = y.owed) (h19 : x.sends = y.sends) (h20 : x.returns = y.returns) (h21 : x.keys = y.keys) (h22 : x.procMsgs = y.procMsgs) (h23 : x.copies = y.copies) (h24 : x.arrays = y.arrays) (h25 : x.decoders = y.decoders) (h26 : x.patches = y.patches) (h27 : x.rasters = y.rasters) (h28 : x.faults = y.faults) (h29 : x.cache = y.cache) (h30 : x.xchgs = y.xchgs) (h31 : x.resends = y.resends) (h32 : x.fabric = y.fabric) (h33 : x.links = y.links) (h34 : x.rx = y.rx) (h35 : x.parts = y.parts) (h36 : x.remotes = y.remotes) (h37 : x.fetched = y.fetched) (h38 : x.saved = y.saved) (h39 : x.images = y.images) (h40 : x.cxops = y.cxops) (h41 : x.hostReplies = y.hostReplies) (h42 : x.rrTenant = y.rrTenant) (h43 : x.boot = y.boot) (h44 : x.measure = y.measure) (h45 : x.firmware = y.firmware) (h46 : x.partDigest = y.partDigest) (h47 : x.boots = y.boots) (h48 : x.revoked = y.revoked) (h49 : x.sram = y.sram) (h50 : x.entry = y.entry) (h51 : x.reports = y.reports) (h52 : x.mailbox = y.mailbox) (h53 : x.powerLimit = y.powerLimit) (h54 : x.clockMHz = y.clockMHz) (h55 : x.sampled = y.sampled) (h56 : x.coolSince = y.coolSince) (h57 : x.powerRead = y.powerRead) (h58 : x.forkAreas = y.forkAreas) (h59 : x.diesInReset = y.diesInReset) (h60 : x.ucieUp = y.ucieUp) (h61 : x.corrected = y.corrected) (h62 : x.variant = y.variant) : x = y := by
  cases x; cases y; simp only [State.mk.injEq]
  exact ⟨h0, h1, h2, h3, h4, h5, h6, h7, h8, h9, h10, h11, h12, h13, h14, h15, h16, h17, h18, h19, h20, h21, h22, h23, h24, h25, h26, h27, h28, h29, h30, h31, h32, h33, h34, h35, h36, h37, h38, h39, h40, h41, h42, h43, h44, h45, h46, h47, h48, h49, h50, h51, h52, h53, h54, h55, h56, h57, h58, h59, h60, h61, h62⟩

end Sys2Proof.Machine
end

