-- ==== Sys2Proof/Laws/Registers.lean ====
section
/-! SUPPORT. Laws of register reads and writes, and of issuing an instruction. -/

namespace Sys2Proof.Machine

open Sys2Proof

/-! ## The issuing slot -/

theorem issuer_group {s : State} {i : Iss} (h : issuer s = some i) : tfind s.groups i.gid = some i.g := by
  unfold issuer at h
  split at h
  · cases h
  · split at h
    · cases h
    · split at h
      · cases h
      · cases h; assumption

theorem issuer_slot {s : State} {i : Iss} (h : issuer s = some i) : slotOf i.g i.n = some i.slot := by
  unfold issuer at h
  split at h
  · cases h
  · split at h
    · cases h
    · split at h
      · cases h
      · cases h; assumption

theorem issuer_lt {s : State} {i : Iss} (h : issuer s = some i) : i.n < 2 := slotOf_lt (issuer_slot h)

/-- An instruction whose conditions hold has its effect. -/
theorem issueG_executes {s : State} {i : Iss} {uf : Group → Uses} {p : MCode} {k : Iss → State}
    (h : Executes s i (uf i.g)) : issueG s uf p k = .next (k i) := by
  unfold issueG
  rw [h.issuing]
  simp only
  rw [if_neg (by simp [h.free]), h.passes]

theorem issue_executes {s : State} {i : Iss} {u : Uses} {p : MCode} {k : Iss → State} (h : Executes s i u) :
    issue s u p k = .next (k i) := issueG_executes h

/-- A group that is replaced where it stands and then leaves its slot. -/
theorem done_eq {s : State} {i : Iss} {g : Group} (h : tfind s.groups i.gid = some g) :
    done s i = putGroup s i.gid (pastG s.now i g) := by
  simp [done, updGroup, h]

theorem pastG_advanced {now : Nat} {i : Iss} {g : Group} {k : Codes} (hn : i.n < 2)
    (h : slotOf g i.n = some (i.slot.withCodes k)) (ho : slotOf g (1 - i.n) = slotOf i.g (1 - i.n)) :
    i.advanced now (pastG now i g) k := by
  unfold Iss.advanced pastG
  rw [h, slotOf_setSlot hn, slotOf_setSlot hn, if_pos rfl, if_neg (by omega), ← ho]
  refine ⟨rfl, ?_⟩
  unfold slotOf
  split <;> rfl

@[simp] theorem Slot.withCodes_self (sl : Slot) : sl.withCodes sl.path.codes = sl := rfl

/-! ## Register writes -/

/-- Where an element of a register code stands in `vregs`. -/
theorem vBase_vName_inj {g : Group} {c c' l l' : Nat} (h : l < 32) (h' : l' < 32) :
    vBase (vName g c) + l = vBase (vName g c') + l' ↔ c = c' ∧ l = l' := by
  unfold vName
  split <;> split <;> simp only [vBase] <;> omega

theorem mem_laneWrites {g : Group} {c l n x : Nat} {w : RegWrite} :
    w ∈ laneWrites g c l n x ↔ ∃ k, k < n ∧ w = .lane (vName g (c + k)) l (BitVec.ofNat 32 (x / 2 ^ (32 * k))) := by
  induction n generalizing c x with
  | zero => simp [laneWrites]
  | succ n ih =>
    rw [laneWrites, List.mem_cons, ih]
    constructor
    · rintro (h | ⟨k, hk, h⟩)
      · exact ⟨0, by omega, by simpa using h⟩
      · refine ⟨k + 1, by omega, ?_⟩
        rw [h, Nat.div_div_eq_div_mul, ← pow_add, show c + 1 + k = c + (k + 1) by omega, show 32 + 32 * k = 32 * (k + 1) by omega]
    · rintro ⟨k, hk, h⟩
      cases k with
      | zero => exact .inl (by simpa using h)
      | succ k =>
        refine .inr ⟨k, by omega, ?_⟩
        rw [h, Nat.div_div_eq_div_mul, ← pow_add, show c + 1 + k = c + (k + 1) by omega, show 32 + 32 * k = 32 * (k + 1) by omega]

/-- An element that no write names keeps its value. -/
theorem applyWrites_vregs_kept {g : Group} {ws : List RegWrite} {x : Nat}
    (h : ∀ r l y, RegWrite.lane r l y ∈ ws → vBase r + l ≠ x) : tget 0 (applyWrites g ws).vregs x = tget 0 g.vregs x := by
  unfold applyWrites
  induction ws generalizing g with
  | nil => rfl
  | cons w ws ih =>
    rw [List.foldl_cons, ih fun r l y hm => h r l y (List.mem_cons_of_mem _ hm)]
    cases w with
    | lane r l y =>
      have := h r l y List.mem_cons_self
      simp only [applyWrite]
      exact tget_tset_other _ _ _ _ (Ne.symm this)
    | k n y => rfl
    | bank n y => rfl
    | mask n y => simp only [applyWrite]; split <;> rfl
    | maskLane n l b => simp only [applyWrite]; split <;> rfl

/-- An element all of whose writes agree holds what they write. -/
theorem applyWrites_vregs_set {g : Group} {ws : List RegWrite} {x : Nat} {v : W32}
    (hm : ∃ r l, RegWrite.lane r l v ∈ ws ∧ vBase r + l = x)
    (h : ∀ r l y, RegWrite.lane r l y ∈ ws → vBase r + l = x → y = v) : tget 0 (applyWrites g ws).vregs x = v := by
  unfold applyWrites
  induction ws generalizing g with
  | nil => obtain ⟨_, _, hm, _⟩ := hm; cases hm
  | cons w ws ih =>
    rw [List.foldl_cons]
    by_cases hin : ∃ r l, RegWrite.lane r l v ∈ ws ∧ vBase r + l = x
    · exact ih hin fun r l y hy => h r l y (List.mem_cons_of_mem _ hy)
    · obtain ⟨r, l, hrl, rfl⟩ := hm
      rcases List.mem_cons.1 hrl with rfl | hrl
      · have hk := applyWrites_vregs_kept (g := applyWrite g (.lane r l v)) (ws := ws) (x := vBase r + l)
          fun r' l' y hy he => hin ⟨r', l', h r' l' y (List.mem_cons_of_mem _ hy) he ▸ hy, he⟩
        unfold applyWrites at hk
        rw [hk]
        simp [applyWrite]
      · exact absurd ⟨r, l, hrl, rfl⟩ hin

/-- Scalars and the trap bank change only by writes to them. -/
theorem applyWrites_kregs_kept {g : Group} {ws : List RegWrite} (h : ∀ n y, RegWrite.k n y ∉ ws) :
    (applyWrites g ws).kregs = g.kregs := by
  unfold applyWrites
  induction ws generalizing g with
  | nil => rfl
  | cons w ws ih =>
    rw [List.foldl_cons, ih fun n y hm => h n y (List.mem_cons_of_mem _ hm)]
    cases w with
    | k n y => exact absurd List.mem_cons_self (h n y)
    | lane r l y => rfl
    | bank n y => rfl
    | mask n y => simp only [applyWrite]; split <;> rfl
    | maskLane n l b => simp only [applyWrite]; split <;> rfl

theorem applyWrites_handler_kept {g : Group} {ws : List RegWrite} (h : ∀ n y, RegWrite.bank n y ∉ ws) :
    (applyWrites g ws).handler = g.handler := by
  unfold applyWrites
  induction ws generalizing g with
  | nil => rfl
  | cons w ws ih =>
    rw [List.foldl_cons, ih fun n y hm => h n y (List.mem_cons_of_mem _ hm)]
    cases w with
    | bank n y => exact absurd List.mem_cons_self (h n y)
    | lane r l y => rfl
    | k n y => rfl
    | mask n y => simp only [applyWrite]; split <;> rfl
    | maskLane n l b => simp only [applyWrite]; split <;> rfl

theorem applyWrites_mregs_kept {g : Group} {ws : List RegWrite} (h : ∀ n y, RegWrite.mask n y ∉ ws)
    (h' : ∀ n l b, RegWrite.maskLane n l b ∉ ws) : (applyWrites g ws).mregs = g.mregs := by
  unfold applyWrites
  induction ws generalizing g with
  | nil => rfl
  | cons w ws ih =>
    rw [List.foldl_cons, ih (fun n y hm => h n y (List.mem_cons_of_mem _ hm)) fun n l b hm => h' n l b (List.mem_cons_of_mem _ hm)]
    cases w with
    | mask n y => exact absurd List.mem_cons_self (h n y)
    | maskLane n l b => exact absurd List.mem_cons_self (h' n l b)
    | lane r l y => rfl
    | k n y => rfl
    | bank n y => rfl

theorem applyWrites_vregs_same {g : Group} {ws : List RegWrite} (h : ∀ r l y, RegWrite.lane r l y ∉ ws) :
    (applyWrites g ws).vregs = g.vregs := by
  unfold applyWrites
  induction ws generalizing g with
  | nil => rfl
  | cons w ws ih =>
    rw [List.foldl_cons, ih fun r l y hm => h r l y (List.mem_cons_of_mem _ hm)]
    cases w with
    | lane r l y => exact absurd List.mem_cons_self (h r l y)
    | k n y => rfl
    | bank n y => rfl
    | mask n y => simp only [applyWrite]; split <;> rfl
    | maskLane n l b => simp only [applyWrite]; split <;> rfl

/-- A span of registers whose elements hold the words of a number reads as the number. -/
theorem vSpan_eq {g : Group} {c l n x : Nat} (h : ∀ k, k < n → vGet g (vName g (c + k)) l = BitVec.ofNat 32 (x / 2 ^ (32 * k))) :
    vSpan g c l n = x % 2 ^ (32 * n) := by
  induction n generalizing c x with
  | zero => simp [vSpan, Nat.mod_one]
  | succ n ih =>
    have h0 := h 0 (by omega)
    rw [vSpan, ih (c := c + 1) (x := x / 2 ^ 32) fun k hk => by
      rw [Nat.div_div_eq_div_mul, ← pow_add, show c + 1 + k = c + (k + 1) by omega, show 32 + 32 * k = 32 * (k + 1) by omega]
      exact h (k + 1) (by omega)]
    simp only [Nat.add_zero, Nat.mul_zero, pow_zero, Nat.div_one] at h0
    rw [h0, show 32 * (n + 1) = 32 + 32 * n by ring, pow_add, Nat.mod_mul]
    simp

/-! ## Scalars and masks -/

theorem kGet_kWrite {g : Group} {d c : Nat} {x : W64} (hc : c < 160) (hd : d < 160) :
    kGet (applyWrite g (kWrite g d x)) c = if c = d then x else kGet g c := by
  unfold kWrite kGet
  cases hh : g.handler with
  | none => simp [applyWrite, hh, tget_tset]
  | some h =>
    by_cases hb : 152 ≤ d
    · simp only [Option.isSome_some, hb, decide_true, Bool.and_self, if_true, applyWrite, hh, Option.map_some]
      by_cases h2 : 152 ≤ c
      · rw [if_pos h2, if_pos h2]
        by_cases h3 : c = d
        · subst c
          rw [if_pos rfl]
          simp [bankSet, upto, show d - 152 < 8 by omega]
        · rw [if_neg h3]
          simp [bankSet, upto, show c - 152 < 8 by omega, show c - 152 ≠ d - 152 by omega]
      · rw [if_neg h2, if_neg h2, if_neg (by omega)]
    · simp only [Option.isSome_some, hb, decide_false, Bool.and_false, Bool.false_eq_true, if_false, applyWrite, hh]
      by_cases h2 : 152 ≤ c
      · rw [if_pos h2, if_neg (by omega), if_pos h2]
      · rw [if_neg h2, tget_tset, if_neg h2]

theorem laneIn_setLane (m : W32) {l x : Nat} (b : Bool) (hx : x < 32) :
    laneIn (setLane m l b) x = if x = l then b else laneIn m x := by
  have h2 : (BitVec.ofNat 32 (2 ^ l)).getLsbD x = decide (l = x) := by
    rw [BitVec.getLsbD_ofNat, Nat.testBit_two_pow]; simp [hx]
  unfold laneIn setLane
  generalize BitVec.ofNat 32 (2 ^ l) = u at h2
  by_cases h : x = l
  · subst x; cases b <;> simp_all
  · have h3 : ¬ l = x := fun e => h e.symm
    cases b <;> simp_all

/-! ## The lanes of a mask -/

theorem mem_lanesOf {m : W32} {l : Nat} : l ∈ lanesOf m ↔ l < 32 ∧ laneIn m l = true := by
  simp [lanesOf, lanes]

theorem lanesOf_nodup (m : W32) : (lanesOf m).Nodup := List.nodup_range.filter _

end Sys2Proof.Machine
end

