-- ==== Sys2Proof/Laws/Issue.lean ====
section
/-! SUPPORT. Everything that issuing an instruction can come to, and the shared operations of the FALU and the SALU. -/

namespace Sys2Proof.Machine

open Sys2Proof

/-! ## Issuing -/

/-- All that issuing can answer: no slot issues; the slot waits; an operand traps; the instruction has its effect. -/
theorem issueG_cases (s : State) (uf : Group → Uses) (p : MCode) (k : Iss → State) :
    (issuer s = none ∧ issueG s uf p k = .fault .noIssuer) ∨ ∃ i, issuer s = some i ∧
      (((heldBack i.g i.n || isFrozen s i.g || stalls s i (uf i.g) || waitsForPipe s i) = true ∧ issueG s uf p k = .next s) ∨
        (∃ code, (heldBack i.g i.n || isFrozen s i.g || stalls s i (uf i.g) || waitsForPipe s i) = false ∧
          checkUses i.cl.hdr i.g (isSupervisor s i.g) (uf i.g) = some code ∧ issueG s uf p k = .next (raise s i code p)) ∨
        (Executes s i (uf i.g) ∧ issueG s uf p k = .next (k i))) := by
  cases hi : issuer s with
  | none => exact .inl ⟨rfl, by simp only [issueG, hi]⟩
  | some i =>
    refine .inr ⟨i, rfl, ?_⟩
    cases hw : heldBack i.g i.n || isFrozen s i.g || stalls s i (uf i.g) || waitsForPipe s i with
    | true => exact .inl ⟨rfl, by simp only [issueG, hi, hw, if_true]⟩
    | false =>
      cases hc : checkUses i.cl.hdr i.g (isSupervisor s i.g) (uf i.g) with
      | some code => exact .inr (.inl ⟨code, rfl, rfl, by simp [issueG, hi, hw, hc]⟩)
      | none => exact .inr (.inr ⟨⟨hi, hw, hc⟩, issueG_executes ⟨hi, hw, hc⟩⟩)

/-- An instruction that must wait leaves the state as it is. -/
theorem issueG_waits {s : State} {i : Iss} {uf : Group → Uses} {p : MCode} {k : Iss → State} (hi : issuer s = some i)
    (hw : (heldBack i.g i.n || isFrozen s i.g || stalls s i (uf i.g) || waitsForPipe s i) = true) : issueG s uf p k = .next s := by
  simp only [issueG, hi, hw, if_true]

/-- An instruction whose operands fail a check traps. -/
theorem issueG_traps {s : State} {i : Iss} {uf : Group → Uses} {p : MCode} {k : Iss → State} {code : Nat} (hi : issuer s = some i)
    (hw : (heldBack i.g i.n || isFrozen s i.g || stalls s i (uf i.g) || waitsForPipe s i) = false)
    (hc : checkUses i.cl.hdr i.g (isSupervisor s i.g) (uf i.g) = some code) : issueG s uf p k = .next (raise s i code p) := by
  simp [issueG, hi, hw, hc]

/-- With an issuing slot, issuing answers a next state. -/
theorem issueG_next {s : State} {i : Iss} (uf : Group → Uses) (p : MCode) (k : Iss → State) (hi : issuer s = some i) :
    ∃ t, issueG s uf p k = .next t := by
  obtain ⟨h, _⟩ | ⟨_, _, h⟩ := issueG_cases s uf p k
  · simp [hi] at h
  · obtain ⟨_, h⟩ | ⟨_, _, _, h⟩ | ⟨_, h⟩ := h <;> exact ⟨_, h⟩

/-- A property that the present state, every trap and the effect have is one that the outcome of issuing has. -/
theorem issueG_keeps {P : State → Prop} {s t : State} {uf : Group → Uses} {p : MCode} {k : Iss → State}
    (h : issueG s uf p k = .next t) (hs : P s) (hr : ∀ i code, issuer s = some i → P (raise s i code p))
    (hk : ∀ i, Executes s i (uf i.g) → P (k i)) : P t := by
  obtain ⟨_, e⟩ | ⟨i, hi, ⟨_, e⟩ | ⟨code, _, _, e⟩ | ⟨x, e⟩⟩ := issueG_cases s uf p k
  · rw [e] at h; cases h
  · rw [e] at h; cases h; exact hs
  · rw [e] at h; cases h; exact hr i code hi
  · rw [e] at h; cases h; exact hk i x

/-! ## A turn (R34, R171) -/

/-- When the other slot makes a slot stall. -/
theorem siblingExceeds_iff (s : State) (i : Iss) :
    siblingExceeds s i = true ↔ i.cl.hdr.cls.limited = true ∧ heldBack i.g (1 - i.n) = false ∧
      ∃ sl c, slotOf i.g (1 - i.n) = some sl ∧ sl.clause = some c ∧ firstExceeds s { i with n := 1 - i.n, slot := sl, cl := c } = true := by
  unfold siblingExceeds
  cases h : slotOf i.g (1 - i.n) with
  | none => simp
  | some sl => cases h' : sl.clause <;> simp [h', and_assoc]

/-- All that an issue can come to: no slot issues, it stalls with the other, or the dies are held in reset; the word's instruction is executed; the word traps,
or waits to. -/
theorem issueTurn_cases (s : State) :
    issueTurn s = .next s ∨ ∃ i, issuer s = some i ∧ siblingExceeds s i = false ∧
      ((∃ ins, checkWord i.cl.hdr.cls i.word = .ok ins ∧ issueTurn s = exec ins s) ∨
        ∃ code, checkWord i.cl.hdr.cls i.word = .error code ∧ issueTurn s = .next (raise s i code)) := by
  unfold issueTurn
  cases hi : issuer s with
  | none => exact .inl rfl
  | some i =>
    cases hs : siblingExceeds s i with
    | true => exact .inl (by simp [hs])
    | false =>
      cases hm : moduleUp s with
      | false => exact .inl (by simp)
      | true =>
        cases hw : checkWord i.cl.hdr.cls i.word with
        | ok ins => exact .inr ⟨i, rfl, hs, .inl ⟨ins, hw, by simp [hs, hw]⟩⟩
        | error code =>
          by_cases h : (heldBack i.g i.n || isFrozen s i.g || waitsForPipe s i) = true
          · exact .inl (by simp [hs, hw, h])
          · exact .inr ⟨i, rfl, hs, .inr ⟨code, hw, by simp [hs, hw, h]⟩⟩

/-! ## The SALU and the FALU -/

/-- A SALU instruction completes: its writes are made, its codes set where cc is, and the slot goes past it. -/
theorem salu_executes {s : State} {i : Iss} {u : Uses} {cc : Bool} {f : Iss → List RegWrite × Codes} (h : Executes s i u) :
    salu s u cc f = .next (putGroup s i.gid (pastG s.now i (if cc then
      setSlot (applyWrites i.g (f i).1) i.n ((slotOf (applyWrites i.g (f i).1) i.n).map fun sl => sl.withCodes (f i).2)
      else applyWrites i.g (f i).1))) := by
  rw [salu, issue_executes h]; rfl

/-- A FALU instruction completes: each active lane's writes are made, its flags are raised, and the slot goes past it. -/
theorem falu_executes {s : State} {i : Iss} {u : Uses} {p : MCode} {f : Iss → Nat → List RegWrite × FFlags}
    (h : Executes s i { u with ms := p.toNat :: u.ms }) :
    falu s u p f = .next (putGroup s i.gid (pastG s.now i { applyWrites i.g
        (((lanesOf (i.active p)).map (f i)).flatMap fun r => r.1) with
      fflags := ((lanesOf (i.active p)).map (f i)).foldl (fun x r => x ||| r.2)
        (applyWrites i.g (((lanesOf (i.active p)).map (f i)).flatMap fun r => r.1)).fflags })) := by
  rw [falu, issue_executes h]; rfl

/-- A mask operation completes with its mask written. -/
theorem maskOp_executes {s : State} {i : Iss} {md : MCode} {srcs : List MCode} {cc : Bool} {f : Iss → W32}
    (h : Executes s i { ms := srcs.map fun m => m.toNat, mdst := [md.toNat] }) :
    ∃ t, maskOp s md srcs cc f = .next t := ⟨_, salu_executes h⟩

end Sys2Proof.Machine
end

