-- ==== Sys2Proof/Laws/Memory.lean ====
section
/-! SUPPORT. Reads and writes of a space: what was written is read, every other byte is as it was, and every byte memory keeps
its canonical form. -/

namespace Sys2Proof.Machine

open Sys2Proof

/-- A space takes a write there: a team's T-space needs its team, and no registered barrier's record (R174). -/
def takesWrite (s : State) (a n : Nat) : Space → Bool
  | .t tm => match tfind s.teams tm with
    | some t => !(t.inBarrier a n)
    | none => false
  | _ => true

/-- What was written to a space is read there. -/
theorem readSpace_writeSpace {s : State} {sp : Space} (a n x : Nat) (h : takesWrite s a n sp = true) :
    readSpace (writeSpace s sp a n x) sp a n = x % 256 ^ n := by
  cases sp with
  | t tm =>
    cases ht : tfind s.teams tm with
    | none => simp [takesWrite, ht] at h
    | some t =>
      have hb : t.inBarrier a n = false := by simpa [takesWrite, ht] using h
      simp [readSpace, writeSpace, updTeam, ht, tfind_tput_self, readNat_writeNat, hb]
  | d => exact readNat_writeNat ..
  | m => exact readNat_writeNat ..
  | host => exact readNat_writeNat ..

/-- A write to a space leaves every byte outside it as it was. -/
theorem byteOf_writeSpace_outside (s : State) (sp : Space) (a n x : Nat) {q : Space} {b : Nat} (h : q ≠ sp ∨ b < a ∨ a + n ≤ b) :
    byteOf (writeSpace s sp a n x) q b = byteOf s q b := by
  have hr : ∀ m : Mem, q = sp → readByte (writeNat m a n x) b = readByte m b := fun m e =>
    readByte_writeNat_outside m a n x (h.resolve_left fun k => k e)
  cases sp with
  | t tm =>
    cases ht : tfind s.teams tm with
    | none => simp [writeSpace, updTeam, ht]
    | some t =>
      cases q with
      | t u =>
        by_cases hu : u = tm
        · subst hu
          cases hb : t.inBarrier a n <;> simp [byteOf, writeSpace, updTeam, ht, tfind_tput_self, hb, hr t.tmem rfl]
        · simp [byteOf, writeSpace, updTeam, ht, tfind_tput_other _ _ _ hu]
      | _ => simp [byteOf, writeSpace, updTeam, ht]
  | d => cases q <;> first | rfl | exact hr _ rfl
  | m => cases q <;> first | rfl | exact hr _ rfl
  | host => cases q <;> first | rfl | exact hr _ rfl

/-- Stores in a row keep the canonical form, and a byte outside each of them. -/
theorem foldl_writeBytes {α : Type} (f : α → Nat) (g : α → Bytes) : ∀ (ps : List α) (m : Mem),
    (Memory.wf m = true → Memory.wf (ps.foldl (fun m p => writeBytes m (f p) (g p)) m) = true) ∧
    ∀ b, (∀ p, p ∈ ps → b < f p ∨ f p + (g p).length ≤ b) → readByte (ps.foldl (fun m p => writeBytes m (f p) (g p)) m) b = readByte m b
  | [], _ => ⟨id, fun _ _ => rfl⟩
  | p :: ps, m =>
    have ih := foldl_writeBytes f g ps (writeBytes m (f p) (g p))
    ⟨fun h => ih.1 (wf_writeBytes _ _ _ h), fun b h => (ih.2 b fun q hq => h q (List.mem_cons_of_mem _ hq)).trans
      (readByte_writeBytes_outside _ _ _ (h p List.mem_cons_self))⟩

/-- The areas that layAreas lays write nothing but their own 4 KiB, and nothing else of the state but the list of areas differs. -/
theorem layAreas_frame (s : State) (a n : Nat) : ∃ m x, layAreas s a n = { s with
      scratch := m
      forkAreas := x } ∧
    (Memory.wf s.scratch = true → Memory.wf m = true) ∧
    ∀ b, (∀ p, p ∈ s.forkAreas → ¬ (p.1 ≤ b ∧ b < p.1 + 4096)) → readByte m b = readByte s.scratch b := by
  have h := foldl_writeBytes (fun p : Nat × List JoinRecord × List StackEntry => p.1)
    (fun p => (upto 4096).map (Config.divergenceByte p.2.1 p.2.2))
    (s.forkAreas.filter fun p => decide (p.1 < a + n) && decide (a < p.1 + 4096)) s.scratch
  refine ⟨_, _, rfl, h.1, fun b hb => h.2 b fun p hp => ?_⟩
  have := hb p (List.mem_of_mem_filter hp)
  rw [List.length_map, upto, List.length_range]
  omega

/-- A team replaced by one with a canonical memory. -/
theorem teamsCanonical_tput {ts : SMap Team} {k : Nat} {t : Team} (h : teamsCanonical ts = true) (ht : Memory.wf t.tmem = true) :
    teamsCanonical (tput ts k t) = true := by
  rw [teamsCanonical, List.all_eq_true] at *
  intro p hp
  obtain rfl | hm := mem_tput hp
  · exact ht
  · exact h p hm

theorem teamsCanonical_tfind {ts : SMap Team} {k : Nat} {t : Team} (h : teamsCanonical ts = true) (ht : tfind ts k = some t) :
    Memory.wf t.tmem = true := by
  rw [teamsCanonical, List.all_eq_true] at h
  induction ts with
  | nil => cases ht
  | cons p ts ih =>
    simp only [tfind] at ht
    split at ht
    · cases ht; exact h p List.mem_cons_self
    · exact ih (fun q hq => h q (List.mem_cons_of_mem _ hq)) ht

/-- Writing to a space keeps every byte memory in its canonical form. -/
theorem canonical_writeSpace {s : State} (sp : Space) (a n x : Nat) (h : s.canonical = true) :
    (writeSpace s sp a n x).canonical = true := by
  simp only [State.canonical, Bool.and_eq_true] at h
  obtain ⟨⟨⟨⟨⟨h1, h2⟩, h3⟩, h4⟩, h5⟩, h6⟩ := h
  cases sp with
  | t tm =>
    cases ht : tfind s.teams tm with
    | none => simp [writeSpace, updTeam, ht, State.canonical, h1, h2, h3, h4, h5, h6]
    | some t =>
      have hc := teamsCanonical_tfind h4 ht
      cases hb : t.inBarrier a n with
      | true => simp [writeSpace, updTeam, ht, hb, State.canonical, h1, h2, h3, teamsCanonical_tput h4 hc, h5, h6]
      | false =>
        have hw := teamsCanonical_tput (k := tm) (t := { t with tmem := writeNat t.tmem a n x }) h4 (wf_writeNat _ _ _ _ hc)
        simp [writeSpace, updTeam, ht, hb, State.canonical, h1, h2, h3, hw, h5, h6]
  | d => simp [writeSpace, State.canonical, wf_writeNat _ _ _ _ h1, h2, h3, h4, h5, h6]
  | m => simp [writeSpace, State.canonical, h1, wf_writeNat _ _ _ _ h2, h3, h4, h5, h6]
  | host => simp [writeSpace, State.canonical, h1, h2, wf_writeNat _ _ _ _ h3, h4, h5, h6]

/-! ## Plain writes, and the steps of engines -/

@[simp] theorem byteOf_reread (s : State) (port : Bool) (a n : Nat) (sp : Space) (b : Nat) :
    byteOf (reread s port a n) sp b = byteOf s sp b := by cases sp <;> rfl

@[simp] theorem byteOf_wroteMain (s : State) (port : Bool) (a n : Nat) (sp : Space) (b : Nat) :
    byteOf (wroteMain s port a n) sp b = byteOf s sp b := by cases port <;> cases sp <;> rfl

@[simp] theorem canonical_reread (s : State) (port : Bool) (a n : Nat) : (reread s port a n).canonical = s.canonical := rfl

@[simp] theorem canonical_wroteMain (s : State) (port : Bool) (a n : Nat) : (wroteMain s port a n).canonical = s.canonical := by
  cases port <;> rfl

/-- A plain write stores what a write to its space stores. -/
theorem byteOf_storePlain (s : State) (port : Bool) (sp : Space) (a n x : Nat) (q : Space) (b : Nat) :
    byteOf (storePlain s port sp a n x) q b = byteOf (writeSpace s sp a n x) q b := by
  cases sp <;> simp [storePlain]

theorem canonical_storePlain {s : State} (port : Bool) (sp : Space) (a n x : Nat) (h : s.canonical = true) :
    (storePlain s port sp a n x).canonical = true := by
  have := canonical_writeSpace sp a n x h
  cases sp <;> simpa [storePlain] using this

/-- What banks have served changes when each serves next, and nothing else. -/
theorem serveBanks_frame (s : State) (port : Nat) (bs : List Nat) : ∃ x, serveBanks s port bs = { s with banks := x } := by
  induction bs generalizing s with
  | nil => exact ⟨s.banks, rfl⟩
  | cons b bs ih =>
    obtain ⟨x, hx⟩ := ih { s with
      banks := tput s.banks b (port, max s.now (((tfind s.banks b).map fun x => x.2 + 1).getD 0)) }
    exact ⟨x, by simpa [serveBanks] using hx⟩

/-- All that an engine's step can come to: it waits for its banks, or it is made once they have served it. -/
theorem engineTurn_cases (s : State) (port : Nat) (ps : List (Space × Nat)) (k : State → State) :
    (banksServe s port (banksAt ps) = false ∧ engineTurn s port ps k = s) ∨
      (banksServe s port (banksAt ps) = true ∧ ∃ x, engineTurn s port ps k = k { s with banks := x }) := by
  unfold engineTurn
  cases h : banksServe s port (banksAt ps) with
  | false => exact .inl ⟨rfl, rfl⟩
  | true =>
    obtain ⟨x, hx⟩ := serveBanks_frame s port (banksAt ps)
    exact .inr ⟨rfl, x, by simp [hx]⟩

/-- The memories of the module after reset are in canonical form. -/
theorem wf_reset : Memory.wf State.reset.scratch = true ∧ Memory.wf State.reset.main = true ∧ Memory.wf State.reset.hostMem = true := by
  decide

end Sys2Proof.Machine
end

