-- ==== Sys2Proof/Laws/Valu.lean ====
section
/-! SUPPORT. What the shared operations of the VALU and the SALU do, once for all their instructions. -/

namespace Sys2Proof.Machine

open Sys2Proof

/-- A VALU instruction completes: its active lanes' writes are made, and the slot goes past it. -/
theorem valu_executes {s : State} {i : Iss} {u : Uses} {p : MCode} {f : Iss → Nat → List RegWrite}
    (h : Executes s i { u with ms := p.toNat :: u.ms }) :
    valu s u p f = .next (putGroup s i.gid (pastG s.now i (applyWrites i.g ((lanesOf (i.active p)).flatMap (f i))))) := by
  rw [valu, issue_executes h]; rfl

/-- The frame of a group whose slot goes past an instruction that writes vector elements only. -/
theorem lanes_effect {s : State} {i : Iss} {ws : List RegWrite} {vs : Nat → Prop} (hi : issuer s = some i)
    (hw : ∀ w, w ∈ ws → ∃ r l y, w = .lane r l y ∧ vs (vBase r + l)) :
    RegisterEffect s i (pastG s.now i (applyWrites i.g ws)) vs nowhere nowhere i.slot.path.codes i.g.fflags := by
  have hk : (applyWrites i.g ws).kregs = i.g.kregs :=
    applyWrites_kregs_kept fun n y hm => by obtain ⟨_, _, _, h, _⟩ := hw _ hm; cases h
  have hh : (applyWrites i.g ws).handler = i.g.handler :=
    applyWrites_handler_kept fun n y hm => by obtain ⟨_, _, _, h, _⟩ := hw _ hm; cases h
  have hm : (applyWrites i.g ws).mregs = i.g.mregs :=
    applyWrites_mregs_kept (fun n y hm => by obtain ⟨_, _, _, h, _⟩ := hw _ hm; cases h)
      fun n l b hm => by obtain ⟨_, _, _, h, _⟩ := hw _ hm; cases h
  have hs : ∀ n, slotOf (applyWrites i.g ws) n = slotOf i.g n := by
    intro n; unfold slotOf; split <;> simp
  exact
    { vector := fun x hx => by
        rw [pastG_vregs]
        exact applyWrites_vregs_kept fun r l y hm he => by
          obtain ⟨_, _, _, h, hv⟩ := hw _ hm
          cases h; exact hx (he ▸ hv)
      scalar := fun c _ _ => by simp [kGet, hk, hh]
      hidden := fun _ c _ => by simp [hk]
      mask := fun m _ => by simp [mGet, hm]
      fflags := by simp
      slots := pastG_advanced (issuer_lt hi) (by rw [hs, issuer_slot hi, Slot.withCodes_self]) (hs _)
      handlerSlot := by simp [hh]
      rest := by
        apply group_eq <;> simp }

/-- A VALU instruction that writes n registers from code d in each active lane completes: the destination holds the numbers it
computes, cut to the registers, and the frame holds. -/
theorem valu_lanes {s : State} {i : Iss} {u : Uses} {p : MCode} {d n : Nat} {v : Iss → Nat → Nat}
    (h : Executes s i { u with ms := p.toNat :: u.ms }) :
    ∃ g', valu s u p (fun i l => laneWrites i.g d l n (v i l)) = .next (putGroup s i.gid g') ∧
      (∀ l, l < 32 → laneIn (i.active p) l = true → vSpan g' d l n = v i l % 2 ^ (32 * n)) ∧
      RegisterEffect s i g' (i.elements d n (i.active p)) nowhere nowhere i.slot.path.codes i.g.fflags := by
  refine ⟨_, valu_executes h, fun l hl ha => vSpan_eq fun k hk => ?_, lanes_effect h.issuing fun w hw => ?_⟩
  · have hv : ∀ g c, vGet (pastG s.now i g) (vName (pastG s.now i g) c) l = tget 0 g.vregs (vBase (vName g c) + l) := by
      intro g c; simp [vGet, vName]
    have hn : ∀ c ws, vName (applyWrites i.g ws) c = vName i.g c := by intro c ws; simp [vName]
    rw [hv, hn]
    refine applyWrites_vregs_set ⟨_, l, List.mem_flatMap.2 ⟨l, mem_lanesOf.2 ⟨hl, ha⟩, mem_laneWrites.2 ⟨k, hk, rfl⟩⟩, rfl⟩ ?_
    intro r l' y hm he
    obtain ⟨l'', hl'', hm⟩ := List.mem_flatMap.1 hm
    obtain ⟨k', hk', hm⟩ := mem_laneWrites.1 hm
    cases hm
    have := (vBase_vName_inj (mem_lanesOf.1 hl'').1 hl).1 he
    obtain ⟨h1, rfl⟩ := this
    have : k' = k := by omega
    subst k'; rfl
  · obtain ⟨l, hl, hm⟩ := List.mem_flatMap.1 hw
    obtain ⟨k, hk, rfl⟩ := mem_laneWrites.1 hm
    exact ⟨_, _, _, rfl, l, k, (mem_lanesOf.1 hl).1, (mem_lanesOf.1 hl).2, hk, rfl⟩

end Sys2Proof.Machine
end

