-- ==== Sys2Proof/Tests/Slice0.lean ====
section
/-! SUPPORT. Tests: words decoded, ill-formed terms refused, single steps, and for every statement with hypotheses a state and
operands that meet them. -/

namespace Sys2Proof.Tests

open Sys2Proof Sys2Proof.Machine

/-! ## Words of the manual -/

/-- R55's worked encodings, and those at the entries of VALU instructions (R81, R102, R116, R133, R134). -/
theorem test_words_valu :
    decodeTableWord 64 0x20C0600008082000 = some (.ffma 3#9 0#9 1#9 2#9 0#4 .rne false false false false false) ∧
    decodeTableWord 64 0x12443F800000000A = some (.icmpVi 1#4 .lts 504#9 0#4 10#32) ∧
    decodeTableWord 64 0x0281000020001C03 = some (.iaddcVr 8#9 0#9 4#9 3#4 0#4 .n64) ∧
    decodeTableWord 64 0x2000E020180020A4 = some (.fadd 7#9 2#9 3#9 0#4 .rup true false true false) ∧
    decodeTableWord 64 0x2441204C18002C08 = some (.fcvt 9#9 4#9 387#9 0#4 .e4m3 .f32 .rne) ∧
    decodeTableWord 64 0x08C0800000000000 = some (.elect 4#4 0#4) ∧
    decodeTableWord 64 0x090000000000C000 = some (.retire 3#4) := by decide

/-- R55, R86, R96, R128. -/
theorem test_words_salu :
    decodeTableWord 64 0x5000800800000005 = some (.moviSi 2#8 .s32 false 5#32) ∧
    decodeTableWord 64 0x4000404080080000 = some (.iaddSr 1#8 1#8 2#8 .s32 false false) ∧
    decodeTableWord 64 0x5080808A00000001 = some (.isubSi 2#8 2#8 .s32 true 1#32) ∧
    decodeTableWord 64 0x468100C0003A0000 = some (.ffcsSr 4#8 3#8 true) ∧
    decodeTableWord 64 0x5380000000106440 = some (.rhead 0#9 8#6 100#9 16#6) ∧
    decodeTableWord 64 0x5802000000000000 = some (.bra .ne 0#4 0#32) ∧
    decodeTableWord 64 0x5820400000000004 = some (.bra .mz 2#4 4#32) ∧
    decodeTableWord 64 0x5340000000000020 = some (.frame 32#32) ∧
    decodeTableWord 64 0x58D8206000000006 = some (.fork 6#8 1#4 6#32) ∧
    decodeTableWord 64 0x5940000000000000 = some .exit := by decide

/-- R55, R169, R176, R178. -/
theorem test_words_mem :
    decodeTableWord 64 0x6100A03040801000 = some (.ldd 5#9 3#9 4#8 0#4 .w32 .a 0#12) ∧
    decodeTableWord 64 0x6241404020B19000 = some (.atomD .max 10#9 4#9 2#8 0#4 .w64 .dev .a 0#12) ∧
    decodeTableWord 64 0x6500000030000010 = some (.baraw 3#8 16#12) ∧
    decodeTableWord 64 0x6640000000500000 = some (.fenceRel .dev) := by decide

/-- R198, R202, R206 to R209, R325. -/
theorem test_words_async :
    decodeTableWord 64 0x8000020000060000 = some (.tidset 3#6 8#8 0#12) ∧
    decodeTableWord 64 0x8080820000800002 = some (.copy 2#8 8#8 .a 2#12) ∧
    decodeTableWord 64 0x80C0820186800000 = some (.copyg 2#8 8#8 12#9 3#4 .a 0#12) ∧
    decodeTableWord 64 0x8142400000000000 = some (.cbatch 9#8) ∧
    decodeTableWord 64 0x8180024000000000 = some (.waitb 9#8) ∧
    decodeTableWord 64 0x81C0C20001000001 = some (.route 3#8 8#8 .b 1#12) ∧
    decodeTableWord 64 0x8200C20000800002 = some (.xchg 3#8 8#8 .a 2#12) := by decide

/-- R215, R219, R224. -/
theorem test_words_mtx :
    decodeTableWord 64 0x900001E000000000 = some (.sclaim 0#2 0#4 15#4) ∧
    decodeTableWord 64 0x9094000000000000 = some (.acq 1#2 2#3) ∧
    decodeTableWord 64 0x90C2000000002000 = some (.relFree 0#2 1#3) ∧
    decodeTableWord 64 0x91820003C0004040 = some (.mread 0#2 1#3 30#8 8#9 .a) ∧
    decodeTableWord 64 0x9142030282A27000 = some (.mloop 0#2 1#3 0#4 1#4 8#4 20#8 21#8 2#5 .a true true) ∧
    decodeTableWord 64 0x92000001E1C04000 = some (.mstore 0#2 0#3 15#8 14#8 .a) := by decide

/-- R241, R252. -/
theorem test_words_ray :
    decodeTableWord 64 0xA0050200002A0000 = some (.rinit 40#9 32#9 0#4 5#4 .a) ∧
    decodeTableWord 64 0xA0460281E0020000 = some (.rbox 48#9 40#9 60#9 0#4 .a) ∧
    decodeTableWord 64 0xA0838280A0040200 = some (.rtri 28#9 40#9 20#9 1#2 0#4 .b) ∧
    decodeTableWord 64 0xA20018AC58022A00 = some (.mdec 394#9 395#9 5#6 1#2 0#4 .a) ∧
    decodeTableWord 64 0xA24280C000020200 = some (.tbread 20#9 12#9 1#2 0#4 .a) ∧
    decodeTableWord 64 0xA283D8CC68042800 = some (.mpatch 30#9 396#9 397#9 5#6 0#4 .b) := by decide

/-- R55, R143, R149, R152, R153. -/
theorem test_words_chan :
    decodeTableWord 64 0xB018010000000000 = some (.send 24#6 2#9 0#4) ∧
    decodeTableWord 64 0xB068018200000000 = some (.recv 40#6 3#9 0#4 .a) ∧
    decodeTableWord 64 0xB400189050030000 = some (.oopen 393#9 5#8 true true) ∧
    decodeTableWord 64 0xB482816050640000 = some (.oenterAll 20#9 22#9 5#8 6#4 0#4 .a) ∧
    decodeTableWord 64 0xB502800050000000 = some (.oleave 20#9 5#8 0#4) := by decide

/-- R125, R135, R267, R275 to R278, R283, R295, R309. -/
theorem test_words_sys :
    decodeTableWord 64 0xC400000000070000 = some (.trap 7#8) ∧
    decodeTableWord 64 0xC440000000000000 = some .rett ∧
    decodeTableWord 64 0xC240000000000002 = some (.role 2#2) ∧
    decodeTableWord 64 0xC201C18000000028 = some (.reorder 7#8 6#8 40#9 0#4) ∧
    decodeTableWord 64 0xC001000000000002 = some (.launch 4#8 2#2) ∧
    decodeTableWord 64 0xC041410000000001 = some (.glaunch 5#8 4#8 1#2) ∧
    decodeTableWord 64 0xC142814010000000 = some (.waitg 10#8 5#8 .a) ∧
    decodeTableWord 64 0xC080018013000014 = some (.emit 20#9 6#8 3#4 .a) ∧
    decodeTableWord 64 0xC102024000008003 = some (.signal 8#8 9#8 true 3#11) ∧
    decodeTableWord 64 0xC60282C310000000 = some (.cxsave 10#8 11#8 12#8 .a) ∧
    decodeTableWord 64 0xC68282C010000000 = some (.cxkill 10#8 11#8 .a) := by decide

/-- Words that are no instruction: an opcode that no table assigns, a reserved bit, a type, a width and a scope that the
instruction lacks (R34 steps 1 and 3, R55, R169). -/
theorem test_words_refused :
    decodeTableWord 64 0xD000000000000000 = none ∧ decodeTableWord 64 0x0000000000000001 = none ∧
    decodeTableWord 64 0x5940000000000001 = none ∧ decodeTableWord 64 0x20C0600008085000 = none ∧
    decodeTableWord 64 0x6100A03040E01000 = none ∧ decodeTableWord 64 0xC142814000000000 = none := by decide

/-! ## Ill-formed terms -/

theorem test_wf_types :
    (Instr.iaddVr 0 1 2 0 .f32 false).wf = false ∧ (Instr.iabsVr 0 1 0 .n32).wf = false ∧ (Instr.andVr 0 1 2 0 .s16).wf = false ∧
    (Instr.iaddcVr 0 2 4 1 0 .s8).wf = false ∧ (Instr.plsetVr 0 1 2 3 0 .s32).wf = false ∧ (Instr.fclass 0 1 0 .e4m3).wf = false ∧
    (Instr.movsVr 0 10 0 .b32).wf = false ∧ (Instr.pkfma 0 1 2 3 0 .f32 .rne false false false false false).wf = false := by decide

theorem test_wf_conversions :
    (Instr.fcvt 0 1 0 0 .f32 .f32 .rne).wf = false ∧ (Instr.fcvt 0 1 0 0 .lns6 .f32 .rup).wf = false ∧
    (Instr.fcvt 0 1 2 0 .f16 .f32 .rne).wf = false ∧ (Instr.icvt 0 1 0 .s32 .n32 .rne).wf = false := by decide

theorem test_wf_control :
    (Instr.frame 321).wf = false ∧ (Instr.call 321 0).wf = false ∧ (Instr.rhead 0 20 0 13).wf = false ∧
    (Instr.rhead 1 0 0 0).wf = false ∧ (Instr.bra .eq 1 0).wf = false := by decide

theorem test_wf_memory :
    (Instr.std 0 1 2 0 .s8 0).wf = false ∧ (Instr.atomD .ffcs 0 1 2 0 .w32 .dev .a 0).wf = false ∧
    (Instr.redD .cas 0 1 2 0 .w32 .dev 0).wf = false ∧ (Instr.atomD .add 0 1 2 0 .w32 .team .a 0).wf = false ∧
    (Instr.atomM .add 0 1 2 0   .w32 .team .a 0).wf = false ∧ (Instr.mwait 0 1 2 .s8 .a 0).wf = false := by decide

theorem test_wf_flags :
    (Instr.mloop 0 0 0 1 1 0 1 0 .a false false).wf = false ∧ (Instr.mread 0 0 0 0 .none).wf = false ∧
    (Instr.rbox 0 4 8 0 .none).wf = false ∧ (Instr.emit 0 0 0 .none).wf = false ∧ (Instr.waitg 0 1 .none).wf = false ∧
    (Instr.cxsave 0 1 2 .none).wf = false ∧ (Instr.signal 0 1 false 1).wf = false ∧ (Instr.send 56 0 0).wf = false := by decide

/-! ## Single steps -/

/-- A state whose next step issues a word, its group (number 1) changed first. -/
def st (w : Nat) (h : Group → Group := id) : State := updGroup (State.reset.withFetchWord 64 w) 1 h

/-- The group after the step. -/
def ran (s : State) : Group :=
  match step s with
  | .next t => (tfind t.groups 1).getD (bareGroup 0)
  | _ => bareGroup 0

/-- The group has ended. -/
def ended (s : State) : Bool :=
  match step s with
  | .next t => (tfind t.groups 1).all fun g => !g.live
  | _ => false

/-- A group with scalars, and one with a vector register's lanes. -/
def withK (ks : List (Nat × W64)) (g : Group) : Group := ks.foldl (fun g p => { g with kregs := tset 0 g.kregs p.1 p.2 }) g
def withV (n : Nat) (xs : List W32) (g : Group) : Group :=
  xs.zipIdx.foldl (fun g p => { g with vregs := tset 0 g.vregs (vBase (.v n) + p.2) p.1 }) g

/-- Tenant 0 with a fault log that its tables map. -/
def withLog (s : State) : State :=
  { s with
    tenants := (tfind s.tenants 0).elim s.tenants fun t =>
      tput s.tenants 0 { t with config := { t.config with translationRoot := 0x40000, faultLog := 0x20000 } }
    main := [(0x40000, 0x01), (0x40001, 0x10), (0x40002, 0x04), (0x41000, 0x0F)] }

/-- MOVI.s32 k2, 5 (R91). -/
theorem test_movi : kGet (ran (st 0x5000800800000005)) 2 = 5 := by decide

/-- IADD.s32 k1, k1, k2 wraps to s32 and sign-extends (R56, R57, R80). -/
theorem test_iadd_wraps : kGet (ran (st 0x4000404080080000 (withK [(1, 0x7FFFFFFF), (2, 1)]))) 1 = 0xFFFFFFFF80000000 := by decide

/-- ISUB.s32.cc k2, k2, 1 from 0: N set, a borrow clears C (R78). -/
theorem test_isub_codes :
    ((ran (st 0x5080808A00000001)).slot0.map fun sl => sl.path.codes) = some ⟨false, true, false, false⟩ := by decide

set_option maxRecDepth 20000 in
/-- The first lane of R81's example: all ones + 1 with no carry in gives 0 and carries. -/
theorem test_iaddc_carries :
    mGet (ran (st 0x0281000020001C03 fun g => withV 5 [0] (withV 4 [1] (withV 1 [0xFFFFFFFF] (withV 0 [0xFFFFFFFF] g))))) 3 = 1 := by
  decide

/-- FFCS.cc k4, k3 (R86): the lowest clear bit of 0b0111 is bit 3. -/
theorem test_ffcs : let g := ran (st 0x468100C0003A0000 (withK [(3, 7)]))
    kGet g 4 = 3 ∧ kGet g 3 = 15 := by decide

/-- ELECT m4 with every lane active elects lane 0 (R133). -/
theorem test_elect : mGet (ran (st 0x08C0800000000000)) 4 = 1 := by decide

set_option maxRecDepth 20000 in
/-- TRAP 7 without a handler ends the group (R292, R295). -/
theorem test_trap_kills : ended (withLog (st 0xC400000000070000)) = true := by decide

/-- A word of a field that is reserved raises 0x01, with a handler: the bank's k152 holds the code (R293). -/
theorem test_illegal_traps :
    let s := st 1
    let s := { s with tenants := tput s.tenants 0 { (Tenant.fresh { bareConfig with handler := 0x2000 }) with state := .running } }
    (ran s).handler.isSome = true ∧ (kGet (ran s) 152).extractLsb' 0 8 = 1 := by decide

set_option maxRecDepth 20000 in
/-- LDD.b32 v5, D[k4 + v3] >A outside the windows raises 0x06 in a group without a handler, which ends (R160). -/
theorem test_ldd_outside : ended (withLog (st 0x6100A03040801000)) = true := by decide

/-- The same inside window 0 owes its result under flag A (R24, R166). -/
theorem test_ldd_owes : tget 0 (ran (st 0x6100A03040801000 (withK [(4, 0xB0000)]))).flags 0 = 1 := by decide

/-- CBATCH k9 writes the open batch and opens the next (R207). -/
theorem test_cbatch : (ran (st 0x8142400000000000)).batch = 1 := by decide

/-- SCLAIM x0, o0:16 claims sixteen slots (R212). -/
theorem test_sclaim : (match step (st 0x900001E000000000) with
    | .next t => (arrayGet t 0).slots.length
    | _ => 0) = 16 := by decide

set_option maxRecDepth 20000 in
/-- LAUNCH of a block address of 1 is not 64-aligned: 0x18, and the group ends (R270). -/
theorem test_launch_misaligned : ended (withLog (st 0xC001000000000002 (withK [(4, 1)]))) = true := by decide

/-- EXIT of the only path ends the group (R100). -/
theorem test_exit : ended (st 0x5940000000000000) = true := by decide


/-! ## Witnesses: helpers -/

/-- The issuing slot of a state. -/
def iss (s : State) : Iss := (issuer s).getD ⟨0, 0, bareGroup 0, bareSlot, oneWordClause 0⟩

/-- A group of a state. -/
def grp (s : State) (x : Nat) : Group := (tfind s.groups x).getD (bareGroup 0)

/-- Whether an instruction with the given operand fields executes. -/
def fine (s : State) (u : Uses) : Bool :=
  (issuer s).isSome && !(heldBack (iss s).g (iss s).n || isFrozen s (iss s).g || stalls s (iss s) u || waitsForPipe s (iss s)) &&
    (checkUses (iss s).cl.hdr (iss s).g (isSupervisor s (iss s).g) u).isNone

theorem executes_of {s : State} {u : Uses} (h : fine s u = true) : Executes s (iss s) u := by
  simp only [fine, Bool.and_eq_true, Bool.not_eq_true', Option.isNone_iff_eq_none] at h
  refine ⟨?_, h.1.2, h.2⟩
  have := h.1.1
  unfold iss
  cases hi : issuer s <;> simp_all

/-- A state changed in its group 1, its team 0 or its tenant 0. -/
def withGroup (h : Group → Group) (s : State) : State := updGroup s 1 h
def withTeam (h : Team → Team) (s : State) : State :=
  { s with teams := (tfind s.teams 0).elim s.teams fun t => tput s.teams 0 (h t) }
def withTenant (h : Tenant → Tenant) (s : State) : State :=
  { s with tenants := (tfind s.tenants 0).elim s.tenants fun t => tput s.tenants 0 (h t) }

/-- Tenant 0 with tables that map its first GiB to main memory, to be written and executed. -/
def withPages (s : State) : State :=
  { withTenant (fun t => { t with config := { t.config with translationRoot := 0x40000 } }) s with
    main := [(0x40000, 0x01), (0x40001, 0x10), (0x40002, 0x04), (0x41000, 0x0F)] }

/-- Group 1 with a mask for its path in slot 0. -/
def withPath (m : W32) (g : Group) : Group :=
  { g with slot0 := g.slot0.map fun sl => { sl with path := { sl.path with mask := m } } }

theorem lanes_of {P : Nat → Prop} {m : W32} (q : Nat → Bool) (h : ((List.range 32).all fun l => !laneIn m l || q l) = true)
    (hq : ∀ l, q l = true → P l) : ∀ l, l < 32 → laneIn m l = true → P l := by
  intro l hl hm
  have := List.all_eq_true.mp h l (List.mem_range.mpr hl)
  exact hq l (by simpa [hm] using this)

/-- Whether every byte of an access lies in its space's allocation. -/
def inAlloc (s : State) (g : Group) (sp : LSpace) (write : Bool) (a n : Nat) : Bool :=
  match sp with
  | .l => decide (a + n ≤ g.progArea)
  | .t => (tfind s.teams g.team).any fun t => decide (a + n ≤ t.tPerCore * t.cores.length)
  | .d => (tfind s.teams g.team).any fun t => [a, a + n - 1].all fun b =>
      t.windows.any fun w => decide (w.base ≤ b) && decide (b < w.base + w.size) && (!write || w.write)

theorem allocated_of {s : State} {g : Group} {sp : LSpace} {write : Bool} {a n : Nat} (h : inAlloc s g sp write a n = true) :
    allocated s g sp write a n := by
  cases sp
  · exact of_decide_eq_true (p := a + n ≤ g.progArea) h
  · cases ht : tfind s.teams g.team with
    | none => simp [inAlloc, ht] at h
    | some t => exact ⟨t, ht, by simpa [inAlloc, ht] using h⟩
  · cases ht : tfind s.teams g.team with
    | none => simp [inAlloc, ht] at h
    | some t =>
      refine ⟨t, ht, fun b hb => ?_⟩
      simp only [inAlloc, ht, Option.any_some, List.all_eq_true] at h
      obtain ⟨w, hw, h⟩ := List.any_eq_true.mp (h b (by simpa using hb))
      simp only [Bool.and_eq_true, decide_eq_true_eq, Bool.or_eq_true, Bool.not_eq_true'] at h
      exact ⟨w, hw, h.1.1, h.1.2, fun hw => by simpa [hw] using h.2⟩

/-- A tenant with no almanac. -/
def plain (s : State) (tn : Nat) : Bool := (tfind s.tenants tn).all fun t => decide (t.config.almanac = .off)

theorem noAlmanac_of {s : State} {tn : Nat} (h : plain s tn = true) : noAlmanac s tn := by
  intro t ht
  simpa [plain, ht] using h

/-! ## Witnesses: integers, floats, memory -/

theorem witness_IntegerResults :
    (∃ L, valuArith (.iaddVr 0 1 2 0 .s32 false) = some L ∧ Executes (st 0) (iss (st 0)) L.uses) ∧
    (∃ L, valuLogic (.shlVr 0 504 505 15 .b64) = some L ∧ Executes (st 0) (iss (st 0)) L.uses) ∧
    (∃ L, valuSelect (st 0) (.movsVr 63 13 0 .b32) = some L ∧ Executes (st 0) (iss (st 0)) L.uses) ∧
    (∃ L, saluArith (.isubSi 159 0 .s32 true 1) = some L ∧ Executes (st 0) (iss (st 0)) L.uses) ∧
    ∃ L, saluLogic (.selSr 0 1 2 3 .b64 false) = some L ∧ Executes (st 0) (iss (st 0)) L.uses :=
  ⟨⟨_, rfl, executes_of (by decide)⟩, ⟨_, rfl, executes_of (by decide)⟩, ⟨_, rfl, executes_of (by decide)⟩,
    ⟨_, rfl, executes_of (by decide)⟩, _, rfl, executes_of (by decide)⟩

theorem witness_MaskAndCarryResults :
    (∃ M, valuCompare (.icmpVr 1 .lts 0 1 0 .s32) = some M ∧ Executes (st 0) (iss (st 0)) M.uses) ∧
    Executes (st 0) (iss (st 0)) { vrUses .n64 8 [0, 4] [0] with mdst := [3] } ∧
    Executes (st 0) (iss (st 0)) { ms := [0], mdst := [15] } ∧
    (∃ M, saluMasks (.mand 1 2 3 true) = some M ∧ Executes (st 0) (iss (st 0)) M.uses) ∧
    Executes (st 0) (iss (st 0)) { vs := [vreg 0, vreg 2 2], ms := [0] } ∧ Executes (st 0) (iss (st 0)) { ks := [4, 3] } :=
  ⟨⟨_, rfl, executes_of (by decide)⟩, executes_of (by decide), executes_of (by decide), ⟨_, rfl, executes_of (by decide)⟩,
    executes_of (by decide), executes_of (by decide)⟩

theorem witness_SpecialRegisterMoves :
    Executes (st 0) (iss (st 0)) { ks := [159] } ∧ noAlmanac (st 0) (iss (st 0)).g.tenant ∧
    Executes (st 0) (iss (st 0)) { vs := [vreg 62 2], ms := [0] } :=
  ⟨executes_of (by decide), noAlmanac_of (by decide), executes_of (by decide)⟩

theorem witness_FloatResults :
    (∃ L, valuFloat (.ffma 3 0 1 2 0 .rne false false false false false) = some L ∧
      (Instr.ffma 3 0 1 2 0 .rne false false false false false).wf = true ∧ Executes (st 0) (iss (st 0)) L.uses) ∧
    Executes (st 0) (iss (st 0)) { vs := [vsrc 0, vsrc 1], ms := [0], mdst := [1] } :=
  ⟨⟨_, rfl, by decide, executes_of (by decide)⟩, executes_of (by decide)⟩

/-- A third in f32, which no mode overflows, and a number beyond all, which every mode does; two numbers that cancel. -/
theorem witness_RoundingIsCorrect :
    (0x555555555555 ≠ 0 ∧ ¬ overflows fmtF32 .rtz ((if false then -1 else 1) * (0x555555555555 : Nat) * (2 : ℝ) ^ (-48 : Int))) ∧
    overflows fmtF32 .rtz ((if false then -1 else 1) * (1 : Nat) * (2 : ℝ) ^ (128 : Int)) ∧
    ∃ p, (FVal.fin false 3 0).value = some p ∧ (FVal.fin true 3 0).value = some (-p) ∧ (FVal.fin false 3 0).sign = !(FVal.fin true 3 0).sign := by
  refine ⟨⟨by decide, ?_⟩, ?_, 3, by norm_num [FVal.value], by norm_num [FVal.value], rfl⟩
  · simp only [overflows, Fmt.bias, fmtF32]; norm_num [zpow_neg]
  · simp only [overflows, Fmt.bias, fmtF32]; norm_num

/-- Two NaNs, a number and a NaN, two zeros; a number beyond 2^23, an infinity; a square, 128, a power of two; a source that every class
of FCVT to lns6 meets, an e4m3 one among them that leaves f32; codes that LMUL adds, one NaR and one zero. -/
theorem witness_FunctionAndLnsResults :
    (unpack fmtF32 0x7FC00000).isNan = true ∧ (unpack fmtF32 0x3F800000).isNan = false ∧
    (unpack fmtF32 0).isZero = true ∧ (unpack fmtF32 0x7F800000).isInf = true ∧
    ((unpack fmtF32 0x40800000).modify false false).value = some 4 ∧ (0 : Rat) < 4 ∧ (4 : Rat) = (4 : Int) ∧ (4 : Rat) = 2 ^ (2 : Int) ∧
    ((unpack fmtF32 0x43000000).modify false false).value = some 128 ∧
    (floatValue .f32 0x3F800000 0).isNan = false ∧ (floatValue .f32 0x3F800000 0).value = some 1 ∧
    (floatValue .e4m3 0x7E 254).isNan = false ∧ roundsTo .rne (floatValue .e4m3 0x7E 254) (.inf false) ∧
    (1 % 64 ≠ 32 ∧ 2 % 32 ≠ 0) := by
  refine ⟨by decide, by decide, by decide, by decide, ?_, by norm_num, by norm_num, by norm_num, ?_, by decide, ?_, by decide,
    ⟨fun h => absurd h (by decide), fun h => absurd h (by decide), ?_⟩, by decide⟩
  · rw [show unpack fmtF32 0x40800000 = .fin false 0x800000 (-21) by decide]; norm_num [FVal.modify, FVal.value, zpow_neg]
  · rw [show unpack fmtF32 0x43000000 = .fin false 0x800000 (-16) by decide]; norm_num [FVal.modify, FVal.value, zpow_neg]
  · rw [show floatValue .f32 0x3F800000 0 = .fin false 0x800000 (-23) by decide]; norm_num [FVal.value, zpow_neg]
  · intro v hv
    have hv' : (14 : Rat) * 2 ^ (132 : Int) = v := by
      have := hv
      rw [show floatValue .e4m3 0x7E 254 = .fin false 14 132 by decide] at this
      simpa [FVal.value] using this
    exact ⟨false, 0x7F800000, ffOF ||| ffNX, ⟨fun h => absurd (hv'.trans h) (by norm_num),
      fun _ => ⟨false, 14, 132, by rw [← hv']; norm_num, by decide⟩⟩, by decide⟩

theorem witness_ClassBits :
    Executes (st 0) (iss (st 0)) { vs := [vreg 3, vsrc 0], ms := [0] } ∧ classBit fmtF32 0x80000001 3 := by
  refine ⟨executes_of (by decide), fun sg h => absurd h (by simp [show unpack fmtF32 0x80000001 = .fin true 1 (-149) by decide]), fun n h => absurd h (by simp [show unpack fmtF32 0x80000001 = .fin true 1 (-149) by decide]), fun q h => ?_⟩
  have : -(2 : Rat) ^ (-149 : Int) = q := by
    rw [show unpack fmtF32 0x80000001 = .fin true 1 (-149) by decide] at h
    simpa [FVal.value] using h
  subst this
  rw [show (unpack fmtF32 0x80000001).sign = true by decide, if_neg (by simp), abs_neg, abs_of_pos (by positivity), if_pos]
  · rfl
  · rw [show fmtF32.emin = -126 by decide]; exact zpow_lt_zpow_right₀ (by norm_num) (by norm_num)

/-- Whether the identifiers of a state are below the next. -/
def fresh (s : State) : Bool :=
  let reqs := fun (rs : List Req) => rs.all fun r => r.owed.all fun id => decide (id < s.nextId)
  let owed := fun (os : List Owed) => os.all fun o => decide (o.id < s.nextId)
  let engines := fun (ps : List PatchReq) (rs : List Raster) => (ps.all fun p => decide (p.owed < s.nextId)) && rs.all fun r => decide (r.id < s.nextId)
  owed s.owed && reqs s.reqs && (s.xchgs.all fun x => decide (x.id < s.nextId)) && (s.cxops.all fun o => decide (o.owed < s.nextId)) &&
    (s.remotes.all fun r => match r.use with
      | .post _ (.op id) => decide (id < s.nextId)
      | _ => true) && engines s.patches s.rasters && (s.decoders.all fun d => d.2.entries.all fun e => decide (e.wid < s.nextId)) &&
    (s.saved ++ s.images).all fun c => owed c.owed && reqs c.reqs && engines c.patches c.rasters

theorem fresh_of {s : State} (h : fresh s = true) : FreshIds s := by
  simp only [fresh, Bool.and_eq_true, List.all_eq_true, decide_eq_true_eq, Option.all_eq_true] at h
  obtain ⟨⟨⟨⟨⟨⟨⟨h1, h2⟩, h3⟩, h4⟩, h5⟩, h6⟩, h7⟩, h8⟩ := h
  refine ⟨h1, h2, h3, ⟨h4, fun r hr tn id hu => ?_⟩, ⟨h6.1, h6.2, fun d e hd he => h7 d hd e he⟩,
    fun c hc => ⟨(h8 c hc).1.1, (h8 c hc).1.2, (h8 c hc).2.1, (h8 c hc).2.2⟩⟩
  have := h5 r hr
  rw [hu] at this
  exact of_decide_eq_true this

theorem banksFree_of {s : State} (h : s.banks = []) : banksFree s := fun b l a hb => by rw [h] at hb; cases hb

theorem allPerformed_of {s : State} {i : Iss} {m : W32} (h : s.reqs = []) : allPerformed s i m :=
  ⟨fun r hr => absurd (h ▸ hr) List.not_mem_nil, fun r hr => absurd (h ▸ hr) List.not_mem_nil⟩

theorem devicePerformed_of {s : State} {i : Iss} {m : W32} (h : s.reqs = []) : devicePerformed s i m :=
  ⟨fun r hr => absurd (h ▸ hr) List.not_mem_nil, fun r hr => absurd (h ▸ hr) List.not_mem_nil⟩

/-- What holds in lane 0 holds in every active lane where no other is. -/
theorem lane0_of {P : Nat → Prop} {m : W32} (h : ((List.range 32).all fun l => !laneIn m l || l == 0) = true) (h0 : P 0) :
    ∀ l, l < 32 → laneIn m l = true → P l :=
  lanes_of (fun l => l == 0) h fun _ hl => beq_iff_eq.mp hl ▸ h0

/-- A state whose path is lane 0 alone. -/
def stLane (w : Nat) (ks : List (Nat × W64)) : State := st w fun g => withK ks (withPath 1 g)

/-- LDT at the end of T, STD at the start of a window, ATOM.D in its last word. -/
theorem witness_AccessesIssue_issue :
    (let s := stLane 0 [(2, 0xFFFC)]
    ∃ A, loadSpec (.ldt 0 1 2 0 .w32 .a 0) = some A ∧ Executes s (iss s) A.uses ∧
      (∀ l, l < 32 → laneIn ((iss s).active A.pred) l = true → A.lanePasses s (iss s) l) ∧
      sliceFull s (iss s).g.core (performedIn (iss s).g A.space) (A.lanesOf (iss s)) = false ∧ (iss s).active A.pred ≠ 0) ∧
    (let s := stLane 0 [(2, 0xB0000)]
    ∃ A, storeSpec (.std 0 1 2 0 .w32 0) = some A ∧ Executes s (iss s) A.uses ∧
      (∀ l, l < 32 → laneIn ((iss s).active A.pred) l = true → A.lanePasses s (iss s) l) ∧
      sliceFull s (iss s).g.core (performedIn (iss s).g A.space) (A.lanesOf (iss s)) = false ∧ (iss s).active A.pred ≠ 0) ∧
    let s := stLane 0 [(2, 0xBFFF8)]
    ∃ A, atomicSpec (.atomD .max 10 4 2 0 .w64 .dev .a 0) = some A ∧ Executes s (iss s) A.uses ∧
      (∀ l, l < 32 → laneIn ((iss s).active A.pred) l = true → A.lanePasses s (iss s) l) ∧
      sliceFull s (iss s).g.core (performedIn (iss s).g A.space) (A.lanesOf (iss s)) = false ∧ (iss s).active A.pred ≠ 0 :=
  ⟨⟨_, rfl, executes_of (by decide), lane0_of (by decide) ⟨allocated_of (by decide), by decide, fun h => absurd h (by decide)⟩,
      by decide, by decide⟩,
    ⟨_, rfl, executes_of (by decide), lane0_of (by decide) ⟨allocated_of (by decide), by decide, fun _ h => absurd h (by decide)⟩,
      by decide, by decide⟩,
    _, rfl, executes_of (by decide), lane0_of (by decide) ⟨allocated_of (by decide), by decide, fun _ h => absurd h (by decide)⟩,
      by decide, by decide⟩

/-- With no active lane, and where a lane lies outside its space, and where one is misaligned. -/
theorem witness_AccessesIssue_traps :
    (let s := st 0
    ∃ A, loadSpec (.ldd 0 1 2 1 .w32 .a 0) = some A ∧ Executes s (iss s) A.uses ∧ (iss s).active A.pred = 0) ∧
    (let s := stLane 0 [(2, 0x1000)]
    ∃ A, storeSpec (.stl 0 1 2 0 .w32 0) = some A ∧ Executes s (iss s) A.uses ∧
      ∃ l, l < 32 ∧ laneIn ((iss s).active A.pred) l = true ∧ ¬ (allocated s (iss s).g A.space A.write (A.at_ (iss s) l) A.bytes)) ∧
    let s := stLane 0 [(2, 2)]
    ∃ A, atomicSpec (.redT .add 0 1 2 0 .w32 0) = some A ∧ Executes s (iss s) A.uses ∧
      (∀ l, l < 32 → laneIn ((iss s).active A.pred) l = true → allocated s (iss s).g A.space A.write (A.at_ (iss s) l) A.bytes ∧
        clearOfBarriers s (iss s).g (A.at_ (iss s) l) A.bytes) ∧
      ∃ l, l < 32 ∧ laneIn ((iss s).active A.pred) l = true ∧ A.at_ (iss s) l % A.bytes ≠ 0 :=
  ⟨⟨_, rfl, executes_of (by decide), by decide⟩,
    ⟨_, rfl, executes_of (by decide), 0, by decide, by decide, fun h => absurd (show 0x1000 + 4 ≤ 0x1000 from h) (by decide)⟩,
    _, rfl, executes_of (by decide), lane0_of (by decide) ⟨allocated_of (by decide), fun t ht b hb => by
      obtain rfl : t = bareTeam 1 := Option.some.inj (ht.symm.trans rfl)
      simp [bareTeam] at hb⟩, 0, by decide, by decide, by decide⟩

/-- Tables that map a second GiB to device 5 and a third to the host. -/
def withFar (s : State) : State :=
  { withPages s with main := (withPages s).main ++ [(0x41008, 0x07), (0x4100E, 0x50), (0x4100F, 0x80), (0x41010, 0x07), (0x41017, 0x40)] }

theorem witness_AtomicsOnMainIssue :
    (let s := withPages (st 0 (withK [(2, 0x1000)]))
    Executes s (iss s) { fs := .none, vs := [⟨.source, 0, 1⟩, vsrc 4], ks := [2], ms := [1], tracked := 0 } ∧ (iss s).g.park = none ∧
    (iss s).active 1 = 0) ∧
    (let s := withFar (stLane 0 [(2, 0x40000000)])
    Executes s (iss s) { fs := .a, vs := [⟨.register, 0, 1⟩, vsrc 4], ks := [2], ms := [0], tracked := 1 } ∧ (iss s).g.park = none ∧
    (∀ l, l < 32 → laneIn ((iss s).active 0) l = true → (iss s).address 2 (srcLane (iss s).g 4 l 1) 0 % widthBytes .w32 = 0 ∧
      ∃ dev a, translate s (iss s).g.tenant ((iss s).address 2 (srcLane (iss s).g 4 l 1) 0) .write = .ok (.remote dev a)) ∧
    laneIn ((iss s).active 0) 0 = true) ∧
    let s := withPages (stLane 0 [(2, 0x1000)])
    Executes s (iss s) { fs := .a, vs := [⟨.register, 0, 2⟩, vsrc 4], ks := [2], ms := [0], tracked := 2 } ∧ (iss s).g.park = none ∧
    sliceFull s (iss s).g.core .m [⟨0, 0x1000, 0, 0⟩] = false ∧ (iss s).active 0 ≠ 0 ∧
    ∀ l, l < 32 → laneIn ((iss s).active 0) l = true → (iss s).address 2 (srcLane (iss s).g 4 l 1) 0 % widthBytes .w64 = 0 ∧
      ∃ pa, translate s (iss s).g.tenant ((iss s).address 2 (srcLane (iss s).g 4 l 1) 0) .write = .ok (.main pa) :=
  ⟨⟨executes_of (by decide), by decide, by decide⟩,
    ⟨executes_of (by decide), by decide, lane0_of (by decide) ⟨by decide, 5, 0, by decide⟩, by decide⟩,
    executes_of (by decide), by decide, by decide, by decide, lane0_of (by decide) ⟨by decide, 0x1000, by decide⟩⟩

/-- Whether a request can be performed. -/
def performs (s : State) (r : Req) (n : Nat) : Bool :=
  decide (s.reqs.find? (fun q => q.id == r.id) = some r) && (r.arrived.isSome || (!blockedReq s.reqs r && !pastSlice s r)) &&
    !r.isWaiting &&
    (decide (r.held = none) && !heldOff s r && bankTurn s r) && (match r.space with
      | .t tm => (tfind s.teams tm).isSome
      | _ => true) &&
    (r.lanes.all fun l => decide (l.addr % n = 0)) && plain s r.tenant

theorem performable_of {s : State} {r : Req} {n : Nat} (h : performs s r n = true) : Performable s r n := by
  simp only [performs, Bool.and_eq_true, Bool.or_eq_true, decide_eq_true_eq, Bool.not_eq_true', List.all_eq_true] at h
  obtain ⟨⟨⟨⟨⟨⟨h1, h2⟩, h3⟩, ⟨h7, h8⟩, h9⟩, h4⟩, h5⟩, h6⟩ := h
  exact ⟨h1, h2, h3, ⟨h7, h8, h9⟩, fun tm ht => by simpa [ht] using h4, h5, noAlmanac_of h6⟩

/-- A request of group 1, and the state that queues it. -/
def req (sp : Space) (k : ReqKind) (ls : List LaneReq) (owed : Option Nat) : Req :=
  { id := 7, gid := 1, tenant := 0, team := 0, core := 0, agent := 0, path := 0xFFFFFFFF, after := [], reach := .own, seq := 0, port := 0, space := sp
    line := (ls.headD ⟨0, 0, 0, 0⟩).addr / 128, kind := k, lanes := ls, active := 1, owed := owed, arrived := none, held := none }
def queued (r : Req) : State := { st 0 with reqs := [r] }

theorem witness_RequestsPerform :
    (let r := req .d (.store .w32) [⟨0, 0xB0000, 5, 0⟩] none
    r.kind = .store .w32 ∧ Performable (queued r) r 4) ∧
    (let r := req (.t 0) (.load .s8 (.v 3)) [⟨0, 0xFFFF, 0, 0⟩] (some 9)
    r.kind = .load .s8 (.v 3) ∧ Performable (queued r) r 1) ∧
    (let r := req .d (.atomic .ffcs true (some (.v 2, .v 2))) [⟨0, 0xB0008, 0, 0⟩] (some 9)
    r.kind = .atomic .ffcs true (some (.v 2, .v 2)) ∧ Performable (queued r) r 8 ∧ AtomOp.ffcs.widthOk .w64 = true) ∧
    (let r := req .m (.atomic .add false (some (.v 2, .v 2))) [⟨0, 0x1000, 5, 0⟩, ⟨1, 0x1000, 6, 0⟩] (some 9)
    r.kind = .atomic .add false (some (.v 2, .v 2)) ∧ r.lanes = ⟨0, 0x1000, 5, 0⟩ :: [⟨1, 0x1000, 6, 0⟩] ∧ Performable (queued r) r 4) ∧
    (∀ ls, ls = [] ∨ ls = [(⟨1, 0x1000, 6, 0⟩ : LaneReq)] →
      let r := { req .m (.atomic .add false (some (.v 2, .v 2))) (⟨0, 0x1000, 5, 0⟩ :: ls) (some 9) with held := some 7 }
      r.kind = .atomic .add false (some (.v 2, .v 2)) ∧ r.lanes = ⟨0, 0x1000, 5, 0⟩ :: ls ∧ r.held = some 7 ∧
        (queued r).reqs.find? (fun q => q.id == r.id) = some r ∧ AtomOp.add.widthOk .w32 = true) ∧
    let r := req .d (.mwait false 0 (.v 3) false none) [⟨0, 0xB0000, 0, 0⟩] (some 9)
    r.kind = .mwait false 0 (.v 3) false none ∧ r.lanes = ⟨0, 0xB0000, 0, 0⟩ :: [] ∧ Performable (queued r) r 1 :=
  ⟨⟨rfl, performable_of (by decide)⟩, ⟨rfl, performable_of (by decide)⟩, ⟨rfl, performable_of (by decide), by decide⟩,
    ⟨rfl, rfl, performable_of (by decide)⟩, fun ls h => by rcases h with rfl | rfl <;> decide, rfl, rfl, performable_of (by decide)⟩

/-- A barrier of team 0, with two arrivals of quota 2 due or already made by group 1. -/
def bar (due : Nat) (as : List Arrival) : Barrier := ⟨0x40, 0, 0, 2, due, 0, 0, as, 0⟩
def stBar (b : Barrier) (h : Group → Group := id) : State :=
  withTeam (fun t => { t with barriers := [b] }) (st 0 fun g => h (withK [(2, 0x40), (3, 256)] g))

theorem atBarrier_of {s : State} {i : Iss} {a : Nat} {b : Barrier} (h : inAlloc s i.g .t true a 16 = true) (ha : a % 16 = 0)
    (hb : ((tfind s.teams i.g.team).bind fun t => t.barriers.find? fun y => y.addr == a) = some b) : AtBarrier s i a b := by
  cases ht : tfind s.teams i.g.team with
  | none => simp [ht] at hb
  | some t => exact ⟨allocated_of h, ha, t, ht, by simpa [ht] using hb⟩

/-- BARINIT to 0 and to 256, and behind a store to the record; BAREXP; and BARARR before and after the group's own arrival. -/
theorem witness_BarriersCount_counts :
    (∀ data : VCode, data = 505 ∨ data = 387 → let s := st 0 (withK [(2, 0x40), (3, 256)])
      Executes s (iss s) { vs := [vbro data], ks := [2] } ∧ (iss s).g.park = none ∧
      (tfind s.teams (iss s).g.team = some (bareTeam 1)) ∧ allocated s (iss s).g .t true ((iss s).address 2 0 0) 16 ∧
      (iss s).address 2 0 0 % 16 = 0 ∧ (iss s).operand data ≤ 256 ∧ (bareTeam 1).barriers.length < 16 ∧
      quietOn s (iss s) (.t (iss s).g.team) ((iss s).address 2 0 0) 16) ∧
    (let s := { stBar (bar 2 []) with reqs := [req (.t 0) (.store .w32) [⟨0, 0x4C, 5, 0⟩] none] }
    Executes s (iss s) { vs := [vbro 387], ks := [2] } ∧ AtBarrier s (iss s) ((iss s).address 2 0 0) (bar 2 []) ∧
      (iss s).g.park = none ∧ (iss s).operand 387 ≤ 256 ∧ ¬ quietOn s (iss s) (.t (iss s).g.team) ((iss s).address 2 0 0) 16) ∧
    (let s := stBar (bar 2 [])
    Executes s (iss s) { vs := [vbro 387], ks := [2] } ∧ Executes s (iss s) { ks := [2] } ∧
      AtBarrier s (iss s) ((iss s).address 2 0 0) (bar 2 []) ∧ (bar 2 []).owed + (iss s).operand 387 < 2 ^ 32 ∧
      ((bar 2 []).arrivals.any fun x => x.gid == (iss s).gid && x.epoch == (bar 2 []).epoch) = false) ∧
    let s := stBar (bar 1 [⟨1, 0, none⟩])
    Executes s (iss s) { ks := [2] } ∧ AtBarrier s (iss s) ((iss s).address 2 0 0) (bar 1 [⟨1, 0, none⟩]) ∧
      (bar 1 [⟨1, 0, none⟩]).arrived (iss s).gid = true := by
  refine ⟨?_, ⟨executes_of (by decide), atBarrier_of (by decide) (by decide) (by decide), by decide, by decide, fun h => ?_⟩,
    ⟨executes_of (by decide), executes_of (by decide), atBarrier_of (by decide) (by decide) (by decide), by decide, by decide⟩,
    executes_of (by decide), atBarrier_of (by decide) (by decide) (by decide), by decide⟩
  · rintro data (rfl | rfl)
    all_goals exact ⟨executes_of (by decide), by decide, by decide, allocated_of (by decide), by decide, by decide, by decide,
      fun r h => absurd h List.not_mem_nil⟩
  · have := h _ (List.mem_singleton.mpr rfl) (.inl rfl) (.inl ⟨_, rfl⟩) rfl _ (List.mem_singleton.mpr rfl)
    revert this
    decide

/-- BARWAIT of a phase that has ended and of one that is open, a waiter that BARINIT released, and BARAW. -/
theorem witness_BarriersCount_waits :
    (let s := stBar ⟨0x40, 1, 0, 2, 2, 0, 0, [⟨1, 0, some 2⟩], 0⟩
    Executes s (iss s) { ks := [2] } ∧ AtBarrier s (iss s) ((iss s).address 2 0 0) ⟨0x40, 1, 0, 2, 2, 0, 0, [⟨1, 0, some 2⟩], 0⟩ ∧
      (iss s).g.park = none ∧ [(⟨1, 0, some 2⟩ : Arrival)].find? (fun y => y.gid == (iss s).gid) = some ⟨1, 0, some 2⟩) ∧
    (let s := stBar (bar 1 [⟨1, 0, none⟩])
    (iss s).g.park = none ∧ (bar 1 [⟨1, 0, none⟩]).arrivals.find? (fun y => y.gid == (iss s).gid) = some ⟨1, 0, none⟩) ∧
    (∀ w, w = .barrierReleased ∨ w = .barrier 0x40 0 (some 2) → let s := st 0 fun g => { g with park := some ⟨0, 0, w⟩ }
    Executes s (iss s) { ks := [2] } ∧ (iss s).g.park = some ⟨0, 0, w⟩) ∧
    let s := stBar (bar 1 [⟨9, 0, none⟩])
    Executes s (iss s) { ks := [2] } ∧ AtBarrier s (iss s) ((iss s).address 2 0 0) (bar 1 [⟨9, 0, none⟩]) ∧ (iss s).g.park = none ∧
      ((bar 1 [⟨9, 0, none⟩]).arrivals.any fun x => x.gid == (iss s).gid && x.epoch == (bar 1 [⟨9, 0, none⟩]).epoch) = false :=
  ⟨⟨executes_of (by decide), atBarrier_of (by decide) (by decide) (by decide), by decide, by decide⟩, ⟨by decide, by decide⟩,
    fun w h => by rcases h with rfl | rfl <;> exact ⟨executes_of (by decide), by decide⟩, executes_of (by decide),
    atBarrier_of (by decide) (by decide) (by decide), by decide, by decide⟩

theorem witness_WaitsAndFences :
    (Executes (st 0) (iss (st 0)) { fs := .a, vs := [vreg 0], ks := [2], ms := [1], tracked := 1 } ∧ (iss (st 0)).active 1 = 0) ∧
    (let s := st 0 (withK [(2, 0xBFFFC)])
    Executes s (iss s) { fs := .none, vs := [vreg 0], ks := [2], ms := [0], tracked := 1 } ∧
      laneIn ((iss s).active 0) 0 = true ∧ allocated s (iss s).g .d false ((iss s).address 2 0 0) (widthBytes .w32) ∧
      (iss s).address 2 0 0 % widthBytes .w32 = 0 ∧ sliceFull s (iss s).g.core .d [⟨0, (iss s).address 2 0 0, 0, 0⟩] = false) ∧
    Executes (st 0x6640000000500000) (iss (st 0x6640000000500000)) {} ∧
    (let s := { st 0x6640000000500000 fun g => { g with fences := [⟨false, true, false, false, 1⟩] } with
      reqs := [req .d (.store .w32) [⟨0, 0xB0000, 5, 0⟩] none] }
    let s := withGroup (fun g => { g with fences := [⟨false, true, false, false, 1⟩] }) s
    issuer s = some (iss s) ∧ (⟨false, true, false, false, 1⟩ : FenceOpen) ∈ (iss s).g.fences ∧ (iss s).cl.hdr.cls ≠ .valu ∧
      (iss s).cl.hdr.cls ≠ .salu ∧ ∃ r, r ∈ s.reqs ∧ (r.gid = (iss s).gid ∨ r.covers (iss s).g.team (iss s).g.core = true) ∧
        r.seq < 1 ∧ r.isCaptured = false ∧ (false = true ∨ r.space ≠ .host)) ∧
    let s := { withGroup (fun g => { g with fences := [⟨true, false, false, false, 1⟩] }) (st 0x6640000000500000) with
      owed := [⟨9, 1, 0, .load, some 0, [.v 3], [], 1, 0⟩] }
    issuer s = some (iss s) ∧ (⟨true, false, false, false, 1⟩ : FenceOpen) ∈ (iss s).g.fences ∧
      ∃ o, o ∈ s.owed ∧ o.gid = (iss s).gid ∧ o.kind.bindsAcq = true ∧ o.seq < 1 :=
  ⟨⟨executes_of (by decide), by decide⟩,
    ⟨executes_of (by decide), by decide, allocated_of (by decide), by decide, by decide⟩, executes_of (by decide),
    ⟨by decide, by decide, by decide, by decide, by decide⟩, by decide, by decide, by decide⟩

/-- A result for a register, one for a spilled stack entry, one still outstanding, and the word of an MWAIT. -/
theorem witness_WaitsAndFences_results :
    (let o : Owed := ⟨9, 1, 0, .load, some 0, [.v 3], [.lane (.v 3) 31 7], 0, 0⟩
    let s := { st 0 with owed := [o] }
    s.owed.find? (fun x => x.id == o.id) = some o ∧ tfind s.groups o.gid = some (grp s 1) ∧ (grp s 1).live = true ∧
      ∀ r n x, RegWrite.lane r n x ∈ o.writes → ∀ m, r = .stack m → (grp s 1).resBase ≤ m) ∧
    (let o : Owed := ⟨9, 1, 0, .load, some 0, [.stack 1], [.lane (.stack 1) 0 7], 0, 0⟩
    let s := { withGroup (fun g => { g with resBase := 2 }) (st 0) with owed := [o] }
    s.owed.find? (fun x => x.id == o.id) = some o ∧ tfind s.groups o.gid = some (grp s 1) ∧ (grp s 1).live = true ∧
      1 < (grp s 1).resBase) ∧
    (let o : Owed := ⟨9, 1, 0, .load, some 0, [.v 3], [], 1, 0⟩
    ({ st 0 with owed := [o] } : State).owed.find? (fun x => x.id == o.id) = some o ∧ o.parts ≠ 0) ∧
    let r := req .d (.mwait false 0 (.v 3) true (some 5)) [⟨0, 0xB0000, 0, 0⟩] (some 9)
    (queued r).reqs.find? (fun q => q.id == r.id) = some r ∧ r.kind = .mwait false 0 (.v 3) true (some 5) :=
  ⟨⟨by decide, by decide, by decide, fun r n x h m hr => by simp at h; rw [h.1] at hr; cases hr⟩,
    ⟨by decide, by decide, by decide, by decide⟩, ⟨by decide, by decide⟩, by decide, rfl⟩

/-- BARARR and BARAW with no MWAIT before them, and behind one whose word has not differed; an arrival that is late. -/
theorem witness_BarriersCount_late :
    (let s := stBar ⟨0x40, 1, 1, 2, 1, 0, 0, [⟨9, 0, some 1⟩], 1⟩
    Executes s (iss s) { ks := [2] } ∧
      AtBarrier s (iss s) ((iss s).address 2 0 0) ⟨0x40, 1, 1, 2, 1, 0, 0, [⟨9, 0, some 1⟩], 1⟩ ∧ (iss s).g.park = none ∧
      (⟨0x40, 1, 1, 2, 1, 0, 0, [⟨9, 0, some 1⟩], 1⟩ : Barrier).arrived (iss s).gid = false ∧ waitsOver s (iss s) ∧
      comesLate ⟨0x40, 1, 1, 2, 1, 0, 0, [⟨9, 0, some 1⟩], 1⟩ (iss s).gid) ∧
    let s := { stBar (bar 2 []) with
      reqs := [req .d (.mwait false 0 (.v 3) true none) [⟨0, 0xB0000, 0, 0⟩] (some 9)]
      nextSeq := 1 }
    Executes s (iss s) { ks := [2] } ∧ AtBarrier s (iss s) ((iss s).address 2 0 0) (bar 2 []) ∧ (iss s).g.park = none ∧
      (bar 2 []).arrived (iss s).gid = false ∧ ¬ waitsOver s (iss s) := by
  refine ⟨⟨executes_of (by decide), atBarrier_of (by decide) (by decide) (by decide), by decide, by decide,
    fun r h => absurd h List.not_mem_nil, ⟨by decide, by decide⟩⟩,
    executes_of (by decide), atBarrier_of (by decide) (by decide) (by decide), by decide, by decide, fun h => ?_⟩
  have := h _ (List.mem_singleton.mpr rfl) rfl rfl (by decide) (by decide)
  revert this
  decide

/-- A fence of a team's release held back by an MWAIT of the group. -/
theorem witness_WaitsAndFences_team :
    let s := { withGroup (fun g => { g with fences := [⟨false, false, true, false, 1⟩] }) (st 0x6640000000500000) with
      reqs := [req .d (.mwait false 0 (.v 3) true none) [⟨0, 0xB0000, 0, 0⟩] (some 9)] }
    issuer s = some (iss s) ∧ (⟨false, false, true, false, 1⟩ : FenceOpen) ∈ (iss s).g.fences ∧
      ∃ r, r ∈ s.reqs ∧ r.gid = (iss s).gid ∧ r.seq < 1 ∧ r.isMwait = true ∧ r.isCaptured = false ∧ r.path ≠ 0 :=
  ⟨by decide, by decide, _, List.mem_singleton.mpr rfl, by decide, by decide, rfl, rfl, by decide⟩

/-- A result owed to a group that has ended, and the last one: the group goes. -/
theorem witness_WaitsAndFences_ended :
    let o : Owed := ⟨9, 1, 0, .load, some 0, [.v 3], [], 0, 0⟩
    let s := { withGroup (fun g => { g with slot0 := none }) (st 0) with owed := [o] }
    s.owed.find? (fun x => x.id == o.id) = some o ∧ tfind s.groups o.gid = some (grp s 1) ∧ (grp s 1).live = false ∧
      ¬ ∃ q, q ∈ s.owed ∧ q.id ≠ o.id ∧ q.gid = o.gid ∧ q.dests ≠ [] :=
  ⟨by decide, by decide, by decide, fun ⟨q, h, hn, _⟩ => hn (by rw [List.mem_singleton.mp h])⟩

/-! ## Witnesses: control, frames and paths -/

/-- NOP as a clause's last word; RHEAD; BRA on a mask and on codes; JMP to a header and to none. -/
theorem witness_ControlFlow :
    Executes (st 0) (iss (st 0)) {} ∧ (iss (st 0)).cl.words.length ≤ (iss (st 0)).slot.path.ix + 1 ∧
    Executes (st 0) (iss (st 0)) { ranges := [((8 : BitVec 6).toNat, 4), (16, 0)] } ∧
    (let s := withGroup (fun g => { g with slot0 := g.slot0.map fun sl => { sl with
        clause := sl.clause.map fun c => { c with words := [0, 0] } } }) (st 0)
    Executes s (iss s) {} ∧ (iss s).slot.path.ix + 1 < (iss s).cl.words.length) ∧
    Executes (st 0) (iss (st 0)) { ms := if (BCond.mz = .mz ∨ BCond.mz = .mnz ∨ BCond.mz = .mall) then [3] else [] } ∧
    (let s := st 0 (withK [(2, 0x2000)])
    Executes s (iss s) { ks := [2] } ∧ (kGet (iss s).g 2).toNat % 8 = 0) ∧
    let s := st 0 (withK [(2, 0x2001)])
    Executes s (iss s) { ks := [2] } ∧ (kGet (iss s).g 2).toNat % 8 ≠ 0 :=
  ⟨executes_of (by decide), by decide, executes_of (by decide), ⟨executes_of (by decide), by decide⟩, executes_of (by decide),
    ⟨executes_of (by decide), by decide⟩, executes_of (by decide), by decide⟩

/-- CALL by the whole frame, RET to the caller, FRAME of every free entry. -/
theorem witness_WindowsMove :
    (let s := withGroup (fun g => { g with extent := 16 }) (st 0)
    (iss s).g.handler = none ∧ (iss s).g.joins = [] ∧ Executes s (iss s) {} ∧ (16 : BitVec 32).toNat ≤ (iss s).g.extent ∧
      (iss s).g.resLinks ≠ 16) ∧
    (let s := withGroup (fun g => { g with window := 16, links := [⟨0x2000, 16, 16⟩], resLinks := 1 }) (st 0)
    (iss s).g.handler = none ∧ (iss s).g.joins = [] ∧ Executes s (iss s) {} ∧ (iss s).g.links = ⟨0x2000, 16, 16⟩ :: [] ∧
      (iss s).g.resLinks ≠ 0 ∧ (iss s).g.resBase + 16 ≤ (iss s).g.window) ∧
    let s := st 0
    (iss s).g.handler = none ∧ (iss s).g.joins = [] ∧ Executes s (iss s) {} ∧ (320 : BitVec 32).toNat ≤ (iss s).g.budget - 64 ∧
      128 * ((iss s).g.window + 320) ≤ (iss s).g.regArea ∧ (iss s).g.window + 320 ≤ (iss s).g.resBase + ((iss s).g.budget - 64) :=
  ⟨⟨by decide, by decide, executes_of (by decide), by decide, by decide⟩,
    ⟨by decide, by decide, executes_of (by decide), by decide, by decide, by decide⟩,
    by decide, by decide, executes_of (by decide), by decide, by decide, by decide⟩

/-- A FRAME beyond what the budget holds, and a RET whose caller's entries are in the register area; a CALL that finds 16 links
resident, and a RET that finds none. -/
theorem witness_WindowsMove_services :
    (let s := withGroup (fun g => { g with budget := 96, window := 16 }) (st 0)
    (iss s).g.handler = none ∧ (iss s).g.joins = [] ∧ Executes s (iss s) {} ∧ (32 : BitVec 32).toNat ≤ (iss s).g.budget - 64 ∧
      128 * ((iss s).g.window + 32) ≤ (iss s).g.regArea ∧ (iss s).g.resBase + ((iss s).g.budget - 64) < (iss s).g.window + 32 ∧
      (tfind s.tenants (iss s).g.tenant).isSome = true) ∧
    (let s := withGroup (fun g => { g with links := List.replicate 17 ⟨0x2000, 0, 0⟩, resLinks := 16 }) (st 0)
    (iss s).g.handler = none ∧ (iss s).g.joins = [] ∧ Executes s (iss s) {} ∧ (0 : BitVec 32).toNat ≤ (iss s).g.extent ∧
      (iss s).g.resLinks = 16 ∧ 16 ≤ (iss s).g.links.length ∧ (iss s).g.links.length ≤ 1024 ∧
      (tfind s.tenants (iss s).g.tenant).isSome = true) ∧
    (let s := withGroup (fun g => { g with links := [⟨0x2000, 0, 0⟩], resLinks := 0 }) (st 0)
    (iss s).g.handler = none ∧ (iss s).g.joins = [] ∧ Executes s (iss s) {} ∧ (iss s).g.links ≠ [] ∧ (iss s).g.resLinks = 0 ∧
      (tfind s.tenants (iss s).g.tenant).isSome = true) ∧
    let s := withGroup (fun g => { g with window := 8, resBase := 8, links := [⟨0x2000, 8, 8⟩], resLinks := 1 }) (st 0)
    (iss s).g.handler = none ∧ (iss s).g.joins = [] ∧ Executes s (iss s) {} ∧ (iss s).g.links = ⟨0x2000, 8, 8⟩ :: [] ∧
      (iss s).g.resLinks ≠ 0 ∧ 8 ≤ (iss s).g.window ∧ (iss s).g.window < (iss s).g.resBase + 8 ∧
      (iss s).g.resBase - ((iss s).g.window - 8) ≤ (iss s).g.budget - 64 :=
  ⟨⟨by decide, by decide, executes_of (by decide), by decide, by decide, by decide, by decide⟩,
    ⟨by decide, by decide, executes_of (by decide), by decide, by decide, by decide, by decide, by decide⟩,
    ⟨by decide, by decide, executes_of (by decide), by decide, by decide, by decide⟩,
    by decide, by decide, executes_of (by decide), by decide, by decide, by decide, by decide, by decide⟩

/-- CALL beyond the extent, FRAME beyond the budget, each of the three with a join record, a RET at depth 0, and a FRAME past the
register area. -/
theorem witness_WindowsMove_traps :
    (let s := st 0
    Executes s (iss s) {} ∧ (iss s).g.extent < (1 : BitVec 32).toNat ∧ (iss s).g.budget - 64 < (0xFFFFFFFF : BitVec 32).toNat ∧
      (iss s).g.handler = none ∧ (iss s).g.joins = [] ∧ (iss s).g.links = []) ∧
    (let s := withGroup (fun g => { g with joins := [⟨0, 0x10000, 0, 2, false, 3⟩] }) (st 0)
    (iss s).g.handler = none ∧ (iss s).g.joins ≠ [] ∧ Executes s (iss s) {} ∧ (0 : BitVec 32).toNat ≤ (iss s).g.extent ∧
      (0 : BitVec 32).toNat ≤ (iss s).g.budget - 64) ∧
    let s := withGroup (fun g => { g with window := 1000000 }) (st 0)
    (iss s).g.handler = none ∧ (iss s).g.joins = [] ∧ Executes s (iss s) {} ∧ (0 : BitVec 32).toNat ≤ (iss s).g.budget - 64 ∧
      (iss s).g.regArea < 128 * ((iss s).g.window + (0 : BitVec 32).toNat) :=
  ⟨⟨executes_of (by decide), by decide, by decide, by decide, by decide, by decide⟩,
    ⟨by decide, by decide, executes_of (by decide), by decide, by decide⟩,
    by decide, by decide, executes_of (by decide), by decide, by decide⟩

/-- FORK with all 32 records in use. -/
theorem witness_ForksAndJoins_full :
    let s := withGroup (fun g => { g with joins := (List.range 32).map fun r => ⟨r, 0x10000, 0, 2, false, 3⟩ }) (st 0)
    (iss s).g.handler = none ∧ Executes s (iss s) { ks := [6], ms := [1] } ∧ ∀ r, r < 32 → ∃ x, x ∈ (iss s).g.joins ∧ x.index = r :=
  ⟨by decide, executes_of (by decide), by decide⟩

/-- FORK with a free record; JOIN with token 0, and with the path's own and its record. -/
theorem witness_ForksAndJoins :
    (let s := st 0
    (iss s).g.handler = none ∧ Executes s (iss s) { ks := [6], ms := [1] } ∧ ∃ r, r < 32 ∧ ∀ x, x ∈ (iss s).g.joins → x.index ≠ r) ∧
    (let s := st 0
    (iss s).g.handler = none ∧ Executes s (iss s) { ks := [6] } ∧ kGet (iss s).g 6 = 0) ∧
    let s := withGroup (fun g => { withK [(6, 0x10000)] g with
      joins := [⟨0, 0x10000, 0, 2, false, 3⟩]
      slot0 := g.slot0.map fun sl => { sl with path := { sl.path with token := 0x10000 } } }) (st 0)
    (iss s).g.handler = none ∧ Executes s (iss s) { ks := [6] } ∧ kGet (iss s).g 6 ≠ 0 ∧ kGet (iss s).g 6 = (iss s).slot.path.token ∧
      (iss s).g.joins.find? (fun x => x.token == kGet (iss s).g 6) = some ⟨0, 0x10000, 0, 2, false, 3⟩ :=
  ⟨⟨by decide, executes_of (by decide), 31, by decide, by decide⟩, ⟨by decide, executes_of (by decide), by decide⟩,
    by decide, executes_of (by decide), by decide, by decide, by decide⟩

/-- A group inside a split: its path has token 0x10000, with a join record of `live` sides, one parked or not, below an outer one. -/
def stSplit (live : Nat) (parked : Bool) (st0 : List StackEntry) (one : Option Slot) : State :=
  withGroup (fun g => { g with
    joins := [⟨1, 0x10000, 0x20000, live, parked, 3⟩, ⟨0, 0x20000, 0, 2, false, 3⟩]
    stack := st0
    slot1 := one
    slot0 := g.slot0.map fun sl => { sl with path := { sl.path with token := 0x10000 } } }) (st 0)

/-- The parked sibling of such a path, and a path that waits for a slot. -/
def parkedSide : StackEntry := ⟨{ bareSlot.path with token := 0x10000 }, false, true⟩
def stackedSide : StackEntry := ⟨{ bareSlot.path with token := 0x20000 }, false, false⟩

/-- EXIT of the only path, of one of two, of a side whose other is live, of one whose sibling is parked and of one that was the last
inside its outer record; RETIRE of one lane and of none. -/
theorem witness_PathsEnd :
    (let s := st 0
    Executes s (iss s) {} ∧ (iss s).g.joins.length ≤ 32 ∧
      TokenEnds (iss s).g.joins (iss s).g.stack (iss s).slot.path.token [] [] none ∧ (iss s).g.slot0.isSome = true ∧
      slotOf (iss s).g (1 - (iss s).n) = none ∧ Executes s (iss s) { ms := [0] } ∧ (iss s).g.handler = none ∧ (iss s).active 0 ≠ 0 ∧
      (iss s).active 0 = (iss s).slot.path.mask) ∧
    (let s := withGroup (fun g => { g with slot1 := some bareSlot }) (st 0)
    Executes s (iss s) {} ∧ TokenEnds (iss s).g.joins (iss s).g.stack (iss s).slot.path.token [] [] none ∧
      slotOf (iss s).g (1 - (iss s).n) = some bareSlot) ∧
    (let s := stSplit 2 false [stackedSide] (some bareSlot)
    Executes s (iss s) {} ∧ TokenEnds (iss s).g.joins (iss s).g.stack (iss s).slot.path.token
      [⟨1, 0x10000, 0x20000, 1, false, 3⟩, ⟨0, 0x20000, 0, 2, false, 3⟩] [stackedSide] none ∧
      ¬ ∀ e, e ∈ [stackedSide] → e.parked = true) ∧
    (let s := stSplit 1 true [stackedSide, parkedSide] none
    Executes s (iss s) {} ∧ TokenEnds (iss s).g.joins (iss s).g.stack (iss s).slot.path.token [⟨0, 0x20000, 0, 2, false, 3⟩] [stackedSide]
      (some ({ parkedSide.path with token := 0x20000 }, 3))) ∧
    (let s := stSplit 1 false [stackedSide] none
    Executes s (iss s) {} ∧ TokenEnds (iss s).g.joins (iss s).g.stack (iss s).slot.path.token [⟨0, 0x20000, 0, 1, false, 3⟩] [stackedSide]
      none) ∧
    (let s := withGroup (fun g => { g with mregs := [(1, 1)] }) (st 0)
    Executes s (iss s) { ms := [1] } ∧ (iss s).g.handler = none ∧ (iss s).active 1 ≠ (iss s).slot.path.mask) ∧
    let s := st 0
    Executes s (iss s) { ms := [2] } ∧ (iss s).active 2 = 0 :=
  ⟨⟨executes_of (by decide), by decide, .top (by decide), by decide, by decide, executes_of (by decide), by decide, by decide, by decide⟩,
    ⟨executes_of (by decide), .top (by decide), by decide⟩,
    ⟨executes_of (by decide), .other (r := ⟨1, 0x10000, 0x20000, 2, false, 3⟩) (by decide) (by decide), by decide⟩,
    ⟨executes_of (by decide), .resumes (r := ⟨1, 0x10000, 0x20000, 1, true, 3⟩) (e := parkedSide) (by decide) (by decide) (by decide)
      (by decide)⟩,
    ⟨executes_of (by decide), .outward (r := ⟨1, 0x10000, 0x20000, 1, false, 3⟩) (by decide) (by decide) (by decide)
      (.other (r := ⟨0, 0x20000, 0, 2, false, 3⟩) (by decide) (by decide))⟩, ⟨executes_of (by decide), by decide, by decide⟩,
    executes_of (by decide), by decide⟩

/-- A group that waits for 1024 registers, alone in its partition. -/
def stGrant : State := withGroup (fun g => { g with budget := 0, park := some ⟨0, 0, .roleGrant 1⟩ })
  (withTeam (fun t => { t with roles := [⟨1, 1024, 0x2000⟩] }) (st 0))

/-- ROLE of a declared role; the only waiter of its partition. -/
theorem witness_RolesChange :
    (let s := withTeam (fun t => { t with roles := [⟨1, 96, 0x2000⟩] }) (st 0)
    Executes s (iss s) {} ∧ (iss s).g.handler = none ∧ (iss s).g.park = none ∧
      ((tfind s.teams (iss s).g.team).bind fun t => t.roles.find? fun x => x.number == (1 : BitVec 2).toNat) = some ⟨1, 96, 0x2000⟩ ∧
      (iss s).g.slot1 = none ∧ (iss s).g.joins = [] ∧ (iss s).g.links = [] ∧ drained s (iss s).gid = true) ∧
    let s := stGrant
    tfind s.groups 1 = some (grp s 1) ∧ (grp s 1).park = some ⟨0, 0, .roleGrant 1⟩ ∧
      ((tfind s.teams (grp s 1).team).bind fun t => t.roles.find? fun x => x.number == 1) = some ⟨1, 1024, 0x2000⟩ ∧
      ((slotOf (grp s 1) 0).bind fun x => x.clause).isSome = true ∧
      (∀ p, p ∈ partitionGroups s (grp s 1).core (grp s 1).partition → ∀ y c m, p.2.park = some ⟨y, c, .roleGrant m⟩ →
        0 < c ∨ (0 = c ∧ 1 ≤ p.1)) ∧ 1024 ≤ freeRegisters s (grp s 1).core (grp s 1).partition (grp s 1).team := by
  refine ⟨⟨executes_of (by decide), by decide, by decide, by decide, by decide, by decide, by decide, by decide⟩,
    by decide, by decide, by decide, by decide, ?_, by decide⟩
  intro p hp y c m h
  obtain ⟨h1, h2⟩ := (by decide : ∀ p, p ∈ partitionGroups stGrant (grp stGrant 1).core (grp stGrant 1).partition →
    1 ≤ p.1 ∧ p.2.park = some ⟨0, 0, .roleGrant 1⟩) p hp
  rw [h2] at h
  cases h
  exact .inr ⟨rfl, h1⟩

/-- Team 0 with a second group on core 0, each at a REORDER by v8 of its lanes 0 and 1 with v8 live, its count to k7; the other's
descriptor. -/
def atReorder (d : W64) (ix : Nat) (g : Group) : Group := { g with index := ix, park := some ⟨0, 0, .reorder d 8 3 7⟩ }
def stGathered (d d' : W64) : State :=
  let s := withTenant (fun t => { t with config := { t.config with handler := 0x2000 } }) (st 0 (atReorder d 0))
  withTeam (fun t => { t with live := [1, 2] }) { s with groups := s.groups ++ [(2, atReorder d' 1 (grp s 1))] }
def pair (s : State) : List (Nat × Group) := [(1, grp s 1), (2, grp s 2)]

theorem gathered_pair {s : State} (h : s.groups = pair s) (h1 : ((grp s 1).live && (grp s 2).live) = true)
    (h2 : (grp s 1).team = 0 ∧ (grp s 2).team = 0 ∧ (grp s 1).core = 0 ∧ (grp s 2).core = 0)
    (h3 : (grp s 1).index < (grp s 2).index) (h4 : (issuer { s with focus := (1, 0) }).isSome = true)
    (h5 : (issuer { s with focus := (2, 0) }).isSome = true) (h6 : (grp s 1).handler = none ∧ (grp s 2).handler = none) :
    Gathered s 0 0 (pair s) := by
  simp only [Bool.and_eq_true] at h1
  refine ⟨fun q => ⟨fun hq => ⟨h ▸ hq, ?_⟩, fun hq => h ▸ hq.1⟩, ⟨?_, ?_⟩, fun p hp => ?_⟩
  · simp only [pair, List.mem_cons, List.not_mem_nil, or_false] at hq
    rcases hq with rfl | rfl
    · exact ⟨h1.1, h2.1, h2.2.2.1⟩
    · exact ⟨h1.2, h2.2.1, h2.2.2.2⟩
  · simp [pair, h3]
  · rw [h]; simp [pair]
  · simp only [pair, List.mem_cons, List.not_mem_nil, or_false] at hp
    rcases hp with rfl | rfl
    · exact ⟨Option.isSome_iff_exists.mp h4, h6.1⟩
    · exact ⟨Option.isSome_iff_exists.mp h5, h6.2⟩

/-- A REORDER of one key with no live range; the move of two participants with two lanes each, and where their descriptors differ. -/
theorem witness_ReorderSorts :
    (let s := st 0
    let rs := liveRanges (kGet (iss s).g 6).toNat
    (iss s).g.handler = none ∧ (iss s).g.park = none ∧ (iss s).g.slot1 = none ∧ (iss s).g.joins = [] ∧ (iss s).g.holdings = [] ∧
      pendingReg (iss s).g (kName (iss s).g 6) = false ∧ Executes s (iss s) { vs := [vsrc 40], ks := [7, 6], ms := [0], live := rs } ∧
      (rs.map fun r => r.2).sum ≤ 64 ∧ ∀ r, r ∈ rs → r.2 = 0 → r.1 = 0) ∧
    (let s := stGathered 0x10008 0x10008
    Gathered s 0 0 (pair s) ∧ ∀ p, p ∈ pair s → p.2.reorderArrival = some (0x10008, 8, 3, 7)) ∧
    let s := stGathered 0x10008 0
    Gathered s 0 0 (pair s) ∧ (∀ p, p ∈ pair s → p.2.reorderArrival.isSome = true ∧ deliverable s p.2 0x2000) ∧
      ((grp s 1).reorderArrival.map fun x => (x.1, x.2.1)) ≠ ((grp s 2).reorderArrival.map fun x => (x.1, x.2.1)) :=
  ⟨⟨by decide, by decide, by decide, by decide, by decide, by decide, executes_of (by decide), by decide, by decide⟩,
    ⟨gathered_pair (by decide) (by decide) (by decide) (by decide) (by decide) (by decide) (by decide), by decide⟩,
    gathered_pair (by decide) (by decide) (by decide) (by decide) (by decide) (by decide) (by decide),
    fun p hp => by
      simp only [pair, List.mem_cons, List.not_mem_nil, or_false] at hp
      rcases hp with rfl | rfl <;> exact ⟨by decide, by decide, _, rfl, by decide, by decide⟩,
    by decide⟩

/-- Tenant 0 with a kill scope, a fault log and no handler, and a group of another team. -/
def stKill (sc : KillScope) : State :=
  let s := withTenant (fun t => { t with config := { t.config with handler := 0, killScope := sc } }) (withLog (st 0))
  { s with
    grids := [(0, ⟨0, 0, ⟨0x2000, .none, .none, 0, 32, false, 0, 64, 0, 1, 1, 0, 0x1000, [], [], [], []⟩, none, false, 1, [0], true, 0, none, 0,
      none, false⟩)]
    groups := s.groups ++ [(2, { grp s 1 with team := 9 })] }

/-- A scalar code beyond 159; TRAP; a deliverable trap and one that kills; RETT in its three cases. -/
theorem witness_TrapsAndReturns :
    (let s := st 0
    ∃ L, operandsOf (.movSr 160 0 .b64 false) L.uses 0 ∧ saluLogic (.movSr 160 0 .b64 false) = some L ∧ issuer s = some (iss s) ∧
      (heldBack (iss s).g (iss s).n || isFrozen s (iss s).g || stalls s (iss s) L.uses || waitsForPipe s (iss s)) = false ∧
      checkUses (iss s).cl.hdr (iss s).g (isSupervisor s (iss s).g) L.uses = some 0x03) ∧
    (∀ sc : KillScope, let s := stKill sc
    Executes s (iss s) {} ∧ tfind s.groups 1 = some (grp s 1) ∧ (slotOf (grp s 1) 0).isSome = true ∧
      ∃ t, t.config.handler = 0 ∧ t.config.killScope = sc ∧ recordAt s (grp s 1).tenant t 0 0x20000 ∧
        inKillScope s 1 (grp s 1) sc 1 ∧ ¬ inKillScope s 1 (grp s 1) sc 2 ∧ (tfind s.groups 2).isSome = true) ∧
    (let s := withTenant (fun t => { t with config := { t.config with handler := 0x2000 } }) (st 0)
    tfind s.groups 1 = some (grp s 1) ∧ (slotOf (grp s 1) 0).isSome = true ∧ (grp s 1).handler = none ∧
      ∃ t, tfind s.tenants (grp s 1).tenant = some t ∧ t.config.handler = 0x2000 ∧ 0x2000 ≠ 0) ∧
    ∀ hdr : W64, hdr = 0x2000 ∨ hdr = 0x2001 ∨ hdr = 0x10000000000000 →
      let s := withGroup (fun g => { g with handler := some ⟨0, [0, hdr, 0, 0, 0, 0, 0, 0]⟩ }) (st 0)
      Executes s (iss s) {} ∧ (iss s).g.handler = some ⟨0, [0, hdr, 0, 0, 0, 0, 0, 0]⟩ := by
  refine ⟨⟨_, .inr (.inr (.inl ⟨_, .inr rfl, rfl, rfl⟩)), rfl, by decide, by decide, by decide⟩,
    fun sc => by
      cases sc
      · exact ⟨executes_of (by decide), by decide, by decide, _, rfl, rfl, ⟨rfl, by decide, by decide⟩, rfl,
          fun h => absurd (show (2 : Nat) = 1 from h) (by decide), by decide⟩
      · refine ⟨executes_of (by decide), by decide, by decide, _, rfl, rfl, ⟨rfl, by decide, by decide⟩, ⟨_, rfl, by decide⟩, ?_, by decide⟩
        rintro ⟨t, ht, hx⟩
        obtain rfl := Option.some.inj (Eq.trans rfl ht)
        exact absurd hx (by decide)
      · refine ⟨executes_of (by decide), by decide, by decide, _, rfl, rfl, ⟨rfl, by decide, by decide⟩,
          ⟨_, _, 0, _, rfl, rfl, by decide, rfl, by decide⟩, ?_, by decide⟩
        rintro ⟨t, gr, tm, y, ht, hg, hm, hy, hx⟩
        obtain rfl := Option.some.inj (Eq.trans rfl ht)
        obtain rfl := Option.some.inj (Eq.trans rfl hg)
        obtain rfl := List.mem_singleton.mp hm
        obtain rfl := Option.some.inj (Eq.trans rfl hy)
        exact absurd hx (by decide), ⟨by decide, by decide, by decide, _, rfl, by decide, by decide⟩, ?_⟩
  rintro hdr (rfl | rfl | rfl)
  all_goals exact ⟨executes_of (by decide), by decide⟩

/-! ## Witnesses: copies and the matrix engine -/

/-- A tensor without scales, on this device. -/
def ten (space format rank : Nat) (ext strides : List Nat) (base : Nat) : Tensor :=
  ⟨space, format, rank, 0, 0, base, ext, strides, 0, [0, 0, 0]⟩

/-- Four f32 elements in D and in T, an n64 list of four, an n32 list, and an s8-wide one. -/
def tenD : Tensor := ten 2 8 1 [4, 1, 1, 1] [0, 0, 0] 0xB0000
def tenT : Tensor := ten 1 8 1 [4, 1, 1, 1] [0, 0, 0] 0x200
def stT (tensors : SMap Tensor) (tmem : Mem) (k3 : W64 := 0x100) : State :=
  withTeam (fun t => { t with tensors := tensors, tmem := tmem }) (st 0 (withK [(3, k3)]))

/-- TIDSET of 64 zero bytes (illegal), of tenD, outside T and misaligned; TIDINV. -/
theorem witness_TensorTableAndBatches_table :
    (let s := stT [] []
    Executes s (iss s) { ks := [3] } ∧ Executes s (iss s) {} ∧ quietOn s (iss s) (.t 0) ((iss s).block 3 0) 64 ∧
      (iss s).block 3 0 % 64 = 0 ∧ ¬ (descriptorAt s 0 ((iss s).block 3 0)).Admitted) ∧
    (let s := stT [] [(0x100, 2), (0x101, 8), (0x102, 1), (0x10A, 0x0B), (0x110, 4), (0x112, 1), (0x114, 1), (0x116, 1)]
    descriptorAt s 0 ((iss s).block 3 0) = tenD ∧ tenD.Admitted ∧ readSpace s (.t 0) 0x124 4 = 0 ∧ readSpace s (.t 0) 0x136 10 = 0) ∧
    (let s := stT [] [] 0xFFC1
    Executes s (iss s) { ks := [3] } ∧ (bareTeam 1).tPerCore * (bareTeam 1).cores.length < (iss s).block 3 0 + 64) ∧
    let s := stT [] [] 0x110
    Executes s (iss s) { ks := [3] } ∧ (iss s).block 3 0 + 64 ≤ (bareTeam 1).tPerCore * (bareTeam 1).cores.length ∧
      (iss s).block 3 0 % 64 ≠ 0 := by
  refine ⟨⟨executes_of (by decide), executes_of (by decide), fun r hr => absurd hr (List.not_mem_nil), by decide, fun h => ?_⟩,
    ⟨by decide, ⟨by decide, by decide, by decide, by decide, by decide, ?_, by decide, by decide, by decide, by decide⟩, by decide, by decide⟩,
    ⟨executes_of (by decide), by decide⟩, executes_of (by decide), by decide, by decide⟩
  · exact absurd h.space (by decide)
  · decide

/-- CBATCH; WAITB of the open batch, and of the one before it with a copy outstanding and with none. -/
theorem witness_TensorTableAndBatches_batches :
    (let s := withGroup (fun g => { g with batch := 1 }) (st 0 (withK [(9, 1)]))
    Executes s (iss s) { ks := [9] } ∧ upToBatch ((kGet (iss s).g 9).setWidth 16) (iss s).g.batch) ∧
    let s := withGroup (fun g => { g with batch := 1 }) (st 0)
    Executes s (iss s) { ks := [9] } ∧ ¬ upToBatch ((kGet (iss s).g 9).setWidth 16) (iss s).g.batch ∧
      (∀ c, c ∈ s.copies → c.gid ≠ (iss s).gid) ∧ ∀ x, x ∈ s.xchgs → x.gid ≠ (iss s).gid :=
  ⟨⟨executes_of (by decide), (by decide : (1 - 1 : BitVec 16).toNat < 2 ^ 15)⟩, executes_of (by decide),
    fun h => absurd (show (0 - 1 : BitVec 16).toNat < 2 ^ 15 from h) (by decide), by decide, by decide⟩

/-- The 32-byte block of a COPY of tensor 1 to tensor 2, whole. -/
def copyMem : Mem := [(0x100, 1), (0x101, 2), (0x118, 4), (0x11A, 1), (0x11C, 1), (0x11E, 1)]
def copyBlock : CopyBlock := ⟨1, 2, 0, 0, 0, [0, 0, 0, 0], [0, 0, 0, 0], [4, 1, 1, 1]⟩
def stCopy : State := stT [(1, tenD), (2, tenT)] copyMem

theorem copy_admitted : CopyAdmitted stCopy (iss stCopy) { bareTeam 1 with tensors := [(1, tenD), (2, tenT)], tmem := copyMem }
    .copy copyBlock tenD tenT where
  source := ⟨tenD, by decide, by decide⟩
  destination := ⟨tenT, by decide, by decide⟩
  reserved := by decide
  operation := by decide
  filled := fun h => absurd h (by decide)
  bound := by decide
  places := by decide
  box := by decide
  formats := .inl ⟨rfl, .inl rfl⟩
  rows := .inl rfl
  inside := by
    intro p hp
    obtain rfl : p = ([0, 0, 0, 0], [0, 0, 0, 0]) := List.mem_singleton.mp hp
    decide
  size := by decide
  multicast := fun h => absurd rfl h
  slot := fun h => absurd h (by decide)
  spans := by
    intro x hx
    have h : copySpans tenD tenT copyBlock.fill copyBlock.box (CopyForm.copy.pieces (iss stCopy) copyBlock) =
      [(2, false, (0xB0000, 0xB0010)), (1, true, (0x200, 0x210))] := by decide
    rw [h] at hx
    simp only [List.mem_cons, List.not_mem_nil, or_false] at hx
    obtain rfl | rfl := hx
    · exact ⟨fun h => absurd h (by decide), fun _ b h1 h2 => ⟨⟨0xB0000, 0x10000, true⟩, List.mem_singleton.mpr rfl, h1,
        Nat.lt_trans h2 (by decide), fun h => absurd h (by decide)⟩⟩
    · exact ⟨fun _ => ⟨by decide, fun _ b hb => absurd hb (List.not_mem_nil)⟩, fun h => absurd h (by decide)⟩

theorem witness_CopiesAccepted :
    Executes stCopy (iss stCopy) (CopyForm.copy.uses 2 3 .a) ∧
    (∃ t, tfind stCopy.teams (iss stCopy).g.team = some t ∧ TeamFits (iss stCopy) t ∧
      (iss stCopy).block 3 0 + 32 ≤ t.tPerCore * t.cores.length ∧
      CopyAdmitted stCopy (iss stCopy) t .copy (copyBlockAt stCopy 0 ((iss stCopy).block 3 0)) tenD tenT) ∧
    quietOn stCopy (iss stCopy) (.t 0) ((iss stCopy).block 3 0) 32 ∧ (iss stCopy).block 3 0 % 32 = 0 :=
  ⟨executes_of (by decide), ⟨_, rfl, ⟨by decide, by decide, by decide⟩, by decide, copy_admitted⟩, fun r hr => absurd hr List.not_mem_nil,
    by decide⟩

/-- Where the block waits for the group's own store, is misaligned, or lies outside T. -/
theorem witness_CopiesAccepted_not :
    (let s := { stCopy with reqs := [req (.t 0) (.store .w32) [⟨0, 0x100, 1, 0⟩] none] }
    Executes s (iss s) (CopyForm.copy.uses 2 3 .a) ∧ ¬ quietOn s (iss s) (.t 0) ((iss s).block 3 0) 32) ∧
    (let s := stT [] [] 0x108
    Executes s (iss s) ((CopyForm.gather 8 0).uses 2 3 .a) ∧ (iss s).block 3 0 % 32 ≠ 0) ∧
    let s := stT [] [] 0x10000
    Executes s (iss s) ((CopyForm.scatter 8 0).uses 2 3 .a) ∧ (iss s).block 3 0 % 32 = 0 ∧
      (bareTeam 1).tPerCore * (bareTeam 1).cores.length < (iss s).block 3 0 + 32 :=
  ⟨⟨executes_of (by decide), fun h => absurd (h _ (List.mem_singleton.mpr rfl) (.inl rfl) (.inl ⟨_, rfl⟩) rfl _ (List.mem_singleton.mpr rfl)) (by decide)⟩,
    ⟨executes_of (by decide), by decide⟩, executes_of (by decide), by decide, by decide⟩

/-- A ROUTE of four tokens to two experts with one slot each. -/
def tenCh : Tensor := ten 2 5 2 [1, 4, 1, 1] [2, 0, 0] 0xB0000
def tenPm : Tensor := ten 2 6 1 [4, 1, 1, 1] [0, 0, 0] 0xB0100
def tenCt : Tensor := ten 2 6 1 [4, 1, 1, 1] [0, 0, 0] 0xB0200
def stRoute : State := stT [(1, tenCh), (2, tenPm), (3, tenCt)] [(0x100, 1), (0x101, 2), (0x102, 3), (0x103, 1), (0x108, 4), (0x10C, 2)]

theorem span_in (t : Team) (lo hi : Nat) (w : Bool) (ht : t.windows = [⟨0xB0000, 0x10000, true⟩]) (h0 : 0xB0000 ≤ lo)
    (h1 : hi ≤ 0xC0000) : spanPasses t none 2 w (lo, hi) :=
  ⟨fun h => absurd h (by decide), fun _ b h2 h3 => ⟨⟨0xB0000, 0x10000, true⟩, by simp [ht], Nat.le_trans h0 h2,
    Nat.lt_of_lt_of_le h3 h1, fun _ => rfl⟩⟩

theorem witness_RouteSortsExperts :
    Executes stRoute (iss stRoute) (CopyForm.copy.uses 2 3 .b) ∧ (iss stRoute).block 3 0 % 32 = 0 ∧
    ∃ t, tfind stRoute.teams (iss stRoute).g.team = some t ∧ (iss stRoute).g.core ∈ t.cores ∧ t.windows.length ≤ 4 ∧
      quietOn stRoute (iss stRoute) (.t 0) ((iss stRoute).block 3 0) 32 ∧ (iss stRoute).block 3 0 + 32 ≤ t.tPerCore * t.cores.length ∧
      RouteAdmitted stRoute (iss stRoute) t ((iss stRoute).block 3 0) 1 4 2 0 tenCh tenPm tenCt := by
  refine ⟨executes_of (by decide), by decide, _, rfl, by decide, by decide, fun r hr => absurd hr List.not_mem_nil, by decide,
    by decide, ?_, by decide, by decide, by decide, by decide, by decide, by decide, ?_⟩
  · intro j x h
    simp only [List.mem_cons, Prod.mk.injEq, List.not_mem_nil, or_false] at h
    obtain ⟨rfl, rfl⟩ | ⟨rfl, rfl⟩ | ⟨rfl, rfl⟩ := h
    · exact ⟨by decide, _, rfl, by decide⟩
    · exact ⟨by decide, _, rfl, by decide⟩
    · exact ⟨by decide, _, rfl, by decide⟩
  · exact ⟨span_in _ _ _ _ rfl (by decide) (by decide), span_in _ _ _ _ rfl (by decide) (by decide),
      span_in _ _ _ _ rfl (by decide) (by decide)⟩

/-- A running copy of tenD to tenT, and one that has delivered all. -/
def copy0 : Copy :=
  { id := 5, gid := 1, serial := 0, after := [], tenant := 0, team := 0, core := 0, kind := .copy, seq := 3, src := tenD, dst := tenT, dst2 := tenT
    srcC := [0, 0, 0, 0], dstC := [0, 0, 0, 0], box := [4, 1, 1, 1], op := 0, fill := 0, barrier := none, multi := false
    members := [⟨0, 0, 0⟩], dropped := 0, rows := [], ahead := false, data := [], out := none, total := 4, delivered := 0, state := none
    parkedOn := none, fatal := none, got := [], asking := [], units := [], held := none, sent := 0, tile := none, tileRead := true, owed := 9, batch := 0
    accepted := 0 }
def copy1 : Copy := { copy0 with members := [⟨0, 0, 4⟩], delivered := 16 }
def copy2 : Copy := { copy1 with state := some (2, 13), barrier := some 0x40 }

/-- A copy out of T or D of one member, with nothing before it, moves next. -/
theorem moves_of {s : State} {c : Copy} {m : Member} (h : (c.state = none ∧ c.asking = [] ∧ c.parkedOn = none ∧ c.fatal = none ∧
      c.sent = 0 ∧ c.out = none ∧ c.held = none) ∧ c.kind = .copy ∧ c.members = [m] ∧
      (m.pos < c.total ∧ m.pos ≤ c.data.length ∧ c.data.length ≤ c.total) ∧ (1 ≤ c.box.getD 0 1 ∧ c.box.getD 0 1 ∣ c.total) ∧
      (c.src.space = 1 ∨ c.src.space = 2) ∧ c.src.z ∣ c.src.base ∧ (∀ x, x ∈ c.src.strides → c.src.z ∣ x) ∧ s.reqs = [] ∧ s.banks = [] ∧
      (((tfind s.tenants c.tenant).map fun t => t.state) ≠ some .frozen) ∧ plain s c.tenant = true)
    (hf : (c.op = 0 ∧ (c.src.format = c.dst.format ∨ (convertibleFormat c.src.format ∧ convertibleFormat c.dst.format))) ∨
      (c.op = 1 ∧ c.src.format = 8 ∧ c.dst.format = 8) ∨ (c.op = 2 ∧ c.src.format = 10 ∧ c.dst.format = 10)) : MovesNext s c m := by
  obtain ⟨h1, h2, h3, h4, h5, h6, h7, h8, h9, h10, h11, h12⟩ := h
  refine ⟨.inl h2, h1, ⟨[], [], h3, fun x hx => absurd hx List.not_mem_nil, fun x hx => absurd hx List.not_mem_nil⟩, h4, h5, h6, hf, ⟨h7, h8⟩,
    fun r hr => absurd (h9 ▸ hr) List.not_mem_nil, fun t ht hs => h11 (by simp [ht, hs]), noAlmanac_of h12, fun b l a h => ?_⟩
  rw [h10] at h
  cases h

/-- A copy that converts f32 to f16 into slot 3 of array 0, at the head of the slot's fill order; one that adds, and credits a barrier. -/
def copySlot : Copy := { copy0 with dst := { ten 4 9 1 [4, 1, 1, 1] [0, 0, 0] 12 with rank := 2 } }
def copyAdd : Copy := { copy0 with op := 1, barrier := some 0x40 }

theorem witness_CopiesDeliverAndComplete :
    (let s := { st 0 with copies := [copy0] }
    s.copies.find? (fun x => x.id == copy0.id) = some copy0 ∧ MovesNext s copy0 ⟨0, 0, 0⟩ ∧ copy0.dst.space = 1 ∧ copy0.state = none ∧
      ∃ m, m ∈ copy0.members ∧ m.pos ≠ copy0.total) ∧
    (let s := { stBar (bar 1 []) with copies := [copyAdd] }
    s.copies.find? (fun x => x.id == copyAdd.id) = some copyAdd ∧ MovesNext s copyAdd ⟨0, 0, 0⟩ ∧ copyAdd.barrier = some 0x40 ∧
      ((tfind s.teams copyAdd.team).bind fun tm => tm.barriers.find? fun y => y.addr == 0x40) = some (bar 1 []) ∧
      (bar 1 []).landed + 4 * copyAdd.stop ⟨0, 0, 0⟩ < 2 ^ 32) ∧
    (let o : OpSlot := ⟨some 1, 0, 0, false, [], [], [5]⟩
    let s := { st 0 with copies := [copySlot], arrays := [(0, ⟨[(3, o)], [], []⟩)] }
    s.copies.find? (fun x => x.id == copySlot.id) = some copySlot ∧ MovesNext s copySlot ⟨0, 0, 0⟩ ∧ copySlot.dst.space = 4 ∧
      slotGet s (arrayIx 0 (copySlot.dst.base % 4)) (copySlot.dst.base / 4) = some o ∧ o.fill.head? = some copySlot.id ∧ o.full = false) ∧
    (let o : Owed := ⟨9, 1, 3, .copy, some 0, [.k 2], [], 1, 0⟩
    let s := { st 0 with copies := [copy1], owed := [o] }
    s.copies.find? (fun x => x.id == copy1.id) = some copy1 ∧ (∀ m, m ∈ copy1.members → m.pos = copy1.total) ∧ copy1.asking = [] ∧
      copy1.sent = 0 ∧ s.owed.find? (fun x => x.id == copy1.owed) = some o ∧ o.dests = [.k 2]) ∧
    let o : Owed := ⟨9, 1, 3, .copy, some 0, [.k 2], [], 1, 0⟩
    let s := { stBar (bar 1 []) with copies := [copy2], owed := [o] }
    s.copies.find? (fun x => x.id == copy2.id) = some copy2 ∧ copy2.state.isSome = true ∧
      s.owed.find? (fun x => x.id == copy2.owed) = some o ∧ o.dests = [.k 2] ∧ copy2.barrier = some 0x40 ∧
      ((tfind s.teams copy2.team).bind fun tm => tm.barriers.find? fun x => x.addr == 0x40) = some (bar 1 []) := by
  exact ⟨⟨by decide, moves_of (by decide) (.inl ⟨rfl, .inl rfl⟩), rfl, rfl, by decide⟩,
    ⟨by decide, moves_of (by decide) (.inr (.inl ⟨rfl, rfl, rfl⟩)), rfl, by decide, by decide⟩,
    ⟨by decide, moves_of (by decide) (.inl ⟨rfl, .inr (by unfold convertibleFormat; decide)⟩), rfl, by decide, by decide, by decide⟩,
    ⟨by decide, by decide, rfl, rfl, by decide, rfl⟩, by decide, rfl, by decide, rfl, rfl, by decide⟩

/-- Array 0 with some slots and tiles of group 1. -/
def slot1 (owner : Nat) (full : Bool) : OpSlot := ⟨some owner, 0, 0, full, [], [], []⟩
def stArr (slots : SMap OpSlot) (tiles : SMap Tile) (jobs : List Job) (ks : List (Nat × W64) := []) : State :=
  { st 0 (withK ks) with arrays := [(0, ⟨slots, tiles, jobs⟩)] }

/-- A job of one step on tile 2 over slots 0 and 1. -/
def job0 : Job := ⟨1, 2, 9, 64, 64, 64, 1, 0, 0, 1, 1, 0, true, true, 0, [], 9, 0⟩

/-- SCLAIM and SREL of all sixteen slots, of one that another group holds, of one that a job visits. -/
theorem witness_SlotsAndTokens_slots :
    (let s := st 0
    Executes s (iss s) {} ∧ arrayIx (iss s).g.core (0 : BitVec 2).toNat = 0 ∧
      (∀ k g, k ∈ slotsFrom 0 15 → ((slotGet s 0 k).bind fun o => o.claim) = some g → g = (iss s).gid) ∧
      ∃ k, k ∈ slotsFrom 0 15 ∧ ((slotGet s 0 k).bind fun o => o.claim) ≠ some (iss s).gid) ∧
    (let s := stArr [(15, slot1 9 false)] [] []
    Executes s (iss s) {} ∧ ∃ k g, k ∈ slotsFrom 15 0 ∧ ((slotGet s 0 k).bind fun o => o.claim) = some g ∧ g ≠ (iss s).gid) ∧
    (let s := stArr [(3, slot1 1 false)] [] []
    Executes s (iss s) {} ∧ (∀ k, k ∈ slotsFrom 3 0 → ((slotGet s 0 k).bind fun o => o.claim) = some (iss s).gid) ∧
      ∀ k, k ∈ slotsFrom 3 0 → ¬ slotInUse s 0 k) ∧
    let s := stArr [(0, slot1 1 false)] [] [job0]
    Executes s (iss s) {} ∧ (∀ k, k ∈ slotsFrom 0 0 → ((slotGet s 0 k).bind fun o => o.claim) = some (iss s).gid) ∧
      ∃ k, k ∈ slotsFrom 0 0 ∧ slotInUse s 0 k := by
  refine ⟨⟨executes_of (by decide), by decide, (fun k g _ h => nomatch (show (none : Option Nat) = some g from h)), 0, by decide,
      by decide⟩,
    ⟨executes_of (by decide), 15, 9, by decide, by decide, by decide⟩, ⟨executes_of (by decide), by decide, ?_⟩,
    executes_of (by decide), by decide, 0, by decide, .inr ⟨job0, List.mem_singleton.mpr rfl, 0, by decide, .inl rfl⟩⟩
  rintro k - (⟨c, m, hc, -⟩ | ⟨j, hj, -⟩)
  · exact absurd hc List.not_mem_nil
  · exact absurd hj List.not_mem_nil

/-- A tile without an owner, of another group, and of group 1 on each side, with and without a job or a store. -/
theorem witness_SlotsAndTokens_tokens :
    (let s := st 0
    Executes s (iss s) {} ∧ ((arrayGet s 0).tile 2).owner = none ∧ ((arrayGet s 0).tile 2).owner ≠ some (iss s).gid) ∧
    (let s := stArr [] [(2, ⟨some 9, true, []⟩)] []
    ((arrayGet s 0).tile 2).owner = some 9 ∧ 9 ≠ (iss s).gid) ∧
    (let s := stArr [] [(2, ⟨some 1, true, []⟩)] []
    Executes s (iss s) {} ∧ ((arrayGet s 0).tile 2).owner = some (iss s).gid ∧ ((arrayGet s 0).tile 2).groupSide = true ∧
      ¬ tileStores s 0 2 ∧ ¬ tileRuns s 0 2) ∧
    (let s := stArr [] [(2, ⟨some 1, false, []⟩)] [job0]
    Executes s (iss s) {} ∧ ((arrayGet s 0).tile 2).owner = some (iss s).gid ∧ ((arrayGet s 0).tile 2).groupSide = false ∧
      tileRuns s 0 2) ∧
    let s := { stArr [] [(2, ⟨some 1, true, []⟩)] [] with
      copies := [{ copy0 with tileRead := false, tile := some (0, 0, 2) }] }
    Executes s (iss s) {} ∧ ((arrayGet s 0).tile 2).owner = some (iss s).gid ∧ ((arrayGet s 0).tile 2).groupSide = true ∧
      tileStores s 0 2 :=
  ⟨⟨executes_of (by decide), by decide, by decide⟩, ⟨by decide, by decide⟩,
    ⟨executes_of (by decide), by decide, by decide, fun ⟨c, _, _, hc, _⟩ => absurd hc List.not_mem_nil,
      fun ⟨j, hj, _⟩ => absurd hj List.not_mem_nil⟩,
    ⟨executes_of (by decide), by decide, by decide, job0, List.mem_singleton.mpr rfl, rfl⟩,
    executes_of (by decide), by decide, by decide, _, 0, 0, List.mem_singleton.mpr rfl, rfl, rfl, rfl⟩

/-- WAITB of the batch of a copy that is under way. -/
theorem witness_TensorTableAndBatches_unfinished :
    let s := { withGroup (fun g => { g with batch := 1 }) (st 0) with copies := [copy0] }
    Executes s (iss s) { ks := [9] } ∧ ¬ upToBatch ((kGet (iss s).g 9).setWidth 16) (iss s).g.batch ∧
      ∃ c, c ∈ s.copies ∧ c.gid = (iss s).gid ∧ upToBatch ((kGet (iss s).g 9).setWidth 16) c.batch :=
  ⟨executes_of (by decide), fun h => absurd (show (0 - 1 : BitVec 16).toNat < 2 ^ 15 from h) (by decide), copy0,
    List.mem_singleton.mpr rfl, rfl, (by decide : (0 - 0 : BitVec 16).toNat < 2 ^ 15)⟩

/-- Two ACQs of tile 2 of array 1 in one clock, the other from partition 0. -/
def stContest : State :=
  let s := st 0x9094000000000000
  let s := { s with groups := s.groups ++ [(2, grp s 1)], agenda := [⟨0, .issue 2 0⟩] }
  withGroup (fun g => { g with position := 1 }) s

theorem witness_SlotsAndTokens_contested :
    Executes stContest (iss stContest) {} ∧ ((arrayGet stContest (arrayIx (iss stContest).g.core 1)).tile 2).owner = none ∧
      acqContested stContest (iss stContest) 1 2 :=
  ⟨executes_of (by decide), by decide, [], 2, 0, [], (issOf stContest 2 0).getD ⟨0, 0, bareGroup 0, bareSlot, oneWordClause 0⟩,
    rfl, by decide, by decide, by decide, by decide, by decide, by decide, by decide⟩

/-- MREAD of the last half-row and of one beyond it, with the token. -/
theorem witness_TilesAreReadAndStored_rows :
    (let s := stArr [] [(2, ⟨some 1, true, []⟩)] [] [(30, 127)]
    Executes s (iss s) { fs := .a, vs := [vreg 8], ks := [30], tracked := 1 } ∧ Executes s (iss s) { vs := [vsrc 8], ks := [30] } ∧
      (kGet (iss s).g 30).toNat < 128 ∧ ((arrayGet s 0).tile 2).owner = some (iss s).gid ∧ ((arrayGet s 0).tile 2).groupSide = true ∧
      ¬ tileStores s 0 2) ∧
    (let s := st 0 (withK [(30, 128)])
    Executes s (iss s) { fs := .a, vs := [vreg 8], ks := [30], tracked := 1 } ∧ 128 ≤ (kGet (iss s).g 30).toNat) ∧
    let s := st 0
    Executes s (iss s) { vs := [vsrc 8], ks := [30] } ∧ (kGet (iss s).g 30).toNat < 128 ∧ ((arrayGet s 0).tile 2).groupSide = false :=
  ⟨⟨executes_of (by decide), executes_of (by decide), by decide, by decide, by decide,
      fun ⟨c, _, _, hc, _⟩ => absurd hc List.not_mem_nil⟩, ⟨executes_of (by decide), by decide⟩, executes_of (by decide), by decide,
    by decide⟩

/-- An MSTORE of one element of tile 2 to tenD (tensor 1). -/
def stStore : State :=
  withTeam (fun t => { t with tensors := [(1, tenD)] }) (stArr [] [(2, ⟨some 1, true, []⟩)] [] [(14, 0), (15, 1)])

theorem witness_TilesAreReadAndStored_store :
    Executes stStore (iss stStore) { fs := .a, ks := [14, 15], tracked := 1 } ∧
    ∃ t, tfind stStore.teams (iss stStore).g.team = some t ∧ (iss stStore).g.core ∈ t.cores ∧ t.windows.length ≤ 4 ∧
      StoreAdmitted stStore (iss stStore) t (kGet (iss stStore).g 14).toNat (kGet (iss stStore).g 15).toNat tenD
        ((arrayGet stStore (arrayIx (iss stStore).g.core (0 : BitVec 2).toNat)).tile (2 : BitVec 3).toNat) :=
  ⟨executes_of (by decide), _, rfl, by decide, by decide, ⟨by decide, _, rfl, by decide⟩, by decide, ⟨by decide, by decide, by unfold convertibleFormat; decide⟩,
    by decide, fun h => absurd h (by decide), ⟨span_in _ _ _ _ rfl (by decide) (by decide), fun x h => absurd h (by simp [Tensor.scaleSpan, tenD, ten])⟩,
    by decide⟩

/-- MLOOP with a legal shape: with the token and its slots, a count of 0 and of 1, a full queue; without slots; without the token. -/
def stLoop (jobs : List Job) (count : W64) (slots : SMap OpSlot := [(0, slot1 1 false), (1, slot1 1 false)]) : State :=
  stArr slots [(2, ⟨some 1, false, []⟩)] jobs [(20, 0x9404040), (21, count)]
def loopUses : Uses := { fs := .a, ks := [20, 21] }

theorem shape_legal (ct : Nat) (h : ct < 2 ^ 32) : ShapeLegal 0x9404040 ct :=
  ⟨⟨by decide, by decide, by decide, h⟩, by decide, by decide, by decide, by decide⟩

theorem witness_MloopQueues :
    (let s := stLoop [] 1
    Executes s (iss s) loopUses ∧ ShapeLegal (kGet (iss s).g 20).toNat (kGet (iss s).g 21).toNat ∧
      ((arrayGet s 0).tile 2).owner = some (iss s).gid ∧ ((arrayGet s 0).tile 2).groupSide = false ∧
      (∀ k, visits 0 1 2 1 k → ∃ o, slotGet s 0 k = some o ∧ o.claim.isSome = true ∧ o.team = (iss s).g.team) ∧
      (arrayGet s 0).jobs.length < 4) ∧
    (let s := stLoop [job0, job0, job0, job0] 1
    Executes s (iss s) loopUses ∧ ShapeLegal (kGet (iss s).g 20).toNat (kGet (iss s).g 21).toNat ∧ 4 ≤ (arrayGet s 0).jobs.length) ∧
    (let s := stLoop [] 0
    Executes s (iss s) loopUses ∧ ShapeLegal (kGet (iss s).g 20).toNat (kGet (iss s).g 21).toNat ∧
      ∀ k, visits 0 1 2 0 k → ∃ o, slotGet s 0 k = some o) ∧
    (let s := stLoop [] 1 []
    Executes s (iss s) loopUses ∧ ((arrayGet s 0).tile 2).owner = some (iss s).gid ∧
      ¬ ∀ k, visits 0 1 2 1 k → ∃ o, slotGet s 0 k = some o) ∧
    let s := st 0
    Executes s (iss s) loopUses ∧ ¬ ShapeLegal (kGet (iss s).g 20).toNat (kGet (iss s).g 21).toNat := by
  refine ⟨⟨executes_of (by decide), shape_legal _ (by decide), by decide, by decide, ?_, by decide⟩,
    ⟨executes_of (by decide), shape_legal _ (by decide), by decide⟩, ⟨executes_of (by decide), shape_legal _ (by decide), ?_⟩,
    ⟨executes_of (by decide), by decide, fun h => ?_⟩, executes_of (by decide), fun h => absurd h.format (by decide)⟩
  · rintro k ⟨n, hn, h⟩
    obtain rfl : n = 0 := Nat.lt_one_iff.mp (by simpa using hn)
    obtain rfl | rfl := h
    · exact ⟨_, rfl, by decide, by decide⟩
    · exact ⟨_, rfl, by decide, by decide⟩
  · rintro k ⟨n, hn, -⟩
    simp at hn
  · obtain ⟨o, ho⟩ := h 0 ⟨0, by decide, .inl rfl⟩
    cases ho

/-- A job of one step whose slots are full. -/
theorem witness_KStepsRun :
    let s := { stArr [(0, slot1 1 true), (1, slot1 1 true)] [(2, ⟨some 1, false, []⟩)] [job0] with now := 16 }
    (arrayGet s (arrayIx 0 0)).jobs = [] ++ job0 :: [] ∧ stepReady s.now (arrayGet s (arrayIx 0 0)) [] job0 ∧
      tfind (arrayGet s (arrayIx 0 0)).slots ((job0.a + job0.step * job0.inc) % 16) = some (slot1 1 true) ∧
      tfind (arrayGet s (arrayIx 0 0)).slots ((job0.b + job0.step * job0.inc) % 16) = some (slot1 1 true) ∧
      tfind (arrayGet s (arrayIx 0 0)).tiles job0.tile = some ⟨some 1, false, []⟩ ∧ allHeld s (arrayGet s (arrayIx 0 0)) ∧
      job0.m ≤ 64 ∧ job0.n ≤ 64 ∧ 9 ≤ job0.format ∧ job0.format ≤ 12 ∧ job0.step + 1 = job0.count := by
  refine ⟨by decide, ⟨fun k hk => absurd hk List.not_mem_nil, by decide, by decide, .inr (by decide)⟩, by decide, by decide, by decide,
    ⟨?_, ?_⟩, by decide, by decide, by decide, by decide, by decide⟩
  · intro p hp
    have hp : p ∈ [(0, slot1 1 true), (1, slot1 1 true)] := hp
    simp only [List.mem_cons, List.not_mem_nil, or_false] at hp
    obtain rfl | rfl := hp
    · exact ⟨1, rfl, by decide⟩
    · exact ⟨1, rfl, by decide⟩
  · intro p hp
    obtain rfl := List.mem_singleton.mp (show p ∈ [(2, (⟨some 1, false, []⟩ : Tile))] from hp)
    exact ⟨1, rfl, by decide⟩

/-- A sum of one zero, of 1 and 2 (E = 1), of a NaN, of an infinity; two finite values of ACC26. -/
theorem witness_KStepsRun_sums :
    (∀ p, p ∈ [FVal.fin false 0 0] → p.value = some 0) ∧
    (∃ q, FVal.value (.fin false 1 1) = some q ∧ |q| < (2 : Rat) ^ ((1 : Int) + 1) ∧ (2 : Rat) ^ (1 : Int) ≤ |q|) ∧
    (∀ sg, FVal.nan sg ∉ [FVal.inf true]) ∧ FVal.inf (!true) ∉ [FVal.inf true] ∧
    (unpack fmtAcc 0).value.isSome = true :=
  ⟨by simp [FVal.value], ⟨2, by norm_num [FVal.value], by norm_num, by norm_num⟩, by simp, by simp, rfl⟩

/-! ## Witnesses: meshes, rays and the rasteriser -/

/-- A mesh of two triangles and four vertices at 0xB0000, whose first symbol is SEED; its identifier is 5. -/
def meshMem : Mem := [(0xB0000, 0x4D), (0xB0001, 0x53), (0xB0002, 0x48), (0xB0003, 0x31), (0xB0004, 1), (0xB0006, 1), (0xB0008, 2),
  (0xB000C, 4), (0xB0010, 0x40), (0xB0014, 0x80), (0xB0018, 0xC0), (0xB001D, 1), (0xB0038, 64), (0xB0040, 4), (0xB00CE, 1)]
def mesh0 : Mesh := ⟨1, 2, 4, 4, 0xB0040, 0xB0080, 0xB00C0, 0xB0100, [0, 0, 0], [0, 0, 0], 64⟩
def stream0 : Stream := ⟨0, 2, 0xB0000⟩
def windows0 : List Window := [⟨0xB0000, 0x10000, true⟩]
def stMesh (ks : List (Nat × W64)) (h : Group → Group := id) : State :=
  { withTeam (fun t => { t with tensors := [(5, ten 2 16 1 [1, 1, 1, 1] [0, 0, 0] 0xB0000)] }) (st 0 fun g => h (withK ks (withPath 1 g))) with
    scratch := meshMem }

theorem names_mesh (ks : List (Nat × W64)) (h : Group → Group) (ht : (iss (stMesh ks h)).g.team = 0)
    (hn : (iss (stMesh ks h)).g.tenant = 0) : namesStream (stMesh ks h) (iss (stMesh ks h)) 5 stream0 :=
  ⟨{ bareTeam 1 with tensors := [(5, ten 2 16 1 [1, 1, 1, 1] [0, 0, 0] 0xB0000)] }, ten 2 16 1 [1, 1, 1, 1] [0, 0, 0] 0xB0000,
    by rw [ht]; rfl, rfl, rfl, by rw [hn]; rfl⟩

/-- RINIT with and without lanes and an auxiliary mask; RBOX of a node at the window's start, outside it, misaligned. -/
theorem witness_RaysAreTested_boxes :
    (let s := st 0
    Executes s (iss s) { fs := .a, vs := [vreg 40 12, vreg 32 8], ms := [0], mdst := if (5 : MCode) = 0 then [] else [5], tracked := 13 } ∧
      (iss s).active 0 ≠ 0 ∧ (iss s).active 1 = 0) ∧
    (let s := stLane 0 [(2, 0xB0000)]
    Executes s (iss s) { fs := .a, vs := [vreg 40 12, vreg 28 12, vsrc 386], ms := [0], tracked := 12 } ∧ (iss s).active 0 ≠ 0 ∧
      ∀ l, l ∈ (iss s).lanes 0 → allocated s (iss s).g .d false (srcLane (iss s).g 386 l 1) 64 ∧
        srcLane (iss s).g 386 l 1 % 64 = 0 ∧ quietOn s (iss s) .d (srcLane (iss s).g 386 l 1) 64) ∧
    (let s := { stLane 0 [(2, 0xB0000)] with reqs := [req .d (.store .w32) [⟨0, 0xB0020, 1, 0⟩] none] }
    Executes s (iss s) { fs := .a, vs := [vreg 40 12, vreg 28 12, vsrc 386], ms := [0], tracked := 12 } ∧
      ∃ l, l ∈ (iss s).lanes 0 ∧ ¬ quietOn s (iss s) .d (srcLane (iss s).g 386 l 1) 64) ∧
    (let s := stLane 0 []
    Executes s (iss s) { fs := .a, vs := [vreg 40 12, vreg 28 12, vsrc 386], ms := [0], tracked := 12 } ∧
      ∃ l, l ∈ (iss s).lanes 0 ∧ ¬ allocated s (iss s).g .d false (srcLane (iss s).g 386 l 1) 64) ∧
    (let s := stLane 0 [(2, 0xBFFC0 - 32)]
    (∀ l, l ∈ (iss s).lanes 0 → allocated s (iss s).g .d false (srcLane (iss s).g 386 l 1) 64) ∧
      ∃ l, l ∈ (iss s).lanes 0 ∧ srcLane (iss s).g 386 l 1 % 64 ≠ 0) ∧
    (FVal.value (.fin false 1 0)).isSome = true := by
  refine ⟨⟨executes_of (by decide), by decide, by decide⟩, ⟨executes_of (by decide), by decide, fun l hl => ?_⟩,
    ⟨executes_of (by decide), 0, by decide, fun h => absurd (h _ (List.mem_singleton.mpr rfl) (.inl rfl) (.inl ⟨_, rfl⟩) rfl _
      (List.mem_singleton.mpr rfl)) (by decide)⟩,
    ⟨executes_of (by decide), 0, by decide, ?_⟩, ⟨fun l hl => ?_, 0, by decide, by decide⟩, rfl⟩
  · obtain rfl : l = 0 := List.mem_singleton.mp ((by decide : (iss (stLane 0 [(2, 0xB0000)])).lanes 0 = [0]) ▸ hl)
    exact ⟨allocated_of (by decide), by decide, fun r hr => absurd hr List.not_mem_nil⟩
  · rintro ⟨t, ht, h⟩
    obtain rfl : t = bareTeam 1 := Option.some.inj (ht.symm.trans rfl)
    obtain ⟨w, hw, h1, -⟩ := h _ (.inl rfl)
    obtain rfl := List.mem_singleton.mp hw
    exact absurd h1 (by decide)
  · obtain rfl : l = 0 := List.mem_singleton.mp ((by decide : (iss (stLane 0 [(2, 0xBFFA0)])).lanes 0 = [0]) ▸ hl)
    exact allocated_of (by decide)

/-- A number that f32 holds is its own nearest. -/
theorem nearest_of {b : Nat} {x : Rat} (hv : (unpack fmtF32 b).value = some x) (hb : b < 2 ^ 32) (h0 : x = 0 → b = 0)
    (hn : x ≠ 0 → (2 ^ 31 ≤ b ↔ x < 0)) (hs : |x| < (2 : Rat) ^ 128 - 2 ^ 103) : nearestTo x x := by
  refine ⟨b, ⟨hb, h0, hn, fun h => absurd h (not_le.mpr hs), fun _ => ⟨x, hv, fun c y _ => ⟨by simp, fun h hy => ?_⟩⟩⟩, hv⟩
  rw [sub_self, abs_zero] at h
  exact absurd (sub_eq_zero.mp (abs_eq_zero.mp h.symm)) hy

theorem nearest_small {x : Rat} (h : x = 0 ∨ x = 1 ∨ x = -1 ∨ x = 3) : nearestTo x x := by
  rcases h with rfl | rfl | rfl | rfl
  · exact nearest_of (b := 0) (by norm_num [unpack, fmtF32, FVal.value]) (by norm_num) (by simp) (by simp) (by norm_num)
  · exact nearest_of (b := 0x3F800000) ((by decide : unpack fmtF32 0x3F800000 = .fin false 0x800000 (-23)) ▸ by norm_num [FVal.value]) (by norm_num) (by simp) (by norm_num) (by norm_num)
  · exact nearest_of (b := 0xBF800000) ((by decide : unpack fmtF32 0xBF800000 = .fin true 0x800000 (-23)) ▸ by norm_num [FVal.value]) (by norm_num) (by simp) (by norm_num) (by norm_num)
  · exact nearest_of (b := 0x40400000) ((by decide : unpack fmtF32 0x40400000 = .fin false 0xC00000 (-22)) ▸ by norm_num [FVal.value]) (by norm_num) (by simp) (by norm_num) (by norm_num)

/-- The ray from the origin along +z, in v40 to v51 of lane 0, and a buffer with the triangle (-1, -1, 1), (3, -1, 1), (-1, 3, 1). -/
def rayGroup : Group :=
  withV 40 [0] (withV 41 [0] (withV 42 [0] (withV 43 [0] (withV 44 [0] (withV 45 [0x3F800000] (withV 46 [0x7F800000]
    (withV 47 [0x7F800000] (withV 48 [0x7F800000] (withV 49 [0] (withV 50 [0x7F800000] (withV 51 [4] (bareGroup 0))))))))))))
def triBuf0 : TriBuf := ⟨0x10010000, [(0, 0xBF800000), (1, 0xBF800000), (2, 0x3F800000), (3, 0x40400000), (4, 0xBF800000), (5, 0x3F800000),
  (6, 0xBF800000), (7, 0x40400000), (8, 0x3F800000)]⟩

/-- The ray crosses the sheared triangle; it meets a node's first child whose planes are all 0, at tmin, its reciprocals infinite. -/
theorem witness_RaysAreTested_hits :
    (¬ infoMisses (rayWord rayGroup 40 0 11) ∧ 0 < triBuf0.status.toNat / 2 ^ 16 % 32 ∧
      triSheared rayGroup triBuf0 40 0 0 (-1, -1, 1) (3, -1, 1) (-1, 3, 1) ∧ triCrossed (-1, -1, 1) (3, -1, 1) (-1, 3, 1)) ∧
    let s := { st 0 with scratch := [(0xB002D, 0x40)] }
    rayRegular rayGroup 40 0 ∧ childMet s rayGroup 40 0 0xB0000 0 (.fin false 0 (-149)) := by
  have inf : unpack fmtF32 0x7F800000 = .inf false := by decide
  have one : (unpack fmtF32 0x3F800000).value = some 1 := (by decide : unpack fmtF32 0x3F800000 = .fin false 0x800000 (-23)) ▸ by
    norm_num [FVal.value]
  have neg : (unpack fmtF32 0xBF800000).value = some (-1) := (by decide : unpack fmtF32 0xBF800000 = .fin true 0x800000 (-23)) ▸ by
    norm_num [FVal.value]
  have three : (unpack fmtF32 0x40400000).value = some 3 := (by decide : unpack fmtF32 0x40400000 = .fin false 0xC00000 (-22)) ▸ by
    norm_num [FVal.value]
  have zero : (unpack fmtF32 0).value = some 0 := by norm_num [unpack, fmtF32, FVal.value]
  have origin : ∀ j, j < 3 → (rayVal rayGroup 40 0 j).value = some 0 := fun j hj =>
    (by decide : ∀ j, j < 3 → rayVal rayGroup 40 0 j = unpack fmtF32 0) j hj ▸ zero
  have d0 : (rayVal rayGroup 40 0 3).value = some 0 := (by decide : rayVal rayGroup 40 0 3 = unpack fmtF32 0) ▸ zero
  have d1 : (rayVal rayGroup 40 0 4).value = some 0 := (by decide : rayVal rayGroup 40 0 4 = unpack fmtF32 0) ▸ zero
  have d2 : (rayVal rayGroup 40 0 5).value = some 1 := (by decide : rayVal rayGroup 40 0 5 = unpack fmtF32 0x3F800000) ▸ one
  have info : rayWord rayGroup 40 0 11 = 4 := by decide
  have vertex : ∀ (v : Nat → FVal) (x y : Rat), (v 0).value = some x → (v 1).value = some y → (v 2).value = some 1 →
      (x = -1 ∨ x = 3) → (y = -1 ∨ y = 3) → shearedVertex (rayVal rayGroup 40 0) v 0 1 2 0 0 1 (x, y, 1) := by
    intro v x y h0 h1 h2 hx hy
    have sx : x = 0 ∨ x = 1 ∨ x = -1 ∨ x = 3 := by tauto
    have sy : y = 0 ∨ y = 1 ∨ y = -1 ∨ y = 3 := by tauto
    refine ⟨fun j => if j = 0 then x else if j = 1 then y else 1, fun j hj => ?_, ?_, ?_, ?_⟩
    · obtain rfl | rfl | rfl : j = 0 ∨ j = 1 ∨ j = 2 := by omega
      · exact ⟨x, 0, h0, origin 0 (by omega), by simpa using nearest_small sx⟩
      · exact ⟨y, 0, h1, origin 1 (by omega), by simpa using nearest_small sy⟩
      · exact ⟨1, 0, h2, origin 2 (by omega), by simpa using nearest_small (x := 1) (by norm_num)⟩
    · simpa using nearest_small sx
    · simpa using nearest_small sy
    · simpa using nearest_small (x := 1) (by norm_num)
  have word : ∀ n, n < 9 → unpack fmtF32 (tget 0 triBuf0.words n).toNat = unpack fmtF32 ([0xBF800000, 0xBF800000, 0x3F800000, 0x40400000,
    0xBF800000, 0x3F800000, 0xBF800000, 0x40400000, 0x3F800000].getD n 0) := by decide
  refine ⟨⟨by rw [info]; norm_num [infoMisses], by decide, ?_, ?_⟩, ⟨fun j hj => ?_, ?_⟩, ?_⟩
  · unfold triSheared
    simp only [info]
    exact ⟨0, 0, 1, .inl ⟨0, 1, d0, d2, one_ne_zero, by simpa using nearest_small (x := 0) (by norm_num)⟩,
      .inl ⟨0, 1, d1, d2, one_ne_zero, by simpa using nearest_small (x := 0) (by norm_num)⟩,
      .inl ⟨1, 1, by norm_num [FVal.value], d2, one_ne_zero, by simpa using nearest_small (x := 1) (by norm_num)⟩,
      vertex _ _ _ (word 0 (by omega) ▸ neg) (word 1 (by omega) ▸ neg) (word 2 (by omega) ▸ one) (.inl rfl) (.inl rfl),
      vertex _ _ _ (word 3 (by omega) ▸ three) (word 4 (by omega) ▸ neg) (word 5 (by omega) ▸ one) (.inr rfl) (.inl rfl),
      vertex _ _ _ (word 6 (by omega) ▸ neg) (word 7 (by omega) ▸ three) (word 8 (by omega) ▸ one) (.inl rfl) (.inr rfl)⟩
  · norm_num [triCrossed, edgeU, edgeV, edgeW]
  · exact (by decide : ∀ j, j < 3 → (rayVal rayGroup 40 0 j).isFin = true) j hj
  · decide
  · have point : ∀ r, planeAt (unpack fmtF32 0) 0 0 r (unpack fmtF32 0) := fun r =>
      ⟨unpack fmtF32 0, 0, zero, by simpa using zero, fun h => h, fun _ => rfl, fun v hv => ⟨false, 0, 0, ⟨fun _ => rfl, fun h =>
        absurd (Option.some.inj (hv.symm.trans zero)) h⟩, rfl⟩⟩
    have least : ∀ x y : FVal, x.isNan = false → atMost x (.inf false) := fun x _ h => ⟨h, rfl, .inr (.inl rfl)⟩
    refine ⟨by decide, by decide, fun _ => unpack fmtF32 0, fun _ => unpack fmtF32 0, fun j hj => ?_, fun j hj _ => ?_,
      fun _ => .inf true, fun _ => .inf false, .inf false, fun j hj => ⟨fun _ => ⟨rfl, rfl⟩, fun h => ?_⟩, ⟨?_, ?_⟩, ⟨?_, ?_⟩,
      least _ (.inf false) rfl⟩
    · obtain rfl | rfl | rfl : j = 0 ∨ j = 1 ∨ j = 2 := by omega
      all_goals exact ⟨point .rdn, point .rup⟩
    · refine ⟨⟨rfl, ?_, .inr (.inr ⟨0, 0, zero, origin j hj, le_refl _⟩)⟩, ?_, rfl, .inr (.inr ⟨0, 0, origin j hj, zero, le_refl _⟩)⟩
      all_goals exact (by decide : ∀ j, j < 3 → (rayVal rayGroup 40 0 j).isNan = false) j hj
    · exact absurd ((by decide : ∀ j, j < 3 → (rayVal rayGroup 40 0 (6 + j)).isInf = true) j hj) (by simp [h])
    · exact (by decide : FVal.fin false 0 (-149) ∈ [rayVal rayGroup 40 0 9, FVal.inf true, .inf true, .inf true])
    · intro x hx _
      simp only [List.mem_cons, List.not_mem_nil, or_false] at hx
      rcases hx with rfl | rfl | rfl | rfl
      · exact ⟨by decide, rfl, .inr (.inr ⟨0, 0, (by decide : rayVal rayGroup 40 0 9 = unpack fmtF32 0) ▸ zero, by norm_num [FVal.value],
          le_refl _⟩)⟩
      all_goals exact ⟨rfl, rfl, .inl rfl⟩
    · exact (by decide : FVal.inf false ∈ [rayVal rayGroup 40 0 10, FVal.inf false, .inf false, .inf false])
    · intro x hx hn
      simp only [List.mem_cons, List.not_mem_nil, or_false] at hx
      rcases hx with rfl | rfl | rfl | rfl
      · exact (by decide : rayVal rayGroup 40 0 10 = .inf false) ▸ ⟨rfl, rfl, .inr (.inl rfl)⟩
      all_goals exact ⟨rfl, rfl, .inr (.inl rfl)⟩

/-- RTRI over a valid buffer and over one that failed with cause 12; a record that misses, an entry that is not delivered. -/
theorem witness_RaysAreTested_triangles :
    (let s := st 0
    Executes s (iss s) { fs := .a, vs := [vreg 28 4, vreg 40 12, vsrc 20], ms := [0], bufs := [1], tracked := 4 } ∧
      (iss s).active 0 ≠ 0 ∧ (bufOf (iss s).g 1).status.toNat / 2 ^ 28 ≠ 2 ∧ (bufOf (iss s).g 1).status.toNat / 2 ^ 16 % 32 ≤ 0) ∧
    let s := withGroup (fun g => { g with bufs := [(1, ⟨0x2C000000, []⟩)] }) (st 0)
    Executes s (iss s) { fs := .a, vs := [vreg 28 4, vreg 40 12, vsrc 20], ms := [0], bufs := [1], tracked := 4 } ∧
      (iss s).active 0 ≠ 0 ∧ (bufOf (iss s).g 1).status.toNat / 2 ^ 28 = 2 :=
  ⟨⟨executes_of (by decide), by decide, by decide, by decide⟩, executes_of (by decide), by decide, by decide⟩

def mdecUses : Uses := { fs := .a, vs := [vscalar 386, vscalar 387], ms := [0], bufs := [1] }

/-- A request of group 1 for entries from triangle 0 of ford 0. -/
def dreq : DecReq := ⟨1, 1, stream0, 0, 0, 1, windows0, 9, 0, false, false, 0, none, false⟩

/-- MDEC of 1 and of 0 triangles; with a queue that is full; TBREAD, MSTAT.buf and MSTAT.ford of the last ford. -/
theorem witness_BuffersFillAndRead :
    (let s := stMesh [(3, 16)]
    Executes s (iss s) mdecUses ∧ namesStream s (iss s) 5 stream0 ∧ (iss s).scalar 386 < 2 ^ 32 ∧ (iss s).scalar 387 < 2 ^ 32 ∧
      (iss s).scalar 387 / 2 ^ 5 % 2 ^ 11 = 0 ∧ 1 ≤ (iss s).scalar 387 % 32 ∧ (iss s).scalar 387 % 32 ≤ 16 ∧ (iss s).active 0 ≠ 0 ∧
      (decoderOf s (iss s).g.core).queue.length < 64 ∧ (iss s).active 1 = 0) ∧
    (let s := stMesh []
    Executes s (iss s) mdecUses ∧ namesStream s (iss s) 5 stream0 ∧ ¬ 1 ≤ (iss s).scalar 387 % 32) ∧
    (let s := { stMesh [(3, 1)] with decoders := [(0, ⟨List.replicate 64 dreq, []⟩)] }
    Executes s (iss s) mdecUses ∧ 64 ≤ (decoderOf s (iss s).g.core).queue.length) ∧
    (let s := st 0
    Executes s (iss s) { fs := .a, vs := [vreg 20, vsrc 12], ms := [0], bufs := [1], tracked := 1 } ∧
      Executes s (iss s) { fs := .a, vs := [vreg 20], ms := [0], bufs := [1], tracked := 1 } ∧ (iss s).active 0 ≠ 0 ∧
      (bufOf (iss s).g 1).status.toNat / 2 ^ 28 ≠ 2) ∧
    let s := stMesh []
    Executes s (iss s) { fs := .a, vs := [vreg 20, vscalar 386], ms := [0], tracked := 1 } ∧ namesStream s (iss s) 5 stream0 ∧
      (iss s).active 0 ≠ 0 ∧ storesPerformed s (iss s) ∧ (iss s).scalar 386 < 65536 ∧ stream0.space = 2 ∧
      (∀ tm, tfind s.teams (iss s).g.team = some tm → windows0 = tm.windows) ∧
      meshOk stream0 windows0 false [(stream0.base, stream0.base + 64)] = true ∧
      parseMesh stream0.base (readBytes s.scratch stream0.base 64) = some mesh0 ∧
      meshOk stream0 windows0 false [(fordAddr mesh0 0, fordAddr mesh0 0 + 16)] = true := by
  refine ⟨⟨executes_of (by decide), names_mesh _ _ (by decide) (by decide), by decide, by decide, by decide, by decide, by decide,
      by decide, by decide, by decide⟩, ⟨executes_of (by decide), names_mesh _ _ (by decide) (by decide), by decide⟩,
    ⟨executes_of (by decide), by decide⟩, ⟨executes_of (by decide), executes_of (by decide), by decide, by decide⟩,
    executes_of (by decide), names_mesh _ _ (by decide) (by decide), by decide, fun r hr => absurd hr List.not_mem_nil, by decide, rfl,
    fun tm ht => ?_, by decide, by decide, by decide⟩
  obtain rfl : tm = { bareTeam 1 with tensors := [(5, ten 2 16 1 [1, 1, 1, 1] [0, 0, 0] 0xB0000)] } :=
    Option.some.inj (ht.symm.trans rfl)
  rfl

/-- The mesh with two fords: ford 1, at triangle 1, is stale; its record lies at 0xB01C0. -/
def meshMem2 : Mem := [(0xB0000, 0x4D), (0xB0001, 0x53), (0xB0002, 0x48), (0xB0003, 0x31), (0xB0004, 1), (0xB0006, 2), (0xB0008, 2),
  (0xB000C, 4), (0xB0010, 0x40), (0xB0014, 0x80), (0xB0018, 0xC0), (0xB001D, 1), (0xB0038, 64), (0xB0040, 4), (0xB00CE, 1),
  (0xB00D0, 1), (0xB00D4, 3), (0xB00D8, 3), (0xB00DE, 2)]
def mesh2 : Mesh := { mesh0 with fords := 2 }
def stMesh2 : State := { stMesh [] with scratch := meshMem2 }

theorem header_of {s : State} {m : Mesh} (h : decide (readSpace s .d 0xB0000 4 = 0x3148534D ∧ readSpace s .d 0xB0004 1 = 1 ∧
      readSpace s .d 0xB0005 1 < 4 ∧ readSpace s .d 0xB003C 4 = 0 ∧ m.fords = readSpace s .d 0xB0006 2 ∧ m.fords ≠ 0 ∧
      m.tris = readSpace s .d 0xB0008 4 ∧ m.tris ≠ 0 ∧ m.verts = readSpace s .d 0xB000C 4 ∧ m.w = 4 * (readSpace s .d 0xB0005 1 + 1) ∧
      m.symAt = 0xB0000 + readSpace s .d 0xB0010 4 ∧ m.corAt = 0xB0000 + readSpace s .d 0xB0014 4 ∧
      m.dirAt = 0xB0000 + readSpace s .d 0xB0018 4 ∧ m.recAt = 0xB0000 + readSpace s .d 0xB001C 4 ∧
      m.origin = [readSpace s .d 0xB0020 4, readSpace s .d 0xB0024 4, readSpace s .d 0xB0028 4] ∧
      m.scale = [readSpace s .d 0xB002C 4, readSpace s .d 0xB0030 4, readSpace s .d 0xB0034 4] ∧
      m.symLen = readSpace s .d 0xB0038 4) = true) : MeshHeader s 0xB0000 m := by
  obtain ⟨h1, h2, h3, h4, h5, h6, h7, h8, h9, h10, h11, h12, h13, h14, h15, h16, h17⟩ := of_decide_eq_true h
  exact ⟨⟨h1, h2, h3, h4⟩, ⟨h5, h6, h7, h8, h9⟩, h10, ⟨h11, h12, h13, h14⟩, ⟨h15, h16⟩, h17⟩

theorem mem_of_tfind {β : Type} {m : SMap β} {k : Nat} {v : β} (h : tfind m k = some v) : ∃ p, p ∈ m ∧ p.2 = v := by
  induction m with
  | nil => simp [tfind] at h
  | cons p m ih =>
    simp only [tfind] at h
    split at h
    · exact ⟨p, List.mem_cons_self, Option.some.inj h⟩
    · obtain ⟨q, hq, hv⟩ := ih h
      exact ⟨q, List.mem_cons_of_mem _ hq, hv⟩

theorem walk_fits {m : Mesh} {w : Walk} (h : (decide (w.head < 16 ∧ w.ga < 16 ∧ w.gb < 16 ∧ w.opp < 16 ∧ w.tri < 2 ^ 32 ∧
      w.verts < 2 ^ 32 ∧ w.symPos < 2 ^ 32 ∧ m.w ∈ [4, 8, 12, 16]) && (w.q.all fun p => p.2.all fun x => decide (x < 65536)) &&
      (w.vid.all fun p => decide (p.2 < 2 ^ 32)) && w.units.all fun u => decide (u.2 < 2 ^ 64)) = true) : WalkFits m w := by
  simp only [Bool.and_eq_true, decide_eq_true_eq, List.all_eq_true] at h
  obtain ⟨⟨⟨⟨h1, h2, h3, h4, h5, h6, h7, h8⟩, hq⟩, hv⟩, hu⟩ := h
  refine ⟨⟨h1, h2, h3, h4⟩, fun i j => ?_, ⟨h5, h6, h7, fun i => ?_⟩, hu, h8⟩
  · unfold Walk.pos tget
    cases hf : tfind w.q i with
    | none => rcases j with _ | _ | _ | j <;> simp
    | some l =>
      obtain ⟨p, hp, rfl⟩ := mem_of_tfind hf
      simp only [Option.getD_some]
      rw [List.getD_eq_getElem?_getD]
      cases hj : p.2[j]? with
      | none => simp
      | some x => exact hq p hp x (List.mem_of_getElem? hj)
  · unfold tget
    cases hf : tfind w.vid i with
    | none => simp
    | some x =>
      obtain ⟨p, hp, rfl⟩ := mem_of_tfind hf
      exact hv p hp

/-- A walk past its first triangle, of slots 0 to 2, its gate (0, 1), with symbol bits from a position. -/
def walk1 (verts head pos : Nat) : Walk :=
  { Walk.initial with
    tri := 1, gateSet := true, oppValid := true, ga := 0, gb := 1, opp := 2, head := head, valid := 7, symPos := pos, verts := verts }

/-- The mesh with other first and last symbol bytes. -/
def stSymbol (b last : Byte) : State :=
  { stMesh [] with scratch := (meshMem.map fun p => if p.1 = 0xB0040 then (p.1, b) else p) ++ [(0xB0047, last)] }

/-- Streams that are none; fords named wrongly, malformed and stale. -/
theorem witness_DecodersServe_fords :
    (∀ m, ¬ MeshHeader (st 0) stream0.base m) ∧ meshOk stream0 windows0 false [(stream0.base, stream0.base + 64)] = true ∧
    (let s := stMesh2
    MeshHeader s stream0.base mesh2 ∧
      (∀ j, j < mesh2.fords → meshOk stream0 windows0 false [(mesh2.dirAt + 16 * j, mesh2.dirAt + 16 * j + 16)] = true) ∧
      fordFits s mesh2 0 ∧ fordFits s mesh2 1 ∧ (fordEntry s mesh2 1).f ≤ 1 ∧ 1 + 1 ≤ mesh2.tris ∧
      (fordEntry s mesh2 0).f < (fordEntry s mesh2 1).f ∧ (fordEntry s mesh2 0).state = 1 ∧ (fordEntry s mesh2 1).state ≠ 1 ∧
      0 < (fordEntry s mesh2 1).f) ∧
    let s := { stMesh2 with scratch := meshMem2 ++ [(0xB00DF, 1)] }
    MeshHeader s stream0.base mesh2 ∧ ¬ fordFits s mesh2 1 := by
  refine ⟨fun m h => absurd h.fixed.1 (by decide), by decide, ⟨header_of (by decide), by decide, ?_, ?_, by decide, by decide, by decide,
    by decide, by decide, by decide⟩, header_of (by decide), fun h => absurd h.2.1 (by decide)⟩
  · exact ⟨by decide, by decide, by decide, by decide⟩
  · exact ⟨by decide, by decide, by decide, by decide⟩

/-- Every symbol, where it can be carried out and where it cannot. -/
theorem witness_DecodersServe_symbols :
    (∀ v h p, v < 100 → h < 16 → p < 64 → WalkFits mesh0 (walk1 v h p)) ∧ WalkFits mesh0 Walk.initial ∧
    (let x := fun b last p => bitField (fun k => (walk1 3 3 p).seesBit (stSymbol b last) mesh0.symAt k) p 3
    mesh0.symLen < (walk1 3 3 62).symPos + 3 ∧ x 0 0 0 = 0 ∧ x 1 0 0 = 1 ∧ x 18 0 0 = 2 ∧ x 19 0 0 = 3 ∧ x 4 0 0 = 4 ∧ x 5 0 0 = 5 ∧
      x 6 0 0 = 6 ∧ x 7 0 0 = 7 ∧ x 0 0x20 60 = 2 ∧ mesh0.symLen < (walk1 3 3 60).symPos + 7 ∧ x 0 5 56 = 5 ∧
      mesh0.symLen < (walk1 3 3 56).symPos + 11) ∧
    Walk.initial.gateSet = false ∧ mesh0.verts ≤ (walk1 4 3 0).verts ∧ (walk1 3 0 0).head = (walk1 3 0 0).ga ∧
    ((walk1 3 3 0).verts < mesh0.verts ∧ (walk1 3 3 0).head ≠ (walk1 3 3 0).ga ∧ (walk1 3 3 0).head ≠ (walk1 3 3 0).gb) ∧
    (let slot := fun b n => bitField (fun k => (walk1 3 3 0).seesBit (stSymbol b 0) mesh0.symAt k) n 4
    (walk1 3 3 0).valid.getLsbD (slot 18 3) = true ∧ (walk1 3 3 0).valid.getLsbD (slot 42 3) = false ∧
      (walk1 3 3 0).valid.getLsbD (slot 5 3) = true ∧ (walk1 3 3 0).valid.getLsbD (slot 5 7) = true ∧
      Walk.initial.valid.getLsbD (slot 5 3) = false) ∧
    mesh0.verts < (walk1 3 3 0).verts + 3 ∧ Walk.initial.verts + 3 ≤ mesh0.verts := by
  refine ⟨fun v h p hv hh hp => ⟨⟨hh, by simp [walk1], by simp [walk1], by simp [walk1]⟩, fun i j => ?_,
    ⟨by simp [walk1], Nat.lt_trans hv (by norm_num), Nat.lt_trans hp (by norm_num), fun i => by simp [walk1, Walk.initial, tget, tfind]⟩,
    fun u hu => absurd hu List.not_mem_nil, by decide⟩, walk_fits (by decide), by decide, by decide, by decide, by decide, by decide,
    by decide, by decide, by decide⟩
  have : (walk1 v h p).pos i = [0, 0, 0] := rfl
  rw [this]
  rcases j with _ | _ | _ | j <;> simp

/-- A walk's ford-cache entry, and the symbol SEED that it comes to. -/
def head0 : Bytes := readBytes meshMem 0xB0000 64
def ford0 : FordEntry := ⟨3, stream0, 0, 0, head0, 1, none, true, Walk.initial, [dreq], 0, none, false⟩
def ford2 : FordEntry := { ford0 with head := readBytes meshMem2 0xB0000 64, reqs := [{ dreq with count := 2 }] }

/-- The walk and the triangle after an entry's next symbol. -/
def walked (s : State) (e : FordEntry) (m : Mesh) : Walk × Tri :=
  match walkSymbol s e.stream m e.walk with
  | .ok (w, some t) => (w, t)
  | _ => (Walk.initial, (0, 0, 0))

/-- A request that ford 0 serves, and one whose stream is no mesh. -/
theorem witness_DecodersServe_serve :
    (let s := { stMesh [] with decoders := [(0, ⟨[dreq], []⟩)] }
    (decoderOf s 0).queue = dreq :: [] ∧ (∀ x, x ∈ s.patches → x.granted = true → x.stream ≠ dreq.stream) ∧
      tfind s.groups dreq.gid = some (grp s 1) ∧ (∀ x, x ∈ s.reqs → x.gid ≠ dreq.gid ∧ x.covers (grp s 1).team (grp s 1).core = false) ∧
      dreq.parkedOn = none ∧ dreq.fatal = false ∧ banksFree s ∧
      findFord s dreq.stream dreq.windows dreq.ford dreq.first dreq.count = .ok (head0, mesh0, 0, ⟨0, 0, 0, 0, 1⟩, false) ∧
      (∀ e, e ∈ (decoderOf s 0).entries → e.fits dreq.stream 0 0 dreq.first = false) ∧
      ((decoderOf s 0).entries.filter fun e => e.active).length < 2 ∧ (decoderOf s 0).entries.length < 32 ∧ FreshIds s) ∧
    let s := { st 0 with decoders := [(0, ⟨[dreq], []⟩)] }
    (decoderOf s 0).queue = dreq :: [] ∧ findFord s dreq.stream dreq.windows dreq.ford dreq.first dreq.count = .error (.err 1) ∧
      dreq.delivered ≤ 16 :=
  ⟨⟨by decide, fun x hx => absurd hx List.not_mem_nil, by decide, fun x hx => absurd hx List.not_mem_nil, rfl, rfl, banksFree_of rfl, by decide,
    fun e he => absurd he List.not_mem_nil, by decide, by decide, fresh_of (by decide)⟩, by decide, by decide, by decide⟩

/-- A walk at its first symbol, of one request, that reaches no ford; and one that reaches ford 1, which is stale. -/
theorem witness_DecodersServe_step :
    (∀ e m s, (e, m, s) = (ford0, mesh0, { stMesh [] with decoders := [(0, ⟨[], [ford0]⟩)] }) ∨
        (e, m, s) = (ford2, mesh2, { stMesh2 with decoders := [(0, ⟨[], [ford2]⟩)] }) →
      (decoderOf s 0).entries.find? (fun y => y.wid == e.wid) = some e ∧ e.active = true ∧ e.parkedOn = none ∧ e.fatal = false ∧
        e.due = none ∧ banksFree s ∧ (tfind s.groups 1).isSome = true ∧ parseMesh e.stream.base e.head = some m ∧ WalkFits m e.walk ∧
        walkSymbol s e.stream m e.walk = .ok ((walked s e m).1, some (walked s e m).2) ∧ WalkFits m (walked s e m).1 ∧
        meshOk e.stream windows0 false (stepReads s e.stream m e.walk) = true ∧ (walked s e m).1.tri = 1) ∧
    (let s := { stMesh2 with scratch := meshMem2 ++ [(0xB00DF, 1)] }
    ford2.next < mesh2.fords ∧ (fordEntry s mesh2 ford2.next).f = 1 ∧ ¬ fordFits s mesh2 ford2.next ∧
      meshOk ford2.stream windows0 false [(mesh2.dirAt + 16 * ford2.next, mesh2.dirAt + 16 * ford2.next + 16)] = true) ∧
    (ford0.reqs = [dreq] ∧ ford0.next = mesh0.fords ∧ dreq.count ≤ dreq.delivered + 1) ∧
    let s := { stMesh2 with decoders := [(0, ⟨[], [ford2]⟩)] }
    ford2.reqs = [{ dreq with count := 2 }] ∧ ford2.next < mesh2.fords ∧ (fordEntry s mesh2 ford2.next).f = 1 ∧ fordFits s mesh2 1 ∧
      (fordEntry s mesh2 1).state = 2 ∧ meshOk stream0 windows0 false [(0xB00D0, 0xB00E0)] = true ∧
      meshOk stream0 windows0 true [(0xB01C0, 0xB0280), (0xB00DC, 0xB00E0)] = true := by
  refine ⟨?_, ⟨by decide, by decide, fun h => absurd h.2.1 (by decide), by decide⟩, ⟨rfl, rfl, by decide⟩, rfl, by decide, by decide, ⟨by decide, by decide, by decide, by decide⟩, by decide, by decide,
    by decide⟩
  rintro e m s (h | h) <;> (simp only [Prod.mk.injEq] at h; obtain ⟨rfl, rfl, rfl⟩ := h)
  all_goals exact ⟨by decide, rfl, rfl, rfl, rfl, banksFree_of rfl, by decide, by decide, walk_fits (by decide), by decide, walk_fits (by decide), by decide,
    by decide⟩

/-- A patch of a vertex: of the last, of one beyond it, of one that ford 1 comes after; its header read or not, granted or not. -/
def patch0 (vertex : Nat) (granted : Bool) (head : Option Bytes := none) : PatchReq :=
  ⟨1, head, stream0, vertex, [1, -8, 7], 1, 9, granted, none, windows0, none, false⟩

theorem witness_PatchesHoldAndWrite_issue :
    (let s := stMesh [(2, 0xFFFFFFFF), (3, 0xFFFFFFFFFFFF)]
    Executes s (iss s) { fs := .a, vs := [vreg 20, vscalar 386, vscalar 387], ms := [0], tracked := 1 } ∧
      namesStream s (iss s) 5 stream0 ∧ (iss s).scalar 386 < 2 ^ 32 ∧ (iss s).scalar 387 < 2 ^ 48 ∧ (iss s).active 0 ≠ 0) ∧
    (let s := stMesh []
    Executes s (iss s) { fs := .none, vs := [vreg 20, vscalar 386, vscalar 387], ms := [1], tracked := 1 } ∧
      namesStream s (iss s) 5 stream0 ∧ (iss s).active 1 = 0) ∧
    let s := stMesh [(2, 0x100000000)]
    Executes s (iss s) { fs := .a, vs := [vreg 20, vscalar 386, vscalar 387], ms := [0], tracked := 1 } ∧
      namesStream s (iss s) 5 stream0 ∧ 2 ^ 32 ≤ (iss s).scalar 386 :=
  ⟨⟨executes_of (by decide), names_mesh _ _ (by decide) (by decide), by decide, by decide, by decide⟩,
    ⟨executes_of (by decide), names_mesh _ _ (by decide) (by decide), by decide⟩,
    executes_of (by decide), names_mesh _ _ (by decide) (by decide), by decide⟩

theorem header_mesh2 : MeshHeader stMesh2 0xB0000 mesh2 := header_of (by decide)

theorem witness_PatchesHoldAndWrite_grant :
    parseMesh stream0.base (readBytes meshMem2 0xB0000 64) = some mesh2 ∧
    (∀ v g h, v = 0 ∨ v = 4 → let s := { stMesh2 with patches := [patch0 v g h] }
      s.patches[0]? = some (patch0 v g h) ∧ banksFree s ∧ tfind s.groups 1 = some (grp s 1) ∧
        (∀ x, x ∈ s.reqs → x.gid ≠ 1 ∧ x.covers (grp s 1).team (grp s 1).core = false) ∧ windows0.length ≤ 4 ∧
        meshOk stream0 windows0 false [(stream0.base, stream0.base + 64)] = true ∧ MeshHeader s stream0.base mesh2 ∧
        (patch0 v g h).corr.length = 3 ∧ walksActive s stream0 = false ∧ posting s stream0.tenant (.op 9) = false) ∧
    (mesh2.verts ≤ (patch0 4 false).vertex ∧ ¬ mesh2.verts ≤ (patch0 0 false).vertex ∧
      (∀ c, c ∈ (patch0 0 true).corr → -2 ^ (mesh2.w - 1) ≤ c ∧ c < 2 ^ (mesh2.w - 1)) ∧
      (List.range mesh2.fords).filter (staled stMesh2 mesh2 0) = [1] ∧
      let span := bitSpan mesh2.corAt 0 (3 * mesh2.w)
      (∀ write, meshOk stream0 windows0 write [span, (mesh2.dirAt, mesh2.dirAt + 32)] = true) ∧ span.2 ≤ mesh2.dirAt) ∧
    walksActive { stMesh [] with decoders := [(0, ⟨[], [ford0]⟩)], patches := [patch0 3 true] } stream0 = true := by
  refine ⟨by decide, ?_, ⟨by decide, by decide, by decide, by decide, by decide, by decide⟩, by decide⟩
  rintro v g h (rfl | rfl) <;> cases g
  all_goals exact ⟨rfl, banksFree_of rfl, rfl, fun x hx => absurd hx List.not_mem_nil, by decide, by decide, ⟨header_mesh2.1, header_mesh2.2, header_mesh2.3, header_mesh2.4, header_mesh2.5, header_mesh2.6⟩, rfl, rfl, rfl⟩

/-- A RASTER of the mesh's first triangle: its block, its matrix (tensor 6), its graph of two nodes and its launch block. -/
def blk0 : LaunchBlock :=
  { entry := 0x1000, completion := .none, dependence := .none, depValue := 0, threads := 1, ports := false, role := 0, budget := 96
    regArea := 65536, gx := 1, gy := 1, tPerCore := 1024, progArea := 0, windows := [], params := [], tensors := [], roles := [] }
def graph0 : Graph :=
  { slot := 0, generation := 1, queue := 0, entry := 0, nodes := [⟨blk0, 0, 0, 0, [], 0⟩, ⟨blk0, 8, 2, 0, [], 0⟩], slots := 32
    base := 0xB2000, completion := .none, reserved := [], closed := [], emitQueue := [], entryEnded := false, deadlocked := false
    killedNode := none, batches := 0, final := none, waiter := none, parkedOn := none, fatal := false }
def launchCells : Mem := [(0x42001, 0x10), (0x42026, 3), (0x42027, 1), (0x42028, 1), (0x4202A, 1), (0x4202C, 1)]
def withLaunch (s : State) : State :=
  let s := withPages s
  { s with main := s.main ++ launchCells }
def tenMx : Tensor := ten 2 8 2 [4, 4, 1, 1] [16, 0, 0] 0xB1000
def rasterTeam : Team :=
  { bareTeam 1 with
    tensors := [(5, ten 2 16 1 [1, 1, 1, 1] [0, 0, 0] 0xB0000), (6, tenMx)]
    tmem := [(0x104, 1), (0x10A, 6), (0x10B, 1), (0x110, 8), (0x112, 8), (0x119, 0x20), (0x11A, 4), (0x122, 1)] }
def stRaster : State :=
  withLaunch (withTenant (fun t => { t with graphs := [graph0] }) (withTeam (fun _ => rasterTeam) (stMesh [(2, 0x100)])))
def rasterBlock0 : RasterBlock := ⟨0, 1, 0, 6, 1, 0, 8, 8, 0x42000, 0x10000, true⟩

def raster0 (handle : Option W64) (done : Nat) : Raster :=
  { id := 7, gid := 1, tenant := 0, die := 0, stream := stream0, first := 0, count := 1, ford := 0, matrix := List.replicate 16 0
    width := 8, height := 8, target := 0, node := 1, graph := 0x10000, launch := blk0, queue := 0, handle := handle, walk := none
    head := head0, next := 1, due := false, windows := windows0, done := done, pending := [], tileSeq := [], grids := [], error := none, lanes := 1, owed := 9
    parkedOn := none, fatal := false }

theorem witness_RastersRun_block :
    let s := stRaster
    Executes s (iss s) { fs := .a, vs := [vreg 20, vscalar 386], ms := [0], tracked := 1 } ∧ namesStream s (iss s) 5 stream0 ∧
    tfind s.teams (iss s).g.team = some rasterTeam ∧ rasterTeam.windows.length ≤ 4 ∧ (iss s).active 0 ≠ 0 ∧ storesPerformed s (iss s) ∧
    RasterAdmitted s (iss s) rasterTeam ((iss s).scalar 386) rasterBlock0 tenMx
      ((List.range 16).map fun n => BitVec.ofNat 32 (readSpace s (tenMx.plainSpace (iss s).g.team) (tenMx.addr [n % 4, n / 4, 0, 0]) 4)) blk0 :=
  ⟨executes_of (by decide), ⟨rasterTeam, ten 2 16 1 [1, 1, 1, 1] [0, 0, 0] 0xB0000, rfl, rfl, rfl, rfl⟩, rfl, by decide, by decide,
    fun r hr => absurd hr List.not_mem_nil,
    { block := ⟨by decide, by decide, by decide⟩
      reserved := by decide
      range := by decide
      transform := ⟨⟨tenMx, rfl, by decide⟩, rfl, rfl, rfl, .inr rfl, span_in _ _ _ _ rfl (by decide) (by decide)⟩
      matrix := rfl
      graph := ⟨graph0, by decide, by decide, by decide⟩
      launch := ⟨by decide, (readBytes stRaster.main 0x42000 64), by decide⟩ }⟩


/-- Numbers with their f32 patterns. -/
theorem nearest_eight {x : Rat} (h : x = 8 ∨ x = -8 ∨ x = -3) : nearestTo x x := by
  rcases h with rfl | rfl | rfl
  · exact nearest_of (b := 0x41000000) ((by decide : unpack fmtF32 0x41000000 = .fin false 0x800000 (-20)) ▸ by norm_num [FVal.value])
      (by norm_num) (by simp) (by norm_num) (by norm_num)
  · exact nearest_of (b := 0xC1000000) ((by decide : unpack fmtF32 0xC1000000 = .fin true 0x800000 (-20)) ▸ by norm_num [FVal.value])
      (by norm_num) (by simp) (by norm_num) (by norm_num)
  · exact nearest_of (b := 0xC0400000) ((by decide : unpack fmtF32 0xC0400000 = .fin true 0xC00000 (-22)) ▸ by norm_num [FVal.value])
      (by norm_num) (by simp) (by norm_num) (by norm_num)

/-- A raster whose matrix is the identity, and vertices at z = 0. -/
def rasterI : Raster := { raster0 none 0 with
  matrix := [0x3F800000, 0, 0, 0, 0, 0x3F800000, 0, 0, 0, 0, 0x3F800000, 0, 0, 0, 0, 0x3F800000] }

theorem on_screen {bx by_ : Nat} {x y : Rat} (hx : (unpack fmtF32 bx).value = some x) (hy : (unpack fmtF32 by_).value = some y)
    (nx : nearestTo x x) (ny : nearestTo y y) (sx : nearestTo ((x + 1) * 8 / 2) ((x + 1) * 8 / 2))
    (sy : nearestTo ((1 - y) * 8 / 2) ((1 - y) * 8 / 2)) :
    OnScreen rasterI [bx, by_, 0] 1 ((x + 1) * 8 / 2) ((1 - y) * 8 / 2) 0 := by
  have one : (unpack fmtF32 0x3F800000).value = some 1 := (by decide : unpack fmtF32 0x3F800000 = .fin false 0x800000 (-23)) ▸ by
    norm_num [FVal.value]
  have zero : (unpack fmtF32 0).value = some 0 := by norm_num [unpack, fmtF32, FVal.value]
  have n0 := nearest_small (x := 0) (by norm_num)
  have n1 := nearest_small (x := 1) (by norm_num)
  refine ⟨⟨fun n => if n % 5 = 0 then 1 else 0, fun j => if j = 0 then x else if j = 1 then y else 0,
    fun n => if n = 0 then x else if n = 1 then y else if n = 2 then 0 else 1,
    fun j => if j = 0 then x else if j = 1 then y else 0, fun n hn => ?_, fun j hj => ?_, fun n hn => ?_, rfl, one_ne_zero,
    fun j hj => ?_, rfl, sx, sy⟩⟩
  · have : ((rasterI.matrix.getD n 0).toNat = if n % 5 = 0 then 0x3F800000 else 0) := by
      revert n
      decide
    rw [this]
    by_cases h : n % 5 = 0
    · simpa [h] using one
    · simpa [h] using zero
  · obtain rfl | rfl | rfl : j = 0 ∨ j = 1 ∨ j = 2 := by omega
    · exact hx
    · exact hy
    · exact zero
  · obtain rfl | rfl | rfl | rfl : n = 0 ∨ n = 1 ∨ n = 2 ∨ n = 3 := by omega
    · simpa using nx
    · simpa using ny
    · simpa using n0
    · simpa using n1
  · obtain rfl | rfl | rfl : j = 0 ∨ j = 1 ∨ j = 2 := by omega
    · simpa using nx
    · simpa using ny
    · simpa using n0

/-- The vertices of a triangle of half the viewport, and of one that lies to the left of it. -/
def half : List (List Nat) := [[0xBF800000, 0x3F800000, 0], [0xBF800000, 0xBF800000, 0], [0x3F800000, 0x3F800000, 0]]
def left : List (List Nat) := [[0xC0400000, 0x3F800000, 0], [0xC0400000, 0xBF800000, 0], [0xC0400000, 0x3F800000, 0]]

theorem witness_RastersRun_triangles :
    (∀ r : Raster, r = raster0 none 0 → ∀ vs : List (List Nat), (∀ v, v ∈ vs → v = [0, 0, 0]) → vs.length = 3 → ∀ sx sy z,
      ¬ TriangleOnScreen r vs sx sy z) ∧
    (∃ sx sy z, TriangleOnScreen rasterI half sx sy z ∧ ¬ beyondEdge rasterI sx sy ∧ tileMet rasterI sx sy 0 0) ∧
    ∃ sx sy z, TriangleOnScreen rasterI left sx sy z ∧ beyondEdge rasterI sx sy := by
  have pos : (unpack fmtF32 0x3F800000).value = some 1 := (by decide : unpack fmtF32 0x3F800000 = .fin false 0x800000 (-23)) ▸ by
    norm_num [FVal.value]
  have neg : (unpack fmtF32 0xBF800000).value = some (-1) := (by decide : unpack fmtF32 0xBF800000 = .fin true 0x800000 (-23)) ▸ by
    norm_num [FVal.value]
  have far : (unpack fmtF32 0xC0400000).value = some (-3) := (by decide : unpack fmtF32 0xC0400000 = .fin true 0xC00000 (-22)) ▸ by
    norm_num [FVal.value]
  have zero : (unpack fmtF32 0).value = some 0 := by norm_num [unpack, fmtF32, FVal.value]
  have n1 := nearest_small (x := 1) (by norm_num)
  have m1 := nearest_small (x := -1) (by norm_num)
  have m3 := nearest_eight (x := -3) (by norm_num)
  have s0 : nearestTo (0 : Rat) 0 := nearest_small (by norm_num)
  have s8 := nearest_eight (x := 8) (by norm_num)
  have t8 := nearest_eight (x := -8) (by norm_num)
  refine ⟨fun r hr vs hv hl sx sy z h => ?_, ⟨fun k => [0, 0, 8].getD k 0, fun k => [0, 8, 0].getD k 0, fun _ => 0, ⟨fun k hk => ?_⟩, ?_, ?_⟩,
    fun _ => -8, fun k => [0, 8, 0].getD k 0, fun _ => 0, ⟨fun k hk => ?_⟩, .inl fun k _ => by norm_num⟩
  · obtain ⟨w, hw, ⟨m, x, c, ndc, hm, hx, hc, rfl, -⟩⟩ := h.each 0 (by omega)
    have h3 := hc 3 (by omega)
    have hm0 : ∀ n, n < 16 → m n = 0 := fun n hn => by
      have h := hm n hn
      have e : (r.matrix.getD n 0).toNat = 0 := by clear h; subst hr; revert n; decide
      rw [e, zero] at h
      exact (Option.some.inj h).symm
    rw [hm0 12 (by omega), hm0 13 (by omega), hm0 14 (by omega), hm0 15 (by omega)] at h3
    obtain ⟨b, hb, hv3⟩ := h3
    have : b = 0 := hb.2.1 (by ring)
    rw [this, zero] at hv3
    exact absurd hw (by rw [← Option.some.inj hv3]; norm_num)
  · obtain rfl | rfl | rfl : k = 0 ∨ k = 1 ∨ k = 2 := by omega
    · exact ⟨1, one_pos, by
        have := on_screen neg pos m1 n1 (by norm_num; exact s0) (by norm_num; exact s0)
        norm_num at this
        exact this⟩
    · exact ⟨1, one_pos, by
        have := on_screen neg neg m1 m1 (by norm_num; exact s0) (by norm_num; exact s8)
        norm_num at this
        exact this⟩
    · exact ⟨1, one_pos, by
        have := on_screen pos pos n1 n1 (by norm_num; exact s8) (by norm_num; exact s0)
        norm_num at this
        exact this⟩
  · rintro (h | h | h | h)
    · exact absurd (h 0 (by omega)) (by norm_num)
    · exact absurd (h 0 (by omega)) (by norm_num [rasterI, raster0])
    · exact absurd (h 0 (by omega)) (by norm_num)
    · exact absurd (h 0 (by omega)) (by norm_num [rasterI, raster0])
  · exact ⟨0, 0, rfl, rfl, by decide, by decide, ⟨0, by omega, by norm_num⟩, ⟨0, by omega, by norm_num⟩, ⟨0, by omega, by norm_num⟩, 0,
      by omega, by norm_num⟩
  · obtain rfl | rfl | rfl : k = 0 ∨ k = 1 ∨ k = 2 := by omega
    · exact ⟨1, one_pos, by
        have := on_screen far pos m3 n1 (by norm_num; exact t8) (by norm_num; exact s0)
        norm_num at this
        exact this⟩
    · exact ⟨1, one_pos, by
        have := on_screen far neg m3 m1 (by norm_num; exact t8) (by norm_num; exact s8)
        norm_num at this
        exact this⟩
    · exact ⟨1, one_pos, by
        have := on_screen far pos m3 n1 (by norm_num; exact t8) (by norm_num; exact s0)
        norm_num at this
        exact this⟩

/-- A tenant with cores 0 and 1 and the domain of the rasteriser open at index 5. -/
def rasterTenant : Tenant :=
  { Tenant.fresh { bareConfig with cores := [0, 1] } with
    state := .running, domains := [(5, ⟨true, 1, false, 0, false, 0⟩)], graphs := [graph0] }

/-- Its first piece opens a domain; its walk emits the wanted triangle; a fragment group, a skip and a record are due; all is done. -/
theorem witness_RastersRun_steps :
    (let s := { stMesh [] with rasters := [raster0 none 0] }
    s.rasters.find? (fun x => x.id == (raster0 none 0).id) = some (raster0 none 0) ∧ tfind s.groups 1 = some (grp s 1) ∧
      (∀ x, x ∈ s.reqs → x.gid ≠ 1 ∧ x.covers (grp s 1).team (grp s 1).core = false) ∧
      ∃ tn, tfind s.tenants 0 = some tn ∧ (∀ d, tfind tn.domains 0 = some d → d.opened = false) ∧
        ∀ k, k < 0 → ∃ d, tfind tn.domains k = some d ∧ d.opened = true) ∧
    (let r := { raster0 (some 0x10005) 0 with walk := some Walk.initial }
    let s := { stMesh [] with rasters := [r] }
    let out := walked s ford0 mesh0
    s.rasters.find? (fun x => x.id == r.id) = some r ∧ parseMesh r.stream.base r.head = some mesh0 ∧
      meshOk r.stream r.windows false (stepReads s r.stream mesh0 Walk.initial) = true ∧
      walkSymbol s r.stream mesh0 Walk.initial = .ok (out.1, some out.2) ∧ r.next = mesh0.fords ∧ r.first < out.1.tri ∧ banksFree s ∧
      0 < mesh2.fords ∧ (fordEntry stMesh2 mesh2 0).f < out.1.tri ∧
      meshOk stream0 windows0 false [(mesh2.dirAt, mesh2.dirAt + 16)] = true) ∧
    (∀ work, work = .fragment 0 0 0 [] ∨ work = .skip 0 0 ∨ work = .record (List.replicate 48 0) →
      let r := { raster0 (some 0x10005) 1 with graph := 0x10000, pending := [work] }
      let s := { withTenant (fun _ => rasterTenant) (stMesh []) with rasters := [r], nextId := 10 }
      s.rasters.find? (fun x => x.id == r.id) = some r ∧ FreshIds s ∧ placeOnDie s r.tenant r.die r.launch.single = some 1 ∧
        domainOf s r.tenant 0x10005 = some ⟨true, 1, false, 0, false, 0⟩ ∧
        (ensureKeys s r.tenant 5 ⟨true, 1, false, 0, false, 0⟩ [0]).2 = false ∧ graphOfHandle s r.tenant r.graph = some graph0 ∧
        graphOf s r.tenant graph0.slot = some graph0 ∧ graph0.emitQueue = [] ∧ graph0.reserved.length < graph0.slots ∧
        r.node < graph0.nodes.length) ∧
    let o : Owed := ⟨9, 1, 0, .other, some 0, [.v 20], [], 1, 0⟩
    let s := { stMesh [] with rasters := [raster0 (some 0x10000) 1], owed := [o] }
    s.rasters.find? (fun x => x.id == 7) = some (raster0 (some 0x10000) 1) ∧ (raster0 (some 0x10000) 1).pending = [] ∧
      (∀ g, g ∈ (raster0 (some 0x10000) 1).grids → tfind s.grids g = none) ∧ s.owed.find? (fun x => x.id == 9) = some o ∧
      (raster0 (some 0x10000) 1).done = (raster0 (some 0x10000) 1).count := by
  refine ⟨⟨by decide, by decide, fun x hx => absurd hx List.not_mem_nil, _, rfl, (fun d h => nomatch h),
    fun k hk => absurd hk (Nat.not_lt_zero k)⟩, ⟨by decide, by decide, by decide, by decide, by decide, by decide, banksFree_of rfl, by decide, by decide, by decide⟩, ?_,
    by decide, rfl, fun g hg => absurd hg List.not_mem_nil, by decide, rfl⟩
  rintro work (rfl | rfl | rfl)
  all_goals exact ⟨by decide, fresh_of (by decide), by decide, by decide, by decide, by decide, by decide, by decide, by decide, by decide⟩

/-! ## Witnesses: channels and processions -/

def sendWord : Nat := 0xB018010000000000

/-- SEND and RECV on a lane channel: without lanes, with and without a credit, an empty queue and a full one; without a partner. -/
theorem witness_ChannelsCarry_issue :
    (let s := st 0
    Executes s (iss s) { vs := [vsrc 2], ms := [0] } ∧ (iss s).active 1 = 0 ∧ (iss s).active 0 ≠ 0 ∧
      partner s (iss s).g ((0 : BitVec 6).toNat / 8) false = some (0, 0, 1) ∧ tfind s.teams (iss s).g.team = some (bareTeam 1) ∧
      tget 4 (bareTeam 1).credits (channelOf (iss s).g.index 0) ≠ 0 ∧ partner s (iss s).g ((16 : BitVec 6).toNat / 8) false = none ∧
      partner s (iss s).g ((47 : BitVec 6).toNat / 8) true = none) ∧
    (let s := withTeam (fun t => { t with credits := [(7, 0)] }) (st 0)
    Executes s (iss s) { vs := [vsrc 2], ms := [0] } ∧ partner s (iss s).g ((7 : BitVec 6).toNat / 8) false = some (0, 0, 1) ∧
      ((tfind s.teams (iss s).g.team).map fun t => tget 4 t.credits (channelOf (iss s).g.index 7)) = some 0) ∧
    let s := withTeam (fun t => { t with queues := [(48, [List.replicate 32 7])] }) (st 0)
    Executes s (iss s) { fs := .a, vs := [vreg 3], ms := [0], tracked := 1 } ∧
      partner s (iss s).g ((48 : BitVec 6).toNat / 8) true = some (0, 0, 2) ∧
      ((tfind s.teams (iss s).g.team).map fun t => tget [] t.queues (channelOf (iss s).g.index 48)) = some [List.replicate 32 7] ∧
      ((tfind s.teams (iss s).g.team).map fun t => tget [] t.queues (channelOf (iss s).g.index 49)) = some [] :=
  ⟨⟨executes_of (by decide), by decide, by decide, by decide, by decide, by decide, by decide, by decide⟩,
    ⟨executes_of (by decide), by decide, by decide⟩, executes_of (by decide), by decide, by decide, by decide⟩

/-- An entry and a credit that are due now and one that is not; a SEND parked beyond its budget, and within it. -/
theorem witness_ChannelsCarry_events :
    (let s := { st 0 with now := 5, sends := [⟨0, 0, [], 6⟩, ⟨0, 1, [], 5⟩], returns := [⟨0, 0, [], 5⟩] }
    s.sends[0]? = some ⟨0, 0, [], 6⟩ ∧ s.now < 6 ∧ s.sends[1]? = some ⟨0, 1, [], 5⟩ ∧ (tfind s.teams 0).isSome = true ∧
      (∀ y, y ∈ s.sends.take 1 → y.team = 0 → y.index ≠ 1) ∧ s.returns[0]? = some ⟨0, 0, [], 5⟩) ∧
    ∀ now, now = 1024 ∨ now = 1025 →
      let s := { withTenant (fun t => { t with config := { t.config with chanBudget := 1 } })
        (st sendWord fun g => { g with park := none }) with now := now }
      let s := withGroup (fun g => { g with park := some ⟨0, 0, .retry⟩ }) s
      tfind s.groups 1 = some (grp s 1) ∧ (grp s 1).park = some ⟨0, 0, .retry⟩ ∧ issOf s 1 0 = some (iss s) ∧
        (iss s).instr = some (.send 24 2 0) ∧ ∃ tn, tfind s.tenants (grp s 1).tenant = some tn ∧ tn.config.chanBudget = 1 := by
  refine ⟨⟨rfl, by decide, rfl, by decide, by decide, rfl⟩, ?_⟩
  rintro now (rfl | rfl)
  all_goals exact ⟨by decide, by decide, by decide, by decide, _, rfl, rfl⟩

/-- An open domain at index 5, and its handle in k6. -/
def dom0 (trap : Bool) : Domain := ⟨true, 1, true, 0, trap, 0⟩
def tenDom (trap : Bool) : Tenant := { Tenant.fresh bareConfig with state := .running, domains := [(5, dom0 trap)] }
def stDom (h : Group → Group := id) : State := withTenant (fun _ => tenDom false) (st 0 fun g => h (withK [(6, 0x10085)] g))

theorem not_usable (s : State) (i : Iss) (h : W64) (hd : ∀ tn, tfind s.tenants i.g.tenant = some tn → tn.domains = []) (tn : Tenant)
    (d : Domain) : ¬ HandleUsable s i h tn d := fun x => by
  have := x.domain.1
  rw [hd tn x.tenant] at this
  exact nomatch this

theorem st_not_usable (h : W64) : ∀ tn d, ¬ HandleUsable (st 0) (iss (st 0)) h tn d :=
  not_usable _ _ _ fun tn ht => by
    obtain rfl : tn = { Tenant.fresh bareConfig with state := .running } := Option.some.inj (ht.symm.trans rfl)
    rfl

theorem stDom_usable (h : Group → Group) (hk : kGet (iss (stDom h)).g 6 = 0x10085) (ht : (iss (stDom h)).g.tenant = 0) :
    HandleUsable (stDom h) (iss (stDom h)) (kGet (iss (stDom h)).g 6) (tenDom false) (dom0 false) := by
  rw [hk]
  exact ⟨by rw [ht]; rfl, ⟨rfl, rfl, by decide⟩, .inl rfl⟩

/-- OOPEN with an index free and with none; OCLOSE of an open domain and of none. -/
theorem witness_DomainsOpenAndClose :
    (let s := st 0
    Executes s (iss s) { vs := [vbro 393], ks := [5] } ∧ Executes s (iss s) { ks := [5] } ∧
      (∃ tn, tfind s.tenants (iss s).g.tenant = some tn ∧ ∃ n, n < 64 ∧ ∀ d, tfind tn.domains n = some d → d.opened = false) ∧
      ∀ tn d, ¬ HandleUsable s (iss s) (kGet (iss s).g 5) tn d) ∧
    (let s := withTenant (fun t => { t with domains := (List.range 64).map fun n => (n, dom0 false) }) (st 0)
    Executes s (iss s) { vs := [vbro 393], ks := [5] } ∧ ∃ tn, tfind s.tenants (iss s).g.tenant = some tn ∧
      ∀ n, n < 64 → ∃ d, tfind tn.domains n = some d ∧ d.opened = true) ∧
    let s := stDom
    Executes s (iss s) { ks := [6] } ∧ HandleUsable s (iss s) (kGet (iss s).g 6) (tenDom false) (dom0 false) := by
  refine ⟨⟨executes_of (by decide), executes_of (by decide), ⟨_, rfl, 63, by decide, fun d h => nomatch h⟩, st_not_usable _⟩,
    ⟨executes_of (by decide), _, rfl, fun n hn => ⟨dom0 false, ?_, rfl⟩⟩, executes_of (by decide), stDom_usable _ (by decide) (by decide)⟩
  exact (by decide : ∀ n, n < 64 → tfind ((List.range 64).map fun n => (n, dom0 false)) n = some (dom0 false)) n hn

/-- The fields of OENTER and OWAIT, of OSKIP, and keys in v20, v21 with numbers in v22. -/
def enterUses : Uses := { fs := .a, vs := [vsrc 20 2, vsrc 22], ks := [6], ms := [0], mdst := [4], tracked := 1 }
def skipUses : Uses := { vs := [vsrc 20 2, vsrc 22], ks := [6], ms := [0] }
def held0 : Holding := ⟨0, 0x10085, 0, 0, 9⟩
def ent0 (a : Option Bool) : Entrant := ⟨9, 0, 0, 1, a⟩

theorem room (s : State) (h : s.keys = []) : homesHaveRoom s := fun sl => by simp [h]

/-- OENTER of one key by one lane; with a handle of nothing; with two numbers for one key; by a lane that holds. -/
theorem witness_ProcessionsEnter_enter :
    (let s := stDom (withPath 1)
    Executes s (iss s) enterUses ∧ (iss s).g.park = none ∧ HandleUsable s (iss s) (kGet (iss s).g 6) (tenDom false) (dom0 false) ∧
      (∀ l k, l < 32 → k < 32 → laneIn ((iss s).active 0) l = true → laneIn ((iss s).active 0) k = true →
        (iss s).keyOf 20 l = (iss s).keyOf 20 k → (iss s).numberOf 22 l = (iss s).numberOf 22 k) ∧
      (∀ l, l < 32 → laneIn ((iss s).active 0) l = true → ((iss s).g.holdings.find? fun x => x.lane == l).isSome = false) ∧
      homesHaveRoom s ∧ ∃ l, l < 32 ∧ laneIn ((iss s).active 0) l = true) ∧
    (Executes (st 0) (iss (st 0)) enterUses ∧ (iss (st 0)).g.park = none ∧
      ∀ tn d, ¬ HandleUsable (st 0) (iss (st 0)) (kGet (iss (st 0)).g 6) tn d) ∧
    (let s := stDom fun g => withV 22 [1] (withPath 3 g)
    Executes s (iss s) enterUses ∧ HandleUsable s (iss s) (kGet (iss s).g 6) (tenDom false) (dom0 false) ∧
      ∃ l k, l < 32 ∧ k < 32 ∧ laneIn ((iss s).active 0) l = true ∧ laneIn ((iss s).active 0) k = true ∧
        (iss s).keyOf 20 l = (iss s).keyOf 20 k ∧ (iss s).numberOf 22 l ≠ (iss s).numberOf 22 k) ∧
    let s := stDom fun g => { withPath 1 g with holdings := [held0] }
    Executes s (iss s) enterUses ∧ HandleUsable s (iss s) (kGet (iss s).g 6) (tenDom false) (dom0 false) ∧
      ((iss s).g.holdings.find? fun x => x.lane == 0).isSome = true ∧
      holdsNumber (iss s).g 0 (kGet (iss s).g 6) ((iss s).keyOf 20 0) ((iss s).numberOf 22 0) := by
  refine ⟨⟨executes_of (by decide), by decide, stDom_usable _ (by decide) (by decide), ?_, by decide, room _ rfl, 0, by decide, by decide⟩,
    ⟨executes_of (by decide), by decide, st_not_usable _⟩,
    ⟨executes_of (by decide), stDom_usable _ (by decide) (by decide), 0, 1, by decide, by decide, by decide, by decide, by decide, by decide⟩,
    executes_of (by decide), stDom_usable _ (by decide) (by decide), by decide, held0, by decide, by decide, by decide, by decide⟩
  intro l k hl hk h1 h2 _
  have h0 : ∀ l, l < 32 → laneIn ((iss (stDom (withPath 1))).active 0) l = true → l = 0 := by decide
  rw [h0 l hl h1, h0 k hk h2]

/-- A group parked with an entrant unanswered and answered; OSKIP with and without a lane, waiting and passed. -/
theorem witness_ProcessionsEnter_waits :
    (∀ a, a = none ∨ a = some true → let s := stDom fun g => { g with park := some ⟨0, 0, .procession true [ent0 a] 0 0x10085⟩ }
      Executes s (iss s) enterUses ∧ (iss s).g.park = some ⟨0, 0, .procession true [ent0 a] 0 0x10085⟩) ∧
    (let s := stDom (withPath 1)
    Executes s (iss s) skipUses ∧ (iss s).g.park = none ∧ laneIn ((iss s).active 0) 0 = true ∧
      HandleUsable s (iss s) (kGet (iss s).g 6) (tenDom false) (dom0 false) ∧ homesHaveRoom s ∧
      (∀ l, l < 32 → laneIn ((iss s).active 0) l = true → (iss s).keyOf 20 l = (iss s).keyOf 20 0 ∧ (iss s).numberOf 22 l = (iss s).numberOf 22 0) ∧
      (iss s).active 1 = 0) ∧
    ∀ fin, let s := stDom fun g => { g with park := some ⟨0, 0, .oskip 9 0x10085 fin⟩ }
      Executes s (iss s) skipUses ∧ (iss s).g.park = some ⟨0, 0, .oskip 9 0x10085 fin⟩ := by
  refine ⟨?_, ⟨executes_of (by decide), by decide, by decide, stDom_usable _ (by decide) (by decide), room _ rfl,
    lane0_of (by decide) ⟨rfl, rfl⟩, by decide⟩, ?_⟩
  · rintro a (rfl | rfl)
    all_goals exact ⟨executes_of (by decide), by decide⟩
  · rintro (_ | _)
    all_goals exact ⟨executes_of (by decide), by decide⟩

/-- Key 0 of domain 5 at its home. -/
def key0 (holder : Option (Nat × Nat)) (waiting : List KeyWaiter) : KeyEntry := ⟨0, 5, 0, 0, false, 0, holder, waiting⟩
def wait0 (seq : W32) : KeyWaiter := ⟨9, 1, seq, 1, false, 0⟩

/-- A leave after which request 7 comes in its path. -/
def leave0 : ProcMsg := .leave 0 5 0 9 1 3 ⟨0, 0, [7]⟩

/-- Requests that are next and not next, a leave with a waiter and an access before it, an answer. -/
theorem witness_ProcessionsAdmitInOrder_home :
    (∀ b q, q = 0 ∨ q = 1 → let s := { stDom with keys := [key0 none []], procMsgs := [.request 0 5 0 (wait0 q) b] }
      s.procMsgs[0]? = some (.request 0 5 0 (wait0 q) b) ∧ (∀ x, x ∈ s.procMsgs.take 0 → ∃ g en ok, x = .answer g en ok) ∧
        entryOf s 0 5 0 = some (key0 none []) ∧ noAlmanac s 0) ∧
    (let e := key0 (some (9, 1)) [wait0 1]
    let s := { stDom with keys := [e], procMsgs := [leave0], reqs := [req .d (.store .w32) [⟨0, 0xB0000, 5, 0⟩] none] }
    s.procMsgs[0]? = some leave0 ∧ entryOf s 0 5 0 = some e ∧ e.holder = some (9, 1) ∧ noAlmanac s 0 ∧
      (tfind s.groups 1).isSome = true ∧ ((tfind s.tenants 0).bind fun x => tfind x.domains 5) = some (dom0 false) ∧
      (dom0 false).device = true ∧ ∃ r, r ∈ s.reqs ∧ r.isCaptured = false ∧ r.id ∈ [7] ∧ r.space ≠ .host) ∧
    (∀ ws, ws = [] ∨ ws = [wait0 1] → let e := key0 (some (9, 1)) ws
    let s := { stDom with keys := [e], procMsgs := [leave0], reqs := [req .host (.store .w32) [⟨0, 0, 5, 0⟩] none] }
    s.procMsgs[0]? = some leave0 ∧ entryOf s 0 5 0 = some e ∧ noAlmanac s 0 ∧ (∀ r, r ∈ s.reqs → r.isMwait = false ∧ r.space = .host) ∧
      (wait0 1).seq = e.next + 1 ∧ (wait0 1).skip = false) ∧
    let s := { stDom fun g => { g with park := some ⟨0, 0, .procession true [ent0 none] 0 0x10085⟩ } with procMsgs := [.answer 1 9 true] }
    s.procMsgs[0]? = some (.answer 1 9 true) ∧ s.saved = [] ∧ tfind s.groups 1 = some (grp s 1) ∧
      (grp s 1).park = some ⟨0, 0, .procession true [ent0 none] 0 0x10085⟩ ∧ ([ent0 none].map fun e => e.id).Nodup := by
  refine ⟨?_, ⟨rfl, by decide, rfl, noAlmanac_of (by decide), by decide, by decide, rfl, by decide⟩,
    fun ws h => by rcases h with rfl | rfl <;> exact ⟨rfl, by decide, noAlmanac_of (by decide), by decide,
      rfl, rfl⟩, rfl, rfl,
    by decide, by decide, by decide⟩
  rintro b q (rfl | rfl)
  all_goals exact ⟨rfl, fun x hx => absurd hx List.not_mem_nil, by cases b <;> decide, noAlmanac_of (by cases b <;> decide)⟩

/-- OLEAVE of a lane that holds and of one that does not; a wait within its budget and beyond it, with each kind of domain. -/
theorem witness_ProcessionsAdmitInOrder_leave :
    (let s := stDom fun g => { withPath 1 g with holdings := [held0] }
    Executes s (iss s) { vs := [vsrc 20 2], ks := [6], ms := [0] } ∧
      HandleUsable s (iss s) (kGet (iss s).g 6) (tenDom false) (dom0 false) ∧
      (∀ l, l < 32 → laneIn ((iss s).active 0) l = true → holds (iss s).g l (kGet (iss s).g 6) ((iss s).keyOf 20 l)) ∧
      held0 ∈ (iss s).g.holdings ∧ ∀ y, y ∈ (iss s).g.holdings → laneIn ((iss s).active 0) y.lane = true) ∧
    (let s := stDom (withPath 1)
    Executes s (iss s) { vs := [vsrc 20 2], ks := [6], ms := [0] } ∧
      HandleUsable s (iss s) (kGet (iss s).g 6) (tenDom false) (dom0 false) ∧
      ∃ l, l < 32 ∧ laneIn ((iss s).active 0) l = true ∧ ¬ holds (iss s).g l (kGet (iss s).g 6) ((iss s).keyOf 20 l)) ∧
    ∀ trap now, now = 1024 ∨ now = 1025 →
      let h : W64 := if trap then 0x100C5 else 0x10085
      let s := { withTenant (fun _ => { tenDom trap with config := { bareConfig with procBudget := 1 } })
        (st 0) with now := now }
      let s := withGroup (fun g => { g with park := some ⟨0, 0, .procession true [ent0 none] 0 h⟩ }) s
      tfind s.groups 1 = some (grp s 1) ∧ (grp s 1).park = some ⟨0, 0, .procession true [ent0 none] 0 h⟩ ∧
        issOf s 1 0 = some (iss s) ∧ (∀ m, m ∈ s.procMsgs → ∀ en ok, m ≠ .answer 1 en ok) ∧
        ∃ tn, tfind s.tenants (grp s 1).tenant = some tn ∧ tn.config.procBudget = 1 ∧
          tfind tn.domains (h.toNat % 64) = some (dom0 trap) ∧ h = handleBits (h.toNat % 64) (dom0 trap) := by
  refine ⟨⟨executes_of (by decide), stDom_usable _ (by decide) (by decide), lane0_of (by decide) ⟨held0, by decide, by decide, by decide⟩,
      by decide, by decide⟩, ⟨executes_of (by decide), stDom_usable _ (by decide) (by decide), 0, by decide, by decide, ?_⟩, ?_⟩
  · rintro ⟨x, hx, -⟩
    exact nomatch hx
  · rintro (_ | _) now (rfl | rfl)
    all_goals exact ⟨by decide, by decide, by decide, fun m hm => absurd hm List.not_mem_nil, _, rfl, rfl, by decide, by decide⟩

/-! ## Witnesses: launches and graphs -/

def stLaunch (ks : List (Nat × W64)) (h : Tenant → Tenant := id) : State := withLaunch (withTenant h (st 0 (withK ks)))
def bytes0 : Bytes := readBytes (stLaunch []).main 0x42000 64

/-- LAUNCH of a block, with a full queue, misaligned, of zeros; the root block, one of zeros, one on another device; the checks. -/
theorem witness_GridsAreQueued :
    (let s := stLaunch [(4, 0x42000)]
    Executes s (iss s) { ks := [4] } ∧ (tfind s.tenants (iss s).g.tenant).isSome = true ∧ noAlmanac s (iss s).g.tenant ∧
      (kGet (iss s).g 4).toNat % 64 = 0 ∧ loadLaunchAt s (iss s).g.tenant (kGet (iss s).g 4).toNat = .ok (.ok (blk0, bytes0)) ∧
      allPerformed s (iss s)) ∧
    (let s := stLaunch [(4, 0x42000)] fun t => { t with queues := [(2, List.replicate 64 0)] }
    Executes s (iss s) { ks := [4] } ∧ loadLaunchAt s (iss s).g.tenant (kGet (iss s).g 4).toNat = .ok (.ok (blk0, bytes0)) ∧
      ((tfind s.tenants (iss s).g.tenant).map fun t => (tget [] t.queues 2).length) = some 64) ∧
    (let s := stLaunch [(4, 0x42001)]
    Executes s (iss s) { ks := [4] } ∧ (kGet (iss s).g 4).toNat % 64 ≠ 0) ∧
    (let s := stLaunch [(4, 0x43000)]
    Executes s (iss s) { ks := [4] } ∧ loadLaunchAt s (iss s).g.tenant (kGet (iss s).g 4).toNat = .ok (.error 3)) ∧
    (let s := stLaunch [] fun t => { t with config := { t.config with rootBlock := 0x42000 } }
    ∃ t0, tfind s.tenants 0 = some t0 ∧ loadLaunchAt s 0 t0.config.rootBlock = .ok (.ok (blk0, bytes0)) ∧ t0.state = .running ∧
      (¬ ∃ p, p ∈ s.grids ∧ p.2.tenant = 0 ∧ p.2.isRoot = true) ∧ (tget [] t0.queues 3).length < 64) ∧
    (let s := stLaunch [] fun t => { t with config := { t.config with rootBlock := 0x43000 } }
    ∃ t0, tfind s.tenants 0 = some t0 ∧ t0.state = .running ∧ (∀ p, p ∈ s.grids → p.2.tenant = 0 → p.2.isRoot = false) ∧
      (tget [] t0.queues 3).length < 64 ∧ loadLaunchAt s 0 t0.config.rootBlock = .ok (.error 3)) ∧
    (let s := withFar (st 0)
    let s := withTenant (fun t => { t with config := { t.config with rootBlock := 0x40000000 } }) s
    ∃ t0, tfind s.tenants 0 = some t0 ∧ t0.state = .running ∧ loadLaunchAt s 0 t0.config.rootBlock = .wait 5 0 0x40000000 ∧
      ∀ r, r ∈ s.remotes → r.use ≠ .unit 0 0x40000000) ∧
    checkLaunch bareConfig bytes0 Args.none = .ok blk0 :=
  ⟨⟨executes_of (by decide), by decide, noAlmanac_of (by decide), by decide, by decide, allPerformed_of rfl⟩,
    ⟨executes_of (by decide), by decide, by decide⟩, ⟨executes_of (by decide), by decide⟩, ⟨executes_of (by decide), by decide⟩,
    ⟨_, rfl, by decide, rfl, fun ⟨p, hp, _⟩ => absurd hp List.not_mem_nil, by decide⟩,
    ⟨_, rfl, rfl, fun p hp => absurd hp List.not_mem_nil, by decide, by decide⟩,
    ⟨_, rfl, rfl, by decide, fun r hr => absurd hr List.not_mem_nil⟩, by decide⟩

/-- A grid of a block, head of queue 0, on a core that holds nothing else. -/
def grid0 (b : LaunchBlock) : Grid :=
  { tenant := 0, queue := 0, block := b, graph := none, isRoot := false, placedTeams := 0, liveTeams := [], depReady := true
    passedOver := 4096, reserve := none, serial := 0, parkedOn := none, fatal := false }
def tenQ (cores : List Nat) (q : SMap (List Nat)) (gs : List Graph) : Tenant :=
  { Tenant.fresh { bareConfig with cores := cores } with state := .running, queues := q, graphs := gs }
def stQ (t : Tenant) (gs : SMap Grid) : State :=
  { State.reset with tenants := [(0, t)], grids := gs, diesInReset := false, nextId := 20 }
def batch0 : Graph := { graph0 with closed := [⟨1, [3]⟩], reserved := [⟨3, 1, 1, true⟩] }

/-- A head that fits core 5 and one that fits none; a ported block; a batch; the choices of a core and of a rectangle. -/
theorem witness_TeamsArePlaced :
    (∀ cores ports, cores = [] ∨ cores = [5] → let b := { blk0 with ports := ports }
      let s := stQ (tenQ cores [(0, [9])] []) [(9, grid0 b)]
      s.cxops = [] ∧ s.diesInReset = false ∧ s.ucieUp = true ∧ (∀ p, p ∈ s.teams → teamBusy s p.1 p.2 = true) ∧ s.tenants = [(0, tenQ cores [(0, [9])] [])] ∧
        tget [] (tenQ cores [(0, [9])] []).queues 0 = 9 :: [] ∧ (∀ k, k < 4 → k ≠ 0 → tget [] (tenQ cores [(0, [9])] []).queues k = []) ∧
        tfind s.grids 9 = some (grid0 b) ∧ (grid0 b).depReady = true ∧ 9 ∉ ([] : List Nat) ∧ 9 < s.nextId) ∧
    (let s := stQ (tenQ [5] [(0, [9])] []) [(9, grid0 blk0)]
    placeFor s 0 9 blk0 = some [5] ∧ rectangleFor s 0 9 { blk0 with ports := true } = some [5] ∧
      placeFor (stQ (tenQ [] [(0, [9])] []) [(9, grid0 blk0)]) 0 9 blk0 = none ∧ blk0.threads ≤ 2048) ∧
    (let s := stQ (tenQ [5] [] [batch0]) []
    s.cxops = [] ∧ s.tenants = [(0, tenQ [5] [] [batch0])] ∧ (∀ k, k < 4 → tget [] (tenQ [5] [] [batch0]).queues k = []) ∧
      batch0.closed = [⟨1, [3]⟩] ∧ batch0.nodes[1]? = some ⟨blk0, 8, 2, 0, [], 0⟩ ∧ placeFor s 0 s.nextId blk0 = some [5]) ∧
    (let g := { batch0 with closed := [⟨0, [4]⟩, ⟨1, [3]⟩, ⟨1, [5]⟩] }
    g.closed = [⟨0, [4]⟩] ++ ⟨1, [3]⟩ :: [⟨1, [5]⟩] ∧ (∀ x, x ∈ [(⟨0, [4]⟩ : Batch)] → x.node ≠ 1) ∧
      ∀ k m, k ≠ 1 → g.nodes[k]? = some m →
        (((g.closed.filter fun x => x.node == k).map fun x => x.records.length).sum + m.openRecords.length) <
          ((g.closed.filter fun x => x.node == 1).map fun x => x.records.length).sum) ∧
    (grid0 blk0).reserve = none ∧ 4096 ≤ (grid0 blk0).passedOver := by
  refine ⟨?_, ⟨by decide, by decide, by decide, by decide⟩, ⟨rfl, rfl, by decide, rfl, rfl, by decide⟩, ⟨rfl, by decide, fun k m hk hm => ?_⟩, rfl,
    by decide⟩
  · rintro cores ports (rfl | rfl)
    all_goals exact ⟨rfl, rfl, rfl, fun p hp => absurd hp List.not_mem_nil, rfl, rfl, by decide, rfl, rfl, by decide, (by decide : 9 < 20)⟩
  · have hl : k < 2 := by
      have := (List.getElem?_eq_some_iff.mp hm).1
      simpa [batch0, graph0] using this
    obtain rfl : k = 0 := by omega
    obtain rfl := Option.some.inj hm
    decide

/-- A head whose word lies in D, in M, and whose page failed; grids that have ended and not; SIGNAL to D, to M and to no word. -/
def blkDep (w : WordAddr) : LaunchBlock := { blk0 with dependence := w, depValue := 1, completion := w }
theorem witness_WordsAreAddedTo :
    (∀ w fatal, w = .d 0xB0000 ∨ w = .m 0x50008 →
      let g := { grid0 (blkDep w) with depReady := false, fatal := fatal }
      let s := withPages { stQ (tenQ [5] [(0, [9])] []) [(9, g)] with main := [] }
      (∃ t, tfind s.tenants 0 = some t ∧ tget [] t.queues 0 = 9 :: []) ∧ tfind s.grids 9 = some g ∧ g.depReady = false ∧ g.parkedOn = none ∧
        translate s 0 (0x50008 / 64 * 64) .read = .ok (.main 0x50000)) ∧
    (∀ w sp a, (w, sp, a) = (.d 0xB0000, Space.d, 0xB0000) ∨ (w, sp, a) = (.m 0x50008, Space.m, 0x50008) →
      let g := { grid0 (blkDep w) with placedTeams := 1, liveTeams := [] }
      let s := withPages { stQ (tenQ [5] [] []) [(9, g)] with main := [] }
      tfind s.grids 9 = some g ∧ g.block.gx * g.block.gy ≤ g.placedTeams ∧ wordLies s g.tenant g.block.completion sp a) ∧
    (let s := withPages (st 0 (withK [(8, 0x80000000000B0000)]))
    Executes s (iss s) { ks := [8, 9] } ∧ (kGet (iss s).g 8).toNat = 2 ^ 63 + 0xB0000 ∧ allocated s (iss s).g .d true 0xB0000 8 ∧
      wordLies s (iss s).g.tenant (.d 0xB0000) .d 0xB0000 ∧ (iss s).g.park = none ∧ allPerformed s (iss s) (BitVec.allOnes 32)) ∧
    (let s := withPages (st 0 (withK [(8, 0xC000000000050008)]))
    Executes s (iss s) { ks := [8, 9] } ∧ (kGet (iss s).g 8).toNat = 3 * 2 ^ 62 + 0x50008 ∧
      wordLies s (iss s).g.tenant (.m 0x50008) .m 0x50008) ∧
    let s := st 0
    Executes s (iss s) { ks := [8, 9] } ∧ (kGet (iss s).g 8).toNat = 0 := by
  refine ⟨?_, ?_, ⟨executes_of (by decide), by decide, allocated_of (by decide), .inl ⟨rfl, rfl⟩, by decide,
    allPerformed_of rfl⟩, ⟨executes_of (by decide), by decide, .inr ⟨0x50008, rfl, .inl ⟨by decide, rfl⟩⟩⟩,
    executes_of (by decide), by decide⟩
  · rintro w fatal (rfl | rfl)
    all_goals exact ⟨⟨_, rfl, rfl⟩, rfl, rfl, rfl, by cases fatal <;> decide⟩
  · rintro w sp a (h | h) <;> (simp only [Prod.mk.injEq] at h; obtain ⟨rfl, rfl, rfl⟩ := h)
    · exact ⟨rfl, by decide, .inl ⟨rfl, rfl⟩⟩
    · exact ⟨rfl, by decide, .inr ⟨0x50008, rfl, .inl ⟨by decide, rfl⟩⟩⟩

/-- A graph block of one node at 0x43000. -/
def graphCells : Mem := [(0x43000, 1), (0x43004, 32), (0x4300A, 0x0B), (0x43041, 0x10), (0x43066, 3), (0x43067, 1), (0x43068, 1),
  (0x4306A, 1), (0x4306C, 1), (0x43070, 0x0B), (0x43072, 1), (0x43073, 0x80)]
def stGraph (h : Tenant → Tenant := id) : State :=
  let s := withPages (withTenant h (st 0 (withK [(4, 0x43000), (5, 0x10000)])))
  { s with main := s.main ++ graphCells }
def graph1 : Graph :=
  { graph0 with
    generation := 0, base := 0xB0000
    nodes := [⟨{ blk0 with windows := [⟨0xB0000, 0x10000, true⟩] }, 0, 0, 0, [], 0⟩] }

set_option maxRecDepth 20000 in
theorem witness_GraphsLaunchAndEnd :
    (let s := stGraph
    Executes s (iss s) { ks := [5, 4] } ∧ noAlmanac s (iss s).g.tenant ∧ allPerformed s (iss s) ∧
      loadGraph s (iss s).g.tenant (kGet (iss s).g 4).toNat = .ok (.ok (graph1, readBytes stGraph.main 0x43000 192)) ∧
      (graph1.nodes[graph1.entry]?).isSome = true ∧ ∃ t0, tfind s.tenants (iss s).g.tenant = some t0 ∧
        (¬ ∃ x, x ∈ t0.graphs ∧ x.slot = 0) ∧ (tget [] t0.queues 0).length < 64) ∧
    (let s := stGraph fun t => { t with graphs := [graph0, { graph0 with slot := 1 }, { graph0 with slot := 2 }, { graph0 with slot := 3 }] }
    Executes s (iss s) { ks := [5, 4] } ∧ ∃ t0, tfind s.tenants (iss s).g.tenant = some t0 ∧ ∀ n, n < 4 → ∃ x, x ∈ t0.graphs ∧ x.slot = n) ∧
    (let s := withPages (st 0 (withK [(4, 0x44000)]))
    Executes s (iss s) { ks := [5, 4] } ∧ loadGraph s (iss s).g.tenant (kGet (iss s).g 4).toNat = .ok (.error 10)) ∧
    (∀ final waiter, (final, waiter) = (none, none) ∨ (final, waiter) = (some 0x10000001, none) ∨ (final, waiter) = (none, some 3) →
      let g := { graph0 with final := final, waiter := waiter }
      let s := stGraph fun t => { t with graphs := [g] }
      Executes s (iss s) { fs := .a, ks := [10, 5], tracked := 1 } ∧ FreshIds s ∧ ∃ t0, tfind s.tenants (iss s).g.tenant = some t0 ∧
        t0.graphs.find? (fun y => y.generation * 2 ^ 16 + y.slot == (kGet (iss s).g 5).toNat) = some g) ∧
    (Executes (st 0) (iss (st 0)) { fs := .a, ks := [10, 5], tracked := 1 } ∧ FreshIds (st 0) ∧
      ∃ t0, tfind (st 0).tenants 0 = some t0 ∧ t0.graphs.find? (fun y => y.generation * 2 ^ 16 + y.slot == (kGet (iss (st 0)).g 5).toNat) = none) ∧
    (let g := { graph0 with entryEnded := true, completion := .d 0xB0000 }
    let s := withTeam (fun t => { t with node := some (0, 0), live := [], gids := [] }) (withTenant (fun t => { t with graphs := [g] }) (st 0))
    graphOf s 0 0 = some g ∧ g.final = none ∧ g.parkedOn = none ∧ g.entryEnded = true ∧ g.reserved = [] ∧
      (∀ p, p ∈ s.teams → p.2.node = some (0, 0) → teamBusy s p.1 p.2 = false) ∧
      g.fatal = false ∧ wordLies s 0 g.completion .d 0xB0000) ∧
    let s := withTenant (fun t => { t with graphs := [graph0] }) (st 0)
    graphOf s 0 0 = some graph0 ∧ graph0.entryEnded = false := by
  refine ⟨⟨executes_of (by decide), noAlmanac_of (by decide), allPerformed_of rfl, by decide,
      by decide, _, rfl, fun ⟨x, hx, _⟩ => absurd hx List.not_mem_nil, by decide⟩, ⟨executes_of (by decide), _, rfl, ?_⟩,
    ⟨executes_of (by decide), by decide⟩, ?_, ⟨executes_of (by decide), fresh_of (by decide), _, rfl, by decide⟩,
    ⟨by decide, rfl, rfl, rfl, rfl, by decide, rfl, .inl ⟨rfl, rfl⟩⟩, by decide, rfl⟩
  · decide
  · rintro final waiter (h | h | h) <;> (simp only [Prod.mk.injEq] at h; obtain ⟨rfl, rfl⟩ := h)
    all_goals exact ⟨executes_of (by decide), fresh_of (by decide), _, rfl, by decide⟩

/-- A status on its way to the group whose WAITG asked for it, beside another graph. -/
theorem witness_GraphsLaunchAndEnd_status :
    let g : Graph := { graph0 with final := some 0x10000001, waiter := some 9 }
    let o : Owed := ⟨9, 1, 0, .other, some 0, [.k 10], [.k 10 0x10000001], 0, 0⟩
    let s := { withTenant (fun t => { t with graphs := [g, { graph0 with slot := 1 }] }) (st 0) with owed := [o] }
    s.owed.find? (fun y => y.id == 9) = some o ∧ o.parts = 0 ∧ o.kind = .other ∧ (tfind s.groups o.gid).isSome = true ∧
      ([g, { graph0 with slot := 1 }].map fun y => y.slot).Nodup ∧ graphOf s 0 0 = some g ∧ g.final = some 0x10000001 ∧ g.waiter = some 9 ∧
      ∀ p y, p ∈ s.tenants → y ∈ p.2.graphs → y.waiter = some 9 → p.1 = 0 ∧ y.slot = 0 := by
  refine ⟨by decide, rfl, rfl, by decide, by decide, by decide, rfl, rfl, ?_⟩
  intro p y hp hy hw
  obtain rfl := List.mem_singleton.mp hp
  have hy : y ∈ [({ graph0 with final := some 0x10000001, waiter := some 9 } : Graph), { graph0 with slot := 1 }] := hy
  simp only [List.mem_cons, List.not_mem_nil, or_false] at hy
  rcases hy with rfl | rfl
  · exact ⟨rfl, rfl⟩
  · exact nomatch hw

/-- Tables as those of `withPages` map every address below 2^30 to itself. -/
theorem translate_page {s : State} {tn va : Nat} (need : Need) (hc : s.cache = [])
    (ht : (tfind s.tenants tn).map (fun t => t.config.translationRoot) = some 0x40000) (h1 : pteAt s.main 0x40000 0 = 0x41001)
    (h2 : pteAt s.main 0x41000 0 = 0x0F) (hv : va < 2 ^ 30) : translate s tn va need = .ok (.main va) := by
  have hf : ∀ n k, 30 ≤ n → fld va n k = 0 := fun n k hn => by
    have : va / 2 ^ n = 0 := Nat.div_eq_of_lt (Nat.lt_of_lt_of_le hv (Nat.pow_le_pow_right (by decide) hn))
    simp [fld, this]
  have hw : walkTables s.mainBytes s.main 0x40000 va = some (0x0F, 2 ^ 30) := by
    simp only [walkTables, hf 39 13 (by decide), hf 30 9 (by decide), h1, show pteFrame 0x41001 = 0x41000 from rfl, h2, State.mainBytes]
    cases s.variant <;> rfl
  cases h : tfind s.tenants tn with
  | none => simp [h] at ht
  | some t =>
    have hl : leafOf s tn va need = some (0x0F, 2 ^ 30) := by
      have hv' : ¬ 2 ^ 52 ≤ va := Nat.not_le.mpr (Nat.lt_trans hv (by decide))
      simp only [h, Option.map_some, Option.some.injEq] at ht
      simp only [leafOf, if_neg hv', cachedLeaf, hc, List.find?_nil, h, ht, hw]
    have hp : pteGrants 0x0F need = true := by cases need <;> rfl
    unfold Sys2Proof.Machine.translate
    rw [hl]
    simp only [hp, if_true, placeOf]
    rw [Nat.mod_eq_of_lt hv, show pteFrame 0x0F = 0 from rfl, Nat.zero_add]
    rfl

/-! ## Witnesses: records, contexts, faults and selection -/

/-- Group 1 as a group of node 1 of a graph. -/
def stRec (g : Graph) (ks : List (Nat × W64)) (h : Group → Group := id) : State :=
  withTenant (fun t => { t with graphs := [g] }) (withTeam (fun t => { t with node := some (0, 1) }) (st 0 fun g => h (withK ks (withPath 1 g))))
def emitUses : Uses := { fs := .a, vs := [vreg 20], ks := [6], ms := [0], tracked := 1 }

/-- EMIT for a node, for the entry node, with no slot free, in a deadlock, without lanes. -/
theorem witness_RecordsFlow_emit :
    (let s := stRec graph0 [(6, 1)]
    Executes s (iss s) emitUses ∧ (iss s).g.handler = none ∧ ((tfind s.teams (iss s).g.team).bind fun t => t.node) = some (0, 1) ∧
      graphOf s (iss s).g.tenant 0 = some graph0 ∧ (kGet (iss s).g 6).toNat < graph0.nodes.length ∧ (kGet (iss s).g 6).toNat ≠ graph0.entry ∧
      (iss s).lanes 0 ≠ [] ∧ (iss s).g.park = none ∧ (∀ x, x ∈ graph0.emitQueue → x = (iss s).gid) ∧
      graph0.reserved.length + ((iss s).lanes 0).length ≤ graph0.slots ∧ (iss s).lanes 1 = []) ∧
    (let s := stRec graph0 []
    Executes s (iss s) emitUses ∧ (kGet (iss s).g 6).toNat = graph0.entry) ∧
    (let s := stRec { graph0 with slots := 0 } [(6, 1)]
    Executes s (iss s) emitUses ∧ ¬ 0 + ((iss s).lanes 0).length ≤ 0 ∧ s.groups.Pairwise (fun q r => q.1 < r.1)) ∧
    let s := stRec graph0 [(6, 1)] fun g => { g with park := some ⟨0, 0, .emit true⟩ }
    Executes s (iss s) emitUses ∧ (iss s).g.park = some ⟨0, 0, .emit true⟩ :=
  ⟨⟨executes_of (by decide), by decide, by decide, by decide, by decide, by decide, by decide, by decide, by decide, by decide, by decide⟩,
    ⟨executes_of (by decide), by decide⟩, ⟨executes_of (by decide), by decide, by decide⟩, executes_of (by decide), by decide⟩

/-- COMMIT of a reserved slot, whose node's open batch is not due and due, and of none; a batch that is due, not due, idle and not idle. -/
def graph2 (opened : List Nat) (tick : Nat) (closed : List Batch) : Graph :=
  { graph0 with
    reserved := [⟨3, 1, 1, false⟩], closed := closed
    nodes := [⟨blk0, 0, 0, 0, [], 0⟩, ⟨blk0, 8, 2, 1, opened, tick⟩] }
theorem witness_RecordsFlow_batches :
    (∀ now rs, now = 0 ∧ rs = [5] ∨ now = 12 ∧ rs = [] → let s := { stRec (graph2 [5] 0 []) [] (withV 20 [0xB2300]) with now := now }
    (0 + 1 ≤ s.now / 12 ↔ rs = []) ∧ Executes s (iss s) { vs := [vsrc 20], ms := [0] } ∧ noAlmanac s (iss s).g.tenant ∧ graphOf s (iss s).g.tenant 0 = some (graph2 [5] 0 []) ∧
      [3].length = ((iss s).lanes 0).length ∧ (∀ x, x ∈ ((iss s).lanes 0).zip [3] → srcLane (iss s).g 20 x.1 1 = (graph2 [5] 0 []).base + 256 * x.2) ∧
      (graph2 [5] 0 []).reserved.find? (fun x => x.slot == 3) = some ⟨3, 1, 1, false⟩ ∧
      (graph2 [5] 0 []).nodes[1]? = some ⟨blk0, 8, 2, 1, [5], 0⟩ ∧ (rs ++ [3]).length ≤ 2 ∧ devicePerformed s (iss s) (BitVec.allOnes 32)) ∧
    (let s := stRec (graph2 [] 0 []) []
    Executes s (iss s) { vs := [vsrc 20], ms := [0] } ∧ 0 ∈ (iss s).lanes 0 ∧ srcLane (iss s).g 20 0 1 < (graph2 [] 0 []).base) ∧
    (∀ now, now = 11 ∨ now = 12 → let s := { stRec (graph2 [5] 0 []) [] with now := now }
      noAlmanac s 0 ∧ graphOf s 0 0 = some (graph2 [5] 0 []) ∧ (graph2 [5] 0 []).nodes[1]? = some ⟨blk0, 8, 2, 1, [5], 0⟩) ∧
    (let s := withTeam (fun t => { t with node := none }) (stRec (graph2 [5] 0 []) [])
    graphOf s 0 0 = some (graph2 [5] 0 []) ∧ (graph2 [5] 0 []).closed = [] ∧ graphGroups s 0 0 = []) ∧
    let s := stRec (graph2 [5] 0 [⟨1, [4]⟩]) []
    graphOf s 0 0 = some (graph2 [5] 0 [⟨1, [4]⟩]) ∧ (graph2 [5] 0 [⟨1, [4]⟩]).closed ≠ [] := by
  refine ⟨?_, ⟨executes_of (by decide), by decide, by decide⟩, ?_, ⟨by decide, rfl, by decide⟩, by decide, by decide⟩
  · rintro now rs (⟨rfl, rfl⟩ | ⟨rfl, rfl⟩)
    all_goals
      exact ⟨by decide, executes_of (by decide), noAlmanac_of (by decide), by decide, by decide, by decide, by decide, rfl, by decide,
        devicePerformed_of rfl⟩
  · rintro now (rfl | rfl)
    all_goals exact ⟨noAlmanac_of (by decide), by decide, rfl⟩

/-- The tables. -/
def cxTables : Mem := [(0x40000, 0x01), (0x40001, 0x10), (0x40002, 0x04), (0x41000, 0x0F)]

/-- Group 1 of the supervisor tenant 0, beside tenant 1 in some state, with bytes written to a context area at 0x50000. -/
def stCx (state : TenantState) (k11 : W64) (area : Bytes) (k12 : W64 := 0x50000) : State :=
  let s := withPages (st 0 (withK [(11, k11), (12, k12)]))
  { s with
    tenants := tput s.tenants 1 { Tenant.fresh { bareConfig with cores := [10] } with state := state }
    main := writeBytes cxTables 0x50000 area }
def cxUses : Uses := { fs := .a, ks := [10, 11, 12], priv := true, tracked := 1 }
def killUses : Uses := { fs := .a, ks := [10, 11], priv := true, tracked := 1 }

theorem stCx_main (state : TenantState) (k11 : W64) (area : Bytes) : (stCx state k11 area).main = writeBytes cxTables 0x50000 area := by
  simp only [stCx]

/-- Whatever the area holds, it is mapped to itself. -/
theorem mapped_of {s : State} {area : Bytes} (n : Nat) (need : Need) (hs : s.main = writeBytes cxTables 0x50000 area) (hc : s.cache = [])
    (ht : (tfind s.tenants 0).map (fun t => t.config.translationRoot) = some 0x40000) (h : n ≤ 0x100000) :
    AreaMapped s 0 0x50000 n need id where
  granted := fun m hm va _ h2 => by
    have hb : ∀ a, a < 0x50000 → readByte m a = readByte cxTables a := fun a ha =>
      (hm a fun va h1 _ => Nat.ne_of_gt (Nat.lt_of_lt_of_le ha h1)).trans (hs ▸ readByte_writeBytes_outside _ _ _ (.inl ha))
    have hp : ∀ a k, a + 8 * k + 8 < 0x50000 → pteAt m a k = pteAt cxTables a k := fun a k ha => by
      simp only [pteAt, readNat, readBytes]
      repeat rw [hb _ (by omega)]
    exact translate_page need hc ht ((hp 0x40000 0 (by decide)).trans (by decide)) ((hp 0x41000 0 (by decide)).trans (by decide))
      (by omega)
  apart := fun _ _ _ _ _ _ h => h

/-- What the area reads as. -/
theorem area_of {s : State} {area : Bytes} (k n : Nat) (hs : s.main = writeBytes cxTables 0x50000 area) (h : k + n ≤ area.length) :
    areaBytes s id (0x50000 + k) n = (area.drop k).take n := by
  apply List.ext_getElem
  · simp only [areaBytes, List.length_map, List.length_range, List.length_take, List.length_drop]
    omega
  · intro j h1 h2
    have hj : j < n := by simpa [areaBytes] using h1
    have h3 : 0x50000 + k + j - 0x50000 = k + j := by omega
    have h4 : 0x50000 ≤ 0x50000 + k + j := by omega
    have h5 : k + j < area.length := by omega
    simp [areaBytes, hs, readByte_writeBytes, h3, h4, h5]

theorem contextImage_length (c : SavedContext) (h : (contextHeader c).length ≤ 4096) : (contextImage c).length = contextBytes c := by
  have hc : 4096 ≤ contextBytes c := by simp only [contextBytes]; omega
  simp only [contextImage, upto, List.length_append, List.length_replicate, List.length_map, List.length_range]
  omega

/-- An area whose header is of tenant 1, its last run of no records at 4096. -/
def headCells : Bytes := [0x42, 0x4C, 0x43, 0x58, 1, 1, 1, 0] ++ List.replicate 104 0 ++ [0, 0x10, 0, 0, 0, 0, 0, 0]

/-- Ill-formed operands, an access before, a tenant in the wrong state; CXSAVE with too little room and with enough. -/
theorem witness_ContextsAreSaved :
    (let s := stCx .running 0 []
    Executes s (iss s) cxUses ∧ FreshIds s ∧ (kGet (iss s).g 11).toNat % 16 = (iss s).g.tenant) ∧
    (let s := { stCx .running 1 [] with nextSeq := 1, reqs := [req .d (.store .w32) [⟨0, 0xB0000, 5, 0⟩] none] }
    Executes s (iss s) cxUses ∧ FreshIds s ∧ ¬ allPerformed s (iss s)) ∧
    (let s := stCx .configured 1 []
    Executes s (iss s) cxUses ∧ FreshIds s ∧ allPerformed s (iss s) ∧ ¬ ∃ t, tfind s.tenants 1 = some t ∧ t.state = .running) ∧
    (∀ k11, k11 = 1 ∨ k11 = 0x100000001 → let s := stCx .running k11 []
    Executes s (iss s) cxUses ∧ FreshIds s ∧ s.cxops = [] ∧ allPerformed s (iss s) ∧ (kGet (iss s).g 11).toNat / 2 ^ 4 % 2 ^ 28 = 0 ∧
      (kGet (iss s).g 12).toNat % 4096 = 0 ∧ (kGet (iss s).g 12).toNat < 2 ^ 52 ∧ (kGet (iss s).g 11).toNat % 16 = 1 ∧ 1 ≠ (iss s).g.tenant ∧
      (∃ t0, tfind s.tenants 1 = some t0 ∧ t0.state = .running ∧ contextSize s t0 1 = 4096) ∧ Drained s 1 ∧
      AreaMapped s 0 0x50000 4096 .write id) ∧
    (kGet (iss (stCx .running 1 [])).g 11).toNat / 2 ^ 32 * 4096 < 4096 ∧ 4096 ≤ (kGet (iss (stCx .running 0x100000001 [])).g 11).toNat / 2 ^ 32 * 4096 := by
  refine ⟨⟨executes_of (by decide), fresh_of (by decide), by decide⟩,
    ⟨executes_of (by decide), fresh_of (by decide), fun h => absurd (h.2 _ (List.mem_singleton.mpr rfl) (by decide) (by decide)) (by decide)⟩,
    ⟨executes_of (by decide), fresh_of (by decide), allPerformed_of rfl, ?_⟩, ?_, by decide, by decide⟩
  · rintro ⟨t, ht, h⟩
    obtain rfl : t = { Tenant.fresh { bareConfig with cores := [10] } with state := .configured } := Option.some.inj (ht.symm.trans rfl)
    exact absurd h (by decide)
  · rintro k11 (rfl | rfl)
    all_goals
      refine ⟨executes_of (by decide), fresh_of (by decide), rfl, allPerformed_of rfl, by decide, by decide, by decide,
        by decide, by decide, ⟨_, rfl, rfl, by decide⟩, ⟨fun r hr => absurd hr List.not_mem_nil, fun p hp h => ?_, fun p hp h => ?_,
        fun c hc => absurd hc List.not_mem_nil, fun x hx => absurd hx List.not_mem_nil⟩, mapped_of 4096 .write (stCx_main _ _ _) rfl rfl (by decide)⟩
      · exact absurd h ((by decide : ∀ p, p ∈ (stCx .running _ []).groups → p.2.tenant ≠ 1) p hp)
      · exact absurd h ((by decide : ∀ p, p ∈ (stCx .running _ []).teams → p.2.tenant ≠ 1) p hp)

/-- A context of tenant 1: team 5 of a grid, on some core, with group 7. -/
def savedTeam (core : Nat) : Team := { bareTeam 7 with tenant := 1, grid := 3, cores := [core], tmem := [] }
def savedGroup (core : Nat) : Group := { bareGroup 5 with tenant := 1, core := core, lBase := 0x80000 }
def saved1 (core : Nat) : SavedContext := ⟨1, 0x50000, 1, [(7, savedGroup core)], [(5, savedTeam core)], [], [], [], [], [], [], [], []⟩
def stLoad (state : TenantState) (core : Nat) (ports : Bool) : State :=
  { stCx state 0x10000000001 (contextImage (saved1 core)) with
    images := [saved1 core]
    grids := [(3, { grid0 { blk0 with ports := ports } with tenant := 1 })] }

theorem stLoad_main (state : TenantState) (core : Nat) (ports : Bool) :
    (stLoad state core ports).main = writeBytes cxTables 0x50000 (contextImage (saved1 core)) := by
  simp only [stLoad, stCx]

theorem saved1_room (core : Nat) : TeamRoom (saved1 core) 5 (savedTeam core) where
  tmem := by simp only [savedTeam, bareTeam]; decide
  queues := fun p hp => absurd hp (by simp [saved1])
  positions := fun j part _ _ => Nat.le_trans (List.length_filter_le _ _) (by simp [saved1])
  registers := fun j part _ _ => by
    have h : (((saved1 core).on 5 j part).map fun p => p.2.budget).sum ≤ 1024 := by
      simp only [SavedContext.on, saved1, List.filter_cons, List.filter_nil]
      split <;> simp [savedGroup, bareGroup]
    exact ⟨h, fun a b ha => absurd ha (by simp [savedTeam, bareTeam])⟩

theorem saved1_fits (state : TenantState) (core : Nat) (ports : Bool) : ContextFits (stLoad state core ports) (iss (stLoad state core ports)) (saved1 core) where
  teams := by simp [saved1]
  groups := ⟨by simp [saved1], fun p hp => by
    obtain rfl := List.mem_singleton.mp hp
    exact ⟨(by decide : 7 ≠ 1), rfl, savedTeam core, List.mem_singleton.mpr rfl, by simp [savedTeam, savedGroup, bareTeam, bareGroup]⟩⟩
  requests := fun r hr => absurd hr List.not_mem_nil

set_option maxRecDepth 20000 in
/-- What the area's header says, for a context written there. -/
theorem stLoad_header (state : TenantState) (core : Nat) (ports : Bool) (n : Nat) (h : core = 9 ∨ core = 10) (hn : n = 94208) :
    areaHeader (stLoad state core ports) id 0x50000 1 ∧ areaLength (stLoad state core ports) id 0x50000 = n ∧
      areaBytes (stLoad state core ports) id 0x50000 n = contextImage (saved1 core) := by
  have hl : (contextImage (saved1 core)).length = n := by
    rcases h with rfl | rfl <;> exact ((contextImage_length _ (by decide)).trans (by decide)).trans hn.symm
  have ha : ∀ k j, k + j ≤ n → areaBytes (stLoad state core ports) id (0x50000 + k) j = ((contextImage (saved1 core)).drop k).take j :=
    fun k j hk => area_of k j (stLoad_main state core ports) (by omega)
  have hf : ∀ k j, k + j ≤ 120 → areaField (stLoad state core ports) id (0x50000 + k) j = leNat (((contextImage (saved1 core)).drop k).take j) :=
    fun k j hk => congrArg leNat (ha k j (by omega))
  refine ⟨⟨(hf 0 4 (by omega)).trans ?_, (hf 4 1 (by omega)).trans ?_, (hf 6 2 (by omega)).trans ?_⟩, ?_, (ha 0 _ (by omega)).trans ?_⟩
  · rcases h with rfl | rfl <;> decide
  · rcases h with rfl | rfl <;> decide
  · rcases h with rfl | rfl <;> decide
  · simp only [areaLength]
    rw [hf 112 8 (by omega), hf 32 4 (by omega), hn]
    rcases h with rfl | rfl <;> decide
  · rw [List.drop_zero, ← hl, List.take_length]

set_option maxRecDepth 20000 in
/-- An area that holds no context of the tenant, and one too long for what the instruction says; the tenant's other conditions. -/
theorem witness_ContextsAreRestored_status :
    ∀ area, area = [] ∨ area = headCells → let s := stCx .saved 1 area
      Executes s (iss s) cxUses ∧ FreshIds s ∧ s.cxops = [] ∧ s.xchgs = [] ∧ (s.diesInReset = false ∧ s.ucieUp = true) ∧ allPerformed s (iss s) ∧
      (kGet (iss s).g 11).toNat / 2 ^ 4 % 2 ^ 28 = 0 ∧ (kGet (iss s).g 12).toNat = 0x50000 ∧ (kGet (iss s).g 11).toNat % 16 = 1 ∧
      1 ≠ (iss s).g.tenant ∧ (∃ t0, tfind s.tenants 1 = some t0 ∧ t0.state = .saved ∧
        ∀ p, p ∈ s.tenants → p.1 ≠ 1 → p.2.state = .running ∨ p.2.state = .frozen → ∀ d, d ∈ p.2.config.cores → d ∉ t0.config.cores) ∧
      AreaMapped s (iss s).g.tenant 0x50000 4096 .read id ∧
      (area = [] → ¬ areaHeader s id 0x50000 1) ∧
      (area = headCells → areaHeader s id 0x50000 1 ∧ (kGet (iss s).g 11).toNat / 2 ^ 32 * 4096 < areaLength s id 0x50000) := by
  rintro area (rfl | rfl)
  · exact ⟨executes_of (by decide), fresh_of (by decide), rfl, rfl, ⟨rfl, rfl⟩, allPerformed_of rfl, by decide, by decide, by decide,
      by decide, ⟨_, rfl, rfl, by decide⟩, mapped_of 4096 .read (stCx_main _ _ _) rfl rfl (by decide), fun _ h => absurd h.1 (by decide),
      fun h => absurd h.symm (List.cons_ne_nil _ _)⟩
  · exact ⟨executes_of (by decide), fresh_of (by decide), rfl, rfl, ⟨rfl, rfl⟩, allPerformed_of rfl, by decide, by decide, by decide,
      by decide, ⟨_, rfl, rfl, by decide⟩, mapped_of 4096 .read (stCx_main _ _ _) rfl rfl (by decide), fun h => absurd h (List.cons_ne_nil _ _),
      fun _ => ⟨⟨by decide, by decide, by decide⟩, by decide⟩⟩

def stLoadBase : State := st 0 (withK [(11, 0x10000000001), (12, 0x50000)])

/-- A context that the area holds: a team whose cores are free, and a ported block whose old place the tenant no longer has. -/
theorem witness_ContextsAreRestored :
    ∀ core ports n, (core = 10 ∧ ports = false) ∨ (core = 9 ∧ ports = true) → n = 94208 → let s := stLoad .saved core ports
      Executes s (iss s) cxUses ∧ FreshIds s ∧ s.cxops = [] ∧ s.xchgs = [] ∧ (s.diesInReset = false ∧ s.ucieUp = true) ∧ allPerformed s (iss s) ∧
      (kGet (iss s).g 11).toNat / 2 ^ 4 % 2 ^ 28 = 0 ∧ (kGet (iss s).g 12).toNat = 0x50000 ∧ (kGet (iss s).g 11).toNat % 16 = 1 ∧
      1 ≠ (iss s).g.tenant ∧ areaHeader s id 0x50000 1 ∧ areaLength s id 0x50000 = n ∧
      n ≤ (kGet (iss s).g 11).toNat / 2 ^ 32 * 4096 ∧ AreaMapped s (iss s).g.tenant 0x50000 n .read id ∧
      s.images.find? (fun c => c.tenant == 1 && contextImage c == areaBytes s id 0x50000 n) = some (saved1 core) ∧
      ContextFits s (iss s) (saved1 core) ∧ TeamRoom (saved1 core) 5 (savedTeam core) ∧
      (∃ g, tfind s.grids 3 = some g ∧ g.block.ports = ports ∧ g.block.gx = 1 ∧ g.block.gy = 1) ∧ CoreIdle s 10 ∧
      ∃ t0, tfind s.tenants 1 = some t0 ∧ t0.state = .saved ∧ t0.config.cores = [10] := by
  have hi : ∀ core ports, CoreIdle (stLoad .saved core ports) 10 := fun core ports =>
    have h : (∀ p, p ∈ stLoadBase.groups → p.2.core ≠ 10) ∧ ∀ p, p ∈ stLoadBase.teams → 10 ∉ p.2.cores := by decide
    ⟨h.1, h.2, fun x _ => rfl, Nat.zero_le _⟩
  have hm : ∀ core ports n, (core = 9 ∨ core = 10) → n = 94208 →
      (stLoad .saved core ports).images.find? (fun c => c.tenant == 1 && contextImage c == areaBytes (stLoad .saved core ports) id 0x50000 n) =
        some (saved1 core) := fun core ports n h hn => by
    rw [(stLoad_header .saved core ports n h hn).2.2, show (stLoad .saved core ports).images = [saved1 core] from rfl, List.find?_cons]
    simp [saved1]
  rintro core ports n (⟨rfl, rfl⟩ | ⟨rfl, rfl⟩) hn
  · refine ⟨executes_of (by decide), fresh_of (by decide), rfl, rfl, ⟨rfl, rfl⟩, allPerformed_of rfl, by decide, by decide, by decide,
      by decide, (stLoad_header _ _ _ n (.inr rfl) hn).1, (stLoad_header _ _ _ n (.inr rfl) hn).2.1, ?_,
      mapped_of n .read (stLoad_main _ _ _) rfl rfl (by omega), hm _ _ n (.inr rfl) hn, saved1_fits _ _ _, saved1_room _, ⟨_, rfl, rfl, rfl, rfl⟩, hi _ _, _, rfl, rfl, rfl⟩
    exact hn ▸ (by decide)
  · refine ⟨executes_of (by decide), fresh_of (by decide), rfl, rfl, ⟨rfl, rfl⟩, allPerformed_of rfl, by decide, by decide, by decide,
      by decide, (stLoad_header _ _ _ n (.inl rfl) hn).1, (stLoad_header _ _ _ n (.inl rfl) hn).2.1, ?_,
      mapped_of n .read (stLoad_main _ _ _) rfl rfl (by omega), hm _ _ n (.inl rfl) hn, saved1_fits _ _ _, saved1_room _, ⟨_, rfl, rfl, rfl, rfl⟩, hi _ _, _, rfl, rfl, rfl⟩
    exact hn ▸ (by decide)

/-- CXKILL of a group, its team and its grid; of a context; of nothing; of the own tenant. -/
theorem witness_ContextsAreKilled :
    (∀ k11, k11 = 0x901 ∨ k11 = 0x911 ∨ k11 = 0x921 →
      let s0 := stCx .running k11 []
      let g7 := { bareGroup 5 with tenant := 1, core := 9 }
      let s := { s0 with
        groups := tput s0.groups 7 g7
        teams := tput s0.teams 5 (savedTeam 9)
        grids := [(3, { grid0 blk0 with tenant := 1, liveTeams := [5] })] }
      Executes s (iss s) killUses ∧ FreshIds s ∧ allPerformed s (iss s) ∧ (kGet (iss s).g 11).toNat < 2 ^ 22 ∧
      (kGet (iss s).g 11).toNat / 64 % 4 = 0 ∧ (kGet (iss s).g 11).toNat % 16 ≠ (iss s).g.tenant ∧
      (kGet (iss s).g 11).toNat / 16 % 4 ≠ 3 ∧
      (s.groups.find? fun p => p.2.live && p.2.tenant == 1 && p.2.core == 9 && p.2.position == 0) = some (7, g7) ∧
      tfind s.groups 7 = some g7 ∧ Apart s (iss s) g7 ∧ ∃ tm gr, tfind s.teams 5 = some tm ∧ 7 ∈ tm.live ∧ tfind s.grids tm.grid = some gr ∧ 5 ∈ gr.liveTeams) ∧
    (let s := stCx .running 0x31 []
    Executes s (iss s) killUses ∧ (kGet (iss s).g 11).toNat / 16 % 4 = 3 ∧ (kGet (iss s).g 11).toNat / 256 = 0 ∧
      ∃ t0, tfind s.tenants 1 = some t0 ∧ t0.state = .running) ∧
    (let s := stCx .running 0x901 []
    Executes s (iss s) killUses ∧ (s.groups.find? fun p => p.2.live && p.2.tenant == 1 && p.2.core == 9 && p.2.position == 0) = none) ∧
    let s := stCx .running 0 []
    Executes s (iss s) killUses ∧ (kGet (iss s).g 11).toNat % 16 = (iss s).g.tenant := by
  refine ⟨?_, ⟨executes_of (by decide), by decide, by decide, _, rfl, rfl⟩, ⟨executes_of (by decide), by decide⟩,
    executes_of (by decide), by decide⟩
  intro k11 hk
  dsimp only
  rcases hk with rfl | rfl | rfl
  all_goals
    refine ⟨executes_of (by decide), fresh_of (by decide), allPerformed_of rfl, by decide, by decide, by decide, by decide,
      by decide, by decide, ⟨by decide, fun x tm hx hl => ?_, fun tm gr ht hg => ?_⟩, _, _, rfl, by decide, rfl, by decide⟩
    · by_cases h5 : x = 5
      · subst h5
        obtain rfl := Option.some.inj ((by decide : tfind (tput (st 0).teams 5 (savedTeam 9)) 5 = some (savedTeam 9)).symm.trans hx)
        exact absurd hl (by decide)
      · have h0 : x = 0 := by
          have hx : tfind [(0, bareTeam 1), (5, savedTeam 9)] x = some tm := hx
          by_contra h0
          simp [tfind, h5, h0] at hx
        subst h0
        decide
    · obtain rfl := Option.some.inj ((by decide : tfind (tput (st 0).teams 5 (savedTeam 9)) 5 = some (savedTeam 9)).symm.trans ht)
      have hg : tfind [(3, { grid0 blk0 with tenant := 1, liveTeams := [5] })] 3 = some gr := hg
      obtain rfl := Option.some.inj hg
      decide

/-- A lone group about to begin the clause at 0x1000, of one VALU word, whose header waits on f0 or not; and where it is no header. -/
def stClause (hdr : Mem) (flags : SMap Nat) : State :=
  let s := withPages (withGroup (fun g => { g with slot0 := some bareSlot, flags := flags }) (st 0))
  { s with main := hdr ++ s.main }
def plainHdr : Mem := [(0x1003, 0x5A), (0x1004, 0xF0), (0x1005, 0x0F)]
def waitHdr : Mem := [(0x1003, 0x5A), (0x1004, 0xF0), (0x1005, 0x1F)]
def hdr0 (wait : BitVec 12) : Header := ⟨.valu, 0, wait, none, none, 0, false⟩

def theTenant (s : State) : Tenant := (tfind s.tenants 0).getD (Tenant.fresh bareConfig)
def theTeam (s : State) : Team := (tfind s.teams 0).getD (bareTeam 1)

/-- Whether group 1 is the only one, and may start a clause from a slot. -/
def loneAt (s : State) (sl : Slot) : Bool :=
  decide (s.groups = [(1, grp s 1)]) && decide ((grp s 1).core = 0 ∧ (grp s 1).position % 8 = 0 ∧ (grp s 1).slot0 = some sl ∧ (grp s 1).slot1 = none) &&
    decide (sl.offPipe = false ∧ sl.clause = none ∧ sl.resumed = false ∧ sl.notBefore ≤ s.now ∧ (grp s 1).park = none) && (grp s 1).handler.isNone &&
    decide (s.diesInReset = false ∧ s.ucieUp = true ∧ tfind s.tenants (grp s 1).tenant = some (theTenant s) ∧ (theTenant s).state = .running) &&
    decide (tfind s.teams (grp s 1).team = some (theTeam s) ∧ (theTeam s).started = true)

theorem lone_of {s : State} {sl : Slot} (h : loneAt s sl = true) : Lone s 0 0 1 (grp s 1) sl (theTenant s) (theTeam s) := by
  simp only [loneAt, Bool.and_eq_true, decide_eq_true_eq, Option.isNone_iff_eq_none] at h
  obtain ⟨⟨⟨⟨⟨hg, h1⟩, h2⟩, h3⟩, h4⟩, h5⟩ := h
  exact ⟨⟨by rw [hg]; rfl, by rw [hg]; exact List.pairwise_singleton _ _⟩, ⟨h1.1, h1.2.1⟩,
    fun p hq _ _ _ => by rw [hg] at hq; rw [List.mem_singleton.mp hq], h2.1, ⟨h1.2.2.1, h1.2.2.2, h2.2.1, h2.2.2.1, h2.2.2.2.1⟩, ⟨h2.2.2.2.2, h3⟩,
    h4.1, h4.2.1, h4.2.2.1, h4.2.2.2, h5.1, h5.2⟩

/-- A clause of the mem class, a group with four far accesses behind another in its partition's rotation, and a full issue of loads. -/
def memHdr : Mem := [(0x1003, 0x5A), (0x1004, 0xF0), (0x1005, 0x0F), (0x1007, 0x20)]
def hdrM : Header := ⟨.mem, 0, 0, none, none, 0, false⟩

/-- Its clause on a page that may not be executed, beside a fault log. -/
def stNoExec : State :=
  let s := withTenant (fun t => { t with config := { t.config with faultLog := 0x60000 } }) (stClause [] [])
  { s with main := [(0x40000, 0x01), (0x40001, 0x10), (0x40002, 0x04), (0x41000, 0x07)] }

def notClause : Fetched' → Bool
  | .clause _ => false
  | _ => true

theorem notClause_of {f : Fetched'} (h : notClause f = true) (c : Clause) : f ≠ .clause c := by
  rintro rfl
  exact nomatch h

set_option maxRecDepth 20000 in
theorem witness_ClausesAreSelected :
    parseHeader 0xFF05A000000 = some (hdr0 0) ∧
    (let s := stClause plainHdr []
    Lone s 0 0 1 (grp s 1) bareSlot (theTenant s) (theTeam s) ∧ fetchedAt s 0 0x1000 0x1000 16 ∧
      parseHeader (BitVec.ofNat 64 (readSpace s .m 0x1000 8)) = some (hdr0 0) ∧ fetchClause s 0 0x1000 = .clause ⟨hdr0 0, [0]⟩ ∧
      fetchClause (fillCache s 0 0x1000 .exec) 0 0x1000 = .clause ⟨hdr0 0, [0]⟩ ∧ (grp s 1).fences = [] ∧
      firstExceeds (fillCache s 0 0x1000 .exec) ⟨1, 0, grp s 1, { bareSlot with clause := some ⟨hdr0 0, [0]⟩ }, ⟨hdr0 0, [0]⟩⟩ = false ∧
      ∀ f, f < 12 → (hdr0 0).wait.getLsbD f = false) ∧
    (let s := stClause waitHdr [(0, 1)]
    Lone s 0 0 1 (grp s 1) bareSlot (theTenant s) (theTeam s) ∧ fetchClause s 0 0x1000 = .clause ⟨hdr0 1, [0]⟩ ∧
      fetchClause (fillCache s 0 0x1000 .exec) 0 0x1000 = .clause ⟨hdr0 1, [0]⟩ ∧ (hdr0 1).wait.getLsbD 0 = true ∧ flagCount (grp s 1) 0 ≠ 0) ∧
    (let s := { stClause memHdr [] with partitions := [(0, ⟨[9, 1], 0⟩)], congestion := [(0, 7)] }
    Lone s 0 0 1 (grp s 1) bareSlot (theTenant s) (theTeam s) ∧ fetchClause s 0 0x1000 = .clause ⟨hdrM, [0]⟩ ∧
      1 ∈ (tget (⟨[], 0⟩ : Partition) s.partitions (8 * 0 + 0)).rotation ∧ hdrM.cls = .mem) ∧
    (let s := stClause [] []
    Lone s 0 0 1 (grp s 1) bareSlot (theTenant s) (theTeam s) ∧ fetchedAt s 0 0x1000 0x1000 0 ∧
      parseHeader (BitVec.ofNat 64 (readSpace s .m 0x1000 8)) = none ∧ fetchClause s 0 0x1000 = .illegal (some 0)) ∧
    (let sl := { bareSlot with fetchWait := some (0, true) }
    let s := withGroup (fun g => { g with slot0 := some sl }) (stClause [] [])
    Lone s 0 0 1 (grp s 1) sl (theTenant s) (theTeam s)) ∧
    (let s := stNoExec
    Lone s 0 0 1 (grp s 1) bareSlot (theTenant s) (theTeam s) ∧ fetchClause s 0 0x1000 = .page 0x1000 true ∧
      let x := faultPage (putGroup s 1 { grp s 1 with slot0 := some { bareSlot with fetchWait := some (0x1000 / 65536, false) } }) 0 0x1000 7 .exec true
      ∀ c, fetchClause x 0 0x1000 ≠ .clause c) ∧
    (∀ n, n = 0 ∨ n = 64 → let s := { st 0 with owed := [⟨9, 1, 0, .load, some 0, List.replicate n (.k 10), [], 1, 0⟩] }
      let i := { iss s with cl := ⟨hdrM, [0]⟩ }
      i.cl.hdr.cls.limited = true ∧ (n = 64 → 64 ≤ trackedCount s i.gid + 0) ∧
        (n = 0 → ¬ 64 ≤ trackedCount s i.gid + 13 ∧ ∀ r, r ∈ s.reqs → r.core ≠ i.g.core)) ∧
    ∀ n, n = 255 ∨ n = 256 → let s := withGroup (fun g => { g with slot0 := some { bareSlot with passed := n } }) (st 0)
      tfind s.groups 1 = some (grp s 1) ∧ slotOf (grp s 1) 0 = some { bareSlot with passed := n } := by
  have hp : ∀ (hdr : Mem) (fl : SMap Nat) n, n ≤ 16 → pteAt (stClause hdr fl).main 0x40000 0 = 0x41001 →
      pteAt (stClause hdr fl).main 0x41000 0 = 0x0F → fetchedAt (stClause hdr fl) 0 0x1000 0x1000 n := fun hdr fl n hn h1 h2 =>
    ⟨by decide, fun k hk => translate_page .exec rfl rfl h1 h2 (by omega)⟩
  refine ⟨by decide, ⟨lone_of (by decide), hp _ _ 16 (by decide) (by decide) (by decide), by decide, by decide, by decide, by decide, by decide, by decide⟩,
    ⟨lone_of (by decide), by decide, by decide, by decide, by decide⟩, ⟨lone_of (by decide), by decide, by decide, by decide⟩,
    ⟨lone_of (by decide), hp _ _ 0 (by decide) (by decide) (by decide), by decide, by decide⟩, lone_of (by decide), ⟨lone_of (by decide), by decide, fun c => notClause_of (by decide) c⟩, ?_, ?_⟩
  · rintro n (rfl | rfl)
    · exact ⟨by decide, fun h => absurd h (by decide), fun _ => ⟨by decide, fun r hr => absurd hr List.not_mem_nil⟩⟩
    · exact ⟨by decide, fun _ => by decide, fun h => absurd h (by decide)⟩
  · rintro n (rfl | rfl)
    all_goals exact ⟨by decide, by decide⟩

/-- Tenant 0 with its fault log at 0x60000; record 0 holds a fault with a reply. -/
def logCells (reply : Byte) : Mem := if reply = 0 then [(0x6000C, 1)] else [(0x6000C, 1), (0x60010, reply)]
def stLog (m : Mem) (h : Tenant → Tenant := id) : State :=
  let s := withPages (st 0)
  let s := withTenant (fun t => h { t with config := { t.config with faultLog := 0x60000 } }) s
  { s with main := s.main ++ m }
def fault0 (exec : Bool) : PageFault := ⟨0, 0x20, 1, !exec, exec, false, 0x200000, 1, 1, some 0⟩

theorem recordAt_of {s : State} {tn : Nat} {t : Tenant} {i pa : Nat} (h : tfind s.tenants tn = some t) (h1 : freeRecord s tn t = some i)
    (h2 : translate s tn (t.config.faultLog + 32 * i) .write = .ok (.main pa)) : recordAt s tn t i pa := ⟨h, h1, h2⟩

/-- A free record; a fault that another access shares; a reply of 0, 1 and 2; a flush with an access, with a copy's request to another device and with neither; errors; a replay at its
limit. -/
theorem witness_FaultsAreAnswered :
    (let s := stLog []
    ∃ t, recordAt s 0 t 0 0x60000 ∧ ∀ f, f ∈ s.faults → f.tenant ≠ 0) ∧
    (let s := { stLog (logCells 0) with faults := [fault0 false] }
    ∃ t, tfind s.tenants 0 = some t ∧ (fault0 false).write = decide (Need.write = .write) ∧ (fault0 false).exec = decide (Need.write = .exec) ∧
      (fault0 false).page ≤ 0x200040 / 65536 ∧ 0x200040 / 65536 < (fault0 false).page + (fault0 false).size ∧
      translate s 0 (t.config.faultLog + 32 * 0 + 10) .write = .ok (.main 0x6000A)) ∧
    (∀ (r : Byte) ex, r = 0 ∨ r = 1 ∨ r = 2 → let s := { stLog (logCells r) with faults := [fault0 ex] }
      (∃ t, tfind s.tenants 0 = some t ∧ translate s 0 (t.config.faultLog + 32 * 0 + 16) .write = .ok (.main 0x60010) ∧ t.killsPending = []) ∧
        s.faults = [fault0 ex] ∧ (fault0 ex).record = some 0 ∧ (fault0 ex).waiters ≠ 0 ∧ (fault0 ex).exec = ex ∧ s.cxops = [] ∧ s.xchgs = [] ∧ readSpace s .m 0x60010 4 = r.toNat) ∧
    (let s := { st 0 with reqs := [req .m (.store .w32) [⟨0, 0xB0000, 5, 0⟩] none] }
    ∃ r, r ∈ s.reqs ∧ (r.space = .m ∨ r.space = .host) ∧ r.tenant = 0) ∧
    (let s := { st 0 with copies := [copy0], remotes := [⟨9, 1, .copy 5, 0, false, false⟩] }
    ∃ r, r ∈ s.remotes ∧ r.accesses s 0 = true) ∧
    (¬ ((∃ r, r ∈ (st 0).reqs ∧ (r.space = .m ∨ r.space = .host) ∧ r.tenant = 0) ∨ ∃ r, r ∈ (st 0).remotes ∧ r.accesses (st 0) 0 = true)) ∧
    (let s := { st 0 with copies := [copy0] }
    errorTenant s (.copyRead 5) 0 ∧ errorTenant s (.groupRead 1) 0 ∧ (tfind s.tenants 0).isSome = true) ∧
    ∀ now, now = 0x100000 ∨ now = 0x100001 →
      let s := { withTenant (fun t => { t with
          config := { t.config with almanac := .replay }
          almanac := ⟨0, 0, [], [], [⟨1, 5, 2, 0⟩]⟩ }) (st 0) with now := now }
      ∃ t, tfind s.tenants 0 = some t ∧ t.config.almanac = .replay ∧ t.almanac.waits = [⟨1, 5, 2, 0⟩] ∧ AlmanacWait.stands s 0 t ⟨1, 5, 2, 0⟩ = true := by
  refine ⟨⟨_, recordAt_of rfl (by decide) (by decide), fun f hf => absurd hf List.not_mem_nil⟩, ⟨_, rfl, rfl, rfl, by decide, by decide, by decide⟩, ?_,
    ⟨_, List.mem_singleton.mpr rfl, .inl rfl, rfl⟩, ⟨_, List.mem_singleton.mpr rfl, by decide⟩,
    fun h => h.elim (fun ⟨_, hr, _⟩ => absurd hr List.not_mem_nil) fun ⟨_, hr, _⟩ => absurd hr List.not_mem_nil,
    ⟨⟨copy0, by decide, rfl⟩, ⟨_, rfl, by decide, rfl⟩, by decide⟩, ?_⟩
  · rintro r ex (rfl | rfl | rfl)
    all_goals exact ⟨⟨_, rfl, by decide +revert, by decide +revert⟩, rfl, rfl, (by decide : 1 ≠ 0), rfl, rfl, rfl, by decide +revert⟩
  · rintro now (rfl | rfl)
    all_goals exact ⟨_, rfl, by decide, by decide, by decide⟩

/-! ## Witnesses: exchanges -/

/-- An XCHG of this device with itself: its block at 0x100 of T names tensors 1 to 6 of D. -/
def xSendT : Tensor := ten 2 8 2 [4, 4, 1, 1] [16, 0, 0] 0xB1000
def xRecvT : Tensor := ten 2 8 2 [4, 4, 1, 1] [16, 0, 0] 0xB2000
def xCountsT : Tensor := ten 2 6 1 [2, 1, 1, 1] [0, 0, 0] 0xB3000
def xReceivedT : Tensor := ten 2 6 1 [2, 1, 1, 1] [0, 0, 0] 0xB3100
def xPeersT : Tensor := ten 2 5 1 [1, 1, 1, 1] [0, 0, 0] 0xB3200
def xDoneT : Tensor := ten 2 7 1 [1, 1, 1, 1] [0, 0, 0] 0xB3300
def xTeam : Team :=
  { bareTeam 1 with
    tensors := [(1, xSendT), (2, xRecvT), (3, xCountsT), (4, xReceivedT), (5, xPeersT), (6, xDoneT)]
    tmem := [(0x100, 1), (0x101, 2), (0x102, 3), (0x103, 4), (0x108, 1), (0x10A, 1), (0x10C, 7), (0x110, 5), (0x111, 6)] }
def stXchg : State := withTeam (fun _ => xTeam) (st 0 (withK [(8, 0x100)]))
def xBlock0 : XBlock := ⟨xSendT, xRecvT, xCountsT, xReceivedT, xPeersT, xDoneT, 1, 1, 7⟩
def xUses : Uses := { fs := .a, ks := [3, 8], tracked := 1 }

theorem xchg_admitted : ExchangeAdmitted stXchg (iss stXchg) xTeam 0x100 xBlock0 [0] [0, 0] where
  named := by
    intro j x h
    simp only [List.mem_cons, Prod.mk.injEq, List.not_mem_nil, or_false] at h
    obtain ⟨rfl, rfl⟩ | ⟨rfl, rfl⟩ | ⟨rfl, rfl⟩ | ⟨rfl, rfl⟩ | ⟨rfl, rfl⟩ | ⟨rfl, rfl⟩ := h
    all_goals exact ⟨by decide, by decide, .inl rfl⟩
  reserved := by decide
  fields := by decide
  ranges := by decide
  rows := by decide
  lists := by
    intro x f n h
    simp only [List.mem_cons, Prod.mk.injEq, List.not_mem_nil, or_false] at h
    obtain ⟨rfl, rfl, rfl⟩ | ⟨rfl, rfl, rfl⟩ | ⟨rfl, rfl, rfl⟩ | ⟨rfl, rfl, rfl⟩ := h
    all_goals decide
  peers := by decide
  counted := by decide
  devices := by decide
  fresh := fun x hx => absurd hx List.not_mem_nil
  whole := ⟨span_in _ _ _ _ rfl (by decide) (by decide), span_in _ _ _ _ rfl (by decide) (by decide)⟩
  parts := by
    intro x w n h
    simp only [List.mem_cons, Prod.mk.injEq, List.not_mem_nil, or_false] at h
    obtain ⟨rfl, rfl, rfl⟩ | ⟨rfl, rfl, rfl⟩ | ⟨rfl, rfl, rfl⟩ | ⟨rfl, rfl, rfl⟩ := h
    all_goals exact span_in _ _ _ _ rfl (by decide) (by decide)

theorem witness_ExchangesBegin :
    (let s := stXchg
    Executes s (iss s) xUses ∧ tfind s.teams (iss s).g.team = some xTeam ∧ xTeam.windows.length ≤ 4 ∧ allPerformed s (iss s) ∧
      (iss s).block 8 0 % 32 = 0 ∧ (iss s).block 8 0 + 32 ≤ xTeam.tPerCore * xTeam.cores.length ∧
      ExchangeAdmitted s (iss s) xTeam ((iss s).block 8 0) xBlock0 [0] [0, 0] ∧ (s.xchgs.filter fun x => x.tenant == (iss s).g.tenant).length < 4 ∧
      (∃ t0, tfind s.tenants (iss s).g.tenant = some t0 ∧ t0.earlyCounts = []) ∧ FreshIds s ∧ ∀ d, d ∈ [0] → d = s.fabric.dev) ∧
    (let s := st 0 (withK [(8, 0x101)])
    Executes s (iss s) xUses ∧ allPerformed s (iss s) ∧ (iss s).block 8 0 % 32 ≠ 0) ∧
    (let s := st 0 (withK [(8, 0x10000)])
    Executes s (iss s) xUses ∧ (iss s).block 8 0 % 32 = 0 ∧ (bareTeam 1).tPerCore * (bareTeam 1).cores.length < (iss s).block 8 0 + 32) ∧
    let s := { st 0 with nextSeq := 1, reqs := [req .d (.store .w32) [⟨0, 0xB0000, 5, 0⟩] none] }
    Executes s (iss s) xUses ∧ ¬ allPerformed s (iss s) :=
  ⟨⟨executes_of (by decide), by decide, by decide, allPerformed_of rfl, by decide, by decide, xchg_admitted, by decide,
      ⟨_, rfl, rfl⟩, fresh_of (by decide), by decide⟩,
    ⟨executes_of (by decide), allPerformed_of rfl, by decide⟩, ⟨executes_of (by decide), by decide, by decide⟩,
    executes_of (by decide), fun h => absurd (h.2 _ (List.mem_singleton.mpr rfl) (by decide) (by decide)) (by decide)⟩

/-- A peer of which nothing has come yet, an exchange, and a message from this device or from device 1 in partition 3. -/
def peer0 (dev : Nat) : Peer :=
  { dev := dev, mine := [2], first := 0, readyIn := none, sent := 0, acked := 0, cut := false, doneSent := false, counts := none
    written := 0, refusing := false, failed := false, doneIn := none, completed := none }
def xchg0 (peers : List Peer) (counted : Bool) : Xchg :=
  { id := 30, gid := 1, tenant := 0, tag := 7, send := xSendT, recv := xRecvT, received := xReceivedT, completion := xDoneT, g := 1
    me := 0, peers := peers, counted := counted, capacity := false, fatal := false, waits := [], posts := [], owed := 9, batch := 0, accepted := 0 }
def here (m : FabricMsg) : Packet := ⟨0, 0, 0, 30, m⟩
def there (m : FabricMsg) : Packet := ⟨1, 0, 3, 30, m⟩
def link0 : LarLink := ⟨true, 0, 0, [], [], [], 0, 0⟩
def stX (xs : List Xchg) (p : Packet) (h : Tenant → Tenant := id) : State :=
  { withTenant (fun t => h { t with config := { t.config with partition := 3 } }) (st 0) with
    xchgs := xs, rx := [⟨p, none, false⟩], fabric := ⟨0, [(0, 0), (0, 0)], 0⟩, links := [(0, link0)], now := 9000, nextId := 40 }

theorem arrives_first (xs : List Xchg) (p : Packet) (h : Tenant → Tenant) : ArrivesNext (stX xs p h) 0 p :=
  ⟨⟨none, false, rfl⟩, fun _ ha => absurd ha List.not_mem_nil⟩

def x1 (y : Peer) (counted : Bool) : Xchg := xchg0 [y] counted
def x2 (y z : Peer) (counted : Bool) : Xchg := xchg0 [y, z] counted

theorem only_one (y : Peer) (counted : Bool) (p : Packet) (hy : y.completed = none) : OnlyPeer (stX [x1 y counted] p) (x1 y counted) 0 where
  running := ⟨_, rfl, rfl⟩
  waits := ⟨rfl, rfl, rfl⟩
  others := fun k z hk hz => by
    cases k with
    | zero => exact absurd rfl hk
    | succ n => exact nomatch (show (none : Option Peer) = some z from hz)
  goes := ⟨y, List.mem_singleton.mpr rfl, hy⟩

theorem only_two (y z : Peer) (counted : Bool) (p : Packet) (q : Nat) (hy : PeerIdle y ∨ q = 0) (hz : PeerIdle z ∨ q = 1)
    (hc : y.completed = none) : OnlyPeer (stX [x2 y z counted] p) (x2 y z counted) q where
  running := ⟨_, rfl, rfl⟩
  waits := ⟨rfl, rfl, rfl⟩
  others := fun k w hk hw => by
    match k with
    | 0 =>
      obtain rfl : y = w := Option.some.inj hw
      exact hy.resolve_right fun h => hk h.symm
    | 1 =>
      obtain rfl : z = w := Option.some.inj hw
      exact hz.resolve_right fun h => hk h.symm
    | n + 2 => exact nomatch (show (none : Option Peer) = some w from hw)
  goes := ⟨y, List.mem_cons_self, hc⟩

theorem idle0 (d : Nat) : PeerIdle (peer0 d) := ⟨rfl, .inl (by simp [peer0]), .inl rfl⟩

/-- A message to oneself and one to device 1. -/
theorem witness_ExchangesMoveRows_send :
    (let x := x2 (peer0 0) (peer0 1) false
    let s := stX [x] (here .parked)
    x.peers[0]? = some (peer0 0) ∧ 0 = x.me ∧ x.peers[1]? = some (peer0 1) ∧ 1 ≠ x.me ∧ partitionOf s x.tenant ≠ 0 ∧
      (routeTo s (peer0 1).dev).isSome = true ∧ xchgFor s (here .parked) 7 = some (x, 0, peer0 0) ∧
      xchgFor s (there .parked) 7 = some (x, 1, peer0 1)) := by decide

/-- A COUNT for no exchange, in its four cases; the first of two counts, and the last, which completes them. -/
theorem witness_ExchangesMoveRows_count :
    (let p := there (.count 7 [2])
    (∀ h : Tenant → Tenant, ArrivesNext (stX [] p h) 0 p) ∧ xchgFor (stX [] p) p 7 = none ∧ tenantOfPartition (stX [] p) p.part = some 0 ∧
      (∃ t, tfind (stX [] p).tenants 0 = some t ∧ (7, p.src) ∉ t.endedCounts ∧ t.earlyCounts.length < 1024) ∧
      (∃ t, tfind (stX [] p fun t => { t with earlyCounts := List.replicate 1024 p }).tenants 0 = some t ∧ 1024 ≤ t.earlyCounts.length) ∧
      (∃ t, tfind (stX [] p fun t => { t with endedCounts := [(7, 1)] }).tenants 0 = some t ∧ (7, p.src) ∈ t.endedCounts) ∧
      tenantOfPartition (stX [] (here (.count 7 [2]))) (here (.count 7 [2])).part = none) ∧
    (let p := here (.count 7 [2])
    let x := x2 (peer0 0) (peer0 1) false
    ArrivesNext (stX [x] p) 0 p ∧ FromPeer (stX [x] p) p 7 x 0 (peer0 0) ∧ OnlyPeer (stX [x] p) x 0 ∧ [2].length = x.g ∧
      ∃ z, z ∈ x.peers.set 0 { peer0 0 with counts := some [2] } ∧ z.counts = none) ∧
    let p := here (.count 7 [2])
    let x := x1 (peer0 0) false
    let x' := x1 { peer0 0 with counts := some [2] } false
    ArrivesNext (stX [x] p) 0 p ∧ FromPeer (stX [x] p) p 7 x 0 (peer0 0) ∧ OnlyPeer (stX [x] p) x 0 ∧
      (∀ k z, x'.peers[k]? = some z → z.counts ≠ none ∧ z.readyIn = none ∧ z.doneSent = false ∧ reaches (stX [x] p) x k) ∧
      FreshIds (stX [x] p) ∧ ∃ m, meshWrite { answer (dropArrived (stX [x] p) 0) p (.response true 0) with nextId := (stX [x] p).nextId + 1 } (x.received.of 0)
        (.op (stX [x] p).nextId) [(x.received.addr [0, 0, 0, 0], ([2] ++ [0]).flatMap (leBytes 4))] = .ok m ∧
        ¬ posted m x.tenant (stX [x] p).nextId := by
  refine ⟨⟨fun h => arrives_first _ _ _, by decide, by decide, ⟨_, rfl, by decide, by decide⟩,
      ⟨_, rfl, Nat.le_of_eq (List.length_replicate ..).symm⟩, ⟨_, rfl, by decide⟩,
      by decide⟩,
    ⟨arrives_first _ _ _, ⟨by decide, by decide, rfl⟩, only_two _ _ _ _ 0 (.inr rfl) (.inl (idle0 1)) rfl, rfl, peer0 1,
      by decide, rfl⟩,
    arrives_first _ _ _, ⟨by decide, by decide, rfl⟩, only_one _ _ _ rfl, fun k z hz => ?_, fresh_of (by decide), _, rfl, fun ⟨r, hr, _⟩ => absurd hr List.not_mem_nil⟩
  cases k with
  | zero => obtain rfl := Option.some.inj (show some _ = some z from hz); exact ⟨by decide, rfl, rfl, .inl rfl⟩
  | succ n => exact nomatch (show (none : Option Peer) = some z from hz)

/-- READY(not ok), READY(ok) with rows to send, a row in place before READY went out and beyond what was announced, before every COUNT is
in, and on a page that is not present. -/
def counted0 : Peer := { peer0 0 with counts := some [2] }
theorem witness_ExchangesMoveRows_rows :
    (let p := here (.ready 7 false)
    let x := x1 counted0 true
    ArrivesNext (stX [x] p) 0 p ∧ FromPeer (stX [x] p) p 7 x 0 counted0 ∧ OnlyPeer (stX [x] p) x 0 ∧ counted0.readyIn = none) ∧
    (let p := here (.ready 7 true)
    let x := x1 counted0 true
    ArrivesNext (stX [x] p) 0 p ∧ FromPeer (stX [x] p) p 7 x 0 counted0 ∧ OnlyPeer (stX [x] p) x 0 ∧ 0 < counted0.mine.sum ∧
      counted0.first + counted0.mine.sum ≤ x.send.ext.getD 1 0 ∧ reaches (stX [x] p) x 0 ∧ (stX [x] p).fetched = [] ∧
      ∀ j, j < counted0.mine.sum → meshRead (stX [x] p) (x.send.of x.tenant) (x.send.addr [0, counted0.first + j, 0, 0])
        (x.send.ext.getD 0 0 * x.send.z) = .ok (List.replicate 16 0)) ∧
    (∀ counted, let p := here (.row 7 1 (List.replicate 16 5))
    let x := x1 counted0 counted
    let s := stX [x] p
    ArrivesNext s 0 p ∧ FromPeer s p 7 x 0 counted0 ∧ 1 < announced counted0 ∧ x.waits = [] ∧ x.posts = [] ∧ (∀ z, z ∈ x.peers → z.counts ≠ none) ∧
      rowsBefore x.peers x.peers.length ≤ x.recv.ext.getD 1 0 ∧ (List.replicate 16 (5 : Byte)).length = x.send.ext.getD 0 0 * x.send.z ∧
      ∃ m, meshWrite { s with nextId := s.nextId + 1 } (x.recv.of x.tenant) (.op s.nextId)
        [(x.recv.addr [0, rowsBefore x.peers 0 + 1, 0, 0], List.replicate 16 5)] = .ok m) ∧
    (let p := here (.row 7 1 (List.replicate 16 5))
    let x := { x1 counted0 true with recv := { xRecvT with space := 3 } }
    let s := stX [x] p
    ArrivesNext s 0 p ∧ FromPeer s p 7 x 0 counted0 ∧ x.waits = [] ∧ x.posts = [] ∧ rowsBefore x.peers x.peers.length ≤ x.recv.ext.getD 1 0 ∧
      ∃ va w f, meshWrite { s with nextId := s.nextId + 1 } (x.recv.of x.tenant) (.op s.nextId)
        [(x.recv.addr [0, rowsBefore x.peers 0 + 1, 0, 0], List.replicate 16 5)] = .error (.page va w f)) ∧
    (let p := here (.row 7 2 [])
    ArrivesNext (stX [x1 counted0 true] p) 0 p ∧ FromPeer (stX [x1 counted0 true] p) p 7 (x1 counted0 true) 0 counted0 ∧ announced counted0 ≤ 2 ∧
      FromPeer (stX [x1 (peer0 0) false] p) p 7 (x1 (peer0 0) false) 0 (peer0 0) ∧ xchgFor (stX [] p) p 7 = none) ∧
    let y := { counted0 with failed := true }
    xchgFor (stX [x1 y true] (here (.row 7 0 []))) (here (.row 7 0 [])) 7 = some (x1 y true, 0, y) := by
  refine ⟨⟨arrives_first _ _ _, ⟨by decide, by decide, rfl⟩, only_one _ _ _ rfl, rfl⟩,
    ⟨arrives_first _ _ _, ⟨by decide, by decide, rfl⟩, only_one _ _ _ rfl, by decide, by decide, .inl rfl, rfl, ?_⟩,
    ?_, ⟨arrives_first _ _ _, ⟨by decide, by decide, rfl⟩, rfl, rfl, by decide, 0xB2010, true, false, by decide⟩,
    ⟨arrives_first _ _ _, ⟨by decide, by decide, rfl⟩, by decide, ⟨by decide, by decide, rfl⟩, by decide⟩, by decide⟩
  · decide
  · intro counted
    exact ⟨arrives_first _ _ _, ⟨by decide +revert, by decide +revert, rfl⟩, by decide, rfl, rfl, by decide +revert, by decide +revert,
      by decide +revert, _, rfl⟩

/-- The next acknowledgement and the last; DONE with the announced rows; a failure of device 1; a COUNT due to be sent again. -/
def sending0 (acked : Nat) : Peer := { counted0 with readyIn := some true, sent := 2, acked := acked }
theorem witness_ExchangesMoveRows_ends :
    (∀ k, k = 0 ∨ k = 1 → let p := here (.rowAck 7 false)
      let x := x1 (sending0 k) true
      ArrivesNext (stX [x] p) 0 p ∧ ackedPeer (stX [x] p) p = some (x.id, 0) ∧ xchgOf (stX [x] p) x.id = some x ∧
        OnlyPeer (stX [x] p) x 0 ∧ (sending0 k).sent = (sending0 k).mine.sum ∧ reaches (stX [x] p) x 0) ∧
    (let p := here (.done 7 2)
    let y := { counted0 with readyIn := some true, sent := 2, acked := 2, doneSent := true, written := 2 }
    let x := x1 y true
    ArrivesNext (stX [x] p) 0 p ∧ FromPeer (stX [x] p) p 7 x 0 y ∧ OnlyPeer (stX [x] p) x 0 ∧ PeerIdle y ∧
      ∃ m, meshWrite { answer (dropArrived (stX [x] p) 0) p (.response true 0) with nextId := (stX [x] p).nextId + 1 } (x.completion.of x.tenant)
        (.op (stX [x] p).nextId) [(x.completion.addr [0, 0, 0, 0], leBytes 8 (7 * 2 ^ 32 + 1 * 2 ^ 28 + 2))] = .ok m ∧
        ¬ posted m x.tenant (stX [x] p).nextId) ∧
    (let p := there (.failure 7)
    let x := x2 counted0 { peer0 1 with counts := some [2] } true
    ArrivesNext (stX [x] p) 0 p ∧ FromPeer (stX [x] p) p 7 x 1 { peer0 1 with counts := some [2] } ∧ OnlyPeer (stX [x] p) x 1 ∧ 1 ≠ x.me ∧
      ∃ m, meshWrite { dropArrived (stX [x] p) 0 with
          remotes := (stX [x] p).remotes.filter fun r => r.use != .peer x.id 1
          nextId := (stX [x] p).nextId + 1 } (x.completion.of x.tenant)
        (.op (stX [x] p).nextId) [(x.completion.addr [1, 0, 0, 0], leBytes 8 (7 * 2 ^ 32 + 3 * 2 ^ 28))] = .ok m ∧
        ¬ posted m x.tenant (stX [x] p).nextId) ∧
    ∀ due, due = 9000 ∨ due = 9001 → let x := x1 (peer0 0) false
      let s := { stX [x] (here .parked) with resends := [(due, 30, 0), (due, 31, 0)] }
      s.resends[0]? = some (due, 30, 0) ∧ xchgOf s 30 = some x ∧ x.peers[0]? = some (peer0 0) ∧ PeerIdle (peer0 0) ∧ x.counted = false ∧
        (∃ z, z ∈ x.peers ∧ z.counts = none) ∧ s.resends[1]? = some (due, 31, 0) ∧ xchgOf s 31 = none := by
  refine ⟨?_, ⟨arrives_first _ _ _, ⟨by decide, by decide, rfl⟩, only_one _ _ _ rfl, ⟨rfl, .inr ⟨rfl, .inr (by decide)⟩, .inl rfl⟩,
      _, rfl, fun ⟨r, hr, _⟩ => absurd hr List.not_mem_nil⟩,
    ⟨arrives_first _ _ _, ⟨by decide, by decide, rfl⟩, only_two _ _ _ _ 1 (.inl ⟨rfl, .inl (by decide), .inl rfl⟩) (.inr rfl) rfl,
      by decide, _, rfl, fun ⟨r, hr, _⟩ => absurd hr List.not_mem_nil⟩, ?_⟩
  · rintro k (rfl | rfl)
    all_goals exact ⟨arrives_first _ _ _, by decide, by decide, only_one _ _ _ rfl, by decide, .inl rfl⟩
  · rintro due (rfl | rfl)
    all_goals exact ⟨rfl, by decide, rfl, idle0 0, rfl, by decide, rfl, by decide⟩

/-! ## Witnesses: translation and the fabric -/

/-- An address below 1 GiB is mapped by a leaf of level 2, which grants all; a leaf that grants reading alone; no table; and a cache
that holds nothing. -/
theorem witness_PagesTranslate :
    (let s := withPages (st 0)
    tfind s.tenants 0 ≠ none ∧ s.cache = [] ∧ tablesMap s 0x40000 0x3FFFFFFF 0x0F (2 ^ 30) ∧ entryGrants 0x0F .exec ∧
      entryGrants 0x0F .write) ∧
    (let s := { withPages (st 0) with main := [(0x40000, 0x01), (0x40001, 0x10), (0x40002, 0x04), (0x41000, 0x03)] }
    tablesMap s 0x40000 0 0x03 (2 ^ 30) ∧ ¬ entryGrants 0x03 .write ∧ ¬ entryGrants 0x03 .exec) ∧
    ¬ ∃ e size, tablesMap (withPages (st 0)) 0x40000 (2 ^ 39) e size := by
  refine ⟨⟨by decide, rfl, ⟨⟨by decide, by decide⟩, .inl ⟨by decide, rfl, by decide, by decide⟩⟩, ⟨(fun h => nomatch h), by decide⟩,
    (fun _ => by decide), (fun h => nomatch h)⟩,
    ⟨⟨⟨by decide, by decide⟩, .inl ⟨by decide, rfl, by decide, by decide⟩⟩, fun h => absurd (h.1 rfl) (by decide),
      fun h => absurd (h.2 rfl).1 (by decide)⟩, fun ⟨e, size, h⟩ => ?_⟩
  exact absurd h.1.1 (by decide)

/-- A flit from device 1, with a check that is right or wrong. -/
def flit0 (ty : BitVec 4) (seq : BitVec 12) (dest : BitVec 10) (hops : BitVec 6) : Flit :=
  { ty := ty, seq := seq, ack := 5, dest := dest, hops := hops, src := 1, part := 3, len := 1, req := 30, payload := [], check := 0 }
def intact (f : Flit) : Flit := { f with check := crc64 (flitBytes f) }
def torn (f : Flit) : Flit := { f with check := crc64 (flitBytes f) + 1 }

/-- A module with links 0 and 1, one of them perhaps down. -/
def stLinks (l m : LarLink) : State := { st 0 with fabric := ⟨0, [(0, 1), (0, 1)], 0⟩, links := [(0, l), (1, m)], now := 9000 }
def down0 : LarLink := { link0 with up := false }

/-- A route on the primary, on the alternate and on neither; a packet for this device and for another; a flit received torn, intact
of each kind, out of order, and in order for this device, for another, and at the bound of hops. -/
theorem witness_LinksCarryFlits :
    (stLinks link0 link0).fabric.routes[1]? = some (0, 1) ∧ routeTo (stLinks link0 link0) 1 = some 0 ∧
    routeTo (stLinks down0 link0) 1 = some 1 ∧ routeTo (stLinks down0 down0) 1 = none ∧
    (here .parked).dest = (stLinks link0 link0).fabric.dev ∧
    (∃ p : Packet, p.dest ≠ (stLinks link0 link0).fabric.dev ∧ p.msg = .rowAck 7 true) ∧
    tfind (stLinks link0 link0).links 0 = some link0 ∧ link0.up = true ∧ link0.waiting = [] ∧
    (∀ f, (torn f).check ≠ crc64 (flitBytes (torn f))) ∧ (∀ f, (intact f).check = crc64 (flitBytes (intact f))) ∧
    (∀ m, (intact (flit0 m link0.expect 0 62)).seq = link0.expect) ∧ (flit0 9 0 0 0).ty = 9 ∧ (flit0 1 3 0 0).seq ≠ link0.expect ∧
    (flit0 1 0 0 0).dest.toNat = (stLinks link0 link0).fabric.dev ∧ (flit0 1 0 1 62).dest.toNat ≠ (stLinks link0 link0).fabric.dev ∧
    62 ≤ (flit0 1 0 1 62).hops.toNat ∧ (flit0 1 0 1 61).hops.toNat < 62 ∧
    ∀ before, (Config.flitMessage 1 ((before ++ [intact (flit0 1 0 0 0)]).map fun x => x.payload)) = none ∧ packetOf before (intact (flit0 1 0 0 0)) = none ∨
      ∃ p, packetOf before (intact (flit0 1 0 0 0)) = some p := by
  refine ⟨rfl, by decide, by decide, by decide, rfl, ⟨⟨0, 1, 3, 30, .rowAck 7 true⟩, by decide, rfl⟩, rfl, rfl, rfl, ?_, fun _ => rfl,
    fun _ => rfl, rfl, by decide, rfl, by decide, by decide, by decide, fun before => ?_⟩
  · intro f h
    have : crc64 (flitBytes f) + 1 = crc64 (flitBytes f) := h
    exact absurd (BitVec.add_right_eq_self.mp this) (by decide)
  · cases h : Config.flitMessage 1 ((before ++ [intact (flit0 1 0 0 0)]).map fun x => x.payload) with
    | none => exact .inl ⟨rfl, congrArg (Option.map _) h⟩
    | some m => exact .inr ⟨_, congrArg (Option.map _) h⟩

/-- A link that is due by silence, one by replays, and one that is not due, with nothing that waits elsewhere. -/
theorem witness_LinksCarryFlits_down :
    (let s := { stLinks link0 link0 with now := 2 ^ 20 }
    s.remotes = [] ∧ s.xchgs = [] ∧ tfind s.links 0 = some link0 ∧ link0.lastIntact + 2 ^ 20 ≤ s.now) ∧
    (let l := { link0 with replays := 64 }
    tfind (stLinks l link0).links 0 = some l ∧ 64 ≤ l.replays) ∧
    ¬ (64 ≤ link0.replays ∨ link0.lastIntact + 2 ^ 20 ≤ (stLinks link0 link0).now) := by decide

/-- A first negative acknowledgement of a flit, and one more of it; an acknowledgement of one flit. -/
theorem witness_LinksCarryFlits_replay :
    let f := flit0 1 4 1 0
    let l := { link0 with unacked := [f, flit0 1 5 1 0] }
    l.unacked[0]? = some f ∧ f.seq = 4 ∧ (∀ y, y ∈ l.unacked.take 0 → y.seq ≠ 4) ∧ l.unacked[1]? = some (flit0 1 5 1 0) ∧
      (∀ y, y ∈ l.unacked.take 1 → y.seq ≠ 5) ∧ (∀ x, x ∈ l.unacked → x.seq ≠ 6) := by decide

/-- Tenant 0 in partition 3 with pages and a fault log, with a packet that has arrived. -/
def stServe (p : Packet) (h : Tenant → Tenant := id) (pk : Option (Nat × Bool × Bool) := none) (nt : Bool := false) : State :=
  { stLog [] (fun t => h { t with config := { t.config with partition := 3 } }) with
    rx := [⟨p, pk, nt⟩], fabric := ⟨0, [(0, 0), (0, 0)], 0⟩, links := [(0, link0)], now := 9000 }

theorem turn_here (p : Packet) (h : Tenant → Tenant) (nt : Bool) : turnComes (stServe p h none nt) 0 :=
  ⟨banksFree_of rfl, fun _ ha => absurd ha List.not_mem_nil⟩

theorem request_here (p : Packet) (h : Tenant → Tenant) (nt : Bool) (t : Tenant)
    (hp : tenantOfPartition (stServe p h none nt) p.part = some 0) (ht : tfind (stServe p h none nt).tenants 0 = some t) :
    RequestHere (stServe p h none nt) 0 p nt 0 t := ⟨rfl, hp, ht⟩

/-- No tenant of the partition; a tenant that is saved or frozen; a read, a write, an atomic and a reduction of a mapped byte, a check of
one and what is performed after it, on their turn; one whose
page is not present, with a free record. -/
theorem witness_RequestsAreServed_requests :
    (tenantOfPartition (stServe (here (.read 0x1000 8))) (here (.read 0x1000 8)).part = none) ∧
    (∀ nt : Bool, ∀ x : TenantState, x = .saved ∨ x = .frozen → let s := stServe (there (.read 0x1000 8)) (fun t => { t with state := x }) none nt
      ∃ t, RequestHere s 0 (there (.read 0x1000 8)) nt 0 t ∧ t.state = x) ∧
    (∃ t, RequestHere (stServe (there (.read 0x1000 8))) 0 (there (.read 0x1000 8)) false 0 t ∧ t.state = .running ∧
      translate (stServe (there (.read 0x1000 8))) 0 0x1000 .read = .ok (.main 0x1000)) ∧
    (∃ t, RequestHere (stServe (there (.write 0x1000 [7, 8]))) 0 (there (.write 0x1000 [7, 8])) false 0 t ∧ t.state = .running ∧
      translate (stServe (there (.write 0x1000 [7, 8]))) 0 0x1000 .write = .ok (.main 0x1000)) ∧
    (∃ t, RequestHere (stServe (there (.atomic .max true 0x1000 7 0))) 0 (there (.atomic .max true 0x1000 7 0)) false 0 t ∧
      t.state = .running ∧ translate (stServe (there (.atomic .max true 0x1000 7 0))) 0 0x1000 .write = .ok (.main 0x1000)) ∧
    (∃ t, RequestHere (stServe (there (.reduce 0x1000 7))) 0 (there (.reduce 0x1000 7)) false 0 t ∧ t.state = .running ∧
      translate (stServe (there (.reduce 0x1000 7))) 0 0x1000 .write = .ok (.main 0x1000)) ∧
    (∃ t, RequestHere (stServe (there (.check .max 0x1000))) 0 (there (.check .max 0x1000)) false 0 t ∧ t.state = .running ∧
      translate (stServe (there (.check .max 0x1000))) 0 0x1000 .write = .ok (.main 0x1000)) ∧
    (∃ t, RequestHere (stServe (there (.perform .max true 0x2000 7 0))) 0 (there (.perform .max true 0x2000 7 0)) false 0 t ∧
      t.state = .running ∧ localPlace (.main 0x1000) .m 0x1000 ∧ 2 * 0x1000 = 0x2000) ∧
    (∀ p, (there p).src ≠ (stServe (there p)).fabric.dev ∧ turnComes (stServe (there p)) 0) ∧
    let s := stServe (there (.read 0x40000000 8))
    ∃ t, RequestHere s 0 (there (.read 0x40000000 8)) false 0 t ∧ t.state = .running ∧ translate s 0 0x40000000 .read = .notPresent ∧
      recordAt s 0 t 0 0x60000 ∧ ∀ f, f ∈ s.faults → f.tenant ≠ 0 := by
  refine ⟨by decide, ?_, ⟨_, request_here _ _ _ _ (by decide) rfl, rfl, by decide⟩, ⟨_, request_here _ _ _ _ (by decide) rfl, rfl, by decide⟩,
    ⟨_, request_here _ _ _ _ (by decide) rfl, rfl, by decide⟩, ⟨_, request_here _ _ _ _ (by decide) rfl, rfl, by decide⟩,
    ⟨_, request_here _ _ _ _ (by decide) rfl, rfl, by decide⟩, ⟨_, request_here _ _ _ _ (by decide) rfl, rfl, .inl ⟨rfl, rfl⟩, rfl⟩,
    fun p => ⟨(by decide : 1 ≠ 0), turn_here _ _ _⟩, _,
    request_here _ _ _ _ (by decide) rfl, rfl, by decide, recordAt_of rfl (by decide) (by decide), fun f hf => absurd hf List.not_mem_nil⟩
  rintro nt x (rfl | rfl)
  · cases nt
    · exact ⟨_, request_here _ _ _ _ (by decide) rfl, rfl⟩
    · exact ⟨_, request_here _ _ _ _ (by decide) rfl, rfl⟩
  · cases nt
    · exact ⟨_, request_here _ _ _ _ (by decide) rfl, rfl⟩
    · exact ⟨_, request_here _ _ _ _ (by decide) rfl, rfl⟩

/-- Group 1 waits for lane 0 of a remote atomic; a unit's read, and a peer's COUNT, wait. -/
def stRemote (u : RemoteUse) (stopped : Bool) (p : Packet) : State :=
  { withGroup (fun g => { g with park := some ⟨0, 0, .remote false [0] [] [] [] []⟩ }) (st 0) with
    remotes := [⟨30, 1, u, 1, stopped, false⟩], rx := [⟨p, none, false⟩], fabric := ⟨0, [(0, 0), (0, 0)], 2⟩, now := 2 ^ 17 + 1 }

/-- Responses that reach a lane, a unit, a peer and nothing; a parked notice; a request that is due, is not, and was stopped. -/
theorem witness_RequestsAreServed_responses :
    (let s := stRemote (.lane 1 0) false (there (.response true 5))
    s.rx[0]? = some ⟨there (.response true 5), none, false⟩ ∧ s.xchgs = [] ∧
      remoteFor s (there (.response true 5)) = some ⟨30, 1, .lane 1 0, 1, false, false⟩ ∧
      remoteFor s (here (.response true 5)) = none ∧
      (∃ g, tfind s.groups 1 = some g ∧ g.park = some ⟨0, 0, .remote false [0] [] [] [] []⟩) ∧
      s.remotes.find? (fun x => x.id == 30) = some ⟨30, 1, .lane 1 0, 1, false, false⟩ ∧ 1 + 65536 * s.fabric.timeout ≤ s.now ∧
      ¬ 2 + 65536 * s.fabric.timeout ≤ s.now) ∧
    (remoteFor (stRemote (.unit 0 64) false (there (.response false 0))) (there (.response false 0))).isSome = true ∧
    (∀ who, (remoteFor (stRemote (.post 0 who) false (there (.response false 0))) (there (.response false 0))).isSome = true) ∧
    (remoteFor (stRemote (.peer 30 1) false (there (.response false 1))) (there (.response false 1))).isSome = true ∧
    (stRemote (.unit 0 64) true (there .parked)).rx[0]? = some ⟨there .parked, none, false⟩ ∧
    (30 % 2 ^ 32 = (there .parked).req.toNat ∧ 1 = (there .parked).src) := by
  refine ⟨⟨rfl, rfl, by decide, by decide, ⟨_, rfl, rfl⟩, by decide, by decide, by decide⟩, by decide, fun who => rfl, by decide, rfl, by decide⟩

/-- A copy to device 1 of numbers in place, and one that adds them there; one whose two elements have been answered for, and one after
a fatal write. -/
def copyFar : Copy := { copy0 with dst := { ten 5 8 1 [4, 1, 1, 1] [0, 0, 0] 0x1000 with device := 1 } }
def stFar (c : Copy) : State := { stServe (there .parked) with copies := [c], rx := [] }
theorem witness_CopiesReachOtherDevices :
    (∀ op msg, op = 0 ∧ msg = .write (copyFar.dst.addr (copyFar.coords 0).2)
          ((List.range 2).flatMap fun j => leBytes 4 (copyFar.brings (stFar copyFar) (0 + j))) ∨
        op = 1 ∧ msg = .atomic .fadd false (copyFar.dst.addr (copyFar.coords 0).2) (copyFar.brings (stFar copyFar) 0) 0 →
      let c := { copyFar with op := op }
      let s := stFar c
      s.copies.find? (fun x => x.id == c.id) = some c ∧ MovesNext s c ⟨0, 0, 0⟩ ∧ c.members = [⟨0, 0, 0⟩] ∧ c.dst.space = 5 ∧ c.dst.format ≠ 11 ∧
        (∃ v, sendRemote s c.tenant c.dst.device msg (.copy c.id) = some v) ∧ c.dst.z ∣ c.dst.addr (c.coords 0).2 ∧
        0 / c.box.getD 0 1 = (0 + 2 - 1) / c.box.getD 0 1 ∧
        (∀ j, j < 2 → c.dst.addr (c.coords (0 + j)).2 = c.dst.addr (c.coords 0).2 + c.dst.z * j ∧
          (0 < j → (c.dst.addr (c.coords 0).2 + c.dst.z * j) % 8 ≠ 0)) ∧ (c.dst.addr (c.coords 0).2 + c.dst.z * 2) % 8 = 0) ∧
    (let c := { copyFar with sent := 2 }
    let s := stFar c
    s.copies.find? (fun x => x.id == c.id) = some c ∧ c.inOrder s ∧ c.fatal ≠ some true ∧ 0 < c.sent ∧ c.members = [⟨0, 0, 0⟩]) ∧
    ∀ n, n = 0 ∨ n = 8 → let c := { copyFar with delivered := n, fatal := some true }
      let s := stFar c
      s.copies.find? (fun x => x.id == c.id) = some c ∧ c.state = none ∧ c.asking = [] ∧ c.inOrder s ∧ c.kind = .copy := by
  refine ⟨?_, ⟨by decide, fun r hr => absurd hr List.not_mem_nil, by decide, by decide, rfl⟩, ?_⟩
  · rintro op msg (⟨rfl, rfl⟩ | ⟨rfl, rfl⟩)
    · exact ⟨by decide, moves_of (by decide) (.inl ⟨rfl, .inl rfl⟩), rfl, rfl, by decide, ⟨_, rfl⟩, by decide, by decide, by decide, by decide⟩
    · exact ⟨by decide, moves_of (by decide) (.inr (.inl ⟨rfl, rfl, rfl⟩)), rfl, rfl, by decide, ⟨_, rfl⟩, by decide, by decide, by decide, by decide⟩
  · rintro n (rfl | rfl)
    all_goals exact ⟨by decide, rfl, rfl, fun r hr => absurd hr List.not_mem_nil, rfl⟩

/-! ## Witnesses: the host, boot and power -/

/-- A booted module whose tenant 0 has pages, an inbox, and an aperture of BAR2. -/
def stHost (base : Nat) (h : Tenant → Tenant := id) : State :=
  { stLog [] (fun t => h { t with config := { t.config with bar2Base := base, bar2Size := 4096 } }) with boot := .booted }
def tenHost (base : Nat) (h : Tenant → Tenant := id) : Tenant := ((tfind (stHost base h).tenants 0).getD (Tenant.fresh bareConfig))

/-- An inbox write inside and outside; an access of BAR2 to a mapped page, and to one that is not present, with a free record, and with a
fault open on it. -/
theorem witness_HostServes_accesses :
    (tfind (stHost 0x10000).tenants 0 = some (tenHost 0x10000) ∧ noAlmanac (stHost 0x10000) 0 ∧ (tenHost 0x10000).state ≠ .absent ∧
      4092 + [7, 8].length ≤ 4096 ∧ 4096 < 4095 + [7, 8].length ∧ (tenHost 0x10000).config.bar2Size < 4096 + 1 ∧
      mappedAt (stHost 0x10000) 0 (0x10000 / 64 * 64) (0x10000 % 64 + 8) 0x10000 .read ∧
      mappedAt (stHost 0x10000) 0 0x10000 [7, 8].length 0x10000 .write) ∧
    ((∃ b : Bool, translate (stHost 0x40000000) 0 (0x40000000 / 64 * 64) .read = if b then .forbidden else .notPresent) ∧
      recordAt (stHost 0x40000000) 0 (tenHost 0x40000000) 0 0x60000 ∧ ∀ f, f ∈ (stHost 0x40000000).faults → f.tenant ≠ 0) ∧
    let s := { stHost 0x40000000 with faults := [⟨0, 0x4000, 1, false, false, false, 0x40000000, 1, 1, some 5⟩] }
    recordAt s 0 (tenHost 0x40000000) 0 0x60000 ∧ translate s 0 (0x40000000 / 64 * 64) .read = .notPresent := by
  refine ⟨⟨rfl, noAlmanac_of (by decide), by decide, by decide, by decide, by decide, fun j hj => ?_, fun j hj => ?_⟩,
    ⟨⟨false, by decide⟩, recordAt_of rfl (by decide) (by decide), fun f hf => absurd hf List.not_mem_nil⟩,
    recordAt_of rfl (by decide) (by decide), by decide⟩
  · exact translate_page .read rfl rfl (by decide) (by decide) (by omega)
  · exact translate_page .write rfl rfl (by decide) (by decide) (by simp at hj; omega)

theorem bareConfig_legal : ConfigLegal bareConfig :=
  ⟨by decide, by decide, ⟨fun b _ h2 h => absurd h2 (Nat.not_lt.mpr (Nat.le_trans (by decide) h.1)),
    fun b _ h2 h => absurd h2 (Nat.not_lt.mpr (Nat.le_trans (by decide) h.1))⟩, by decide⟩

/-- A first configuration beside no other, and one that has tenant 0's scratch range; a running tenant's, with a change that may be live and one that may not; a start. -/
theorem witness_HostServes_tenants :
    ((stHost 0).boot = .booted ∧ tfind (stHost 0).tenants 3 = none ∧ ConfigLegal bareConfig ∧
      (∀ c, leavesOthers State.reset 3 c) ∧ ¬ leavesOthers (stHost 0) 3 bareConfig ∧
      ¬ ConfigLegal { bareConfig with cores := [256] } ∧ ¬ ConfigLegal { bareConfig with bar2Base := 4096 }) ∧
    (let t := tenHost 0
    t.state = .running ∧ sameButLive t.config { t.config with handler := 64 } ∧
      ¬ sameButLive t.config { t.config with inbox := 64 }) ∧
    State.reset.boot ≠ .booted ∧
    (let t := tenHost 0 fun t => { t with state := .configured }
    tfind (stHost 0 fun t => { t with state := .configured }).tenants 0 = some t ∧ t.state = .configured ∧ t.config.almanac = .off ∧
      ¬ ∃ p, p ∈ (stHost 0 fun t => { t with state := .configured }).tenants ∧ p.1 ≠ 0 ∧ (p.2.state = .running ∨ p.2.state = .frozen) ∧
        ∃ d, d ∈ p.2.config.cores ∧ d ∈ t.config.cores) := by
  refine ⟨⟨rfl, by decide, bareConfig_legal, fun c p hp => absurd hp List.not_mem_nil,
      fun h => h (0, tenHost 0) (by decide) (by decide) (by decide) (0x80000, 0x100000) (0x80000, 0x100000) (by decide) (by decide) 0x80000
        (by decide) (by decide) (by decide), fun h => absurd (h.cores.2 256 (by decide)) (by decide), fun h => absurd h.aperture.1 (by decide)⟩, ⟨rfl, rfl, fun h => ?_⟩, by decide, rfl, rfl, rfl, ?_⟩
  · exact absurd (congrArg TenantConfig.inbox h) (by decide)
  · rintro ⟨p, hp, h0, -⟩
    obtain rfl := List.mem_singleton.mp hp
    exact h0 rfl

/-- The image of a payload of 64 bytes, loaded and entered at 0, with a public key and a signature of zeros. -/
def header0 : Bytes :=
  leBytes 4 0x4D494C42 ++ leBytes 2 1 ++ leBytes 2 0 ++ leBytes 8 64 ++ leBytes 8 0 ++ leBytes 8 0 ++ List.replicate 96 0
def image0 : Bytes := header0 ++ List.replicate 49920 0

theorem header0_length : header0.length = 128 := by
  unfold header0
  simp only [List.length_append, List.length_replicate]
  rfl

theorem image0_length : image0.length = 50048 := by
  rw [image0, List.length_append, header0_length, List.length_replicate]

theorem image0_head (n : Nat) (hn : n ≤ 128) : image0.take n = header0.take n :=
  List.take_append_of_le_length (Nat.le_trans hn (Nat.le_of_eq header0_length.symm))

theorem image0_field (k n : Nat) (hn : k + n ≤ 128) : (image0.drop k).take n = (header0.drop k).take n := by
  rw [List.take_drop, List.take_drop, image0_head _ (by omega)]

/-- With a fused digest that is the key's, and a signature that verifies (both are values of Config that nothing gives), reset accepts the
image. -/
theorem witness_image (hk : shake256 ((image0.drop 32).take 64) = Config.fusedDigest 0)
    (hs : verifies ((image0.drop 32).take 64) (image0.take 128 ++ (image0.drop 49984).take 64) ((image0.drop 128).take 49856) = true) :
    ImageAccepted State.reset image0 64 where
  header := by
    rw [image0_head 4 (by decide), image0_field 4 2 (by decide), image0_field 6 2 (by decide), image0_field 96 32 (by decide)]
    decide
  length := by
    rw [image0_field 8 8 (by decide)]
    refine ⟨by decide, by decide, by decide, ?_⟩
    rw [image0_length]
  load := by
    rw [image0_field 16 8 (by decide), image0_field 24 8 (by decide)]
    exact ⟨_, _, rfl, rfl, by decide⟩
  key := ⟨0, by decide, hk, rfl⟩
  signed := hs

/-- Nothing was fetched; a file that is no image; a second after a failure, and before. -/
theorem witness_ModuleBootsAndReports_boot :
    (State.reset.boot = .inReset ∧ (⟨true, some []⟩ : BootFile).file = some [] ∧ ([] : Bytes).length ≤ 16 * 2 ^ 20 ∧ ¬ ∃ len, ImageAccepted State.reset [] len) ∧
    image0.length ≤ 16 * 2 ^ 20 ∧
    (let s := { State.reset with boot := .failed 0 5, now := 5 + 1000 * (1000 * State.reset.clockMHz) }
    s.boot = .failed 0 5 ∧ 5 + 1000 * (1000 * s.clockMHz) ≤ s.now) ∧
    (let s := { State.reset with boot := .failed 0 5 }
    s.boot = .failed 0 5 ∧ s.now < 5 + 1000 * (1000 * s.clockMHz)) :=
  ⟨⟨rfl, rfl, by decide, fun ⟨_, h⟩ => absurd h.header.1 (by decide)⟩, image0_length ▸ by decide, by decide, by decide⟩

/-- Reports of the module and of a tenant, of which one is a VF's own; a monitor; a sample that is hot, and two that are not. -/
theorem witness_ModuleBootsAndReports_reports :
    (stHost 0).boot = .booted ∧ (tfind (stHost 0).tenants 0).map (fun t => t.config) = some (tenHost 0).config ∧ (tenHost 0).state ≠ .absent ∧
    (List.replicate 32 (0 : Byte)).length = 32 ∧ ((tenHost 0).monitor .copy).isSome = true ∧
    (let s := stHost 0
    ¬ (s.powerLimit < 0 ∨ ∃ x, x ∈ [95, 60] ∧ 95 < x) ∧ (∃ x, x ∈ [96, 60] ∧ 95 < x)) ∧
    ((stHost 0).now / 1024 ≤ (stHost 0).sampled ∧ ¬ { stHost 0 with now := 1024 }.now / 1024 ≤ { stHost 0 with now := 1024 }.sampled) ∧
    (let s := { stHost 0 with clockMHz := 1100, now := 110000000 }
    s.clockMHz < 1200 ∧ s.coolSince + 100 * (1000 * s.clockMHz) ≤ s.now ∧ s.powerRead + 1000 * s.clockMHz ≤ s.now ∧
      (stHost 0).now < (stHost 0).powerRead + 1000 * (stHost 0).clockMHz) := by
  refine ⟨rfl, rfl, by decide, rfl, by decide, ⟨?_, 96, by decide, by decide⟩, ⟨by decide, by decide⟩, by decide⟩
  decide

/-- R346's two hypotheses that a run meets: a start of a configured tenant, and a boot of the image that witness_image has accepted. -/
theorem witness_MeasurementRegister :
    (∃ t y, exec (.tenantStart 0) (stHost 0 fun t => { t with state := .configured }) = .next t ∧ tfind t.tenants 0 = some y ∧
      y.state = .running) ∧
    (∃ t, exec (.bootRomStart ⟨true, some image0⟩) State.reset = .next t) := ⟨⟨_, _, rfl, rfl, rfl⟩, _, rfl⟩

/-! ## Witnesses: the whole machine -/

theorem witness_DecodeReadsEncode :
    (let i : Instr := .iaddVr 383 1 2 15 .s64 true
    i.wf = true ∧ (∃ w, encode i = some w)) ∧ decode 0x5000800800000005 = .ok (.moviSi 2#8 .s32 false 5#32) :=
  ⟨⟨by decide, _, rfl⟩, by rfl⟩

/-- A state that keeps both invariants, with a request under way that owes a result, and its step. -/
theorem witness_MemoryStaysCanonical_and_IdentifiersStayFresh :
    let s := { withPages (st 0x5000800800000005) with reqs := [req .d (.load .w32 (.v 0)) [⟨0, 0xB0000, 0, 0⟩] (some 5)], nextId := 6 }
    s.canonical = true ∧ FreshIds s ∧ ∃ t, step s = .next t := by
  exact ⟨by decide, fresh_of (by decide), _, rfl⟩

/-- An issue of a slot whose word decodes; of words that are of no class, of another class, and with a reserved bit; of a slot that
is not there; an event of each kind; and an issuing slot into which a word is placed. -/
theorem witness_StepRunsTheInstruction :
    (∀ w, (st w).agenda = [⟨1, .issue 1 0⟩]) ∧
    (let v := { (st 0x5000800800000005).turned 1 [] with focus := (1, 0) }
    issuer v = some (iss v) ∧ (iss v).word = 0x5000800800000005 ∧ (heldBack (iss v).g 0 || isFrozen v (iss v).g || waitsForPipe v (iss v)) = false ∧
      wordInClass 0x5000800800000005 (iss v).cl.hdr.cls ∧ decode (iss v).word = .ok (.moviSi 2#8 .s32 false 5#32)) ∧
    assignedOpcode (opcodeOf 0xD000000000000000) = false ∧
    (assignedOpcode (opcodeOf 0x5940000000000000) = true ∧ ¬ wordInClass 0x5940000000000000 .valu) ∧
    (wordInClass 0x5940000000000001 .salu ∧ ∃ e, decode 0x5940000000000001 = .error e) ∧
    (let w := { st 0 fun g => setSlot { g with slot1 := some { bareSlot with clause := some ⟨hdrM, [0]⟩ } } 0
        (some { bareSlot with clause := some ⟨hdrM, [0]⟩ }) with
        owed := [⟨9, 1, 0, .other, none, (List.range 64).map .v, [], 1, 0⟩], focus := (1, 0) }
    ∃ sl c, issuer w = some (iss w) ∧ slotOf (iss w).g 1 = some sl ∧ sl.clause = some c ∧ heldBack (iss w).g 1 = false ∧
      (iss w).cl.hdr.cls.limited = true ∧ firstExceeds w ⟨(iss w).gid, 1, (iss w).g, sl, c⟩ = true) ∧
    issuer { State.reset with focus := (1, 0) } = none ∧ encode .placementStep = none ∧ encode .exit ≠ none ∧
    (∃ i, issuer { st 0 with focus := (1, 0) } = some i) := by
  refine ⟨fun _ => rfl, ⟨by rfl, by rfl, by decide, .inr (by decide), by rfl⟩, by decide,
    ⟨by decide, fun h => absurd h (not_or.mpr ⟨by decide, by decide⟩)⟩, ⟨.inr (by decide), _, by rfl⟩, ⟨_, _, by rfl, by rfl, by rfl, by decide, by decide, by decide⟩, by rfl, rfl,
    by decide, _, by rfl⟩

/-! ## A word for every other constructor

The fields' places are those of R42 to R54, the opcodes those of R55. -/

theorem test_more_words_valu_integers :
    ([(0x004140B060014480, .iaddVr 10 11 12 5 .s16 true), (0x008140B060014480, .isubVr 10 11 12 5 .s16 true),
      (0x00C140B060015800, .imulVr 10 11 12 5 .n32), (0x010140B060015800, .imulhVr 10 11 12 5 .n32),
      (0x014140B060354880, .imadVr 10 11 12 13 5 .s32 true), (0x0181580FC8014800, .iminVr 10 384 505 5 .s32),
      (0x01C1580FC8014800, .imaxVr 10 384 505 5 .s32), (0x020140B000014000, .iabsVr 10 11 5 .s8),
      (0x024140B000014000, .inegVr 10 11 5 .s8), (0x02C140C070014C06, .isubbVr 10 12 14 6 5 .s64),
      (0x030140B060017400, .andVr 10 11 12 5 .b32), (0x034140B060017400, .orVr 10 11 12 5 .b32),
      (0x038140B060017400, .xorVr 10 11 12 5 .b32), (0x03C140B060017400, .andnVr 10 11 12 5 .b32),
      (0x040140B060357496, .btabVr 10 11 12 13 0x96 5 .b32), (0x044140C070017800, .shlVr 10 12 14 5 .b64),
      (0x048140C070017800, .shrVr 10 12 14 5 .b64), (0x04C140C070017800, .sarVr 10 12 14 5 .b64),
      (0x050140C070017800, .rolVr 10 12 14 5 .b64), (0x054140B000017400, .popcVr 10 11 5 .b32),
      (0x058140B000017400, .clzVr 10 11 5 .b32), (0x05C140B000017400, .ctzVr 10 11 5 .b32),
      (0x060140B000017400, .brevVr 10 11 5 .b32), (0x064140B060355800, .bfxVr 10 11 12 13 5 .n32),
      (0x068140B060355800, .binsVr 10 11 12 13 5 .n32), (0x06C140C000017800, .ffcsVr 10 12 5),
      (0x070140C070417800, .plsetVr 10 12 14 16 5 .b64), (0x074140B060354800, .leaVr 10 11 12 13 5 .s32),
      (0x0792E0B060014800, .icmpVr 7 .geu 11 12 5 .s32), (0x07C140B0600D7400, .selVr 10 11 12 3 5 .b32),
      (0x080140C000017800, .movVr 10 12 5 .b64), (0x084140B060017401, .lshuf 10 11 12 .up 5 .b32),
      (0x088140B060017400, .bcast 10 11 12 5 .b32), (0x094140D000017400, .movsVr 10 13 5 .b32)] :
      List (Nat × Instr)).all (fun x => decodeTableWord 64 x.1 == some x.2) = true := by decide

theorem test_more_words_valu_immediates :
    ([(0x10014005FFFFFFFE, .moviVi 10 5 0xFFFFFFFE), (0x104140B50000004D, .iaddVi 10 11 5 77),
      (0x108140B50000004D, .imulVi 10 11 5 77), (0x10C140B50000004D, .andVi 10 11 5 77), (0x110140B50000004D, .orVi 10 11 5 77),
      (0x114140B50000004D, .xorVi 10 11 5 77), (0x118140B50000004D, .shlVi 10 11 5 77), (0x11C140B50000004D, .shrVi 10 11 5 77),
      (0x120140B50000004D, .sarVi 10 11 5 77)] :
      List (Nat × Instr)).all (fun x => decodeTableWord 64 x.1 == some x.2) = true := by decide

theorem test_more_words_valu_floats :
    ([(0x204140B0600160A2, .fsub 10 11 12 5 .rup true false false true),
      (0x208140B0600160A2, .fmul 10 11 12 5 .rup true false false true),
      (0x210140B0600160A2, .fmin 10 11 12 5 .rup true false false true),
      (0x214140B0600160A2, .fmax 10 11 12 5 .rup true false false true),
      (0x2196E0B060016014, .fcmp 7 .uno 11 12 5 false true true false), (0x21C140B000016400, .fclass 10 11 5 .f16),
      (0x220140B060016060, .fscale 10 11 12 5 .rtz true false), (0x224140B0000160C4, .frint 10 11 5 .rdn false true),
      (0x228140B0000160C4, .frcp 10 11 5 .rdn false true), (0x22C140B0000160C4, .fsqrt 10 11 5 .rdn false true),
      (0x230140B0000160C4, .frsq 10 11 5 .rdn false true), (0x234140B0000160C4, .fexp2 10 11 5 .rdn false true),
      (0x238140B0000160C4, .flog2 10 11 5 .rdn false true),
      (0x23C140B06035686A, .pkfma 10 11 12 13 5 .bf16 .rtz true false true false true),
      (0x240140B06035686A, .fdot2 10 11 12 13 5 .bf16 .rtz true false true false true),
      (0x248140B0000148C8, .icvt 10 11 5 .s32 .f32 .rdn), (0x24C140B060017000, .lmul 10 11 12 5),
      (0x250140B060357000, .lsum 10 11 12 13 5)] :
      List (Nat × Instr)).all (fun x => decodeTableWord 64 x.1 == some x.2) = true := by decide

theorem test_more_words_salu_registers :
    ([(0x4045054580068000, .isubSr 20 21 22 .s16 true true), (0x40850545800E0000, .imulSr 20 21 22 .s64 true),
      (0x40C50545800E0000, .imulhSr 20 21 22 .s64 true), (0x41450545800E0000, .iminSr 20 21 22 .s64 true),
      (0x41850545800E0000, .imaxSr 20 21 22 .s64 true), (0x4105054585D28000, .imadSr 20 21 22 23 .n8 true true),
      (0x41C50540000A0000, .iabsSr 20 21 .s32 true), (0x42050540000A0000, .inegSr 20 21 .s32 true),
      (0x42450545801E0000, .iaddcSr 20 21 22 .n64 true), (0x42850545801E0000, .isubbSr 20 21 22 .n64 true),
      (0x42C50545803A0000, .andSr 20 21 22 .b64 true), (0x43050545803A0000, .orSr 20 21 22 .b64 true),
      (0x43450545803A0000, .xorSr 20 21 22 .b64 true), (0x43850545803A0000, .andnSr 20 21 22 .b64 true),
      (0x43C5054585F89600, .btabSr 20 21 22 23 0x96 .b64 false), (0x4405054580360000, .shlSr 20 21 22 .b32 true),
      (0x4445054580360000, .shrSr 20 21 22 .b32 true), (0x4485054580360000, .sarSr 20 21 22 .b32 true),
      (0x44C5054580360000, .rolSr 20 21 22 .b32 true), (0x45050540003A0000, .popcSr 20 21 .b64 true),
      (0x45450540003A0000, .clzSr 20 21 .b64 true), (0x45850540003A0000, .ctzSr 20 21 .b64 true),
      (0x45C50540003A0000, .brevSr 20 21 .b64 true), (0x4605054585DE0000, .bfxSr 20 21 22 23 .n64 true),
      (0x4645054585DE0000, .binsSr 20 21 22 23 .n64 true), (0x46C5054585FA0000, .plsetSr 20 21 22 23 .b64 true),
      (0x4705054585DC0000, .leaSr 20 21 22 23 .n64 false), (0x4759C545801E0000, .icmpSr 7 .ltu 21 22 .n64 true),
      (0x4785054580F80000, .selSr 20 21 22 3 .b64 false), (0x47C50540000A0000, .movSr 20 21 .s32 true)] :
      List (Nat × Instr)).all (fun x => decodeTableWord 64 x.1 == some x.2) = true := by decide

theorem test_more_words_salu_masks :
    ([(0x4801014180020000, .mand 4 5 6 true), (0x4841014180020000, .mor 4 5 6 true), (0x4881014180020000, .mxor 4 5 6 true),
      (0x48C1014180020000, .mandn 4 5 6 true), (0x4901014000020000, .mnot 4 5 true), (0x4941014000020000, .mmov 4 5 true),
      (0x4985014000000000, .mpopc 20 5 false), (0x49C5014000000000, .mfirst 20 5 false), (0x4A05024000000000, .movsSr 20 9),
      (0x4A00054000000100, .movsFflagsWrite 21), (0x4A45000000000000, .clock 20), (0x4A80054000000000, .jmp 21)] :
      List (Nat × Instr)).all (fun x => decodeTableWord 64 x.1 == some x.2) = true := by decide

theorem test_more_words_salu_immediates_and_branches :
    ([(0x5045054EFFFFFFFE, .iaddSi 20 21 .s64 true 0xFFFFFFFE), (0x50C5054EFFFFFFFE, .imulSi 20 21 .s64 true 0xFFFFFFFE),
      (0x5285054EFFFFFFFE, .iminSi 20 21 .s64 true 0xFFFFFFFE), (0x52C5054EFFFFFFFE, .imaxSi 20 21 .s64 true 0xFFFFFFFE),
      (0x5105057A00000021, .andSi 20 21 .b64 true 33), (0x5145057A00000021, .orSi 20 21 .b64 true 33),
      (0x5185057A00000021, .xorSi 20 21 .b64 true 33), (0x51C5057A00000021, .shlSi 20 21 .b64 true 33),
      (0x5205057A00000021, .shrSi 20 21 .b64 true 33), (0x5245057A00000021, .sarSi 20 21 .b64 true 33),
      (0x5309C54A00000021, .icmpSi 7 .lts 21 .s32 true 33), (0x58581400FFFFFFF0, .call 320 0xFFFFFFF0),
      (0x5880000000000000, .ret), (0x0000000000000000, .nop), (0x5918014000000006, .join 20 6)] :
      List (Nat × Instr)).all (fun x => decodeTableWord 64 x.1 == some x.2) = true := by decide

theorem test_more_words_mem :
    ([(0x6001009145602FFF, .ldl 8 9 20 5 .s16 .b 0xFFF), (0x6081009145602FFF, .ldt 8 9 20 5 .s16 .b 0xFFF),
      (0x6041009145C00003, .stl 8 9 20 5 .w128 3), (0x60C1009145C00003, .stt 8 9 20 5 .w128 3),
      (0x6141009145C00003, .std 8 9 20 5 .w128 3), (0x6201009145805003, .atomT .add 8 9 20 5 .w32 .a 3),
      (0x6281009145BAE003, .atomM .cas 8 9 20 5 .w64 .sys .b 3), (0x62C1009145830003, .redT .inc 8 9 20 5 .w32 3),
      (0x63010091458B8003, .redD .fadd 8 9 20 5 .w32 .clus 3), (0x634100914593C003, .redM .bfadd 8 9 20 5 .w32 .dev 3),
      (0x6430000140000003, .barinit 384 20 3), (0x647F200140000003, .barexp 505 20 3), (0x6480000140000003, .bararr 20 3),
      (0x64C0000140000003, .barwait 20 3), (0x6601000145A01003, .mwait 8 20 5 .w64 .a 3), (0x6640000000180000, .fence .sys),
      (0x6640000000200000, .fenceAcq .team)] :
      List (Nat × Instr)).all (fun x => decodeTableWord 64 x.1 == some x.2) = true := by decide

theorem test_more_words_async_and_mtx :
    ([(0x80400000007E0000, .tidinv 63), (0x810505412B000FFE, .copys 20 21 9 5 .b 0xFFE), (0x9060E06000000000, .srel 2 7 3),
      (0x90EA000000000000, .rel 2 5), (0x912A000000000000, .mzero 2 5), (0x91EA000280000FC8, .mwrite 2 5 20 505)] :
      List (Nat × Instr)).all (fun x => decodeTableWord 64 x.1 == some x.2) = true := by decide

theorem test_more_words_ray_and_chan :
    ([(0xA2C1400002820600, .mstatBuf 10 3 5 .a), (0xA2C1580002850801, .mstatFord 10 384 33 5 .b),
      (0xA401580002830800, .raster 10 384 33 5 .a), (0xB0A8052C00000000, .peek 40 10 5 .b), (0xB440000140000000, .oclose 20),
      (0xB48140C145660000, .oenterPart 10 12 20 6 5 .a), (0xB4C140C145680000, .owait 10 12 20 6 5 .b),
      (0xB4C140C145620000, .owaitPart 10 12 20 6 5 .none), (0xB54140C145000000, .oskip 10 12 20 5),
      (0xC0C0000003000014, .commit 20 3), (0xC6450545A0000000, .cxload 20 21 22 .b)] :
      List (Nat × Instr)).all (fun x => decodeTableWord 64 x.1 == some x.2) = true := by decide


/-- R72: the value that a NaN element reads as; an infinity stands. -/
theorem test_written_nan_reads_canonical : elementRead 0x7F800001 = 0x7FC00000 ∧ elementRead 0xFF800000 = 0xFF800000 := by decide

/-- R127, R164: an allocation at 0 lays the divergence area there, and leaves the one at 64 KiB as it is. -/
theorem test_areas_laid : (layAreas { st 0 with forkAreas := [(0, [], []), (0x10000, [], [])] } 0 4096).forkAreas = [(0x10000, [], [])] := by decide

end Sys2Proof.Tests
end

section
/-! PROOF of O57. Identifiers stay fresh: the invariant relative to the next identifier that a step began with, and how it changes field by field. -/

-- One theorem at a time: the text compiles as one file, and parallel proofs take more memory than the check allows.
set_option Elab.async false

namespace Sys2Proof.Machine
open Sys2Proof

/-- The identifiers that a saved context holds are below k. -/
def SavedContext.Below (c : SavedContext) (k : Nat) : Prop :=
  (∀ o, o ∈ c.owed → o.id < k) ∧ (∀ r, r ∈ c.reqs → ∀ id, r.owed = some id → id < k) ∧
    (∀ p, p ∈ c.patches → p.owed < k) ∧ ∀ r, r ∈ c.rasters → r.id < k

theorem SavedContext.Below.mono {c : SavedContext} {k m : Nat} (h : c.Below k) (hk : k ≤ m) : c.Below m := by
  obtain ⟨h1, h2, h3, h4⟩ := h
  exact ⟨fun o ho => (h1 o ho).trans_le hk, fun r hr id e => (h2 r hr id e).trans_le hk, fun p hp => (h3 p hp).trans_le hk,
    fun r hr => (h4 r hr).trans_le hk⟩

/-- Every identifier of a state is below the next one, which is n or more: what a step that began with n as the next identifier
has led to. -/
structure Fresh (n : Nat) (s : State) : Prop where
  le : n ≤ s.nextId
  ids : FreshIds s

theorem FreshIds.fresh {s : State} (h : FreshIds s) : Fresh s.nextId s := ⟨Nat.le_refl _, h⟩

/-- What holds of every state from its own next identifier on holds from an earlier one on. -/
theorem Fresh.lift {n : Nat} {s t : State} (h : Fresh n s) (hf : Fresh s.nextId s → Fresh s.nextId t) : Fresh n t :=
  ⟨h.le.trans (hf h.ids.fresh).le, (hf h.ids.fresh).ids⟩

/-- A state whose identifiers are those of a fresh one, or below its own next one, is fresh. -/
theorem Fresh.change {n : Nat} {s t : State} (h : Fresh n s)
    (nextId : s.nextId ≤ t.nextId := by exact Nat.le_refl _)
    (owed : ∀ o, o ∈ t.owed → (∃ q, q ∈ s.owed ∧ q.id = o.id) ∨ o.id < t.nextId := by exact fun o ho => .inl ⟨o, ho, rfl⟩)
    (reqs : ∀ r, r ∈ t.reqs → (∃ q, q ∈ s.reqs ∧ q.owed = r.owed) ∨ ∀ id, r.owed = some id → id < t.nextId := by
      exact fun o ho => .inl ⟨o, ho, rfl⟩)
    (xchgs : ∀ x, x ∈ t.xchgs → (∃ q, q ∈ s.xchgs ∧ q.id = x.id) ∨ x.id < t.nextId := by exact fun o ho => .inl ⟨o, ho, rfl⟩)
    (cxops : ∀ o, o ∈ t.cxops → (∃ q, q ∈ s.cxops ∧ q.owed = o.owed) ∨ o.owed < t.nextId := by exact fun o ho => .inl ⟨o, ho, rfl⟩)
    (remotes : ∀ r, r ∈ t.remotes → (∃ q, q ∈ s.remotes ∧ q.use = r.use) ∨ ∀ tn id, r.use = .post tn (.op id) → id < t.nextId := by
      exact fun o ho => .inl ⟨o, ho, rfl⟩)
    (patches : ∀ p, p ∈ t.patches → (∃ q, q ∈ s.patches ∧ q.owed = p.owed) ∨ p.owed < t.nextId := by
      exact fun o ho => .inl ⟨o, ho, rfl⟩)
    (rasters : ∀ r, r ∈ t.rasters → (∃ q, q ∈ s.rasters ∧ q.id = r.id) ∨ r.id < t.nextId := by exact fun o ho => .inl ⟨o, ho, rfl⟩)
    (decoders : ∀ d e, d ∈ t.decoders → e ∈ d.2.entries →
      (∃ c x, c ∈ s.decoders ∧ x ∈ c.2.entries ∧ x.wid = e.wid) ∨ e.wid < t.nextId := by exact fun d e hd he => .inl ⟨d, e, hd, he, rfl⟩)
    (saved : ∀ c, c ∈ t.saved ++ t.images → c ∈ s.saved ++ s.images ∨ c.Below t.nextId := by exact fun _ hc => .inl hc) :
    Fresh n t := by
  obtain ⟨hn, h1, h2, h3, ⟨h4, h5⟩, ⟨h6, h7, h8⟩, h9⟩ := h
  refine ⟨hn.trans nextId, ?_, ?_, ?_, ⟨?_, ?_⟩, ⟨?_, ?_, ?_⟩, ?_⟩
  · intro o ho
    obtain ⟨q, hq, e⟩ | hl := owed o ho
    · exact e ▸ (h1 q hq).trans_le nextId
    · exact hl
  · intro r hr
    obtain ⟨q, hq, e⟩ | hl := reqs r hr
    · exact fun id hid => (h2 q hq id (e.trans hid)).trans_le nextId
    · exact hl
  · intro x hx
    obtain ⟨q, hq, e⟩ | hl := xchgs x hx
    · exact e ▸ (h3 q hq).trans_le nextId
    · exact hl
  · intro o ho
    obtain ⟨q, hq, e⟩ | hl := cxops o ho
    · exact e ▸ (h4 q hq).trans_le nextId
    · exact hl
  · intro r hr
    obtain ⟨q, hq, e⟩ | hl := remotes r hr
    · exact fun tn id hid => (h5 q hq tn id (e.trans hid)).trans_le nextId
    · exact hl
  · intro p hp
    obtain ⟨q, hq, e⟩ | hl := patches p hp
    · exact e ▸ (h6 q hq).trans_le nextId
    · exact hl
  · intro r hr
    obtain ⟨q, hq, e⟩ | hl := rasters r hr
    · exact e ▸ (h7 q hq).trans_le nextId
    · exact hl
  · intro d e hd he
    obtain ⟨c, x, hc, hx, e⟩ | hl := decoders d e hd he
    · exact e ▸ (h8 c x hc hx).trans_le nextId
    · exact hl
  · intro c hc
    obtain hs | hl := saved c hc
    · exact SavedContext.Below.mono (h9 c hs) nextId
    · exact hl

/-- Whether a state is fresh rests on the lists that name identifiers, and on no other field. -/
@[simp] theorem fresh_fields {n : Nat} {t : State} {x0 x1 x2 x3 x4 x5 x6 x7 x8 x9 x10 x11 x12 x13 x14 x15 x16 x17 x18 x19 x20 x21
    x22 x23 x24 x25 x26 x27 x28 x29 x30 x31 x32 x33 x34 x35 x36 x37 x38 x39 x40 x41 x42 x43 x44 x45 x46 x47 x48 x49 x50 x51} :
    Fresh n (State.mk x0 x1 x2 t.nextId x3 x4 x5 x6 x7 x8 x9 x10 x11 x12 x13 x14 x15 t.reqs t.owed x16 x17 x18 x19 x20 x21
      t.decoders t.patches t.rasters x22 x23 t.xchgs x24 x25 x26 x27 x28 t.remotes x29 t.saved t.images t.cxops x30 x31 x32 x33
      x34 x35 x36 x37 x38 x39 x40 x41 x42 x43 x44 x45 x46 x47 x48 x49 x50 x51) ↔ Fresh n t :=
  ⟨fun h => h.change, fun h => h.change⟩

/-- A loop whose every turn leaves the identifiers as they are. -/
@[simp] theorem fresh_foldl {α : Type} {n : Nat} {f : State → α → State} (hf : ∀ s x, Fresh n (f s x) ↔ Fresh n s) (xs : List α) (s : State) :
    Fresh n (xs.foldl f s) ↔ Fresh n s := by
  induction xs generalizing s with
  | nil => rfl
  | cons x xs ih => rw [List.foldl_cons, ih, hf]

/-- A loop whose every turn keeps the identifiers fresh. -/
theorem Fresh.foldl {α : Type} {n : Nat} {s : State} {f : State → α → State} {xs : List α} (h : Fresh n s)
    (hf : ∀ s x, x ∈ xs → Fresh n s → Fresh n (f s x)) : Fresh n (xs.foldl f s) := by
  induction xs generalizing s with
  | nil => exact h
  | cons x xs ih => exact ih (hf s x List.mem_cons_self h) fun s y hy => hf s y (List.mem_cons_of_mem _ hy)

/-- An outcome keeps the identifiers fresh where the next state, if there is one, has them fresh. -/
def FreshOut (n : Nat) (o : Out) : Prop := ∀ t, o = .next t → Fresh n t

@[simp] theorem freshOut_next {n : Nat} {t : State} : FreshOut n (.next t) ↔ Fresh n t :=
  ⟨fun h => h t rfl, fun h u e => by cases e; exact h⟩

@[simp] theorem freshOut_fault {n : Nat} {f : Fault} : FreshOut n (.fault f) := fun _ e => by cases e

@[simp] theorem freshOut_refused {n : Nat} {r : Refusal} : FreshOut n (.refused r) := fun _ e => by cases e

@[simp] theorem fresh_putGroup {n : Nat} {s : State} {gid : Nat} {g : Group} : Fresh n (putGroup s gid g) ↔ Fresh n s := by simp [putGroup]
@[simp] theorem fresh_updGroup {n : Nat} {s : State} {gid : Nat} {f : Group → Group} : Fresh n (updGroup s gid f) ↔ Fresh n s := by
  unfold updGroup
  split <;> simp
end Sys2Proof.Machine
end

section
/-! Identifiers stay fresh: tables, packets, remote requests and fault records. -/

set_option Elab.async false

namespace Sys2Proof.Machine
open Sys2Proof
variable {n₀ : Nat} {s : State}

/-- The identifier of an operation that posted a write is below n. -/
def Poster.Below (n : Nat) : Poster → Prop
  | .op id => id < n
  | _ => True

@[simp] theorem Poster.below_log {n : Nat} : Poster.log.Below n := trivial
@[simp] theorem Poster.below_unit {n : Nat} : Poster.unit.Below n := trivial
@[simp] theorem Poster.below_op {n id : Nat} : (Poster.op id).Below n ↔ id < n := Iff.rfl

/-- A use of a remote request that names the operation that posted it names one below n. -/
def RemoteUse.Below (n : Nat) : RemoteUse → Prop
  | .post _ who => who.Below n
  | _ => True

@[simp] theorem RemoteUse.below_post {n tn : Nat} {who : Poster} : (RemoteUse.post tn who).Below n ↔ who.Below n := Iff.rfl
@[simp] theorem RemoteUse.below_lane {n a b : Nat} : (RemoteUse.lane a b).Below n := trivial
@[simp] theorem RemoteUse.below_copy {n a : Nat} : (RemoteUse.copy a).Below n := trivial
@[simp] theorem RemoteUse.below_unit {n a b : Nat} : (RemoteUse.unit a b).Below n := trivial
@[simp] theorem RemoteUse.below_word {n a b : Nat} : (RemoteUse.word a b).Below n := trivial
@[simp] theorem RemoteUse.below_peer {n a b : Nat} : (RemoteUse.peer a b).Below n := trivial

theorem RemoteUse.Below.op_lt {n : Nat} {use : RemoteUse} (h : use.Below n) {tn id : Nat} (e : use = .post tn (.op id)) : id < n := by
  subst e; exact h

/-! ## The tables -/

@[simp] theorem fresh_updTeam {tm : Nat} {h : Team → Team} : Fresh n₀ (updTeam s tm h) ↔ Fresh n₀ s := by
  unfold updTeam
  split <;> simp
@[simp] theorem fresh_updGrid {gr : Nat} {h : Grid → Grid} : Fresh n₀ (updGrid s gr h) ↔ Fresh n₀ s := by
  unfold updGrid
  split <;> simp
@[simp] theorem fresh_updTenant {tn : Nat} {h : Tenant → Tenant} : Fresh n₀ (updTenant s tn h) ↔ Fresh n₀ s := by
  unfold updTenant
  split <;> simp
@[simp] theorem fresh_arriveWrite {gid : Nat} {w : RegWrite} : Fresh n₀ (arriveWrite s gid w) ↔ Fresh n₀ s := by
  unfold arriveWrite
  (repeat' split) <;> simp
@[simp] theorem fresh_arriveWrites {gid : Nat} {ws : List RegWrite} : Fresh n₀ (arriveWrites s gid ws) ↔ Fresh n₀ s := by simp [arriveWrites]
@[simp] theorem fresh_drawFree : Fresh n₀ (drawFree s).2 ↔ Fresh n₀ s := by simp [drawFree]

/-- A step that only counts the next identifier up. -/
theorem Fresh.count (hs : Fresh n₀ s) {k : Nat} (hk : s.nextId ≤ k) : Fresh n₀ { s with nextId := k } := hs.change (nextId := hk)

@[simp] theorem fresh_freshId (hs : Fresh n₀ s) : Fresh n₀ (freshId s).2 := hs.count (Nat.le_succ _)

/-! ## Requests to other devices -/

@[simp] theorem fresh_fillCache {tn va : Nat} {need : Need} : Fresh n₀ (fillCache s tn va need) ↔ Fresh n₀ s := by
  unfold fillCache
  split <;> simp
@[simp] theorem fresh_sendFlit {f : Flit} : Fresh n₀ (sendFlit s f) ↔ Fresh n₀ s := by
  unfold sendFlit
  split <;> simp
@[simp] theorem fresh_sendPacket {p : Packet} : Fresh n₀ (sendPacket s p) ↔ Fresh n₀ s := by
  unfold sendPacket
  split <;> simp

/-- A remote request more, for a use that names no operation or one that was given its number before. -/
theorem Fresh.remote (hs : Fresh n₀ s) {r : Remote} (hr : r.use.Below n₀) : Fresh n₀ { s with remotes := s.remotes ++ [r] } :=
  hs.change (remotes := fun q hq => by
    obtain hq | rfl := by simpa using hq
    · exact .inl ⟨q, hq, rfl⟩
    · exact .inr fun tn id e => (hr.op_lt e).trans_le hs.le)

/-- A packet that is sent changes the links and what has arrived, and nothing else. -/
theorem sendPacket_frame (s : State) (p : Packet) : ∃ l r, sendPacket s p = { s with links := l, rx := r } := by
  unfold sendPacket
  split
  next => exact ⟨s.links, _, rfl⟩
  next h =>
    clear h
    generalize flitsOf p = fs
    have flit : ∀ (s : State) f, ∃ l, sendFlit s f = { s with links := l } := fun s f => by
      unfold sendFlit
      split
      · exact ⟨_, rfl⟩
      · exact ⟨s.links, rfl⟩
    induction fs generalizing s with
    | nil => exact ⟨s.links, s.rx, rfl⟩
    | cons f fs ih =>
      obtain ⟨l, hl⟩ := flit s f
      obtain ⟨l', r, h⟩ := ih (sendFlit s f)
      exact ⟨l', r, by rw [List.foldl_cons, h, hl]⟩

/-- A packet sent, and the remote request that waits for its answer. -/
theorem Fresh.request (hs : Fresh n₀ s) {p : Packet} {r : Remote} (hr : r.use.Below n₀) :
    Fresh n₀ { sendPacket s p with remotes := s.remotes ++ [r] } := by
  obtain ⟨l, x, e⟩ := sendPacket_frame s p
  rw [e]
  exact (hs.remote hr).change

theorem fresh_sendRemote (hs : Fresh n₀ s) {tn dev : Nat} {m : FabricMsg} {use : RemoteUse} (hu : use.Below n₀) {t : State}
    (h : sendRemote s tn dev m use = some t) : Fresh n₀ t := by
  unfold sendRemote at h
  split at h
  · cases h
  · split at h
    · cases h
    · cases h
      exact (fresh_freshId hs).request hu

@[simp] theorem fresh_postRemote (hs : Fresh n₀ s) {tn dev va : Nat} {b : Bytes} {who : Poster} (hw : who.Below n₀) :
    Fresh n₀ (postRemote s tn dev va b who) := by
  unfold postRemote
  split
  · exact fresh_sendRemote (use := .post tn who) hs hw ‹_›
  · exact (fresh_freshId hs).remote (r := ⟨s.nextId, dev, .post tn who, s.now, false, true⟩) hw

@[simp] theorem fresh_askRemote (hs : Fresh n₀ s) {tn dev rva va : Nat} : Fresh n₀ (askRemote s tn dev rva va) := by
  unfold askRemote
  split
  · exact hs
  · split
    · exact fresh_sendRemote (use := .unit tn va) hs trivial ‹_›
    · simpa using hs

/-- Requests with their results as they were, or with none. -/
theorem Fresh.mapReqs (hs : Fresh n₀ s) {f : Req → Req} (hf : ∀ r, (f r).owed = r.owed) : Fresh n₀ { s with reqs := s.reqs.map f } :=
  hs.change (reqs := fun r hr => by
    obtain ⟨q, hq, rfl⟩ := List.mem_map.1 hr
    exact .inl ⟨q, hq, (hf q).symm⟩)

@[simp] theorem fresh_clearFetched {tn : Nat} : Fresh n₀ (clearFetched s tn) ↔ Fresh n₀ s := by simp [clearFetched]
@[simp] theorem fresh_reread (hs : Fresh n₀ s) {port : Bool} {a n : Nat} : Fresh n₀ (reread s port a n) :=
  hs.mapReqs fun r => by split <;> rfl
@[simp] theorem fresh_rereduce {a n : Nat} : Fresh n₀ (rereduce s a n) ↔ Fresh n₀ s := by simp [rereduce]
@[simp] theorem fresh_wroteMain (hs : Fresh n₀ s) {port : Bool} {a n : Nat} : Fresh n₀ (wroteMain s port a n) := by
  unfold wroteMain
  split <;> simp [hs]
@[simp] theorem fresh_writePlace (hs : Fresh n₀ s) {tn : Nat} {p : Place} {b : Bytes} {who : Poster} (hw : who.Below n₀) :
    Fresh n₀ (writePlace s tn p b who) := by
  unfold writePlace
  split <;> simp [hs, hw]

/-! ## The fault log -/

@[simp] theorem fresh_sendMsix {tn vec : Nat} : Fresh n₀ (sendMsix s tn vec) ↔ Fresh n₀ s := by
  unfold sendMsix
  split <;> simp

theorem fresh_writeRecord (hs : Fresh n₀ s) {tn addr agent access waiters : Nat} {kill : Bytes} {t : State} {i : Nat}
    (h : writeRecord s tn addr agent access waiters kill = .written t i) : Fresh n₀ t := by
  unfold writeRecord at h
  (repeat' split at h) <;> cases h <;> simp [hs]

@[simp] theorem fresh_logFaults (hs : Fresh n₀ s) {tn : Nat} : Fresh n₀ (logFaults s tn).1 := by
  unfold logFaults
  refine List.foldlRecOn (motive := fun (a : State × Bool) => Fresh n₀ a.1) s.faults _ hs fun a ha f _ => ?_
  split
  · exact ha
  · split
    · simpa using fresh_writeRecord ha ‹_›
    · exact ha
    · exact ha

@[simp] theorem fresh_writeWaiters (hs : Fresh n₀ s) {tn slot n : Nat} : Fresh n₀ (writeWaiters s tn slot n) := by
  unfold writeWaiters
  (repeat' split) <;> simp [hs]
@[simp] theorem fresh_pageFault (hs : Fresh n₀ s) {tn va agent : Nat} {need : Need} {forbidden : Bool} :
    Fresh n₀ (pageFault s tn va agent need forbidden).1 := by
  unfold pageFault
  (repeat' split) <;> simp [hs]

end Sys2Proof.Machine
end

section
/-! Identifiers stay fresh: memory, requests and owed results. -/

set_option Elab.async false

namespace Sys2Proof.Machine
open Sys2Proof
variable {n₀ : Nat} {s : State}

/-! ## Requests and results -/

/-- A choice of two states that are fresh. -/
theorem fresh_ite {c : Prop} [Decidable c] {a b : State} (ha : Fresh n₀ a) (hb : Fresh n₀ b) : Fresh n₀ (if c then a else b) := by
  split
  · exact ha
  · exact hb

@[simp] theorem updateWhere_mem {α : Type} {p : α → Bool} {h : α → α} {xs : List α} {y : α} :
    y ∈ updateWhere p h xs ↔ ∃ x, x ∈ xs ∧ (if p x then h x else x) = y := List.mem_map

/-- Requests taken out of the list. -/
theorem Fresh.filterReqs (hs : Fresh n₀ s) {p : Req → Bool} : Fresh n₀ { s with reqs := s.reqs.filter p } :=
  hs.change (reqs := fun r hr => .inl ⟨r, List.mem_of_mem_filter hr, rfl⟩)

theorem Fresh.updateReqs (hs : Fresh n₀ s) {p : Req → Bool} {f : Req → Req} (hf : ∀ r, (f r).owed = r.owed) :
    Fresh n₀ { s with reqs := updateWhere p f s.reqs } :=
  hs.mapReqs fun r => by split <;> simp [hf]

/-- A request more, for a result that was given its number before. -/
theorem Fresh.pushReq (hs : Fresh n₀ s) {r : Req} (hr : ∀ id, r.owed = some id → id < n₀) : Fresh n₀ { s with reqs := s.reqs ++ [r] } :=
  hs.change (reqs := fun q hq => by
    obtain hq | rfl := by simpa using hq
    · exact .inl ⟨q, hq, rfl⟩
    · exact .inr fun id e => (hr id e).trans_le hs.le)

theorem Fresh.filterOwed (hs : Fresh n₀ s) {p : Owed → Bool} : Fresh n₀ { s with owed := s.owed.filter p } :=
  hs.change (owed := fun r hr => .inl ⟨r, List.mem_of_mem_filter hr, rfl⟩)

theorem Fresh.updateOwed (hs : Fresh n₀ s) {p : Owed → Bool} {f : Owed → Owed} (hf : ∀ o, (f o).id = o.id) :
    Fresh n₀ { s with owed := updateWhere p f s.owed } :=
  hs.change (owed := fun r hr => by
    obtain ⟨q, hq, rfl⟩ := updateWhere_mem.1 hr
    exact .inl ⟨q, hq, by split <;> simp [hf]⟩)

@[simp] theorem fresh_writeSpace {sp : Space} {a n x : Nat} : Fresh n₀ (writeSpace s sp a n x) ↔ Fresh n₀ s := by
  unfold writeSpace
  split <;> simp
@[simp] theorem fresh_storePlain (hs : Fresh n₀ s) {port : Bool} {sp : Space} {a n x : Nat} : Fresh n₀ (storePlain s port sp a n x) := by
  unfold storePlain
  split <;> simp [hs]
@[simp] theorem fresh_captureWaits (hs : Fresh n₀ s) {at_ : Space → Nat → Bool} : Fresh n₀ (captureWaits s at_) :=
  hs.mapReqs fun r => by
    split
    · dsimp only
      (repeat' split) <;> rfl
    · rfl
@[simp] theorem fresh_noteDependences {at_ : Space → Nat → Bool} : Fresh n₀ (noteDependences s at_) ↔ Fresh n₀ s := by simp [noteDependences]
@[simp] theorem fresh_noteWrites (hs : Fresh n₀ s) {at_ : Space → Nat → Bool} : Fresh n₀ (noteWrites s at_) := by simp [noteWrites, hs]
@[simp] theorem fresh_serveBanks {port : Nat} {bs : List Nat} : Fresh n₀ (serveBanks s port bs) ↔ Fresh n₀ s := by simp [serveBanks]

/-- A step of an engine keeps the identifiers fresh where what it does once its banks have served it does. -/
theorem fresh_engineTurn (hs : Fresh n₀ s) {port : Nat} {ps : List (Space × Nat)} {k : State → State} (hk : ∀ t, Fresh n₀ t → Fresh n₀ (k t)) :
    Fresh n₀ (engineTurn s port ps k) := by
  obtain ⟨_, e⟩ | ⟨_, x, e⟩ := engineTurn_cases s port ps k
  · rw [e]
    exact hs
  · rw [e]
    exact hk _ (by simpa using hs)

@[simp] theorem fresh_served {r : Req} : Fresh n₀ (served s r) ↔ Fresh n₀ s := by
  unfold served
  split <;> simp
@[simp] theorem fresh_noteBound {gid : Nat} : Fresh n₀ (noteBound s gid) ↔ Fresh n₀ s := by
  unfold noteBound
  split <;> simp
@[simp] theorem fresh_addWrites (hs : Fresh n₀ s) {id : Option Nat} {ws : List RegWrite} : Fresh n₀ (addWrites s id ws) := by
  unfold addWrites
  split
  · exact hs
  · exact hs.updateOwed fun _ => rfl
@[simp] theorem fresh_fillOwed (hs : Fresh n₀ s) {id : Option Nat} {ws : List RegWrite} : Fresh n₀ (fillOwed s id ws) := by
  unfold fillOwed
  split
  · exact hs
  · exact hs.updateOwed fun _ => rfl
@[simp] theorem fresh_performLane {kind : ReqKind} {sp : Space} {acc : State × List RegWrite × Option Nat} (hs : Fresh n₀ acc.1) {l : LaneReq} :
    Fresh n₀ (performLane kind sp acc l).1 := by
  obtain ⟨t, ws, held⟩ := acc
  have ht : Fresh n₀ t := hs
  cases kind <;> simp [performLane, ht]
theorem fresh_performLanes {kind : ReqKind} {sp : Space} {acc : State × List RegWrite × Option Nat} (hs : Fresh n₀ acc.1)
    {ls : List LaneReq} : Fresh n₀ (ls.foldl (performLane kind sp) acc).1 :=
  List.foldlRecOn (motive := fun (a : State × List RegWrite × Option Nat) => Fresh n₀ a.1) ls _ hs fun _ ha _ _ => fresh_performLane ha
@[simp] theorem fresh_endReq (hs : Fresh n₀ s) {r : Req} {ws : List RegWrite} : Fresh n₀ (endReq s r ws) := by
  simp [endReq, hs.filterReqs]
@[simp] theorem fresh_performReq (hs : Fresh n₀ s) {r : Req} : Fresh n₀ (performReq s r) := by
  unfold performReq
  split
  · exact fresh_ite (hs.updateReqs fun _ => rfl) (fresh_endReq hs)
  · exact hs
  · exact fresh_endReq (fresh_performLanes hs)
@[simp] theorem fresh_performHalf (hs : Fresh n₀ s) {r : Req} : Fresh n₀ (performHalf s r) := by
  unfold performHalf
  split
  · have hl := fresh_performLane (kind := r.kind) (sp := r.space) (acc := (s, [], r.held)) (l := ‹_›) hs
    dsimp only
    split
    · exact fresh_endReq hl
    · refine ((fresh_addWrites hl).change (reqs := fun q hq => ?_))
      obtain ⟨p, hp, rfl⟩ := updateWhere_mem.1 hq
      refine .inl ⟨p, ?_, by split <;> rfl⟩
      unfold addWrites
      split <;> exact hp
  · exact hs.updateReqs fun _ => rfl
  · exact fresh_endReq hs
@[simp] theorem fresh_performStep (hs : Fresh n₀ s) {r : Req} : Fresh n₀ (performStep s r) := by
  unfold performStep
  split <;> simp [hs]
@[simp] theorem fresh_pushReqs (hs : Fresh n₀ s) {gid : Nat} {g : Group} {path : W32} {port : Nat} {sp : Space} {kind : ReqKind} {active : W32}
    {owed : Option Nat} {ls : List LaneReq} (ho : ∀ id, owed = some id → id < n₀) :
    Fresh n₀ (pushReqs s gid g path port sp kind active owed ls) := by
  simp only [pushReqs, fresh_noteBound]
  exact hs.foldl fun t x _ ht => (fresh_freshId ht).pushReq ho
@[simp] theorem fresh_bumpSeq : Fresh n₀ (bumpSeq s) ↔ Fresh n₀ s := by simp [bumpSeq]
@[simp] theorem fresh_releaseTo (hs : Fresh n₀ s) {gid : Nat} {k : Reach} {p : Req → Bool} : Fresh n₀ (releaseTo s gid k p) := by
  unfold releaseTo
  split
  · exact hs
  · exact hs.mapReqs fun r => by split <;> rfl
@[simp] theorem fresh_releaseHost (hs : Fresh n₀ s) {gid : Nat} : Fresh n₀ (releaseHost s gid) := by simp [releaseHost, hs]
@[simp] theorem fresh_widenReqs (hs : Fresh n₀ s) {gid : Nat} {ls : W32} : Fresh n₀ (widenReqs s gid ls) :=
  hs.mapReqs fun r => by split <;> rfl
@[simp] theorem fresh_arriveOwed (hs : Fresh n₀ s) {o : Owed} : Fresh n₀ (arriveOwed s o) := by
  unfold arriveOwed
  dsimp only
  split
  · exact hs.filterOwed
  · refine fresh_ite (fresh_updGroup.2 (fresh_arriveWrites.2 hs.filterOwed)) (fresh_ite hs.filterOwed ?_)
    exact (hs.filterOwed (p := fun q => q.id != o.id)).change

/-- An owed result more, with a number given to it before. -/
theorem Fresh.pushOwed (hs : Fresh n₀ s) {o : Owed} (ho : o.id < s.nextId) : Fresh n₀ { s with owed := s.owed ++ [o] } :=
  hs.change (owed := fun q hq => by
    obtain hq | rfl := by simpa using hq
    · exact .inl ⟨q, hq, rfl⟩
    · exact .inr ho)

section
variable {gid : Nat} {kind : OwedKind} {flag : Option Nat} {dests : List RegName} {ws : List RegWrite} {parts : Nat}

@[simp] theorem fresh_oweResult (hs : Fresh n₀ s) : Fresh n₀ (oweResult s gid kind flag dests ws parts).2 := by
  simp only [oweResult, fresh_updGroup]
  exact (fresh_freshId hs).pushOwed (Nat.lt_succ_self _)

/-- The number of a result is the one that was next, and below the next. -/
@[simp] theorem oweResult_fst : (oweResult s gid kind flag dests ws parts).1 = s.nextId := rfl
@[simp] theorem oweResult_nextId : (oweResult s gid kind flag dests ws parts).2.nextId = s.nextId + 1 := by simp [oweResult, freshId]

end
end Sys2Proof.Machine
end

section
/-! Identifiers stay fresh: the almanac, barriers, graphs, and groups that end. -/

set_option Elab.async false

namespace Sys2Proof.Machine
open Sys2Proof
variable {n₀ : Nat} {s : State}

/-! ## The almanac -/

@[simp] theorem fresh_storeM (hs : Fresh n₀ s) {tn va : Nat} {b : Bytes} : Fresh n₀ (storeM s tn va b) := by
  unfold storeM
  split <;> simp [hs]
@[simp] theorem fresh_almHeader (hs : Fresh n₀ s) {tn : Nat} : Fresh n₀ (almHeader s tn) := by
  unfold almHeader
  split <;> simp [hs]
@[simp] theorem fresh_storePieces (hs : Fresh n₀ s) {tn va n : Nat} {b : Bytes} : Fresh n₀ (storePieces s tn va n b) := by
  induction n generalizing s va b with
  | zero => exact hs
  | succ n ih => exact ih (fresh_storeM hs)
@[simp] theorem fresh_almRecord (hs : Fresh n₀ s) {tn ty agent key : Nat} {payload : Bytes} : Fresh n₀ (almRecord s tn ty agent key payload) := by
  unfold almRecord
  split
  · exact hs
  · exact fresh_ite hs (fresh_ite (by simp [hs]) (by simp [hs]))
@[simp] theorem fresh_almTake {tn : Nat} {e : AlmanacEntry} {owner : Nat} : Fresh n₀ (almTake s tn e owner) ↔ Fresh n₀ s := by simp [almTake]
@[simp] theorem fresh_almWait {tn ty key owner : Nat} : Fresh n₀ (almWait s tn ty key owner) ↔ Fresh n₀ s := by simp [almWait]
@[simp] theorem fresh_noteHome (hs : Fresh n₀ s) {tn agent owner a : Nat} : Fresh n₀ (noteHome s tn agent owner a) := by
  unfold noteHome
  (repeat' split) <;> simp [hs]
@[simp] theorem fresh_noteHomes (hs : Fresh n₀ s) {r : Req} : Fresh n₀ (noteHomes s r) :=
  fresh_ite (hs.foldl fun _ _ _ h => fresh_noteHome h) hs
@[simp] theorem fresh_drainReq (hs : Fresh n₀ s) {r : Req} : Fresh n₀ (drainReq s r) := by
  have h := fresh_performReq (r := r) (fresh_ite (c := r.held.isSome = true) hs (fresh_noteHomes (r := r) hs))
  exact fresh_ite (h.foldl fun _ _ _ h => fresh_reread h) h
@[simp] theorem fresh_drainReqs (hs : Fresh n₀ s) {keep : Req → Bool} {n : Nat} : Fresh n₀ (drainReqs keep n s) := by
  induction n generalizing s with
  | zero => exact hs
  | succ n ih =>
    unfold drainReqs
    split
    · exact ih (fresh_drainReq hs)
    · exact hs

/-! ## Groups that end -/

@[simp] theorem fresh_countTrap {tn code : Nat} : Fresh n₀ (countTrap s tn code) ↔ Fresh n₀ s := by simp [countTrap]
@[simp] theorem fresh_updBarrier {tm a : Nat} {h : Barrier → Barrier} : Fresh n₀ (updBarrier s tm a h) ↔ Fresh n₀ s := by simp [updBarrier]
@[simp] theorem fresh_sweepArray {arr : Nat} : Fresh n₀ (sweepArray s arr) ↔ Fresh n₀ s := by simp [sweepArray]
@[simp] theorem fresh_sweepCore {core : Nat} : Fresh n₀ (sweepCore s core) ↔ Fresh n₀ s := by simp [sweepCore]
@[simp] theorem fresh_sendLeave {e : KeyEntry} {entrant gid : Nat} {g : Group} : Fresh n₀ (sendLeave s e entrant gid g) ↔ Fresh n₀ s := by
  simp [sendLeave]
@[simp] theorem fresh_releaseHoldings {gid : Nat} {g : Group} : Fresh n₀ (releaseHoldings s gid g) ↔ Fresh n₀ s := by
  simp only [releaseHoldings, fresh_fields]
  refine fresh_foldl (fun t e => ?_) ..
  split
  · split <;> simp
  · rfl
@[simp] theorem fresh_updGraph {tn slot : Nat} {h : Graph → Graph} : Fresh n₀ (updGraph s tn slot h) ↔ Fresh n₀ s := by simp [updGraph]
@[simp] theorem fresh_testDeadlock {tn slot : Nat} : Fresh n₀ (testDeadlock s tn slot) ↔ Fresh n₀ s := by
  unfold testDeadlock
  dsimp only
  (repeat' split) <;> simp
@[simp] theorem fresh_leaveGraph {gid tm : Nat} {killed : Bool} : Fresh n₀ (leaveGraph s gid tm killed) ↔ Fresh n₀ s := by
  unfold leaveGraph
  (repeat' split) <;> simp

/-- The walks of the decoders as they were, or fewer of them. -/
theorem Fresh.dropWalks (hs : Fresh n₀ s) {f : Decoder → Decoder}
    (hf : ∀ d e, e ∈ (f d).entries → ∃ x, x ∈ d.entries ∧ x.wid = e.wid) :
    Fresh n₀ { s with decoders := s.decoders.map fun p => (p.1, f p.2) } :=
  hs.change (decoders := fun d e hd he => by
    obtain ⟨c, hc, rfl⟩ := List.mem_map.1 hd
    obtain ⟨x, hx, e'⟩ := hf _ _ he
    exact .inl ⟨c, x, hc, hx, e'⟩)

theorem Fresh.filterPatches (hs : Fresh n₀ s) {p : PatchReq → Bool} : Fresh n₀ { s with patches := s.patches.filter p } :=
  hs.change (patches := fun r hr => .inl ⟨r, List.mem_of_mem_filter hr, rfl⟩)

@[simp] theorem fresh_dropDecoderRequests (hs : Fresh n₀ s) {gid : Nat} : Fresh n₀ (dropDecoderRequests s gid) := by
  refine ((hs.filterPatches (p := fun p => p.gid != gid)).dropWalks (f := fun d => ⟨d.queue.filter fun r => r.gid != gid,
    d.entries.map fun e => { e with reqs := e.reqs.filter fun r => r.gid != gid }⟩) fun d e he => ?_).change
  obtain ⟨x, hx, rfl⟩ := List.mem_map.1 he
  exact ⟨x, hx, rfl⟩

@[simp] theorem fresh_endGroup (hs : Fresh n₀ s) {gid : Nat} {killed : Bool} : Fresh n₀ (endGroup s gid killed) := by
  unfold endGroup
  split
  · exact hs
  · split
    · exact hs
    next g _ _ =>
      simp only [fresh_sweepCore, fresh_leaveGraph]
      have h : Fresh n₀ (releaseTo (releaseHoldings s gid g) gid .team) := fresh_releaseTo (fresh_releaseHoldings.2 hs)
      refine fresh_ite (fresh_updGroup.2 (fresh_ite (fresh_dropDecoderRequests ?_) (fresh_updTeam.2 h)))
        (fresh_fields.2 (fresh_updGroup.2 (fresh_ite (fresh_dropDecoderRequests ?_) (fresh_updTeam.2 h))))
      all_goals
        exact (fresh_updTeam.2 h).change (owed := fun o ho => .inl ⟨o, List.mem_of_mem_filter ho, rfl⟩)
          (remotes := fun o ho => .inl ⟨o, List.mem_of_mem_filter ho, rfl⟩) (reqs := fun o ho => .inl ⟨o, List.mem_of_mem_filter ho, rfl⟩)

@[simp] theorem fresh_killTeam (hs : Fresh n₀ s) {tm : Nat} : Fresh n₀ (killTeam s tm) := by
  unfold killTeam
  split
  · exact hs.foldl fun _ _ _ h => fresh_endGroup h
  · exact hs
@[simp] theorem fresh_killGrid (hs : Fresh n₀ s) {gr : Nat} : Fresh n₀ (killGrid s gr) := by
  unfold killGrid
  split
  · simp only [fresh_updTenant, fresh_updGrid]
    exact hs.foldl fun _ _ _ h => fresh_killTeam h
  · exact hs
@[simp] theorem fresh_killScopeOf (hs : Fresh n₀ s) {gid : Nat} {sc : KillScope} : Fresh n₀ (killScopeOf s gid sc) := by
  unfold killScopeOf
  (repeat' split) <;> simp [hs]
end Sys2Proof.Machine
end

section
/-! Identifiers stay fresh: contexts that are taken, reset or stopped. -/

set_option Elab.async false

namespace Sys2Proof.Machine
open Sys2Proof
variable {n₀ : Nat} {s : State}

/-! ## Contexts that are saved, reset or stopped -/

@[simp] theorem fresh_landFlights {tms : List Nat} : Fresh n₀ (landFlights s tms) ↔ Fresh n₀ s := by
  unfold landFlights
  simp only [fresh_fields]
  rw [fresh_foldl fun _ _ => by split <;> simp, fresh_foldl fun _ _ => by split <;> simp]
@[simp] theorem fresh_saveStack {g : Group} : Fresh n₀ (saveStack s g) ↔ Fresh n₀ s := by simp [saveStack]
@[simp] theorem fresh_freeWaited {o : Owed} : Fresh n₀ (freeWaited s o) ↔ Fresh n₀ s := by simp [freeWaited]
@[simp] theorem fresh_arriveSampled (hs : Fresh n₀ s) {o : Owed} : Fresh n₀ (arriveSampled s o) := by
  unfold arriveSampled
  split <;> simp [hs]
@[simp] theorem fresh_drainOwed (hs : Fresh n₀ s) {gids : List Nat} : Fresh n₀ (drainOwed s gids) :=
  hs.foldl fun _ _ _ h => fresh_ite (fresh_arriveSampled h) h

/-- The state in which a tenant's context is taken: what it had on its way has arrived, and its stacks are written (R306). -/
def contextDrained (s : State) (tn : Nat) : State :=
  let t := landFlights (drainOwed (drainReqs (fun r => r.tenant == tn) s.reqs.length s) ((tenantGroups s tn).map fun p => p.1))
    ((tenantTeams s tn).map fun p => p.1)
  (tenantGroups t tn).foldl (fun s p => saveStack s p.2) t

theorem fresh_contextDrained (hs : Fresh n₀ s) {tn : Nat} : Fresh n₀ (contextDrained s tn) := by
  unfold contextDrained
  simp only [fresh_saveStack, implies_true, fresh_foldl, fresh_landFlights]
  exact fresh_drainOwed (fresh_drainReqs hs)

/-- A context that is taken names identifiers of the state it is taken from, and the state without it names no others. -/
theorem fresh_takeContext (hs : Fresh n₀ s) {tn area state : Nat} :
    Fresh n₀ (takeContext s tn area state).2 ∧ (takeContext s tn area state).1.Below (takeContext s tn area state).2.nextId := by
  have h : ∀ k, Fresh k (contextDrained s tn) → Fresh k (takeContext s tn area state).2 := fun k hk => by
    have hd : Fresh k (((tenantGroups s tn).map fun p => p.1).foldl dropDecoderRequests (contextDrained s tn)) :=
      hk.foldl fun _ _ _ ht => fresh_dropDecoderRequests ht
    exact (fresh_updTenant.2 hd : Fresh k (updTenant _ tn fun t => { t with graphs := [] })).change
      (owed := fun o ho => .inl ⟨o, List.mem_of_mem_filter ho, rfl⟩) (reqs := fun o ho => .inl ⟨o, List.mem_of_mem_filter ho, rfl⟩)
      (rasters := fun o ho => .inl ⟨o, List.mem_of_mem_filter ho, rfl⟩)
  obtain ⟨ho, hr, _, _, ⟨hp, hra, _⟩, _⟩ := (fresh_contextDrained hs (tn := tn)).ids
  refine ⟨h n₀ (fresh_contextDrained hs), SavedContext.Below.mono (k := (contextDrained s tn).nextId) ⟨?_, ?_, ?_, ?_⟩
    (h _ (fresh_contextDrained hs).ids.fresh).le⟩
  · exact fun o hm => ho o (List.mem_of_mem_filter hm)
  · intro r hm id e
    obtain ⟨q, hq, rfl⟩ := List.mem_map.1 hm
    refine hr q (List.mem_of_mem_filter hq) id ?_
    rw [← e]
    split <;> rfl
  · intro p hm
    obtain ⟨q, hq, rfl⟩ := List.mem_map.1 hm
    have := hp q (List.mem_of_mem_filter hq)
    split <;> exact this
  · exact fun r hm => hra r (List.mem_of_mem_filter hm)

@[simp] theorem fresh_storeBlocks (hs : Fresh n₀ s) {tn va : Nat} {b : Bytes} {who : Poster} (hw : who.Below n₀) :
    Fresh n₀ (storeBlocks s tn va b who) :=
  hs.foldl fun _ _ _ h => by split <;> simp [h, hw]
@[simp] theorem fresh_writeContext (hs : Fresh n₀ s) {tn : Nat} {c : SavedContext} {who : Poster} (hw : who.Below n₀) :
    Fresh n₀ (writeContext s tn c who) := fresh_storeBlocks hs hw
@[simp] theorem fresh_keepSaved (hs : Fresh n₀ s) {c : SavedContext} (hc : c.Below s.nextId) : Fresh n₀ (keepSaved s c) :=
  hs.change (saved := fun x hx => by
    simp only [keepSaved, List.mem_append, List.mem_cons, List.mem_filter] at hx ⊢
    obtain (rfl | ⟨h, _⟩) | (rfl | h) := hx
    · exact .inr hc
    · exact .inl (.inl h)
    · exact .inr hc
    · exact .inl (.inr h))

@[simp] theorem fresh_endExchanges (hs : Fresh n₀ s) {tn : Nat} : Fresh n₀ (endExchanges s tn) := by
  simp only [endExchanges, fresh_updTenant]
  refine Fresh.change (s := (s.xchgs.filter fun x => x.tenant == tn).foldl (fun s x => x.peers.foldl
      (fun s p => if p.dev = s.fabric.dev then s
        else sendPacket s ⟨s.fabric.dev, p.dev, partitionOf s tn, 0, .failure x.tag⟩) s) s) ?_
    (xchgs := fun o ho => .inl ⟨o, List.mem_of_mem_filter ho, rfl⟩)
  exact hs.foldl fun _ _ _ h => h.foldl fun _ _ _ h => fresh_ite h (fresh_sendPacket.2 h)

@[simp] theorem fresh_contextReset (hs : Fresh n₀ s) {tn : Nat} : Fresh n₀ (contextReset s tn) := by
  have h : Fresh n₀ (endExchanges ((tenantGroups s tn).foldl (fun s p => endGroup s p.1 true) s) tn) :=
    fresh_endExchanges (hs.foldl fun _ _ _ h => fresh_endGroup h)
  unfold contextReset
  refine (fresh_ite (fresh_almHeader (fresh_updTenant.2 h)) (fresh_updTenant.2 h)).change
    (patches := fun o ho => .inl ⟨o, List.mem_of_mem_filter ho, rfl⟩) (rasters := fun o ho => .inl ⟨o, List.mem_of_mem_filter ho, rfl⟩)
    (decoders := fun d e hd he => ?_)
  obtain ⟨c, hc, rfl⟩ := List.mem_map.1 hd
  exact .inl ⟨c, e, hc, List.mem_of_mem_filter he, rfl⟩

@[simp] theorem fresh_stopContext (hs : Fresh n₀ s) {tn : Nat} : Fresh n₀ (stopContext s tn) := by
  unfold stopContext
  split
  · exact hs
  next t _ =>
    obtain ⟨h, hb⟩ := fresh_takeContext (fresh_countTrap.2 hs) (tn := tn) (area := t.config.saveArea) (state := 2)
      (s := countTrap s tn 0x1A)
    have hw := fresh_writeContext h (tn := tn) (c := (takeContext (countTrap s tn 0x1A) tn t.config.saveArea 2).1) Poster.below_unit
    exact fresh_contextReset (fresh_keepSaved hw (hb.mono (fresh_writeContext h.ids.fresh Poster.below_unit).le))
@[simp] theorem fresh_machineCheckNoRecord (hs : Fresh n₀ s) {tn : Nat} : Fresh n₀ (machineCheckNoRecord s tn) := by
  simp [machineCheckNoRecord, hs]
@[simp] theorem fresh_killRecord (hs : Fresh n₀ s) {tn kw hdr bank lanes : Nat} : Fresh n₀ (killRecord s tn kw hdr bank lanes) := by
  unfold killRecord
  dsimp only
  split
  · simpa using fresh_writeRecord hs ‹_›
  · simpa using hs
  · simp [hs]
@[simp] theorem fresh_machineCheck (hs : Fresh n₀ s) {tn : Nat} : Fresh n₀ (machineCheck s tn) := by
  unfold machineCheck
  split
  · exact hs
  · dsimp only
    split
    · have := fresh_writeRecord hs ‹_›
      simp [this]
    · simp [hs]
    · simp [hs]
@[simp] theorem fresh_faultPage (hs : Fresh n₀ s) {tn va agent : Nat} {need : Need} {forbidden : Bool} :
    Fresh n₀ (faultPage s tn va agent need forbidden) := fresh_ite (fresh_machineCheckNoRecord (fresh_pageFault hs)) (fresh_pageFault hs)
end Sys2Proof.Machine
end

section
/-! Identifiers stay fresh: traps, windows, issue, and what arithmetic shares. -/

set_option Elab.async false

namespace Sys2Proof.Machine
open Sys2Proof
variable {n₀ : Nat} {s : State}

/-! ## Traps, and the spill and fill service -/

@[simp] theorem fresh_finish {i : Iss} {g : Group} : Fresh n₀ (finish s i g) ↔ Fresh n₀ s := by simp [finish]
@[simp] theorem fresh_done {i : Iss} : Fresh n₀ (done s i) ↔ Fresh n₀ s := by simp [done]
@[simp] theorem fresh_park {i : Iss} {why : Park} : Fresh n₀ (park s i why) ↔ Fresh n₀ s := by simp [park]
@[simp] theorem fresh_takeTrap (hs : Fresh n₀ s) {gid n code sub : Nat} {ln : W32} {addr : Nat} {word : W64} :
    Fresh n₀ (takeTrap s gid n code sub ln addr word) := by
  unfold takeTrap
  (repeat' split) <;> simp [hs]
@[simp] theorem fresh_raiseAt (hs : Fresh n₀ s) {i : Iss} {code sub : Nat} {ln : W32} {addr : Nat} :
    Fresh n₀ (raiseAt s i code sub ln addr) := fresh_takeTrap hs
@[simp] theorem fresh_raise (hs : Fresh n₀ s) {i : Iss} {code : Nat} {p : MCode} : Fresh n₀ (raise s i code p) := fresh_raiseAt hs
@[simp] theorem fresh_leaveHandler {gid : Nat} : Fresh n₀ (leaveHandler s gid) ↔ Fresh n₀ s := by
  unfold leaveHandler
  (repeat' split) <;> simp
@[simp] theorem fresh_spillEntries {gid b k : Nat} : Fresh n₀ (spillEntries s gid b k) ↔ Fresh n₀ s := by
  induction k generalizing s b with
  | zero => rfl
  | succ k ih =>
    unfold spillEntries
    split
    · rfl
    · simp [ih]
@[simp] theorem fresh_fillEntries {gid b k : Nat} : Fresh n₀ (fillEntries s gid b k) ↔ Fresh n₀ s := by
  induction k generalizing s b with
  | zero => rfl
  | succ k ih =>
    unfold fillEntries
    split
    · rfl
    · simp [ih]
@[simp] theorem fresh_spillRegisters {gid : Nat} {g : Group} {e : Nat} : Fresh n₀ (spillRegisters s gid g e) ↔ Fresh n₀ s := by
  simp [spillRegisters]
@[simp] theorem fresh_fillRegisters {gid : Nat} {g : Group} {sh : Nat} : Fresh n₀ (fillRegisters s gid g sh) ↔ Fresh n₀ s := by
  simp [fillRegisters]
@[simp] theorem fresh_fillLinks {gid : Nat} {g : Group} : Fresh n₀ (fillLinks s gid g) ↔ Fresh n₀ s := by simp [fillLinks]
theorem fresh_spillLinks (hs : Fresh n₀ s) {gid : Nat} {g : Group} {t : State} (h : spillLinks s gid g = some t) : Fresh n₀ t := by
  unfold spillLinks at h
  split at h
  · cases h
  · cases h
    simpa using hs

/-! ## The shared operations of an instruction -/

/-- Issuing keeps the identifiers fresh where the instruction's effect does. -/
theorem fresh_issueG (hs : Fresh n₀ s) {uf : Group → Uses} {p : MCode} {k : Iss → State} (hk : ∀ i, Fresh n₀ (k i)) :
    FreshOut n₀ (issueG s uf p k) := fun _ h => issueG_keeps h hs (fun _ _ _ => fresh_raise hs) fun i _ => hk i

theorem fresh_issue (hs : Fresh n₀ s) {u : Uses} {p : MCode} {k : Iss → State} (hk : ∀ i, Fresh n₀ (k i)) : FreshOut n₀ (issue s u p k) :=
  fresh_issueG hs hk

theorem fresh_readClock (hs : Fresh n₀ s) {i : Iss} {x : W64} {t : State} (h : readClock s i = some (x, t)) : Fresh n₀ t := by
  unfold readClock at h
  split at h
  · split at h <;> cases h
    simpa using hs
  · cases h
    exact fresh_almRecord hs
@[simp] theorem fresh_waitClock {i : Iss} : Fresh n₀ (waitClock s i) ↔ Fresh n₀ s := by simp [waitClock]

theorem fresh_valu (hs : Fresh n₀ s) {u : Uses} {p : MCode} {f : Iss → Nat → List RegWrite} : FreshOut n₀ (valu s u p f) :=
  fresh_issue hs fun _ => fresh_finish.2 hs
theorem fresh_salu (hs : Fresh n₀ s) {u : Uses} {cc : Bool} {f : Iss → List RegWrite × Codes} : FreshOut n₀ (salu s u cc f) :=
  fresh_issue hs fun _ => fresh_finish.2 hs
theorem fresh_falu (hs : Fresh n₀ s) {u : Uses} {p : MCode} {f : Iss → Nat → List RegWrite × FFlags} : FreshOut n₀ (falu s u p f) :=
  fresh_issue hs fun _ => fresh_finish.2 hs
@[simp] theorem fresh_unlessHandler (hs : Fresh n₀ s) {i : Iss} {t : State} (ht : Fresh n₀ t) : Fresh n₀ (unlessHandler s i t) :=
  fresh_ite (fresh_raise hs) ht

/-! ## Paths -/

@[simp] theorem fresh_noteDivergence {gid : Nat} : Fresh n₀ (noteDivergence s gid) ↔ Fresh n₀ s := by
  unfold noteDivergence
  split <;> simp
@[simp] theorem fresh_layAreas {a n : Nat} : Fresh n₀ (layAreas s a n) ↔ Fresh n₀ s := by simp [layAreas]
@[simp] theorem fresh_leaveLanes {gid : Nat} {path ls : W32} : Fresh n₀ (leaveLanes s gid path ls) ↔ Fresh n₀ s := by
  unfold leaveLanes
  split <;> simp
@[simp] theorem fresh_exitPath (hs : Fresh n₀ s) {i : Iss} : Fresh n₀ (exitPath s i) :=
  fresh_ite (fresh_endGroup hs)
    (fresh_noteDivergence.2 (fresh_updGroup.2 (fresh_widenReqs (fresh_leaveLanes.2 hs))))

end Sys2Proof.Machine
end

section
/-! Identifiers stay fresh: control, memory and barrier instructions. -/

set_option Elab.async false

namespace Sys2Proof.Machine
open Sys2Proof
variable {n₀ : Nat} {s : State}

/-! ## Moves of special registers, and control transfer -/

theorem fresh_execElect (hs : Fresh n₀ s) {md p : MCode} : FreshOut n₀ (execElect md p s) :=
  fresh_issue hs fun _ => fresh_finish.2 hs

theorem fresh_execMovsVr (hs : Fresh n₀ s) {d : VCode} {sr : BitVec 9} {p : MCode} {t : Ty} : FreshOut n₀ (execMovsVr d sr p t s) := by
  unfold execMovsVr
  split
  · refine fresh_issue hs fun i => ?_
    split
    · exact fresh_finish.2 (fresh_readClock hs ‹_›)
    · exact fresh_waitClock.2 hs
  · exact fresh_valu hs
theorem fresh_execMovsSr (hs : Fresh n₀ s) {d : KCode} {sr : BitVec 8} : FreshOut n₀ (execMovsSr d sr s) := by
  unfold execMovsSr
  refine fresh_issue hs fun i => ?_
  split
  · split
    · exact fresh_finish.2 (fresh_readClock hs ‹_›)
    · exact fresh_waitClock.2 hs
  · exact fresh_finish.2 hs
theorem fresh_execMovsFflagsWrite (hs : Fresh n₀ s) {a : KCode} : FreshOut n₀ (execMovsFflagsWrite a s) := by
  unfold execMovsFflagsWrite
  refine fresh_issue hs fun i => ?_
  simp [hs]
theorem fresh_execClock (hs : Fresh n₀ s) {d : KCode} : FreshOut n₀ (execClock d s) := by
  unfold execClock
  refine fresh_issue hs fun i => ?_
  split
  · exact fresh_finish.2 (fresh_readClock hs ‹_›)
  · exact fresh_waitClock.2 hs
theorem fresh_execNop (hs : Fresh n₀ s) : FreshOut n₀ (execNop s) := by
  unfold execNop
  refine fresh_issue hs fun i => ?_
  simp [hs]
theorem fresh_execBra (hs : Fresh n₀ s) {cond : BCond} {mk : MCode} {off : W32} : FreshOut n₀ (execBra cond mk off s) := by
  unfold execBra
  refine fresh_issue hs fun i => ?_
  (repeat' split) <;> simp [hs]
theorem fresh_execJmp (hs : Fresh n₀ s) {a : KCode} : FreshOut n₀ (execJmp a s) := by
  unfold execJmp
  refine fresh_issue hs fun i => ?_
  dsimp only
  (repeat' split) <;> simp [hs]
theorem fresh_execCall (hs : Fresh n₀ s) {sh : BitVec 9} {off : W32} : FreshOut n₀ (execCall sh off s) := by
  unfold execCall
  refine fresh_issueG hs fun i => fresh_unlessHandler hs (fresh_ite (fresh_raise hs) (fresh_ite ?_ (fresh_putGroup.2 hs)))
  split
  · exact fresh_spillLinks hs ‹_›
  · exact fresh_raiseAt hs
theorem fresh_execRet (hs : Fresh n₀ s) : FreshOut n₀ (execRet s) := by
  unfold execRet
  refine fresh_issue hs fun i => ?_
  (repeat' split) <;> simp [hs]
theorem fresh_execFrame (hs : Fresh n₀ s) {e : BitVec 32} : FreshOut n₀ (execFrame e s) := by
  unfold execFrame
  refine fresh_issueG hs fun i => ?_
  (repeat' split) <;> simp [hs]
theorem fresh_execRhead (hs : Fresh n₀ s) {s1 : VCode} {n1 : BitVec 6} {s2 : VCode} {n2 : BitVec 6} :
    FreshOut n₀ (execRhead s1 n1 s2 n2 s) := by
  unfold execRhead
  refine fresh_issue hs fun i => ?_
  simp [hs]
theorem fresh_execExit (hs : Fresh n₀ s) : FreshOut n₀ (execExit s) := by
  unfold execExit
  refine fresh_issue hs fun i => ?_
  simp [hs]
theorem fresh_execFork (hs : Fresh n₀ s) {kt : KCode} {ms : MCode} {off : W32} : FreshOut n₀ (execFork kt ms off s) := by
  unfold execFork
  refine fresh_issue hs fun i => ?_
  (repeat' split) <;> simp [hs]
theorem fresh_execJoin (hs : Fresh n₀ s) {kt : KCode} {off : W32} : FreshOut n₀ (execJoin kt off s) := by
  unfold execJoin
  refine fresh_issue hs fun i => ?_
  dsimp only
  (repeat' split) <;> simp [hs]
theorem fresh_execRetire (hs : Fresh n₀ s) {p : MCode} : FreshOut n₀ (execRetire p s) := by
  unfold execRetire
  refine fresh_issue hs fun i => ?_
  (repeat' split) <;> simp [hs]
theorem fresh_execRole (hs : Fresh n₀ s) {n : BitVec 2} : FreshOut n₀ (execRole n s) := by
  unfold execRole
  refine fresh_issue hs fun i => ?_
  (repeat' split) <;> simp [hs]
theorem fresh_execRoleGrant (hs : Fresh n₀ s) {gid : Nat} : FreshOut n₀ (execRoleGrant gid s) := by
  unfold execRoleGrant
  simp only [freshOut_next]
  (repeat' split) <;> simp [hs]
theorem fresh_execReorder (hs : Fresh n₀ s) {ka kb : KCode} {key : VCode} {p : MCode} : FreshOut n₀ (execReorder ka kb key p s) := by
  unfold execReorder
  refine fresh_issueG hs fun i => ?_
  dsimp only
  (repeat' split) <;> simp [hs]
@[simp] theorem fresh_reorderGroup (hs : Fresh n₀ s) {codes : List Nat} {ts : List (Nat × Group × Nat)} {p : Nat × Group} :
    Fresh n₀ (reorderGroup codes ts s p) := by
  unfold reorderGroup
  (repeat' split) <;> simp [hs]
@[simp] theorem fresh_reorderAll (hs : Fresh n₀ s) {codes : List Nat} {gs : List (Nat × Group)} {ts : List (Nat × Group × Nat)} :
    Fresh n₀ (reorderAll codes gs ts s) := by
  induction gs generalizing ts s with
  | nil => exact hs
  | cons p gs ih => exact ih (fresh_reorderGroup hs)
theorem fresh_execReorderMove (hs : Fresh n₀ s) {tm core : Nat} : FreshOut n₀ (execReorderMove tm core s) := by
  unfold execReorderMove
  simp only [freshOut_next]
  split
  · exact hs
  · exact hs
  · refine fresh_ite hs (fresh_ite (fresh_reorderAll hs) (hs.foldl fun _ _ _ h => ?_))
    split
    · exact fresh_raiseAt h
    · exact h

/-! ## Memory instructions -/

@[simp] theorem fresh_oweNothing {i : Iss} {flag : Option Nat} {dests : List RegName} : Fresh n₀ (oweNothing s i flag dests) ↔ Fresh n₀ s := by
  simp [oweNothing]

/-- The requests of an instruction, for a result that was given its number before. -/
theorem fresh_pushParts {α : Type} (hs : Fresh n₀ s) {gid : Nat} {g : Group} {path active : W32} {port : α → Nat} {sp : α → Space} {kind : ReqKind}
    {owed : Option Nat} {ls : α → List LaneReq} {xs : List α} (ho : ∀ id, owed = some id → id < n₀) :
    Fresh n₀ (xs.foldl (fun s x => pushReqs s gid g path (port x) (sp x) kind active owed (ls x)) s) :=
  hs.foldl fun _ _ _ h => fresh_pushReqs h ho

section
variable {gid : Nat} {kind : OwedKind} {flag : Option Nat} {dests : List RegName} {ws : List RegWrite} {parts : Nat}

/-- Once a result is owed its number is below the next. -/
theorem fresh_oweResult_succ (hs : Fresh n₀ s) : Fresh (s.nextId + 1) (oweResult s gid kind flag dests ws parts).2 :=
  oweResult_nextId ▸ (fresh_oweResult hs.ids.fresh).ids.fresh

end

theorem lt_succ_of_some {n id : Nat} (e : some n = some id) : id < n + 1 := by
  cases e
  exact Nat.lt_succ_self n

/-- What holds from the number after the next on holds from an earlier one on. -/
theorem Fresh.ofSucc {t : State} (hs : Fresh n₀ s) (h : Fresh (s.nextId + 1) t) : Fresh n₀ t :=
  ⟨hs.le.trans (Nat.le_of_succ_le h.le), h.ids⟩

theorem fresh_loadOp (hs : Fresh n₀ s) {sp : LSpace} {data addr : VCode} {base : KCode} {p : MCode} {wd : Width} {fs : FSel}
    {off : BitVec 12} : FreshOut n₀ (loadOp s sp data addr base p wd fs off) := by
  unfold loadOp
  refine fresh_issue hs fun i => ?_
  dsimp only
  split
  · exact fresh_raiseAt hs
  · refine fresh_ite hs (fresh_ite (fresh_oweNothing.2 (fresh_bumpSeq.2 hs)) ?_)
    exact fresh_done.2 (fresh_bumpSeq.2 (hs.ofSucc (fresh_pushParts (fresh_oweResult_succ hs) fun _ => lt_succ_of_some)))
theorem fresh_storeOp (hs : Fresh n₀ s) {sp : LSpace} {data addr : VCode} {base : KCode} {p : MCode} {wd : Width} {off : BitVec 12} :
    FreshOut n₀ (storeOp s sp data addr base p wd off) := by
  unfold storeOp
  refine fresh_issue hs fun i => ?_
  dsimp only
  split
  · exact fresh_raiseAt hs
  · exact fresh_ite hs (fresh_done.2 (fresh_bumpSeq.2 (fresh_pushParts hs nofun)))
@[simp] theorem fresh_issuedAt (hs : Fresh n₀ s) {id : Nat} {i : Iss} : Fresh n₀ (issuedAt s id i) := by
  unfold issuedAt
  split
  · exact hs.updateOwed fun _ => rfl
  · exact hs
@[simp] theorem fresh_sendAtomic (hs : Fresh n₀ s) {i : Iss} {op : AtomOp} {wide ret : Bool} {data : VCode} {p : MCode} {fs : FSel} {kind : OwedKind}
    {parts : List (Space × Nat × List LaneReq)} {have_ : List RegWrite} : Fresh n₀ (sendAtomic s i op wide ret data p fs kind parts have_) := by
  unfold sendAtomic
  refine fresh_ite (fresh_oweNothing.2 (fresh_bumpSeq.2 hs)) (fresh_done.2 (fresh_bumpSeq.2 ?_))
  cases ret
  · exact fresh_pushParts hs nofun
  · exact hs.ofSucc (fresh_pushParts (fresh_issuedAt (fresh_oweResult_succ hs)) fun _ => lt_succ_of_some)
theorem fresh_atomOp (hs : Fresh n₀ s) {sp : LSpace} {op : AtomOp} {data addr : VCode} {base : KCode} {p : MCode} {wd : Width}
    {fs : FSel} {off : BitVec 12} {ret : Bool} :
    FreshOut n₀ (atomOp s sp op data addr base p wd fs off ret) := by
  unfold atomOp
  refine fresh_issue hs fun i => ?_
  dsimp only
  (repeat' split) <;> simp [hs]
@[simp] theorem fresh_addAt (hs : Fresh n₀ s) {sp : Space} {a x : Nat} : Fresh n₀ (addAt s sp a x) := by
  unfold addAt
  split <;> simp [hs]
@[simp] theorem fresh_parkOnPages (hs : Fresh n₀ s) {i : Iss} {agent : Nat} {need : Need} {bad : List (Nat × Xl)} :
    Fresh n₀ (parkOnPages s i agent need bad) := fresh_park.2 (hs.foldl fun _ _ _ h => fresh_faultPage h)
@[simp] theorem fresh_sendRemoteLanes (hs : Fresh n₀ s) {i : Iss} {asking : Bool} {msg : Nat → Nat → FabricMsg} {rl : List (Nat × Nat × Nat)}
    {rets : List (Nat × Nat)} {places : List (Nat × Space × Nat)} {far : List (Nat × Nat × Nat)} :
    Fresh n₀ (sendRemoteLanes s i asking msg rl rets places far) := by
  refine fresh_park.2 (List.foldlRecOn (motive := fun (a : State × List Nat) => Fresh n₀ a.1) rl _ hs fun a ha x _ => ?_)
  split
  · exact fresh_sendRemote (use := .lane i.gid x.1) ha trivial ‹_›
  · exact ha
theorem fresh_atomMain (hs : Fresh n₀ s) {op : AtomOp} {data addr : VCode} {base : KCode} {p : MCode} {wd : Width} {sys : Bool} {fs : FSel}
    {off : BitVec 12} {ret : Bool} : FreshOut n₀ (atomMain s op data addr base p wd sys fs off ret) := by
  unfold atomMain
  refine fresh_issue hs fun i => ?_
  extract_lets las tn probes xs bad lanesOnly filled send aligned ask next start
  have hsend : ∀ rets places, Fresh n₀ (send rets places) := fun rets places => by
    have hf : Fresh n₀ filled := by simpa [filled] using hs
    exact fresh_ite hf (fresh_sendAtomic hf)
  have haligned : ∀ k, Fresh n₀ k → Fresh n₀ (aligned k) := fun k hk => by
    simp only [aligned]
    split
    · exact fresh_raiseAt hs
    · exact hk
  have hask : Fresh n₀ ask := fresh_sendRemoteLanes hs
  have hnext : ∀ rets places far, Fresh n₀ (next rets places far) := fun rets places far => by
    simp only [next]
    split
    · exact fresh_sendRemoteLanes hs
    · exact hsend _ _
  have hstart : Fresh n₀ start := fresh_ite (fresh_parkOnPages hs) (fresh_ite hask (haligned _ (hsend _ _)))
  split
  · refine fresh_ite hs ?_
    split
    · exact fresh_raiseAt hs
    · exact fresh_ite (hnext _ _ _) (fresh_ite (fresh_parkOnPages hs) (fresh_ite hask (haligned _ (hnext _ _ _))))
  · split
    · exact fresh_raiseAt hs
    · exact fresh_ite hs hstart
  · exact hstart

/-! ## Barriers, MWAIT and FENCE -/

theorem fresh_barrierOp (hs : Fresh n₀ s) {u : Uses} {base : KCode} {off : BitVec 12} {k : Iss → Team → Barrier → State}
    (hk : ∀ i t b, Fresh n₀ (k i t b)) : FreshOut n₀ (barrierOp s u base off k) := by
  unfold barrierOp
  refine fresh_issue hs fun i => ?_
  dsimp only
  (repeat' split) <;> simp [hs, hk]
@[simp] theorem fresh_endWait {i : Iss} {k : Codes} : Fresh n₀ (endWait s i k) ↔ Fresh n₀ s := by simp [endWait]
@[simp] theorem fresh_waitBarrier (hs : Fresh n₀ s) {i : Iss} {a : Nat} : Fresh n₀ (waitBarrier s i a) := by
  unfold waitBarrier
  (repeat' split) <;> simp [hs]
@[simp] theorem fresh_releaseWaiters {tm a : Nat} {b : Option Barrier} : Fresh n₀ (releaseWaiters s tm a b) ↔ Fresh n₀ s := by
  simp [releaseWaiters]
theorem fresh_execBarinit (hs : Fresh n₀ s) {data : VCode} {base : KCode} {off : BitVec 12} :
    FreshOut n₀ (execBarinit data base off s) := by
  unfold execBarinit
  refine fresh_issue hs fun i => ?_
  dsimp only
  (repeat' split) <;> simp [hs]
theorem fresh_execBarexp (hs : Fresh n₀ s) {data : VCode} {base : KCode} {off : BitVec 12} : FreshOut n₀ (execBarexp data base off s) :=
  fresh_barrierOp hs fun i t b => by simp [hs]
theorem fresh_execBararr (hs : Fresh n₀ s) {base : KCode} {off : BitVec 12} : FreshOut n₀ (execBararr base off s) :=
  fresh_barrierOp hs fun i t b => by (repeat' split) <;> simp [hs]
theorem fresh_execBarwait (hs : Fresh n₀ s) {base : KCode} {off : BitVec 12} : FreshOut n₀ (execBarwait base off s) := by
  unfold execBarwait
  split
  · exact fresh_issue hs fun i => fresh_waitBarrier hs
  · exact fresh_barrierOp hs fun i t b => fresh_waitBarrier hs
theorem fresh_execBaraw (hs : Fresh n₀ s) {base : KCode} {off : BitVec 12} : FreshOut n₀ (execBaraw base off s) := by
  unfold execBaraw
  split
  · exact fresh_issue hs fun i => fresh_waitBarrier hs
  · exact fresh_barrierOp hs fun i t b => by (repeat' split) <;> simp [hs]
theorem fresh_execMwait (hs : Fresh n₀ s) {data : VCode} {base : KCode} {p : MCode} {wd : Width} {fs : FSel} {off : BitVec 12} :
    FreshOut n₀ (execMwait data base p wd fs off s) := by
  unfold execMwait
  refine fresh_issue hs fun i => ?_
  dsimp only
  split
  · exact fresh_raiseAt hs
  · split
    · exact fresh_oweNothing.2 (fresh_bumpSeq.2 hs)
    · exact fresh_ite hs (fresh_done.2 (fresh_bumpSeq.2
        (hs.ofSucc (fresh_pushReqs (fresh_oweResult_succ hs) fun _ => lt_succ_of_some))))
theorem fresh_fenceOp (hs : Fresh n₀ s) {acq rel : Bool} {sc : Scope} : FreshOut n₀ (fenceOp s acq rel sc) := by
  unfold fenceOp
  refine fresh_issue hs fun i => ?_
  (repeat' split) <;> simp [hs]

/-! ## The steps of memory -/

theorem fresh_execAccessPerformed (hs : Fresh n₀ s) {id : Nat} : FreshOut n₀ (execAccessPerformed id s) := by
  unfold execAccessPerformed
  simp only [freshOut_next]
  split
  · exact hs
  · refine fresh_ite hs (fresh_ite (fresh_performStep hs) (fresh_ite hs (fresh_ite hs ?_)))
    split
    · exact fresh_almWait.2 hs
    · refine fresh_ite (fresh_performStep (fresh_served.2 (fresh_noteHomes hs))) (fresh_ite ?_ hs)
      exact (fresh_freshId hs).updateReqs fun _ => rfl
theorem fresh_execResultArrival (hs : Fresh n₀ s) {id : Nat} : FreshOut n₀ (execResultArrival id s) := by
  unfold execResultArrival
  simp only [freshOut_next]
  (repeat' split) <;> simp [hs]
theorem fresh_execMwaitWake (hs : Fresh n₀ s) {id : Nat} : FreshOut n₀ (execMwaitWake id s) := by
  unfold execMwaitWake
  simp only [freshOut_next]
  (repeat' split) <;> simp [hs, hs.filterReqs]
end Sys2Proof.Machine
end

section
/-! Identifiers stay fresh: tensors and copies. -/

set_option Elab.async false

namespace Sys2Proof.Machine
open Sys2Proof
variable {n₀ : Nat} {s : State}

/-! ## Tensors and copies -/

theorem fresh_execTidset (hs : Fresh n₀ s) {t : BitVec 6} {kb : KCode} {off : BitVec 12} : FreshOut n₀ (execTidset t kb off s) := by
  unfold execTidset
  refine fresh_issue hs fun i => ?_
  dsimp only
  (repeat' split) <;> simp [hs]
theorem fresh_execTidinv (hs : Fresh n₀ s) {t : BitVec 6} : FreshOut n₀ (execTidinv t s) := by
  unfold execTidinv
  refine fresh_issue hs fun i => ?_
  simp [hs]
@[simp] theorem fresh_slotUpd {arr slot : Nat} {h : OpSlot → OpSlot} : Fresh n₀ (slotUpd s arr slot h) ↔ Fresh n₀ s := by
  unfold slotUpd
  dsimp only
  (repeat' split) <;> simp
@[simp] theorem fresh_creditBarrier {c : Copy} {n : Nat} : Fresh n₀ (creditBarrier s c n) ↔ Fresh n₀ s := by
  unfold creditBarrier
  split <;> simp

/-- The state that a delivery leads to, if it leads to one, is fresh. -/
def FreshDelivered (n : Nat) : Delivered → Prop
  | .ok s | .sent s _ _ | .held s _ _ => Fresh n s
  | _ => True

theorem fresh_reduceHere (hs : Fresh n₀ s) {c : Copy} {sp : Space} {a z b : Nat} : FreshDelivered n₀ (reduceHere s c sp a z b) := by
  unfold reduceHere
  dsimp only
  split
  · split
    · exact fresh_writeSpace.2 hs
    · exact hs
  · split
    · trivial
    · split
      · trivial
      · split
        · exact fresh_noteHome hs
        · exact fresh_writeSpace.2 (fresh_noteHome hs)

theorem fresh_deliverElement (hs : Fresh n₀ s) {c : Copy} {m : Member} {n limit : Nat} : FreshDelivered n₀ (deliverElement s c m n limit) := by
  unfold deliverElement
  dsimp only
  split
  · exact fresh_slotUpd.2 hs
  · split
    · trivial
    · trivial
    · (repeat' split) <;> simp [FreshDelivered, hs]
    · split
      · split
        · trivial
        · exact fresh_reduceHere hs
      · split
        · exact fresh_storePlain (fresh_storePlain hs)
        · exact fresh_storePlain hs
        · exact fresh_storePlain hs

/-- A run of deliveries leads to a fresh state, and so does the delivery that stops it. -/
theorem fresh_deliverRun {k limit fuel : Nat} {c : Copy} (hs : Fresh n₀ s) : Fresh n₀ (deliverRun k limit fuel s c).1 ∧
    ∀ d, (deliverRun k limit fuel s c).2.2 = some d → FreshDelivered n₀ d := by
  induction fuel generalizing s c with
  | zero => exact ⟨hs, nofun⟩
  | succ fuel ih =>
    unfold deliverRun
    split
    · exact ⟨hs, nofun⟩
    next m _ =>
      split
      · exact ⟨hs, nofun⟩
      · have he := fresh_deliverElement hs (c := c) (m := m) (n := m.pos) (limit := limit)
        split
        next t ht =>
          rw [ht] at he
          exact ih (fresh_creditBarrier.2 (fresh_ite he (fresh_noteWrites he)))
        next t a old ht =>
          rw [ht] at he
          exact ⟨he, nofun⟩
        · exact ⟨hs, fun d e => by cases e; exact he⟩

theorem fresh_deliverRows {k p0 limit fuel : Nat} {c : Copy} (hs : Fresh n₀ s) : Fresh n₀ (deliverRows k p0 limit fuel s c).1 ∧
    ∀ d, (deliverRows k p0 limit fuel s c).2.2 = some d → FreshDelivered n₀ d := by
  induction fuel generalizing s c with
  | zero => exact ⟨hs, nofun⟩
  | succ fuel ih =>
    unfold deliverRows
    split
    · exact fresh_deliverRun hs
    · split
      · exact ⟨hs, nofun⟩
      next m _ =>
        split
        · exact ⟨hs, nofun⟩
        · dsimp only
          generalize he : min limit (c.rowEnd m.pos) = e
          have h := fresh_deliverRun (k := k) (limit := e) (fuel := e - m.pos) (c := c)
            (fresh_noteWrites hs (at_ := c.overwrites s m p0 m.pos e))
          split
          next t c' ht =>
            rw [ht] at h
            exact ih h.1
          · exact h

@[simp] theorem fresh_putCopy {c : Copy} : Fresh n₀ (putCopy s c) ↔ Fresh n₀ s := by simp [putCopy]
@[simp] theorem fresh_parkCopy (hs : Fresh n₀ s) {c : Copy} {va : Nat} {write forbidden : Bool} :
    Fresh n₀ (parkCopy s c va write forbidden) := by
  simp [parkCopy, hs]
@[simp] theorem fresh_askFor (hs : Fresh n₀ s) {c : Copy} {write : Bool} {dev : Nat} {m : FabricMsg} : Fresh n₀ (askFor s c write dev m).1 := by
  unfold askFor
  dsimp only
  split
  · exact fresh_sendRemote (use := .copy c.id) hs trivial ‹_›
  · exact hs
@[simp] theorem fresh_readObstacle (hs : Fresh n₀ s) {c : Copy} {e : Meets (Nat × Nat)} : Fresh n₀ (readObstacle s c e) := by
  unfold readObstacle
  split <;> simp [hs]
theorem fresh_writeObstacle (hs : Fresh n₀ s) {c : Copy} {e : Delivered} (he : FreshDelivered n₀ e) : Fresh n₀ (writeObstacle s c e) := by
  unfold writeObstacle
  split
  · exact fresh_parkCopy hs
  next t k ms =>
    exact fresh_putCopy.2 (List.foldlRecOn (motive := fun (a : State × Copy) => Fresh n₀ a.1) ms _ he fun _ h _ _ => fresh_askFor h)
  · exact fresh_putCopy.2 he
  · exact fresh_putCopy.2 he
  · exact fresh_putCopy.2 hs
  · exact fresh_putCopy.2 (fresh_almWait.2 hs)
theorem fresh_copyPiece (hs : Fresh n₀ s) {c : Copy} : Fresh n₀ (copyPiece s c) := by
  unfold copyPiece
  dsimp only
  split
  · exact hs
  · refine fresh_ite hs (fresh_engineTurn hs fun t ht => ?_)
    split
    next m _ =>
      generalize hr : deliverRows _ _ _ _ t _ = r
      have h := hr ▸ fresh_deliverRows ht
      split
      · exact fresh_putCopy.2 (fresh_noteWrites h.1)
      next d hd => exact fresh_noteWrites (fresh_writeObstacle h.1 (h.2 d hd))
    · refine fresh_ite (fresh_putCopy.2 ht) ?_
      split
      · exact fresh_readObstacle ht
      · exact fresh_putCopy.2 ht
theorem fresh_execCopyDelivery (hs : Fresh n₀ s) {id : Nat} : FreshOut n₀ (execCopyDelivery id s) := by
  unfold execCopyDelivery
  simp only [freshOut_next]
  (repeat' split) <;> simp [hs, fresh_copyPiece]
@[simp] theorem fresh_fillSlots {c : Copy} : Fresh n₀ (fillSlots s c) ↔ Fresh n₀ s := by
  unfold fillSlots
  split <;> simp
@[simp] theorem fresh_completeCopy (hs : Fresh n₀ s) {c : Copy} : Fresh n₀ (completeCopy s c) := by
  unfold completeCopy
  (repeat' split) <;> simp [hs]
theorem fresh_execCopyCompletion (hs : Fresh n₀ s) {id : Nat} : FreshOut n₀ (execCopyCompletion id s) := by
  unfold execCopyCompletion
  simp only [freshOut_next]
  (repeat' split) <;> simp [hs]
@[simp] theorem fresh_enterCopy (hs : Fresh n₀ s) {i : Iss} {fs : FSel} {ka : KCode} {c : Copy} : Fresh n₀ (enterCopy s i fs ka c) := by
  have h : Fresh n₀ (freshId (oweResult s i.gid .copy (i.flag fs) [kName i.g ka.toNat] [] 1).2).2 := fresh_freshId (fresh_oweResult hs)
  unfold enterCopy
  have hc : ∀ x, Fresh n₀ { (freshId (oweResult s i.gid .copy (i.flag fs) [kName i.g ka.toNat] [] 1).2).2 with copies := x } :=
    fun x => h.change
  refine fresh_done.2 (fresh_bumpSeq.2 (fresh_ite (fresh_ite ?_ (hc _)) (fresh_creditBarrier.2 (fresh_ite ?_ (hc _)))))
  all_goals exact (hc _).foldl fun _ _ _ h => fresh_slotUpd.2 h
theorem fresh_copyOp (hs : Fresh n₀ s) {u : Uses} {ka kb : KCode} {fs : FSel} {off : BitVec 12} {p : MCode}
    {accept : Iss → Team → Nat → Accept Copy} :
    FreshOut n₀ (copyOp s u ka kb fs off p accept) := by
  unfold copyOp
  refine fresh_issue hs fun i => ?_
  dsimp only
  (repeat' split) <;> simp [hs]
theorem fresh_execCbatch (hs : Fresh n₀ s) {ka : KCode} : FreshOut n₀ (execCbatch ka s) := by
  unfold execCbatch
  refine fresh_issue hs fun i => ?_
  simp [hs]
theorem fresh_execWaitb (hs : Fresh n₀ s) {kb : KCode} : FreshOut n₀ (execWaitb kb s) := by
  unfold execWaitb
  refine fresh_issue hs fun i => ?_
  dsimp only
  (repeat' split) <;> simp [hs]
end Sys2Proof.Machine
end

section
/-! Identifiers stay fresh: launches, graphs and rays. -/

set_option Elab.async false

namespace Sys2Proof.Machine
open Sys2Proof
variable {n₀ : Nat} {s : State}

/-! ## Launches, grids and graphs -/

@[simp] theorem fresh_withReadOr (hs : Fresh n₀ s) {α : Type} {i : Iss} {agent : Nat} {r : Got α} {fatal : Nat → State} {k : α → State}
    (hf : ∀ va, Fresh n₀ (fatal va)) (hk : ∀ x, Fresh n₀ (k x)) : Fresh n₀ (withReadOr s i agent r fatal k) := by
  unfold withReadOr
  (repeat' split) <;> simp [hs, hf, hk]

@[simp] theorem fresh_withRead (hs : Fresh n₀ s) {α : Type} {i : Iss} {agent : Nat} {p : MCode} {r : Got α} {k : α → State}
    (hk : ∀ x, Fresh n₀ (k x)) : Fresh n₀ (withRead s i agent p r k) :=
  fresh_withReadOr hs (fun va => by simp [hs]) hk

@[simp] theorem fresh_newGrid (hs : Fresh n₀ s) {tn q : Nat} {b : LaunchBlock} {graph : Option (Nat × Nat)} {root : Bool} :
    Fresh n₀ (newGrid s tn q b graph root).2 := fresh_updTenant.2 (fresh_fields.2 (fresh_freshId hs))

@[simp] theorem fresh_queueGrid (hs : Fresh n₀ s) {tn q : Nat} {b : LaunchBlock} {graph : Option (Nat × Nat)} {root : Bool} :
    Fresh n₀ (queueGrid s tn q b graph root) := fresh_updTenant.2 (fresh_newGrid hs)

@[simp] theorem fresh_removeTeam (hs : Fresh n₀ s) {tm : Nat} : Fresh n₀ (removeTeam s tm) := by
  unfold removeTeam
  split
  · exact hs
  · exact fresh_updGrid.2 (hs.change (reqs := fun r hr => .inl ⟨r, (List.mem_filter.1 hr).1, rfl⟩))

@[simp] theorem fresh_reapTeams (hs : Fresh n₀ s) : Fresh n₀ (reapTeams s) :=
  hs.foldl fun _ _ _ h => fresh_ite h (fresh_removeTeam h)

@[simp] theorem fresh_placeGroups {tn tm prio : Nat} {rs : List Reserve} {b : LaunchBlock} {cores : List Nat}
    {extra : List (Nat × W64)} {ixs : List Nat} (hs : Fresh n₀ s) : Fresh n₀ (placeGroups tn tm prio rs b cores extra ixs s) := by
  induction ixs generalizing s with
  | nil => exact hs
  | cons ix rest ih => exact ih (fresh_updTeam.2 (fresh_putGroup.2 (fresh_freshId (fresh_layAreas.2 hs))))

@[simp] theorem fresh_placeTeam (hs : Fresh n₀ s) {gr : Nat} {g : Grid} {index : Nat} {cores : List Nat} {tmem : Mem}
    {extra : List (Nat × W64)} : Fresh n₀ (placeTeam s gr g index cores tmem extra) :=
  fresh_fields.2 (fresh_updGrid.2 (fresh_placeGroups (fresh_fields.2 (fresh_freshId hs))))

@[simp] theorem fresh_placeHead (hs : Fresh n₀ s) {gr : Nat} {cores : List Nat} : Fresh n₀ (placeHead s gr cores) := by
  unfold placeHead
  split
  · exact hs
  next g _ =>
    have h : Fresh n₀ (if g.block.ports then
        ((upto cores.length).zip cores).foldl (fun s p => placeTeam s gr g p.1 [p.2] [] []) s
      else placeTeam s gr g g.placedTeams cores [] []) :=
      fresh_ite (hs.foldl fun _ _ _ h => fresh_placeTeam h) (fresh_placeTeam hs)
    exact fresh_ite (fresh_updTenant.2 (fresh_updGrid.2 h)) h

@[simp] theorem fresh_placeBatch (hs : Fresh n₀ s) {tn slot : Nat} {b : Batch} {cores : List Nat} :
    Fresh n₀ (placeBatch s tn slot b cores) := by
  unfold placeBatch
  split
  · exact hs
  · split
    · exact hs
    · refine fresh_engineTurn hs fun t ht => fresh_updGraph.2 ?_
      dsimp only
      split
      · exact fresh_placeTeam (fresh_newGrid ht)
      · exact fresh_newGrid ht

@[simp] theorem fresh_removeGrid (hs : Fresh n₀ s) {gr : Nat} : Fresh n₀ (removeGrid s gr) := by
  unfold removeGrid
  split
  · exact hs
  · have h := fun xs : List Nat => hs.foldl (f := removeTeam) (xs := xs) fun _ _ _ h => fresh_removeTeam h
    dsimp only
    split <;> simp [h]

/-- The state that a count of one on a word leads to, if it leads to one, is fresh. -/
def FreshAdded (n : Nat) : Added → Prop
  | .done s | .wait s => Fresh n s
  | .page _ _ => True

theorem fresh_addOne (hs : Fresh n₀ s) {tn : Nat} {w : WordAddr} : FreshAdded n₀ (addOne s tn w) := by
  unfold addOne
  split
  · exact hs
  · exact fresh_addAt hs
  · split
    · exact fresh_addAt hs
    · exact fresh_addAt hs
    · trivial
    · trivial
    · split
      · exact fresh_fields.2 hs
      · split
        · exact hs
        · split
          next t ht => exact fresh_sendRemote (use := .word _ _) hs trivial ht
          · exact hs

theorem fresh_execGridCompletion (hs : Fresh n₀ s) {gr : Nat} : FreshOut n₀ (execGridCompletion gr s) := by
  unfold execGridCompletion
  rw [freshOut_next]
  split
  · exact hs
  next g _ =>
    refine fresh_ite hs (fresh_ite (fresh_removeGrid hs) ?_)
    split
    · exact fresh_ite hs (fresh_updGrid.2 hs)
    · have h := fresh_addOne hs (tn := g.tenant) (w := g.block.completion)
      split
      next t ht => exact fresh_removeGrid (by rw [ht] at h; exact h)
      next t ht => exact (by rw [ht] at h; exact h)
      · exact fresh_faultPage (fresh_updGrid.2 hs)

@[simp] theorem fresh_closeBatch (hs : Fresh n₀ s) {tn slot node : Nat} : Fresh n₀ (closeBatch s tn slot node) := by
  unfold closeBatch
  (repeat' split) <;> simp [hs]
@[simp] theorem fresh_closeDue (hs : Fresh n₀ s) {tn slot k : Nat} : Fresh n₀ (closeDue s tn slot k) := by
  unfold closeDue
  (repeat' split) <;> simp [hs]
@[simp] theorem fresh_publish (hs : Fresh n₀ s) {tn slot k : Nat} : Fresh n₀ (publish s tn slot k) := by
  unfold publish
  dsimp only
  (repeat' split) <;> simp [hs]
@[simp] theorem fresh_endGraph (hs : Fresh n₀ s) {tn : Nat} {g : Graph} : Fresh n₀ (endGraph s tn g) := by simp [endGraph, hs]
@[simp] theorem fresh_signalIrq {i : Iss} {irq : Bool} {vec : BitVec 11} : Fresh n₀ (signalIrq s i irq vec) ↔ Fresh n₀ s := by
  unfold signalIrq
  split <;> simp

theorem fresh_execCommit (hs : Fresh n₀ s) {vs : VCode} {p : MCode} : FreshOut n₀ (execCommit vs p s) := by
  unfold execCommit
  refine fresh_issue hs fun i => ?_
  split
  · exact fresh_raise hs
  · refine fresh_ite (fresh_raise hs) (fresh_ite hs (fresh_done.2 (Fresh.foldl (fresh_releaseHost hs) fun _ _ _ h => fresh_publish h)))

theorem fresh_execGraphCompletion (hs : Fresh n₀ s) {tn gs : Nat} : FreshOut n₀ (execGraphCompletion tn gs s) := by
  unfold execGraphCompletion
  rw [freshOut_next]
  split
  · exact hs
  next g _ =>
    refine fresh_ite hs (fresh_ite (fresh_endGraph hs) ?_)
    split
    · exact fresh_ite hs (fresh_updGraph.2 hs)
    · have h := fresh_addOne hs (tn := tn) (w := g.completion)
      split
      next t ht => exact fresh_endGraph (by rw [ht] at h; exact h)
      next t ht => exact (by rw [ht] at h; exact h)
      · exact fresh_faultPage (fresh_updGraph.2 hs)

theorem fresh_execSignal (hs : Fresh n₀ s) {ka kb : KCode} {irq : Bool} {vec : BitVec 11} : FreshOut n₀ (execSignal ka kb irq vec s) := by
  unfold execSignal
  refine fresh_issue hs fun i => ?_
  have hfin : ∀ t, Fresh n₀ t → Fresh n₀ (done (bumpSeq (signalIrq t i irq vec)) i) :=
    fun t ht => fresh_done.2 (fresh_bumpSeq.2 (fresh_signalIrq.2 ht))
  dsimp only
  split
  · exact fresh_raise hs
  · exact fresh_raise hs
  · exact fresh_ite (fresh_raiseAt hs) (fresh_ite hs (hfin _ (fresh_addAt hs)))
  · refine fresh_ite hs ?_
    split
    · exact fresh_ite hs (fresh_ite (hfin _ hs) (fresh_raiseAt hs))
    · refine fresh_ite (fresh_raiseAt hs) (fresh_ite hs ?_)
      split
      · exact hfin _ (fresh_addAt hs)
      · exact hfin _ (fresh_addAt hs)
      · split
        next t ht => exact fresh_park.2 (fresh_sendRemote (use := .lane _ _) hs trivial ht)
        · exact fresh_raiseAt hs
      · exact fresh_parkOnPages hs

theorem fresh_execLaunch (hs : Fresh n₀ s) {ka : KCode} {q : BitVec 2} : FreshOut n₀ (execLaunch ka q s) := by
  unfold execLaunch
  refine fresh_issue hs fun i => fresh_withRead hs fun x => ?_
  (repeat' split) <;> simp [hs]

theorem fresh_execGlaunch (hs : Fresh n₀ s) {ka kb : KCode} {q : BitVec 2} : FreshOut n₀ (execGlaunch ka kb q s) := by
  unfold execGlaunch
  refine fresh_issue hs fun i => fresh_withRead hs fun x => ?_
  (repeat' split) <;> simp [hs]

@[simp] theorem fresh_noteHead {can : List (Nat × Nat × Ready × List Nat)} {r : Ready} : Fresh n₀ (noteHead can s r) ↔ Fresh n₀ s := by
  unfold noteHead
  split <;> simp
@[simp] theorem fresh_placementStep (hs : Fresh n₀ s) : Fresh n₀ (placementStep s) := by
  unfold placementStep
  dsimp only
  (repeat' split) <;> simp [hs]
theorem fresh_execHeadReserving (hs : Fresh n₀ s) {tn q : Nat} : FreshOut n₀ (execHeadReserving tn q s) := by
  unfold execHeadReserving
  simp only [freshOut_next]
  (repeat' split) <;> simp [hs]
theorem fresh_execTeamStart (hs : Fresh n₀ s) {tm : Nat} : FreshOut n₀ (execTeamStart tm s) := by
  unfold execTeamStart
  simp [hs]
@[simp] theorem fresh_dropGrid (hs : Fresh n₀ s) {tn q gr : Nat} : Fresh n₀ (dropGrid s tn q gr) := by simp [dropGrid, hs]
theorem fresh_execDependenceWordCheck (hs : Fresh n₀ s) {tn q : Nat} : FreshOut n₀ (execDependenceWordCheck tn q s) := by
  unfold execDependenceWordCheck
  simp only [freshOut_next]
  (repeat' split) <;> simp [hs]
theorem fresh_execRootProgramLaunch (hs : Fresh n₀ s) {tn : Nat} : FreshOut n₀ (execRootProgramLaunch tn s) := by
  unfold execRootProgramLaunch
  simp only [freshOut_next]
  (repeat' split) <;> simp [hs]
@[simp] theorem fresh_inboxWrite (hs : Fresh n₀ s) {t : Tenant} {off : Nat} {b : Bytes} : Fresh n₀ (inboxWrite s t off b) := by
  simp [inboxWrite, hs]
theorem fresh_execHostInboxWrite (hs : Fresh n₀ s) {tn off : Nat} {bytes : Bytes} : FreshOut n₀ (execHostInboxWrite tn off bytes s) := by
  unfold execHostInboxWrite
  simp only [freshOut_next]
  (repeat' split) <;> simp [hs]
theorem fresh_execWaitg (hs : Fresh n₀ s) {ka kb : KCode} {fs : FSel} : FreshOut n₀ (execWaitg ka kb fs s) := by
  unfold execWaitg
  refine fresh_issue hs fun i => ?_
  dsimp only
  (repeat' split) <;> simp [hs]
theorem fresh_execEmit (hs : Fresh n₀ s) {vd : VCode} {kb : KCode} {p : MCode} {fs : FSel} : FreshOut n₀ (execEmit vd kb p fs s) := by
  unfold execEmit
  refine fresh_issue hs fun i => ?_
  dsimp only
  (repeat' split) <;> simp [hs]
theorem fresh_execBatchTimeout (hs : Fresh n₀ s) {tn gs node : Nat} : FreshOut n₀ (execBatchTimeout tn gs node s) := by
  unfold execBatchTimeout
  simp only [freshOut_next]
  (repeat' split) <;> simp [hs]
theorem fresh_execBatchIdleClose (hs : Fresh n₀ s) {tn gs node : Nat} : FreshOut n₀ (execBatchIdleClose tn gs node s) := by
  unfold execBatchIdleClose
  simp only [freshOut_next]
  (repeat' split) <;> simp [hs]

/-! ## Rays -/

@[simp] theorem fresh_oweRay (hs : Fresh n₀ s) {i : Iss} {flag : Option Nat} {dests : List RegName} {ws : List RegWrite} :
    Fresh n₀ (oweRay s i flag dests ws) := by
  simp [oweRay, hs]
theorem fresh_execRinit (hs : Fresh n₀ s) {d a : VCode} {p aux : MCode} {fs : FSel} : FreshOut n₀ (execRinit d a p aux fs s) := by
  unfold execRinit
  refine fresh_issue hs fun i => ?_
  dsimp only
  (repeat' split) <;> simp [hs]
theorem fresh_execRbox (hs : Fresh n₀ s) {d a b : VCode} {p : MCode} {fs : FSel} : FreshOut n₀ (execRbox d a b p fs s) := by
  unfold execRbox
  refine fresh_issue hs fun i => ?_
  dsimp only
  (repeat' split) <;> simp [hs]
@[simp] theorem fresh_raiseBuffer (hs : Fresh n₀ s) {i : Iss} {b : TriBuf} {p : MCode} : Fresh n₀ (raiseBuffer s i b p) := by
  simp [raiseBuffer, hs]
theorem fresh_execRtri (hs : Fresh n₀ s) {d a b : VCode} {buf : BitVec 2} {p : MCode} {fs : FSel} :
    FreshOut n₀ (execRtri d a b buf p fs s) := by
  unfold execRtri
  refine fresh_issue hs fun i => ?_
  dsimp only
  (repeat' split) <;> simp [hs]
end Sys2Proof.Machine
end

section
/-! Identifiers stay fresh: decoders, walks and patches. -/

set_option Elab.async false

namespace Sys2Proof.Machine
open Sys2Proof
variable {n₀ : Nat} {s : State}

/-! ## Tables -/

theorem mem_tset {β : Type} [DecidableEq β] {d : β} {m : SMap β} {k : Nat} {v : β} {p : Nat × β} (h : p ∈ tset d m k v) :
    p = (k, v) ∨ p ∈ m := by
  unfold tset at h
  split at h
  · exact .inr (List.mem_of_mem_filter h)
  · exact mem_tput h

theorem mem_of_tfind_eq {β : Type} {m : SMap β} {k : Nat} {v : β} (h : tfind m k = some v) : (k, v) ∈ m := by
  induction m with
  | nil => cases h
  | cons q m ih =>
    obtain ⟨k', v'⟩ := q
    unfold tfind at h
    split at h
    next e =>
      cases h
      exact e ▸ List.mem_cons_self
    · exact List.mem_cons_of_mem _ (ih h)

/-! ## Decoders -/

theorem decoderOf_mem {core : Nat} {e : FordEntry} (h : e ∈ (decoderOf s core).entries) : (core, decoderOf s core) ∈ s.decoders := by
  unfold decoderOf tget at h ⊢
  cases hf : tfind s.decoders core with
  | none => simp [hf] at h
  | some d => exact mem_of_tfind_eq hf

theorem FreshIds.entry_lt (h : FreshIds s) {core : Nat} {e : FordEntry} (he : e ∈ (decoderOf s core).entries) : e.wid < s.nextId :=
  h.engines.2.2 _ e (decoderOf_mem he) he

/-- A decoder whose walks are those that it had, or new ones. -/
theorem fresh_putDecoder (hs : Fresh n₀ s) {core : Nat} {d : Decoder}
    (hd : ∀ e, e ∈ d.entries → e.wid < s.nextId) : Fresh n₀ (putDecoder s core d) :=
  hs.change (decoders := fun p e hp he => by
    rcases mem_tset hp with rfl | hp
    · exact .inr (hd e he)
    · exact .inl ⟨p, e, hp, he, rfl⟩)

theorem fresh_updEntry (hs : Fresh n₀ s) {core wid : Nat} {h : FordEntry → FordEntry} (hh : ∀ e, e.wid = wid → (h e).wid = wid) :
    Fresh n₀ (updEntry s core wid h) := by
  refine fresh_putDecoder hs fun e he => ?_
  obtain ⟨x, hx, rfl⟩ := List.mem_map.1 he
  dsimp only
  split
  next hw =>
    have e := beq_iff_eq.1 hw
    exact (hh x e).trans e.symm ▸ hs.ids.entry_lt hx
  · exact hs.ids.entry_lt hx

@[simp] theorem fresh_dropEntry (hs : Fresh n₀ s) {core wid : Nat} : Fresh n₀ (dropEntry s core wid) :=
  fresh_putDecoder hs fun _ he => hs.ids.entry_lt (List.mem_of_mem_filter he)

@[simp] theorem fresh_updQueued (hs : Fresh n₀ s) {core n : Nat} {r : DecReq} : Fresh n₀ (updQueued s core n r) :=
  fresh_putDecoder hs fun _ he => hs.ids.entry_lt he

@[simp] theorem fresh_dropQueued (hs : Fresh n₀ s) {core n : Nat} : Fresh n₀ (dropQueued s core n) :=
  fresh_putDecoder hs fun _ he => hs.ids.entry_lt he

@[simp] theorem fresh_updBuf {gid n : Nat} {h : TriBuf → TriBuf} : Fresh n₀ (updBuf s gid n h) ↔ Fresh n₀ s := fresh_updGroup

@[simp] theorem fresh_endRequest (hs : Fresh n₀ s) {r : DecReq} {cause : Nat} : Fresh n₀ (endRequest s r cause) :=
  fresh_fillOwed (fresh_updBuf.2 hs)

@[simp] theorem fresh_endUnserved (hs : Fresh n₀ s) {r : DecReq} {cause : Nat} : Fresh n₀ (endUnserved s r cause) :=
  fresh_endRequest (fresh_drawFree.2 hs)

theorem fresh_deliverTriangle (hs : Fresh n₀ s) {r : DecReq} {tri : Nat} {ws : List Nat} : Fresh n₀ (deliverTriangle s r tri ws).1 := by
  unfold deliverTriangle
  dsimp only
  split
  · simpa using hs
  · exact hs

theorem fresh_deliverAll {tri : Nat} {ws : List Nat} {rs : List DecReq} (hs : Fresh n₀ s) : Fresh n₀ (deliverAll tri ws rs s).1 := by
  induction rs generalizing s with
  | nil => exact hs
  | cons r rs ih =>
    unfold deliverAll
    dsimp only
    split
    · exact ih (fresh_endRequest (fresh_deliverTriangle hs))
    · exact ih (fresh_deliverTriangle hs)

@[simp] theorem fresh_stopQueued (hs : Fresh n₀ s) {core n : Nat} {r : DecReq} {e : DecStop} : Fresh n₀ (stopQueued s core n r e) := by
  unfold stopQueued
  dsimp only
  split
  · exact fresh_endUnserved (fresh_dropQueued hs)
  · exact fresh_faultPage (fresh_updQueued hs)
  · exact fresh_askRemote hs

@[simp] theorem fresh_joinWalk (hs : Fresh n₀ s) {core n : Nat} {r : DecReq} {head : Bytes} {e : FordEntry} {fb joined : Bool} :
    Fresh n₀ (joinWalk s core n r head e fb joined) :=
  fresh_updEntry (fresh_clearFetched.2 (fresh_dropQueued hs)) fun _ he => he

@[simp] theorem fresh_joinOrEnd (hs : Fresh n₀ s) {core n : Nat} {r : DecReq} {head : Bytes} {m : Mesh} {d : FordDir} {e : FordEntry}
    {fb : Bool} : Fresh n₀ (joinOrEnd s core n r head m d e fb) :=
  fresh_ite (fresh_joinWalk hs) (fresh_endRequest (fresh_dropQueued hs))

theorem mem_of_mem_evict {tn : Nat} {es xs : List FordEntry} (h : evict tn es = some xs) {e : FordEntry} (he : e ∈ xs) : e ∈ es := by
  unfold evict at h
  split at h
  · cases h
    exact he
  · obtain ⟨x, -, rfl⟩ := Option.map_eq_some_iff.1 h
    exact List.mem_of_mem_filter he

@[simp] theorem fresh_startWalk (hs : Fresh n₀ s) {core n : Nat} {r : DecReq} {head : Bytes} {m : Mesh} {k : Nat} {d : FordDir} {fb : Bool} :
    Fresh n₀ (startWalk s core n r head m k d fb) := by
  unfold startWalk
  dsimp only
  split
  · exact fresh_stopQueued hs
  · split
    · exact hs
    next es hes =>
      refine fresh_joinWalk (fresh_putDecoder (fresh_freshId hs) fun e he => ?_)
      rcases List.mem_append.1 he with he | he
      · exact (hs.ids.entry_lt (mem_of_mem_evict hes he)).trans (Nat.lt_succ_self _)
      · cases List.mem_singleton.1 he
        exact Nat.lt_succ_self _

theorem fresh_execDecoderServe (hs : Fresh n₀ s) {core n : Nat} : FreshOut n₀ (execDecoderServe core n s) := by
  unfold execDecoderServe
  rw [freshOut_next]
  dsimp only
  split
  · exact hs
  · refine fresh_ite hs (fresh_ite (fresh_endUnserved (fresh_dropQueued hs)) (fresh_engineTurn hs fun t ht => ?_))
    split
    · exact fresh_stopQueued ht
    · split
      · exact fresh_joinOrEnd ht
      · refine fresh_ite ht ?_
        split
        · exact fresh_joinOrEnd ht
        · exact fresh_startWalk ht

/-! ## Walks -/

/-- The state of a decoding step, where it leads to one, is fresh. -/
def FreshDec {α : Type} (n : Nat) (f : α → State) (d : Dec α) : Prop := ∀ x, d = .ok x → Fresh n (f x)

theorem fresh_meshWrite (hs : Fresh n₀ s) {st : Stream} {who : Poster} (hw : who.Below n₀) {ws : List (Nat × Bytes)} :
    FreshDec n₀ id (meshWrite s st who ws) := by
  unfold meshWrite
  split
  · rintro _ ⟨⟩
    exact fresh_fields.2 hs
  · refine List.foldlRecOn (motive := FreshDec n₀ id) _ _ (fun _ e => by cases e; exact hs) fun acc hacc w _ => ?_
    intro x hx
    split at hx
    · cases hx
    · split at hx
      · cases hx
        exact fresh_writePlace (hacc _ rfl) hw
      · cases hx
      · cases hx

theorem fresh_captureFord (hs : Fresh n₀ s) {st : Stream} {m : Mesh} {j : Nat} {w : Walk} {wss : List (List Window)} {who : Poster}
    (hw : who.Below n₀) : FreshDec n₀ Prod.fst (captureFord s st m j w wss who) := by
  unfold captureFord
  intro x hx
  simp only [bind, Except.bind] at hx
  split at hx
  · cases hx
  · split at hx
    · cases hx
      exact hs
    · split at hx
      · cases hx
      · split at hx
        · cases hx
        · split at hx
          · cases hx
          · split at hx
            · cases hx
            · split at hx
              · cases hx
              next h =>
                cases hx
                have ht := fresh_meshWrite hs hw _ h
                exact fresh_ite ht (fresh_noteWrites ht)

@[simp] theorem fresh_failWalk (hs : Fresh n₀ s) {core : Nat} {e : FordEntry} {cause : Nat} : Fresh n₀ (failWalk s core e cause) :=
  (fresh_dropEntry hs).foldl fun _ _ _ h => fresh_endRequest h

@[simp] theorem fresh_settleWalk (hs : Fresh n₀ s) {core : Nat} {e : FordEntry} : Fresh n₀ (settleWalk s core e) :=
  fresh_updEntry hs fun _ _ => by split <;> rfl

@[simp] theorem fresh_judgeRequests (hs : Fresh n₀ s) {e : FordEntry} {xs : List Span} : Fresh n₀ (judgeRequests s e xs).1 :=
  hs.foldl fun _ _ _ h => fresh_endRequest h

@[simp] theorem fresh_stopWalk (hs : Fresh n₀ s) {core : Nat} {e : FordEntry} {stop : DecStop} : Fresh n₀ (stopWalk s core e stop) := by
  unfold stopWalk
  split
  · exact fresh_failWalk hs
  · refine fresh_faultPage (fresh_updEntry hs ?_)
    exact fun _ _ => rfl
  · exact fresh_askRemote (fresh_updEntry (wid := e.wid) hs fun _ _ => rfl)

theorem fresh_captureWalk (hs : Fresh n₀ s) {core : Nat} {e : FordEntry} (he : e.wid < n₀) {m : Mesh} {wss : List (List Window)} :
    Fresh n₀ (captureWalk s core e m wss) := by
  unfold captureWalk
  split
  · exact fresh_stopWalk hs
  next h => exact fresh_settleWalk (fresh_clearFetched.2 (fresh_captureFord (who := .op e.wid) hs he _ h))

theorem fresh_stepWalk (hs : Fresh n₀ s) {core : Nat} {e : FordEntry} (he : e.wid < n₀) {m : Mesh} : Fresh n₀ (stepWalk s core e m) := by
  unfold stepWalk
  dsimp only
  split
  · exact fresh_failWalk (fresh_judgeRequests hs)
  · exact fresh_stopWalk hs
  · refine fresh_ite (fresh_dropEntry (fresh_judgeRequests hs)) ?_
    split
    · exact fresh_settleWalk (fresh_clearFetched.2 (fresh_judgeRequests hs))
    · refine fresh_captureWalk (fresh_deliverAll (fresh_judgeRequests hs)) ?_
      exact he

theorem fresh_execWalkStep (hs : Fresh n₀ s) {core wid : Nat} : FreshOut n₀ (execWalkStep core wid s) := by
  unfold execWalkStep
  rw [freshOut_next]
  refine hs.lift fun hs => ?_
  split
  · exact hs
  next e hf =>
    have he := hs.ids.entry_lt (List.mem_of_find?_eq_some hf)
    refine fresh_ite hs (fresh_ite (fresh_failWalk hs) ?_)
    split
    · exact fresh_failWalk hs
    · exact fresh_engineTurn hs fun t ht => fresh_captureWalk ht he
    · exact fresh_ite (fresh_settleWalk hs) (fresh_engineTurn hs fun t ht => fresh_stepWalk ht he)

/-! ## MDEC, TBREAD and MSTAT -/

theorem fresh_execMdec (hs : Fresh n₀ s) {a b : VCode} {t : BitVec 6} {buf : BitVec 2} {p : MCode} {fs : FSel} :
    FreshOut n₀ (execMdec a b t buf p fs s) := by
  unfold execMdec
  refine fresh_issue hs fun i => ?_
  dsimp only
  split
  · exact fresh_raise hs
  · refine fresh_ite (fresh_raise hs) (fresh_ite (fresh_oweNothing.2 (fresh_updGroup.2 hs)) (fresh_ite (fresh_park.2 hs) ?_))
    refine fresh_done.2 (fresh_bumpSeq.2 (fresh_putDecoder (fresh_updBuf.2 (fresh_updGroup.2 (fresh_oweResult hs))) fun e he => ?_))
    rw [show ∀ t : State, ∀ g b h, (updBuf t g b h).nextId = t.nextId from fun t g b h => by simp [updBuf]]
    have := hs.ids.entry_lt he
    simp
    omega

/-! ## MPATCH -/

theorem fresh_updPatch (hs : Fresh n₀ s) {n : Nat} {r : PatchReq} (hr : r.owed < n₀) : Fresh n₀ (updPatch s n r) :=
  hs.change (patches := fun p hp => by
    rcases List.mem_or_eq_of_mem_set hp with h | rfl
    · exact .inl ⟨p, h, rfl⟩
    · exact .inr (hr.trans_le hs.le))

theorem mem_of_mem_removeIx {α : Type} {xs : List α} {n : Nat} {x : α} (h : x ∈ removeIx xs n) : x ∈ xs := by
  induction xs generalizing n with
  | nil => exact h
  | cons y ys ih =>
    cases n with
    | zero => exact List.mem_cons_of_mem _ h
    | succ n => exact (List.mem_cons.1 h).elim (fun e => e ▸ List.mem_cons_self) fun h => List.mem_cons_of_mem _ (ih h)

@[simp] theorem fresh_endPatch (hs : Fresh n₀ s) {n : Nat} {r : PatchReq} {status : Nat} : Fresh n₀ (endPatch s n r status) := by
  have h : Fresh n₀ { s with patches := removeIx s.patches n } :=
    hs.change (patches := fun p hp => .inl ⟨p, mem_of_mem_removeIx hp, rfl⟩)
  unfold endPatch
  exact fresh_fillOwed h

theorem fresh_stopPatch (hs : Fresh n₀ s) {n : Nat} {r : PatchReq} (hr : r.owed < n₀) {stop : DecStop} : Fresh n₀ (stopPatch s n r stop) := by
  unfold stopPatch
  split
  · exact fresh_endPatch hs
  · refine fresh_faultPage (fresh_updPatch hs ?_)
    exact hr
  · exact fresh_askRemote hs

@[simp] theorem fresh_purgeFords (hs : Fresh n₀ s) {st : Stream} {v : Nat} : Fresh n₀ (purgeFords s st v) :=
  hs.dropWalks (f := fun d => { d with entries := d.entries.filter _ }) fun _ e he => ⟨e, List.mem_of_mem_filter he, rfl⟩

theorem fresh_applyPatch (hs : Fresh n₀ s) {n : Nat} {r : PatchReq} (hr : r.owed < n₀) {m : Mesh} : Fresh n₀ (applyPatch s n r m) := by
  unfold applyPatch
  split
  · exact fresh_stopPatch hs hr
  · refine fresh_ite (fresh_endPatch hs) ?_
    split
    · exact fresh_stopPatch hs hr
    next h =>
      have ht := fresh_noteWrites (at_ := fun _ _ => true) (fresh_purgeFords (st := r.stream) (v := r.vertex)
        (fresh_clearFetched (tn := r.stream.tenant).2 (fresh_meshWrite (who := .op r.owed) hs hr _ h)))
      exact fresh_ite (fresh_endPatch ht) (fresh_updPatch ht hr)

theorem fresh_readPatch (hs : Fresh n₀ s) {n : Nat} {r : PatchReq} (hr : r.owed < n₀) : Fresh n₀ (readPatch s n r) := by
  unfold readPatch
  split
  · exact fresh_stopPatch hs hr
  · exact fresh_ite (fresh_endPatch hs) (fresh_updPatch (fresh_clearFetched.2 hs) hr)

theorem fresh_execMpatch (hs : Fresh n₀ s) {d a b : VCode} {t : BitVec 6} {p : MCode} {fs : FSel} :
    FreshOut n₀ (execMpatch d a b t p fs s) := by
  unfold execMpatch
  refine fresh_issue hs fun i => ?_
  dsimp only
  split
  · exact fresh_raise hs
  · refine fresh_ite (fresh_raise hs) (fresh_ite (fresh_oweNothing.2 hs) (fresh_done.2 (fresh_bumpSeq.2 ?_)))
    refine (fresh_oweResult hs).change (patches := fun q hq => (List.mem_append.1 hq).imp (fun h => ⟨q, h, rfl⟩) fun h => ?_)
    cases List.mem_singleton.1 h
    simp

theorem fresh_execStreamHoldGrant (hs : Fresh n₀ s) {n : Nat} : FreshOut n₀ (execStreamHoldGrant n s) := by
  unfold execStreamHoldGrant
  rw [freshOut_next]
  refine hs.lift fun hs => ?_
  split
  · exact hs
  next r hr =>
    have hr : r.owed < s.nextId := hs.ids.engines.1 r (List.mem_of_getElem? hr)
    split
    · exact fresh_ite hs (fresh_endPatch hs)
    · refine fresh_ite hs (fresh_ite (fresh_endPatch hs) ?_)
      split
      · exact fresh_engineTurn hs fun t ht => fresh_readPatch ht hr
      · exact fresh_ite (fresh_ite hs (fresh_updPatch hs hr)) (fresh_ite hs (fresh_engineTurn hs fun t ht => fresh_applyPatch ht hr))
@[simp] theorem fresh_oweWord (hs : Fresh n₀ s) {i : Iss} {flag : Option Nat} {d : VCode} {p : MCode} {x : W32} :
    Fresh n₀ (oweWord s i flag d p x) := by
  simp [oweWord, hs]
theorem fresh_execTbread (hs : Fresh n₀ s) {d a : VCode} {buf : BitVec 2} {p : MCode} {fs : FSel} :
    FreshOut n₀ (execTbread d a buf p fs s) := by
  unfold execTbread
  refine fresh_issue hs fun i => ?_
  dsimp only
  (repeat' split) <;> simp [hs]
theorem fresh_execMstatBuf (hs : Fresh n₀ s) {d : VCode} {buf : BitVec 2} {p : MCode} {fs : FSel} :
    FreshOut n₀ (execMstatBuf d buf p fs s) := by
  unfold execMstatBuf
  refine fresh_issue hs fun i => ?_
  (repeat' split) <;> simp [hs]

theorem fresh_execMstatFord (hs : Fresh n₀ s) {d a : VCode} {t : BitVec 6} {p : MCode} {fs : FSel} :
    FreshOut n₀ (execMstatFord d a t p fs s) := by
  unfold execMstatFord
  refine fresh_issue hs fun i => ?_
  dsimp only
  split
  · exact fresh_raise hs
  · refine fresh_ite (fresh_raise hs) (fresh_ite (fresh_oweNothing.2 hs) (fresh_ite (fresh_park.2 hs) (fresh_withRead hs fun x => ?_)))
    have hgive : ∀ x, Fresh n₀ (oweWord (clearFetched s i.g.tenant) i (i.flag fs) d p x) :=
      fun x => fresh_oweWord (fresh_clearFetched.2 hs)
    split
    · exact fresh_raiseAt hs
    · split
      · exact hgive _
      · refine fresh_ite (hgive _) (fresh_withRead hs fun x => ?_)
        split
        · exact fresh_raiseAt hs
        · exact hgive _
end Sys2Proof.Machine
end

section
/-! Identifiers stay fresh: clauses, channels, processions and the rasteriser. -/

set_option Elab.async false

namespace Sys2Proof.Machine
open Sys2Proof
variable {n₀ : Nat} {s : State}

/-! ## Clauses -/

@[simp] theorem fresh_fetchTrap (hs : Fresh n₀ s) {gid n code : Nat} {word : W64} : Fresh n₀ (fetchTrap s gid n code word) := by
  unfold fetchTrap
  dsimp only
  (repeat' split) <;> simp [hs]
@[simp] theorem fresh_setFetchWait {gid n : Nat} {w : Option (Nat × Bool)} : Fresh n₀ (setFetchWait s gid n w) ↔ Fresh n₀ s := by
  simp [setFetchWait]
@[simp] theorem fresh_prepareSlot (hs : Fresh n₀ s) {gid n : Nat} : Fresh n₀ (prepareSlot s gid n) := by
  unfold prepareSlot
  dsimp only
  (repeat' split) <;> simp [hs]
@[simp] theorem fresh_beginClause {c : Cand} : Fresh n₀ (beginClause s c) ↔ Fresh n₀ s := by simp [beginClause]

theorem fresh_execClauseSelection (hs : Fresh n₀ s) {core part : Nat} : FreshOut n₀ (execClauseSelection core part s) := by
  have hprep : ∀ (xs : List (Nat × Group)) (t : State), Fresh n₀ t →
      Fresh n₀ (xs.foldl (fun s q => prepareSlot (prepareSlot s q.1 0) q.1 1) t) :=
    fun xs t ht => ht.foldl fun _ _ _ h => fresh_prepareSlot (fresh_prepareSlot h)
  unfold execClauseSelection
  dsimp only
  split
  · exact freshOut_next.2 (hprep _ _ hs)
  · refine freshOut_next.2 (fresh_fields.2 (Fresh.foldl (Fresh.foldl (hprep _ _ hs) fun _ _ _ h => ?_) fun _ _ _ h => ?_))
    · exact fresh_beginClause.2 h
    · exact fresh_updGroup.2 h

theorem fresh_execStarvationPromotion (hs : Fresh n₀ s) {gid slot : Nat} : FreshOut n₀ (execStarvationPromotion gid slot s) := by
  unfold execStarvationPromotion
  simp [hs]
theorem fresh_execCongestionLevelUpdate (hs : Fresh n₀ s) {cluster level : Nat} :
    FreshOut n₀ (execCongestionLevelUpdate cluster level s) := by
  unfold execCongestionLevelUpdate
  simp only [freshOut_next]
  (repeat' split) <;> simp [hs]

/-! ## Channels -/

@[simp] theorem fresh_sampleChannel {i : Iss} : Fresh n₀ (sampleChannel s i) ↔ Fresh n₀ s := by
  unfold sampleChannel
  split <;> simp
theorem fresh_execSend (hs : Fresh n₀ s) {ch : BitVec 6} {data : VCode} {p : MCode} : FreshOut n₀ (execSend ch data p s) := by
  unfold execSend
  refine fresh_issue hs fun i => ?_
  dsimp only
  (repeat' split) <;> simp [hs]
theorem fresh_takeEntry (hs : Fresh n₀ s) {ch : BitVec 6} {data : VCode} {p : MCode} {fs : FSel} {pop : Bool} :
    FreshOut n₀ (takeEntry s ch data p fs pop) := by
  unfold takeEntry
  refine fresh_issue hs fun i => ?_
  dsimp only
  (repeat' split) <;> simp [hs]
theorem fresh_execRecv (hs : Fresh n₀ s) {ch : BitVec 6} {data : VCode} {p : MCode} {fs : FSel} : FreshOut n₀ (execRecv ch data p fs s) :=
  fresh_takeEntry hs
theorem fresh_execPeek (hs : Fresh n₀ s) {ch : BitVec 6} {data : VCode} {p : MCode} {fs : FSel} : FreshOut n₀ (execPeek ch data p fs s) :=
  fresh_takeEntry hs
theorem fresh_execChannelEntryArrival (hs : Fresh n₀ s) {n : Nat} : FreshOut n₀ (execChannelEntryArrival n s) := by
  unfold execChannelEntryArrival
  simp only [freshOut_next]
  (repeat' split) <;> simp [hs]
theorem fresh_execChannelCreditReturn (hs : Fresh n₀ s) {n : Nat} : FreshOut n₀ (execChannelCreditReturn n s) := by
  unfold execChannelCreditReturn
  simp only [freshOut_next]
  (repeat' split) <;> simp [hs]
theorem fresh_execChannelStallBudget (hs : Fresh n₀ s) {gid : Nat} : FreshOut n₀ (execChannelStallBudget gid s) := by
  unfold execChannelStallBudget
  simp only [freshOut_next]
  (repeat' split) <;> simp [hs]

/-! ## Processions -/

theorem fresh_openDomain (hs : Fresh n₀ s) {tn die : Nat} {dev tr : Bool} {base : W32} {h : W64} {t : State}
    (ht : openDomain s tn die dev tr base = some (h, t)) : Fresh n₀ t := by
  unfold openDomain at ht
  split at ht
  · cases ht
  · split at ht
    · cases ht
    · cases ht
      exact fresh_updTenant.2 hs

theorem fresh_execOopen (hs : Fresh n₀ s) {seq : VCode} {dom : KCode} {dev tr : Bool} : FreshOut n₀ (execOopen seq dom dev tr s) := by
  unfold execOopen
  refine fresh_issue hs fun i => ?_
  split
  · exact fresh_raise hs
  next h => exact fresh_finish.2 (fresh_openDomain hs h)

@[simp] theorem fresh_updKey {tn ix : Nat} {key : W64} {h : KeyEntry → KeyEntry} : Fresh n₀ (updKey s tn ix key h) ↔ Fresh n₀ s := by
  simp [updKey]

theorem fresh_ensureKeys {tn ix : Nat} {d : Domain} {ks : List W64} (hs : Fresh n₀ s) {t : State} {full : Bool}
    (h : ensureKeys s tn ix d ks = (t, full)) : Fresh n₀ t := by
  induction ks generalizing s with
  | nil => cases h; exact hs
  | cons k ks ih =>
    unfold ensureKeys at h
    dsimp only at h
    split at h
    · exact ih hs h
    · split at h
      · cases h
        exact hs
      · exact ih (fresh_fields.2 hs) h

@[simp] theorem fresh_makeEntrants (hs : Fresh n₀ s) {xs : List (Nat × W64 × W32)} : Fresh n₀ (makeEntrants s xs).2 :=
  List.foldlRecOn (motive := fun (a : List Entrant × State) => Fresh n₀ a.2) _ _ hs fun _ ha _ _ => fresh_freshId ha

@[simp] theorem fresh_endEnter (hs : Fresh n₀ s) {i : Iss} {mr : MCode} {fs : FSel} {admitted : W32} :
    Fresh n₀ (endEnter s i mr fs admitted) := by
  simp [endEnter, hs]

theorem fresh_enterOp (hs : Fresh n₀ s) {key seq : VCode} {dom : KCode} {mr p : MCode} {fs : FSel} {wait part : Bool} :
    FreshOut n₀ (enterOp s key seq dom mr p fs wait part) := by
  unfold enterOp
  refine fresh_issue hs fun i => ?_
  split
  · exact fresh_ite hs (fresh_endEnter hs)
  · dsimp only
    split
    · exact fresh_raise hs
    · refine fresh_ite (fresh_raise hs) (fresh_ite (fresh_raise hs) ?_)
      split
      next h => exact fresh_raise (fresh_ensureKeys hs h)
      next h =>
        have ht : ∀ xs, Fresh n₀ (makeEntrants _ xs).2 := fun xs => fresh_makeEntrants (fresh_ensureKeys hs h)
        exact fresh_ite (fresh_endEnter (ht _)) (fresh_park.2 (fresh_fields.2 (ht _)))

theorem fresh_execOleave (hs : Fresh n₀ s) {key : VCode} {dom : KCode} {p : MCode} : FreshOut n₀ (execOleave key dom p s) := by
  unfold execOleave
  refine fresh_issue hs fun i => ?_
  dsimp only
  (repeat' split) <;> simp [hs]

theorem fresh_execOskip (hs : Fresh n₀ s) {key seq : VCode} {dom : KCode} {p : MCode} : FreshOut n₀ (execOskip key seq dom p s) := by
  unfold execOskip
  refine fresh_issue hs fun i => ?_
  split
  · exact fresh_ite (fresh_done.2 hs) hs
  · dsimp only
    split
    · exact fresh_finish.2 hs
    · split
      · exact fresh_raise hs
      · refine fresh_ite (fresh_raise hs) ?_
        split
        next h => exact fresh_raise (fresh_ensureKeys hs h)
        next h => exact fresh_park.2 (fresh_fields.2 (fresh_freshId (fresh_ensureKeys hs h)))

@[simp] theorem fresh_closeDomain {tn ix : Nat} : Fresh n₀ (closeDomain s tn ix) ↔ Fresh n₀ s := by simp [closeDomain]
theorem fresh_execOclose (hs : Fresh n₀ s) {dom : KCode} : FreshOut n₀ (execOclose dom s) := by
  unfold execOclose
  refine fresh_issue hs fun i => ?_
  dsimp only
  (repeat' split) <;> simp [hs]
@[simp] theorem fresh_noteAdmission (hs : Fresh n₀ s) {tn ix : Nat} {e : KeyEntry} {w : KeyWaiter} :
    Fresh n₀ (noteAdmission s tn ix e w) := by
  unfold noteAdmission
  dsimp only
  (repeat' split) <;> simp [hs]
@[simp] theorem fresh_admitEntrant (hs : Fresh n₀ s) {tn ix : Nat} {e : KeyEntry} {w : KeyWaiter} :
    Fresh n₀ (admitEntrant s tn ix e w) := by
  simp [admitEntrant, hs]
@[simp] theorem fresh_waitAdmission {tn ix : Nat} {e : KeyEntry} : Fresh n₀ (waitAdmission s tn ix e) ↔ Fresh n₀ s := by
  unfold waitAdmission
  split <;> simp

theorem fresh_settleLoop {tn ix : Nat} {key : W64} {fuel : Nat} (hs : Fresh n₀ s) : Fresh n₀ (settleLoop tn ix key fuel s) := by
  induction fuel generalizing s with
  | zero => exact hs
  | succ fuel ih =>
    unfold settleLoop
    split
    · exact hs
    · refine fresh_ite hs ?_
      split
      · exact fresh_waitAdmission.2 hs
      · exact fresh_ite (ih (fresh_updKey.2 (fresh_fields.2 hs))) (fresh_admitEntrant (fresh_fields.2 hs))

@[simp] theorem fresh_settleKey (hs : Fresh n₀ s) {tn ix : Nat} {key : W64} : Fresh n₀ (settleKey s tn ix key) := fresh_settleLoop hs

@[simp] theorem fresh_releaseLeave (hs : Fresh n₀ s) {tn ix seq : Nat} {x : Released} : Fresh n₀ (releaseLeave s tn ix seq x).1 :=
  hs.mapReqs fun _ => by split_ifs <;> rfl

theorem fresh_execProcessionHomeRequest (hs : Fresh n₀ s) {n : Nat} : FreshOut n₀ (execProcessionHomeRequest n s) := by
  unfold execProcessionHomeRequest
  simp only [freshOut_next]
  (repeat' split) <;> simp [hs]
theorem fresh_execProcessionLeaveArrival (hs : Fresh n₀ s) {n : Nat} : FreshOut n₀ (execProcessionLeaveArrival n s) := by
  unfold execProcessionLeaveArrival
  simp only [freshOut_next]
  (repeat' split) <;> simp [hs]
theorem fresh_execProcessionAdmissionReturn (hs : Fresh n₀ s) {n : Nat} : FreshOut n₀ (execProcessionAdmissionReturn n s) := by
  unfold execProcessionAdmissionReturn
  simp only [freshOut_next]
  (repeat' split) <;> simp [hs]
@[simp] theorem fresh_withdraw {gid : Nat} {ids : List Nat} : Fresh n₀ (withdraw s gid ids) ↔ Fresh n₀ s := by simp [withdraw]

@[simp] theorem fresh_unadmit (hs : Fresh n₀ s) {gid : Nat} {ids : List Nat} : Fresh n₀ (unadmit s gid ids) :=
  (fresh_fields.2 (fresh_updGroup.2 hs)).foldl fun _ _ _ h => fresh_settleKey (fresh_updKey.2 h)

theorem fresh_execProcessionStallBudget (hs : Fresh n₀ s) {gid : Nat} : FreshOut n₀ (execProcessionStallBudget gid s) := by
  unfold execProcessionStallBudget
  simp only [freshOut_next]
  (repeat' split) <;> simp [hs]

/-! ## The rasteriser -/

theorem Fresh.pushRaster (hs : Fresh n₀ s) {r : Raster} (hr : r.id < s.nextId) : Fresh n₀ { s with rasters := s.rasters ++ [r] } :=
  hs.change (rasters := fun q hq => by
    rcases List.mem_append.1 hq with h | h
    · exact .inl ⟨q, h, rfl⟩
    · cases List.mem_singleton.1 h
      exact .inr hr)

@[simp] theorem fresh_enterRaster (hs : Fresh n₀ s) {i : Iss} {d : VCode} {p : MCode} {fs : FSel} {st : Stream} {r : RasterBlock}
    {mx : List W32} {b : LaunchBlock} : Fresh n₀ (enterRaster s i d p fs st r mx b) := by
  unfold enterRaster
  refine fresh_done.2 (fresh_bumpSeq.2 (Fresh.pushRaster (fresh_clearFetched.2 (fresh_freshId (fresh_oweResult hs))) ?_))
  exact Nat.lt_succ_self _

@[simp] theorem fresh_faultRaster (hs : Fresh n₀ s) {i : Iss} {d : VCode} {p : MCode} {fs : FSel} :
    Fresh n₀ (faultRaster s i d p fs) := by
  simp [faultRaster, hs]

theorem fresh_execRaster (hs : Fresh n₀ s) {d a : VCode} {t : BitVec 6} {p : MCode} {fs : FSel} : FreshOut n₀ (execRaster d a t p fs s) := by
  unfold execRaster
  refine fresh_issue hs fun i => ?_
  split
  · exact fresh_raise hs
  · exact hs
  · refine fresh_ite (fresh_oweNothing.2 hs) (fresh_ite (fresh_raiseAt hs) (fresh_ite (fresh_raiseAt hs) (fresh_ite hs ?_)))
    dsimp only
    split
    · exact fresh_raise hs
    · refine fresh_ite (fresh_raise hs) ?_
      split
      · exact fresh_raiseAt hs
      · refine fresh_withReadOr hs (fun _ => fresh_faultRaster hs) fun x => fresh_withReadOr hs (fun _ => fresh_faultRaster hs) fun x => ?_
        split
        · exact fresh_raise hs
        · exact fresh_enterRaster hs

@[simp] theorem fresh_putRaster (hs : Fresh n₀ s) {r : Raster} : Fresh n₀ (putRaster s r) :=
  hs.change (rasters := fun q hq => by
    obtain ⟨x, hx, rfl⟩ := updateWhere_mem.1 hq
    refine .inl ⟨x, hx, ?_⟩
    split
    next e => exact beq_iff_eq.1 e
    · rfl)

@[simp] theorem fresh_launchFragment (hs : Fresh n₀ s) {r : Raster} {core tri seq : Nat} {key : W64} {regs : SMap W32} :
    Fresh n₀ (launchFragment s r core tri seq key regs).2 := by
  unfold launchFragment
  dsimp only
  split
  · exact fresh_newGrid hs
  · exact (fresh_placeTeam (fresh_newGrid hs)).foldl fun _ _ _ h => fresh_updGroup.2 h

theorem fresh_commitRecord (hs : Fresh n₀ s) {r : Raster} {b : Bytes} {t : State} (ht : commitRecord s r b = some t) : Fresh n₀ t := by
  unfold commitRecord at ht
  split at ht
  · cases ht
    exact hs
  · split at ht
    · cases ht
    · cases ht
      exact fresh_publish (fresh_noteWrites (fresh_fields.2 (fresh_updGraph.2 hs)))

@[simp] theorem fresh_rasterWork (hs : Fresh n₀ s) {r : Raster} {w : RasterWork} {rest : List RasterWork} :
    Fresh n₀ (rasterWork s r w rest) := by
  unfold rasterWork
  split
  · split
    · exact hs
    · exact fresh_putRaster (fresh_launchFragment hs)
  · dsimp only
    split
    · exact fresh_putRaster hs
    · split
      · exact hs
      next h => exact fresh_putRaster (fresh_fields.2 (fresh_freshId (fresh_ensureKeys hs h)))
  · split
    · exact hs
    next h => exact fresh_putRaster (fresh_commitRecord hs h)

@[simp] theorem fresh_failRaster (hs : Fresh n₀ s) {r : Raster} {cause : Nat} : Fresh n₀ (failRaster s r cause) := fresh_putRaster hs

@[simp] theorem fresh_stopRaster (hs : Fresh n₀ s) {r : Raster} {stop : DecStop} : Fresh n₀ (stopRaster s r stop) := by
  unfold stopRaster
  split <;> simp [hs]

@[simp] theorem fresh_startRaster (hs : Fresh n₀ s) {r : Raster} : Fresh n₀ (startRaster s r) := by
  unfold startRaster
  dsimp only
  (repeat' split) <;> simp [hs]

theorem fresh_captureRaster (hs : Fresh n₀ s) {r : Raster} (hr : r.id < n₀) {m : Mesh} {w : Walk} : Fresh n₀ (captureRaster s r m w) := by
  unfold captureRaster
  split
  · exact fresh_stopRaster hs
  next h => exact fresh_putRaster (fresh_clearFetched.2 (fresh_captureFord (who := .op r.id) hs hr _ h))

/-- Classifying a triangle leaves a RASTER its identifier. -/
@[simp] theorem classify_id {r : Raster} {threshold : W32} {vs : List ScreenVertex} {tri : Nat} : (classify r threshold vs tri).id = r.id := by
  unfold classify
  dsimp only
  split
  · rfl
  · split
    · rfl
    · split
      · exact List.foldlRecOn (motive := fun (q : Raster) => q.id = r.id) _ _ rfl fun _ hq _ _ => hq
      · rfl

theorem fresh_stepRaster (hs : Fresh n₀ s) {r : Raster} (hr : r.id < n₀) {m : Mesh} {w : Walk} : Fresh n₀ (stepRaster s r m w) := by
  unfold stepRaster
  dsimp only
  split
  · exact fresh_failRaster hs
  · exact fresh_stopRaster hs
  · refine fresh_ite (fresh_failRaster hs) ?_
    split
    · exact fresh_putRaster (fresh_clearFetched.2 hs)
    · refine fresh_captureRaster hs ?_
      split
      · simpa using hr
      · exact hr

theorem fresh_execRasterTriangle (hs : Fresh n₀ s) {id : Nat} : FreshOut n₀ (execRasterTriangle id s) := by
  unfold execRasterTriangle
  rw [freshOut_next]
  refine hs.lift fun hs => ?_
  split
  · exact hs
  next r hf =>
    have hr : r.id < s.nextId := hs.ids.engines.2.1 r (List.mem_of_find?_eq_some hf)
    dsimp only
    split
    · exact fresh_rasterWork hs
    · refine fresh_ite hs (fresh_ite (fresh_failRaster hs) ?_)
      split
      · refine fresh_ite hs ?_
        split
        · exact fresh_failRaster hs
        next h => exact fresh_putRaster (fresh_openDomain hs h)
      · split
        · exact fresh_ite (fresh_engineTurn hs fun t ht => fresh_captureRaster ht hr) (fresh_engineTurn hs fun t ht => fresh_stepRaster ht hr)
        · exact fresh_failRaster hs
        · exact fresh_ite hs (fresh_engineTurn hs fun t ht => fresh_startRaster ht)

theorem fresh_execRasterComplete (hs : Fresh n₀ s) {id : Nat} : FreshOut n₀ (execRasterComplete id s) := by
  unfold execRasterComplete
  rw [freshOut_next]
  split
  · exact hs
  · refine fresh_ite hs (fresh_fillOwed (Fresh.change (s := _) ?_ (rasters := fun q hq => .inl ⟨q, List.mem_of_mem_filter hq, rfl⟩)))
    split
    · exact fresh_closeDomain.2 hs
    · exact hs
end Sys2Proof.Machine
end

section
/-! Identifiers stay fresh: exchanges. -/

set_option Elab.async false

namespace Sys2Proof.Machine
open Sys2Proof
variable {n₀ : Nat} {s : State}

/-! ## Exchanges -/

theorem Fresh.of_pair {β : Type} {p : State × β} {t : State} {b : β} (h : Fresh n₀ p.1) (e : p = (t, b)) : Fresh n₀ t := by
  cases e
  exact h

theorem Fresh.filterRemotes (hs : Fresh n₀ s) {p : Remote → Bool} : Fresh n₀ { s with remotes := s.remotes.filter p } :=
  hs.change (remotes := fun r hr => .inl ⟨r, List.mem_of_mem_filter hr, rfl⟩)

@[simp] theorem fresh_updXchg (hs : Fresh n₀ s) {id : Nat} {h : Xchg → Xchg} (hh : ∀ x, (h x).id = x.id) : Fresh n₀ (updXchg s id h) :=
  hs.change (xchgs := fun y hy => by
    obtain ⟨x, hx, rfl⟩ := updateWhere_mem.1 hy
    exact .inl ⟨x, hx, by split <;> simp [hh]⟩)

@[simp] theorem fresh_updPeer (hs : Fresh n₀ s) {id q : Nat} {h : Peer → Peer} : Fresh n₀ (updPeer s id q h) :=
  fresh_updXchg hs fun _ => by split <;> rfl

@[simp] theorem fresh_dropWait (hs : Fresh n₀ s) {id key : Nat} : Fresh n₀ (dropWait s id key) := fresh_updXchg hs fun _ => rfl

@[simp] theorem fresh_xMake (hs : Fresh n₀ s) {α : Type} {x : Xchg} {key : Nat} {act : State → Dec α} : Fresh n₀ (xMake s x key act).1 := by
  unfold xMake
  split
  · exact hs
  · exact hs
  · exact fresh_askRemote hs
  · refine fresh_faultPage (fresh_updXchg hs ?_)
    exact fun _ => rfl

@[simp] theorem fresh_xTry (hs : Fresh n₀ s) {α : Type} {x : Xchg} {key : Nat} {act : State → Dec α} : Fresh n₀ (xTry s x key act).1 := by
  unfold xTry
  split
  · exact fresh_xMake hs
  · (repeat' split) <;> simp [hs]

theorem xMake_ok {α : Type} {x : Xchg} {key : Nat} {act : State → Dec α} {v : α} (h : (xMake s x key act).2 = .ok v) : act s = .ok v := by
  unfold xMake at h
  split at h
  next hv =>
    cases h
    exact hv
  · cases h
  · cases h
  · cases h

/-- What an access yields, it yields in a fresh state. -/
theorem xTry_ok (hs : Fresh n₀ s) {α : Type} {x : Xchg} {key : Nat} {act : State → Dec α} {v : α}
    (h : (xTry s x key act).2 = .ok v) : ∃ u, Fresh n₀ u ∧ act u = .ok v := by
  unfold xTry at h
  split at h
  · exact ⟨s, hs, xMake_ok h⟩
  next w _ =>
    by_cases hf : w.fatal = true
    · rw [if_pos hf] at h
      cases h
    · rw [if_neg hf] at h
      generalize s.faults.any _ = b at h
      cases b
      · exact ⟨_, fresh_dropWait hs, xMake_ok h⟩
      · cases h

@[simp] theorem fresh_xWrite (hs : Fresh n₀ s) {x : Xchg} {key : Nat} {use : XUse} {t : Tensor} {a : Nat} {b : Bytes} :
    Fresh n₀ (xWrite s x key use t a b).1 := by
  have hw : Fresh (s.nextId + 1) (freshId s).2 := ⟨Nat.le_refl _, (fresh_freshId hs).ids⟩
  refine hs.ofSucc ?_
  unfold xWrite
  dsimp only
  split
  next h =>
    obtain ⟨u, hu, hv⟩ := xTry_ok hw (congrArg Prod.snd h)
    have ht := fresh_noteWrites (at_ := fun _ _ => true) (fresh_meshWrite (who := .op (freshId s).1) hu (Nat.lt_succ_self _) _ hv)
    split
    · exact fresh_updXchg ht fun _ => rfl
    · exact ht
  next h => exact (fresh_xTry hw).of_pair h
  next h => exact (fresh_xTry hw).of_pair h

/-! ### Messages and their effects -/

@[simp] theorem fresh_failPeer (hs : Fresh n₀ s) {id q : Nat} : Fresh n₀ (failPeer s id q) := by
  unfold failPeer
  split
  · exact hs
  · exact fresh_ite hs (fresh_updPeer hs.filterRemotes)

@[simp] theorem fresh_xSend (hs : Fresh n₀ s) {x : Xchg} {q : Nat} {m : FabricMsg} : Fresh n₀ (xSend s x q m) := by
  unfold xSend
  split
  · exact hs
  · refine fresh_ite hs (fresh_ite (fresh_sendPacket.2 hs) ?_)
    split
    next h => exact fresh_sendRemote (use := .peer _ _) hs trivial h
    · exact fresh_failPeer hs

@[simp] theorem fresh_readyOut (hs : Fresh n₀ s) {x : Xchg} {bad : Bool} : Fresh n₀ (readyOut s x bad) := by
  unfold readyOut
  exact Fresh.foldl (fresh_updXchg hs fun _ => rfl) fun _ _ _ h => fresh_xSend h

@[simp] theorem fresh_countIn (hs : Fresh n₀ s) {x : Xchg} : Fresh n₀ (countIn s x) := by
  unfold countIn
  refine fresh_ite hs ?_
  split
  next e => exact fresh_readyOut ((fresh_xWrite hs).of_pair e)
  next e => exact fresh_readyOut ((fresh_xWrite hs).of_pair e)
  next e => exact (fresh_xWrite hs).of_pair e

theorem fresh_sendRows {q fuel : Nat} {x : Xchg} (hs : Fresh n₀ s) : Fresh n₀ (sendRows q fuel s x) := by
  induction fuel generalizing s x with
  | zero => exact hs
  | succ fuel ih =>
    unfold sendRows
    split
    · exact hs
    · refine fresh_ite hs ?_
      dsimp only
      have h : ∀ act : State → Dec Bytes, Fresh n₀ (xTry s x (sendKey q) act).1 := fun act => fresh_xTry hs
      split
      · split
        · exact ih (fresh_updPeer (fresh_xSend (fresh_ite (fresh_clearFetched.2 (h _)) (fresh_fields.2 (fresh_clearFetched.2 (h _))))))
        · exact fresh_updPeer (fresh_xSend (fresh_ite (fresh_clearFetched.2 (h _)) (fresh_fields.2 (fresh_clearFetched.2 (h _)))))
      · exact fresh_updXchg (fresh_updPeer (h _)) fun _ => rfl
      · exact h _

@[simp] theorem fresh_sendDone (hs : Fresh n₀ s) {x : Xchg} {q : Nat} : Fresh n₀ (sendDone s x q) := by
  unfold sendDone
  (repeat' split) <;> simp [hs]

@[simp] theorem fresh_servePeer (hs : Fresh n₀ s) {id q : Nat} : Fresh n₀ (servePeer s id q) := by
  unfold servePeer
  split
  · exact hs
  · refine fresh_ite hs ?_
    dsimp only
    split
    · exact fresh_sendDone (fresh_sendRows hs)
    · exact fresh_sendRows hs

@[simp] theorem fresh_doneOut (hs : Fresh n₀ s) {id q st : Nat} {bad : Bool} : Fresh n₀ (doneOut s id q st bad) :=
  fresh_updXchg (fresh_updPeer hs) fun _ => rfl

@[simp] theorem fresh_settlePeer (hs : Fresh n₀ s) {id q : Nat} : Fresh n₀ (settlePeer s id q) := by
  unfold settlePeer
  split
  · exact hs
  next x p _ =>
    split
    · exact hs
    next st _ =>
      refine fresh_ite hs ?_
      split
      next e => exact fresh_doneOut ((fresh_xWrite hs).of_pair e)
      next e => exact fresh_doneOut ((fresh_xWrite hs).of_pair e)
      next e => exact (fresh_xWrite hs).of_pair e

@[simp] theorem fresh_endXchg (hs : Fresh n₀ s) {id : Nat} : Fresh n₀ (endXchg s id) := by
  unfold endXchg
  split
  · exact hs
  next x _ =>
    refine fresh_ite hs (fresh_fillOwed ?_)
    exact (fresh_updTenant.2 hs).change (xchgs := fun y hy => .inl ⟨y, List.mem_of_mem_filter hy, rfl⟩)

@[simp] theorem fresh_answer {p : Packet} {m : FabricMsg} : Fresh n₀ (answer s p m) ↔ Fresh n₀ s := by
  unfold answer
  split <;> simp
@[simp] theorem fresh_dropArrived {n : Nat} : Fresh n₀ (dropArrived s n) ↔ Fresh n₀ s := by simp [dropArrived]
@[simp] theorem fresh_noticeParked {n : Nat} : Fresh n₀ (noticeParked s n) ↔ Fresh n₀ s := by
  unfold noticeParked
  (repeat' split) <;> simp

@[simp] theorem fresh_noticeStream {p : Packet} : Fresh n₀ (noticeStream s p) ↔ Fresh n₀ s := by
  unfold noticeStream
  exact fresh_foldl (fun _ _ => by (repeat' split) <;> simp) _ _

@[simp] theorem fresh_arrive {p : Packet} : Fresh n₀ (arrive s p) ↔ Fresh n₀ s := by
  unfold arrive
  dsimp only
  (repeat' split) <;> simp
@[simp] theorem fresh_ackRow {p : Packet} {tag : Nat} {refused : Bool} : Fresh n₀ (ackRow s p tag refused) ↔ Fresh n₀ s := by
  simp [ackRow]

@[simp] theorem fresh_rowOut (hs : Fresh n₀ s) {x : Xchg} {q n : Nat} {bad : Bool} : Fresh n₀ (rowOut s x q n bad) := by
  unfold rowOut
  split
  · exact hs
  next p _ =>
    have h : ∀ p, Fresh n₀ (ackRow (dropArrived s n) p x.tag bad) := fun p => fresh_ackRow.2 (fresh_dropArrived.2 hs)
    exact fresh_ite (fresh_updXchg (fresh_updPeer (h _)) fun _ => rfl) (fresh_updPeer (h _))

@[simp] theorem fresh_resolvePost (hs : Fresh n₀ s) {id : Nat} {p : XPost} : Fresh n₀ (resolvePost s id p) := by
  unfold resolvePost
  split
  · exact hs
  · refine fresh_ite hs ?_
    have h : Fresh n₀ (updXchg s id fun y => { y with posts := y.posts.filter fun z => z.who != p.who }) := fresh_updXchg hs fun _ => rfl
    dsimp only
    split
    · exact fresh_readyOut h
    · exact fresh_doneOut h
    · split
      · exact fresh_rowOut h
      · exact fresh_ite h (fresh_updPeer h)

@[simp] theorem fresh_advanceXchg (hs : Fresh n₀ s) {id : Nat} : Fresh n₀ (advanceXchg s id) := by
  unfold advanceXchg
  split
  · exact hs
  next x _ =>
    have h1 : Fresh n₀ (x.posts.foldl (fun s p => resolvePost s id p) s) := hs.foldl fun _ _ _ h => fresh_resolvePost h
    dsimp only
    refine fresh_endXchg (Fresh.foldl (Fresh.foldl ?_ fun _ _ _ h => fresh_servePeer h) fun _ _ _ h => fresh_settlePeer h)
    split
    · exact fresh_countIn h1
    · exact h1

@[simp] theorem fresh_advanceXchgs (hs : Fresh n₀ s) : Fresh n₀ (advanceXchgs s) := hs.foldl fun _ _ _ h => fresh_advanceXchg h

@[simp] theorem fresh_takeEarly (hs : Fresh n₀ s) {x : Xchg} : Fresh n₀ (takeEarly s x) := by
  unfold takeEarly
  split
  · exact hs
  · exact fresh_updTenant.2 (fresh_updXchg hs fun _ => rfl)

theorem Fresh.pushXchg (hs : Fresh n₀ s) {x : Xchg} (hx : x.id < s.nextId) : Fresh n₀ { s with xchgs := s.xchgs ++ [x] } :=
  hs.change (xchgs := fun q hq => by
    rcases List.mem_append.1 hq with h | h
    · exact .inl ⟨q, h, rfl⟩
    · cases List.mem_singleton.1 h
      exact .inr hx)

@[simp] theorem fresh_enterXchg (hs : Fresh n₀ s) {i : Iss} {fs : FSel} {ka : KCode} {b : XBlock} {devs counts : List Nat} :
    Fresh n₀ (enterXchg s i fs ka b devs counts) := by
  unfold enterXchg
  refine fresh_advanceXchg (Fresh.foldl (fresh_done.2 (fresh_bumpSeq.2 (fresh_takeEarly
    (Fresh.pushXchg (fresh_freshId (fresh_oweResult hs)) (Nat.lt_succ_self _))))) fun _ _ _ h => fresh_xSend h)

theorem fresh_execXchg (hs : Fresh n₀ s) {ka kb : KCode} {fs : FSel} {off : BitVec 12} : FreshOut n₀ (execXchg ka kb fs off s) := by
  unfold execXchg
  refine fresh_issue hs fun i => ?_
  dsimp only
  split
  · exact hs
  · refine fresh_ite hs ?_
    split
    · exact fresh_raiseAt hs
    · refine fresh_withRead hs fun pb => fresh_withRead hs fun cb => fresh_ite (fresh_raise hs) ?_
      split
      · exact fresh_raiseAt hs
      · exact fresh_ite (fresh_park.2 hs) (fresh_enterXchg (fresh_clearFetched.2 hs))

/-! ### Messages that arrive -/

@[simp] theorem fresh_earlyCount {p : Packet} {tag : Nat} : Fresh n₀ (earlyCount s p tag) ↔ Fresh n₀ s := by
  unfold earlyCount
  (repeat' split) <;> simp
theorem fresh_execXchgCountReceive (hs : Fresh n₀ s) {n : Nat} : FreshOut n₀ (execXchgCountReceive n s) := by
  unfold execXchgCountReceive
  simp only [freshOut_next]
  (repeat' split) <;> simp [hs]
theorem fresh_execXchgCountResend (hs : Fresh n₀ s) {n : Nat} : FreshOut n₀ (execXchgCountResend n s) := by
  unfold execXchgCountResend
  simp only [freshOut_next]
  (repeat' split) <;> simp [hs]
theorem fresh_execXchgReadyReceive (hs : Fresh n₀ s) {n : Nat} : FreshOut n₀ (execXchgReadyReceive n s) := by
  unfold execXchgReadyReceive
  simp only [freshOut_next]
  (repeat' split) <;> simp [hs]

theorem fresh_execXchgRowReceive (hs : Fresh n₀ s) {n : Nat} : FreshOut n₀ (execXchgRowReceive n s) := by
  unfold execXchgRowReceive
  rw [freshOut_next]
  split
  · dsimp only
    split
    · exact fresh_ackRow.2 (fresh_dropArrived.2 hs)
    next x q y _ =>
      refine fresh_ite (fresh_dropArrived.2 hs) (fresh_ite hs (fresh_ite (fresh_ackRow.2 (fresh_dropArrived.2 hs)) ?_))
      split
      next e => exact fresh_rowOut ((fresh_xWrite hs).of_pair e)
      next e => exact fresh_rowOut ((fresh_xWrite hs).of_pair e)
      next e => exact (fresh_xWrite hs).of_pair e
      next e => exact fresh_noticeStream.2 ((fresh_xWrite hs).of_pair e)
  · exact hs

@[simp] theorem fresh_dropRemote (hs : Fresh n₀ s) {p : Packet} : Fresh n₀ (dropRemote s p) := fresh_ite hs hs.filterRemotes

theorem fresh_execXchgRowAck (hs : Fresh n₀ s) {n : Nat} : FreshOut n₀ (execXchgRowAck n s) := by
  unfold execXchgRowAck
  rw [freshOut_next]
  split
  · dsimp only
    split
    · exact fresh_advanceXchg (fresh_updPeer (fresh_dropRemote (fresh_dropArrived.2 hs)))
    · exact fresh_dropArrived.2 hs
  · exact hs

theorem fresh_execXchgDoneReceive (hs : Fresh n₀ s) {n : Nat} : FreshOut n₀ (execXchgDoneReceive n s) := by
  unfold execXchgDoneReceive
  simp only [freshOut_next]
  (repeat' split) <;> simp [hs]
theorem fresh_execXchgFailureReceive (hs : Fresh n₀ s) {n : Nat} : FreshOut n₀ (execXchgFailureReceive n s) := by
  unfold execXchgFailureReceive
  simp only [freshOut_next]
  (repeat' split) <;> simp [hs]
end Sys2Proof.Machine
end

section
/-! Identifiers stay fresh: the fabric. -/

set_option Elab.async false

namespace Sys2Proof.Machine
open Sys2Proof
variable {n₀ : Nat} {s : State}

/-! ## The fabric -/

theorem Fresh.mapRemotes (hs : Fresh n₀ s) {f : Remote → Remote} (hf : ∀ r, (f r).use = r.use) :
    Fresh n₀ { s with remotes := s.remotes.map f } :=
  hs.change (remotes := fun q hq => by
    obtain ⟨x, hx, rfl⟩ := List.mem_map.1 hq
    exact .inl ⟨x, hx, (hf x).symm⟩)

@[simp] theorem fresh_failPost (hs : Fresh n₀ s) {tn : Nat} {who : Poster} : Fresh n₀ (failPost s tn who) := by
  unfold failPost
  split
  · exact fresh_machineCheckNoRecord hs
  · exact hs
  · refine hs.change (patches := fun p hp => .inl ?_) (decoders := fun d e hd he => .inl ?_) (rasters := fun p hp => .inl ?_)
      (xchgs := fun p hp => .inl ?_) (cxops := fun p hp => .inl ?_)
    · obtain ⟨x, hx, rfl⟩ := List.mem_map.1 hp
      exact ⟨x, hx, rfl⟩
    · obtain ⟨x, hx, rfl⟩ := List.mem_map.1 hp
      exact ⟨x, hx, by split <;> rfl⟩
    · obtain ⟨x, hx, rfl⟩ := List.mem_map.1 hp
      exact ⟨x, hx, by split <;> rfl⟩
    · obtain ⟨x, hx, rfl⟩ := List.mem_map.1 hp
      exact ⟨x, hx, by split <;> rfl⟩
    · obtain ⟨c, hc, rfl⟩ := List.mem_map.1 hd
      obtain ⟨x, hx, rfl⟩ := List.mem_map.1 he
      exact ⟨c, x, hc, hx, by split <;> rfl⟩

@[simp] theorem fresh_updCopy {id : Nat} {h : Copy → Copy} : Fresh n₀ (updCopy s id h) ↔ Fresh n₀ s := by simp [updCopy]

@[simp] theorem fresh_failRemote (hs : Fresh n₀ s) {r : Remote} : Fresh n₀ (failRemote s r) := by
  have h : Fresh n₀ { s with remotes := s.remotes.filter fun q => q.id != r.id } := hs.filterRemotes
  unfold failRemote
  dsimp only
  split
  · exact fresh_updGroup.2 h
  · exact fresh_updCopy.2 h
  · exact fresh_fields.2 h
  · exact fresh_fields.2 h
  · exact fresh_failPost h
  · exact fresh_failPeer h

@[simp] theorem fresh_takeResponse (hs : Fresh n₀ s) {r : Remote} {data : Nat} : Fresh n₀ (takeResponse s r data) := by
  have h : Fresh n₀ { s with remotes := s.remotes.filter fun q => q.id != r.id } := hs.filterRemotes
  unfold takeResponse
  dsimp only
  split
  · exact fresh_updGroup.2 h
  · exact fresh_updCopy.2 h
  · exact fresh_fields.2 h
  · exact fresh_fields.2 h
  · exact h
  · exact h

theorem fresh_execRemoteResponse (hs : Fresh n₀ s) {n : Nat} : FreshOut n₀ (execRemoteResponse n s) := by
  have h : Fresh n₀ (dropArrived s n) := fresh_dropArrived.2 hs
  unfold execRemoteResponse
  rw [freshOut_next]
  split
  · dsimp only
    split
    · exact h
    · split
      · exact fresh_advanceXchgs (fresh_takeResponse h)
      · exact fresh_ite (fresh_fields.2 h.filterRemotes) (fresh_advanceXchgs (fresh_failRemote h))
      · exact fresh_advanceXchgs (fresh_failRemote h)
  · exact hs

@[simp] theorem fresh_noticeRow {r : Remote} : Fresh n₀ (noticeRow s r) ↔ Fresh n₀ s := by
  unfold noticeRow
  split
  · exact fresh_foldl (fun _ _ => fresh_foldl (fun _ _ => by (repeat' split) <;> simp) _ _) _ _
  · rfl

theorem fresh_execParkedNotice (hs : Fresh n₀ s) {n : Nat} : FreshOut n₀ (execParkedNotice n s) := by
  unfold execParkedNotice
  rw [freshOut_next]
  split
  · dsimp only
    split
    · exact fresh_noticeRow.2 (Fresh.mapRemotes (fresh_dropArrived.2 hs) fun _ => by split <;> rfl)
    · exact fresh_dropArrived.2 hs
  · exact hs

@[simp] theorem fresh_failUnreachable (hs : Fresh n₀ s) : Fresh n₀ (failUnreachable s) := by
  unfold failUnreachable
  refine fresh_advanceXchgs (Fresh.foldl (Fresh.foldl hs fun _ _ _ h => ?_) fun _ _ _ h => Fresh.foldl h fun _ _ _ h => ?_)
  · exact fresh_ite h (fresh_failRemote h)
  · exact fresh_ite h (fresh_failPeer h)

@[simp] theorem fresh_updLink {n : Nat} {h : LarLink → LarLink} : Fresh n₀ (updLink s n h) ↔ Fresh n₀ s := by
  unfold updLink
  split <;> simp
@[simp] theorem fresh_acceptFlit {f : Flit} : Fresh n₀ (acceptFlit s f) ↔ Fresh n₀ s := by
  unfold acceptFlit
  (repeat' split) <;> simp
theorem fresh_execFlitReceive (hs : Fresh n₀ s) {link : Nat} {f : Flit} : FreshOut n₀ (execFlitReceive link f s) := by
  unfold execFlitReceive
  simp only [freshOut_next]
  (repeat' split) <;> simp [hs]
theorem fresh_execNegativeAcknowledgement (hs : Fresh n₀ s) {link expected : Nat} :
    FreshOut n₀ (execNegativeAcknowledgement link expected s) := by
  unfold execNegativeAcknowledgement
  simp [hs]
theorem fresh_execRemoteTimeout (hs : Fresh n₀ s) {id : Nat} : FreshOut n₀ (execRemoteTimeout id s) := by
  unfold execRemoteTimeout
  simp only [freshOut_next]
  (repeat' split) <;> simp [hs]
theorem fresh_execLinkDown (hs : Fresh n₀ s) {link : Nat} : FreshOut n₀ (execLinkDown link s) := by
  unfold execLinkDown
  simp only [freshOut_next]
  (repeat' split) <;> simp [hs]

@[simp] theorem fresh_replaceAt (hs : Fresh n₀ s) {sp : Space} {a n x : Nat} : Fresh n₀ (replaceAt s sp a n x) := by
  unfold replaceAt
  split <;> simp [hs]
@[simp] theorem fresh_performRemote (hs : Fresh n₀ s) {p : Packet} {sp : Space} {a : Nat} : Fresh n₀ (performRemote s p sp a) := by
  unfold performRemote
  split <;> simp [hs]

@[simp] theorem fresh_performArrived (hs : Fresh n₀ s) {n : Nat} {p : Packet} {sp : Space} {a : Nat} : Fresh n₀ (performArrived s n p sp a) :=
  fresh_ite hs (fresh_engineTurn hs fun _ ht => fresh_performRemote (fresh_dropArrived.2 ht))

@[simp] theorem fresh_fillFor {tn : Nat} {m : FabricMsg} {va : Nat} {need : Need} : Fresh n₀ (fillFor s tn m va need) ↔ Fresh n₀ s := by
  unfold fillFor
  split <;> simp
theorem fresh_execRemoteRequestServe (hs : Fresh n₀ s) {n : Nat} : FreshOut n₀ (execRemoteRequestServe n s) := by
  unfold execRemoteRequestServe
  simp only [freshOut_next]
  (repeat' split) <;> simp [hs]
@[simp] theorem fresh_replyHost {b : Option Bytes} : Fresh n₀ (replyHost s b) ↔ Fresh n₀ s := by simp [replyHost]

@[simp] theorem fresh_hostFault (hs : Fresh n₀ s) {tn va : Nat} {need : Need} {forbidden : Bool} : Fresh n₀ (hostFault s tn va need forbidden) := by
  unfold hostFault
  split
  · exact fresh_faultPage hs
  · dsimp only
    split
    next h => exact fresh_sendMsix.2 (fresh_writeRecord hs h)
    · exact fresh_fields.2 hs
    · exact fresh_machineCheckNoRecord hs

@[simp] theorem fresh_refuseHost (hs : Fresh n₀ s) {tn : Nat} {e : DecStop} : Fresh n₀ (refuseHost s tn e) := by
  unfold refuseHost
  split <;> simp [hs]

@[simp] theorem fresh_hostStore (hs : Fresh n₀ s) {tn va : Nat} {b : Bytes} {ok : State → State} (hk : ∀ t, Fresh n₀ t → Fresh n₀ (ok t)) :
    Fresh n₀ (hostStore s tn va b ok) := by
  unfold hostStore
  split
  next h => exact fresh_noteWrites (hk _ (fresh_meshWrite (who := .unit) hs trivial _ h))
  · exact fresh_refuseHost hs

@[simp] theorem fresh_hostAccess (hs : Fresh n₀ s) {tn off : Nat} {t : Tenant} {a : HostAccess} : Fresh n₀ (hostAccess s tn off t a) := by
  unfold hostAccess
  split
  · refine fresh_ite hs ?_
    split
    · exact fresh_clearFetched.2 (fresh_replyHost.2 hs)
    · exact fresh_refuseHost hs
  · split
    · split
      · exact fresh_hostStore hs fun _ ht => fresh_almTake.2 ht
      · exact hs
    · refine fresh_ite hs ?_
      dsimp only
      split
      · exact fresh_hostStore hs fun _ ht => fresh_almRecord (fresh_clearFetched.2 ht)
      · exact fresh_hostStore hs fun _ ht => fresh_almRecord ht
  · exact fresh_ite hs (fresh_replyHost.2 (fresh_fields.2 hs))
  · exact fresh_ite hs (fresh_updTenant.2 hs)
  · exact fresh_ite hs (fresh_replyHost.2 hs)
  · exact fresh_replyHost.2 hs
  · exact fresh_replyHost.2 hs

theorem fresh_execHostBar2Access (hs : Fresh n₀ s) {tn off : Nat} {acc : HostAccess} : FreshOut n₀ (execHostBar2Access tn off acc s) := by
  unfold execHostBar2Access
  simp only [freshOut_next]
  (repeat' split) <;> simp [hs]

theorem fresh_execUcieLinkFailure (hs : Fresh n₀ s) : FreshOut n₀ (execUcieLinkFailure s) := by
  unfold execUcieLinkFailure
  rw [freshOut_next]
  exact Fresh.foldl (fresh_fields.2 hs) fun _ _ _ h => fresh_machineCheck h
end Sys2Proof.Machine
end

section
/-! Identifiers stay fresh: contexts that are restored, faults, boot and tenants. -/

set_option Elab.async false

namespace Sys2Proof.Machine
open Sys2Proof
variable {n₀ : Nat} {s : State}

/-! ## Contexts that are restored -/

@[simp] theorem fresh_finishCx (hs : Fresh n₀ s) {owed state bytes : Nat} : Fresh n₀ (finishCx s owed state bytes) := by
  have h : Fresh n₀ { s with cxops := s.cxops.filter fun o => o.owed != owed } :=
    hs.change (cxops := fun o ho => .inl ⟨o, List.mem_of_mem_filter ho, rfl⟩)
  unfold finishCx
  exact fresh_fillOwed h

theorem fresh_updCx (hs : Fresh n₀ s) {owed : Nat} {h : CxOp → CxOp} (hh : ∀ o, (h o).owed = o.owed) : Fresh n₀ (updCx s owed h) :=
  hs.change (cxops := fun o ho => by
    obtain ⟨x, hx, rfl⟩ := updateWhere_mem.1 ho
    exact .inl ⟨x, hx, by split <;> simp [hh]⟩)

@[simp] theorem fresh_setTenantState {tn : Nat} {x : TenantState} : Fresh n₀ (setTenantState s tn x) ↔ Fresh n₀ s := by
  simp [setTenantState]

@[simp] theorem fresh_parkCx (hs : Fresh n₀ s) {o : CxOp} {va : Nat} {need : Need} {forbidden : Bool} :
    Fresh n₀ (parkCx s o va need forbidden) := by
  unfold parkCx
  refine fresh_faultPage (fresh_updCx (fresh_drawFree.2 hs) ?_)
  exact fun _ => rfl

theorem fresh_withArea (hs : Fresh n₀ s) {o : CxOp} {bytes : Nat} {need : Need} {fail ok : State → State}
    (hf : Fresh n₀ (fail s)) (hk : Fresh n₀ (ok s)) : Fresh n₀ (withArea s o bytes need fail ok) := by
  unfold withArea
  refine fresh_ite hf (fresh_ite hs ?_)
  split
  · exact fresh_parkCx hs
  · exact hk

@[simp] theorem fresh_restoreTeam {c : SavedContext} {tm : Nat} {t : Team} {cores : List Nat} :
    Fresh n₀ (restoreTeam s c tm t cores) ↔ Fresh n₀ s := by
  unfold restoreTeam
  dsimp only
  rw [fresh_foldl fun _ _ => by split <;> simp, fresh_foldl fun _ _ => by simp]
  exact fresh_fields

theorem fresh_restoreUnit (hs : Fresh n₀ s) {c : SavedContext} {cores : List Nat} {u : List (Nat × Team) × Option (Nat × Nat)} {t : State}
    (ht : restoreUnit c cores s u = some t) : Fresh n₀ t := by
  unfold restoreUnit at ht
  obtain ⟨cs, -, rfl⟩ := Option.map_eq_some_iff.1 ht
  exact hs.foldl fun _ _ _ h => fresh_restoreTeam.2 h

@[simp] theorem fresh_resendRequest (hs : Fresh n₀ s) {r : DecReq} : Fresh n₀ (resendRequest s r) := by
  unfold resendRequest
  split
  · exact hs
  · refine fresh_putDecoder (fresh_updBuf.2 hs) fun e he => ?_
    simpa [updBuf] using hs.ids.entry_lt he

/-- The number after every one that names something of a context is above all of these. -/
theorem lt_foldl_max {x : Nat} {xs : List Nat} (hx : x ∈ xs) (k : Nat) : x < xs.foldl (fun m n => max m (n + 1)) k := by
  have mono : ∀ (xs : List Nat) k, k ≤ xs.foldl (fun m n => max m (n + 1)) k := fun xs => by
    induction xs with
    | nil => exact fun k => Nat.le_refl k
    | cons y ys ih => exact fun k => (Nat.le_max_left _ _).trans (ih _)
  induction xs generalizing k with
  | nil => cases hx
  | cons y ys ih =>
    rcases List.mem_cons.1 hx with rfl | h
    · exact (Nat.le_max_right k (x + 1)).trans (mono ys _)
    · exact ih h _

theorem SavedContext.below_top (c : SavedContext) : c.Below c.top := by
  refine ⟨fun o ho => lt_foldl_max ?_ 0, fun r hr id e => lt_foldl_max ?_ 0, fun p hp => lt_foldl_max ?_ 0, fun r hr => lt_foldl_max ?_ 0⟩
  · exact List.mem_append_right _ (List.mem_map.2 ⟨o, ho, rfl⟩)
  · exact List.mem_append_left _ (List.mem_append_right _ (List.mem_filterMap.2 ⟨r, hr, e⟩))
  · simp only [List.mem_append]
    exact .inl (.inl (.inl (.inr (List.mem_map.2 ⟨p, hp, rfl⟩))))
  · simp only [List.mem_append]
    exact .inl (.inl (.inl (.inl (.inr (List.mem_map.2 ⟨r, hr, rfl⟩)))))

/-- The identifiers of a context that is restored are below the next one, which is above them all. -/
@[simp] theorem fresh_restoreRest (hs : Fresh n₀ s) {c : SavedContext} : Fresh n₀ (restoreRest s c) := by
  obtain ⟨ho, hr, hp, hra⟩ := c.below_top
  unfold restoreRest
  refine fresh_updTenant.2 ((fresh_foldl (fun _ _ => fresh_fillEntries) _ _).2 (Fresh.foldl ?_ fun _ _ _ h => fresh_resendRequest h))
  refine hs.change (nextId := Nat.le_max_left _ _) (owed := fun o h => ?_) (reqs := fun r h => ?_) (patches := fun p h => ?_)
    (rasters := fun r h => ?_) (saved := fun x h => .inl ?_)
  · exact (List.mem_append.1 h).imp (fun h => ⟨o, h, rfl⟩) fun h => (ho o h).trans_le (Nat.le_max_right _ _)
  · refine (List.mem_append.1 h).imp (fun h => ⟨r, h, rfl⟩) fun h id e => ?_
    obtain ⟨q, hq, rfl⟩ := List.mem_map.1 h
    refine (hr q hq id ?_).trans_le (Nat.le_max_right _ _)
    rw [← e]
    unfold Req.moved
    split <;> rfl
  · exact (List.mem_append.1 h).imp (fun h => ⟨p, h, rfl⟩) fun h => (hp p (List.mem_of_mem_filter h)).trans_le (Nat.le_max_right _ _)
  · exact (List.mem_append.1 h).imp (fun h => ⟨r, h, rfl⟩) fun h => (hra r h).trans_le (Nat.le_max_right _ _)
  · exact List.mem_append.2 ((List.mem_append.1 h).imp_left List.mem_of_mem_filter)

theorem fresh_restoreContext (hs : Fresh n₀ s) {c : SavedContext} {cores : List Nat} {t : State}
    (ht : restoreContext s c cores = some t) : Fresh n₀ t := by
  unfold restoreContext at ht
  obtain ⟨u, hu, rfl⟩ := Option.map_eq_some_iff.1 ht
  refine fresh_restoreRest ?_
  refine List.foldlRecOn (motive := fun (a : Option State) => ∀ u, a = some u → Fresh n₀ u) _ _ (fun u e => by cases e; exact hs)
    (fun a ha x _ u e => ?_) u hu
  obtain ⟨v, rfl, hv⟩ := Option.bind_eq_some_iff.1 e
  exact fresh_restoreUnit (ha v rfl) hv

/-! ## The context instructions -/

@[simp] theorem fresh_abandonSave (hs : Fresh n₀ s) {o : CxOp} {st n : Nat} : Fresh n₀ (abandonSave s o st n) :=
  fresh_finishCx (fresh_setTenantState.2 hs)

@[simp] theorem fresh_settleSave (hs : Fresh n₀ s) {o : CxOp} {c : SavedContext} : Fresh n₀ (settleSave s o c) := by
  have he : Fresh n₀ { s with images := s.images.erase c } :=
    hs.change (saved := fun x hx => .inl (List.mem_append.2 ((List.mem_append.1 hx).imp_right List.mem_of_mem_erase)))
  unfold settleSave
  refine fresh_ite ?_ (fresh_ite hs (fresh_finishCx (fresh_setTenantState.2 hs)))
  dsimp only
  split
  next h => exact fresh_advanceXchgs (fresh_finishCx (fresh_restoreContext he h))
  · exact hs

theorem fresh_progressSave (hs : Fresh n₀ s) {o : CxOp} (ho : o.owed < n₀) : Fresh n₀ (progressSave s o) := by
  unfold progressSave
  refine fresh_ite (fresh_finishCx hs) (fresh_ite ?_ (fresh_ite hs (fresh_ite (fresh_abandonSave hs) ?_)))
  · split
    · exact fresh_settleSave hs
    · exact fresh_finishCx hs
  · obtain ⟨h, hb⟩ := fresh_takeContext hs (tn := o.tenant) (area := o.area) (state := 1)
    have hw := fun c => fresh_writeContext (tn := o.issuer) (c := c) (who := .op o.owed) h ho
    refine fresh_withArea hs (fresh_abandonSave hs) (fresh_settleSave (fresh_updCx (fresh_keepSaved (hw _) ?_) ?_))
    · exact hb.mono (fresh_writeContext (who := .op o.owed) h.ids.fresh (ho.trans_le h.le)).le
    · exact fun _ => rfl

theorem fresh_withAreaRead (hs : Fresh n₀ s) {o : CxOp} {n : Nat} {k : State → Bytes → State} (hk : ∀ b, Fresh n₀ (k s b)) :
    Fresh n₀ (withAreaRead s o n k) := by
  unfold withAreaRead
  refine fresh_withArea hs (fresh_finishCx hs) ?_
  split
  · exact hk _
  · exact fresh_askRemote hs
  · exact fresh_finishCx hs
  · exact fresh_finishCx hs

@[simp] theorem fresh_progressLoad (hs : Fresh n₀ s) {o : CxOp} : Fresh n₀ (progressLoad s o) := by
  unfold progressLoad
  split
  · exact fresh_finishCx hs
  · refine fresh_ite (fresh_finishCx hs) (fresh_ite hs (fresh_withAreaRead hs fun h => fresh_ite (fresh_finishCx hs)
      (fresh_ite (fresh_finishCx hs) (fresh_withAreaRead hs fun b => ?_))))
    split
    · exact fresh_finishCx hs
    · split
      · exact hs
      next h => exact fresh_advanceXchgs (fresh_finishCx (fresh_restoreContext (fresh_clearFetched.2 hs) h))

@[simp] theorem fresh_progressCx (hs : Fresh n₀ s) : Fresh n₀ (progressCx s) := by
  refine hs.foldl fun t x _ ht => ht.lift fun ht => ?_
  split
  next o ho => exact fresh_ite (fresh_progressSave ht (ht.ids.contexts.1 o (List.mem_of_find?_eq_some ho))) (fresh_progressLoad ht)
  · exact ht

@[simp] theorem fresh_oweStatus (hs : Fresh n₀ s) {i : Iss} {fs : FSel} {ka : KCode} : Fresh n₀ (oweStatus s i fs ka).2 := by
  simp [oweStatus, hs]

theorem Fresh.pushCx (hs : Fresh n₀ s) {o : CxOp} (ho : o.owed < n₀) : Fresh n₀ { s with cxops := s.cxops ++ [o] } :=
  hs.change (cxops := fun q hq => by
    rcases List.mem_append.1 hq with h | h
    · exact .inl ⟨q, h, rfl⟩
    · cases List.mem_singleton.1 h
      exact .inr (ho.trans_le hs.le))

theorem fresh_cxOp (hs : Fresh n₀ s) {save : Bool} {ka kb kc : KCode} {fs : FSel} : FreshOut n₀ (cxOp s save ka kb kc fs) := by
  unfold cxOp
  refine fresh_issue hs fun i => fresh_ite (fresh_raise hs) (fresh_ite hs ?_)
  have h : Fresh n₀ (oweStatus s i fs ka).2 := fresh_oweStatus hs
  refine fresh_ite (fresh_done.2 (fresh_bumpSeq.2 (fresh_finishCx h)))
    (fresh_progressCx (fresh_done.2 (fresh_bumpSeq.2 (hs.ofSucc (Fresh.pushCx ?_ (Nat.lt_succ_self _))))))
  have h' : Fresh (s.nextId + 1) (oweStatus s i fs ka).2 := fresh_oweResult_succ hs
  exact fresh_ite (Fresh.foldl (fresh_setTenantState.2 h') fun _ _ _ h => Fresh.foldl h fun _ _ _ h => fresh_answer.2 h) h'

theorem fresh_execCxsave (hs : Fresh n₀ s) {ka kb kc : KCode} {fs : FSel} : FreshOut n₀ (execCxsave ka kb kc fs s) := fresh_cxOp hs

theorem fresh_execCxload (hs : Fresh n₀ s) {ka kb kc : KCode} {fs : FSel} : FreshOut n₀ (execCxload ka kb kc fs s) := fresh_cxOp hs

theorem fresh_cxKill (hs : Fresh n₀ s) {kw : Nat} {t : State} (ht : cxKill s kw = some t) : Fresh n₀ t := by
  have one : ∀ (g : Option Nat) sc, g.map (fun g => killRecord (killScopeOf s g sc) (fld kw 0 4) kw 0 0 0) = some t → Fresh n₀ t := by
    intro g sc e
    obtain ⟨g, -, rfl⟩ := Option.map_eq_some_iff.1 e
    exact fresh_killRecord (fresh_killScopeOf hs)
  unfold cxKill at ht
  dsimp only at ht
  split at ht
  · exact one _ _ ht
  · exact one _ _ ht
  · exact one _ _ ht
  · split at ht
    · cases ht
      exact fresh_killRecord (fresh_contextReset hs)
    · cases ht

theorem fresh_execCxkill (hs : Fresh n₀ s) {ka kb : KCode} {fs : FSel} : FreshOut n₀ (execCxkill ka kb fs s) := by
  unfold execCxkill
  refine fresh_issue hs fun i => fresh_ite (fresh_raise hs) (fresh_ite hs ?_)
  have h : Fresh n₀ (oweStatus s i fs ka).2 := fresh_oweStatus hs
  dsimp only
  split
  next hk => exact fresh_done.2 (fresh_bumpSeq.2 (fresh_finishCx (fresh_cxKill h hk)))
  · exact fresh_done.2 (fresh_bumpSeq.2 (fresh_finishCx h))

theorem fresh_execPlacementStep (hs : Fresh n₀ s) : FreshOut n₀ (execPlacementStep s) := by
  unfold execPlacementStep
  simp [hs]

/-! ## TRAP, RETT, fault replies and errors -/

theorem fresh_execTrap (hs : Fresh n₀ s) {n : BitVec 8} : FreshOut n₀ (execTrap n s) := by
  unfold execTrap
  refine fresh_issue hs fun i => ?_
  simp [hs]
theorem fresh_execRett (hs : Fresh n₀ s) : FreshOut n₀ (execRett s) := by
  unfold execRett
  refine fresh_issue hs fun i => ?_
  dsimp only
  (repeat' split) <;> simp [hs]

theorem failRaster_id (f : PageFault) (r : Raster) : (f.failRaster r).id = r.id := by
  unfold PageFault.failRaster
  split <;> rfl

theorem failCx_owed (f : PageFault) (o : CxOp) : (f.failCx o).owed = o.owed := by
  unfold PageFault.failCx
  split <;> rfl

@[simp] theorem fresh_PageFault_fail (hs : Fresh n₀ s) {f : PageFault} : Fresh n₀ (PageFault.fail f s) := by
  refine hs.change (rasters := fun r h => .inl ?_) (patches := fun p h => .inl ?_) (xchgs := fun x h => .inl ?_)
    (cxops := fun o h => .inl ?_) (decoders := fun d e hd he => .inl ?_) (saved := fun c h => ?_)
  · obtain ⟨x, hx, rfl⟩ := List.mem_map.1 h
    exact ⟨x, hx, rfl⟩
  · obtain ⟨x, hx, rfl⟩ := List.mem_map.1 h
    exact ⟨x, hx, (failCx_owed f x).symm⟩
  · obtain ⟨x, hx, rfl⟩ := List.mem_map.1 h
    exact ⟨x, hx, by split <;> rfl⟩
  · obtain ⟨x, hx, rfl⟩ := List.mem_map.1 h
    exact ⟨x, hx, (failRaster_id f x).symm⟩
  · obtain ⟨c, hc, rfl⟩ := List.mem_map.1 hd
    obtain ⟨x, hx, rfl⟩ := List.mem_map.1 he
    exact ⟨c, x, hc, hx, by split <;> rfl⟩
  · rcases List.mem_append.1 h with h | h
    · obtain ⟨c, hc, rfl⟩ := List.mem_map.1 h
      obtain ⟨ho, hr, hp, hra⟩ := hs.ids.saved c (List.mem_append_left _ hc)
      refine .inr ⟨ho, hr, hp, fun r h => ?_⟩
      obtain ⟨x, hx, rfl⟩ := List.mem_map.1 h
      exact failRaster_id f x ▸ hra x hx
    · exact .inl (List.mem_append_right _ h)

@[simp] theorem fresh_failFetch {f : PageFault} : Fresh n₀ (failFetch f s) ↔ Fresh n₀ s := by simp [failFetch]

@[simp] theorem fresh_retryKills (hs : Fresh n₀ s) {tn : Nat} : Fresh n₀ (retryKills s tn) := by
  refine hs.foldl fun t k _ ht => ?_
  split
  next h => exact fresh_sendMsix.2 (fresh_updTenant.2 (fresh_writeRecord ht h))
  · exact ht
  · exact fresh_machineCheckNoRecord ht

@[simp] theorem fresh_resumeFaults (hs : Fresh n₀ s) {tn : Nat} : Fresh n₀ (resumeFaults s tn) := by
  have h : Fresh n₀ (logFaults s tn).1 := fresh_logFaults hs
  exact fresh_advanceXchgs (fresh_progressCx (fresh_ite (fresh_machineCheckNoRecord h) (fresh_retryKills h)))

@[simp] theorem fresh_dropFetched {tn va : Nat} : Fresh n₀ (dropFetched s tn va) ↔ Fresh n₀ s := by simp [dropFetched]
@[simp] theorem fresh_takeReply (hs : Fresh n₀ s) {tn n reply : Nat} : Fresh n₀ (takeReply s tn n reply) := by
  unfold takeReply
  dsimp only
  (repeat' split) <;> simp [hs]
theorem fresh_execFaultReply (hs : Fresh n₀ s) {tn n : Nat} : FreshOut n₀ (execFaultReply tn n s) := by
  unfold execFaultReply
  simp only [freshOut_next]
  (repeat' split) <;> simp [hs]
theorem fresh_execTranslationFlush (hs : Fresh n₀ s) {tn va : Nat} : FreshOut n₀ (execTranslationFlush tn va s) := by
  unfold execTranslationFlush
  simp only [freshOut_next]
  (repeat' split) <;> simp [hs]
@[simp] theorem fresh_slotWord {sl : Slot} : Fresh n₀ (slotWord s sl).2 ↔ Fresh n₀ s := by
  unfold slotWord
  split <;> simp
@[simp] theorem fresh_dataError (hs : Fresh n₀ s) {gid : Nat} : Fresh n₀ (dataError s gid) := by
  unfold dataError
  dsimp only
  (repeat' split) <;> simp [hs]
@[simp] theorem fresh_failBatch {tn slot : Nat} : Fresh n₀ (failBatch s tn slot) ↔ Fresh n₀ s := by simp [failBatch]

theorem fresh_execUncorrectableError (hs : Fresh n₀ s) {e : ErrorSite} : FreshOut n₀ (execUncorrectableError e s) := by
  unfold execUncorrectableError
  rw [freshOut_next]
  split
  · split
    · exact fresh_machineCheck (fresh_completeCopy hs)
    · exact hs
  · split
    · exact fresh_machineCheck (fresh_failWalk hs)
    · exact hs
  · split
    · exact fresh_machineCheck (fresh_endUnserved (fresh_dropQueued hs))
    · exact hs
  · split
    · exact fresh_ite hs (fresh_machineCheck (fresh_endPatch hs))
    · exact hs
  · split
    · exact fresh_ite hs (fresh_machineCheck (fresh_failRaster hs))
    · exact hs
  · split
    · exact fresh_ite (fresh_machineCheck (fresh_dataError hs)) hs
    · exact hs
  · split
    · exact fresh_ite (fresh_machineCheck (fresh_dataError hs)) hs
    · exact hs
  · split
    · exact fresh_machineCheck (fresh_fillOwed hs)
    · exact hs
  · exact fresh_machineCheck (fresh_failBatch.2 hs)
  · exact fresh_machineCheck hs
  · exact fresh_machineCheck (fresh_replyHost.2 hs)
  · exact hs.foldl fun _ _ _ h => fresh_killRecord (fresh_contextReset h)

theorem fresh_execCorrectedError (hs : Fresh n₀ s) {tn : Nat} : FreshOut n₀ (execCorrectedError tn s) := by
  unfold execCorrectedError
  simp [hs]

theorem fresh_execReplayDivergence (hs : Fresh n₀ s) {tn : Nat} : FreshOut n₀ (execReplayDivergence tn s) := by
  unfold execReplayDivergence
  rw [freshOut_next]
  split
  · exact hs
  · refine fresh_ite hs (fresh_killRecord (fresh_storeM (fresh_updTenant.2 (fresh_contextReset (fresh_countTrap.2 hs)))))

/-! ## Boot, tenants and power -/

@[simp] theorem fresh_bootImage {b : Bytes} : Fresh n₀ (bootImage s b) ↔ Fresh n₀ s := by simp [bootImage]
@[simp] theorem fresh_bootAttempt {port : Nat} {f : BootFile} : Fresh n₀ (bootAttempt s port f) ↔ Fresh n₀ s := by
  unfold bootAttempt
  dsimp only
  (repeat' split) <;> simp
theorem fresh_execBootRomStart (hs : Fresh n₀ s) {f : BootFile} : FreshOut n₀ (execBootRomStart f s) := by
  unfold execBootRomStart
  simp only [freshOut_next]
  (repeat' split) <;> simp [hs]
theorem fresh_execBootRetry (hs : Fresh n₀ s) : FreshOut n₀ (execBootRetry s) := by
  unfold execBootRetry
  simp only [freshOut_next]
  (repeat' split) <;> simp [hs]
theorem fresh_execAttestationRequest (hs : Fresh n₀ s) {r : AttestRequest} : FreshOut n₀ (execAttestationRequest r s) := by
  unfold execAttestationRequest
  simp only [freshOut_next]
  (repeat' split) <;> simp [hs]
@[simp] theorem fresh_refuseMailbox : Fresh n₀ (refuseMailbox s) ↔ Fresh n₀ s := by simp [refuseMailbox]
@[simp] theorem fresh_setPowerLimit {w : Nat} : Fresh n₀ (setPowerLimit s w) ↔ Fresh n₀ s := by
  unfold setPowerLimit
  split <;> simp
theorem fresh_execTenantConfigWrite (hs : Fresh n₀ s) {tn : Nat} {w : ConfigWrite} : FreshOut n₀ (execTenantConfigWrite tn w s) := by
  unfold execTenantConfigWrite
  simp only [freshOut_next]
  (repeat' split) <;> simp [hs]

theorem fresh_startAlmanac (hs : Fresh n₀ s) {tn : Nat} {c : TenantConfig} {a : Almanac} {t : State}
    (ht : startAlmanac s tn c = some (t, a)) : Fresh n₀ t := by
  unfold startAlmanac at ht
  split at ht
  · cases ht
    exact hs
  · cases ht
    exact fresh_storePieces hs
  · split at ht
    · split at ht
      · dsimp only at ht
        split at ht
        · cases ht
          exact hs
        · cases ht
      · cases ht
    · cases ht

theorem fresh_execTenantStart (hs : Fresh n₀ s) {tn : Nat} : FreshOut n₀ (execTenantStart tn s) := by
  unfold execTenantStart
  rw [freshOut_next]
  split
  · exact hs
  · refine fresh_ite hs ?_
    split
    · exact hs
    next h => exact fresh_updTenant.2 (fresh_fields.2 (fresh_startAlmanac hs h))

theorem fresh_execMonitorClear (hs : Fresh n₀ s) {tn : Nat} {m : MonitorName} : FreshOut n₀ (execMonitorClear tn m s) := by
  unfold execMonitorClear
  simp [hs]
theorem fresh_execQueueSample (hs : Fresh n₀ s) : FreshOut n₀ (execQueueSample s) := by
  unfold execQueueSample
  simp only [freshOut_next]
  (repeat' split) <;> simp [hs]
theorem fresh_execPowerSample (hs : Fresh n₀ s) {r : PowerReading} : FreshOut n₀ (execPowerSample r s) := by
  unfold execPowerSample
  simp only [freshOut_next]
  (repeat' split) <;> simp [hs]

theorem fresh_execThermalShutdown (hs : Fresh n₀ s) {die : Nat} : FreshOut n₀ (execThermalShutdown die s) := by
  unfold execThermalShutdown
  rw [freshOut_next]
  exact Fresh.foldl (fresh_fields.2 hs) fun _ _ _ h => fresh_machineCheck h
end Sys2Proof.Machine
end

section
/-! Identifiers stay fresh: the matrix arrays. -/

set_option Elab.async false

namespace Sys2Proof.Machine
open Sys2Proof
variable {n₀ : Nat} {s : State}

/-! ## The matrix arrays -/

@[simp] theorem fresh_arraySet {arr : Nat} {x : MatArray} : Fresh n₀ (arraySet s arr x) ↔ Fresh n₀ s := by simp [arraySet]

theorem fresh_tileOp (hs : Fresh n₀ s) {i : Iss} {x : BitVec 2} {acc : BitVec 3} {waits : Bool} {k : MatArray → Tile → State}
    (hk : ∀ a t, Fresh n₀ (k a t)) : Fresh n₀ (tileOp s i x acc waits k) :=
  fresh_ite (fresh_raise hs) (fresh_ite (fresh_park.2 hs) (hk _ _))

theorem fresh_execSclaim (hs : Fresh n₀ s) {x : BitVec 2} {sl n : BitVec 4} : FreshOut n₀ (execSclaim x sl n s) := by
  unfold execSclaim
  refine fresh_issue hs fun i => ?_
  dsimp only
  (repeat' split) <;> simp [hs]
theorem fresh_execSrel (hs : Fresh n₀ s) {x : BitVec 2} {sl n : BitVec 4} : FreshOut n₀ (execSrel x sl n s) := by
  unfold execSrel
  refine fresh_issue hs fun i => ?_
  dsimp only
  (repeat' split) <;> simp [hs]
theorem fresh_execAcq (hs : Fresh n₀ s) {x : BitVec 2} {acc : BitVec 3} : FreshOut n₀ (execAcq x acc s) := by
  unfold execAcq
  refine fresh_issue hs fun i => ?_
  dsimp only
  (repeat' split) <;> simp [hs]
theorem fresh_execRelFree (hs : Fresh n₀ s) {x : BitVec 2} {acc : BitVec 3} : FreshOut n₀ (execRelFree x acc s) := by
  unfold execRelFree
  refine fresh_issue hs fun i => ?_
  dsimp only
  (repeat' split) <;> simp [hs]
theorem fresh_execRel (hs : Fresh n₀ s) {x : BitVec 2} {acc : BitVec 3} : FreshOut n₀ (execRel x acc s) := by
  unfold execRel
  refine fresh_issue hs fun i => fresh_tileOp hs fun a t => ?_
  simp [hs]
theorem fresh_execMzero (hs : Fresh n₀ s) {x : BitVec 2} {acc : BitVec 3} : FreshOut n₀ (execMzero x acc s) := by
  unfold execMzero
  refine fresh_issue hs fun i => fresh_tileOp hs fun a t => ?_
  simp [hs]
theorem fresh_execMloop (hs : Fresh n₀ s) {x : BitVec 2} {acc : BitVec 3} {sa sb inc : BitVec 4} {ks1 ks2 : KCode} {pi : BitVec 5}
    {fs : FSel} {ra rb : Bool} :
    FreshOut n₀ (execMloop x acc sa sb inc ks1 ks2 pi fs ra rb s) := by
  unfold execMloop
  refine fresh_issue hs fun i => ?_
  dsimp only
  (repeat' split) <;> simp [hs]
theorem fresh_execMloopKStep (hs : Fresh n₀ s) {core x : Nat} : FreshOut n₀ (execMloopKStep core x s) := by
  unfold execMloopKStep
  simp only [freshOut_next]
  (repeat' split) <;> simp [hs]
theorem fresh_execMread (hs : Fresh n₀ s) {x : BitVec 2} {acc : BitVec 3} {ks1 : KCode} {v : VCode} {fs : FSel} :
    FreshOut n₀ (execMread x acc ks1 v fs s) := by
  unfold execMread
  exact fresh_issue hs fun i => fresh_ite (fresh_raise hs) (fresh_tileOp hs fun a t => fresh_done.2 (fresh_oweResult hs))
theorem fresh_execMwrite (hs : Fresh n₀ s) {x : BitVec 2} {acc : BitVec 3} {ks1 : KCode} {v : VCode} :
    FreshOut n₀ (execMwrite x acc ks1 v s) := by
  unfold execMwrite
  refine fresh_issue hs fun i => fresh_ite (fresh_raise hs) (fresh_tileOp hs fun a t => ?_)
  simp [hs]
theorem fresh_execMstore (hs : Fresh n₀ s) {x : BitVec 2} {acc : BitVec 3} {ks1 ks2 : KCode} {fs : FSel} :
    FreshOut n₀ (execMstore x acc ks1 ks2 fs s) := by
  unfold execMstore
  refine fresh_issue hs fun i => ?_
  (repeat' split) <;> simp [hs]
theorem fresh_execMstoreTileRead (hs : Fresh n₀ s) {id : Nat} : FreshOut n₀ (execMstoreTileRead id s) := by
  unfold execMstoreTileRead
  simp [hs]
end Sys2Proof.Machine
end

section
/-! Identifiers stay fresh: every operation, every turn, every step; O57. -/

set_option Elab.async false

namespace Sys2Proof.Machine
open Sys2Proof
variable {n₀ : Nat} {s : State}

/-! ## Every operation and every step -/

theorem fresh_valu1 (hs : Fresh n₀ s) {t : Ty} {d a : VCode} {p : MCode} {f : Nat → Nat} :
    FreshOut n₀ (valu1 s t d a p f) := fresh_valu hs
theorem fresh_valu2 (hs : Fresh n₀ s) {t : Ty} {d a b : VCode} {p : MCode} {f : Nat → Nat → Nat} :
    FreshOut n₀ (valu2 s t d a b p f) := fresh_valu hs
theorem fresh_valu3 (hs : Fresh n₀ s) {t : Ty} {d a b c : VCode} {p : MCode} {f : Nat → Nat → Nat → Nat} :
    FreshOut n₀ (valu3 s t d a b c p f) := fresh_valu hs
theorem fresh_valuImm (hs : Fresh n₀ s) {d a : VCode} {p : MCode} {imm : W32} {f : Nat → Nat → Nat} :
    FreshOut n₀ (valuImm s d a p imm f) := fresh_valu hs
theorem fresh_valuCarry (hs : Fresh n₀ s) {sub : Bool} {t : Ty} {d a b : VCode} {mc p : MCode} :
    FreshOut n₀ (valuCarry s sub t d a b mc p) := fresh_valu hs
theorem fresh_falu1 (hs : Fresh n₀ s) {d a : VCode} {p : MCode} {na aa : Bool} {f : FVal → Nat × FFlags} :
    FreshOut n₀ (falu1 s d a p na aa f) := fresh_falu hs
theorem fresh_falu2 (hs : Fresh n₀ s) {d a b : VCode} {p : MCode} {na nb aa ab : Bool} {f : FVal → FVal → Nat × FFlags} :
    FreshOut n₀ (falu2 s d a b p na nb aa ab f) := fresh_falu hs
theorem fresh_faluMinMax (hs : Fresh n₀ s) {mx : Bool} {d a b : VCode} {p : MCode} {na nb aa ab : Bool} :
    FreshOut n₀ (faluMinMax s mx d a b p na nb aa ab) := fresh_falu hs
theorem fresh_salu1 (hs : Fresh n₀ s) {t : Ty} {d a : KCode} {cc : Bool} {f : Nat → Nat} {k : Nat → Nat → Codes} :
    FreshOut n₀ (salu1 s t d a cc f k) := fresh_salu hs
theorem fresh_salu2 (hs : Fresh n₀ s) {t : Ty} {d a b : KCode} {cc : Bool} {f : Nat → Nat → Nat} {k : Nat → Nat → Nat → Codes} :
    FreshOut n₀ (salu2 s t d a b cc f k) := fresh_salu hs
theorem fresh_salu3 (hs : Fresh n₀ s) {t : Ty} {d a b c : KCode} {cc : Bool} {f : Nat → Nat → Nat → Nat} {k : Nat → Nat → Nat → Nat → Codes} :
    FreshOut n₀ (salu3 s t d a b c cc f k) := fresh_salu hs
theorem fresh_saluImm (hs : Fresh n₀ s) {t : Ty} {d a : KCode} {cc : Bool} {imm : W32} {f : Nat → Nat → Nat} {k : Nat → Nat → Nat → Codes} :
    FreshOut n₀ (saluImm s t d a cc imm f k) := fresh_salu hs
theorem fresh_maskOp (hs : Fresh n₀ s) {md : MCode} {srcs : List MCode} {cc : Bool} {f : Iss → W32} :
    FreshOut n₀ (maskOp s md srcs cc f) := fresh_salu hs

/-- Every operation that leads to a next state leads to one with fresh identifiers. -/
theorem fresh_exec (hs : Fresh n₀ s) (i : Instr) : FreshOut n₀ (exec i s) := by
  unfold exec
  cases i with
  | iaddVr | isubVr | imulVr | imulhVr | iminVr | imaxVr | andVr | orVr | xorVr | andnVr | shlVr | shrVr | sarVr | rolVr =>
    exact fresh_valu2 hs
  | imadVr | btabVr | bfxVr | binsVr | plsetVr | leaVr =>
    exact fresh_valu3 hs
  | iabsVr | inegVr | popcVr | clzVr | ctzVr | brevVr | movVr =>
    exact fresh_valu1 hs
  | iaddcVr | isubbVr =>
    exact fresh_valuCarry hs
  | ffcsVr | icmpVr | selVr | lshuf | bcast | moviVi | icmpVi =>
    exact fresh_valu hs
  | iaddVi | imulVi | andVi | orVi | xorVi | shlVi | shrVi | sarVi =>
    exact fresh_valuImm hs
  | fadd | fsub | fmul =>
    exact fresh_falu2 hs
  | ffma | fcmp | fclass | fscale | frint | pkfma | fdot2 | fcvt | icvt | lmul | lsum =>
    exact fresh_falu hs
  | fmin | fmax =>
    exact fresh_faluMinMax hs
  | frcp | fsqrt | frsq | fexp2 | flog2 =>
    exact fresh_falu1 hs
  | iaddSr | isubSr | imulSr | imulhSr | iminSr | imaxSr | andSr | orSr | xorSr | andnSr | shlSr | shrSr | sarSr | rolSr =>
    exact fresh_salu2 hs
  | imadSr | btabSr | bfxSr | binsSr | plsetSr | leaSr =>
    exact fresh_salu3 hs
  | iabsSr | inegSr | popcSr | clzSr | ctzSr | brevSr | movSr =>
    exact fresh_salu1 hs
  | iaddcSr | isubbSr | ffcsSr | icmpSr | selSr | mpopc | mfirst | moviSi | icmpSi =>
    exact fresh_salu hs
  | mand | mor | mxor | mandn | mnot | mmov =>
    exact fresh_maskOp hs
  | iaddSi | isubSi | imulSi | andSi | orSi | xorSi | shlSi | shrSi | sarSi | iminSi | imaxSi =>
    exact fresh_saluImm hs
  | ldl | ldt | ldd =>
    exact fresh_loadOp hs
  | stl | stt | std =>
    exact fresh_storeOp hs
  | atomT | redT | atomD | redD =>
    exact fresh_atomOp hs
  | atomM | redM =>
    exact fresh_atomMain hs
  | fence | fenceAcq | fenceRel =>
    exact fresh_fenceOp hs
  | copy | copyg | copys | route =>
    exact fresh_copyOp hs
  | oenterAll | oenterPart | owait | owaitPart =>
    exact fresh_enterOp hs
  | elect => exact fresh_execElect hs
  | retire => exact fresh_execRetire hs
  | movsVr => exact fresh_execMovsVr hs
  | movsSr => exact fresh_execMovsSr hs
  | movsFflagsWrite => exact fresh_execMovsFflagsWrite hs
  | clock => exact fresh_execClock hs
  | jmp => exact fresh_execJmp hs
  | frame => exact fresh_execFrame hs
  | rhead => exact fresh_execRhead hs
  | bra => exact fresh_execBra hs
  | call => exact fresh_execCall hs
  | ret => exact fresh_execRet hs
  | fork => exact fresh_execFork hs
  | join => exact fresh_execJoin hs
  | exit => exact fresh_execExit hs
  | nop => exact fresh_execNop hs
  | barinit => exact fresh_execBarinit hs
  | barexp => exact fresh_execBarexp hs
  | bararr => exact fresh_execBararr hs
  | barwait => exact fresh_execBarwait hs
  | baraw => exact fresh_execBaraw hs
  | mwait => exact fresh_execMwait hs
  | tidset => exact fresh_execTidset hs
  | tidinv => exact fresh_execTidinv hs
  | cbatch => exact fresh_execCbatch hs
  | waitb => exact fresh_execWaitb hs
  | xchg => exact fresh_execXchg hs
  | sclaim => exact fresh_execSclaim hs
  | srel => exact fresh_execSrel hs
  | acq => exact fresh_execAcq hs
  | rel => exact fresh_execRel hs
  | relFree => exact fresh_execRelFree hs
  | mzero => exact fresh_execMzero hs
  | mloop => exact fresh_execMloop hs
  | mread => exact fresh_execMread hs
  | mwrite => exact fresh_execMwrite hs
  | mstore => exact fresh_execMstore hs
  | rinit => exact fresh_execRinit hs
  | rbox => exact fresh_execRbox hs
  | rtri => exact fresh_execRtri hs
  | mdec => exact fresh_execMdec hs
  | tbread => exact fresh_execTbread hs
  | mpatch => exact fresh_execMpatch hs
  | mstatBuf => exact fresh_execMstatBuf hs
  | mstatFord => exact fresh_execMstatFord hs
  | raster => exact fresh_execRaster hs
  | send => exact fresh_execSend hs
  | recv => exact fresh_execRecv hs
  | peek => exact fresh_execPeek hs
  | oopen => exact fresh_execOopen hs
  | oclose => exact fresh_execOclose hs
  | oleave => exact fresh_execOleave hs
  | oskip => exact fresh_execOskip hs
  | launch => exact fresh_execLaunch hs
  | glaunch => exact fresh_execGlaunch hs
  | emit => exact fresh_execEmit hs
  | commit => exact fresh_execCommit hs
  | signal => exact fresh_execSignal hs
  | waitg => exact fresh_execWaitg hs
  | reorder => exact fresh_execReorder hs
  | role => exact fresh_execRole hs
  | trap => exact fresh_execTrap hs
  | rett => exact fresh_execRett hs
  | cxsave => exact fresh_execCxsave hs
  | cxload => exact fresh_execCxload hs
  | cxkill => exact fresh_execCxkill hs
  | clauseSelection => exact fresh_execClauseSelection hs
  | starvationPromotion => exact fresh_execStarvationPromotion hs
  | congestionLevelUpdate => exact fresh_execCongestionLevelUpdate hs
  | resultArrival => exact fresh_execResultArrival hs
  | channelEntryArrival => exact fresh_execChannelEntryArrival hs
  | channelCreditReturn => exact fresh_execChannelCreditReturn hs
  | channelStallBudget => exact fresh_execChannelStallBudget hs
  | processionHomeRequest => exact fresh_execProcessionHomeRequest hs
  | processionLeaveArrival => exact fresh_execProcessionLeaveArrival hs
  | processionAdmissionReturn => exact fresh_execProcessionAdmissionReturn hs
  | processionStallBudget => exact fresh_execProcessionStallBudget hs
  | mwaitWake => exact fresh_execMwaitWake hs
  | roleGrant => exact fresh_execRoleGrant hs
  | reorderMove => exact fresh_execReorderMove hs
  | copyDelivery => exact fresh_execCopyDelivery hs
  | copyCompletion => exact fresh_execCopyCompletion hs
  | mloopKStep => exact fresh_execMloopKStep hs
  | mstoreTileRead => exact fresh_execMstoreTileRead hs
  | decoderServe => exact fresh_execDecoderServe hs
  | walkStep => exact fresh_execWalkStep hs
  | streamHoldGrant => exact fresh_execStreamHoldGrant hs
  | rasterTriangle => exact fresh_execRasterTriangle hs
  | rasterComplete => exact fresh_execRasterComplete hs
  | faultReply => exact fresh_execFaultReply hs
  | translationFlush => exact fresh_execTranslationFlush hs
  | uncorrectableError => exact fresh_execUncorrectableError hs
  | placementStep => exact fresh_execPlacementStep hs
  | headReserving => exact fresh_execHeadReserving hs
  | teamStart => exact fresh_execTeamStart hs
  | dependenceWordCheck => exact fresh_execDependenceWordCheck hs
  | gridCompletion => exact fresh_execGridCompletion hs
  | rootProgramLaunch => exact fresh_execRootProgramLaunch hs
  | batchTimeout => exact fresh_execBatchTimeout hs
  | batchIdleClose => exact fresh_execBatchIdleClose hs
  | graphCompletion => exact fresh_execGraphCompletion hs
  | hostInboxWrite => exact fresh_execHostInboxWrite hs
  | hostBar2Access => exact fresh_execHostBar2Access hs
  | remoteRequestServe => exact fresh_execRemoteRequestServe hs
  | flitReceive => exact fresh_execFlitReceive hs
  | negativeAcknowledgement => exact fresh_execNegativeAcknowledgement hs
  | linkDown => exact fresh_execLinkDown hs
  | parkedNotice => exact fresh_execParkedNotice hs
  | remoteResponse => exact fresh_execRemoteResponse hs
  | remoteTimeout => exact fresh_execRemoteTimeout hs
  | ucieLinkFailure => exact fresh_execUcieLinkFailure hs
  | xchgCountReceive => exact fresh_execXchgCountReceive hs
  | xchgCountResend => exact fresh_execXchgCountResend hs
  | xchgReadyReceive => exact fresh_execXchgReadyReceive hs
  | xchgRowReceive => exact fresh_execXchgRowReceive hs
  | xchgRowAck => exact fresh_execXchgRowAck hs
  | xchgDoneReceive => exact fresh_execXchgDoneReceive hs
  | xchgFailureReceive => exact fresh_execXchgFailureReceive hs
  | replayDivergence => exact fresh_execReplayDivergence hs
  | bootRomStart => exact fresh_execBootRomStart hs
  | bootRetry => exact fresh_execBootRetry hs
  | tenantConfigWrite => exact fresh_execTenantConfigWrite hs
  | tenantStart => exact fresh_execTenantStart hs
  | attestationRequest => exact fresh_execAttestationRequest hs
  | monitorClear => exact fresh_execMonitorClear hs
  | queueSample => exact fresh_execQueueSample hs
  | powerSample => exact fresh_execPowerSample hs
  | thermalShutdown => exact fresh_execThermalShutdown hs
  | accessPerformed => exact fresh_execAccessPerformed hs
  | correctedError => exact fresh_execCorrectedError hs

theorem fresh_issueTurn (hs : Fresh n₀ s) : FreshOut n₀ (issueTurn s) := by
  unfold issueTurn
  split
  · exact freshOut_next.2 hs
  · split
    · exact freshOut_next.2 hs
    · split
      · exact fresh_exec hs _
      · split
        · exact freshOut_next.2 hs
        · exact freshOut_next.2 (fresh_raise hs)

theorem fresh_takeTurn (hs : Fresh n₀ s) {t : Turn} : FreshOut n₀ (takeTurn t s) := by
  unfold takeTurn
  dsimp only
  split
  · exact fresh_issueTurn (fresh_fields.2 hs)
  · split
    · exact fresh_exec (fresh_fields.2 hs) _
    · exact freshOut_next.2 (fresh_fields.2 hs)

theorem fresh_nextTurn (hs : Fresh n₀ s) : Fresh n₀ (nextTurn s).2 := by
  unfold nextTurn
  split
  · exact fresh_fields.2 hs
  · exact hs

/-- Settles O57: every operation gives out new identifiers alone, and moves the old ones between the lists that name them. -/
theorem identifiersStayFresh : Obligations.IdentifiersStayFresh :=
  fun _ t hs h => (fresh_takeTurn (fresh_nextTurn hs.fresh) t h).ids
end Sys2Proof.Machine
end

section
/-! PROOF of O14. The register window: CALL, RET and FRAME, and what spills and fills move (R17, R18, R99, R299). -/

set_option Elab.async false

namespace Sys2Proof.Machine
open Sys2Proof

/-! ## Numbers written to places that do not overlap -/

/-- A number read depends on its own bytes alone. -/
theorem readNat_congr {m m' : Mem} {a n : Nat} (h : ∀ x, a ≤ x → x < a + n → readByte m x = readByte m' x) :
    readNat m a n = readNat m' a n := by
  unfold readNat
  congr 1
  induction n generalizing a with
  | zero => rfl
  | succ n ih =>
    rw [readBytes, readBytes, h a (by omega) (by omega), ih fun x h1 h2 => h x (by omega) (by omega)]

/-- Numbers of n bytes, the k-th at `ad k`, written one after the other. -/
def writeAll (ad v : Nat → Nat) (n : Nat) (ks : List Nat) (m : Mem) : Mem :=
  ks.foldl (fun m k => writeNat m (ad k) n (v k)) m

theorem foldl_writeSpace_scratch (ad v : Nat → Nat) (n : Nat) (ks : List Nat) (s : State) :
    ks.foldl (fun s k => writeSpace s .d (ad k) n (v k)) s = { s with scratch := writeAll ad v n ks s.scratch } := by
  induction ks generalizing s with
  | nil => rfl
  | cons k ks ih => rw [List.foldl_cons, ih]; rfl

theorem readByte_writeAll_outside {ad v : Nat → Nat} {n : Nat} {ks : List Nat} {m : Mem} {x : Nat}
    (h : ∀ k ∈ ks, x < ad k ∨ ad k + n ≤ x) : readByte (writeAll ad v n ks m) x = readByte m x := by
  induction ks generalizing m with
  | nil => rfl
  | cons k ks ih =>
    rw [writeAll, List.foldl_cons]
    exact (ih fun j hj => h j (List.mem_cons_of_mem _ hj)).trans (readByte_writeNat_outside _ _ _ _ (h k List.mem_cons_self))

/-- Each number reads back where the places do not overlap. -/
theorem readNat_writeAll {ad v : Nat → Nat} {n : Nat} {ks : List Nat} {m : Mem} {k : Nat} (hk : k ∈ ks)
    (hd : ks.Pairwise fun i j => ad i + n ≤ ad j) : readNat (writeAll ad v n ks m) (ad k) n = v k % 256 ^ n := by
  induction ks generalizing m with
  | nil => cases hk
  | cons j ks ih =>
    obtain ⟨hj, hd⟩ := List.pairwise_cons.1 hd
    rw [writeAll, List.foldl_cons]
    rcases List.mem_cons.1 hk with rfl | hk
    · rw [← readNat_writeNat m (ad k) n (v k)]
      refine readNat_congr fun x h1 h2 => readByte_writeAll_outside fun j h => .inl ?_
      have := hj j h
      omega
    · exact ih hk hd

/-- The places of numbers laid one after the other do not overlap. -/
theorem pairwise_places {ad : Nat → Nat} {n : Nat} (had : ∀ i j, i < j → ad i + n ≤ ad j) (m : Nat) :
    (List.range m).Pairwise fun i j => ad i + n ≤ ad j :=
  List.pairwise_lt_range.imp fun {i j} h => had i j h

theorem leNat_lt (bs : Bytes) : leNat bs < 256 ^ bs.length := by
  induction bs with
  | nil => simp [leNat]
  | cons b bs ih =>
    rw [leNat, List.length_cons, pow_succ]
    have := b.isLt
    omega

theorem readBytes_length (m : Mem) (a n : Nat) : (readBytes m a n).length = n := by
  induction n generalizing a with
  | zero => rfl
  | succ n ih => rw [readBytes, List.length_cons, ih]

theorem readNat_lt (m : Mem) (a n : Nat) : readNat m a n < 256 ^ n := by
  simpa [readNat, readBytes_length] using leNat_lt (readBytes m a n)

end Sys2Proof.Machine
end

section
/-! PROOF of O14. What the services of overflow and underflow move between the registers and the areas (R18, R299). -/

set_option Elab.async false

namespace Sys2Proof.Machine
open Sys2Proof

/-! ## Entries of the register file -/

theorem foldl_tset_range (b m : Nat) (x : Nat → W32) (v : SMap W32) (y : Nat) :
    tget 0 ((List.range m).foldl (fun v l => tset 0 v (b + l) (x l)) v) y =
      if b ≤ y ∧ y < b + m then x (y - b) else tget 0 v y := by
  induction m with
  | zero => rw [if_neg (by omega)]; rfl
  | succ m ih =>
    rw [List.range_succ, List.foldl_append, List.foldl_cons, List.foldl_nil, tget_tset, ih]
    by_cases h : y = b + m
    · rw [if_pos h, if_pos (by omega), h, Nat.add_sub_cancel_left]
    · rw [if_neg h]
      exact if_congr (by omega) rfl rfl

/-- An entry set holds what it was set to, and every other element is as before. -/
theorem tget_setEntry (g : Group) (b : Nat) (x : Nat → W32) (y : Nat) :
    tget 0 (setEntry g b x).vregs y =
      if vBase (.stack b) ≤ y ∧ y < vBase (.stack b) + 32 then x (y - vBase (.stack b)) else tget 0 g.vregs y :=
  foldl_tset_range _ 32 x g.vregs y

theorem vGet_setEntry_self (g : Group) (b : Nat) (x : Nat → W32) {l : Nat} (hl : l < 32) : vGet (setEntry g b x) (.stack b) l = x l := by
  rw [vGet, tget_setEntry, if_pos (by omega), Nat.add_sub_cancel_left]

theorem vGet_setEntry_other (g : Group) {b n : Nat} (x : Nat → W32) {l : Nat} (hl : l < 32) (h : n ≠ b) :
    vGet (setEntry g b x) (.stack n) l = vGet g (.stack n) l := by
  rw [vGet, tget_setEntry, if_neg (by simp only [vBase]; omega), vGet]

theorem vGet_setEntry_v (g : Group) (b : Nat) {n : Nat} (x : Nat → W32) {l : Nat} (hl : l < 32) (h : n < 64) :
    vGet (setEntry g b x) (.v n) l = vGet g (.v n) l := by
  rw [vGet, tget_setEntry, if_neg (by simp only [vBase]; omega), vGet]

theorem regAreaAddr_setEntry (g : Group) (b : Nat) (x : Nat → W32) (n : Nat) : regAreaAddr (setEntry g b x) n = regAreaAddr g n := by
  simp only [regAreaAddr, setEntry]

/-- A group that differs at most in the entries b to c − 1 of its register file. -/
structure SameButEntries (g g' : Group) (b c : Nat) : Prop where
  rest : g' = { g with vregs := g'.vregs }
  entries : ∀ n l, l < 32 → n < b ∨ c ≤ n → vGet g' (.stack n) l = vGet g (.stack n) l
  direct : ∀ n l, l < 32 → n < 64 → vGet g' (.v n) l = vGet g (.v n) l

theorem SameButEntries.refl (g : Group) (b c : Nat) : SameButEntries g g b c := ⟨rfl, fun _ _ _ _ => rfl, fun _ _ _ _ => rfl⟩

theorem sameButEntries_setEntry (g : Group) {b c : Nat} (x : Nat → W32) {n : Nat} (h1 : b ≤ n) (h2 : n < c) :
    SameButEntries g (setEntry g n x) b c :=
  ⟨rfl, fun _ _ hl h => vGet_setEntry_other g x hl (by omega), fun _ _ hl h => vGet_setEntry_v g n x hl h⟩

theorem SameButEntries.trans {g g' g'' : Group} {b c : Nat} (h : SameButEntries g g' b c) (h' : SameButEntries g' g'' b c) :
    SameButEntries g g'' b c := by
  refine ⟨?_, fun n l hl hn => (h'.entries n l hl hn).trans (h.entries n l hl hn),
    fun n l hl hn => (h'.direct n l hl hn).trans (h.direct n l hl hn)⟩
  rw [h'.rest, h.rest]

theorem SameButEntries.mono {g g' : Group} {b c b' c' : Nat} (h : SameButEntries g g' b c) (hb : b' ≤ b) (hc : c ≤ c') :
    SameButEntries g g' b' c' := ⟨h.rest, fun n l hl hn => h.entries n l hl (by omega), h.direct⟩

/-! ## A group rewritten in place -/

/-- A state that differs from another at most in one group. -/
structure OnlyGroup (s t : State) (gid : Nat) : Prop where
  rest : t = { s with groups := t.groups }
  others : othersKept s t gid

theorem OnlyGroup.refl (s : State) (gid : Nat) : OnlyGroup s s gid := ⟨rfl, fun _ _ => rfl⟩

theorem onlyGroup_putGroup (s : State) (gid : Nat) (g : Group) : OnlyGroup s (putGroup s gid g) gid :=
  ⟨rfl, fun _ hx => tfind_tput_other _ _ _ hx⟩

theorem OnlyGroup.trans {s t u : State} {gid : Nat} (h : OnlyGroup s t gid) (h' : OnlyGroup t u gid) : OnlyGroup s u gid :=
  ⟨by rw [h'.rest, h.rest], fun x hx => (h'.others x hx).trans (h.others x hx)⟩

theorem updGroup_eq {s : State} {gid : Nat} {g : Group} (h : tfind s.groups gid = some g) (f : Group → Group) :
    updGroup s gid f = putGroup s gid (f g) := by
  simp [updGroup, h]

/-! ## Spills -/

theorem lane_places (g : Group) (b : Nat) : ∀ i j, i < j → regAreaAddr g b + 4 * i + 4 ≤ regAreaAddr g b + 4 * j := by
  intro i j h
  omega

/-- A state with entry b of a group written to the group's register area. -/
def storeEntry (s : State) (g : Group) (b : Nat) : State :=
  { s with scratch := writeAll (regAreaAddr g b + 4 * ·) (fun l => (vGet g (.stack b) l).toNat) 4 lanes s.scratch }

theorem spillEntries_succ {s : State} {gid : Nat} {g : Group} (hg : tfind s.groups gid = some g) (b k : Nat) :
    spillEntries s gid b (k + 1) =
      spillEntries (putGroup (storeEntry s g b) gid (setEntry g b fun _ => 0)) gid (b + 1) k := by
  rw [spillEntries, hg]
  simp only [foldl_writeSpace_scratch (regAreaAddr g b + 4 * ·) (fun l => (vGet g (.stack b) l).toNat), storeEntry]

theorem readNat_storeEntry (s : State) (g : Group) (b : Nat) {l : Nat} (hl : l < 32) :
    readNat (storeEntry s g b).scratch (regAreaAddr g b + 4 * l) 4 = (vGet g (.stack b) l).toNat := by
  have h := readNat_writeAll (v := fun l => (vGet g (.stack b) l).toNat) (m := s.scratch) (List.mem_range.2 hl)
    (pairwise_places (lane_places g b) 32)
  rw [Nat.mod_eq_of_lt ((vGet g (.stack b) l).isLt.trans_le (by norm_num))] at h
  exact h

theorem readByte_storeEntry_outside (s : State) (g : Group) (b : Nat) {x : Nat}
    (hx : x < regAreaAddr g b ∨ regAreaAddr g b + 128 ≤ x) : readByte (storeEntry s g b).scratch x = readByte s.scratch x := by
  refine readByte_writeAll_outside fun l hl => ?_
  have := List.mem_range.1 hl
  omega

/-- What spilling the entries b to b + k − 1 of a group leads to. -/
structure Spilled (s t : State) (gid : Nat) (g g' : Group) (b k : Nat) : Prop where
  group : tfind t.groups gid = some g'
  same : SameButEntries g g' b (b + k)
  rest : t = { s with
    scratch := t.scratch
    groups := t.groups }
  others : othersKept s t gid
  stored : ∀ n l, l < 32 → b ≤ n → n < b + k → readNat t.scratch (regAreaAddr g n + 4 * l) 4 = (vGet g (.stack n) l).toNat
  outside : ∀ x, x < regAreaAddr g b ∨ regAreaAddr g (b + k) ≤ x → readByte t.scratch x = readByte s.scratch x

theorem spilled_spillEntries {s : State} {gid : Nat} {g : Group} (hg : tfind s.groups gid = some g) (b k : Nat) :
    ∃ g', Spilled s (spillEntries s gid b k) gid g g' b k := by
  induction k generalizing s g b with
  | zero =>
    rw [spillEntries]
    exact ⟨g, hg, .refl g _ _, rfl, fun _ _ => rfl, fun _ _ _ _ _ => by omega, fun _ _ => rfl⟩
  | succ k ih =>
    rw [spillEntries_succ hg]
    obtain ⟨g', h⟩ := ih (s := putGroup (storeEntry s g b) gid (setEntry g b fun _ => 0)) (tfind_tput_self _ _ _) (b + 1)
    have hadr := regAreaAddr_setEntry g b fun _ => 0
    refine ⟨g', h.group, ?_, ?_, ?_, ?_, ?_⟩
    · exact (sameButEntries_setEntry g _ (Nat.le_refl b) (by omega)).trans (h.same.mono (by omega) (by omega))
    · exact h.rest
    · exact fun x hx => (h.others x hx).trans (tfind_tput_other _ _ _ hx)
    · intro n l hl h1 h2
      by_cases hn : n = b
      · subst hn
        refine (readNat_congr fun x h3 h4 => h.outside x (.inl ?_)).trans (readNat_storeEntry s g n hl)
        rw [hadr]
        unfold regAreaAddr at *
        omega
      · rw [← hadr, h.stored n l hl (by omega) (by omega), vGet_setEntry_other g _ hl hn]
    · intro x hx
      rw [h.outside x (by rw [hadr, hadr]; unfold regAreaAddr at *; omega)]
      exact readByte_storeEntry_outside s g b (by unfold regAreaAddr at *; omega)

/-- As many entries leave as the frame needs, and none of the window's own (R299). -/
theorem spillCount_bounds {w e z : Nat} (he : e ≤ z) (fuel : Nat) {rb : Nat} (hf : w ≤ rb + fuel) (h : rb ≤ w) :
    rb + spillCount w e z fuel rb ≤ w ∧ w + e ≤ rb + spillCount w e z fuel rb + z := by
  induction fuel generalizing rb with
  | zero => simp only [spillCount]; omega
  | succ fuel ih =>
    unfold spillCount
    split
    · obtain ⟨h1, h2⟩ := ih (rb := rb + min 8 (w - rb)) (by omega) (by omega)
      omega
    · omega

/-! ## Fills -/

/-- What filling the entries b to b + k − 1 of a group leads to. -/
structure Filled (s t : State) (gid : Nat) (g g' : Group) (b k : Nat) : Prop where
  group : tfind t.groups gid = some g'
  same : SameButEntries g g' b (b + k)
  only : OnlyGroup s t gid
  read : ∀ n l, l < 32 → b ≤ n → n < b + k → (vGet g' (.stack n) l).toNat = readNat s.scratch (regAreaAddr g n + 4 * l) 4

theorem filled_fillEntries {s : State} {gid : Nat} {g : Group} (hg : tfind s.groups gid = some g) (b k : Nat) :
    ∃ g', Filled s (fillEntries s gid b k) gid g g' b k := by
  induction k generalizing s g b with
  | zero =>
    rw [fillEntries]
    exact ⟨g, hg, .refl g _ _, .refl s gid, fun _ _ _ _ _ => by omega⟩
  | succ k ih =>
    rw [fillEntries, hg]
    obtain ⟨g', h⟩ := ih (s := putGroup s gid
      (setEntry g b fun l => BitVec.ofNat 32 (readNat s.scratch (regAreaAddr g b + 4 * l) 4))) (tfind_tput_self _ _ _) (b + 1)
    refine ⟨g', h.group, ?_, (onlyGroup_putGroup s gid _).trans h.only, ?_⟩
    · exact (sameButEntries_setEntry g _ (Nat.le_refl b) (by omega)).trans (h.same.mono (by omega) (by omega))
    · intro n l hl h1 h2
      by_cases hn : n = b
      · subst hn
        rw [h.same.entries n l hl (by omega), vGet_setEntry_self g n _ hl, BitVec.toNat_ofNat]
        exact Nat.mod_eq_of_lt (readNat_lt _ _ _)
      · exact h.read n l hl (by omega) (by omega)

/-- Entries dropped change those entries alone. -/
theorem sameButEntries_dropEntries (g : Group) (b k : Nat) : SameButEntries g (dropEntries g b k) b (b + k) := by
  unfold dropEntries upto
  induction k with
  | zero => exact .refl g _ _
  | succ k ih =>
    rw [List.range_succ, List.foldl_append, List.foldl_cons, List.foldl_nil]
    exact (ih.mono (Nat.le_refl b) (by omega)).trans (sameButEntries_setEntry _ _ (by omega) (by omega))

end Sys2Proof.Machine
end

section
/-! PROOF of O14. CALL, RET and FRAME where the window moves, and where an operand or the group's state refuses it (R17, R99). -/

set_option Elab.async false

namespace Sys2Proof.Machine
open Sys2Proof

/-! ## Leaving an instruction -/

theorem setSlot_rest (g : Group) (n : Nat) (x : Option Slot) : setSlot g n x = { g with
    slot0 := (setSlot g n x).slot0
    slot1 := (setSlot g n x).slot1 } := by
  unfold setSlot
  split <;> rfl

theorem slotOf_unparked (g : Group) (m : Nat) : slotOf { g with park := none } m = slotOf g m := by
  unfold slotOf
  split <;> rfl

/-- A group with the slots of another has its slot n. -/
theorem slotOf_congr {g g' : Group} (h0 : g'.slot0 = g.slot0) (h1 : g'.slot1 = g.slot1) (n : Nat) : slotOf g' n = slotOf g n := by
  unfold slotOf
  split
  · exact h0
  · exact h1
  · rfl

theorem jumpG_jumped {now : Nat} {i : Iss} {g : Group} (hdr : Nat) (hn : i.n < 2) (h : slotOf g i.n = some i.slot)
    (ho : slotOf g (1 - i.n) = slotOf i.g (1 - i.n)) : i.jumped now (jumpG now i g hdr) hdr := by
  unfold Iss.jumped jumpG
  rw [h, slotOf_setSlot hn, slotOf_setSlot hn, if_pos rfl, if_neg (by omega), ← ho, slotOf_unparked]
  exact ⟨rfl, rfl⟩

theorem jumpG_sameButSlots {now : Nat} {i : Iss} {g : Group} (hdr : Nat) (hn : i.n < 2)
    (ho : slotOf g (1 - i.n) = slotOf i.g (1 - i.n)) : sameButSlots i g (jumpG now i g hdr) := by
  refine ⟨?_, ?_⟩
  · unfold jumpG
    rw [setSlot_rest]
  · rw [jumpG, slotOf_setSlot hn, if_neg (by omega), slotOf_unparked, ho]

theorem pastG_sameButSlots {now : Nat} {i : Iss} {g : Group} (hn : i.n < 2)
    (ho : slotOf g (1 - i.n) = slotOf i.g (1 - i.n)) : sameButSlots i g (pastG now i g) := by
  refine ⟨?_, ?_⟩
  · unfold pastG
    rw [setSlot_rest]
  · rw [pastG, slotOf_setSlot hn, if_neg (by omega), slotOf_unparked, ho]

/-- The group of an issuing slot, changed but for its slots, leaves its clause. -/
theorem jump_of_issuer {s : State} {i : Iss} {g : Group} (hdr : Nat) (hi : issuer s = some i) (h0 : g.slot0 = i.g.slot0)
    (h1 : g.slot1 = i.g.slot1) : sameButSlots i g (jumpG s.now i g hdr) ∧ i.jumped s.now (jumpG s.now i g hdr) hdr := by
  have ho := slotOf_congr h0 h1
  exact ⟨jumpG_sameButSlots hdr (issuer_lt hi) (ho _), jumpG_jumped hdr (issuer_lt hi) ((ho _).trans (issuer_slot hi)) (ho _)⟩

/-- The group of an issuing slot, changed but for its slots, goes past its instruction. -/
theorem past_of_issuer {s : State} {i : Iss} {g : Group} (hi : issuer s = some i) (h0 : g.slot0 = i.g.slot0)
    (h1 : g.slot1 = i.g.slot1) :
    sameButSlots i g (pastG s.now i g) ∧ i.advanced s.now (pastG s.now i g) i.slot.path.codes := by
  have ho := slotOf_congr h0 h1
  exact ⟨pastG_sameButSlots (issuer_lt hi) (ho _),
    pastG_advanced (issuer_lt hi) (by rw [ho, issuer_slot hi, Slot.withCodes_self]) (ho _)⟩

/-- A branch's target, in words of 64 bits (R45). -/
theorem branchTarget_eq (i : Iss) (off : W32) : branchTarget i off = i.target off := by
  have h : (BitVec.ofInt 64 ((i.slot.path.hdr : Int) + 8 * off.toInt)) = BitVec.ofNat 64 i.slot.path.hdr + 8 * off.signExtend 64 := by
    rw [BitVec.ofInt_add, BitVec.ofInt_mul, BitVec.ofInt_natCast, BitVec.signExtend]
    rfl
  rw [Iss.target, ← h, BitVec.toNat_ofInt]
  rfl

/-! ## Operands -/

/-- An instruction that would execute but for a scalar operand beyond the register file traps with 0x03. -/
theorem issueG_badScalar {s : State} {i : Iss} {uf : Group → Uses} {p : MCode} {k : Iss → State} (h : Executes s i {})
    (hu : uf i.g = { ks := [255] }) : issueG s uf p k = .next (raise s i 0x03 p) := by
  refine issueG_traps h.issuing ?_ ?_
  · rw [hu]
    exact h.free
  · rw [hu]
    rfl

/-! ## The instructions' cases -/

section
variable {s : State} {i : Iss} (hh : i.g.handler = none) (hx : Executes s i {})
include hx

theorem execCall_beyond {sh : BitVec 9} (off : W32) (he : i.g.extent < sh.toNat) : execCall sh off s = .next (raise s i 0x03) :=
  issueG_badScalar hx (by rw [if_pos he])

theorem execFrame_beyond {e : BitVec 32} (he : i.g.budget - 64 < e.toNat) : execFrame e s = .next (raise s i 0x03) :=
  issueG_badScalar hx (if_pos he ▸ rfl)

include hh

/-- A CALL whose shift lies in its frame, outside handler mode. -/
theorem execCall_eq {sh : BitVec 9} (off : W32) (he : sh.toNat ≤ i.g.extent) : execCall sh off s = .next
    (if !i.g.joins.isEmpty then raise s i 0x01
    else if i.g.resLinks = 16 then (spillLinks s i.gid i.g).getD (raiseAt s i 0x08 3 i.pathMask 0)
    else putGroup s i.gid (jumpG s.now i { i.g with
      links := ⟨i.nextClause, sh.toNat, i.g.extent⟩ :: i.g.links
      resLinks := i.g.resLinks + 1
      window := i.g.window + sh.toNat
      extent := i.g.extent - sh.toNat
      near := [] } (i.target off))) := by
  unfold execCall
  rw [issueG_executes (i := i) (by rwa [if_neg (by omega)]), unlessHandler, hh, branchTarget_eq]
  cases spillLinks s i.gid i.g <;> rfl

theorem execRet_eq : execRet s = .next
    (if !i.g.joins.isEmpty then raise s i 0x01
    else match i.g.links with
      | [] => raise s i 0x01
      | l :: rest =>
        if i.g.resLinks = 0 then fillLinks s i.gid i.g
        else if i.g.window < i.g.resBase + l.shift then fillRegisters s i.gid i.g l.shift
        else putGroup s i.gid (jumpG s.now i { i.g with
          links := rest
          resLinks := i.g.resLinks - 1
          window := i.g.window - l.shift
          extent := l.extent
          near := [] } l.ret)) := by
  unfold execRet
  rw [issue_executes hx, unlessHandler, hh]
  rfl

/-- A FRAME that the resident frame holds, outside handler mode. -/
theorem execFrame_eq {e : BitVec 32} (he : e.toNat ≤ i.g.budget - 64) : execFrame e s = .next
    (if !i.g.joins.isEmpty then raise s i 0x01
    else if i.g.regArea < 128 * (i.g.window + e.toNat) then raiseAt s i 0x08 3 i.pathMask 0
    else if i.g.resBase + (i.g.budget - 64) < i.g.window + e.toNat then spillRegisters s i.gid i.g e.toNat
    else finish s i { i.g with
      extent := e.toNat
      near := [] }) := by
  unfold execFrame residentSize
  rw [issueG_executes (i := i) (by rwa [if_neg (by omega)]), unlessHandler, hh]
  rfl

end

end Sys2Proof.Machine
end

section
/-! PROOF of O14. The services of overflow and underflow, each as a whole, and the statement (R18, R164, R299). -/

set_option Elab.async false

namespace Sys2Proof.Machine
open Sys2Proof

/-! ## A trap counted -/

/-- Counting a trap changes no byte. -/
theorem countTrap_sameBytes (s : State) (tn code : Nat) : sameBytes s (countTrap s tn code) := by
  intro sp a
  cases sp <;> simp [byteOf, countTrap]

/-- The count of a tenant's traps of a code. -/
def trapCount (s : State) (tn code : Nat) : W64 := tget 0 ((tfind s.tenants tn).elim [] fun x => x.traps) code

theorem trapCount_countTrap {s : State} {tn : Nat} {t : Tenant} (h : tfind s.tenants tn = some t) (code : Nat) :
    trapCount (countTrap s tn code) tn code = satInc64 (tget 0 t.traps code) := by
  rw [trapCount, countTrap, tfind_updTenant, if_pos rfl, h]
  exact tget_tset_self _ _ _ _

/-- Bytes other than those of D-space are those of another state. -/
theorem byteOf_congr {s t : State} (ht : t.teams = s.teams) (hm : t.main = s.main) (hh : t.hostMem = s.hostMem) {sp : Space} (a : Nat)
    (hd : sp = .d → readByte t.scratch a = readByte s.scratch a) : byteOf t sp a = byteOf s sp a := by
  cases sp with
  | t tm => rw [byteOf, byteOf, ht]
  | d => exact hd rfl
  | m => rw [byteOf, byteOf, hm]
  | host => rw [byteOf, byteOf, hh]

/-- A change of one group leaves every byte. -/
theorem OnlyGroup.sameBytes {s t : State} {gid : Nat} (h : OnlyGroup s t gid) : sameBytes s t := by
  intro sp a
  rw [h.rest]
  exact byteOf_congr rfl rfl rfl a fun _ => rfl

/-! ## Registers -/

/-- Spilled entries change no byte but their places in the register area. -/
theorem Spilled.sameBytesBut {s t : State} {gid : Nat} {g g' : Group} {b k : Nat} (h : Spilled s t gid g g' b k) :
    sameBytesBut s t fun sp a => sp = .d ∧ regAreaAddr g b ≤ a ∧ a < regAreaAddr g (b + k) := by
  intro sp a hn
  have hout : sp = .d → readByte t.scratch a = readByte s.scratch a := by
    refine fun hd => h.outside a ?_
    by_contra hc
    exact hn ⟨hd, by omega, by omega⟩
  exact byteOf_congr (by rw [h.rest]) (by rw [h.rest]) (by rw [h.rest]) a hout

theorem spillRegisters_spilled {s : State} {gid : Nat} {g : Group} {e : Nat} (hg : tfind s.groups gid = some g)
    (he : e ≤ g.budget - 64) (hr : g.resBase + (g.budget - 64) < g.window + e) :
    ∃ k g', Spilled (countTrap s g.tenant 0x08) (spillEntries (countTrap s g.tenant 0x08) gid g.resBase k) gid g g' g.resBase k ∧
      spillRegisters s gid g e = putGroup (spillEntries (countTrap s g.tenant 0x08) gid g.resBase k) gid
        { g' with resBase := g.resBase + k } ∧
      0 < k ∧ g.resBase + k ≤ g.window ∧ g.window + e ≤ g.resBase + k + (g.budget - 64) := by
  obtain ⟨h1, h2⟩ := spillCount_bounds he (g.window + e) (rb := g.resBase) (w := g.window) (by omega) (by omega)
  obtain ⟨g', h⟩ := spilled_spillEntries (s := countTrap s g.tenant 0x08) (by rwa [countTrap_groups]) g.resBase
    (spillCount g.window e (g.budget - 64) (g.window + e) g.resBase)
  refine ⟨_, g', h, ?_, by omega, h1, h2⟩
  simp only [spillRegisters, residentSize]
  rw [updGroup_eq h.group, h.same.rest]

theorem frame_spills {s : State} {i : Iss} {e : BitVec 32} {t0 : Tenant} (hh : i.g.handler = none) (hj : i.g.joins = [])
    (hx : Executes s i {}) (he : e.toNat ≤ i.g.budget - 64) (ha : 128 * (i.g.window + e.toNat) ≤ i.g.regArea)
    (hr : i.g.resBase + (i.g.budget - 64) < i.g.window + e.toNat) (ht : tfind s.tenants i.g.tenant = some t0) :
    ∃ t g', exec (.frame e) s = .next t ∧ tfind t.groups i.gid = some g' ∧ i.g.resBase < g'.resBase ∧ g'.resBase ≤ i.g.window ∧
      i.g.window + e.toNat ≤ g'.resBase + (i.g.budget - 64) ∧
      g' = { i.g with
        resBase := g'.resBase
        vregs := g'.vregs } ∧
      (∀ n l, l < 32 → n < i.g.resBase ∨ g'.resBase ≤ n → vGet g' (.stack n) l = vGet i.g (.stack n) l) ∧
      (∀ n l, l < 32 → n < 64 → vGet g' (.v n) l = vGet i.g (.v n) l) ∧
      (∀ n l, l < 32 → i.g.resBase ≤ n → n < g'.resBase →
        readNat t.scratch (regAreaAddr i.g n + 4 * l) 4 = (vGet i.g (.stack n) l).toNat) ∧
      sameBytesBut s t (fun sp a => sp = .d ∧ regAreaAddr i.g i.g.resBase ≤ a ∧ a < regAreaAddr i.g g'.resBase) ∧
      trapCount t i.g.tenant 0x08 = satInc64 (tget 0 t0.traps 0x08) ∧ othersKept s t i.gid := by
  obtain ⟨k, g', h, heq, hk, hw, hf⟩ := spillRegisters_spilled (issuer_group hx.issuing) he hr
  refine ⟨spillRegisters s i.gid i.g e.toNat, { g' with resBase := i.g.resBase + k }, ?_, ?_, by simpa using hk, hw, hf, ?_, ?_, ?_, ?_,
    ?_, ?_, ?_⟩
  · refine (execFrame_eq hh hx he).trans ?_
    rw [if_neg (by simp [hj]), if_neg (by omega), if_pos hr]
  · rw [heq]
    exact tfind_tput_self _ _ _
  · rw [h.same.rest]
  · exact h.same.entries
  · exact h.same.direct
  · rw [heq]
    exact fun n l hl h1 h2 => h.stored n l hl h1 h2
  · rw [heq]
    exact fun sp a hn => ((onlyGroup_putGroup _ i.gid _).sameBytes sp a).trans
      ((h.sameBytesBut sp a hn).trans (countTrap_sameBytes s i.g.tenant 0x08 sp a))
  · rw [heq, h.rest]
    exact trapCount_countTrap ht 0x08
  · rw [heq]
    intro x hx
    refine (tfind_tput_other _ _ _ hx).trans ((h.others x hx).trans ?_)
    rw [countTrap_groups]

theorem ret_fills {s : State} {i : Iss} {l : Link} {rest : List Link} (hh : i.g.handler = none) (hj : i.g.joins = [])
    (hx : Executes s i {}) (hl : i.g.links = l :: rest) (hn : i.g.resLinks ≠ 0) (hr : i.g.window < i.g.resBase + l.shift)
    (hs : l.shift ≤ i.g.window) (hb : i.g.resBase - (i.g.window - l.shift) ≤ i.g.budget - 64) :
    ∃ t g', exec .ret s = .next t ∧ sameBytes s t ∧ othersKept s t i.gid ∧ tfind t.groups i.gid = some g' ∧
      g' = { i.g with
        resBase := i.g.window - l.shift
        vregs := g'.vregs } ∧
      (∀ n x, x < 32 → i.g.window - l.shift ≤ n → n < i.g.resBase →
        (vGet g' (.stack n) x).toNat = readNat s.scratch (regAreaAddr i.g n + 4 * x) 4) ∧
      ∀ n x, x < 32 → i.g.resBase ≤ n → n < i.g.window - l.shift + (i.g.budget - 64) →
        vGet g' (.stack n) x = vGet i.g (.stack n) x := by
  obtain ⟨g', h⟩ := filled_fillEntries (s := countTrap s i.g.tenant 0x09)
    ((congrArg (tfind · i.gid) (countTrap_groups ..)).trans (issuer_group hx.issuing)) (i.g.window - l.shift)
    (i.g.resBase - (i.g.window - l.shift))
  have hd := sameButEntries_dropEntries g' (i.g.window - l.shift + (i.g.budget - 64)) (i.g.resBase - (i.g.window - l.shift))
  have heq : fillRegisters s i.gid i.g l.shift = putGroup (fillEntries (countTrap s i.g.tenant 0x09) i.gid (i.g.window - l.shift)
      (i.g.resBase - (i.g.window - l.shift))) i.gid
      { dropEntries g' (i.g.window - l.shift + (i.g.budget - 64)) (i.g.resBase - (i.g.window - l.shift)) with
        resBase := i.g.window - l.shift } := by
    simp only [fillRegisters]
    rw [updGroup_eq h.group, residentSize, h.same.rest]
  have honly := h.only.trans (onlyGroup_putGroup _ i.gid
      { dropEntries g' (i.g.window - l.shift + (i.g.budget - 64)) (i.g.resBase - (i.g.window - l.shift)) with
        resBase := i.g.window - l.shift })
  rw [← heq] at honly
  refine ⟨fillRegisters s i.gid i.g l.shift, _, ?_, ?_, ?_, by rw [heq]; exact tfind_tput_self _ _ _, ?_, ?_, ?_⟩
  · refine (execRet_eq hh hx).trans ?_
    rw [if_neg (by simp [hj]), hl]
    simp only
    rw [if_neg hn, if_pos hr]
  · exact fun sp a => (honly.sameBytes sp a).trans (countTrap_sameBytes s i.g.tenant 0x09 sp a)
  · exact fun x hx => (honly.others x hx).trans (by rw [countTrap_groups])
  · rw [hd.rest, h.same.rest]
  · intro n x hx h1 h2
    refine (congrArg BitVec.toNat (hd.entries n x hx (.inl (by omega)))).trans ((h.read n x hx h1 (by omega)).trans ?_)
    rw [countTrap_scratch]
  · intro n x hx h1 h2
    exact (hd.entries n x hx (.inl h2)).trans (h.same.entries n x hx (.inr (by omega)))

/-! ## Links -/

theorem link_places (g : Group) (f : Nat) : ∀ i j, i < j → linkAddr g (f + i) + 8 ≤ linkAddr g (f + j) := by
  intro i j h
  unfold linkAddr
  omega

/-- The word that stands for a group's n-th link, the oldest first. -/
def storedLink (g : Group) (n : Nat) : Nat := (Config.linkWord (g.links.reverse.getD n ⟨0, 0, 0⟩)).toNat

/-- D-space with a group's last 16 links written to its link area. -/
def storeLinks (g : Group) (m : Mem) : Mem :=
  writeAll (fun k => linkAddr g (g.links.length - 16 + k)) (fun k => storedLink g (g.links.length - 16 + k)) 8 (upto 16) m

theorem spillLinks_eq {s : State} {gid : Nat} {g : Group} (hg : tfind s.groups gid = some g) (hr : g.resLinks = 16)
    (hl : g.links.length ≤ 1024) :
    spillLinks s gid g =
      some (putGroup (countTrap { s with scratch := storeLinks g s.scratch } g.tenant 0x08) gid { g with resLinks := 0 }) := by
  have hf := foldl_writeSpace_scratch (fun k => linkAddr g (g.links.length - 16 + k)) (fun k => storedLink g (g.links.length - 16 + k))
    8 (upto 16) s
  unfold storedLink at hf
  unfold spillLinks
  rw [if_neg (by omega)]
  simp only [hr, hf]
  rw [updGroup_eq (g := g) (by simpa using hg)]
  rfl

theorem getD_reverse {ls : List Link} {n : Nat} {l : Link} (h : ls[ls.length - 1 - n]? = some l) (hn : n < ls.length) :
    ls.reverse.getD n ⟨0, 0, 0⟩ = l := by
  rw [List.getD_eq_getElem?_getD, List.getElem?_reverse hn, h]
  rfl

/-- Each link stored reads back. -/
theorem readNat_storeLinks (m : Mem) {g : Group} {n : Nat} {l : Link} (h16 : 16 ≤ g.links.length) (h1 : g.links.length - 16 ≤ n)
    (h2 : g.links[g.links.length - 1 - n]? = some l) (h3 : n < g.links.length) :
    readNat (storeLinks g m) (linkAddr g n) 8 = (Config.linkWord l).toNat := by
  have hk : g.links.length - 16 + (n - (g.links.length - 16)) = n := by omega
  have hw := readNat_writeAll (m := m) (v := fun k => storedLink g (g.links.length - 16 + k))
    (List.mem_range.2 (show n - (g.links.length - 16) < 16 by omega)) (pairwise_places (link_places g (g.links.length - 16)) 16)
  simp only [hk, storedLink, getD_reverse h2 h3] at hw
  rw [Nat.mod_eq_of_lt ((Config.linkWord l).isLt.trans_le (by norm_num))] at hw
  exact hw

/-- Links stored change no byte but their places in the link area. -/
theorem readByte_storeLinks_outside (m : Mem) (g : Group) {x : Nat}
    (hx : x < linkAddr g (g.links.length - 16) ∨ linkAddr g (g.links.length - 16) + 128 ≤ x) :
    readByte (storeLinks g m) x = readByte m x := by
  refine readByte_writeAll_outside fun k hk => ?_
  have := List.mem_range.1 hk
  unfold linkAddr at *
  omega

theorem call_spills {s : State} {i : Iss} {sh : BitVec 9} {t0 : Tenant} (off : W32) (hh : i.g.handler = none) (hj : i.g.joins = [])
    (hx : Executes s i {}) (he : sh.toNat ≤ i.g.extent) (hr : i.g.resLinks = 16) (h16 : 16 ≤ i.g.links.length)
    (hl : i.g.links.length ≤ 1024) (ht : tfind s.tenants i.g.tenant = some t0) :
    ∃ t, exec (.call sh off) s = .next t ∧ tfind t.groups i.gid = some { i.g with resLinks := 0 } ∧ othersKept s t i.gid ∧
      (∀ n l, i.g.links.length - 16 ≤ n → i.g.links[i.g.links.length - 1 - n]? = some l → n < i.g.links.length →
        readNat t.scratch (linkAddr i.g n) 8 = (Config.linkWord l).toNat) ∧
      sameBytesBut s t (bytesFrom .d (linkAddr i.g (i.g.links.length - 16)) 128) ∧
      trapCount t i.g.tenant 0x08 = satInc64 (tget 0 t0.traps 0x08) := by
  have hex := execCall_eq hh hx off he
  rw [if_neg (by simp [hj]), if_pos hr, spillLinks_eq (issuer_group hx.issuing) hr hl, Option.getD_some] at hex
  refine ⟨_, hex, tfind_tput_self _ _ _, ?_, ?_, ?_, trapCount_countTrap (s := { s with scratch := storeLinks i.g s.scratch }) ht 0x08⟩
  · exact fun x hx => (tfind_tput_other _ _ _ hx).trans (by rw [countTrap_groups])
  · intro n l h1 h2 h3
    rw [putGroup_scratch, countTrap_scratch]
    exact readNat_storeLinks s.scratch h16 h1 h2 h3
  · exact fun sp a hn => ((onlyGroup_putGroup _ i.gid _).sameBytes sp a).trans
      ((countTrap_sameBytes _ _ _ sp a).trans
        (byteOf_congr (s := s) (t := { s with scratch := storeLinks i.g s.scratch }) rfl rfl rfl a fun hd =>
          readByte_storeLinks_outside s.scratch i.g (by by_contra hc; exact hn ⟨hd, by omega, by omega⟩)))

theorem call_pastArea {s : State} {i : Iss} {sh : BitVec 9} (off : W32) (hh : i.g.handler = none) (hj : i.g.joins = [])
    (hx : Executes s i {}) (he : sh.toNat ≤ i.g.extent) (hr : i.g.resLinks = 16) (hl : 1024 < i.g.links.length) :
    exec (.call sh off) s = .next (raiseAt s i 0x08 3 i.slot.path.mask 0) := by
  refine (execCall_eq hh hx off he).trans ?_
  rw [if_neg (by simp [hj]), if_pos hr, spillLinks, if_pos hl]
  rfl

/-- The links of a group, the last 16 of them read from its link area. -/
def filledLinks (s : State) (g : Group) : List Link :=
  ((upto (min 16 g.links.length)).map fun k => linkIn s g (g.links.length - 1 - k)) ++ g.links.drop (min 16 g.links.length)

theorem length_filledLinks (s : State) (g : Group) : (filledLinks s g).length = g.links.length := by
  simp [filledLinks, upto]

theorem getElem?_filledLinks (s : State) {g : Group} {k : Nat} {l : Link} {w : W64} (hk : g.links[k]? = some l)
    (hw : BitVec.ofNat 64 (readNat s.scratch (linkAddr g (g.links.length - 1 - k)) 8) = w) :
    (filledLinks s g)[k]? = some (if k < 16 ∧ w ≠ Config.linkWord l then Config.linkOf w else l) := by
  have hlt : k < g.links.length := (List.getElem?_eq_some_iff.1 hk).1
  unfold filledLinks
  by_cases h16 : k < 16
  · have hrev : g.links.reverse.getD (g.links.length - 1 - k) ⟨0, 0, 0⟩ = l :=
      getD_reverse (by rwa [show g.links.length - 1 - (g.links.length - 1 - k) = k by omega]) (by omega)
    rw [List.getElem?_append_left (by simp [upto]; omega), List.getElem?_map, upto, List.getElem?_range (by omega), Option.map_some,
      linkIn, hrev]
    simp only [hw, h16, true_and, ne_eq, ite_not]
  · rw [if_neg (by simp [h16]), List.getElem?_append_right (by simp [upto]; omega), List.getElem?_drop]
    simpa [upto, show min 16 g.links.length + (k - min 16 g.links.length) = k by omega] using hk

theorem fillLinks_eq {s : State} {gid : Nat} {g : Group} (hg : tfind s.groups gid = some g) :
    fillLinks s gid g = putGroup (countTrap s g.tenant 0x09) gid { g with
      links := filledLinks s g
      resLinks := min 16 g.links.length } :=
  updGroup_eq ((congrArg (tfind · gid) (countTrap_groups ..)).trans hg) _

theorem ret_fillsLinks {s : State} {i : Iss} {t0 : Tenant} (hh : i.g.handler = none) (hj : i.g.joins = []) (hx : Executes s i {})
    (hl : i.g.links ≠ []) (hr : i.g.resLinks = 0) (ht : tfind s.tenants i.g.tenant = some t0) :
    ∃ t ls, exec .ret s = .next t ∧ tfind t.groups i.gid = some { i.g with
        links := ls
        resLinks := min 16 i.g.links.length } ∧ othersKept s t i.gid ∧ ls.length = i.g.links.length ∧
      (∀ k l, i.g.links[k]? = some l →
        let w := BitVec.ofNat 64 (readSpace s .d (i.g.lBase + 0x1000 + 8 * (i.g.links.length - 1 - k)) 8)
        ls[k]? = some (if k < 16 ∧ w ≠ Config.linkWord l then Config.linkOf w else l)) ∧
      sameBytes s t ∧ trapCount t i.g.tenant 0x09 = satInc64 (tget 0 t0.traps 0x09) := by
  have hex : exec .ret s = .next (fillLinks s i.gid i.g) := by
    refine (execRet_eq hh hx).trans ?_
    rw [if_neg (by simp [hj])]
    cases hls : i.g.links with
    | nil => exact absurd hls hl
    | cons l rest => exact congrArg Host.Outcome.next (if_pos hr)
  rw [fillLinks_eq (issuer_group hx.issuing)] at hex
  refine ⟨_, filledLinks s i.g, hex, tfind_tput_self _ _ _, ?_, length_filledLinks s i.g, fun k l hk => getElem?_filledLinks s hk rfl, ?_,
    trapCount_countTrap ht 0x09⟩
  · exact fun x hx => (tfind_tput_other _ _ _ hx).trans (by rw [countTrap_groups])
  · exact fun sp a => ((onlyGroup_putGroup _ i.gid _).sameBytes sp a).trans (countTrap_sameBytes s i.g.tenant 0x09 sp a)

/-! ## The statement -/

/-- With a join record outstanding, CALL, RET and FRAME trap. -/
theorem window_joined {s : State} {i : Iss} {ins : Instr} (hh : i.g.handler = none) (hj : i.g.joins ≠ []) (hx : Executes s i {})
    (hins : (∃ sh off, ins = .call sh off ∧ sh.toNat ≤ i.g.extent) ∨ ins = .ret ∨
      ∃ e, ins = .frame e ∧ e.toNat ≤ i.g.budget - 64) : exec ins s = .next (raise s i 0x01) := by
  have hj' : (!i.g.joins.isEmpty) = true := by simpa using hj
  obtain ⟨sh, off, rfl, he⟩ | rfl | ⟨e, rfl, he⟩ := hins
  · exact (execCall_eq hh hx off he).trans (by rw [if_pos hj'])
  · exact (execRet_eq hh hx).trans (by rw [if_pos hj'])
  · exact (execFrame_eq hh hx he).trans (by rw [if_pos hj'])

theorem call_moves {s : State} {i : Iss} {sh : BitVec 9} (off : W32) (hh : i.g.handler = none) (hj : i.g.joins = [])
    (hx : Executes s i {}) (he : sh.toNat ≤ i.g.extent) (hr : i.g.resLinks ≠ 16) :
    ∃ g', exec (.call sh off) s = .next (putGroup s i.gid g') ∧ sameButSlots i { i.g with
        links := ⟨i.nextClause, sh.toNat, i.g.extent⟩ :: i.g.links
        resLinks := i.g.resLinks + 1
        window := i.g.window + sh.toNat
        extent := i.g.extent - sh.toNat
        near := [] } g' ∧ i.jumped s.now g' (i.target off) := by
  refine ⟨_, (execCall_eq hh hx off he).trans ?_, jump_of_issuer _ hx.issuing rfl rfl⟩
  rw [if_neg (by simp [hj]), if_neg hr]

theorem ret_moves {s : State} {i : Iss} {l : Link} {rest : List Link} (hh : i.g.handler = none) (hj : i.g.joins = [])
    (hx : Executes s i {}) (hl : i.g.links = l :: rest) (hr : i.g.resLinks ≠ 0) (hw : i.g.resBase + l.shift ≤ i.g.window) :
    ∃ g', exec .ret s = .next (putGroup s i.gid g') ∧ sameButSlots i { i.g with
        links := rest
        resLinks := i.g.resLinks - 1
        window := i.g.window - l.shift
        extent := l.extent
        near := [] } g' ∧ i.jumped s.now g' l.ret := by
  refine ⟨_, (execRet_eq hh hx).trans ?_, jump_of_issuer _ hx.issuing rfl rfl⟩
  rw [if_neg (by simp [hj]), hl]
  simp only
  rw [if_neg hr, if_neg (by omega)]

theorem ret_atDepthZero {s : State} {i : Iss} (hh : i.g.handler = none) (hj : i.g.joins = []) (hx : Executes s i {})
    (hl : i.g.links = []) : exec .ret s = .next (raise s i 0x01) := by
  refine (execRet_eq hh hx).trans ?_
  rw [if_neg (by simp [hj]), hl]

theorem frame_pastArea {s : State} {i : Iss} {e : BitVec 32} (hh : i.g.handler = none) (hj : i.g.joins = []) (hx : Executes s i {})
    (he : e.toNat ≤ i.g.budget - 64) (ha : i.g.regArea < 128 * (i.g.window + e.toNat)) :
    exec (.frame e) s = .next (raiseAt s i 0x08 3 i.slot.path.mask 0) := by
  refine (execFrame_eq hh hx he).trans ?_
  rw [if_neg (by simp [hj]), if_pos ha]
  rfl

theorem frame_moves {s : State} {i : Iss} {e : BitVec 32} (hh : i.g.handler = none) (hj : i.g.joins = []) (hx : Executes s i {})
    (he : e.toNat ≤ i.g.budget - 64) (ha : 128 * (i.g.window + e.toNat) ≤ i.g.regArea)
    (hr : i.g.window + e.toNat ≤ i.g.resBase + (i.g.budget - 64)) :
    ∃ g', exec (.frame e) s = .next (putGroup s i.gid g') ∧ sameButSlots i { i.g with
        extent := e.toNat
        near := [] } g' ∧ i.advanced s.now g' i.slot.path.codes := by
  refine ⟨_, (execFrame_eq hh hx he).trans ?_, past_of_issuer hx.issuing rfl rfl⟩
  rw [if_neg (by simp [hj]), if_neg (by omega), if_neg (by omega)]
  rfl

/-- Settles O14: each clause is one of the cases of CALL, RET and FRAME outside handler mode. -/
theorem windowsMove : Obligations.WindowsMove := by
  unfold Obligations.WindowsMove
  refine ⟨⟨?_, ?_, ?_, ?_, ?_, ?_, ?_, ?_⟩, ?_, ?_, ?_, ?_, ?_⟩
  · exact fun s i sh off hh hj hx he hr => call_moves off hh hj hx he hr
  · exact fun s i l rest hh hj hx hl hr hw => ret_moves hh hj hx hl hr hw
  · exact fun s i sh off hx he => execCall_beyond hx off he
  · exact fun s i e hx he => execFrame_beyond hx he
  · exact fun s i ins hh hj hx hins => window_joined hh hj hx hins
  · exact fun s i hh hj hx hl => ret_atDepthZero hh hj hx hl
  · exact fun s i e hh hj hx he ha => frame_pastArea hh hj hx he ha
  · exact fun s i e hh hj hx he ha hr => frame_moves hh hj hx he ha hr
  · exact fun s i e t0 hh hj hx he ha hr ht => frame_spills hh hj hx he ha hr ht
  · exact fun s i l rest hh hj hx hl hn hs hr hb => ret_fills hh hj hx hl hn hr hs hb
  · exact fun s i sh off t0 hh hj hx he hr h16 hl ht => call_spills off hh hj hx he hr h16 hl ht
  · exact fun s i sh off hh hj hx he hr hl => call_pastArea off hh hj hx he hr hl
  · exact fun s i t0 hh hj hx hl hr ht => ret_fillsLinks hh hj hx hl hr ht

end Sys2Proof.Machine
end

section
/-! PROOF of O19, refuted. A kill of grid scope where the team's grid has no record in the grid table. -/

set_option Elab.async false

namespace Sys2Proof.Machine
open Sys2Proof

/-- A tenant without a handler whose kill scope is the grid, with a fault log in memory that its tables map. -/
def gridKillTenant : Tenant :=
  { Tenant.fresh { bareConfig with
      killScope := .grid
      translationRoot := 0x40000
      faultLog := 0x20000 } with
    state := .running }

/-- Group 1 of team 0, whose grid the grid table does not hold. -/
def gridless : State := { State.reset with
  tenants := [(0, gridKillTenant)]
  teams := [(0, bareTeam 1)]
  groups := [(1, bareGroup 0)]
  main := [(0x40000, 0x01), (0x40001, 0x10), (0x40002, 0x04), (0x41000, 0x0F)] }

/-- The fault log takes a record: the kill is no log failure. -/
theorem recordAt_gridless : recordAt gridless 0 gridKillTenant 0 0x20000 := ⟨rfl, by decide, by decide⟩

/-- No group is in the kill scope that the statement names, for it names the grid's groups by the grid's record. -/
theorem not_inKillScope_gridless (gid x : Nat) (g : Group) : ¬ inKillScope gridless gid g .grid x := by
  rintro ⟨t, gr, tm, y, -, hg, -⟩
  cases hg

/-- The model kills the team where the grid has no record, so the group that trapped ends. -/
theorem takeTrap_gridless_kills :
    ((tfind (takeTrap gridless 1 0 0x15 0 0 0 0).groups 1).all fun g => !g.live) = true := by decide

/-- Refutes O19: the clause on undeliverable traps, that with a record that can be written no group outside the kill scope changes
but for its `park`. Where the kill scope is the grid and the grid table holds no record of the team's grid, `inKillScope` holds of
no group, yet `killScopeOf` falls back to the team, and the trapping group itself ends. The statement asks nothing of the state that
rules this out: it would have to suppose that a live team's grid has a record. -/
theorem not_trapsAndReturns : ¬ Obligations.TrapsAndReturns := by
  unfold Obligations.TrapsAndReturns
  rintro ⟨-, ⟨-, -, -, hkill⟩, -⟩
  obtain ⟨-, hkept⟩ := hkill gridless 1 (bareGroup 0) 0 bareSlot 0x15 0 0 0 0 gridKillTenant rfl rfl rfl (.inl rfl)
  obtain ⟨g', hg', heq⟩ := hkept 0 0x20000 recordAt_gridless 1 (bareGroup 0) (not_inKillScope_gridless 1 1 _) rfl
  have hlive : g'.live = true := by rw [heq]; rfl
  have hdead := takeTrap_gridless_kills
  rw [hg'] at hdead
  simp [hlive] at hdead

end Sys2Proof.Machine
end

section
/-! PROOF of O44, refuted. A fatal fetch whose trap is undeliverable, in a group that its team does not count as live. -/

set_option Elab.async false

namespace Sys2Proof.Machine
open Sys2Proof

/-- A tenant without a handler whose kill scope is the team, with a fault log in memory that its tables map. -/
def teamKillTenant : Tenant :=
  { Tenant.fresh { bareConfig with
      killScope := .team
      translationRoot := 0x40000
      faultLog := 0x20000 } with
    state := .running }

/-- The slot of a path at 0x1000 whose fetch has met a fatal reply. -/
def fatalSlot : Slot := { bareSlot with fetchWait := some (0, true) }

def fatalGroup : Group := { bareGroup 0 with slot0 := some fatalSlot }

/-- A team that has started and holds no live group. -/
def emptyTeam : Team := { bareTeam 1 with live := [] }

/-- Group 1 alone on its core, its fetch fatal, though the page now holds a clause of one NOP; its team lists no live group. -/
def unlisted : State := { State.reset with
  diesInReset := false
  ucieUp := true
  tenants := [(0, teamKillTenant)]
  teams := [(0, emptyTeam)]
  groups := [(1, fatalGroup)]
  main := [(0x1003, 0x5A), (0x1004, 0xF0), (0x1005, 0x0F), (0x40000, 0x01), (0x40001, 0x10), (0x40002, 0x04), (0x41000, 0x0F)] }

theorem lone_unlisted : Lone unlisted 0 0 1 fatalGroup fatalSlot teamKillTenant emptyTeam where
  found := ⟨rfl, List.pairwise_singleton _ _⟩
  here := ⟨rfl, rfl⟩
  only := fun p hp _ _ _ => by
    obtain rfl := List.mem_singleton.1 hp
    rfl
  pipe := rfl
  slots := ⟨rfl, rfl, rfl, rfl, Nat.le_refl _⟩
  free := ⟨rfl, rfl⟩
  running := ⟨rfl, rfl, rfl, rfl, rfl, rfl⟩

/-- Whether group 1 of a state has begun a clause in slot 0. -/
def hasBegun (s : State) : Bool := (tfind s.groups 1).any fun g => g.slot0.any fun sl => sl.clause.isSome

/-- The selection goes on after the trap, and the group begins the clause that stands at its header. -/
theorem clauseSelection_unlisted_begins :
    (match execClauseSelection 0 0 unlisted with
      | .next u => hasBegun u
      | _ => false) = true := by decide

/-! ## A kill that ends no group -/

theorem writePlace_main_groups (s : State) (tn pa : Nat) (b : Bytes) (who : Poster) :
    (writePlace s tn (.main pa) b who).groups = s.groups := by
  simp only [writePlace, wroteMain]
  split <;> rfl

/-- A kill record that is written changes no group. -/
theorem killRecord_groups {s : State} {tn j pa : Nat} {t : Tenant} (h : recordAt s tn t j pa) (kw hdr bank ln : Nat) :
    (killRecord s tn kw hdr bank ln).groups = s.groups := by
  obtain ⟨ht, hf, hx⟩ := h
  simp only [killRecord, writeRecord, ht, hf, logAddr, hx, sendMsix]
  split <;> simp [writePlace_main_groups]

/-- The state in which the group's trap is recorded. -/
def trapRecorded (d : Nat) : State := countTrap (putGroup { unlisted with draws := d } 1 fatalGroup) 0 0x13

theorem translate_draws (s : State) (d tn va : Nat) (need : Need) :
    translate { s with draws := d } tn va need = translate s tn va need := rfl

theorem freeRecord_draws (s : State) (d tn : Nat) (t : Tenant) : freeRecord { s with draws := d } tn t = freeRecord s tn t := rfl

theorem trapRecorded_eq (d : Nat) : trapRecorded d = { trapRecorded 0 with draws := d } := rfl

theorem recordAt_trapRecorded (d : Nat) : recordAt (trapRecorded d) 0 { teamKillTenant with traps := tset 0 [] 0x13 1 } 0 0x20000 := by
  refine ⟨rfl, ?_, ?_⟩
  · rw [trapRecorded_eq, freeRecord_draws]
    decide
  · rw [trapRecorded_eq, translate_draws]
    decide

/-- An undeliverable trap kills, and records the kill. -/
theorem takeTrap_undeliverable {s : State} {gid n : Nat} {g : Group} {sl : Slot} {t : Tenant} (hg : tfind s.groups gid = some g)
    (hs : slotOf g n = some sl) (ht : tfind s.tenants g.tenant = some t) (hh : t.config.handler = 0 ∨ g.handler.isSome = true)
    (code sub : Nat) (ln : W32) (addr : Nat) (word : W64) : ∃ kw bank, takeTrap s gid n code sub ln addr word =
      killRecord (killScopeOf (countTrap s g.tenant code) gid t.config.killScope) g.tenant kw sl.path.hdr bank ln.toNat := by
  simp only [takeTrap, hg, hs, ht, if_pos hh]
  exact ⟨_, _, rfl⟩

theorem killScopeOf_trapRecorded (d : Nat) : killScopeOf (trapRecorded d) 1 .team = trapRecorded d := rfl

/-- The trap's kill reaches no group, whatever word the bank reports: it leaves the group's fetch as it was. -/
theorem takeTrap_unlisted_groups (d : Nat) (w : W64) :
    (takeTrap (putGroup { unlisted with draws := d } 1 fatalGroup) 1 0 0x13 0 fatalSlot.path.mask fatalSlot.path.hdr w).groups =
      [(1, fatalGroup)] := by
  obtain ⟨kw, bank, h⟩ := takeTrap_undeliverable (s := putGroup { unlisted with draws := d } 1 fatalGroup) (gid := 1) (n := 0)
    (t := teamKillTenant) rfl rfl rfl (.inl rfl) 0x13 0 fatalSlot.path.mask fatalSlot.path.hdr w
  rw [h]
  refine (congrArg State.groups (congrArg (killRecord · 0 kw _ bank _) (killScopeOf_trapRecorded d))).trans ?_
  exact killRecord_groups (recordAt_trapRecorded d) _ _ _ _

/-- Refutes O44: the clause on a fetch that a fatal reply failed, that the selection is the trap 0x13 and nothing else. Where the
tenant has no handler and its kill scope is a team that does not list the group as live, the trap ends no group, and the same
selection goes on to begin the clause that now stands at the group's header. `Lone` does not rule this out: it would have to suppose
that the team lists the group. -/
theorem not_clausesAreSelected : ¬ Obligations.ClausesAreSelected := by
  unfold Obligations.ClausesAreSelected
  rintro ⟨-, -, -, -, -, -, hsel, -⟩
  obtain ⟨-, -, hfatal, -⟩ := hsel unlisted 0 0 1 fatalGroup fatalSlot teamKillTenant emptyTeam lone_unlisted
  obtain ⟨u, w, x, hexec, hx, hu⟩ := hfatal 0 rfl
  have hbegun := clauseSelection_unlisted_begins
  have hexec' : execClauseSelection 0 0 unlisted = .next u := hexec
  rw [hexec'] at hbegun
  have hgroups : u.groups = [(1, fatalGroup)] := by
    rw [hu, hx]
    exact takeTrap_unlisted_groups x.draws w
  simp only [hasBegun, hgroups] at hbegun
  exact absurd hbegun (by decide)

end Sys2Proof.Machine
end

section
/-! PROOF of O54. The fields of the words of R42 to R54, and the codes of the enumerated fields (R38 to R41, R46 to R48). -/

namespace Sys2Proof

/-! ## The fields of each format -/

/-- A one-bit field is read where its bit stands. -/
theorem getLsbD_eq_f (w : BitVec 64) (k : Nat) : w.getLsbD k = (f k 1 w).getLsbD 0 := by
  rw [f, BitVec.getLsbD_extractLsb']
  simp

theorem bit_getLsbD (b : Bool) : (bit b).getLsbD 0 = b := by cases b <;> rfl

theorem getLsbD_extractLsb'_one {n : Nat} (x : BitVec n) (k : Nat) : (x.extractLsb' k 1).getLsbD 0 = x.getLsbD k := by
  rw [BitVec.getLsbD_extractLsb']
  simp

section
variable (opc : BitVec 10) (d a b c : BitVec 9) (p t : BitVec 4) (fs : BitVec 2) (mods : BitVec 8)

theorem f_vrWord (lo n : Nat) : f lo n (vrWord opc d a b c p t fs mods) =
    (opc ++ d ++ a ++ b ++ c ++ p ++ t ++ fs ++ mods).extractLsb' lo n := rfl

/-- Format VR (R42): each field holds its operand. -/
theorem vrWord_fields :
    let w := vrWord opc d a b c p t fs mods
    opcodeOf w = opc.toNat ∧ f 45 9 w = d ∧ f 45 4 w = d.extractLsb' 0 4 ∧ f 49 4 w = d.extractLsb' 4 4 ∧ f 36 9 w = a ∧
    f 27 9 w = b ∧ f 18 9 w = c ∧ f 18 4 w = c.extractLsb' 0 4 ∧ f 14 4 w = p ∧ f 10 4 w = t ∧ f 0 8 w = mods ∧
    f 0 4 w = mods.extractLsb' 0 4 ∧ f 0 2 w = mods.extractLsb' 0 2 ∧ f 6 2 w = mods.extractLsb' 6 2 ∧
    w.getLsbD 7 = mods.getLsbD 7 ∧ w.getLsbD 5 = mods.getLsbD 5 ∧ w.getLsbD 4 = mods.getLsbD 4 ∧ w.getLsbD 3 = mods.getLsbD 3 ∧
    w.getLsbD 2 = mods.getLsbD 2 ∧ w.getLsbD 1 = mods.getLsbD 1 := by
  simp +decide only [opcodeOf, getLsbD_eq_f, getLsbD_extractLsb'_one, f_vrWord, BitVec.extractLsb'_append_eq_of_le,
    BitVec.extractLsb'_append_eq_of_add_le, BitVec.extractLsb'_eq_self, Nat.reduceLeDiff, Nat.reduceSub, and_self]

end

section
variable (opc : BitVec 10) (d a : BitVec 9) (p : BitVec 4) (imm : BitVec 32)

theorem f_viWord (lo n : Nat) : f lo n (viWord opc d a p imm) =
    (opc ++ d ++ a ++ p ++ imm).extractLsb' lo n := rfl

/-- Format VI (R43): each field holds its operand. -/
theorem viWord_fields :
    let w := viWord opc d a p imm
    opcodeOf w = opc.toNat ∧ f 45 9 w = d ∧ f 45 4 w = d.extractLsb' 0 4 ∧ f 49 4 w = d.extractLsb' 4 4 ∧ f 36 9 w = a ∧
    f 32 4 w = p ∧ f 0 32 w = imm := by
  simp +decide only [opcodeOf, f_viWord, BitVec.extractLsb'_append_eq_of_le, BitVec.extractLsb'_append_eq_of_add_le,
    BitVec.extractLsb'_eq_self, Nat.reduceLeDiff, Nat.reduceSub, and_self]

end

section
variable (opc : BitVec 10) (d a b c : BitVec 8) (t : BitVec 4) (cc : Bool) (mods : BitVec 8)

theorem f_srWord (lo n : Nat) : f lo n (srWord opc d a b c t cc mods) =
    (opc ++ d ++ a ++ b ++ c ++ t ++ bit cc ++ 0#1 ++ mods ++ 0#8).extractLsb' lo n := rfl

/-- Format SR (R44): each field holds its operand. -/
theorem srWord_fields :
    let w := srWord opc d a b c t cc mods
    opcodeOf w = opc.toNat ∧ f 46 8 w = d ∧ f 46 4 w = d.extractLsb' 0 4 ∧ f 50 4 w = d.extractLsb' 4 4 ∧ f 38 8 w = a ∧
    f 38 4 w = a.extractLsb' 0 4 ∧ f 30 8 w = b ∧ f 30 4 w = b.extractLsb' 0 4 ∧ f 22 8 w = c ∧ f 22 4 w = c.extractLsb' 0 4 ∧
    f 18 4 w = t ∧ f 8 8 w = mods ∧ w.getLsbD 17 = cc ∧ w.getLsbD 15 = mods.getLsbD 7 ∧ w.getLsbD 8 = mods.getLsbD 0 := by
  simp +decide only [opcodeOf, getLsbD_eq_f, bit_getLsbD, getLsbD_extractLsb'_one, f_srWord,
    BitVec.extractLsb'_append_eq_of_le, BitVec.extractLsb'_append_eq_of_add_le, BitVec.extractLsb'_eq_self, Nat.reduceLeDiff,
    Nat.reduceSub, and_self]

end

section
variable (opc : BitVec 10) (d a : BitVec 8) (t : BitVec 4) (cc : Bool) (imm : BitVec 32)

theorem f_siWord (lo n : Nat) : f lo n (siWord opc d a t cc imm) =
    (opc ++ d ++ a ++ t ++ bit cc ++ 0#1 ++ imm).extractLsb' lo n := rfl

/-- Format SI (R44): each field holds its operand. -/
theorem siWord_fields :
    let w := siWord opc d a t cc imm
    opcodeOf w = opc.toNat ∧ f 46 8 w = d ∧ f 46 4 w = d.extractLsb' 0 4 ∧ f 50 4 w = d.extractLsb' 4 4 ∧ f 38 8 w = a ∧
    f 34 4 w = t ∧ f 0 32 w = imm ∧ f 23 9 w = imm.extractLsb' 23 9 ∧ f 17 6 w = imm.extractLsb' 17 6 ∧
    f 8 9 w = imm.extractLsb' 8 9 ∧ f 2 6 w = imm.extractLsb' 2 6 ∧ w.getLsbD 33 = cc := by
  simp +decide only [opcodeOf, getLsbD_eq_f, bit_getLsbD, f_siWord, BitVec.extractLsb'_append_eq_of_le,
    BitVec.extractLsb'_append_eq_of_add_le, BitVec.extractLsb'_eq_self, Nat.reduceLeDiff, Nat.reduceSub, and_self]

end

section
variable (opc : BitVec 10) (cond : BitVec 5) (mask : BitVec 4) (aux : BitVec 9) (off : BitVec 32)

theorem f_brWord (lo n : Nat) : f lo n (brWord opc cond mask aux off) =
    (opc ++ cond ++ mask ++ aux ++ 0#4 ++ off).extractLsb' lo n := rfl

/-- Format BR (R45): each field holds its operand. -/
theorem brWord_fields :
    let w := brWord opc cond mask aux off
    opcodeOf w = opc.toNat ∧ f 49 5 w = cond ∧ f 45 4 w = mask ∧ f 36 9 w = aux ∧ f 36 8 w = aux.extractLsb' 0 8 ∧
    f 0 32 w = off := by
  simp +decide only [opcodeOf, f_brWord, BitVec.extractLsb'_append_eq_of_le, BitVec.extractLsb'_append_eq_of_add_le,
    BitVec.extractLsb'_eq_self, Nat.reduceLeDiff, Nat.reduceSub, and_self]

end

section
variable (opc : BitVec 10) (data addr : BitVec 9) (base : BitVec 8) (mask : BitVec 4) (wd : BitVec 3) (scope : BitVec 2)
  (op : BitVec 5) (fs : BitVec 2) (off : BitVec 12)

theorem f_memWord (lo n : Nat) : f lo n (memWord opc data addr base mask wd scope op fs off) =
    (opc ++ data ++ addr ++ base ++ mask ++ wd ++ scope ++ op ++ fs ++ off).extractLsb' lo n := rfl

/-- Format MEM (R47): each field holds its operand. -/
theorem memWord_fields :
    let w := memWord opc data addr base mask wd scope op fs off
    opcodeOf w = opc.toNat ∧ f 45 9 w = data ∧ f 36 9 w = addr ∧ f 28 8 w = base ∧ f 24 4 w = mask ∧ f 21 3 w = wd ∧
    f 19 2 w = scope ∧ f 14 5 w = op ∧ f 12 2 w = fs ∧ f 0 12 w = off := by
  simp +decide only [opcodeOf, f_memWord, BitVec.extractLsb'_append_eq_of_le, BitVec.extractLsb'_append_eq_of_add_le,
    BitVec.extractLsb'_eq_self, Nat.reduceLeDiff, Nat.reduceSub, and_self]

end

section
variable (opc : BitVec 10) (ch : BitVec 6) (data : BitVec 9) (mask : BitVec 4) (fs : BitVec 2)

theorem f_chWord (lo n : Nat) : f lo n (chWord opc ch data mask fs) =
    (opc ++ ch ++ data ++ mask ++ fs ++ 0#33).extractLsb' lo n := rfl

/-- Format CH (R49): each field holds its operand. -/
theorem chWord_fields :
    let w := chWord opc ch data mask fs
    opcodeOf w = opc.toNat ∧ f 48 6 w = ch ∧ f 39 9 w = data ∧ f 35 4 w = mask ∧ f 33 2 w = fs := by
  simp +decide only [opcodeOf, f_chWord, BitVec.extractLsb'_append_eq_of_le, BitVec.extractLsb'_append_eq_of_add_le,
    BitVec.extractLsb'_eq_self, Nat.reduceLeDiff, Nat.reduceSub, and_self]

end

section
variable (opc : BitVec 10) (key seq : BitVec 9) (dom : BitVec 8) (mask mr : BitVec 4) (fs : BitVec 2) (opts : BitVec 4)

theorem f_prWord (lo n : Nat) : f lo n (prWord opc key seq dom mask mr fs opts) =
    (opc ++ key ++ seq ++ dom ++ mask ++ mr ++ fs ++ opts ++ 0#14).extractLsb' lo n := rfl

/-- Format PR (R50): each field holds its operand. -/
theorem prWord_fields :
    let w := prWord opc key seq dom mask mr fs opts
    opcodeOf w = opc.toNat ∧ f 45 9 w = key ∧ f 36 9 w = seq ∧ f 28 8 w = dom ∧ f 24 4 w = mask ∧ f 20 4 w = mr ∧
    f 18 2 w = fs ∧ w.getLsbD 17 = opts.getLsbD 3 ∧ w.getLsbD 16 = opts.getLsbD 2 := by
  simp +decide only [opcodeOf, getLsbD_eq_f, getLsbD_extractLsb'_one, f_prWord, BitVec.extractLsb'_append_eq_of_le,
    BitVec.extractLsb'_append_eq_of_add_le, BitVec.extractLsb'_eq_self, Nat.reduceLeDiff, Nat.reduceSub, and_self]

end

section
variable (opc : BitVec 10) (ka kb : BitVec 8) (v : BitVec 9) (mask : BitVec 4) (fs : BitVec 2) (t : BitVec 6)
  (opts : BitVec 5) (off : BitVec 12)

theorem f_asWord (lo n : Nat) : f lo n (asWord opc ka kb v mask fs t opts off) =
    (opc ++ ka ++ kb ++ v ++ mask ++ fs ++ t ++ opts ++ off).extractLsb' lo n := rfl

/-- Format AS (R51): each field holds its operand. -/
theorem asWord_fields :
    let w := asWord opc ka kb v mask fs t opts off
    opcodeOf w = opc.toNat ∧ f 46 8 w = ka ∧ f 38 8 w = kb ∧ f 29 9 w = v ∧ f 25 4 w = mask ∧ f 23 2 w = fs ∧ f 17 6 w = t ∧
    f 0 12 w = off := by
  simp +decide only [opcodeOf, f_asWord, BitVec.extractLsb'_append_eq_of_le, BitVec.extractLsb'_append_eq_of_add_le,
    BitVec.extractLsb'_eq_self, Nat.reduceLeDiff, Nat.reduceSub, and_self]

end

section
variable (opc : BitVec 10) (x : BitVec 2) (acc : BitVec 3) (sa sb inc : BitVec 4) (ks1 ks2 : BitVec 8) (pi : BitVec 5)
  (fs : BitVec 2) (ra rb : Bool) (v : BitVec 9)

theorem f_mxWord (lo n : Nat) : f lo n (mxWord opc x acc sa sb inc ks1 ks2 pi fs ra rb v) =
    (opc ++ x ++ acc ++ sa ++ sb ++ inc ++ ks1 ++ ks2 ++ pi ++ fs ++ bit ra ++ bit rb ++ v ++ 0#3).extractLsb' lo n := rfl

/-- Format MX (R52): each field holds its operand. -/
theorem mxWord_fields :
    let w := mxWord opc x acc sa sb inc ks1 ks2 pi fs ra rb v
    opcodeOf w = opc.toNat ∧ f 52 2 w = x ∧ f 49 3 w = acc ∧ f 45 4 w = sa ∧ f 41 4 w = sb ∧ f 37 4 w = inc ∧ f 29 8 w = ks1 ∧
    f 21 8 w = ks2 ∧ f 16 5 w = pi ∧ f 14 2 w = fs ∧ f 3 9 w = v ∧ w.getLsbD 13 = ra ∧ w.getLsbD 12 = rb := by
  simp +decide only [opcodeOf, getLsbD_eq_f, bit_getLsbD, f_mxWord, BitVec.extractLsb'_append_eq_of_le,
    BitVec.extractLsb'_append_eq_of_add_le, BitVec.extractLsb'_eq_self, Nat.reduceLeDiff, Nat.reduceSub, and_self]

end

section
variable (opc : BitVec 10) (d a b : BitVec 9) (mask aux : BitVec 4) (fs : BitVec 2) (t : BitVec 6) (buf : BitVec 2)
  (opts : BitVec 9)

theorem f_ryWord (lo n : Nat) : f lo n (ryWord opc d a b mask aux fs t buf opts) =
    (opc ++ d ++ a ++ b ++ mask ++ aux ++ fs ++ t ++ buf ++ opts).extractLsb' lo n := rfl

/-- Format RY (R53): each field holds its operand. -/
theorem ryWord_fields :
    let w := ryWord opc d a b mask aux fs t buf opts
    opcodeOf w = opc.toNat ∧ f 45 9 w = d ∧ f 36 9 w = a ∧ f 27 9 w = b ∧ f 23 4 w = mask ∧ f 19 4 w = aux ∧ f 17 2 w = fs ∧
    f 11 6 w = t ∧ f 9 2 w = buf ∧ w.getLsbD 0 = opts.getLsbD 0 := by
  simp +decide only [opcodeOf, getLsbD_eq_f, getLsbD_extractLsb'_one, f_ryWord, BitVec.extractLsb'_append_eq_of_le,
    BitVec.extractLsb'_append_eq_of_add_le, BitVec.extractLsb'_eq_self, Nat.reduceLeDiff, Nat.reduceSub, and_self]

end

section
variable (opc : BitVec 10) (ka kb kc : BitVec 8) (fs : BitVec 2) (mask : BitVec 4) (code : BitVec 8) (imm : BitVec 16)

theorem f_syWord (lo n : Nat) : f lo n (syWord opc ka kb kc fs mask code imm) =
    (opc ++ ka ++ kb ++ kc ++ fs ++ mask ++ code ++ imm).extractLsb' lo n := rfl

/-- Format SY (R54): each field holds its operand. -/
theorem syWord_fields :
    let w := syWord opc ka kb kc fs mask code imm
    opcodeOf w = opc.toNat ∧ f 46 8 w = ka ∧ f 38 8 w = kb ∧ f 30 8 w = kc ∧ f 28 2 w = fs ∧ f 24 4 w = mask ∧ f 16 8 w = code ∧
    f 0 2 w = imm.extractLsb' 0 2 ∧ f 0 9 w = imm.extractLsb' 0 9 ∧ f 0 11 w = imm.extractLsb' 0 11 ∧
    w.getLsbD 15 = imm.getLsbD 15 := by
  simp +decide only [opcodeOf, getLsbD_eq_f, getLsbD_extractLsb'_one, f_syWord, BitVec.extractLsb'_append_eq_of_le,
    BitVec.extractLsb'_append_eq_of_add_le, BitVec.extractLsb'_eq_self, Nat.reduceLeDiff, Nat.reduceSub, and_self]

end
/-- Every format begins with the opcode (R41). -/
theorem opcodeOf_word :
    (∀ o d a b c p t x m, opcodeOf (vrWord o d a b c p t x m) = o.toNat) ∧ (∀ o d a p m, opcodeOf (viWord o d a p m) = o.toNat) ∧
    (∀ o d a b c t cc m, opcodeOf (srWord o d a b c t cc m) = o.toNat) ∧ (∀ o d a t cc m, opcodeOf (siWord o d a t cc m) = o.toNat) ∧
    (∀ o c m x y, opcodeOf (brWord o c m x y) = o.toNat) ∧ (∀ o d a b m w s p x y, opcodeOf (memWord o d a b m w s p x y) = o.toNat) ∧
    (∀ o c d m x, opcodeOf (chWord o c d m x) = o.toNat) ∧ (∀ o k s d m r x p, opcodeOf (prWord o k s d m r x p) = o.toNat) ∧
    (∀ o a b v m x t p y, opcodeOf (asWord o a b v m x t p y) = o.toNat) ∧
    (∀ o x a s b i j k p y r q v, opcodeOf (mxWord o x a s b i j k p y r q v) = o.toNat) ∧
    (∀ o d a b m x y t u p, opcodeOf (ryWord o d a b m x y t u p) = o.toNat) ∧
    (∀ o a b c x m y z, opcodeOf (syWord o a b c x m y z) = o.toNat) := by
  simp only [vrWord_fields, viWord_fields, srWord_fields, siWord_fields, brWord_fields, memWord_fields, chWord_fields, prWord_fields,
    asWord_fields, mxWord_fields, ryWord_fields, syWord_fields, implies_true, and_self]

/-! ## Fields within fields -/

theorem satBits_getLsbD (sat : Bool) : (satBits sat).getLsbD 7 = sat := by cases sat <;> rfl

theorem extractLsb'_floatMods (rnd : Rnd) (na nb nc aa ab : Bool) (lo n : Nat) : (floatMods rnd na nb nc aa ab).extractLsb' lo n =
    (rnd.bits ++ bit na ++ bit nb ++ bit nc ++ bit aa ++ bit ab ++ 0#1).extractLsb' lo n := rfl

/-- The modifiers of the float families (R40). -/
theorem floatMods_fields (rnd : Rnd) (na nb nc aa ab : Bool) :
    let x := floatMods rnd na nb nc aa ab
    x.extractLsb' 6 2 = rnd.bits ∧ x.getLsbD 5 = na ∧ x.getLsbD 4 = nb ∧ x.getLsbD 3 = nc ∧ x.getLsbD 2 = aa ∧ x.getLsbD 1 = ab := by
  simp +decide only [← getLsbD_extractLsb'_one (floatMods rnd na nb nc aa ab), bit_getLsbD, extractLsb'_floatMods,
    BitVec.extractLsb'_append_eq_of_le, BitVec.extractLsb'_append_eq_of_add_le, BitVec.extractLsb'_eq_self, Nat.reduceLeDiff,
    Nat.reduceSub, and_self]

/-- An operand narrower than the field that holds it: masks in vector register fields (R92, R133), the token of FORK and JOIN (R128),
a lane mode (R93), a queue, and a vector register in the SY format's immediate (R54). -/
theorem padded_fields :
    (∀ m : BitVec 4, (0#5 ++ m : BitVec 9).extractLsb' 0 4 = m) ∧ (∀ k : BitVec 8, (0#1 ++ k : BitVec 9).extractLsb' 0 8 = k) ∧
    (∀ x : BitVec 2, (0#6 ++ x : BitVec 8).extractLsb' 0 2 = x) ∧ (∀ q : BitVec 2, (0#14 ++ q : BitVec 16).extractLsb' 0 2 = q) ∧
    ∀ v : BitVec 9, (0#7 ++ v : BitVec 16).extractLsb' 0 9 = v := by
  refine ⟨?_, ?_, ?_, ?_, ?_⟩ <;> exact fun _ => BitVec.extractLsb'_append_eq_right

/-- A condition, or zeros, and a mask in one register field (R39, R89, R90). -/
theorem condMask_fields (c m : BitVec 4) :
    (0#1 ++ c ++ m : BitVec 9).extractLsb' 0 4 = m ∧ (0#1 ++ c ++ m : BitVec 9).extractLsb' 4 4 = c ∧
    (c ++ m : BitVec 8).extractLsb' 0 4 = m ∧ (c ++ m : BitVec 8).extractLsb' 4 4 = c :=
  ⟨BitVec.extractLsb'_append_eq_right,
    (BitVec.extractLsb'_append_eq_of_le (xhi := 0#1 ++ c) (xlo := m) (by decide)).trans BitVec.extractLsb'_append_eq_right,
    BitVec.extractLsb'_append_eq_right, BitVec.extractLsb'_append_eq_left⟩

/-- The rounding mode and the source type of a conversion (R115, R117). -/
theorem conversionMods_fields (r : BitVec 2) (t : BitVec 4) :
    (r ++ 0#2 ++ t : BitVec 8).extractLsb' 0 4 = t ∧ (r ++ 0#2 ++ t : BitVec 8).extractLsb' 6 2 = r :=
  ⟨BitVec.extractLsb'_append_eq_right,
    (BitVec.extractLsb'_append_eq_of_le (xhi := r ++ 0#2) (xlo := t) (by decide)).trans BitVec.extractLsb'_append_eq_left⟩

/-- The two ranges of RHEAD (R96). -/
theorem rheadImm_fields (s1 s2 : BitVec 9) (n1 n2 : BitVec 6) :
    let x : BitVec 32 := s1 ++ n1 ++ s2 ++ n2 ++ 0#2
    x.extractLsb' 23 9 = s1 ∧ x.extractLsb' 17 6 = n1 ∧ x.extractLsb' 8 9 = s2 ∧ x.extractLsb' 2 6 = n2 := by
  simp +decide only [BitVec.extractLsb'_append_eq_of_le, BitVec.extractLsb'_append_eq_of_add_le, BitVec.extractLsb'_eq_self,
    Nat.reduceLeDiff, Nat.reduceSub, and_self]

/-- The interrupt bit and the vector of SIGNAL (R283). -/
theorem signalImm_fields (irq : Bool) (vec : BitVec 11) :
    (bit irq ++ 0#4 ++ vec : BitVec 16).extractLsb' 0 11 = vec ∧ (bit irq ++ 0#4 ++ vec : BitVec 16).getLsbD 15 = irq := by
  refine ⟨BitVec.extractLsb'_append_eq_right, ?_⟩
  rw [BitVec.getLsbD_append, BitVec.getLsbD_append]
  exact bit_getLsbD irq

/-- The two options of OOPEN (R149). -/
theorem oopenOpts_fields (dev tr : Bool) :
    (bit dev ++ bit tr ++ 0#2 : BitVec 4).getLsbD 3 = dev ∧ (bit dev ++ bit tr ++ 0#2 : BitVec 4).getLsbD 2 = tr := by
  cases dev <;> cases tr <;> decide

/-! ## Codes of enumerated fields -/

theorem Ty.ofBits_bits (t : Ty) : Ty.ofBits t.bits = some t := by cases t <;> rfl
theorem Rnd.ofBits_bits (r : Rnd) : Rnd.ofBits r.bits = r := by cases r <;> rfl
theorem ICond.ofBits_bits (c : ICond) : ICond.ofBits c.bits = some c := by cases c <;> rfl
theorem FCond.ofBits_bits (c : FCond) : FCond.ofBits c.bits = some c := by cases c <;> rfl
theorem BCond.ofBits_bits (c : BCond) : BCond.ofBits c.bits = some c := by cases c <;> rfl
theorem LaneMode.ofBits_bits (m : LaneMode) : LaneMode.ofBits m.bits = m := by cases m <;> rfl
theorem FSel.ofBits_bits (x : FSel) : FSel.ofBits x.bits = some x := by cases x <;> rfl
theorem Width.ofBits_bits (w : Width) : Width.ofBits w.bits = some w := by cases w <;> rfl
theorem Scope.ofBits_bits (c : Scope) : Scope.ofBits c.bits = c := by cases c <;> rfl
theorem AtomOp.ofBits_bits (o : AtomOp) : AtomOp.ofBits o.bits = some o := by cases o <;> rfl

end Sys2Proof
end

section
/-! PROOF of O54. Every instruction is read back from its word, range by range of the opcode map (R55). -/

namespace Sys2Proof

/-! ## The fields of an instruction's word -/

theorem decodeFields_encode_valu {i : Instr} {w : BitVec 64} (h : encode i = some w) (hr : opcodeOf w < 0x100) :
    decodeFields w = some i := by
  cases i <;> cases h <;> simp only [opcodeOf_word, BitVec.reduceToNat, Nat.reduceLT] at hr
  all_goals simp only [decodeFields, opcodeOf_word, BitVec.reduceToNat, Nat.reduceLT, OfNat.ofNat_ne_zero, one_ne_zero, ↓reduceIte]
  all_goals conv_lhs => whnf
  all_goals simp only [vrWord_fields, viWord_fields, satBits_getLsbD, floatMods_fields, padded_fields, condMask_fields,
    conversionMods_fields, Ty.ofBits_bits, Rnd.ofBits_bits, ICond.ofBits_bits, FCond.ofBits_bits, LaneMode.ofBits_bits,
    Option.bind_some]

/-- MOVS has two forms under one opcode, which a modifier bit tells apart (R94). -/
theorem decodeFields_encode_salu {i : Instr} {w : BitVec 64} (h : encode i = some w)
    (hr : 0x100 ≤ opcodeOf w ∧ opcodeOf w < 0x180) : decodeFields w = some i := by
  cases i <;> cases h <;>
    simp only [opcodeOf_word, BitVec.reduceToNat, Nat.reduceLT, Nat.reduceLeDiff, and_false, false_and, and_self] at hr
  all_goals simp only [decodeFields, opcodeOf_word, BitVec.reduceToNat, Nat.reduceLT, OfNat.ofNat_ne_zero, ↓reduceIte]
  case movsSr | movsFflagsWrite => simp only [decodeSalu, srWord_fields, BitVec.reduceGetLsb, Bool.false_eq_true, ↓reduceIte]
  all_goals conv_lhs => whnf
  all_goals simp only [srWord_fields, siWord_fields, brWord_fields, satBits_getLsbD, padded_fields, condMask_fields,
    rheadImm_fields, Ty.ofBits_bits, ICond.ofBits_bits, BCond.ofBits_bits, Option.bind_some]

/-- The classes with one format each, or two. -/
theorem decodeFields_encode_engines {i : Instr} {w : BitVec 64} (h : encode i = some w) (hr : 0x180 ≤ opcodeOf w) :
    decodeFields w = some i := by
  cases i <;> cases h <;> simp only [opcodeOf_word, BitVec.reduceToNat, Nat.reduceLeDiff] at hr
  all_goals simp only [decodeFields, opcodeOf_word, BitVec.reduceToNat, Nat.reduceLT, OfNat.ofNat_ne_zero, ↓reduceIte]
  any_goals unfold decodeMem
  any_goals unfold decodeAsync
  any_goals unfold decodeMtx
  any_goals unfold decodeRay
  any_goals unfold decodeChan
  any_goals unfold decodeSys
  all_goals simp only [memWord_fields, chWord_fields, prWord_fields, asWord_fields, mxWord_fields, ryWord_fields, syWord_fields,
    padded_fields, signalImm_fields, oopenOpts_fields, FSel.ofBits_bits, Width.ofBits_bits, Scope.ofBits_bits, AtomOp.ofBits_bits,
    Option.bind_some, BitVec.reduceGetLsb, BitVec.reduceEq, Bool.false_eq_true, ↓reduceIte]

/-- The fields of an instruction's word are its operands. -/
theorem decodeFields_encode {i : Instr} {w : BitVec 64} (h : encode i = some w) : decodeFields w = some i := by
  by_cases h1 : opcodeOf w < 0x100
  · exact decodeFields_encode_valu h h1
  by_cases h2 : opcodeOf w < 0x180
  · exact decodeFields_encode_salu h ⟨by omega, h2⟩
  · exact decodeFields_encode_engines h (by omega)

/-! ## The decoder -/

theorem assignedOpcode_encode {i : Instr} {w : BitVec 64} (h : encode i = some w) : assignedOpcode (opcodeOf w) = true := by
  cases i <;> cases h <;> simp only [opcodeOf_word, BitVec.reduceToNat] <;> decide

theorem decode_ok_iff {i : Instr} {w : BitVec 64} : decode w = .ok i ↔ i.wf = true ∧ encode i = some w := by
  unfold decode
  constructor
  · intro h
    split at h
    · split at h
      · next j _ =>
        split at h
        · next hj =>
          cases h
          simpa using hj
        · cases h
      · cases h
    · cases h
  · rintro ⟨hwf, h⟩
    rw [if_pos (assignedOpcode_encode h), decodeFields_encode h]
    simp [hwf, h]

/-- Only NOP has the opcode 0, which every class holds (R34). -/
theorem eq_nop_of_opcodeOf_eq_zero {i : Instr} {w : BitVec 64} (h : encode i = some w) (h0 : opcodeOf w = 0) : i = .nop := by
  have hd := decodeFields_encode h
  rw [decodeFields, if_pos h0] at hd
  exact (Option.some.inj hd).symm

end Sys2Proof
end

section
/-! PROOF of O54. The class of an opcode (R55), and the statement. -/

namespace Sys2Proof.Machine
open Sys2Proof

/-- A word is of a class where the range that R55 gives the class holds its opcode. -/
theorem wordInClass_iff {w : W64} {c : EngineClass} : wordInClass w c ↔ opcodeOf w = 0 ∨ classOfOpcode (opcodeOf w) = some c := by
  have h : classOfOpcode (opcodeOf w) = some c ↔ (classRange c).1 ≤ opcodeOf w ∧ opcodeOf w ≤ (classRange c).2 := by
    unfold classOfOpcode
    split_ifs <;> cases c <;> simp only [classRange, Option.some.injEq, reduceCtorEq, true_iff, false_iff] <;> omega
  rw [h]
  rfl

/-- The ranges of the classes hold every assigned opcode. -/
theorem exists_classOfOpcode {op : Nat} (h : assignedOpcode op = true) : ∃ c, classOfOpcode op = some c := by
  have hlt : op < 0x340 := by
    simp only [assignedOpcode, Bool.or_eq_true, decide_eq_true_eq] at h
    omega
  unfold classOfOpcode
  split_ifs <;> exact ⟨_, rfl⟩

/-- Settles O54: the word of an instruction holds its fields, so that the decoder reads them back, and its opcode, which lies in the
range of one class. -/
theorem decodeReadsEncode : Obligations.DecodeReadsEncode := by
  refine ⟨fun i w hwf h => decode_ok_iff.2 ⟨hwf, h⟩, fun i w h => decode_ok_iff.1 h, fun i w h => ?_⟩
  have ha := assignedOpcode_encode h
  obtain ⟨c, hc⟩ := exists_classOfOpcode ha
  refine ⟨ha, c, wordInClass_iff.2 (.inr hc), fun d hd => ?_⟩
  rcases wordInClass_iff.1 hd with h0 | hd
  · exact .inr (eq_nop_of_opcodeOf_eq_zero h h0)
  · exact .inl (Option.some.inj (hd.symm.trans hc))

end Sys2Proof.Machine
end

section
/-! PROOF of O60. What an encoded instruction answers, by the shared operation that its meaning is written over (R34). -/

namespace Sys2Proof.Machine
open Sys2Proof
variable {s : State}

/-- A next state, or, with no issuing slot, the fault that says so (log entry 14). -/
def Answers (s : State) (o : Out) : Prop := (∃ t, o = .next t) ∨ (o = .fault .noIssuer ∧ issuer s = none)

/-! ## The shared operations -/

theorem answers_issueG {uf : Group → Uses} {p : MCode} {k : Iss → State} : Answers s (issueG s uf p k) := by
  cases h : issuer s with
  | none => exact .inr ⟨by simp only [issueG, h], h⟩
  | some i => exact .inl (issueG_next uf p k h)

theorem answers_issue {u : Uses} {p : MCode} {k : Iss → State} : Answers s (issue s u p k) := answers_issueG
theorem answers_valu {u : Uses} {p : MCode} {f : Iss → Nat → List RegWrite} : Answers s (valu s u p f) := answers_issue
theorem answers_falu {u : Uses} {p : MCode} {f : Iss → Nat → List RegWrite × FFlags} : Answers s (falu s u p f) := answers_issue
theorem answers_salu {u : Uses} {cc : Bool} {f : Iss → List RegWrite × Codes} : Answers s (salu s u cc f) := answers_issue
theorem answers_salu1 {t : Ty} {d a : KCode} {cc : Bool} {f : Nat → Nat} {k : Nat → Nat → Codes} :
    Answers s (salu1 s t d a cc f k) := answers_salu
theorem answers_salu2 {t : Ty} {d a b : KCode} {cc : Bool} {f : Nat → Nat → Nat} {k : Nat → Nat → Nat → Codes} :
    Answers s (salu2 s t d a b cc f k) := answers_salu
theorem answers_salu3 {t : Ty} {d a b c : KCode} {cc : Bool} {f : Nat → Nat → Nat → Nat} {k : Nat → Nat → Nat → Nat → Codes} :
    Answers s (salu3 s t d a b c cc f k) := answers_salu
theorem answers_saluImm {t : Ty} {d a : KCode} {cc : Bool} {imm : W32} {f : Nat → Nat → Nat} {k : Nat → Nat → Nat → Codes} :
    Answers s (saluImm s t d a cc imm f k) := answers_salu
theorem answers_maskOp {md : MCode} {srcs : List MCode} {cc : Bool} {f : Iss → W32} : Answers s (maskOp s md srcs cc f) := answers_salu

theorem answers_loadOp {sp : LSpace} {data addr : VCode} {base : KCode} {p : MCode} {wd : Width} {fs : FSel} {off : BitVec 12} :
    Answers s (loadOp s sp data addr base p wd fs off) := answers_issue
theorem answers_storeOp {sp : LSpace} {data addr : VCode} {base : KCode} {p : MCode} {wd : Width} {off : BitVec 12} :
    Answers s (storeOp s sp data addr base p wd off) := answers_issue
theorem answers_atomOp {sp : LSpace} {op : AtomOp} {data addr : VCode} {base : KCode} {p : MCode} {wd : Width} {fs : FSel}
    {off : BitVec 12} {ret : Bool} : Answers s (atomOp s sp op data addr base p wd fs off ret) := answers_issue
theorem answers_atomMain {op : AtomOp} {data addr : VCode} {base : KCode} {p : MCode} {wd : Width} {sys : Bool} {fs : FSel}
    {off : BitVec 12} {ret : Bool} : Answers s (atomMain s op data addr base p wd sys fs off ret) := answers_issue
theorem answers_barrierOp {u : Uses} {base : KCode} {off : BitVec 12} {k : Iss → Team → Barrier → State} :
    Answers s (barrierOp s u base off k) := answers_issue
theorem answers_fenceOp {acq rel : Bool} {sc : Scope} : Answers s (fenceOp s acq rel sc) := answers_issue
theorem answers_copyOp {u : Uses} {ka kb : KCode} {fs : FSel} {off : BitVec 12} {p : MCode}
    {accept : Iss → Team → Nat → Accept Copy} : Answers s (copyOp s u ka kb fs off p accept) := answers_issue
theorem answers_enterOp {key seq : VCode} {dom : KCode} {mr p : MCode} {fs : FSel} {wait part : Bool} :
    Answers s (enterOp s key seq dom mr p fs wait part) := answers_issue
theorem answers_takeEntry {ch : BitVec 6} {data : VCode} {p : MCode} {fs : FSel} {pop : Bool} :
    Answers s (takeEntry s ch data p fs pop) := answers_issue
theorem answers_cxOp {save : Bool} {ka kb kc : KCode} {fs : FSel} : Answers s (cxOp s save ka kb kc fs) := answers_issue

/-! ## Every encoded instruction, and every other step -/

theorem answers_execMovsVr {d : VCode} {sr : BitVec 9} {p : MCode} {t : Ty} : Answers s (execMovsVr d sr p t s) := by
  unfold execMovsVr
  split
  · exact answers_issue
  · exact answers_valu

theorem answers_execBarwait {base : KCode} {off : BitVec 12} : Answers s (execBarwait base off s) := by
  unfold execBarwait
  split
  · exact answers_issue
  · exact answers_barrierOp

theorem answers_execBaraw {base : KCode} {off : BitVec 12} : Answers s (execBaraw base off s) := by
  unfold execBaraw
  split
  · exact answers_issue
  · exact answers_barrierOp

/-- Each meaning is one use of a shared operation, so that it answers as issuing does. -/
theorem answers_exec (i : Instr) (h : encode i ≠ none) : Answers s (exec i s) := by
  unfold exec
  cases i with
  | iaddVr | isubVr | imulVr | imulhVr | iminVr | imaxVr | andVr | orVr | xorVr | andnVr | shlVr | shrVr | sarVr | rolVr
  | imadVr | btabVr | bfxVr | binsVr | plsetVr | leaVr | iabsVr | inegVr | popcVr | clzVr | ctzVr | brevVr | movVr
  | iaddcVr | isubbVr | ffcsVr | icmpVr | selVr | lshuf | bcast | moviVi | icmpVi
  | iaddVi | imulVi | andVi | orVi | xorVi | shlVi | shrVi | sarVi =>
    exact answers_valu
  | fadd | fsub | fmul | ffma | fcmp | fclass | fscale | frint | pkfma | fdot2 | fcvt | icvt | lmul | lsum | fmin | fmax
  | frcp | fsqrt | frsq | fexp2 | flog2 =>
    exact answers_falu
  | iaddSr | isubSr | imulSr | imulhSr | iminSr | imaxSr | andSr | orSr | xorSr | andnSr | shlSr | shrSr | sarSr | rolSr =>
    exact answers_salu2
  | imadSr | btabSr | bfxSr | binsSr | plsetSr | leaSr =>
    exact answers_salu3
  | iabsSr | inegSr | popcSr | clzSr | ctzSr | brevSr | movSr =>
    exact answers_salu1
  | iaddcSr | isubbSr | ffcsSr | icmpSr | selSr | mpopc | mfirst | moviSi | icmpSi =>
    exact answers_salu
  | mand | mor | mxor | mandn | mnot | mmov =>
    exact answers_maskOp
  | iaddSi | isubSi | imulSi | andSi | orSi | xorSi | shlSi | shrSi | sarSi | iminSi | imaxSi =>
    exact answers_saluImm
  | ldl | ldt | ldd =>
    exact answers_loadOp
  | stl | stt | std =>
    exact answers_storeOp
  | atomT | redT | atomD | redD =>
    exact answers_atomOp
  | atomM | redM =>
    exact answers_atomMain
  | barexp | bararr =>
    exact answers_barrierOp
  | fence | fenceAcq | fenceRel =>
    exact answers_fenceOp
  | copy | copyg | copys | route =>
    exact answers_copyOp
  | recv | peek =>
    exact answers_takeEntry
  | oenterAll | oenterPart | owait | owaitPart =>
    exact answers_enterOp
  | cxsave | cxload =>
    exact answers_cxOp
  | elect | retire | movsSr | movsFflagsWrite | clock | jmp | rhead | bra | ret | fork | join | exit | nop | barinit | tidset
  | tidinv | cbatch | waitb | xchg | sclaim | srel | acq | rel | relFree | mzero | mloop | mread | mwrite | mstore | rinit
  | rbox | rtri | mdec | tbread | mpatch | mstatBuf | mstatFord | raster | send | oopen | oclose | oleave | oskip | launch
  | glaunch | emit | commit | signal | waitg | role | trap | rett | cxkill | mwait =>
    exact answers_issue
  | frame | call | reorder =>
    exact answers_issueG
  | movsVr => exact answers_execMovsVr
  | barwait => exact answers_execBarwait
  | baraw => exact answers_execBaraw
  | _ => exact absurd rfl h

theorem execClauseSelection_next (core part : Nat) (s : State) : ∃ t, execClauseSelection core part s = .next t := by
  unfold execClauseSelection
  dsimp only
  split <;> exact ⟨_, rfl⟩

/-- A step that no word encodes always answers a next state. -/
theorem exec_event (i : Instr) (h : encode i = none) (s : State) : ∃ t, exec i s = .next t := by
  unfold exec
  cases i with
  | starvationPromotion | congestionLevelUpdate | resultArrival | channelEntryArrival | channelCreditReturn | channelStallBudget
  | processionHomeRequest | processionLeaveArrival | processionAdmissionReturn | processionStallBudget | mwaitWake | roleGrant
  | reorderMove | copyDelivery | copyCompletion | mloopKStep | mstoreTileRead | decoderServe | walkStep | streamHoldGrant
  | rasterTriangle | rasterComplete | faultReply | translationFlush | uncorrectableError | placementStep | headReserving
  | teamStart | dependenceWordCheck | gridCompletion | rootProgramLaunch | batchTimeout | batchIdleClose | graphCompletion
  | hostInboxWrite | hostBar2Access | remoteRequestServe | flitReceive | negativeAcknowledgement | linkDown | parkedNotice
  | remoteResponse | remoteTimeout | ucieLinkFailure | xchgCountReceive | xchgCountResend | xchgReadyReceive | xchgRowReceive
  | xchgRowAck | xchgDoneReceive | xchgFailureReceive | replayDivergence | bootRomStart | bootRetry | tenantConfigWrite
  | tenantStart | attestationRequest | monitorClear | queueSample | powerSample | thermalShutdown | accessPerformed
  | correctedError =>
    exact ⟨_, rfl⟩
  | clauseSelection => exact execClauseSelection_next _ _ _
  | _ => cases h

theorem exec_answers (i : Instr) (s : State) :
    (∃ t, exec i s = .next t) ∨ (exec i s = .fault .noIssuer ∧ issuer s = none ∧ encode i ≠ none) := by
  by_cases h : encode i = none
  · exact .inl (exec_event i h s)
  · exact (answers_exec i h).imp_right fun ⟨hf, hi⟩ => ⟨hf, hi, h⟩

/-! ## Every step -/

/-- A turn that issues has an issuing slot where it executes. -/
theorem issueTurn_next (s : State) : ∃ t, issueTurn s = .next t := by
  rcases issueTurn_cases s with h | ⟨i, hi, -, ⟨ins, -, h⟩ | ⟨code, -, h⟩⟩
  · exact ⟨s, h⟩
  · rw [h]
    rcases exec_answers ins s with hn | ⟨-, hnone, -⟩
    · exact hn
    · rw [hi] at hnone
      cases hnone
  · exact ⟨_, h⟩

theorem takeTurn_next (t : Turn) (s : State) : ∃ u, takeTurn t s = .next u := by
  unfold takeTurn
  dsimp only
  split
  · exact issueTurn_next _
  · split
    · next hnone => exact exec_event _ (Option.isNone_iff_eq_none.1 hnone) _
    · exact ⟨_, rfl⟩

/-- Settles O60: an encoded instruction is issued, which without a slot alone is a fault, and a step issues only where a slot is. -/
theorem everyStepGoesOn : Obligations.EveryStepGoesOn := ⟨exec_answers, fun _ => takeTurn_next _ _⟩

end Sys2Proof.Machine
end

section
/-! PROOF of O55. The worked words (R55, R143, R223, R252, R277, R325) are the words of their instructions. -/

namespace Sys2Proof

/-- The table's word of a well-formed instruction is read back. -/
theorem decodeTableWord_of_encode {w : Nat} {i : Instr} (hw : w < 2 ^ 64) (hwf : i.wf = true)
    (h : encode i = some (BitVec.ofNat 64 w)) : decodeTableWord 64 w = some i := by
  unfold decodeTableWord
  rw [if_pos (Nat.le_refl 64), Nat.mod_eq_of_lt hw, decode_ok_iff.2 ⟨hwf, h⟩]

/-- Settles O55: each word is what the encoder answers for its instruction. -/
theorem wordsDecode : Obligations.WordsDecode := by
  refine ⟨?_, ?_, ?_, ?_, ?_, ?_, ?_, ?_, ?_⟩ <;>
  exact decodeTableWord_of_encode (by decide) (by decide) (by decide)

end Sys2Proof
end

section
/-! PROOF of O59. What a word comes to at a slot (R34, R55), and the step that takes the agenda's first turn. -/

namespace Sys2Proof.Machine
open Sys2Proof
variable {c : EngineClass} {w : W64} {s : State} {i : Iss}

/-! ## A word at a clause (R34, R55) -/

theorem wordInClass_iff_not : wordInClass w c ↔ ¬ (opcodeOf w ≠ 0 ∧ classOfOpcode (opcodeOf w) ≠ some c) := by
  rw [wordInClass_iff, not_and_or, not_not, not_not]

theorem checkWord_ok {ins : Instr} (hc : wordInClass w c) (h : decode w = .ok ins) : checkWord c w = .ok ins := by
  have ha : assignedOpcode (opcodeOf w) = true := assignedOpcode_encode (decode_ok_iff.1 h).2
  unfold checkWord
  rw [if_pos ha, if_neg (wordInClass_iff_not.1 hc), h]

theorem checkWord_unassigned (h : assignedOpcode (opcodeOf w) = false) : checkWord c w = .error 0x01 := by
  unfold checkWord
  rw [if_neg (by simp [h])]

theorem checkWord_otherClass (ha : assignedOpcode (opcodeOf w) = true) (hc : ¬ wordInClass w c) :
    checkWord c w = .error 0x02 := by
  unfold checkWord
  rw [if_pos ha, if_pos (not_not.1 fun h => hc (wordInClass_iff_not.2 h))]

/-- A word of the clause's class whose fields no instruction takes is no instruction, whether its opcode is assigned or not. -/
theorem checkWord_badField {e : DecodeError} (hc : wordInClass w c) (h : decode w = .error e) :
    checkWord c w = .error 0x01 := by
  unfold checkWord
  split
  · rw [if_neg (wordInClass_iff_not.1 hc), h]
  · rfl

/-! ## The turns of a step -/

theorem step_issue {dt gid n : Nat} {rest : List Turn} (h : s.agenda = ⟨dt, .issue gid n⟩ :: rest) :
    step s = issueTurn { s.turned dt rest with focus := (gid, n) } := by
  unfold step nextTurn
  rw [h]
  rfl

theorem step_event {dt : Nat} {ins : Instr} {rest : List Turn} (h : s.agenda = ⟨dt, .event ins⟩ :: rest) :
    step s = if (encode ins).isNone then exec ins (s.turned dt rest) else .next (s.turned dt rest) := by
  unfold step nextTurn
  rw [h]
  rfl

theorem moduleUp_iff : moduleUp s = true ↔ s.diesInReset = false ∧ s.ucieUp = true := by
  simp [moduleUp]

theorem issueTurn_idle (h : issuer s = none ∨ s.diesInReset = true ∨ s.ucieUp = false) : issueTurn s = .next s := by
  unfold issueTurn
  split
  · rfl
  · next j hj =>
    have hm : moduleUp s = false := by
      rcases h with h | h | h
      · exact absurd (h.symm.trans hj) (Option.some_ne_none j).symm
      · simp [moduleUp, h]
      · simp [moduleUp, h]
    rw [if_pos (by simp [hm])]

theorem issueTurn_stalled (hi : issuer s = some i) (hs : siblingExceeds s i = true) : issueTurn s = .next s := by
  unfold issueTurn
  rw [hi]
  dsimp only
  rw [if_pos (by simp [hs])]

theorem issueTurn_ok {ins : Instr} (hi : issuer s = some i) (hm : moduleUp s = true) (hs : siblingExceeds s i = false)
    (hw : checkWord i.cl.hdr.cls i.word = .ok ins) : issueTurn s = exec ins s := by
  unfold issueTurn
  rw [hi]
  dsimp only
  rw [if_neg (by simp [hm, hs]), hw]

theorem issueTurn_error {code : Nat} (hi : issuer s = some i) (hm : moduleUp s = true) (hs : siblingExceeds s i = false)
    (hf : (heldBack i.g i.n || isFrozen s i.g || waitsForPipe s i) = false)
    (hw : checkWord i.cl.hdr.cls i.word = .error code) : issueTurn s = .next (raise s i code) := by
  unfold issueTurn
  rw [hi]
  dsimp only
  rw [if_neg (by simp [hm, hs]), hw]
  dsimp only
  rw [if_neg (by simp [hf])]

/-! ## The issuing slot and the focus -/

theorem issuer_eq_some_iff : issuer s = some i ↔ s.focus = (i.gid, i.n) ∧ tfind s.groups i.gid = some i.g ∧
    slotOf i.g i.n = some i.slot ∧ i.slot.clause = some i.cl := by
  constructor
  · intro h
    unfold issuer at h
    split at h
    · cases h
    · split at h
      · cases h
      · split at h
        · cases h
        · cases h
          exact ⟨rfl, ‹_›, ‹_›, ‹_›⟩
  · rintro ⟨hf, hg, hs, hc⟩
    simp [issuer, hf, hg, hs, hc]

theorem issuer_clause (h : issuer s = some i) : i.slot.clause = some i.cl := by
  obtain ⟨-, -, -, hc⟩ := issuer_eq_some_iff.1 h
  exact hc

theorem issuer_focus {gid n : Nat} (h : issuer s = some i) (hf : s.focus = (gid, n)) : gid = i.gid ∧ n = i.n := by
  obtain ⟨hf', -⟩ := issuer_eq_some_iff.1 h
  exact Prod.mk.inj (hf.symm.trans hf')

/-- The other slot's stall, written for the slot that the focus names. -/
theorem siblingExceeds_focus {gid n : Nat} (hi : issuer s = some i) (hf : s.focus = (gid, n)) :
    siblingExceeds s i = true ↔ i.cl.hdr.cls.limited = true ∧ heldBack i.g (1 - n) = false ∧
      ∃ sl c, slotOf i.g (1 - n) = some sl ∧ sl.clause = some c ∧ firstExceeds s ⟨i.gid, 1 - n, i.g, sl, c⟩ = true := by
  rw [siblingExceeds_iff, (issuer_focus hi hf).2]

/-! ## The state whose next step issues a word (log entry 3) -/

theorem withIssuer_of_issuer (hi : issuer s = some i) : withIssuer s = s := by
  obtain ⟨hf, hg, hs, -⟩ := issuer_eq_some_iff.1 hi
  simp [withIssuer, hf, hg, hs]

/-- The slot that issues still issues in the state that a word is placed in, and the word is its next. -/
theorem issuer_withFetchWord {gid n : Nat} (hf : s.focus = (gid, n)) (hi : issuer s = some i) (w : Nat) :
    ∃ j, issuer { (s.withFetchWord 64 w).turned 1 [] with focus := (gid, n) } = some j ∧ j.word = BitVec.ofNat 64 w := by
  obtain ⟨hf', hg, hs, -⟩ := issuer_eq_some_iff.1 hi
  obtain ⟨rfl, rfl⟩ := issuer_focus hi hf
  let x := BitVec.ofNat 64 w
  let g' := setSlot { i.g with park := none, fences := [] } i.n (some (wordSlot i.slot x))
  refine ⟨⟨i.gid, i.n, g', wordSlot i.slot x, oneWordClause x⟩, issuer_eq_some_iff.2 ⟨rfl, ?_, ?_, rfl⟩, rfl⟩
  · show tfind (placeWord s 64 w).groups i.gid = some g'
    simp only [placeWord, withIssuer_of_issuer hi, hf', updGroup, hg, putGroup, hs, Option.map_some]
    exact tfind_tput_self _ _ _
  · exact (slotOf_setSlot (issuer_lt hi) _).trans (if_pos rfl)

/-- Settles O59: the first turn of the agenda is taken, and the checks of its word are those of R34 in their order. -/
theorem stepRunsTheInstruction : Obligations.StepRunsTheInstruction := by
  refine ⟨fun s gid n dt rest h => ?_, fun s ins dt rest h he => ?_, fun s ins dt rest h he => ?_,
    fun s gid n i hf hi w _ => ⟨rfl, rfl, issuer_withFetchWord hf hi w⟩⟩
  · dsimp only
    rw [step_issue h]
    refine ⟨issueTurn_idle, fun i hi hr hu => ⟨fun sl c hsl hc hb hl he => ?_, fun hfree => ?_⟩⟩
    · exact issueTurn_stalled hi ((siblingExceeds_focus hi rfl).2 ⟨hl, hb, sl, c, hsl, hc, he⟩)
    · have hm : moduleUp { s.turned dt rest with focus := (gid, n) } = true := moduleUp_iff.2 ⟨hr, hu⟩
      have hs : siblingExceeds { s.turned dt rest with focus := (gid, n) } i = false := by
        refine Bool.eq_false_iff.2 fun hs => ?_
        obtain ⟨hl, hb, sl, c, hsl, hc, he⟩ := (siblingExceeds_focus hi rfl).1 hs
        exact absurd he (Bool.eq_false_iff.1 (hfree sl c hsl hc hb hl))
      refine ⟨fun ins hd hc => issueTurn_ok hi hm hs (checkWord_ok hc hd), fun hf => ?_⟩
      rw [(issuer_focus hi rfl).2] at hf
      exact ⟨fun ha => issueTurn_error hi hm hs hf (checkWord_unassigned ha),
        fun ha hc => issueTurn_error hi hm hs hf (checkWord_otherClass ha hc),
        fun e hc hd => issueTurn_error hi hm hs hf (checkWord_badField hc hd)⟩
  · rw [step_event h, if_pos (by simp [he])]
  · rw [step_event h, if_neg (by simp [he])]

end Sys2Proof.Machine
end

section
/-! PROOF of O13. The comparisons of R46 on the codes of a difference (R78). -/

namespace Sys2Proof.Machine
open Sys2Proof
variable {w : Nat} (x y : BitVec w) (m : W32)

/-! ## The codes of a difference (R78) -/

/-- The signed value of a difference is the exact one, brought into the signed range by at most one 2^w. -/
theorem toInt_sub_cases (hw : 0 < w) :
    ((x - y).toInt = x.toInt - y.toInt ∧ -2 ^ (w - 1) ≤ x.toInt - y.toInt ∧ x.toInt - y.toInt < 2 ^ (w - 1)) ∨
      ((x - y).toInt = x.toInt - y.toInt - 2 ^ w ∧ 2 ^ (w - 1) ≤ x.toInt - y.toInt ∧ (x - y).toInt < 0) ∨
      ((x - y).toInt = x.toInt - y.toInt + 2 ^ w ∧ x.toInt - y.toInt < -2 ^ (w - 1) ∧ 0 ≤ (x - y).toInt) := by
  have hpow : (2 : Int) ^ w = 2 * 2 ^ (w - 1) := by rw [← Int.pow_succ', Nat.sub_add_cancel hw]
  have hcast : ((2 ^ w : Nat) : Int) = 2 ^ w := by simp
  have hx := x.le_toInt
  have hx' := x.toInt_lt
  have hy := y.le_toInt
  have hy' := y.toInt_lt
  have hbmod : ∀ e : Int, -2 ^ (w - 1) ≤ e → e < 2 ^ (w - 1) → e.bmod (2 ^ w) = e := fun e hl hu =>
    Int.bmod_eq_of_le_mul_two (by rw [hcast]; omega) (by rw [hcast]; omega)
  rw [BitVec.toInt_sub]
  by_cases hl : x.toInt - y.toInt < -2 ^ (w - 1)
  · have h : (x.toInt - y.toInt).bmod (2 ^ w) = x.toInt - y.toInt + 2 ^ w := by
      rw [← hbmod (x.toInt - y.toInt + 2 ^ w) (by omega) (by omega), ← hcast, Int.add_bmod_right]
    exact .inr (.inr ⟨h, hl, by omega⟩)
  · by_cases hu : 2 ^ (w - 1) ≤ x.toInt - y.toInt
    · have h : (x.toInt - y.toInt).bmod (2 ^ w) = x.toInt - y.toInt - 2 ^ w := by
        rw [← hbmod (x.toInt - y.toInt - 2 ^ w) (by omega) (by omega), ← hcast, Int.sub_bmod_right]
      exact .inr (.inl ⟨h, hu, by omega⟩)
    · exact .inl ⟨hbmod _ (by omega) (by omega), by omega, by omega⟩

theorem codesOfDifference_z : (codesOfDifference x y false (x - y)).z = decide (x = y) := by
  rw [Bool.eq_iff_iff]
  simp [codesOfDifference, codesFor, BitVec.sub_eq_iff_eq_add]

theorem codesOfDifference_c : (codesOfDifference x y false (x - y)).c = decide (y.toNat ≤ x.toNat) := by
  simp [codesOfDifference, codesFor]

theorem codesOfDifference_v : (codesOfDifference x y false (x - y)).v =
    decide (x.toInt - y.toInt < -2 ^ (w - 1) ∨ 2 ^ (w - 1) ≤ x.toInt - y.toInt) := by
  simp [codesOfDifference, codesFor, beyond]

theorem codesOfDifference_n : (codesOfDifference x y false (x - y)).n = decide ((x - y).toInt < 0) :=
  BitVec.msb_eq_toInt

/-- N differs from V where the exact difference is negative. -/
theorem codesOfDifference_n_ne_v (hw : 0 < w) :
    (codesOfDifference x y false (x - y)).n ≠ (codesOfDifference x y false (x - y)).v ↔ x.toInt < y.toInt := by
  have hpos : (0 : Int) < 2 ^ (w - 1) := Int.pow_pos (by decide)
  rw [codesOfDifference_n, codesOfDifference_v, Ne, decide_eq_decide]
  rcases toInt_sub_cases x y hw with ⟨h, hl, hu⟩ | ⟨h, hu, hn⟩ | ⟨h, hl, hn⟩ <;> omega

/-! ## The conditions (R46) -/

theorem condHolds_signed (hw : 0 < w) :
    let k := codesOfDifference x y false (x - y)
    (condHolds .lt k m = true ↔ x.toInt < y.toInt) ∧ (condHolds .ge k m = true ↔ y.toInt ≤ x.toInt) ∧
    (condHolds .gt k m = true ↔ y.toInt < x.toInt) ∧ (condHolds .le k m = true ↔ x.toInt ≤ y.toInt) := by
  intro k
  have hz : k.z = decide (x.toInt = y.toInt) := by rw [codesOfDifference_z, decide_eq_decide, BitVec.toInt_inj]
  have hn : (k.n != k.v) = decide (x.toInt < y.toInt) := by
    rw [Bool.eq_iff_iff, bne_iff_ne, codesOfDifference_n_ne_v x y hw, decide_eq_true_iff]
  have hn' : (k.n == k.v) = !decide (x.toInt < y.toInt) := by rw [← hn, bne, Bool.not_not]
  simp only [condHolds, hz, hn, hn', Bool.and_eq_true, Bool.or_eq_true, Bool.not_eq_true', decide_eq_true_eq,
    decide_eq_false_iff_not, true_and]
  refine ⟨?_, ?_, ?_⟩ <;> omega

theorem condHolds_unsigned :
    let k := codesOfDifference x y false (x - y)
    (condHolds .ltu k m = true ↔ x.toNat < y.toNat) ∧ (condHolds .geu k m = true ↔ y.toNat ≤ x.toNat) ∧
    (condHolds .gtu k m = true ↔ y.toNat < x.toNat) ∧ (condHolds .leu k m = true ↔ x.toNat ≤ y.toNat) := by
  simp only [condHolds, codesOfDifference_z, codesOfDifference_c, ← BitVec.toNat_inj, Bool.and_eq_true, Bool.or_eq_true,
    Bool.not_eq_true', decide_eq_true_eq, decide_eq_false_iff_not, true_and]
  refine ⟨?_, ?_, ?_⟩ <;> omega

theorem condHolds_overflow :
    let k := codesOfDifference x y false (x - y)
    (condHolds .vs k m = true ↔ x.toInt - y.toInt < -2 ^ (w - 1) ∨ 2 ^ (w - 1) ≤ x.toInt - y.toInt) ∧
    (condHolds .vc k m = true ↔ -2 ^ (w - 1) ≤ x.toInt - y.toInt ∧ x.toInt - y.toInt < 2 ^ (w - 1)) := by
  simp only [condHolds, codesOfDifference_v, Bool.not_eq_true', decide_eq_true_eq, decide_eq_false_iff_not, true_and]
  omega

theorem condHolds_equal :
    let k := codesOfDifference x y false (x - y)
    (condHolds .eq k m = true ↔ x = y) ∧ (condHolds .ne k m = true ↔ x ≠ y) := by
  simp only [condHolds, codesOfDifference_z, Bool.not_eq_true', decide_eq_true_eq, decide_eq_false_iff_not, Ne, and_self]

theorem condHolds_mz (k : Codes) : condHolds .mz k m = true ↔ ∀ l, l < 32 → laneIn m l = false := by
  simp only [condHolds, decide_eq_true_eq, laneIn]
  refine ⟨fun h l _ => by simp [h], fun h => BitVec.eq_of_getLsbD_eq fun l hl => ?_⟩
  simp [h l hl]

theorem condHolds_mnz (k : Codes) : condHolds .mnz k m = true ↔ ∃ l, l < 32 ∧ laneIn m l = true := by
  have h : condHolds .mnz k m = true ↔ ¬ condHolds .mz k m = true := by simp [condHolds]
  rw [h, condHolds_mz]
  simp

theorem condHolds_mall (k : Codes) : condHolds .mall k m = true ↔ ∀ l, l < 32 → laneIn m l = true := by
  simp only [condHolds, decide_eq_true_eq, laneIn]
  refine ⟨fun h l hl => ?_, fun h => BitVec.eq_of_getLsbD_eq fun l hl => ?_⟩
  · rw [h, BitVec.getLsbD_allOnes, decide_eq_true hl]
  · rw [h l hl, BitVec.getLsbD_allOnes, decide_eq_true hl]

end Sys2Proof.Machine
end

section
/-! PROOF of O13. NOP, RHEAD, BRA and JMP (R30, R96 to R98), and the statement. -/

namespace Sys2Proof.Machine
open Sys2Proof
variable {s : State} {i : Iss}

theorem BCond.testsMask_iff (c : BCond) : c.testsMask = true ↔ c = .mz ∨ c = .mnz ∨ c = .mall := by
  cases c <;> simp [BCond.testsMask]

/-- NOP changes the slot alone. -/
theorem exec_nop (h : Executes s i {}) : exec .nop s = .next (putGroup s i.gid (pastG s.now i i.g)) :=
  issue_executes (p := 0) h

/-- The codes that RHEAD stages from two ranges (R96). -/
def headCodes (a n b k : Nat) : List Nat := ((upto n).map (a + ·) ++ (upto k).map (b + ·)).eraseDups

theorem exec_rhead {s1 s2 : VCode} {n1 n2 : BitVec 6}
    (h : Executes s i { ranges := [(s1.toNat, n1.toNat), (s2.toNat, n2.toNat)] }) :
    exec (.rhead s1 n1 s2 n2) s = .next (putGroup s i.gid (pastG s.now i { i.g with
      near := headCodes s1.toNat n1.toNat s2.toNat n2.toNat })) := issue_executes (p := 0) h

theorem exec_bra {c : BCond} {mk : MCode} {off : W32} (h : Executes s i { ms := if c.testsMask then [mk.toNat] else [] }) :
    exec (.bra c mk off) s = .next (if condHolds c i.slot.path.codes (mGet i.g mk.toNat)
      then putGroup s i.gid (jumpG s.now i i.g (i.target off)) else putGroup s i.gid (pastG s.now i i.g)) := by
  rw [← branchTarget_eq]
  exact issue_executes (p := 0) h

theorem exec_jmp {a : KCode} (h : Executes s i { ks := [a.toNat] }) :
    exec (.jmp a) s = .next (if (kGet i.g a.toNat).toNat % 8 ≠ 0
      then raiseAt s i 0x05 0 i.slot.path.mask (kGet i.g a.toNat).toNat
      else putGroup s i.gid (jumpG s.now i i.g (kGet i.g a.toNat).toNat)) := issue_executes (p := 0) h

theorem mem_headCodes (a n b k c : Nat) : c ∈ headCodes a n b k ↔ (a ≤ c ∧ c < a + n) ∨ (b ≤ c ∧ c < b + k) := by
  have hr : ∀ a n : Nat, c ∈ (upto n).map (a + ·) ↔ a ≤ c ∧ c < a + n := fun a n => by
    simp only [upto, List.mem_map, List.mem_range]
    exact ⟨fun ⟨x, hx, he⟩ => by omega, fun ⟨h0, h1⟩ => ⟨c - a, by omega, by omega⟩⟩
  rw [headCodes, List.mem_eraseDups, List.mem_append, hr, hr]

/-- A slot past an instruction: at the next one, or at the header after its clause, which the gap and the give-way bind (R22, R30). -/
theorem Slot.past_spec (now : Nat) (sl : Slot) (cl : Clause) (h : sl.clause = some cl) :
    (sl.path.ix + 1 < cl.words.length → (sl.past now cl).path.hdr = sl.path.hdr ∧ (sl.past now cl).path.ix = sl.path.ix + 1 ∧
      (sl.past now cl).clause = some cl) ∧
    (cl.words.length ≤ sl.path.ix + 1 → (sl.past now cl).path.hdr = nextHeader sl.path.hdr cl ∧ (sl.past now cl).path.ix = 0 ∧
      (sl.past now cl).clause = none ∧ (sl.past now cl).notBefore = now + 1 + cl.hdr.gap ∧ (sl.past now cl).giveWay = cl.hdr.giveWay) := by
  refine ⟨fun hin => ?_, fun hend => ?_⟩ <;> unfold Slot.past
  · rw [if_pos hin]
    exact ⟨rfl, rfl, h⟩
  · rw [if_neg (Nat.not_lt.2 hend)]
    exact ⟨rfl, rfl, rfl, rfl, rfl⟩

/-- The mask, the codes and the token of a path stay as it goes on. -/
theorem Slot.past_path (now : Nat) (sl : Slot) (cl : Clause) : (sl.past now cl).path.mask = sl.path.mask ∧
    (sl.past now cl).path.codes = sl.path.codes ∧ (sl.past now cl).path.token = sl.path.token := by
  unfold Slot.past
  split <;> exact ⟨rfl, rfl, rfl⟩

/-- Settles O13: the slot's place after each transfer, and the comparison that each condition is of the codes of a difference. -/
theorem controlFlow : Obligations.ControlFlow := by
  refine ⟨⟨fun s i h => ?_, fun s i s1 n1 s2 n2 h => ?_⟩, ⟨fun s i c mk off h => ?_, fun s i a h => ⟨fun hz => ?_, fun hz => ?_⟩⟩,
    fun w x y m hw => ?_⟩
  · obtain ⟨hsame, hsl, -⟩ := past_of_issuer h.issuing rfl rfl
    obtain ⟨hmask, hcodes, htoken⟩ := Slot.past_path s.now i.slot i.cl
    obtain ⟨hin, hend⟩ := Slot.past_spec s.now i.slot i.cl (issuer_clause h.issuing)
    exact ⟨_, _, exec_nop h, hsame, hsl, hmask, hcodes, htoken, hin, hend⟩
  · obtain ⟨hsame, hadv⟩ := past_of_issuer (g := { i.g with near := headCodes s1.toNat n1.toNat s2.toNat n2.toNat }) h.issuing rfl rfl
    exact ⟨_, _, exec_rhead h, hsame, hadv, mem_headCodes _ _ _ _⟩
  · simp only [← BCond.testsMask_iff] at h
    rw [exec_bra h]
    split
    · exact ⟨_, rfl, jump_of_issuer _ h.issuing rfl rfl⟩
    · exact ⟨_, rfl, past_of_issuer h.issuing rfl rfl⟩
  · rw [exec_jmp h, if_neg (not_not.2 hz)]
    exact ⟨_, rfl, jump_of_issuer _ h.issuing rfl rfl⟩
  · rw [exec_jmp h, if_pos hz]
  · obtain ⟨hlt, hge, hgt, hle⟩ := condHolds_signed x y m hw
    obtain ⟨hltu, hgeu, hgtu, hleu⟩ := condHolds_unsigned x y m
    obtain ⟨hvs, hvc⟩ := condHolds_overflow x y m
    obtain ⟨heq, hne⟩ := condHolds_equal x y m
    exact ⟨heq, hne, hlt, hge, hgt, hle, hltu, hgeu, hgtu, hleu, hvs, hvc, rfl, condHolds_mz m _, condHolds_mnz m _, condHolds_mall m _⟩

end Sys2Proof.Machine
end

section
/-! PROOF of O5. A magnitude cut to a multiple of a unit and rounded (R60). -/

namespace Sys2Proof.Machine
open Sys2Proof

/-! ## Rounding to a multiple of a unit -/

/-- The mode takes the multiple above t units, where `lo` is the one below (R60). -/
def takesUpper (r : Rnd) (neg : Bool) (lo : Nat) (t : ℝ) : Prop :=
  match r with
  | .rne => lo + 1 / 2 < t ∨ (t = lo + 1 / 2 ∧ lo % 2 = 1)
  | .rtz => False
  | .rup => neg = false
  | .rdn => neg = true

/-- n is what t units are rounded to, and `inexact` says whether anything was lost. -/
def RoundsUnits (r : Rnd) (neg : Bool) (t : ℝ) (n : Nat) (inexact : Bool) : Prop :=
  (t = n ∧ inexact = false) ∨
  ∃ lo : Nat, lo < t ∧ t < lo + 1 ∧ inexact = true ∧ ((takesUpper r neg lo t ∧ n = lo + 1) ∨ (¬ takesUpper r neg lo t ∧ n = lo))

theorem roundsUp_exact (r : Rnd) (neg odd : Bool) (unit : Nat) : roundsUp r neg odd 0 unit false = false := by
  cases r <;> simp [roundsUp]

theorem roundsUp_iff_takesUpper (r : Rnd) (neg : Bool) (lo : Nat) {rem unit : Nat} (h0 : 0 < rem) (hu : 0 < unit) :
    roundsUp r neg (lo % 2 == 1) rem unit false = true ↔ takesUpper r neg lo (lo + rem / unit) := by
  have hu' : (0 : ℝ) < unit := by exact_mod_cast hu
  cases r with
  | rne =>
    have hlt : (lo + 1 / 2 : ℝ) < lo + rem / unit ↔ unit < 2 * rem := by
      rw [add_lt_add_iff_left, lt_div_iff₀ hu', div_mul_eq_mul_div, one_mul, div_lt_iff₀' two_pos]
      exact_mod_cast Iff.rfl
    have heq : (lo + rem / unit : ℝ) = lo + 1 / 2 ↔ 2 * rem = unit := by
      rw [add_right_inj, div_eq_iff hu'.ne', div_mul_eq_mul_div, one_mul, eq_div_iff two_ne_zero, mul_comm]
      exact_mod_cast Iff.rfl
    simp only [takesUpper, hlt, heq]
    simp [roundsUp, h0]
  | rtz => simp [roundsUp, takesUpper]
  | rup => simp [roundsUp, takesUpper, h0]
  | rdn => simp [roundsUp, takesUpper, h0]

/-- `roundAt` rounds a magnitude to a multiple of 2^q. -/
theorem roundAt_rounds (r : Rnd) (neg : Bool) (m : Nat) (e q : Int) :
    RoundsUnits r neg (m * 2 ^ e / 2 ^ q) (roundAt r neg m e q false).1 (roundAt r neg m e q false).2 := by
  rw [mul_div_assoc, ← zpow_sub₀ two_ne_zero]
  by_cases hq : q ≤ e
  · obtain ⟨k, hk⟩ := Int.eq_ofNat_of_zero_le (sub_nonneg.2 hq)
    refine .inl ?_
    simp [roundAt, hq, hk, roundsUp_exact]
  · obtain ⟨k, hk⟩ := Int.eq_ofNat_of_zero_le (sub_nonneg.2 (not_le.1 hq).le)
    have hu : 0 < 2 ^ k := by positivity
    have hu' : (0 : ℝ) < (2 ^ k : Nat) := by exact_mod_cast hu
    have ht : (m : ℝ) * 2 ^ (e - q) = (m / 2 ^ k : Nat) + (m % 2 ^ k : Nat) / (2 ^ k : Nat) := by
      rw [show e - q = -(k : Int) by omega, zpow_neg, zpow_natCast, ← div_eq_mul_inv, eq_comm, show (2 : ℝ) ^ k = (2 ^ k : Nat) by push_cast; rfl,
        eq_div_iff (by positivity), add_mul, div_mul_cancel₀ _ hu'.ne']
      exact_mod_cast Nat.div_add_mod' m (2 ^ k)
    rw [ht]
    rcases Nat.eq_zero_or_pos (m % 2 ^ k) with h0 | h0
    · refine .inl ?_
      simp [roundAt, hq, hk, h0, roundsUp_exact]
    · have h1 : ((m % 2 ^ k : Nat) : ℝ) < (2 ^ k : Nat) := by exact_mod_cast Nat.mod_lt m hu
      refine .inr ⟨m / 2 ^ k, lt_add_of_pos_right _ (by positivity), by rw [add_lt_add_iff_left, div_lt_one hu']; exact h1, ?_, ?_⟩
      · simp [roundAt, hq, hk, h0.ne']
      · rw [← roundsUp_iff_takesUpper r neg _ h0 hu]
        by_cases hup : roundsUp r neg (m / 2 ^ k % 2 == 1) (m % 2 ^ k) (2 ^ k) false = true
        · exact .inl ⟨hup, by simp [roundAt, hq, hk, hup]⟩
        · exact .inr ⟨hup, by simp [roundAt, hq, hk, hup]⟩

/-! ## The magnitudes from which rounding reachesTop a power of two -/

/-- The magnitude a is rounded to `top` or beyond, where the numbers just below `top` are `step` apart and `top` is even. -/
def reachesTop (r : Rnd) (neg : Bool) (top step a : ℝ) : Prop :=
  match r, neg with
  | .rne, _ => top - step / 2 ≤ a
  | .rtz, _ | .rup, true | .rdn, false => top ≤ a
  | .rup, false | .rdn, true => top - step < a

theorem reachesTop_scaled (r : Rnd) (neg : Bool) (top step a : ℝ) {u : ℝ} (hu : 0 < u) :
    reachesTop r neg (top * u) (step * u) (a * u) ↔ reachesTop r neg top step a := by
  have hle : top * u ≤ a * u ↔ top ≤ a := mul_le_mul_iff_left₀ hu
  have hlt : top * u - step * u < a * u ↔ top - step < a := by rw [← sub_mul]; exact mul_lt_mul_iff_left₀ hu
  have hhalf : top * u - step * u / 2 ≤ a * u ↔ top - step / 2 ≤ a := by
    rw [mul_div_right_comm, ← sub_mul]; exact mul_le_mul_iff_left₀ hu
  cases r <;> cases neg <;> simp only [reachesTop, hle, hlt, hhalf]

theorem reachesTop_of_le (r : Rnd) (neg : Bool) {top step a : ℝ} (hs : 0 < step) (h : top ≤ a) : reachesTop r neg top step a := by
  cases r <;> cases neg <;> simp only [reachesTop] <;> linarith

theorem not_reachesTop_of_lt (r : Rnd) (neg : Bool) {top step a : ℝ} (hs : 0 < step) (h : a < top - step) : ¬ reachesTop r neg top step a := by
  cases r <;> cases neg <;> simp only [reachesTop, not_le, not_lt] <;> linarith

/-- Rounded units reach an even number k exactly from where the mode says. -/
theorem RoundsUnits.le_iff {r : Rnd} {neg : Bool} {t : ℝ} {n : Nat} {x : Bool} (h : RoundsUnits r neg t n x) {k : Nat} (hk : k % 2 = 0) :
    k ≤ n ↔ reachesTop r neg k 1 t := by
  obtain ⟨rfl, -⟩ | ⟨lo, hlo, hhi, -, hn⟩ := h
  · refine ⟨fun hle => reachesTop_of_le r neg one_pos (by exact_mod_cast hle), fun hr => ?_⟩
    by_contra hlt
    have hlt' : (n : ℝ) + 1 ≤ k := by exact_mod_cast not_le.1 hlt
    cases r <;> cases neg <;> simp only [reachesTop] at hr <;> linarith
  · obtain hkl | rfl | hkl : k ≤ lo ∨ k = lo + 1 ∨ lo + 2 ≤ k := by omega
    · have hkl' : (k : ℝ) ≤ lo := by exact_mod_cast hkl
      exact iff_of_true (by omega) (reachesTop_of_le r neg one_pos (by linarith))
    · have hodd : lo % 2 = 1 := by omega
      have hup : lo + 1 ≤ n ↔ takesUpper r neg lo t := by
        obtain ⟨hu, rfl⟩ | ⟨hu, rfl⟩ := hn
        · exact iff_of_true le_rfl hu
        · exact iff_of_false (by omega) hu
      rw [hup]
      push_cast
      cases r with
      | rne =>
        simp only [takesUpper, reachesTop, hodd, and_true]
        rw [show (lo : ℝ) + 1 - 1 / 2 = lo + 1 / 2 by ring, le_iff_lt_or_eq, eq_comm (a := t)]
      | rtz => simp [takesUpper, reachesTop, hhi]
      | rup => cases neg <;> simp [takesUpper, reachesTop, hlo, hhi]
      | rdn => cases neg <;> simp [takesUpper, reachesTop, hlo, hhi]
    · have hkl' : (lo : ℝ) + 2 ≤ k := by exact_mod_cast hkl
      exact iff_of_false (by omega) (not_reachesTop_of_lt r neg one_pos (by linarith))

end Sys2Proof.Machine
end

section
/-! PROOF of O5. The numbers of a format (R58), and the pattern that rounding gives. -/

namespace Sys2Proof.Machine
open Sys2Proof

/-! ## Formats -/

/-- A format whose exponent has two bits and whose fraction one, at the least. -/
structure Fmt.Proper (f : Fmt) : Prop where
  two_le_ebits : 2 ≤ f.ebits
  one_le_fbits : 1 ≤ f.fbits

/-- Half the number of exponents. -/
def Fmt.half (f : Fmt) : Nat := 2 ^ (f.ebits - 1)

theorem Fmt.bias_eq (f : Fmt) : f.bias = f.half - 1 := rfl
theorem Fmt.emin_eq (f : Fmt) : f.emin = 2 - f.half := by rw [Fmt.emin, Fmt.bias_eq]; ring

variable {f : Fmt}

theorem Fmt.Proper.two_le_half (hf : f.Proper) : 2 ≤ f.half := by
  obtain ⟨n, hn⟩ := Nat.exists_eq_add_of_le hf.two_le_ebits
  rw [Fmt.half, hn, show 2 + n - 1 = n + 1 by omega, pow_succ]
  have := Nat.one_le_two_pow (n := n)
  omega

theorem Fmt.Proper.two_pow_ebits (hf : f.Proper) : 2 ^ f.ebits = 2 * f.half := by
  rw [Fmt.half, ← pow_succ', Nat.sub_add_cancel (by have := hf.two_le_ebits; omega)]

theorem Fmt.Proper.infBits_eq (hf : f.Proper) : f.infBits = (2 * f.half - 1) * 2 ^ f.fbits := by
  rw [Fmt.infBits, hf.two_pow_ebits]

theorem Fmt.infBits_lt_signBit (f : Fmt) : f.infBits < f.signBit := by
  rw [Fmt.infBits, Fmt.signBit, pow_add]
  exact Nat.mul_lt_mul_of_pos_right (Nat.sub_lt (by positivity) one_pos) (by positivity)

/-! ## Unpacking -/

theorem testBit_withSign {b : Nat} (hb : b < f.signBit) (neg : Bool) : (withSign f neg b).testBit (f.ebits + f.fbits) = neg := by
  cases neg
  · exact Nat.testBit_lt_two_pow hb
  · rw [withSign, if_pos rfl, Fmt.signBit, Nat.add_comm, Nat.testBit_two_pow_add_eq, Nat.testBit_lt_two_pow hb, Bool.not_false]

theorem withSign_fields (neg : Bool) {b : Nat} (hb : b < f.signBit) :
    withSign f neg b / 2 ^ f.fbits % 2 ^ f.ebits = b / 2 ^ f.fbits ∧ withSign f neg b % 2 ^ f.fbits = b % 2 ^ f.fbits := by
  have hlt : b / 2 ^ f.fbits < 2 ^ f.ebits := by
    rw [Nat.div_lt_iff_lt_mul (by positivity), ← pow_add]; exact hb
  cases neg
  · exact ⟨Nat.mod_eq_of_lt hlt, rfl⟩
  · rw [withSign, if_pos rfl, Fmt.signBit, pow_add, Nat.add_mul_div_right _ _ (by positivity), Nat.add_mod_right, Nat.mod_eq_of_lt hlt,
      Nat.add_mul_mod_self_right]
    exact ⟨rfl, rfl⟩

theorem withSign_lt {neg : Bool} {b : Nat} (hb : b < f.signBit) : withSign f neg b < 2 * f.signBit := by
  cases neg <;> simp only [withSign] <;> simp <;> omega

/-- The parity of a pattern is that of its fraction. -/
theorem withSign_mod_two (hf : f.Proper) (neg : Bool) (b : Nat) : withSign f neg b % 2 = b % 2 := by
  cases neg
  · rfl
  · have h : 2 ∣ f.signBit := dvd_pow_self 2 (by have := hf.one_le_fbits; omega)
    rw [withSign, if_pos rfl]
    omega

/-- Below the infinity's pattern, the exponent field j + 1 says that the fraction has an integer bit and the unit is 2^j times the
least. -/
theorem unpack_withSign (neg : Bool) {b : Nat} (hb : b < f.infBits) :
    unpack f (withSign f neg b) = if b / 2 ^ f.fbits = 0 then .fin neg (b % 2 ^ f.fbits) (f.emin - f.fbits)
      else .fin neg (b % 2 ^ f.fbits + 2 ^ f.fbits) (f.emin - f.fbits + (b / 2 ^ f.fbits - 1 : Nat)) := by
  have hs := hb.trans f.infBits_lt_signBit
  obtain ⟨he, hm⟩ := withSign_fields neg hs
  have hlt : b / 2 ^ f.fbits ≠ 2 ^ f.ebits - 1 := (Nat.div_lt_of_lt_mul (by rwa [mul_comm])).ne
  simp only [unpack, testBit_withSign hs, he, hm, if_neg hlt]

/-- The pattern that lies n units of 2^j times the least above the least number whose exponent field is j. -/
theorem unpack_units (neg : Bool) {j n : Nat} (hn : n ≤ 2 * 2 ^ f.fbits) (hj : j = 0 ∨ 2 ^ f.fbits ≤ n)
    (hb : j * 2 ^ f.fbits + n < f.infBits) :
    ∃ (k : Nat) (d : Int), unpack f (withSign f neg (j * 2 ^ f.fbits + n)) = .fin neg k d ∧
      (k : Rat) * 2 ^ d = n * 2 ^ (f.emin - f.fbits + j) := by
  have hpos : 0 < 2 ^ f.fbits := by positivity
  have hfield : ∀ c r, r < 2 ^ f.fbits → j * 2 ^ f.fbits + n = c * 2 ^ f.fbits + r →
      (j * 2 ^ f.fbits + n) / 2 ^ f.fbits = c ∧ (j * 2 ^ f.fbits + n) % 2 ^ f.fbits = r := fun c r hr h => by
    rw [h, Nat.mul_comm c, Nat.mul_add_div hpos, Nat.mul_add_mod, Nat.div_eq_of_lt hr, Nat.mod_eq_of_lt hr]
    exact ⟨rfl, rfl⟩
  rw [unpack_withSign neg hb]
  obtain hlow | hhigh := Nat.lt_or_ge n (2 ^ f.fbits)
  · obtain rfl : j = 0 := hj.resolve_right (by omega)
    obtain ⟨hd, hm⟩ := hfield 0 n hlow (by ring)
    exact ⟨_, _, by rw [hd, hm, if_pos rfl], by simp⟩
  · obtain hmid | htop := hn.lt_or_eq
    · obtain ⟨hd, hm⟩ := hfield (j + 1) (n - 2 ^ f.fbits) (by omega) (by rw [add_mul]; omega)
      exact ⟨_, _, by rw [hd, hm, if_neg j.succ_ne_zero], by rw [Nat.sub_add_cancel hhigh, Nat.add_sub_cancel]⟩
    · obtain ⟨hd, hm⟩ := hfield (j + 2) 0 hpos (by rw [add_mul]; omega)
      refine ⟨_, _, by rw [hd, hm, if_neg (j + 1).succ_ne_zero], ?_⟩
      rw [htop, Nat.zero_add, show j + 2 - 1 = j + 1 by omega, Nat.cast_succ, ← add_assoc, zpow_add_one₀ two_ne_zero]
      push_cast
      ring

theorem abs_signed (neg : Bool) (k : Nat) (d : Int) : |(if neg then -1 else 1 : Rat) * k * 2 ^ d| = k * 2 ^ d := by
  cases neg <;> simp [abs_mul, abs_zpow]

/-- A number of a format is a multiple of its unit, which is a power of two times the least one. -/
theorem abs_value_unpack {x : Nat} {y : Rat} (h : (unpack f x).value = some y) :
    ∃ k j : Nat, k < 2 * 2 ^ f.fbits ∧ |y| = k * 2 ^ (f.emin - f.fbits + j) := by
  have hfr : x % 2 ^ f.fbits < 2 ^ f.fbits := Nat.mod_lt _ (by positivity)
  simp only [unpack] at h
  split at h
  · split at h <;> cases h
  · split at h <;> obtain rfl := Option.some.inj h
    · exact ⟨x % 2 ^ f.fbits, 0, by omega, by simpa using abs_signed _ _ _⟩
    · exact ⟨x % 2 ^ f.fbits + 2 ^ f.fbits, x / 2 ^ f.fbits % 2 ^ f.ebits - 1, by omega, abs_signed _ _ _⟩

end Sys2Proof.Machine
end

section
/-! PROOF of O5. The pattern of a rounded magnitude, its overflow and its tininess (R60, R61). -/

namespace Sys2Proof.Machine
open Sys2Proof

/-! ## The leading place of a magnitude -/

theorem two_zpow_le_magnitude {K : Type} [Field K] [LinearOrder K] [IsStrictOrderedRing K] {m : Nat} (hm : m ≠ 0) (e : Int) :
    (2 : K) ^ ((Nat.log2 m : Int) + e) ≤ m * 2 ^ e ∧ (m : K) * 2 ^ e < 2 ^ ((Nat.log2 m : Int) + e + 1) := by
  have hlo : (2 : K) ^ Nat.log2 m ≤ m := by exact_mod_cast Nat.log2_self_le hm
  have hhi : (m : K) < 2 ^ (Nat.log2 m + 1) := by exact_mod_cast Nat.lt_log2_self
  have he : (0 : K) < 2 ^ e := zpow_pos two_pos e
  rw [zpow_add₀ two_ne_zero, zpow_natCast, add_right_comm, zpow_add₀ two_ne_zero, ← Nat.cast_succ, zpow_natCast]
  exact ⟨mul_le_mul_of_nonneg_right hlo he.le, mul_lt_mul_of_pos_right hhi he⟩

variable {f : Fmt} {r : Rnd} {neg : Bool} {a t : ℝ} {n : Nat} {x : Bool}

theorem RoundsUnits.le_of_le (h : RoundsUnits r neg t n x) {c : Nat} (hc : (c : ℝ) ≤ t) : c ≤ n := by
  obtain ⟨rfl, -⟩ | ⟨lo, -, hhi, -, hn⟩ := h
  · exact_mod_cast hc
  · have : c < lo + 1 := by exact_mod_cast hc.trans_lt hhi
    omega

theorem RoundsUnits.le_of_lt (h : RoundsUnits r neg t n x) {c : Nat} (hc : t < c) : n ≤ c := by
  obtain ⟨rfl, -⟩ | ⟨lo, hlo, -, -, hn⟩ := h
  · exact_mod_cast hc.le
  · have : lo < c := by exact_mod_cast hlo.trans hc
    omega

/-- A magnitude of a leading place, rounded to F further places, reaches 2^T where it lies there already or is carried there. -/
theorem RoundsUnits.reachesTop_iff {l T : Int} {F : Nat} (hl : (2 : ℝ) ^ l ≤ a) (hl' : a < 2 ^ (l + 1))
    (h : RoundsUnits r neg (a / 2 ^ (l - F)) n x) :
    reachesTop r neg (2 ^ T) (2 ^ (T - 1 - F)) a ↔ T ≤ l ∨ (l + 1 = T ∧ 2 * 2 ^ F ≤ n) := by
  have hstep : (0 : ℝ) < 2 ^ (T - 1 - F) := zpow_pos two_pos _
  obtain hT | rfl | hT : T ≤ l ∨ l + 1 = T ∨ l + 1 < T := by omega
  · exact iff_of_true (reachesTop_of_le r neg hstep ((zpow_le_zpow_right₀ one_le_two hT).trans hl)) (.inl hT)
  · have hu : (0 : ℝ) < 2 ^ (l - F) := zpow_pos two_pos _
    have htop : (2 : ℝ) ^ (l + 1) = (2 * 2 ^ F : Nat) * 2 ^ (l - F) := by
      rw [zpow_add_one₀ two_ne_zero, zpow_sub₀ two_ne_zero, zpow_natCast]
      push_cast
      field_simp
    rw [show l + 1 - 1 - F = l - F by ring, htop, ← one_mul ((2 : ℝ) ^ (l - F)), ← mul_assoc, mul_one,
      ← div_mul_cancel₀ a hu.ne', reachesTop_scaled r neg _ _ _ hu, ← h.le_iff (Nat.mul_mod_right _ _)]
    simp
  · refine iff_of_false (not_reachesTop_of_lt r neg hstep ?_) (by omega)
    have hhalf : (2 : ℝ) ^ T = 2 ^ (T - 1) + 2 ^ (T - 1) := by
      rw [← two_mul, ← zpow_one_add₀ two_ne_zero]; congr 1; ring
    have hle : (2 : ℝ) ^ (T - 1 - F) ≤ 2 ^ (T - 1) := zpow_le_zpow_right₀ one_le_two (by omega)
    have hlt : (2 : ℝ) ^ (l + 1) ≤ 2 ^ (T - 1) := zpow_le_zpow_right₀ one_le_two (by omega)
    linarith

/-! ## The pattern, its overflow and its tininess -/

variable {m : Nat} {e : Int}

/-- The pattern of a rounded magnitude: n units of 2^j times the least, where j follows the leading place. -/
theorem magBits_spec (f : Fmt) (r : Rnd) (neg : Bool) (m : Nat) (e : Int) : ∃ j n : Nat, (magBits f r neg m e false).1 = j * 2 ^ f.fbits + n ∧
    RoundsUnits r neg (m * 2 ^ e / 2 ^ (f.emin - f.fbits + j)) n (magBits f r neg m e false).2 ∧
    ((Nat.log2 m : Int) + e = f.emin + j ∨ ((Nat.log2 m : Int) + e < f.emin ∧ j = 0)) := by
  have hq : max ((Nat.log2 m : Int) + e - f.fbits) (f.emin - f.fbits) = f.emin - f.fbits + ((Nat.log2 m : Int) + e - f.emin).toNat := by
    omega
  refine ⟨((Nat.log2 m : Int) + e - f.emin).toNat,
    (roundAt r neg m e (f.emin - f.fbits + ((Nat.log2 m : Int) + e - f.emin).toNat) false).1, ?_, ?_, by omega⟩
  · simp only [magBits, hq, add_sub_cancel_left, Int.toNat_natCast]
  · simp only [magBits, hq]
    exact roundAt_rounds r neg m e _

/-- A magnitude is less than 2^(F + 1) of its units, and 2^F or more but where it lies below the least normal one. -/
theorem units_bounds (f : Fmt) {j : Nat} (hm : m ≠ 0)
    (hj : (Nat.log2 m : Int) + e = f.emin + j ∨ ((Nat.log2 m : Int) + e < f.emin ∧ j = 0)) :
    (m * 2 ^ e / 2 ^ (f.emin - f.fbits + j) : ℝ) < (2 * 2 ^ f.fbits : Nat) ∧
      (j = 0 ∨ ((2 ^ f.fbits : Nat) : ℝ) ≤ m * 2 ^ e / 2 ^ (f.emin - f.fbits + j)) := by
  obtain ⟨hl, hl'⟩ := two_zpow_le_magnitude (K := ℝ) hm e
  have hu : (0 : ℝ) < 2 ^ (f.emin - f.fbits + j) := zpow_pos two_pos _
  have hunit : ∀ i : Nat, ((2 ^ i : Nat) : ℝ) * 2 ^ (f.emin - f.fbits + j) = 2 ^ (f.emin - f.fbits + j + i) := fun i => by
    rw [zpow_add₀ two_ne_zero _ (i : Int), zpow_natCast, mul_comm]
    push_cast
    rfl
  rw [div_lt_iff₀ hu, le_div_iff₀ hu, ← pow_succ', hunit, hunit]
  exact ⟨hl'.trans_le (zpow_le_zpow_right₀ one_le_two (by push_cast; omega)),
    hj.symm.imp (·.2) fun h => (zpow_le_zpow_right₀ one_le_two (by omega)).trans hl⟩

theorem isTiny_iff (hm : m ≠ 0) :
    isTiny f r neg m e false = true ↔ ¬ reachesTop r neg (2 ^ f.emin) (2 ^ (f.emin - 1 - f.fbits)) (m * 2 ^ e) := by
  obtain ⟨hl, hl'⟩ := two_zpow_le_magnitude (K := ℝ) hm e
  rw [(roundAt_rounds r neg m e _).reachesTop_iff hl hl']
  simp only [isTiny, Bool.and_eq_true, Bool.not_eq_true', Bool.and_eq_false_iff, decide_eq_true_eq, decide_eq_false_iff_not, pow_succ']
  omega

theorem infBits_le_magBits_iff (hf : f.Proper) (hm : m ≠ 0) :
    f.infBits ≤ (magBits f r neg m e false).1 ↔ reachesTop r neg (2 ^ (f.bias + 1)) (2 ^ (f.bias - f.fbits)) (m * 2 ^ e) := by
  have hpos : 0 < 2 ^ f.fbits := by positivity
  obtain ⟨hl, hl'⟩ := two_zpow_le_magnitude (K := ℝ) hm e
  obtain ⟨j, n, hb, hn, hj⟩ := magBits_spec f r neg m e
  obtain ⟨htop, hlow⟩ := units_bounds f hm hj
  have hn2 := hn.le_of_lt htop
  have hn1 := hlow.imp_right hn.le_of_le
  have hH := hf.two_le_half
  obtain ⟨k, hk⟩ : ∃ k, 2 * f.half = k + 3 := ⟨2 * f.half - 3, by omega⟩
  have hinf : f.infBits = k * 2 ^ f.fbits + 2 * 2 ^ f.fbits := by rw [hf.infBits_eq, hk, ← add_mul]; rfl
  have hbias := f.bias_eq
  have hemin := f.emin_eq
  rw [hb, hinf]
  obtain hj | ⟨hj, rfl⟩ := hj
  · rw [show f.emin - f.fbits + j = (Nat.log2 m : Int) + e - f.fbits by omega] at hn
    rw [show f.bias - f.fbits = f.bias + 1 - 1 - f.fbits by ring, hn.reachesTop_iff hl hl']
    obtain hjk | rfl | hjk : k + 1 ≤ j ∨ j = k ∨ j + 1 ≤ k := by omega
    · have := Nat.mul_le_mul_right (2 ^ f.fbits) hjk
      rw [add_mul] at this
      exact iff_of_true (by omega) (.inl (by omega))
    · omega
    · have := Nat.mul_le_mul_right (2 ^ f.fbits) hjk
      rw [add_mul] at this
      refine iff_of_false ?_ (by omega)
      omega
  · have := Nat.mul_le_mul_right (2 ^ f.fbits) (show 1 ≤ k by omega)
    rw [show f.bias - f.fbits = f.bias + 1 - 1 - f.fbits by ring, (roundAt_rounds r neg m e _).reachesTop_iff hl hl']
    exact iff_of_false (by omega) (by omega)

end Sys2Proof.Machine
end

section
/-! PROOF of O5. The representable number that the mode takes, the flags, and the statement (R60, R61). -/

namespace Sys2Proof.Machine
open Sys2Proof

/-! ## The number that the mode takes -/

/-- A sign, as a factor. -/
def signOf (K : Type) [Ring K] (neg : Bool) : K := if neg then -1 else 1

@[simp] theorem signOf_false {K : Type} [Ring K] : signOf K false = 1 := rfl
@[simp] theorem signOf_true {K : Type} [Ring K] : signOf K true = -1 := rfl

theorem abs_signOf_mul (neg : Bool) (y : ℝ) : |signOf ℝ neg * y| = |y| := by cases neg <;> simp

theorem signOf_mul_self_mul (neg : Bool) (y : ℝ) : signOf ℝ neg * (signOf ℝ neg * y) = y := by cases neg <;> simp

/-- The distance of a number y from the signed magnitude a is that of its own magnitude, taken with that sign. -/
theorem abs_sub_signOf_mul (neg : Bool) (y a : ℝ) : |y - signOf ℝ neg * a| = |signOf ℝ neg * y - a| := by
  rw [← abs_signOf_mul neg (y - _), mul_sub, signOf_mul_self_mul]

variable {f : Fmt} {r : Rnd} {neg : Bool} {v a lo hi : ℝ} {b n : Nat} {q : Rat}

/-- A representable number is what every mode takes for itself. -/
theorem takesRepresentable_self (hq : (q : ℝ) = v) : takesRepresentable f r v b q := by
  subst hq
  cases r with
  | rne =>
    refine fun _ y _ => ⟨by simp, fun h hne => absurd ?_ hne⟩
    rw [sub_self, abs_zero, eq_comm, abs_eq_zero, sub_eq_zero] at h
    exact_mod_cast h
  | rtz => exact ⟨le_rfl, fun _ y _ h => by exact_mod_cast h⟩
  | rup => exact ⟨le_rfl, fun _ y _ h => by exact_mod_cast h⟩
  | rdn => exact ⟨le_rfl, fun _ y _ h => by exact_mod_cast h⟩

/-- No number of the format lies between lo and hi. -/
def Gap (f : Fmt) (lo hi : ℝ) : Prop := ∀ x y, (unpack f x).value = some y → |(y : ℝ)| ≤ lo ∨ hi ≤ |(y : ℝ)|

section
variable (hgap : Gap f lo hi) (h0 : 0 ≤ lo) (hlo : lo < a) (hhi : a < hi)
include hgap h0 hlo hhi

/-- With either sign, a number of the format lies at the gap's lower end or below, or at its upper end or above. -/
theorem Gap.signed {x : Nat} {y : Rat} (hy : (unpack f x).value = some y) (neg : Bool) :
    signOf ℝ neg * y ≤ lo ∨ hi ≤ signOf ℝ neg * y := by
  rcases hgap x y hy with h | h <;> rw [← abs_signOf_mul neg] at h
  · exact .inl ((le_abs_self _).trans h)
  · exact (le_abs'.1 h).imp_left fun h => by linarith

theorem Gap.le_lower {x : Nat} {y : Rat} (hy : (unpack f x).value = some y) (h : signOf ℝ neg * y ≤ a) : signOf ℝ neg * y ≤ lo :=
  (hgap.signed h0 hlo hhi hy neg).resolve_right fun h' => by linarith

theorem Gap.upper_le {x : Nat} {y : Rat} (hy : (unpack f x).value = some y) (h : a ≤ signOf ℝ neg * y) : hi ≤ signOf ℝ neg * y :=
  (hgap.signed h0 hlo hhi hy neg).resolve_left fun h' => by linarith

/-- To nearest a mode takes the nearer end of a gap, and at a tie the even one. -/
theorem takesRepresentable_rne {c : ℝ} (hc : (c = lo ∧ 2 * a ≤ lo + hi) ∨ (c = hi ∧ lo + hi ≤ 2 * a))
    (htie : 2 * a = lo + hi → b % 2 = 0) (hq : (q : ℝ) = signOf ℝ neg * c) : takesRepresentable f .rne (signOf ℝ neg * a) b q := by
  intro x y hy
  have hz := hgap.signed h0 hlo hhi hy neg
  have hne : y ≠ q → signOf ℝ neg * y ≠ c := fun hne h => hne (by rw [← h, signOf_mul_self_mul] at hq; exact_mod_cast hq.symm)
  rw [abs_sub_signOf_mul, abs_sub_signOf_mul, hq, signOf_mul_self_mul]
  generalize signOf ℝ neg * y = z at hz hne
  have hzlo : z ≤ lo → |z - a| = a - z := fun h => by rw [abs_of_neg (by linarith), neg_sub]
  have hzhi : hi ≤ z → |z - a| = z - a := fun h => abs_of_pos (by linarith)
  obtain ⟨rfl, hc⟩ | ⟨rfl, hc⟩ := hc
  · rw [abs_of_neg (by linarith : c - a < 0)]
    obtain h | h := hz
    · rw [hzlo h]
      exact ⟨by linarith, fun heq hyq => absurd (by linarith) (hne hyq)⟩
    · rw [hzhi h]
      exact ⟨by linarith, fun heq _ => htie (by linarith)⟩
  · rw [abs_of_pos (by linarith : 0 < c - a)]
    obtain h | h := hz
    · rw [hzlo h]
      exact ⟨by linarith, fun heq _ => htie (by linarith)⟩
    · rw [hzhi h]
      exact ⟨by linarith, fun heq hyq => absurd (by linarith) (hne hyq)⟩

/-- Toward zero a mode takes the lower end of a gap. -/
theorem takesRepresentable_lower (hr : r = .rtz ∨ (r = .rup ∧ neg = true) ∨ (r = .rdn ∧ neg = false))
    (hq : (q : ℝ) = signOf ℝ neg * lo) : takesRepresentable f r (signOf ℝ neg * a) b q := by
  obtain rfl | ⟨rfl, rfl⟩ | ⟨rfl, rfl⟩ := hr
  · rw [takesRepresentable, hq, abs_signOf_mul, abs_signOf_mul, abs_of_nonneg h0, abs_of_nonneg (by linarith)]
    refine ⟨hlo.le, fun x y hy h => ?_⟩
    have : |(y : ℝ)| ≤ |(q : ℝ)| := by
      rw [hq, abs_signOf_mul, abs_of_nonneg h0]
      exact (hgap x y hy).resolve_right fun h' => by linarith
    exact_mod_cast this
  · have hz := fun x y hy => hgap.le_lower (neg := true) h0 hlo hhi (x := x) (y := y) hy
    simp only [signOf_true, neg_one_mul] at hq hz ⊢
    exact ⟨by linarith, fun x y hy h => by have := hz x y hy (by linarith); exact_mod_cast (by linarith : (q : ℝ) ≤ y)⟩
  · have hz := fun x y hy => hgap.le_lower (neg := false) h0 hlo hhi (x := x) (y := y) hy
    simp only [signOf_false, one_mul] at hq hz ⊢
    exact ⟨by linarith, fun x y hy h => by have := hz x y hy (by linarith); exact_mod_cast (by linarith : (y : ℝ) ≤ q)⟩

/-- Away from zero it takes the upper end. -/
theorem takesRepresentable_upper (hr : (r = .rup ∧ neg = false) ∨ (r = .rdn ∧ neg = true))
    (hq : (q : ℝ) = signOf ℝ neg * hi) : takesRepresentable f r (signOf ℝ neg * a) b q := by
  obtain ⟨rfl, rfl⟩ | ⟨rfl, rfl⟩ := hr
  · have hz := fun x y hy => hgap.upper_le (neg := false) h0 hlo hhi (x := x) (y := y) hy
    simp only [signOf_false, one_mul] at hq hz ⊢
    exact ⟨by linarith, fun x y hy h => by have := hz x y hy (by linarith); exact_mod_cast (by linarith : (q : ℝ) ≤ y)⟩
  · have hz := fun x y hy => hgap.upper_le (neg := true) h0 hlo hhi (x := x) (y := y) hy
    simp only [signOf_true, neg_one_mul] at hq hz ⊢
    exact ⟨by linarith, fun x y hy h => by have := hz x y hy (by linarith); exact_mod_cast (by linarith : (y : ℝ) ≤ q)⟩

end

/-- No number of a format lies between two neighbouring multiples of the unit of a magnitude's leading place. -/
theorem gap_units {j k : Nat} (hj : j = 0 ∨ 2 ^ f.fbits ≤ k) :
    Gap f (k * 2 ^ (f.emin - f.fbits + j)) ((k + 1) * 2 ^ (f.emin - f.fbits + j)) := by
  intro x y hy
  obtain ⟨c, i, hc, hy⟩ := abs_value_unpack hy
  have hy : |(y : ℝ)| = c * 2 ^ (f.emin - f.fbits + i) := by rw [← Rat.cast_abs, hy]; push_cast; rfl
  have hsplit : ∀ d : Nat, (2 : ℝ) ^ (f.emin - f.fbits + d) = (2 ^ d : Nat) * 2 ^ (f.emin - f.fbits) := fun d => by
    rw [zpow_add₀ two_ne_zero, zpow_natCast, mul_comm, Nat.cast_pow, Nat.cast_ofNat]
  have hu : (0 : ℝ) < 2 ^ (f.emin - f.fbits) := zpow_pos two_pos _
  rw [hy, hsplit, hsplit, ← mul_assoc, ← mul_assoc, ← mul_assoc, mul_le_mul_iff_left₀ hu, mul_le_mul_iff_left₀ hu]
  norm_cast
  obtain hji | hij := le_or_gt j i
  · obtain ⟨d, rfl⟩ := Nat.exists_eq_add_of_le hji
    rw [pow_add, mul_left_comm, mul_comm (2 ^ j)]
    exact (le_or_gt (c * 2 ^ d) k).imp (Nat.mul_le_mul_right _) (Nat.mul_le_mul_right _)
  · left
    have hk := hj.resolve_left (by omega)
    calc c * 2 ^ i ≤ 2 * 2 ^ f.fbits * 2 ^ i := Nat.mul_le_mul_right _ hc.le
      _ = 2 ^ f.fbits * 2 ^ (i + 1) := by ring
      _ ≤ k * 2 ^ j := Nat.mul_le_mul hk (Nat.pow_le_pow_right two_pos hij)

variable {u : ℝ} {k : Nat}

theorem takesRepresentable_of_rounds (hu : 0 < u) (hgap : Gap f (k * u) ((k + 1) * u)) (hlo : k < a / u) (hhi : a / u < k + 1)
    (hn : (takesUpper r neg k (a / u) ∧ n = k + 1) ∨ (¬ takesUpper r neg k (a / u) ∧ n = k)) (hb : b % 2 = n % 2)
    (hq : (q : ℝ) = signOf ℝ neg * (n * u)) : takesRepresentable f r (signOf ℝ neg * a) b q := by
  have h0 : 0 ≤ k * u := by positivity
  rw [lt_div_iff₀ hu] at hlo
  rw [div_lt_iff₀ hu] at hhi
  have hmid : k + 1 / 2 < a / u ↔ k * u + (k + 1) * u < 2 * a := by
    rw [lt_div_iff₀ hu]; constructor <;> intro h <;> linarith
  have hmid' : a / u = k + 1 / 2 ↔ 2 * a = k * u + (k + 1) * u := by
    rw [div_eq_iff hu.ne']; constructor <;> intro h <;> linarith
  obtain ⟨hup, rfl⟩ | ⟨hup, rfl⟩ := hn
  · push_cast at hq
    cases r with
    | rne =>
      rw [takesUpper, hmid, hmid'] at hup
      exact takesRepresentable_rne hgap h0 hlo hhi (.inr ⟨rfl, hup.elim le_of_lt fun h => h.1.ge⟩)
        (fun htie => by have := (hup.resolve_left htie.not_gt).2; omega) hq
    | rtz => exact hup.elim
    | rup => exact takesRepresentable_upper hgap h0 hlo hhi (.inl ⟨rfl, hup⟩) hq
    | rdn => exact takesRepresentable_upper hgap h0 hlo hhi (.inr ⟨rfl, hup⟩) hq
  · cases r with
    | rne =>
      rw [takesUpper, hmid, hmid', not_or, not_lt] at hup
      exact takesRepresentable_rne hgap h0 hlo hhi (.inl ⟨rfl, hup.1⟩) (fun htie => hb.trans (Nat.mod_two_ne_one.1 fun h => hup.2 ⟨htie, h⟩)) hq
    | rtz => exact takesRepresentable_lower hgap h0 hlo hhi (.inl rfl) hq
    | rup => exact takesRepresentable_lower hgap h0 hlo hhi (.inr (.inl ⟨rfl, Bool.eq_true_of_not_eq_false hup⟩)) hq
    | rdn => exact takesRepresentable_lower hgap h0 hlo hhi (.inr (.inr ⟨rfl, Bool.eq_false_of_not_eq_true hup⟩)) hq

/-! ## The rounded pattern -/

variable {m : Nat} {e : Int}

/-- A pattern below the infinity's holds the number that the mode takes, and is that magnitude exactly where nothing was lost. -/
theorem magBits_takes (hf : f.Proper) (hm : m ≠ 0) (hlt : (magBits f r neg m e false).1 < f.infBits) :
    ∃ q : Rat, (unpack f (withSign f neg (magBits f r neg m e false).1)).value = some q ∧
      (unpack f (withSign f neg (magBits f r neg m e false).1)).sign = neg ∧
      takesRepresentable f r (signOf ℝ neg * (m * 2 ^ e)) (withSign f neg (magBits f r neg m e false).1) q ∧
      ((magBits f r neg m e false).2 = true ↔ (q : ℝ) ≠ signOf ℝ neg * (m * 2 ^ e)) := by
  obtain ⟨j, n, hb, hn, hj⟩ := magBits_spec f r neg m e
  obtain ⟨htop, hlow⟩ := units_bounds f hm hj
  rw [hb] at hlt ⊢
  obtain ⟨k, d, hun, hkd⟩ := unpack_units neg (hn.le_of_lt htop) (hlow.imp_right hn.le_of_le) hlt
  have hu : (0 : ℝ) < 2 ^ (f.emin - f.fbits + j) := zpow_pos two_pos _
  have hq : ((signOf Rat neg * k * 2 ^ d : Rat) : ℝ) = signOf ℝ neg * (n * 2 ^ (f.emin - f.fbits + j)) := by
    rw [mul_assoc, hkd]; cases neg <;> simp
  have hodd : (j * 2 ^ f.fbits + n) % 2 = n % 2 := by
    have : 2 ∣ 2 ^ f.fbits := dvd_pow_self 2 (by have := hf.one_le_fbits; omega)
    have := this.mul_left j
    omega
  refine ⟨signOf Rat neg * k * 2 ^ d, by rw [hun]; rfl, by rw [hun]; rfl, ?_⟩
  have hsne : signOf ℝ neg ≠ 0 := by cases neg <;> simp
  have hexact : ((signOf Rat neg * k * 2 ^ d : Rat) : ℝ) = signOf ℝ neg * (m * 2 ^ e) ↔ m * 2 ^ e / 2 ^ (f.emin - f.fbits + j) = (n : ℝ) := by
    rw [hq, mul_right_inj' hsne, div_eq_iff hu.ne', eq_comm]
  rw [Ne, hexact]
  obtain ⟨ht, hx⟩ | ⟨lo, hlo, hhi, hx, hup⟩ := hn
  · exact ⟨takesRepresentable_self (hexact.2 ht), by simp [hx, ht]⟩
  · refine ⟨takesRepresentable_of_rounds hu (gap_units ?_) hlo hhi hup ((withSign_mod_two hf neg _).trans hodd) hq, ?_⟩
    · refine hlow.imp_right fun h => Nat.lt_succ_iff.1 ?_
      exact_mod_cast h.trans_lt hhi
    · refine iff_of_true hx fun h => ?_
      rw [h] at hlo hhi
      norm_cast at hlo hhi
      omega

end Sys2Proof.Machine
end

section
/-! PROOF of O5 and O28. Exact values: what a dyadic number stands for, and what a finite float holds (R58). -/

namespace Sys2Proof.Machine
open Sys2Proof

/-- The number that a dyadic stands for. -/
def Dy.val (x : Dy) : Rat := x.m * 2 ^ x.e

theorem Dy.val_eq_zero (x : Dy) : x.val = 0 ↔ x.m = 0 := by
  rw [Dy.val, mul_eq_zero, or_iff_left (zpow_ne_zero _ two_ne_zero), Int.cast_eq_zero]

theorem Dy.val_align (x : Dy) {e : Int} (h : e ≤ x.e) : (x.align e : Rat) * 2 ^ e = x.val := by
  obtain ⟨d, hd⟩ := Int.eq_ofNat_of_zero_le (sub_nonneg.2 h)
  rw [Dy.align, hd, Dy.val, show x.e = d + e by omega, zpow_add₀ two_ne_zero, Int.toNat_natCast, zpow_natCast]
  push_cast
  ring

theorem Dy.val_add (x y : Dy) : (x.add y).val = x.val + y.val := by
  rw [← x.val_align (min_le_left x.e y.e), ← y.val_align (min_le_right x.e y.e), ← add_mul, ← Int.cast_add]
  rfl

/-- A dyadic is its sign and magnitude. -/
theorem Dy.val_eq_signed (x : Dy) : (if decide (x.m < 0) then -1 else 1 : Rat) * x.m.natAbs * 2 ^ x.e = x.val := by
  rw [Dy.val, ← Int.cast_natCast, Int.natCast_natAbs]
  congr 1
  by_cases h : x.m < 0
  · simp [h, abs_of_neg h]
  · simp [h, abs_of_nonneg (not_lt.1 h)]

theorem FVal.value_eq_some {x : FVal} {v : Rat} (h : x.value = some v) : x.dy.val = v ∧ x.isNan = false ∧ x.isInf = false ∧
    (x.isZero = true ↔ v = 0) := by
  cases x with
  | nan => cases h
  | inf => cases h
  | fin n m e =>
    obtain rfl := Option.some.inj h
    refine ⟨?_, rfl, rfl, ?_⟩
    · cases n <;> simp [FVal.dy, Dy.val]
    · cases n <;> simp [FVal.isZero, zpow_ne_zero]

theorem FVal.exists_fin {x : FVal} {v : Rat} (h : x.value = some v) : ∃ n m e, x = .fin n m e := by
  cases x with
  | nan => cases h
  | inf => cases h
  | fin n m e => exact ⟨n, m, e, rfl⟩

/-- The sum of two finite values, rounded once (R106). -/
theorem fAdd_finite {x y : FVal} {u v : Rat} (hx : x.value = some u) (hy : y.value = some v) (f : Fmt) (r : Rnd) :
    fAdd f r x y = roundDy f r (x.dy.add y.dy) (if x.isZero && y.isZero then zeroSumNeg r x.sign y.sign else r == .rdn) := by
  obtain ⟨_, _, _, rfl⟩ := FVal.exists_fin hx
  obtain ⟨_, _, _, rfl⟩ := FVal.exists_fin hy
  rfl

end Sys2Proof.Machine
end

section
/-! PROOF of O5. Overflow, tininess and the flags of a rounded number (R60, R61), and the statement. -/

namespace Sys2Proof.Machine
open Sys2Proof

variable {f : Fmt} {r : Rnd} {neg : Bool} {m : Nat} {e : Int} {a : ℝ}

/-! ## Overflow and tininess -/

theorem overflows_iff_reachesTop (ha : 0 < a) :
    overflows f r (signOf ℝ neg * a) ↔ reachesTop r neg (2 ^ (f.bias + 1)) (2 ^ (f.bias - f.fbits)) a := by
  have htop : (0 : ℝ) < 2 ^ (f.bias + 1) := zpow_pos two_pos _
  have hulp : (2 : ℝ) ^ (f.bias - f.fbits) ≤ 2 ^ (f.bias + 1) := zpow_le_zpow_right₀ one_le_two (by omega)
  cases r with
  | rne => rw [overflows, abs_signOf_mul, abs_of_pos ha, reachesTop]
  | rtz => rw [overflows, abs_signOf_mul, abs_of_pos ha, reachesTop]
  | rup =>
    cases neg <;> simp only [overflows, reachesTop, signOf_true, signOf_false, one_mul, neg_one_mul, neg_le_neg_iff]
    · exact or_iff_left (by linarith)
    · exact or_iff_right (by linarith)
  | rdn =>
    cases neg <;> simp only [overflows, reachesTop, signOf_true, signOf_false, one_mul, neg_one_mul]
    · exact or_iff_left (by linarith)
    · rw [or_iff_right (by linarith), neg_lt, neg_sub]

theorem tinyAfter_iff_not_reachesTop (ha : 0 < a) :
    tinyAfter f r (signOf ℝ neg * a) ↔ ¬ reachesTop r neg (2 ^ f.emin) (2 ^ (f.emin - 1 - f.fbits)) a := by
  have htop : (0 : ℝ) < 2 ^ f.emin := zpow_pos two_pos _
  have hulp : (2 : ℝ) ^ (f.emin - f.fbits - 1) ≤ 2 ^ f.emin := zpow_le_zpow_right₀ one_le_two (by omega)
  rw [sub_right_comm]
  cases r with
  | rne => rw [tinyAfter, abs_signOf_mul, abs_of_pos ha, reachesTop, not_le]
  | rtz => rw [tinyAfter, abs_signOf_mul, abs_of_pos ha, reachesTop, not_le]
  | rup =>
    cases neg <;> simp only [tinyAfter, reachesTop, signOf_true, signOf_false, one_mul, neg_one_mul, neg_lt_neg_iff, not_lt, not_le]
    · exact and_iff_right (by linarith)
    · exact and_iff_left (by linarith)
  | rdn =>
    cases neg <;> simp only [tinyAfter, reachesTop, signOf_true, signOf_false, one_mul, neg_one_mul, not_lt, not_le]
    · exact and_iff_right (by linarith)
    · rw [and_iff_left (by linarith), le_neg, neg_sub]

/-! ## Rounding as a whole -/

theorem overflowBits_eq (f : Fmt) (r : Rnd) : overflowBits f r false = (if r = .rne ∨ r = .rup then f.infBits else f.infBits - 1) ∧
    overflowBits f r true = if r = .rne ∨ r = .rdn then f.infBits else f.infBits - 1 := by
  cases r <;> exact ⟨rfl, rfl⟩

theorem roundFin_zero (f : Fmt) (r : Rnd) (neg : Bool) (e : Int) : roundFin f r neg 0 e false = (withSign f neg 0, 0) := rfl

theorem roundFin_overflow (hm : m ≠ 0) (h : f.infBits ≤ (magBits f r neg m e false).1) :
    roundFin f r neg m e false = (withSign f neg (overflowBits f r neg), ffOF ||| ffNX) := by
  simp [roundFin, hm, h]

theorem roundFin_finite (hm : m ≠ 0) (h : (magBits f r neg m e false).1 < f.infBits) :
    roundFin f r neg m e false = (withSign f neg (magBits f r neg m e false).1,
      (if (magBits f r neg m e false).2 then ffNX else 0) |||
        if (magBits f r neg m e false).2 && isTiny f r neg m e false then ffUF else 0) := by
  simp [roundFin, hm, h.not_ge]

/-- Inexact and underflow, and no other flag (R61). -/
theorem inexact_flags (x y : Bool) : let fl : FFlags := (if x then ffNX else 0) ||| if y then ffUF else 0
    fl &&& (ffNV ||| ffDZ ||| ffOF) = 0 ∧ fl.getLsbD 0 = x ∧ fl.getLsbD 1 = y := by
  revert x y; decide

/-- A finite value that is not zero is rounded correctly into every format of two exponent bits and a fraction bit, or more. -/
theorem roundFin_correctlyRounded (hf : f.Proper) (hm : m ≠ 0) :
    correctlyRounded f r (signOf ℝ neg * (m * 2 ^ e)) (roundFin f r neg m e false) := by
  have hpos : (0 : ℝ) < m * 2 ^ e := mul_pos (by exact_mod_cast Nat.pos_of_ne_zero hm) (zpow_pos two_pos e)
  have hneg : signOf ℝ neg * (m * 2 ^ e) < 0 ↔ neg = true := by cases neg <;> simp [hpos, hpos.le]
  have hpos' : 0 < signOf ℝ neg * (m * 2 ^ e) ↔ neg = false := by cases neg <;> simp [hpos, hpos.le]
  rw [correctlyRounded, overflows_iff_reachesTop hpos, ← infBits_le_magBits_iff hf hm, hneg, hpos',
    tinyAfter_iff_not_reachesTop hpos, ← isTiny_iff hm]
  refine ⟨fun hover => ?_, fun hfin => ?_⟩
  · rw [roundFin_overflow hm hover]
    refine ⟨rfl, ?_, ?_⟩ <;> rintro rfl
    · exact (overflowBits_eq f r).1
    · rw [← (overflowBits_eq f r).2]
      exact Nat.add_comm _ _
  · obtain ⟨q, hval, hsign, htakes, hexact⟩ := magBits_takes (r := r) (neg := neg) (e := e) hf hm (not_le.1 hfin)
    rw [roundFin_finite hm (not_le.1 hfin)]
    obtain ⟨hother, hnx, huf⟩ := inexact_flags (magBits f r neg m e false).2 ((magBits f r neg m e false).2 && isTiny f r neg m e false)
    refine ⟨q, hval, htakes, withSign_lt ((not_le.1 hfin).trans f.infBits_lt_signBit), by rw [hsign], hother, ?_, ?_⟩
    · rw [hnx, hexact]
    · rw [huf, Bool.and_eq_true, hexact]

/-! ## Zero sums -/

/-- Numbers of opposite value and sign add to a zero of the mode's sign (R60). -/
theorem fAdd_opposite {x y : FVal} {p : Rat} (hx : x.value = some p) (hy : y.value = some (-p)) (hs : x.sign = !y.sign) :
    fAdd f r x y = (withSign f (r == .rdn) 0, 0) := by
  obtain ⟨hxv, -⟩ := FVal.value_eq_some hx
  obtain ⟨hyv, -⟩ := FVal.value_eq_some hy
  have hm : (x.dy.add y.dy).m = 0 := by rw [← Dy.val_eq_zero, Dy.val_add, hxv, hyv, add_neg_cancel]
  have hz : zeroSumNeg r x.sign y.sign = (r == .rdn) := if_neg (by rw [hs]; exact Bool.not_ne_self _)
  rw [fAdd_finite hx hy, roundDy, if_pos hm, hz, ite_self]

/-- Settles O5: f32, f16 and bf16 are formats of the general theorem, and rounding modes have their codes of R60. -/
theorem roundingIsCorrect : Obligations.RoundingIsCorrect := by
  intro f r neg m e hfmt
  have hf : f.Proper := by obtain rfl | rfl | rfl := hfmt <;> exact ⟨by decide, by decide⟩
  refine ⟨?_, fun hm => ?_, fun x y p => fAdd_opposite, rfl, rfl, rfl, rfl⟩
  · rintro rfl
    exact roundFin_zero f r neg e
  · rw [mul_assoc]
    exact roundFin_correctlyRounded hf hm

end Sys2Proof.Machine
end

section
/-! PROOF of O28. The sums of the array: a block's products and the run in ACC26 (R71, R72). -/

namespace Sys2Proof.Machine
open Sys2Proof

/-! ## A dyadic rounded, as a sign and a magnitude -/

theorem roundDy_eq_roundFin (f : Fmt) (r : Rnd) (x : Dy) (zeroNeg : Bool) : ∃ (neg : Bool) (m : Nat) (e : Int),
    (if neg then -1 else 1 : Rat) * m * 2 ^ e = x.val ∧ (m = 0 → neg = zeroNeg) ∧ roundDy f r x zeroNeg = roundFin f r neg m e false := by
  by_cases hx : x.m = 0
  · exact ⟨zeroNeg, 0, 0, by rw [x.val_eq_zero.2 hx]; simp, fun _ => rfl, by rw [roundDy, if_pos hx, roundFin_zero]⟩
  · exact ⟨decide (x.m < 0), x.m.natAbs, x.e, x.val_eq_signed, fun h => absurd (Int.natAbs_eq_zero.1 h) hx, by rw [roundDy, if_neg hx]⟩

theorem roundAcc_eq (x : Dy) (zeroNeg : Bool) : roundAcc x zeroNeg = flushAcc (roundDy fmtAcc .rne x zeroNeg).1 := rfl

theorem roundDy_roundsOnce (f : Fmt) (r : Rnd) (x : Dy) (zeroNeg : Bool) : roundsOnce f r x.val zeroNeg (roundDy f r x zeroNeg) := by
  refine ⟨fun h => by rw [roundDy, if_pos (x.val_eq_zero.1 h)], fun _ => ?_⟩
  obtain ⟨neg, m, e, hv, -, h⟩ := roundDy_eq_roundFin f r x zeroNeg
  exact ⟨neg, m, e, hv, h⟩

/-! ## The kinds of float -/

theorem FVal.isNan_iff {x : FVal} : x.isNan = true ↔ ∃ sg, x = .nan sg := by
  cases x <;> simp [FVal.isNan]

theorem FVal.isInf_iff {x : FVal} : x.isInf = true ↔ ∃ n, x = .inf n := by
  cases x <;> simp [FVal.isInf]

/-- An infinity that is not the one of the other sign. -/
theorem FVal.inf_eq_of_ne {n k : Bool} (h : FVal.inf k ≠ .inf (!n)) : k = n := by
  cases n <;> cases k <;> simp at h ⊢

/-! ## The run -/

/-- An invalid sum of the run and a block is the canonical NaN. -/
theorem accAdd_nan {x y : Nat} (h : (unpack fmtAcc x).isNan = true ∨ (unpack fmtAcc y).isNan = true ∨
    ((unpack fmtAcc x).isInf = true ∧ (unpack fmtAcc y).isInf = true ∧ (unpack fmtAcc x).sign ≠ (unpack fmtAcc y).sign)) :
    accAdd x y = fmtAcc.nan := by
  unfold accAdd
  obtain hu | hv | ⟨hu, hv, hs⟩ := h
  · obtain ⟨sg, hu⟩ := FVal.isNan_iff.1 hu
    simp only [hu]
  · obtain ⟨sg, hv⟩ := FVal.isNan_iff.1 hv
    cases hu : unpack fmtAcc x <;> simp only [hv]
  · obtain ⟨n, hu⟩ := FVal.isInf_iff.1 hu
    obtain ⟨k, hv⟩ := FVal.isInf_iff.1 hv
    rw [hu, hv] at hs ⊢
    exact if_neg hs

theorem accAdd_inf {x y : Nat} {n : Bool}
    (h : (unpack fmtAcc x = .inf n ∧ (unpack fmtAcc y).isNan = false ∧ unpack fmtAcc y ≠ .inf (!n)) ∨
      (unpack fmtAcc y = .inf n ∧ (unpack fmtAcc x).isNan = false ∧ unpack fmtAcc x ≠ .inf (!n))) :
    accAdd x y = withSign fmtAcc n fmtAcc.infBits := by
  unfold accAdd
  obtain ⟨hu, hnan, hne⟩ | ⟨hv, hnan, hne⟩ := h
  · rw [hu]
    cases hv : unpack fmtAcc y with
    | nan => simp [hv, FVal.isNan] at hnan
    | inf k =>
      obtain rfl := FVal.inf_eq_of_ne (hv ▸ hne)
      exact if_pos rfl
    | fin => rfl
  · rw [hv]
    cases hu : unpack fmtAcc x with
    | nan => simp [hu, FVal.isNan] at hnan
    | inf k =>
      obtain rfl := FVal.inf_eq_of_ne (hu ▸ hne)
      exact if_pos rfl
    | fin => rfl

theorem accAdd_finite {x y : Nat} {u v : Rat} (hx : (unpack fmtAcc x).value = some u) (hy : (unpack fmtAcc y).value = some v) :
    accAdd x y = roundAcc ((unpack fmtAcc x).dy.add (unpack fmtAcc y).dy) ((unpack fmtAcc x).isZero && (unpack fmtAcc y).isZero &&
      (unpack fmtAcc x).sign && (unpack fmtAcc y).sign) := by
  obtain ⟨_, _, _, hxf⟩ := FVal.exists_fin hx
  obtain ⟨_, _, _, hyf⟩ := FVal.exists_fin hy
  unfold accAdd
  rw [hxf, hyf]

/-- Two finite sums are added exactly and rounded to ACC26; an exact zero is −0 of two −0 alone (R71). -/
theorem accAdd_rounds {x y : Nat} {u v : Rat} (hx : (unpack fmtAcc x).value = some u) (hy : (unpack fmtAcc y).value = some v) :
    ∃ (neg : Bool) (m : Nat) (e : Int), (if neg then -1 else 1 : Rat) * m * 2 ^ e = u + v ∧
      (m = 0 → (neg = true ↔ u = 0 ∧ v = 0 ∧ (unpack fmtAcc x).sign = true ∧ (unpack fmtAcc y).sign = true)) ∧
      accAdd x y = flushAcc (roundFin fmtAcc .rne neg m e false).1 := by
  obtain ⟨hxv, -, -, hxz⟩ := FVal.value_eq_some hx
  obtain ⟨hyv, -, -, hyz⟩ := FVal.value_eq_some hy
  rw [accAdd_finite hx hy, roundAcc_eq]
  obtain ⟨neg, m, e, hv, hneg, h⟩ := roundDy_eq_roundFin fmtAcc .rne ((unpack fmtAcc x).dy.add (unpack fmtAcc y).dy)
    ((unpack fmtAcc x).isZero && (unpack fmtAcc y).isZero && (unpack fmtAcc x).sign && (unpack fmtAcc y).sign)
  refine ⟨neg, m, e, by rw [hv, Dy.val_add, hxv, hyv], fun h0 => ?_, by rw [h]⟩
  rw [hneg h0, Bool.and_eq_true, Bool.and_eq_true, Bool.and_eq_true, hxz, hyz, and_assoc, and_assoc]

end Sys2Proof.Machine
end

section
/-! PROOF of O28. A block's sum: exact products, each cut off 33 places below the leading one (R71, R72). -/

namespace Sys2Proof.Machine
open Sys2Proof

/-! ## The terms of a block -/

/-- The place of a product's leading bit; none for a zero. -/
def leadingPlace : FVal → Option Int
  | .fin _ m e => if m = 0 then none else some ((Nat.log2 m : Int) + e)
  | _ => none

/-- A product in units of 2^u, what lies below them cut off. -/
def cutTerm (u : Int) : FVal → Int
  | .fin n m e =>
    let k : Nat := if u ≤ e then m * 2 ^ (e - u).toNat else m / 2 ^ (u - e).toNat
    if n then -(k : Int) else k
  | _ => 0

theorem leadingPlace_zero {p : FVal} (h : p.value = some 0) : leadingPlace p = none := by
  obtain ⟨n, m, e, rfl⟩ := FVal.exists_fin h
  obtain ⟨-, -, -, hz⟩ := FVal.value_eq_some h
  exact if_pos (by simpa [FVal.isZero] using hz)

/-- The leading place of a number other than 0 is the exponent of the power of two at or below its magnitude. -/
theorem leadingPlace_eq {p : FVal} {q : Rat} {l : Int} (h : p.value = some q) (hl : leadingPlace p = some l) :
    2 ^ l ≤ |q| ∧ |q| < 2 ^ (l + 1) := by
  obtain ⟨n, m, e, rfl⟩ := FVal.exists_fin h
  obtain rfl := Option.some.inj h
  rw [abs_signed]
  simp only [leadingPlace] at hl
  split at hl
  · cases hl
  · obtain rfl := Option.some.inj hl
    exact two_zpow_le_magnitude ‹_› e

theorem exists_leadingPlace {p : FVal} {q : Rat} (h : p.value = some q) (hq : q ≠ 0) : ∃ l, leadingPlace p = some l := by
  obtain ⟨n, m, e, rfl⟩ := FVal.exists_fin h
  obtain ⟨-, -, -, hz⟩ := FVal.value_eq_some h
  exact ⟨_, if_neg fun h0 => hq (hz.1 (decide_eq_true h0))⟩

/-- A cut term is the product with what lies below the unit cut off, its sign kept. -/
theorem cutTerm_val {p : FVal} {q : Rat} (h : p.value = some q) (u : Int) : (cutTerm u p : Rat) * 2 ^ u = cutOff (2 ^ u) q := by
  obtain ⟨n, m, e, rfl⟩ := FVal.exists_fin h
  obtain rfl := Option.some.inj h
  have hfloor : ⌊(m : Rat) * 2 ^ e / 2 ^ u⌋ = ((if u ≤ e then m * 2 ^ (e - u).toNat else m / 2 ^ (u - e).toNat : Nat) : Int) := by
    rw [mul_div_assoc, ← zpow_sub₀ two_ne_zero]
    by_cases hue : u ≤ e
    · obtain ⟨k, hk⟩ := Int.eq_ofNat_of_zero_le (sub_nonneg.2 hue)
      rw [if_pos hue, hk, Int.toNat_natCast, zpow_natCast]
      exact_mod_cast Int.floor_natCast (R := Rat) (m * 2 ^ k)
    · obtain ⟨k, hk⟩ := Int.eq_ofNat_of_zero_le (sub_nonneg.2 (not_le.1 hue).le)
      rw [if_neg hue, hk, Int.toNat_natCast, show e - u = -(k : Int) by omega, zpow_neg, zpow_natCast, ← div_eq_mul_inv]
      exact_mod_cast Rat.floor_natCast_div_natCast m (2 ^ k)
  rw [cutOff, abs_signed, hfloor, cutTerm]
  congr 1
  have he : (0 : Rat) < 2 ^ e := zpow_pos two_pos e
  cases n with
  | false =>
    have hq : ¬ (m : Rat) * 2 ^ e < 0 := not_lt.2 (by positivity)
    simp only [Bool.false_eq_true, if_false, one_mul, if_neg hq]
  | true =>
    obtain rfl | hm := Nat.eq_zero_or_pos m
    · simp
    · have hq : -(m : Rat) * 2 ^ e < 0 := by rw [neg_mul, neg_lt_zero]; positivity
      simp only [if_true, neg_one_mul, if_pos hq, Int.cast_neg]

/-! ## The sum -/

/-- A block of finite products is summed in units 33 places below the leading one. -/
theorem blockSum_finite {ps : List FVal} (h : ∀ p, p ∈ ps → ∃ q, p.value = some q) : blockSum ps =
    match ps.filterMap leadingPlace with
    | [] => 0
    | x :: r => roundAcc ⟨ps.foldl (fun s p => s + cutTerm (r.foldl max x - 33) p) 0, r.foldl max x - 33⟩ false := by
  have hnan : ps.any FVal.isNan = false := List.any_eq_false.2 fun p hp => by
    obtain ⟨q, hq⟩ := h p hp
    simp [(FVal.value_eq_some hq).2.1]
  have hinf : ∀ p, p ∈ ps → p.isInf = false := fun p hp => by
    obtain ⟨q, hq⟩ := h p hp
    exact (FVal.value_eq_some hq).2.2.1
  have hside : ps.any (fun p => p.isInf && p.sign) = false := List.any_eq_false.2 fun p hp => by simp [hinf p hp]
  have hfind : ps.find? FVal.isInf = none := List.find?_eq_none.2 fun p hp => by simp [hinf p hp]
  simp only [blockSum, hnan, hside, hfind] <;> rfl

theorem blockSum_zeros {ps : List FVal} (h : ∀ p, p ∈ ps → p.value = some 0) : blockSum ps = 0 := by
  have hnil : ps.filterMap leadingPlace = [] := List.filterMap_eq_nil_iff.2 fun p hp => leadingPlace_zero (h p hp)
  rw [blockSum_finite fun p hp => ⟨0, h p hp⟩, hnil]

theorem blockSum_nan {ps : List FVal} {sg : Bool} (h : .nan sg ∈ ps ∨ (.inf true ∈ ps ∧ .inf false ∈ ps)) : blockSum ps = fmtAcc.nan := by
  refine if_pos (Bool.or_eq_true_iff.2 (h.imp (fun h => List.any_eq_true.2 ⟨_, h, rfl⟩) fun ⟨ht, hf⟩ => ?_))
  exact Bool.and_eq_true_iff.2 ⟨List.any_eq_true.2 ⟨_, ht, rfl⟩, List.any_eq_true.2 ⟨_, hf, rfl⟩⟩

theorem blockSum_inf {ps : List FVal} {n : Bool} (h : .inf n ∈ ps) (hnan : ∀ sg, .nan sg ∉ ps) (hne : .inf (!n) ∉ ps) :
    blockSum ps = withSign fmtAcc n fmtAcc.infBits := by
  have hany : ps.any FVal.isNan = false := List.any_eq_false.2 fun p hp hx => by
    obtain ⟨sg, rfl⟩ := FVal.isNan_iff.1 hx
    exact hnan sg hp
  have hinf : ∀ p, p ∈ ps → p.isInf = true → p = .inf n := fun p hp hx => by
    obtain ⟨k, rfl⟩ := FVal.isInf_iff.1 hx
    rw [FVal.inf_eq_of_ne fun h => hne (h ▸ hp)]
  have hside : (ps.any (fun p => p.isInf && p.sign) && ps.any fun p => p.isInf && !p.sign) = false := by
    rw [Bool.and_eq_false_iff, List.any_eq_false, List.any_eq_false]
    cases n with
    | false => exact .inl fun p hp hx => by simp [hinf p hp (Bool.and_eq_true_iff.1 hx).1, FVal.sign] at hx
    | true => exact .inr fun p hp hx => by simp [hinf p hp (Bool.and_eq_true_iff.1 hx).1, FVal.sign] at hx
  obtain ⟨p, hp⟩ := Option.isSome_iff_exists.1 (List.find?_isSome.2 ⟨_, h, rfl⟩ : (ps.find? FVal.isInf).isSome = true)
  obtain rfl := hinf p (List.mem_of_find?_eq_some hp) (List.find?_some hp)
  simp only [blockSum, hany, hside, hp] <;> rfl

/-- The leading place of a block, where its products stay below 2^(E + 1) and one of them reaches 2^E. -/
theorem leading_of_block {ps : List FVal} {E : Int} (h : ∀ p, p ∈ ps → ∃ q, p.value = some q ∧ |q| < (2 : Rat) ^ (E + 1))
    (hE : ∃ p q, p ∈ ps ∧ p.value = some q ∧ (2 : Rat) ^ E ≤ |q|) :
    ∃ x r, ps.filterMap leadingPlace = x :: r ∧ r.foldl max x = E := by
  have hle : ∀ l, l ∈ ps.filterMap leadingPlace → l ≤ E := fun l hl => by
    obtain ⟨p, hp, hpl⟩ := List.mem_filterMap.1 hl
    obtain ⟨q, hq, hlt⟩ := h p hp
    exact Int.lt_add_one_iff.1 ((zpow_lt_zpow_iff_right₀ one_lt_two).1 ((leadingPlace_eq hq hpl).1.trans_lt hlt))
  have hmem : E ∈ ps.filterMap leadingPlace := by
    obtain ⟨p, q, hp, hq, hge⟩ := hE
    obtain ⟨l, hl⟩ := exists_leadingPlace hq fun h0 => by
      rw [h0, abs_zero] at hge
      exact hge.not_gt (zpow_pos two_pos E)
    have hl' : l ∈ ps.filterMap leadingPlace := List.mem_filterMap.2 ⟨p, hp, hl⟩
    have := (zpow_lt_zpow_iff_right₀ one_lt_two).1 (hge.trans_lt (leadingPlace_eq hq hl).2)
    rwa [show E = l from le_antisymm (Int.lt_add_one_iff.1 this) (hle l hl')]
  obtain ⟨x, r, hxr⟩ := List.exists_cons_of_ne_nil (List.ne_nil_of_mem hmem)
  refine ⟨x, r, hxr, ?_⟩
  rw [hxr] at hle hmem
  exact Option.some.inj (List.max?_cons'.symm.trans (List.max?_eq_some_iff.2 ⟨hmem, hle⟩))

theorem foldl_cutTerm_val {ps : List FVal} (h : ∀ p, p ∈ ps → ∃ q, p.value = some q) (u : Int) :
    ((ps.foldl (fun s p => s + cutTerm u p) 0 : Int) : Rat) * 2 ^ u = (ps.map fun p => cutOff (2 ^ u) (p.value.getD 0)).sum := by
  rw [← List.foldl_map (f := cutTerm u) (g := fun s k => s + k), ← List.sum_eq_foldl, Int.cast_list_sum, ← List.sum_map_mul_right]
  rw [List.map_map]
  refine congrArg List.sum (List.map_congr_left fun p hp => ?_)
  obtain ⟨q, hq⟩ := h p hp
  rw [hq]
  exact cutTerm_val hq u

theorem blockSum_rounds {ps : List FVal} {E : Int} (h : ∀ p, p ∈ ps → ∃ q, p.value = some q ∧ |q| < (2 : Rat) ^ (E + 1))
    (hE : ∃ p q, p ∈ ps ∧ p.value = some q ∧ (2 : Rat) ^ E ≤ |q|) :
    ∃ (neg : Bool) (m : Nat) (e : Int), (if neg then -1 else 1 : Rat) * m * 2 ^ e =
        (ps.map fun p => cutOff (2 ^ (E - 33)) (p.value.getD 0)).sum ∧ (m = 0 → neg = false) ∧
      blockSum ps = flushAcc (roundFin fmtAcc .rne neg m e false).1 := by
  have hfin : ∀ p, p ∈ ps → ∃ q, p.value = some q := fun p hp => (h p hp).imp fun q hq => hq.1
  obtain ⟨x, r, hxr, hmax⟩ := leading_of_block h hE
  have hsum : blockSum ps = roundAcc ⟨ps.foldl (fun s p => s + cutTerm (E - 33) p) 0, E - 33⟩ false := by
    rw [blockSum_finite hfin, hxr, ← hmax]
  obtain ⟨neg, m, e, hv, h0, hr⟩ := roundDy_eq_roundFin fmtAcc .rne ⟨ps.foldl (fun s p => s + cutTerm (E - 33) p) 0, E - 33⟩ false
  exact ⟨neg, m, e, hv.trans (foldl_cutTerm_val hfin _), h0, by rw [hsum, roundAcc_eq, hr]⟩

end Sys2Proof.Machine
end

section
/-! PROOF of O28. The products of a step and the sums of its elements (R69 to R72, R211). -/

namespace Sys2Proof.Machine
open Sys2Proof

/-! ## Products -/

theorem value_fin_mul (a b : Bool) (m n : Nat) (e d : Int) :
    (FVal.fin (a != b) (m * n) (e + d)).value = some (((if a then -1 else 1 : Rat) * m * 2 ^ e) * ((if b then -1 else 1) * n * 2 ^ d)) := by
  rw [FVal.value, zpow_add₀ two_ne_zero, Nat.cast_mul]
  cases a <;> cases b <;> simp <;> ring

theorem fProd_fin (a b : Bool) (m n : Nat) (e d : Int) : fProd (.fin a m e) (.fin b n d) = (.fin (a != b) (m * n) (e + d), 0) := by
  simp [fProd, FVal.isNan, FVal.isInf]

/-- The model's product of two floats is the exact one. -/
theorem fProd_productOf (x y : FVal) : productOf x y (fProd x y).1 := by
  refine ⟨fun hvoid => ?_, fun hvoid hinf => ?_, fun u v hx hy => ?_⟩
  · unfold fProd
    split
    · rfl
    · split
      · rfl
      · rename_i hnan hzero
        simp only [Bool.or_eq_true, Bool.and_eq_true] at hnan hzero
        tauto
  · simp only [not_or, not_and, Bool.not_eq_true] at hvoid
    obtain ⟨hxn, hyn, hzi, hiz⟩ := hvoid
    have hnan : (x.isNan || y.isNan) = false := by rw [hxn, hyn]; rfl
    have hzero : (x.isInf && y.isZero || x.isZero && y.isInf) = false :=
      Bool.or_eq_false_iff.2 ⟨Bool.and_eq_false_imp.2 hiz, Bool.and_eq_false_imp.2 hzi⟩
    have hside : (x.isInf || y.isInf) = true := Bool.or_eq_true_iff.2 hinf
    simp only [fProd, hnan, hzero, hside]
    rfl
  · obtain ⟨a, m, e, rfl⟩ := FVal.exists_fin hx
    obtain ⟨b, n, d, rfl⟩ := FVal.exists_fin hy
    obtain rfl := Option.some.inj hx
    obtain rfl := Option.some.inj hy
    rw [fProd_fin, value_fin_mul]

theorem lnsF_eq (c : Nat) : ([256, 304, 362, 431] : List Nat).getD (c % 4) 0 = lnsF (c % 4) := by
  have : c % 4 < 4 := Nat.mod_lt _ (by decide)
  generalize c % 4 = i at this
  obtain rfl | rfl | rfl | rfl : i = 0 ∨ i = 1 ∨ i = 2 ∨ i = 3 := by omega
  all_goals rfl

theorem testBit_five (x : Nat) : x.testBit 5 = decide (x / 32 % 2 = 1) := Nat.testBit_eq_decide_div_mod_eq

/-- The model's product of two lns6 operands is R69's. -/
theorem lnsProduct_lnsProductOf (x y : Nat) : lnsProductOf x y (lnsProduct x y) := by
  simp only [lnsProductOf, lnsProduct]
  split
  · rfl
  · split
    · simp [FVal.value]
    · have hexp : (((x % 32 + y % 32 : Nat) : Int) - 32) / 4 = ((x % 32 + y % 32 : Nat) : Int) / 4 - 8 - 8 + 8 := by omega
      rw [FVal.value, lnsF_eq, hexp, zpow_add₀ two_ne_zero _ 8, testBit_five, testBit_five]
      by_cases hx : x / 32 % 2 = 1 <;> by_cases hy : y / 32 % 2 = 1 <;> simp [hx, hy] <;> ring

theorem unpackE4m3_ne_inf (x : Nat) (n : Bool) : unpackE4m3 x ≠ .inf n := by
  simp only [unpackE4m3]
  split_ifs <;> simp

/-- An e4m3 element times its block's scale (R64, R70). -/
theorem e4m3Value_scaled (x s : Nat) : if s = 255 ∨ (unpackE4m3 x).isNan = true then (e4m3Value x s).isNan = true
    else (e4m3Value x s).value = (unpackE4m3 x).value.map fun q => q * (2 : Rat) ^ ((s : Int) - 127) := by
  by_cases hs : s = 255
  · rw [if_pos (.inl hs), e4m3Value, if_pos hs]
    rfl
  · rw [e4m3Value, if_neg hs]
    cases hu : unpackE4m3 x with
    | nan sg => simp only [FVal.isNan, or_true, if_true]
    | inf n => exact absurd hu (unpackE4m3_ne_inf x n)
    | fin n m e =>
      rw [if_neg (show ¬ (s = 255 ∨ (FVal.fin n m e).isNan = true) from not_or.2 ⟨hs, Bool.false_ne_true⟩)]
      simp only [FVal.value, Option.map_some, zpow_add₀ (two_ne_zero (α := Rat)) e, mul_assoc]

/-- The model takes an operand as R70 says. -/
theorem arrayOperand_arrayTakes {f : Nat} (x : Nat × Nat) (hx : x.1 < 2 ^ (if f ≤ 10 then 16 else 8)) (hf : 9 ≤ f) (hf' : f ≤ 11) :
    arrayTakes f x (arrayOperand ((formatTy f).getD .f16) x.1 x.2) := by
  obtain rfl | rfl | rfl : f = 9 ∨ f = 10 ∨ f = 11 := by omega
  · refine ⟨fun _ => ?_, by simp, by simp⟩
    exact congrArg (unpack fmtF16) (Nat.mod_eq_of_lt hx)
  · refine ⟨by simp, fun _ => ?_, by simp⟩
    have ho : arrayOperand ((formatTy 10).getD .f16) x.1 x.2 =
        if x.1 / 128 % 256 = 0 then .fin (x.1.testBit 15) 0 0 else unpack fmtBf16 (x.1 % 2 ^ 16) := rfl
    rw [ho]
    split
    · simp [FVal.value, FVal.sign]
    · rw [Nat.mod_eq_of_lt (show x.1 < 2 ^ 16 from hx)]
  · refine ⟨by simp, by simp, fun _ => ?_⟩
    have ho : arrayOperand ((formatTy 11).getD .f16) x.1 x.2 = e4m3Value (x.1 % 256) x.2 := rfl
    rw [ho, Nat.mod_eq_of_lt (show x.1 < 256 from hx)]
    exact e4m3Value_scaled x.1 x.2

theorem arrayProduct_float {t : Ty} (h : t ≠ .lns6) (x sx y sy : Nat) :
    arrayProduct t x sx y sy = (fProd (arrayOperand t x sx) (arrayOperand t y sy)).1 := by
  unfold arrayProduct
  split
  · exact absurd rfl h
  · rfl

theorem formatTy_ne_lns6 {f : Nat} (hf : 9 ≤ f) (hf' : f ≤ 11) : (formatTy f).getD .f16 ≠ .lns6 := by
  obtain rfl | rfl | rfl : f = 9 ∨ f = 10 ∨ f = 11 := by omega
  all_goals decide

theorem operand_eq_slotElement (o : OpSlot) {f : Nat} (hf : 9 ≤ f) (hf' : f ≤ 12) (r k : Nat) : o.operand f r k = slotElement o f r k := by
  have h : formatK f = 64 ↔ f ≤ 10 := by unfold formatK; split_ifs <;> omega
  simp only [OpSlot.operand, slotElement, h]

theorem slotElement_lt (o : OpSlot) (f r k : Nat) : (slotElement o f r k).1 < 2 ^ (if f ≤ 10 then 16 else 8) := by
  unfold slotElement
  split
  · exact readNat_lt _ _ 2
  · exact readNat_lt _ _ 1

theorem arrayProduct_productAt (j : Job) (a b : OpSlot) (hf : 9 ≤ j.format) (hf' : j.format ≤ 12) (m n k : Nat) :
    productAt j a b m n k (arrayProduct ((formatTy j.format).getD .f16) (a.operand j.format m k).1 (a.operand j.format m k).2
      (b.operand j.format n k).1 (b.operand j.format n k).2) := by
  rw [operand_eq_slotElement a hf hf', operand_eq_slotElement b hf hf']
  unfold productAt
  split
  · rename_i h
    rw [h]
    exact lnsProduct_lnsProductOf _ _
  · have hf'' : j.format ≤ 11 := by omega
    rw [arrayProduct_float (formatTy_ne_lns6 hf hf'')]
    exact ⟨_, _, arrayOperand_arrayTakes _ (slotElement_lt a _ m k) hf hf'', arrayOperand_arrayTakes _ (slotElement_lt b _ n k) hf hf'',
      fProd_productOf _ _⟩

/-! ## An element's sum -/

theorem filter_range_lt (k c n : Nat) : (List.range n).filter (fun e => decide (c + e < k)) = List.range (min n (k - c)) := by
  induction n with
  | zero => simp
  | succ n ih =>
    rw [List.range_succ, List.filter_append, ih]
    by_cases h : c + n < k
    · rw [List.filter_cons_of_pos (by simpa using h), show min n (k - c) = n by omega, show min (n + 1) (k - c) = n + 1 by omega,
        List.range_succ]
      rfl
    · rw [List.filter_cons_of_neg (by simpa using h), show min (n + 1) (k - c) = min n (k - c) by omega]
      exact List.append_nil _

theorem blockProducts_length (j : Job) (a b : OpSlot) (m n blk : Nat) : (blockProducts j a b m n blk).length = min 32 (j.k - 32 * blk) := by
  rw [blockProducts, upto, filter_range_lt, List.length_map, List.length_range]

theorem stepRun_elementSum (j : Job) (a b : OpSlot) (hf : 9 ≤ j.format) (hf' : j.format ≤ 12) (m n run : Nat) :
    elementSum j a b m n run (stepRun j a b m n run) := by
  refine ⟨fun blk => (List.range blk).foldl (fun r i => accAdd r (blockSum (blockProducts j a b m n i))) run, rfl, rfl, fun blk _ =>
    ⟨blockProducts j a b m n blk, blockProducts_length j a b m n blk, ?_, fun e p hp => ?_⟩⟩
  · exact (congrArg (List.foldl _ run) List.range_succ).trans List.foldl_append
  · rw [blockProducts, upto, filter_range_lt, List.getElem?_map, Option.map_eq_some_iff] at hp
    obtain ⟨e', he, rfl⟩ := hp
    obtain rfl : e = e' := by
      obtain ⟨_, h⟩ := List.getElem?_eq_some_iff.1 he
      rwa [List.getElem_range] at h
    exact arrayProduct_productAt j a b hf hf' m n _

/-! ## A promotion -/

theorem fAdd_invalid {x y : FVal} (h : x.isNan = true ∨ y.isNan = true ∨ (x.isInf = true ∧ y.isInf = true ∧ x.sign ≠ y.sign))
    (f : Fmt) (r : Rnd) : (fAdd f r x y).1 = f.nan := by
  by_cases hnan : (x.isNan || y.isNan) = true
  · unfold fAdd
    rw [if_pos hnan]
  · rw [Bool.or_eq_true, not_or] at hnan
    obtain ⟨hx, hy, hs⟩ := (h.resolve_left hnan.1).resolve_left hnan.2
    obtain ⟨n, rfl⟩ := FVal.isInf_iff.1 hx
    obtain ⟨k, rfl⟩ := FVal.isInf_iff.1 hy
    exact congrArg Prod.fst (if_neg hs)

theorem fAdd_inf {x y : FVal} {n : Bool}
    (h : (x = .inf n ∧ y.isNan = false ∧ y ≠ .inf (!n)) ∨ (y = .inf n ∧ x.isNan = false ∧ x ≠ .inf (!n))) (f : Fmt) (r : Rnd) :
    (fAdd f r x y).1 = withSign f n f.infBits := by
  obtain ⟨rfl, hnan, hne⟩ | ⟨rfl, hnan, hne⟩ := h
  · cases y with
    | nan => cases hnan
    | inf k =>
      obtain rfl := FVal.inf_eq_of_ne hne
      simp [fAdd, FVal.isNan]
    | fin => rfl
  · cases x with
    | nan => cases hnan
    | inf k =>
      obtain rfl := FVal.inf_eq_of_ne hne
      simp [fAdd, FVal.isNan]
    | fin => rfl

theorem promote_eq_fAdd (acc run : Nat) : promote acc run = (fAdd fmtF32 .rne (unpack fmtF32 acc) (unpack fmtAcc run)).1 := by
  unfold promote
  split
  · rename_i h
    rw [h, fAdd_invalid (.inr (.inl rfl))]
  · rfl

/-- The sign of an exact zero sum of two terms, in the model's words (R60). -/
theorem zeroSumSign_pair {x y : FVal} {u v : Rat} (hx : x.value = some u) (hy : y.value = some v) (r : Rnd) :
    zeroSumSign r [(u, x.sign), (v, y.sign)] = if x.isZero && y.isZero then zeroSumNeg r x.sign y.sign else r == .rdn := by
  obtain ⟨-, -, -, hxz⟩ := FVal.value_eq_some hx
  obtain ⟨-, -, -, hyz⟩ := FVal.value_eq_some hy
  have hu : decide (u = 0) = x.isZero := by rw [Bool.eq_iff_iff, hxz, decide_eq_true_iff]
  have hv : decide (v = 0) = y.isZero := by rw [Bool.eq_iff_iff, hyz, decide_eq_true_iff]
  simp only [zeroSumSign, zeroSumNeg, List.all_cons, List.all_nil, hu, hv]
  generalize x.isZero = a, y.isZero = b, x.sign = c, y.sign = d, (r == .rdn) = k
  revert a b c d k
  decide

/-- A promotion is R71's: the accumulator and the run added in binary32, once rounded. -/
theorem promote_promoted (acc run : Nat) : promoted acc run (promote acc run) := by
  rw [promote_eq_fAdd]
  refine ⟨fun h => ?_, fun n h => ?_, fun p q hp hq => ⟨(fAdd fmtF32 .rne (unpack fmtF32 acc) (unpack fmtAcc run)).2, ?_⟩⟩
  · exact fAdd_invalid h _ _
  · rw [fAdd_inf h]
    cases n <;> rfl
  · rw [Prod.mk.eta, fAdd_finite hp hq, zeroSumSign_pair hp hq, ← (FVal.value_eq_some hp).1, ← (FVal.value_eq_some hq).1, ← Dy.val_add]
    exact roundDy_roundsOnce _ _ _ _

end Sys2Proof.Machine
end

section
/-! PROOF of O28. A K step of a job: its elements, its slots, its end (R220, R221). -/

namespace Sys2Proof.Machine
open Sys2Proof

/-! ## The elements of a step -/

/-- An element's index in the run and in the tile. -/
def elementIx (e : Nat × Nat) : Nat := 64 * e.1 + e.2

/-- What one element does to a job's run and its tile. -/
def kElement (j : Job) (a b : OpSlot) (promo : Bool) (p : Job × Tile) (e : Nat × Nat) : Job × Tile :=
  let r := stepRun j a b e.1 e.2 (tget 0 p.1.run (elementIx e)).toNat
  if promo then
    ({ p.1 with run := tset 0 p.1.run (elementIx e) 0 },
      { p.2 with acc := tset 0 p.2.acc (elementIx e) (BitVec.ofNat 32 (promote (tget 0 p.2.acc (elementIx e)).toNat r)) })
  else ({ p.1 with run := tset 0 p.1.run (elementIx e) (BitVec.ofNat 26 r) }, p.2)

/-- Whether a step promotes. -/
def Job.promotes (j : Job) : Bool := decide (j.since + 1 = j.p) || decide (j.step + 1 = j.count)

theorem kStep_job (j : Job) (t : Tile) (a b : OpSlot) : (kStep j t a b).1 = { (j.elements.foldl (kElement j a b j.promotes) (j, t)).1 with
    step := j.step + 1
    since := if j.promotes then 0 else j.since + 1 } := rfl

theorem kStep_tile (j : Job) (t : Tile) (a b : OpSlot) :
    (kStep j t a b).2 = (j.elements.foldl (kElement j a b j.promotes) (j, t)).2 := rfl

variable {j : Job} {a b : OpSlot} {promo : Bool}

/-- The run and the accumulator of an element after its part of a step, from what they were before. -/
def runAfter (j : Job) (a b : OpSlot) (promo : Bool) (e : Nat × Nat) (run : BitVec 26) : BitVec 26 :=
  if promo then 0 else BitVec.ofNat 26 (stepRun j a b e.1 e.2 run.toNat)
def accAfter (j : Job) (a b : OpSlot) (promo : Bool) (e : Nat × Nat) (run : BitVec 26) (acc : W32) : W32 :=
  if promo then BitVec.ofNat 32 (promote acc.toNat (stepRun j a b e.1 e.2 run.toNat)) else acc

theorem kElement_frame (p : Job × Tile) (e : Nat × Nat) :
    (kElement j a b promo p e).1 = { p.1 with run := (kElement j a b promo p e).1.run } ∧
    (kElement j a b promo p e).2 = { p.2 with acc := (kElement j a b promo p e).2.acc } := by
  cases promo <;> exact ⟨rfl, rfl⟩

theorem kElement_run (p : Job × Tile) (e : Nat × Nat) (x : Nat) : tget 0 (kElement j a b promo p e).1.run x =
    if x = elementIx e then runAfter j a b promo e (tget 0 p.1.run x) else tget 0 p.1.run x := by
  by_cases h : x = elementIx e
  · subst h; cases promo <;> simp [kElement, runAfter]
  · cases promo <;> simp [kElement, tget_tset, h]

theorem kElement_acc (p : Job × Tile) (e : Nat × Nat) (x : Nat) : tget 0 (kElement j a b promo p e).2.acc x =
    if x = elementIx e then accAfter j a b promo e (tget 0 p.1.run x) (tget 0 p.2.acc x) else tget 0 p.2.acc x := by
  by_cases h : x = elementIx e
  · subst h; cases promo <;> simp [kElement, accAfter]
  · cases promo <;> simp [kElement, tget_tset, h]

theorem foldl_kElement_frame (es : List (Nat × Nat)) (p : Job × Tile) :
    (es.foldl (kElement j a b promo) p).1 = { p.1 with run := (es.foldl (kElement j a b promo) p).1.run } ∧
    (es.foldl (kElement j a b promo) p).2 = { p.2 with acc := (es.foldl (kElement j a b promo) p).2.acc } := by
  induction es generalizing p with
  | nil => exact ⟨rfl, rfl⟩
  | cons e es ih =>
    obtain ⟨h1, h2⟩ := ih (kElement j a b promo p e)
    obtain ⟨f1, f2⟩ := kElement_frame (j := j) (a := a) (b := b) (promo := promo) p e
    rw [List.foldl_cons, h1, h2, f1, f2]
    exact ⟨rfl, rfl⟩

/-- An index of no element keeps its run and its accumulator. -/
theorem foldl_kElement_other {es : List (Nat × Nat)} {x : Nat} (hx : ∀ e, e ∈ es → x ≠ elementIx e) (p : Job × Tile) :
    tget 0 (es.foldl (kElement j a b promo) p).1.run x = tget 0 p.1.run x ∧
    tget 0 (es.foldl (kElement j a b promo) p).2.acc x = tget 0 p.2.acc x := by
  induction es generalizing p with
  | nil => exact ⟨rfl, rfl⟩
  | cons e es ih =>
    have hne := hx e List.mem_cons_self
    rw [List.foldl_cons, (ih (fun d hd => hx d (List.mem_cons_of_mem _ hd)) _).1, (ih (fun d hd => hx d (List.mem_cons_of_mem _ hd)) _).2,
      kElement_run, kElement_acc, if_neg hne, if_neg hne]
    exact ⟨rfl, rfl⟩

/-- Each element is stepped once, from what it held before the step. -/
theorem foldl_kElement_at {es : List (Nat × Nat)} (hnd : (es.map elementIx).Nodup) {e : Nat × Nat} (he : e ∈ es) (p : Job × Tile) :
    tget 0 (es.foldl (kElement j a b promo) p).1.run (elementIx e) = runAfter j a b promo e (tget 0 p.1.run (elementIx e)) ∧
    tget 0 (es.foldl (kElement j a b promo) p).2.acc (elementIx e) =
      accAfter j a b promo e (tget 0 p.1.run (elementIx e)) (tget 0 p.2.acc (elementIx e)) := by
  induction es generalizing p with
  | nil => cases he
  | cons d es ih =>
    rw [List.map_cons, List.nodup_cons] at hnd
    obtain ⟨hd, hnd⟩ := hnd
    rw [List.foldl_cons]
    obtain rfl | he := List.mem_cons.1 he
    · obtain ⟨hr, hacc⟩ := foldl_kElement_other (j := j) (a := a) (b := b) (promo := promo)
        (fun d hd' h => hd (List.mem_map.2 ⟨d, hd', h.symm⟩)) (kElement j a b promo p e)
      rw [hr, hacc, kElement_run, kElement_acc, if_pos rfl, if_pos rfl]
      exact ⟨rfl, rfl⟩
    · have hne : elementIx e ≠ elementIx d := fun h => hd (List.mem_map.2 ⟨e, he, h⟩)
      obtain ⟨hr, hacc⟩ := ih hnd he (kElement j a b promo p d)
      rw [hr, hacc, kElement_run, kElement_acc, if_neg hne, if_neg hne]
      exact ⟨rfl, rfl⟩

theorem mem_elements {m n : Nat} : (m, n) ∈ j.elements ↔ m < j.m ∧ n < j.n := by
  simp [Job.elements, upto]

/-- Below 64 columns an index names one element. -/
theorem elementIx_inj {e d : Nat × Nat} (he : e.2 < 64) (hd : d.2 < 64) (h : elementIx e = elementIx d) : e = d := by
  unfold elementIx at h
  exact Prod.ext (by omega) (by omega)

theorem elements_nodup (hn : j.n ≤ 64) : (j.elements.map elementIx).Nodup := by
  have hprod : j.elements.Nodup := List.Nodup.product List.nodup_range List.nodup_range
  refine List.Nodup.map_on (fun e he d hd h => ?_) hprod
  have he := (mem_elements.1 he).2
  have hd := (mem_elements.1 hd).2
  exact elementIx_inj (by omega) (by omega) h

/-- The job and the tile after a step. -/
theorem kStep_spec (hn : j.n ≤ 64) (t : Tile) (a b : OpSlot) :
    (kStep j t a b).1 = { j with step := j.step + 1, since := if j.promotes then 0 else j.since + 1, run := (kStep j t a b).1.run } ∧
    (kStep j t a b).2 = { t with acc := (kStep j t a b).2.acc } ∧
    (∀ m n, m < j.m → n < j.n → tget 0 (kStep j t a b).1.run (elementIx (m, n)) =
      runAfter j a b j.promotes (m, n) (tget 0 j.run (elementIx (m, n)))) ∧
    ∀ m n, n < 64 → tget 0 (kStep j t a b).2.acc (elementIx (m, n)) = if m < j.m ∧ n < j.n
      then accAfter j a b j.promotes (m, n) (tget 0 j.run (elementIx (m, n))) (tget 0 t.acc (elementIx (m, n)))
      else tget 0 t.acc (elementIx (m, n)) := by
  obtain ⟨hj, ht⟩ := foldl_kElement_frame (j := j) (a := a) (b := b) (promo := j.promotes) j.elements (j, t)
  rw [kStep_tile, kStep_job]
  refine ⟨?_, ht, fun m n hm hnj => (foldl_kElement_at (elements_nodup hn) (mem_elements.2 ⟨hm, hnj⟩) (j, t)).1, fun m n hn64 => ?_⟩
  · conv_lhs => rw [hj]
  · by_cases h : m < j.m ∧ n < j.n
    · rw [if_pos h]
      exact (foldl_kElement_at (elements_nodup hn) (mem_elements.2 h) (j, t)).2
    · rw [if_neg h]
      refine (foldl_kElement_other (fun d hd heq => h ?_) (j, t)).2
      have hd2 := (mem_elements.1 hd).2
      rw [← elementIx_inj hn64 (by omega) heq] at hd
      exact mem_elements.1 hd

end Sys2Proof.Machine
end

section
/-! PROOF of O28. MLOOP_K_STEP as a whole (R220, R221), and the statement. -/

namespace Sys2Proof.Machine
open Sys2Proof

variable {s : State} {a : MatArray} {j : Job} {oa ob : OpSlot}

/-! ## The sweep after a job's end -/

theorem sweepArray_groups (s : State) (arr : Nat) : (sweepArray s arr).groups = s.groups := rfl

theorem allHeld_congr {t : State} (h : t.groups = s.groups) (a : MatArray) : allHeld t a ↔ allHeld s a := by
  unfold allHeld groupLive
  rw [h]

theorem arrayGet_arraySet (s : State) (arr : Nat) (x : MatArray) (b : Nat) :
    arrayGet (arraySet s arr x) b = if b = arr then x else arrayGet s b := tget_tset _ _ _ _ _

theorem slotGet_eq (s : State) (arr k : Nat) : slotGet s arr k = tfind (arrayGet s arr).slots k := rfl

/-- A sweep leaves an array whose slots and tiles live groups hold. -/
theorem arrayGet_sweepArray {arr : Nat} (h : allHeld s (arrayGet s arr)) (b : Nat) : arrayGet (sweepArray s b) arr = arrayGet s arr := by
  by_cases hb : arr = b
  · subst hb
    obtain ⟨hslots, htiles⟩ := h
    have hs : ∀ {q : Nat × OpSlot → Bool}, (∀ p, p ∈ (arrayGet s arr).slots → q p = true) →
        (arrayGet s arr).slots.filter q = (arrayGet s arr).slots := List.filter_eq_self.2
    have ht : ∀ {q : Nat × Tile → Bool}, (∀ p, p ∈ (arrayGet s arr).tiles → q p = true) →
        (arrayGet s arr).tiles.filter q = (arrayGet s arr).tiles := List.filter_eq_self.2
    refine (tget_tset_self _ _ _ _).trans (congrArg₂ (fun x y => ({ arrayGet s arr with slots := x, tiles := y } : MatArray))
      (hs fun p hp => ?_) (ht fun p hp => ?_))
    · obtain ⟨g, hg, hlive⟩ := hslots p hp
      simp [hg, hlive]
    · obtain ⟨g, hg, hlive⟩ := htiles p hp
      simp [hg, hlive]
  · exact tget_tset_other _ _ _ _ hb

/-- A sweep changes arrays alone. -/
theorem sweepCore_frame (s : State) (core : Nat) : ∃ x, sweepCore s core = { s with arrays := x } := by
  suffices hl : ∀ (l : List Nat) (s : State), ∃ x, l.foldl (fun s x => sweepArray s (arrayIx core x)) s = { s with arrays := x } from hl _ s
  intro l
  induction l with
  | nil => exact fun s => ⟨s.arrays, rfl⟩
  | cons x l ih => exact fun s => ih (sweepArray s (arrayIx core x))

theorem arrayGet_sweepCore {arr : Nat} (h : allHeld s (arrayGet s arr)) (core : Nat) : arrayGet (sweepCore s core) arr = arrayGet s arr := by
  suffices hl : ∀ (l : List Nat) (s : State), allHeld s (arrayGet s arr) →
      arrayGet (l.foldl (fun s x => sweepArray s (arrayIx core x)) s) arr = arrayGet s arr from hl _ s h
  intro l
  induction l with
  | nil => exact fun _ _ => rfl
  | cons x l ih =>
    intro s h
    have hx := arrayGet_sweepArray h (arrayIx core x)
    rw [List.foldl_cons, ih _ (by rw [hx]; exact h), hx]

/-! ## Released slots -/

theorem tfind_emptySlot (a : MatArray) (sl k : Nat) :
    tfind (emptySlot a sl).slots k = (tfind a.slots k).map fun o => if k = sl then { o with full := false } else o := by
  unfold emptySlot
  split
  · rename_i o h
    rw [tfind_tput]
    by_cases hk : k = sl
    · subst hk; simp [h]
    · simp [hk]
  · rename_i h
    by_cases hk : k = sl
    · subst hk; simp [h]
    · simp [hk]

theorem emptySlot_tiles (a : MatArray) (sl : Nat) : (emptySlot a sl).tiles = a.tiles := by
  unfold emptySlot; split <;> rfl

theorem emptySlot_jobs (a : MatArray) (sl : Nat) : (emptySlot a sl).jobs = a.jobs := by
  unfold emptySlot; split <;> rfl

theorem allHeld_emptySlot (h : allHeld s a) (sl : Nat) : allHeld s (emptySlot a sl) := by
  obtain ⟨hslots, htiles⟩ := h
  refine ⟨fun p hp => ?_, by rwa [emptySlot_tiles]⟩
  unfold emptySlot at hp
  split at hp
  · rename_i o ho
    obtain rfl | hp := mem_tput hp
    · exact hslots (sl, o) (mem_of_tfind_eq ho)
    · exact hslots p hp
  · exact hslots p hp

/-- The array with the slots that a job's step releases emptied. -/
def releaseSlots (j : Job) (a : MatArray) : MatArray :=
  let a := if j.ra then emptySlot a j.stepSlots.1 else a
  if j.rb then emptySlot a j.stepSlots.2 else a

theorem releaseSlots_keeps {P : MatArray → Prop} {a : MatArray} (h : P a) (hempty : ∀ a sl, P a → P (emptySlot a sl)) (j : Job) :
    P (releaseSlots j a) := by
  unfold releaseSlots
  split_ifs <;> simp only [h, hempty]

theorem tfind_releaseSlots (j : Job) (a : MatArray) (k : Nat) : tfind (releaseSlots j a).slots k = (tfind a.slots k).map fun o =>
    if (j.ra = true ∧ k = j.stepSlots.1) ∨ (j.rb = true ∧ k = j.stepSlots.2) then { o with full := false } else o := by
  have hite : ∀ (c : Bool) (sl : Nat) (b : MatArray), tfind (if c then emptySlot b sl else b).slots k =
      (tfind b.slots k).map fun o => if c = true ∧ k = sl then { o with full := false } else o := fun c sl b => by
    cases c <;> simp [tfind_emptySlot]
  rw [releaseSlots, hite, hite, Option.map_map]
  refine congrArg (Option.map · _) (funext fun o => ?_)
  by_cases ha : j.ra = true ∧ k = j.stepSlots.1
  · rw [Function.comp, if_pos ha]
    exact (ite_self _).trans (if_pos (Or.inl ha)).symm
  · rw [Function.comp, if_neg ha]
    exact if_congr (or_iff_right ha).symm rfl rfl

/-! ## The step -/

/-- The array after a step of a job, but for its queue. -/
def stepArray (a : MatArray) (j : Job) (oa ob : OpSlot) : MatArray :=
  releaseSlots j (a.putTile j.tile (kStep j (a.tile j.tile) oa ob).2)

theorem stepArray_jobs : (stepArray a j oa ob).jobs = a.jobs :=
  releaseSlots_keeps (P := fun b => b.jobs = a.jobs) (a := a.putTile _ _) rfl (fun b sl h => (emptySlot_jobs b sl).trans h) j

theorem stepArray_tile : (stepArray a j oa ob).tile j.tile = (kStep j (a.tile j.tile) oa ob).2 := by
  have htiles : (stepArray a j oa ob).tiles = tput a.tiles j.tile (kStep j (a.tile j.tile) oa ob).2 :=
    releaseSlots_keeps (P := fun b => b.tiles = tput a.tiles j.tile (kStep j (a.tile j.tile) oa ob).2) rfl
      (fun b sl h => (emptySlot_tiles b sl).trans h) j
  rw [MatArray.tile, htiles, tfind_tput_self]
  rfl

theorem allHeld_stepArray {T : Tile} (h : allHeld s a) (hn : j.n ≤ 64) (hT : tfind a.tiles j.tile = some T) :
    allHeld s (stepArray a j oa ob) := by
  obtain ⟨hslots, htiles⟩ := h
  have hput : allHeld s (a.putTile j.tile (kStep j (a.tile j.tile) oa ob).2) := by
    refine ⟨hslots, fun p hp => ?_⟩
    obtain rfl | hp := mem_tput hp
    · obtain ⟨-, ht, -⟩ := kStep_spec hn (a.tile j.tile) oa ob
      have hT' : a.tile j.tile = T := by rw [MatArray.tile, hT]; rfl
      rw [ht, hT']
      exact htiles _ (mem_of_tfind_eq hT)
    · exact htiles p hp
  exact releaseSlots_keeps hput (fun b sl h => allHeld_emptySlot h sl) j

theorem removeIx_append {α : Type} (before after_ : List α) (x : α) :
    removeIx (before ++ x :: after_) before.length = before ++ after_ := by
  induction before with
  | nil => rfl
  | cons y ys ih => exact congrArg (y :: ·) ih

theorem jobReady_iff (now n : Nat) (k : Job) : jobReady now a n k = true ↔ stepReady now a (a.jobs.take n) k := by
  simp only [jobReady, stepReady, Job.stepSlots, Bool.and_eq_true, Bool.not_eq_true', List.any_eq_false, beq_iff_eq, Bool.or_eq_true,
    decide_eq_true_eq, and_assoc]

/-- The oldest job whose step can run is the one found. -/
theorem find_jobReady {now : Nat} {before after_ : List Job} (hjobs : a.jobs = before ++ j :: after_) (hready : stepReady now a before j)
    (hfirst : ∀ p k q, before = p ++ k :: q → ¬ stepReady now a p k) :
    ((upto a.jobs.length).zip a.jobs).find? (fun p => jobReady now a p.1 p.2) = some (before.length, j) := by
  have hlen : before.length < a.jobs.length := by rw [hjobs, List.length_append, List.length_cons]; omega
  have hget : ∀ i (h : i < ((upto a.jobs.length).zip a.jobs).length), ((upto a.jobs.length).zip a.jobs)[i] =
      (i, a.jobs[i]'(by simpa [upto] using h)) := fun i h => by simp [upto]
  refine List.find?_eq_some_iff_getElem.2 ⟨?_, before.length, by simpa [upto] using hlen, ?_, fun i hi => ?_⟩
  · rw [jobReady_iff, hjobs, List.take_left']
    · exact hready
    · rfl
  · rw [hget]
    simp [hjobs]
  · rw [hget, Bool.not_eq_true', ← Bool.not_eq_true, jobReady_iff]
    have hk : a.jobs[i]'(by omega) = before[i] := by simp only [hjobs, List.getElem_append_left hi]
    have htake : a.jobs.take i = before.take i := by rw [hjobs, List.take_append_of_le_length hi.le]
    rw [hk, htake]
    exact hfirst _ _ (before.drop (i + 1)) (by rw [← List.drop_eq_getElem_cons hi, List.take_append_drop])

theorem exec_mloopKStep {core x : Nat} (hx : x < 4) (ha : arrayGet s (arrayIx core x) = a) {before after_ : List Job}
    (hjobs : a.jobs = before ++ j :: after_) (hready : stepReady s.now a before j)
    (hfirst : ∀ p k q, before = p ++ k :: q → ¬ stepReady s.now a p k)
    (hoa : tfind a.slots j.stepSlots.1 = some oa) (hob : tfind a.slots j.stepSlots.2 = some ob) :
    exec (.mloopKStep core x) s = .next (if j.step + 1 = j.count
      then sweepCore (fillOwed (arraySet s (arrayIx core x) { stepArray a j oa ob with jobs := before ++ after_ }) (some j.owed) []) core
      else arraySet s (arrayIx core x)
        { stepArray a j oa ob with jobs := before ++ (kStep j (a.tile j.tile) oa ob).1 :: after_ }) := by
  have hset : (before ++ j :: after_).set before.length (kStep j (a.tile j.tile) oa ob).1 =
      before ++ (kStep j (a.tile j.tile) oa ob).1 :: after_ := List.set_append_right _ _ le_rfl |>.trans (by simp)
  rw [← hset, ← removeIx_append, ← hjobs, ← stepArray_jobs]
  simp only [exec, execMloopKStep, Nat.mod_eq_of_lt hx, ha, find_jobReady hjobs hready hfirst, hoa, hob]
  rfl

theorem arraySet_sameBytes (s : State) (arr : Nat) (x : MatArray) : sameBytes s (arraySet s arr x) :=
  fun _ _ => byteOf_congr rfl rfl rfl _ fun _ => rfl

theorem fillOwed_resultGains (s : State) (id : Nat) (ws : List RegWrite) : resultGains s (fillOwed s (some id) ws) (some id) ws :=
  List.map_congr_left fun _ _ => if_congr (beq_iff_eq.trans (eq_comm.trans (Option.some_inj).symm)) rfl rfl

/-- The end of a job: its result gains a part, and the sweep leaves an array that is held. -/
theorem jobEnds {arr : Nat} (h : allHeld s a) (core id : Nat) : ∃ t, sweepCore (fillOwed (arraySet s arr a) (some id) []) core = t ∧
    t.groups = s.groups ∧ sameBytes s t ∧ arrayGet t arr = a ∧ resultGains s t (some id) [] := by
  have harr : arrayGet (fillOwed (arraySet s arr a) (some id) []) arr = a := (arrayGet_arraySet s arr a arr).trans (if_pos rfl)
  have hheld : allHeld (fillOwed (arraySet s arr a) (some id) []) a := (allHeld_congr rfl a).2 h
  have hsweep := arrayGet_sweepCore (by rwa [harr]) core
  obtain ⟨x, hx⟩ := sweepCore_frame (fillOwed (arraySet s arr a) (some id) []) core
  rw [harr] at hsweep
  rw [hx] at hsweep ⊢
  exact ⟨_, rfl, rfl, fun _ _ => byteOf_congr rfl rfl rfl _ fun _ => rfl, hsweep, fillOwed_resultGains s id []⟩

/-- What a K step answers: the job's tile and the slots of its array, and either the next step of the job or its end. -/
theorem mloopKStep_spec {core x : Nat} (hx : x < 4) (ha : arrayGet s (arrayIx core x) = a) {before after_ : List Job} {T : Tile}
    (hjobs : a.jobs = before ++ j :: after_) (hready : stepReady s.now a before j)
    (hfirst : ∀ p k q, before = p ++ k :: q → ¬ stepReady s.now a p k)
    (hoa : tfind a.slots j.stepSlots.1 = some oa) (hob : tfind a.slots j.stepSlots.2 = some ob)
    (hT : tfind a.tiles j.tile = some T) (hheld : allHeld s a) (hn : j.n ≤ 64) :
    ∃ t, exec (.mloopKStep core x) s = .next t ∧ t.groups = s.groups ∧ sameBytes s t ∧
      (arrayGet t (arrayIx core x)).tile j.tile = (kStep j T oa ob).2 ∧
      (∀ k, slotGet t (arrayIx core x) k = tfind (stepArray a j oa ob).slots k) ∧
      (j.step + 1 = j.count → (arrayGet t (arrayIx core x)).jobs = before ++ after_ ∧ resultGains s t (some j.owed) []) ∧
      (¬ j.step + 1 = j.count → t.owed = s.owed ∧ (arrayGet t (arrayIx core x)).jobs = before ++ (kStep j T oa ob).1 :: after_) := by
  have hT' : a.tile j.tile = T := by rw [MatArray.tile, hT]; rfl
  have htile := stepArray_tile (a := a) (j := j) (oa := oa) (ob := ob)
  rw [exec_mloopKStep hx ha hjobs hready hfirst hoa hob, ← hT']
  by_cases hlast : j.step + 1 = j.count
  · obtain ⟨t, ht, hgroups, hbytes, harr, hgains⟩ := jobEnds (arr := arrayIx core x) (core := core) (id := j.owed)
      (show allHeld s { stepArray a j oa ob with jobs := before ++ after_ } from allHeld_stepArray hheld hn hT)
    rw [if_pos hlast, ht]
    refine ⟨t, rfl, hgroups, hbytes, by rw [harr]; exact htile, fun k => by rw [slotGet_eq, harr], fun _ => ⟨by rw [harr], hgains⟩,
      fun h => absurd hlast h⟩
  · rw [if_neg hlast]
    have harr : ∀ b, arrayGet (arraySet s (arrayIx core x) b) (arrayIx core x) = b := fun b =>
      (arrayGet_arraySet s _ b _).trans (if_pos rfl)
    refine ⟨_, rfl, rfl, arraySet_sameBytes s _ _, by rw [harr]; exact htile, fun k => by rw [slotGet_eq, harr],
      fun h => absurd h hlast, fun _ => ⟨rfl, by rw [harr]⟩⟩

theorem Job.promotes_iff (j : Job) : j.promotes = true ↔ j.since + 1 = j.p ∨ j.step + 1 = j.count := by
  simp [Job.promotes]

/-- Settles O28: the K step by what its elements, its slots and its queue become; the sums by their exact values. -/
theorem kStepsRun : Obligations.KStepsRun := by
  refine ⟨?_, ⟨fun ps => blockSum_zeros, fun ps E => blockSum_rounds, fun ps sg => blockSum_nan, fun ps n => blockSum_inf,
    fun x y => ⟨accAdd_nan, fun n => accAdd_inf⟩, fun x y u v => accAdd_rounds⟩⟩
  intro s core x before j after_ oa ob T hx arr a sa sb hjobs hready hfirst hoa hob hT hheld hm hn ⟨hf, hf'⟩ last promotes
  obtain ⟨t, hexec, hgroups, hbytes, htile, hslots, hlast, hnot⟩ := mloopKStep_spec hx rfl hjobs hready hfirst hoa hob hT hheld hn
  obtain ⟨hjob, hkept, hrun, hacc⟩ := kStep_spec hn T oa ob
  have hp : j.promotes = true ↔ promotes := j.promotes_iff
  refine ⟨fun m n => stepRun j oa ob m n (tget 0 j.run (64 * m + n)).toNat,
    fun m n => promote (tget 0 T.acc (64 * m + n)).toNat (stepRun j oa ob m n (tget 0 j.run (64 * m + n)).toNat), t, _,
    fun m n _ _ => ⟨stepRun_elementSum j oa ob hf hf' m n _, promote_promoted _ _⟩, hexec, hgroups, hbytes, htile,
    by rw [hkept], by rw [hkept], fun m n _ hn64 => ?_, fun k => ?_, hlast, fun h => ?_⟩
  · refine (hacc m n hn64).trans ?_
    by_cases hin : m < j.m ∧ n < j.n
    · rw [if_pos hin]
      exact if_congr (hp.trans ⟨fun h => ⟨hin.1, hin.2, h⟩, fun ⟨_, _, h⟩ => h⟩) rfl rfl
    · rw [if_neg hin]
      exact (if_neg fun ⟨hm, hn, _⟩ => hin ⟨hm, hn⟩).symm
  · rw [hslots, stepArray, tfind_releaseSlots]
    rfl
  · obtain ⟨howed, hqueue⟩ := hnot h
    refine ⟨howed, _, hqueue, hjob.trans ?_, fun m n hm hn => (hrun m n hm hn).trans ?_⟩
    · simp only [hp]
    · simp only [runAfter, hp]
      rfl

end Sys2Proof.Machine
end

section
/-! PROOF of O4 and O7. What a float instruction leaves: its results, its flags and its frame (R61, R101, R105). -/

namespace Sys2Proof.Machine
open Sys2Proof

/-! ## Flags -/

theorem getLsbD_foldl_flags {α : Type} (fl : α → FFlags) (ls : List α) (old : FFlags) (b : Nat) :
    (ls.foldl (fun x l => x ||| fl l) old).getLsbD b = true ↔ old.getLsbD b = true ∨ ∃ l, l ∈ ls ∧ (fl l).getLsbD b = true := by
  induction ls generalizing old with
  | nil => simp
  | cons l ls ih => simp [ih, or_assoc]

theorem foldl_lanes_gathersFlags (fl : Nat → FFlags) (act : W32) (old : FFlags) :
    gathersFlags old ((lanesOf act).foldl (fun x l => x ||| fl l) old) act fl := by
  intro b _
  simp only [getLsbD_foldl_flags, mem_lanesOf, and_assoc]

/-- Where no lane raises a flag, %fflags stays. -/
theorem gathersFlags_none {old new : FFlags} {act : W32} (h : gathersFlags old new act fun _ => 0) : new = old := by
  refine BitVec.eq_of_getLsbD_eq fun b hb => ?_
  rw [Bool.eq_iff_iff, h b hb]
  simp

/-! ## The group that a float instruction leaves -/

theorem putGroup_injective {s : State} {gid : Nat} {g h : Group} (e : putGroup s gid g = putGroup s gid h) : g = h := by
  have := congrArg (fun t : State => tfind t.groups gid) e
  simpa [putGroup, tfind_tput_self] using this

theorem pastG_with_fflags (now : Nat) (i : Iss) (g : Group) (ff : FFlags) :
    pastG now i { g with fflags := ff } = { pastG now i g with fflags := ff } := by
  have hs : slotOf { g with fflags := ff } i.n = slotOf g i.n := by
    unfold slotOf
    split <;> rfl
  rw [pastG, pastG, hs]
  unfold setSlot
  split <;> rfl

/-- The frame of a group whose flags alone differ from another's. -/
theorem RegisterEffect.with_fflags {s : State} {i : Iss} {g : Group} {vs ks ms : Nat → Prop} {codes : Codes} {ff ff' : FFlags}
    (h : RegisterEffect s i g vs ks ms codes ff) : RegisterEffect s i { g with fflags := ff' } vs ks ms codes ff' where
  vector := h.vector
  scalar := h.scalar
  hidden := h.hidden
  mask := h.mask
  fflags := rfl
  slots := h.slots
  handlerSlot := h.handlerSlot
  rest := by
    have hr := h.rest
    generalize g.vregs = a, g.kregs = b, g.mregs = c, g.fflags = d, g.handler = e, g.slot0 = p, g.slot1 = q at hr
    subst hr
    rfl

theorem vSpan_with_fflags (g : Group) (ff : FFlags) (c l n : Nat) : vSpan { g with fflags := ff } c l n = vSpan g c l n := by
  induction n generalizing c with
  | zero => rfl
  | succ n ih => rw [vSpan, vSpan, ih]; rfl

/-- The group after a float instruction: that of the same writes, with the lanes' flags raised. -/
theorem falu_executes_flags {s : State} {i : Iss} {u : Uses} {p : MCode} {f : Iss → Nat → List RegWrite × FFlags}
    (h : Executes s i { u with ms := p.toNat :: u.ms }) :
    falu s u p f = .next (putGroup s i.gid { pastG s.now i (applyWrites i.g ((lanesOf (i.active p)).flatMap fun l => (f i l).1)) with
      fflags := (lanesOf (i.active p)).foldl (fun x l => x ||| (f i l).2) i.g.fflags }) := by
  rw [falu_executes h, pastG_with_fflags, applyWrites_fflags, List.flatMap_map, List.foldl_map]

/-- A float instruction that writes n registers from code d in each active lane completes: the destination holds the numbers it
computes, cut to the registers, %fflags gains the lanes' flags, and the frame holds. -/
theorem falu_lanes {s : State} {i : Iss} {u : Uses} {p : MCode} {d n : Nat} {v : Iss → Nat → Nat × FFlags}
    (h : Executes s i { u with ms := p.toNat :: u.ms }) :
    ∃ g', falu s u p (fun i l => (laneWrites i.g d l n (v i l).1, (v i l).2)) = .next (putGroup s i.gid g') ∧
      (∀ l, l < 32 → laneIn (i.active p) l = true → vSpan g' d l n = (v i l).1 % 2 ^ (32 * n)) ∧
      gathersFlags i.g.fflags g'.fflags (i.active p) (fun l => (v i l).2) ∧
      RegisterEffect s i g' (i.elements d n (i.active p)) nowhere nowhere i.slot.path.codes g'.fflags := by
  obtain ⟨g, hg, hval, heff⟩ := valu_lanes (d := d) (n := n) (v := fun i l => (v i l).1) h
  rw [valu_executes h] at hg
  obtain rfl := putGroup_injective (Host.Outcome.next.inj hg)
  exact ⟨_, falu_executes_flags h, fun l hl ha => (vSpan_with_fflags _ _ d l n).trans (hval l hl ha),
    foldl_lanes_gathersFlags (fun l => (v i l).2) _ _, heff.with_fflags⟩

/-! ## A mask as the destination (R77, R109) -/

/-- The lanes that are written take their bits; every other lane of the mask keeps its own. -/
theorem applyWrites_maskLanes (g : Group) {md : Nat} (hmd : md ≠ 0) (b : Nat → Bool) (ls : List Nat) {x : Nat} (hx : x < 32) :
    laneIn (mGet (applyWrites g (ls.map fun l => .maskLane md l (b l))) md) x = if x ∈ ls then b x else laneIn (mGet g md) x := by
  unfold applyWrites
  induction ls generalizing g with
  | nil => simp
  | cons l ls ih =>
    have hstep : laneIn (mGet (applyWrite g (.maskLane md l (b l))) md) x = if x = l then b l else laneIn (mGet g md) x := by
      simp [mGet, applyWrite, hmd, laneIn_setLane _ _ hx]
    rw [List.map_cons, List.foldl_cons, ih, hstep]
    by_cases h : x = l
    · simp [h]
    · simp [h]

theorem applyWrites_mGet_other {g : Group} {ws : List RegWrite} {md m : Nat} (hw : ∀ w, w ∈ ws → ∃ l b, w = .maskLane md l b)
    (hne : m ≠ md) : mGet (applyWrites g ws) m = mGet g m := by
  unfold applyWrites
  induction ws generalizing g with
  | nil => rfl
  | cons w ws ih =>
    obtain ⟨l, b, rfl⟩ := hw w List.mem_cons_self
    rw [List.foldl_cons, ih fun w hm => hw w (List.mem_cons_of_mem _ hm)]
    by_cases hmd : md = 0
    · simp [applyWrite, hmd]
    · simp [mGet, applyWrite, hmd, tget_tset_other _ _ _ _ hne]

/-- The frame of a group whose slot goes past an instruction that writes bits of one mask only. -/
theorem maskLanes_effect {s : State} {i : Iss} {ws : List RegWrite} {md : Nat} (hi : issuer s = some i)
    (hw : ∀ w, w ∈ ws → ∃ l b, w = .maskLane md l b) :
    RegisterEffect s i (pastG s.now i (applyWrites i.g ws)) nowhere nowhere (· = md) i.slot.path.codes i.g.fflags := by
  have hv : (applyWrites i.g ws).vregs = i.g.vregs :=
    applyWrites_vregs_same fun r l y hm => by obtain ⟨_, _, h⟩ := hw _ hm; cases h
  have hk : (applyWrites i.g ws).kregs = i.g.kregs :=
    applyWrites_kregs_kept fun n y hm => by obtain ⟨_, _, h⟩ := hw _ hm; cases h
  have hh : (applyWrites i.g ws).handler = i.g.handler :=
    applyWrites_handler_kept fun n y hm => by obtain ⟨_, _, h⟩ := hw _ hm; cases h
  have hs : ∀ n, slotOf (applyWrites i.g ws) n = slotOf i.g n := by
    intro n; unfold slotOf; split <;> simp
  exact
    { vector := fun x _ => by simp [hv]
      scalar := fun c _ _ => by simp [kGet, hk, hh]
      hidden := fun _ c _ => by simp [hk]
      mask := fun m hne => by simpa [mGet] using applyWrites_mGet_other (g := i.g) hw hne
      fflags := by simp
      slots := pastG_advanced (issuer_lt hi) (by rw [hs, issuer_slot hi, Slot.withCodes_self]) (hs _)
      handlerSlot := by simp [hh]
      rest := by
        apply group_eq <;> simp }

/-- A destination mask is not m0 (R11). -/
theorem Executes.mdst_ne_zero {s : State} {i : Iss} {u : Uses} (h : Executes s i u) {md : Nat} (hm : md ∈ u.mdst) : md ≠ 0 := by
  rintro rfl
  have hp := h.passes
  have hbad : (!(u.vs.all (VUse.legal i.g)) || !(u.ks.all fun k => decide (k < 160)) || u.mdst.contains 0
      || !(u.ranges.all (rangeLegal i.g)) || !(u.live.all (rangeLegal i.g))) = true := by simp [hm]
  rw [checkUses, hbad] at hp
  split at hp <;> cases hp

/-- A float instruction that writes a bit of a mask in each active lane completes: the mask holds its bits there, %fflags gains the
lanes' flags, and the frame holds. -/
theorem falu_mask {s : State} {i : Iss} {u : Uses} {p : MCode} {md : Nat} {b : Iss → Nat → Bool} {fl : Iss → Nat → FFlags}
    (h : Executes s i { u with ms := p.toNat :: u.ms }) (hmd : md ∈ u.mdst) :
    ∃ g', falu s u p (fun i l => ([.maskLane md l (b i l)], fl i l)) = .next (putGroup s i.gid g') ∧
      (∀ l, l < 32 → laneIn (mGet g' md) l = if laneIn (i.active p) l then b i l else laneIn (mGet i.g md) l) ∧
      gathersFlags i.g.fflags g'.fflags (i.active p) (fl i) ∧
      RegisterEffect s i g' nowhere nowhere (· = md) i.slot.path.codes g'.fflags := by
  have hws : ((lanesOf (i.active p)).flatMap fun l => [RegWrite.maskLane md l (b i l)]) =
      (lanesOf (i.active p)).map fun l => RegWrite.maskLane md l (b i l) := List.map_eq_flatMap.symm
  refine ⟨_, falu_executes_flags h, fun l hl => ?_, foldl_lanes_gathersFlags (fl i) _ _, (maskLanes_effect h.issuing ?_).with_fflags⟩
  · have := applyWrites_maskLanes i.g (h.mdst_ne_zero hmd) (b i) (lanesOf (i.active p)) hl
    simp only [mem_lanesOf, hl, true_and] at this
    rw [← this, hws]
    simp [mGet]
  · rw [hws]
    simp only [List.mem_map]
    rintro w ⟨l, -, rfl⟩
    exact ⟨_, _, rfl⟩

end Sys2Proof.Machine
end

section
/-! PROOF of O4 and O7. The instructions of the table, each a float operation of the VALU (R101 to R119). -/

namespace Sys2Proof.Machine
open Sys2Proof

/-! ## Registers under a type -/

theorem signedAt_eq_toInt (w x : Nat) : signedAt w x = (BitVec.ofNat w x).toInt := by
  have h : x % 2 ^ w < 2 ^ (w - 1) ↔ 2 * (x % 2 ^ w) < 2 ^ w := by
    cases w with
    | zero => simp [Nat.mod_one]
    | succ w => rw [Nat.add_sub_cancel, pow_succ]; omega
  simp only [signedAt, BitVec.toInt_eq_toNat_cond, BitVec.toNat_ofNat, h]

theorem wrapBits_toInt {w r : Nat} (x : BitVec w) : wrapBits r x.toInt = (x.signExtend r).toNat := by
  rw [wrapBits, BitVec.signExtend, BitVec.toNat_ofInt]

/-- A narrow result as its registers hold it (R56). -/
theorem extendTo_eq_held (t : Ty) (x : Nat) : extendTo t (32 * tyRegs t) x = t.held (32 * tyRegs t) (bitsAt t x) := by
  have hw : tyWidth t ≤ 32 * tyRegs t := by cases t <;> decide
  have hlt : x % 2 ^ tyWidth t < 2 ^ (32 * tyRegs t) := (Nat.mod_lt _ (by positivity)).trans_le (Nat.pow_le_pow_right two_pos hw)
  unfold extendTo tyVal Ty.held bitsAt
  rw [signedAt_eq_toInt]
  cases t.isSigned with
  | true =>
    rw [if_pos rfl, if_pos rfl, wrapBits_toInt]
    split
    · rfl
    · rw [show 32 * tyRegs t = tyWidth t by omega, BitVec.signExtend_eq, BitVec.toNat_ofNat]
  | false =>
    rw [if_neg Bool.false_ne_true, if_neg Bool.false_ne_true, BitVec.toNat_ofNat, wrapBits, ← Int.natCast_mod, Int.toNat_natCast,
      Nat.mod_eq_of_lt hlt, ite_self]

/-- A format's patterns are read from their low bits (R101). -/
theorem unpack_mod (f : Fmt) (x : Nat) : unpack f (x % (2 * f.signBit)) = unpack f x := by
  have hsplit : 2 * f.signBit = 2 ^ f.fbits * (2 ^ f.ebits * 2) := by rw [Fmt.signBit, pow_add]; ring
  have hneg : (x % (2 * f.signBit)).testBit (f.ebits + f.fbits) = x.testBit (f.ebits + f.fbits) := by
    rw [Fmt.signBit, ← pow_succ', Nat.testBit_mod_two_pow]
    simp
  have hex : x % (2 * f.signBit) / 2 ^ f.fbits % 2 ^ f.ebits = x / 2 ^ f.fbits % 2 ^ f.ebits := by
    rw [hsplit, Nat.mod_mul_right_div_self, Nat.mod_mul_right_mod]
  have hfr : x % (2 * f.signBit) % 2 ^ f.fbits = x % 2 ^ f.fbits := by rw [hsplit, Nat.mod_mul_right_mod]
  simp only [unpack, hneg, hex, hfr]

theorem fClass_mod (f : Fmt) (x : Nat) : fClass f (x % (2 * f.signBit)) = fClass f x := by
  have hex : x % (2 * f.signBit) / 2 ^ f.fbits % 2 ^ f.ebits = x / 2 ^ f.fbits % 2 ^ f.ebits := by
    rw [show 2 * f.signBit = 2 ^ f.fbits * (2 ^ f.ebits * 2) by rw [Fmt.signBit, pow_add]; ring, Nat.mod_mul_right_div_self,
      Nat.mod_mul_right_mod]
  rw [fClass, fClass, unpack_mod, hex]

theorem fld_zero (x n : Nat) : fld x 0 n = x % 2 ^ n := by rw [fld, pow_zero, Nat.div_one]

theorem tyRegs_of_plainFloat {t : Ty} (h : t.isPlainFloat = true) : tyRegs t = 1 := by
  revert h
  cases t <;> decide

/-- The class of an operand of f32, f16 or bf16, read in its type. -/
theorem fClass_operand {t : Ty} (h : t = .f32 ∨ t = .f16 ∨ t = .bf16) (x : Nat) :
    fClass ((fmtOf t).getD fmtF32) (x % 2 ^ tyWidth t) =
      if t = .f32 then fClass fmtF32 x else fClass (packedFmt t) (fld x 0 16) := by
  obtain rfl | rfl | rfl := h
  · exact fClass_mod fmtF32 x
  · rw [fld_zero]
    rfl
  · rw [fld_zero]
    rfl

/-- Element 0 or 1 of a packed operand, as the model reads it. -/
theorem pkSrc_eq_half {t : Ty} (h : t = .f16 ∨ t = .bf16) (i : Iss) (a : VCode) (neg abs : Bool) (l j : Nat) :
    pkSrc t i a neg abs l j = i.half (packedFmt t) a neg abs l j := by
  have hf : (fmtOf t).getD fmtF16 = packedFmt t := by obtain rfl | rfl := h <;> rfl
  rw [pkSrc, hf, Iss.half, fld, pow_mul]
  rfl

/-! ## The table -/

/-- An instruction of the table is the float operation that its entry names. -/
theorem exec_valuFloat {ins : Instr} {L : FloatSpec} (hL : valuFloat ins = some L) (hwf : ins.wf = true) (s : State) :
    ∃ d n srcs p v, L = floatSpec d n srcs p v ∧
      exec ins s = falu s { vs := vreg d n :: srcs } p fun i l => (laneWrites i.g d.toNat l n (v i l).1, (v i l).2) := by
  cases ins with
  | fadd | fsub | fmul | ffma | fmin | fmax | frint | frcp | fsqrt | frsq | fexp2 | flog2 | lmul | lsum =>
    exact ⟨_, _, _, _, _, (Option.some.inj hL).symm, rfl⟩
  | fclass d a p t =>
    refine ⟨_, _, _, _, _, (Option.some.inj hL).symm, congrArg (falu s _ p) (funext₂ fun i l => ?_)⟩
    have ht : t = .f32 ∨ t = .f16 ∨ t = .bf16 := by simpa [Instr.wf, or_assoc] using hwf
    exact congrArg (fun x => (laneWrites i.g d.toNat l 1 x, (0 : FFlags))) (fClass_operand ht _)
  | fscale d a b p r na aa =>
    refine ⟨_, _, _, _, _, (Option.some.inj hL).symm, congrArg (falu s _ p) (funext₂ fun i l => ?_)⟩
    rw [signedAt_eq_toInt]
    rfl
  | fcvt d a b p t src r =>
    refine ⟨_, _, _, _, _, (Option.some.inj hL).symm, congrArg (falu s _ p) (funext₂ fun i l => ?_)⟩
    rw [fld_zero]
    rfl
  | pkfma d a b c p t r na nb nc aa ab =>
    refine ⟨_, _, _, _, _, (Option.some.inj hL).symm, congrArg (falu s _ p) (funext₂ fun i l => ?_)⟩
    have ht : t = .f16 ∨ t = .bf16 := by simpa [Instr.wf] using hwf
    have hf : (fmtOf t).getD fmtF16 = packedFmt t := by obtain rfl | rfl := ht <;> rfl
    simp only [pkSrc_eq_half ht, hf]
    rfl
  | fdot2 d a b c p t r na nb nc aa ab =>
    refine ⟨_, _, _, _, _, (Option.some.inj hL).symm, congrArg (falu s _ p) (funext₂ fun i l => ?_)⟩
    have ht : t = .f16 ∨ t = .bf16 := by simpa [Instr.wf] using hwf
    simp only [pkSrc_eq_half ht]
    rfl
  | icvt d a p t src r =>
    refine ⟨_, _, _, _, _, (Option.some.inj hL).symm, congrArg (falu s _ p) (funext₂ fun i l => ?_)⟩
    by_cases ht : t.isArith = true
    · simp only [ht, if_true, vResult, extendTo_eq_held]
    · have hp : t.isPlainFloat = true := by simp only [Instr.wf, ht, Bool.false_and, Bool.false_or, Bool.and_eq_true] at hwf; exact hwf.1
      simp only [ht, tyRegs_of_plainFloat hp]
      rfl
  | _ => cases hL

theorem valuFloat_completes {s : State} {ins : Instr} {L : FloatSpec} {i : Iss} (hL : valuFloat ins = some L) (hwf : ins.wf = true)
    (h : Executes s i L.uses) : ∃ g', exec ins s = .next (putGroup s i.gid g') ∧
    (∀ l, l < 32 → laneIn (i.active L.pred) l = true → vSpan g' L.dst l L.regs = (L.value i l).1 % 2 ^ (32 * L.regs)) ∧
    gathersFlags i.g.fflags g'.fflags (i.active L.pred) (fun l => (L.value i l).2) ∧
    RegisterEffect s i g' (i.elements L.dst L.regs (i.active L.pred)) nowhere nowhere i.slot.path.codes g'.fflags := by
  obtain ⟨d, n, srcs, p, v, rfl, hexec⟩ := exec_valuFloat hL hwf s
  rw [hexec]
  exact falu_lanes (u := { vs := vreg d n :: srcs }) (v := v) h

end Sys2Proof.Machine
end

section
/-! PROOF of O7. The class of a pattern (R110). -/

namespace Sys2Proof.Machine
open Sys2Proof

variable {f : Fmt}

/-- A finite number of a format: a subnormal one or a zero has exponent field 0, a normal one an integer bit. -/
theorem unpack_eq_fin {x : Nat} {n : Bool} {m : Nat} {e : Int} (h : unpack f x = .fin n m e) :
    (x / 2 ^ f.fbits % 2 ^ f.ebits = 0 ∧ m < 2 ^ f.fbits ∧ e = f.emin - f.fbits) ∨
    ∃ j : Nat, x / 2 ^ f.fbits % 2 ^ f.ebits = j + 1 ∧ j + 2 < 2 ^ f.ebits ∧ 2 ^ f.fbits ≤ m ∧ m < 2 * 2 ^ f.fbits ∧
      e = f.emin - f.fbits + j := by
  have hfr : x % 2 ^ f.fbits < 2 ^ f.fbits := Nat.mod_lt _ (by positivity)
  have hex : x / 2 ^ f.fbits % 2 ^ f.ebits < 2 ^ f.ebits := Nat.mod_lt _ (by positivity)
  simp only [unpack] at h
  split at h
  · split at h <;> cases h
  · split at h <;> cases h
    · exact .inl ⟨‹_›, hfr, rfl⟩
    · exact .inr ⟨_, by omega, by omega, by omega, by omega, rfl⟩

theorem value_fin_eq_zero {n : Bool} {m : Nat} {e : Int} {q : Rat} (h : (FVal.fin n m e).value = some q) : q = 0 ↔ m = 0 := by
  rw [← (FVal.value_eq_some h).2.2.2, FVal.isZero, decide_eq_true_iff]

theorem abs_value_fin {n : Bool} {m : Nat} {e : Int} {q : Rat} (h : (FVal.fin n m e).value = some q) : |q| = m * 2 ^ e := by
  obtain rfl := Option.some.inj h
  exact abs_signed n m e

/-- A number lies below the least normal one where its exponent field is 0. -/
theorem abs_value_lt_iff {x : Nat} {n : Bool} {m : Nat} {e : Int} {q : Rat} (h : unpack f x = .fin n m e)
    (hq : (FVal.fin n m e).value = some q) : |q| < (2 : Rat) ^ f.emin ↔ x / 2 ^ f.fbits % 2 ^ f.ebits = 0 := by
  have hemin : (2 : Rat) ^ f.emin = (2 ^ f.fbits : Nat) * 2 ^ (f.emin - f.fbits) := by
    rw [zpow_sub₀ two_ne_zero, zpow_natCast]
    push_cast
    field_simp
  have hu : (0 : Rat) < 2 ^ (f.emin - f.fbits) := zpow_pos two_pos _
  rw [abs_value_fin hq, hemin]
  obtain ⟨hex, hm, rfl⟩ | ⟨j, hex, -, hm, -, rfl⟩ := unpack_eq_fin h
  · rw [mul_lt_mul_iff_left₀ hu]
    exact iff_of_true (by exact_mod_cast hm) hex
  · refine iff_of_false (not_lt.2 ?_) (by omega)
    exact mul_le_mul (by exact_mod_cast hm) (zpow_le_zpow_right₀ one_le_two (by omega)) hu.le (by positivity)

/-- FCLASS sets the bit of its operand's class, and no other. -/
theorem fClass_classBit (f : Fmt) (x : Nat) : ∃ bit, bit < 10 ∧ classBit f x bit ∧ fClass f x = 2 ^ bit := by
  unfold classBit fClass
  cases hx : unpack f x with
  | nan sg =>
    refine ⟨if sg then 9 else 8, by split <;> omega, ⟨fun _ h => by cases h; rfl, nofun, nofun⟩, ?_⟩
    cases sg <;> rfl
  | inf n =>
    refine ⟨if n then 7 else 6, by split <;> omega, ⟨nofun, fun _ h => by cases h; rfl, nofun⟩, ?_⟩
    cases n <;> rfl
  | fin n m e =>
    refine ⟨(if m = 0 then 0 else if x / 2 ^ f.fbits % 2 ^ f.ebits = 0 then 2 else 4) + if n then 1 else 0, ?_,
      ⟨nofun, nofun, fun q hq => ?_⟩, ?_⟩
    · split_ifs <;> omega
    · rw [if_congr (value_fin_eq_zero hq) rfl (if_congr (abs_value_lt_iff hx hq) rfl rfl)]
      rfl
    · cases n <;> simp only <;> split_ifs <;> rfl

/-- Settles O7: FCLASS is an instruction of the float table, its result the bit of its operand's class, and its flags none. -/
theorem classBits : Obligations.ClassBits := by
  intro s i d a p t f n h ht
  have hwf : (Instr.fclass d a p t).wf = true := by
    obtain ⟨rfl, -⟩ | ⟨rfl, -⟩ | ⟨rfl, -⟩ := (by simpa only [Prod.mk.injEq] using ht) <;> rfl
  obtain ⟨g', hexec, hval, hflags, heff⟩ := valuFloat_completes rfl hwf h
  rw [gathersFlags_none hflags] at heff
  refine ⟨g', hexec, fun l hl ha => ?_, heff⟩
  obtain ⟨bit, hbit, hclass, hbits⟩ := fClass_classBit f (fld (srcLane i.g a.toNat l 1) 0 n)
  have hread : (if t = .f32 then fClass fmtF32 (srcLane i.g a.toNat l 1) else fClass (packedFmt t) (fld (srcLane i.g a.toNat l 1) 0 16)) =
      fClass f (fld (srcLane i.g a.toNat l 1) 0 n) := by
    obtain ⟨rfl, rfl, rfl⟩ | ⟨rfl, rfl, rfl⟩ | ⟨rfl, rfl, rfl⟩ := (by simpa only [Prod.mk.injEq] using ht)
    · rw [if_pos rfl, fld_zero]
      exact (fClass_mod fmtF32 _).symm
    · rfl
    · rfl
  refine ⟨bit, hclass, (hval l hl ha).trans ?_⟩
  exact (congrArg (· % 2 ^ 32) (hread.trans hbits)).trans (Nat.mod_eq_of_lt (Nat.pow_lt_pow_right (by decide) (by omega)))

end Sys2Proof.Machine
end

section
/-! PROOF of O4. Sums and products of finite values: exact, then rounded once (R60, R106, R114). -/

namespace Sys2Proof.Machine
open Sys2Proof

variable {f : Fmt} {r : Rnd} {x y z x' y' : FVal} {p q w p' q' : Rat}

theorem roundFin_roundsOnce {n : Bool} {m : Nat} {e : Int} (h : (FVal.fin n m e).value = some p) (f : Fmt) (r : Rnd) :
    roundsOnce f r p n (roundFin f r n m e false) := by
  refine ⟨fun h0 => ?_, fun _ => ⟨n, m, e, Option.some.inj h, rfl⟩⟩
  rw [(value_fin_eq_zero h).1 h0, roundFin_zero]

theorem fAdd_roundsOnce (hx : x.value = some p) (hy : y.value = some q) :
    roundsOnce f r (p + q) (zeroSumSign r [(p, x.sign), (q, y.sign)]) (fAdd f r x y) := by
  rw [fAdd_finite hx hy, zeroSumSign_pair hx hy, ← (FVal.value_eq_some hx).1, ← (FVal.value_eq_some hy).1, ← Dy.val_add]
  exact roundDy_roundsOnce f r _ _

/-- The product of two finite values is a finite one, of their signs' product. -/
theorem fProd_finite (hx : x.value = some p) (hy : y.value = some q) :
    ∃ v : FVal, fProd x y = (v, 0) ∧ v.value = some (p * q) ∧ v.sign = (x.sign != y.sign) := by
  obtain ⟨a, m, e, rfl⟩ := FVal.exists_fin hx
  obtain ⟨b, n, d, rfl⟩ := FVal.exists_fin hy
  obtain rfl := Option.some.inj hx
  obtain rfl := Option.some.inj hy
  exact ⟨_, fProd_fin a b m n e d, value_fin_mul a b m n e d, rfl⟩

theorem fMul_roundsOnce (hx : x.value = some p) (hy : y.value = some q) :
    roundsOnce f r (p * q) (x.sign != y.sign) (fMul f r x y) := by
  obtain ⟨v, hprod, hv, hs⟩ := fProd_finite hx hy
  obtain ⟨n, m, e, rfl⟩ := FVal.exists_fin hv
  rw [fMul, hprod, ← hs]
  exact roundFin_roundsOnce hv f r

/-! ## Fused operations -/

/-- A fused multiply-add of a product that is a number is a sum, but for a NaN addend (R106). -/
theorem fFma_number {v : FVal} (hprod : fProd x y = (v, 0)) (hv : v.isNan = false) :
    fFma f r x y z = if z.isNan then (f.nan, if x.isSNan || y.isSNan || z.isSNan then ffNV else 0) else fAdd f r v z := by
  rw [fFma, hprod]
  cases v with
  | nan => cases hv
  | inf => rfl
  | fin => rfl

theorem fFma_roundsOnce (hx : x.value = some p) (hy : y.value = some q) (hz : z.value = some w) :
    roundsOnce f r (p * q + w) (zeroSumSign r [(p * q, x.sign != y.sign), (w, z.sign)]) (fFma f r x y z) := by
  obtain ⟨v, hprod, hv, hs⟩ := fProd_finite hx hy
  obtain ⟨-, hvn, -⟩ := FVal.value_eq_some hv
  obtain ⟨-, hzn, -⟩ := FVal.value_eq_some hz
  rw [fFma_number hprod hvn, hzn, ← hs]
  exact fAdd_roundsOnce hv hz

theorem FVal.isZero_of_value (hx : x.value = some p) : x.isZero = decide (p = 0) := by
  rw [Bool.eq_iff_iff, (FVal.value_eq_some hx).2.2.2, decide_eq_true_iff]

/-- Three finite terms are added exactly and rounded once (R114). -/
theorem fDot2_roundsOnce (hx : x.value = some p) (hy : y.value = some q) (hx' : x'.value = some p') (hy' : y'.value = some q')
    (hz : z.value = some w) : roundsOnce f r (p * q + p' * q' + w)
      (zeroSumSign r [(p * q, x.sign != y.sign), (p' * q', x'.sign != y'.sign), (w, z.sign)]) (fDot2 f r x y x' y' z) := by
  obtain ⟨v, hprod, hv, hs⟩ := fProd_finite hx hy
  obtain ⟨v', hprod', hv', hs'⟩ := fProd_finite hx' hy'
  have hsum : fDot2 f r x y x' y' z = roundDy f r ((v.dy.add v'.dy).add z.dy)
      (zeroSumSign r [(p * q, x.sign != y.sign), (p' * q', x'.sign != y'.sign), (w, z.sign)]) := by
    simp [fDot2, hprod, hprod', zeroSumSign, ← hs, ← hs', FVal.isZero_of_value, hv, hv', hz,
      (FVal.value_eq_some hx).2.1, (FVal.value_eq_some hy).2.1, (FVal.value_eq_some hx').2.1, (FVal.value_eq_some hy').2.1,
      (FVal.value_eq_some hz).2.1, (FVal.value_eq_some hv).2.2.1, (FVal.value_eq_some hv').2.2.1, (FVal.value_eq_some hz).2.2.1]
  rw [hsum, ← (FVal.value_eq_some hv).1, ← (FVal.value_eq_some hv').1, ← (FVal.value_eq_some hz).1, ← Dy.val_add, ← Dy.val_add]
  exact roundDy_roundsOnce f r _ _

end Sys2Proof.Machine
end

section
/-! PROOF of O4. Sums and products of NaNs and infinities (R59, R106, R114). -/

namespace Sys2Proof.Machine
open Sys2Proof

variable {f : Fmt} {r : Rnd} {x y z : FVal} {n : Bool}

/-- An infinity times a zero. -/
def zeroTimesInf (x y : FVal) : Prop := (x.isInf = true ∧ y.isZero = true) ∨ (x.isZero = true ∧ y.isInf = true)

theorem zeroTimesInf_comm : zeroTimesInf x y ↔ zeroTimesInf y x := by
  unfold zeroTimesInf
  tauto

/-! ## Sums -/

theorem fAdd_nan (h : x.isNan = true ∨ y.isNan = true) : fAdd f r x y = (f.nan, if x.isSNan || y.isSNan then ffNV else 0) :=
  if_pos (Bool.or_eq_true_iff.2 h)

theorem fAdd_opposite_infinities (f : Fmt) (r : Rnd) (n : Bool) : fAdd f r (.inf n) (.inf (!n)) = (f.nan, ffNV) := by
  cases n <;> rfl

theorem fAdd_infinity (hy : y.isNan = false) (hne : y ≠ .inf (!n)) : fAdd f r (.inf n) y = (withSign f n f.infBits, 0) := by
  cases y with
  | nan => cases hy
  | inf k =>
    obtain rfl := FVal.inf_eq_of_ne hne
    exact if_pos rfl
  | fin => rfl

theorem Dy.add_comm (x y : Dy) : x.add y = y.add x := by
  rw [Dy.add, Dy.add, min_comm, Int.add_comm]

theorem zeroSumNeg_comm (r : Rnd) (a b : Bool) : zeroSumNeg r a b = zeroSumNeg r b a := by
  cases a <;> cases b <;> rfl

theorem fAdd_comm (f : Fmt) (r : Rnd) (x y : FVal) : fAdd f r x y = fAdd f r y x := by
  cases x with
  | nan a =>
    rw [fAdd_nan (.inl rfl), fAdd_nan (.inr rfl), Bool.or_comm]
  | inf a =>
    cases y with
    | nan b => rw [fAdd_nan (.inr rfl), fAdd_nan (.inl rfl), Bool.or_comm]
    | inf b => cases a <;> cases b <;> rfl
    | fin => rfl
  | fin a m e =>
    cases y with
    | nan b => rw [fAdd_nan (.inr rfl), fAdd_nan (.inl rfl), Bool.or_comm]
    | inf b => rfl
    | fin b k d =>
      rw [fAdd_finite rfl rfl, fAdd_finite rfl rfl, Dy.add_comm, zeroSumNeg_comm, Bool.and_comm]

/-! ## Products -/

theorem fProd_nan (h : x.isNan = true ∨ y.isNan = true) : fProd x y = (.nan (x.isSNan || y.isSNan), 0) :=
  if_pos (Bool.or_eq_true_iff.2 h)

theorem FVal.number_of_isInf (h : x.isInf = true) : x.isNan = false := by
  cases x with
  | inf => rfl
  | _ => cases h

theorem FVal.number_of_isZero (h : x.isZero = true) : x.isNan = false := by
  cases x with
  | fin => rfl
  | _ => cases h

theorem zeroTimesInf_numbers (h : zeroTimesInf x y) : x.isNan = false ∧ y.isNan = false := by
  obtain ⟨hx, hy⟩ | ⟨hx, hy⟩ := h
  · exact ⟨FVal.number_of_isInf hx, FVal.number_of_isZero hy⟩
  · exact ⟨FVal.number_of_isZero hx, FVal.number_of_isInf hy⟩

theorem fProd_zeroTimesInf (h : zeroTimesInf x y) : fProd x y = (.nan false, ffNV) := by
  obtain ⟨hx, hy⟩ := zeroTimesInf_numbers h
  have hvoid : (x.isInf && y.isZero || x.isZero && y.isInf) = true := by simpa [zeroTimesInf] using h
  simp [fProd, hx, hy, hvoid]

theorem fProd_inf (hx : x.isNan = false) (hy : y.isNan = false) (hz : ¬ zeroTimesInf x y) (h : x.isInf = true ∨ y.isInf = true) :
    fProd x y = (.inf (x.sign != y.sign), 0) := by
  have hvoid : (x.isInf && y.isZero || x.isZero && y.isInf) = false := by
    simpa [zeroTimesInf, or_iff_not_imp_left] using hz
  simp [fProd, hx, hy, hvoid, h]

theorem fProd_comm (x y : FVal) : fProd x y = fProd y x := by
  by_cases hnan : x.isNan = true ∨ y.isNan = true
  · rw [fProd_nan hnan, fProd_nan hnan.symm, Bool.or_comm]
  · simp only [not_or, Bool.not_eq_true] at hnan
    by_cases hz : zeroTimesInf x y
    · rw [fProd_zeroTimesInf hz, fProd_zeroTimesInf (zeroTimesInf_comm.1 hz)]
    · by_cases hinf : x.isInf = true ∨ y.isInf = true
      · rw [fProd_inf hnan.1 hnan.2 hz hinf, fProd_inf hnan.2 hnan.1 (mt zeroTimesInf_comm.1 hz) hinf.symm, bne_comm]
      · cases x with
        | nan => cases hnan.1
        | inf => simp [FVal.isInf] at hinf
        | fin a m e =>
          cases y with
          | nan => cases hnan.2
          | inf => simp [FVal.isInf] at hinf
          | fin b k d => rw [fProd_fin, fProd_fin, bne_comm, Nat.mul_comm, Int.add_comm]

theorem fMul_nan (h : x.isNan = true ∨ y.isNan = true) : fMul f r x y = (f.nan, if x.isSNan || y.isSNan then ffNV else 0) := by
  rw [fMul, fProd_nan h]

theorem fMul_zeroTimesInf (h : zeroTimesInf x y) : fMul f r x y = (f.nan, ffNV) := by
  rw [fMul, fProd_zeroTimesInf h]
  rfl

theorem fMul_inf (hx : x.isNan = false) (hy : y.isNan = false) (hz : ¬ zeroTimesInf x y) (h : x.isInf = true ∨ y.isInf = true) :
    fMul f r x y = (withSign f (x.sign != y.sign) f.infBits, 0) := by
  rw [fMul, fProd_inf hx hy hz h]

/-! ## Fused multiply-adds -/

theorem fFma_comm (f : Fmt) (r : Rnd) (x y z : FVal) : fFma f r x y z = fFma f r y x z := by
  rw [fFma, fFma, fProd_comm, Bool.or_comm x.isSNan]

theorem fFma_zeroTimesInf (h : zeroTimesInf x y) : fFma f r x y z = (f.nan, ffNV) := by
  rw [fFma, fProd_zeroTimesInf h]
  cases hs : (x.isSNan || y.isSNan || z.isSNan) <;> simp only <;> rfl

theorem fFma_inf (hx : x.isNan = false) (hy : y.isNan = false) (hz : ¬ zeroTimesInf x y) (h : x.isInf = true ∨ y.isInf = true)
    (hzn : z.isNan = false) : fFma f r x y z = fAdd f r (.inf (x.sign != y.sign)) z := by
  rw [fFma_number (fProd_inf hx hy hz h) rfl, hzn]
  rfl

/-- A product that is neither a NaN nor void is a number. -/
theorem fProd_number (hx : x.isNan = false) (hy : y.isNan = false) (hz : ¬ zeroTimesInf x y) : ∃ v : FVal, fProd x y = (v, 0) ∧ v.isNan = false := by
  by_cases hinf : x.isInf = true ∨ y.isInf = true
  · exact ⟨_, fProd_inf hx hy hz hinf, rfl⟩
  · cases x with
    | nan => cases hx
    | inf => simp [FVal.isInf] at hinf
    | fin a m e =>
      cases y with
      | nan => cases hy
      | inf => simp [FVal.isInf] at hinf
      | fin b k d => exact ⟨_, fProd_fin a b m k e d, rfl⟩

theorem fFma_nan (h : x.isNan = true ∨ y.isNan = true ∨ (z.isNan = true ∧ ¬ zeroTimesInf x y)) :
    fFma f r x y z = (f.nan, if x.isSNan || y.isSNan || z.isSNan then ffNV else 0) := by
  by_cases hnan : x.isNan = true ∨ y.isNan = true
  · rw [fFma, fProd_nan hnan]
    exact congrArg (Prod.mk f.nan) BitVec.zero_or
  · obtain ⟨hz, hvoid⟩ := (or_assoc.2 h).resolve_left hnan
    simp only [not_or, Bool.not_eq_true] at hnan
    obtain ⟨v, hprod, hv⟩ := fProd_number hnan.1 hnan.2 hvoid
    rw [fFma_number hprod hv, if_pos hz]

theorem fFma_finite_inf (hx : x.isFin = true) (hy : y.isFin = true) : fFma f r x y (.inf n) = (withSign f n f.infBits, 0) := by
  cases x with
  | fin a m e =>
    cases y with
    | fin b k d =>
      rw [fFma_number (fProd_fin a b m k e d) rfl]
      rfl
    | _ => cases hy
  | _ => cases hx

/-! ## Dot products (R114) -/

variable {x0 y0 x1 y1 : FVal}

theorem fDot2_zeroTimesInf (h : zeroTimesInf x0 y0 ∨ zeroTimesInf x1 y1) : fDot2 f r x0 y0 x1 y1 z = (f.nan, ffNV) := by
  have hflag : ((fProd x0 y0).2 != 0 || (fProd x1 y1).2 != 0) = true := by
    obtain h | h := h <;> simp [fProd_zeroTimesInf h, ffNV]
  simp only [fDot2, hflag, if_true]

/-- Only 0 × ∞ raises a flag of a product. -/
theorem fProd_no_flag (h : ¬ zeroTimesInf x y) : (fProd x y).2 = 0 := by
  by_cases hnan : x.isNan = true ∨ y.isNan = true
  · rw [fProd_nan hnan]
  · simp only [not_or, Bool.not_eq_true] at hnan
    obtain ⟨v, hprod, -⟩ := fProd_number hnan.1 hnan.2 h
    rw [hprod]

theorem fDot2_nan (h0 : ¬ zeroTimesInf x0 y0) (h1 : ¬ zeroTimesInf x1 y1) (h : ∃ x, x ∈ [x0, y0, x1, y1, z] ∧ x.isNan = true) :
    fDot2 f r x0 y0 x1 y1 z = (f.nan, if [x0, y0, x1, y1, z].any FVal.isSNan then ffNV else 0) := by
  simp only [fDot2, fProd_no_flag h0, fProd_no_flag h1, List.any_eq_true.2 h]
  rfl

/-- Whether a term of a dot product is the infinity of a sign. -/
def infTerm (x0 y0 x1 y1 z : FVal) (n : Bool) : Bool :=
  ((x0.isInf || y0.isInf) && (x0.sign != y0.sign) == n) || ((x1.isInf || y1.isInf) && (x1.sign != y1.sign) == n) || z == .inf n

/-- Where a product is a number, it is the infinity of a sign just where an operand is infinite and the signs' product is that sign. -/
theorem fProd_isInf (hx : x.isNan = false) (hy : y.isNan = false) (hz : ¬ zeroTimesInf x y) (n : Bool) :
    (fProd x y).1 = .inf n ↔ ((x.isInf || y.isInf) && (x.sign != y.sign) == n) = true := by
  by_cases hinf : x.isInf = true ∨ y.isInf = true
  · rw [fProd_inf hx hy hz hinf, Bool.or_eq_true_iff.2 hinf]
    simp
  · cases x with
    | nan => cases hx
    | inf => simp [FVal.isInf] at hinf
    | fin a m e =>
      cases y with
      | nan => cases hy
      | inf => simp [FVal.isInf] at hinf
      | fin b k d => simp [fProd_fin, FVal.isInf]

section
variable (hnan : ∀ x, x ∈ [x0, y0, x1, y1, z] → x.isNan = false) (h0 : ¬ zeroTimesInf x0 y0) (h1 : ¬ zeroTimesInf x1 y1)
include hnan h0 h1

/-- The infinities among the terms of a dot product of numbers. -/
theorem inf_mem_terms (n : Bool) : .inf n ∈ [(fProd x0 y0).1, (fProd x1 y1).1, z] ↔ infTerm x0 y0 x1 y1 z n = true := by
  simp only [List.forall_mem_cons] at hnan
  obtain ⟨hx0, hy0, hx1, hy1, -⟩ := hnan
  simp only [List.mem_cons, List.not_mem_nil, or_false, eq_comm (a := FVal.inf n), fProd_isInf hx0 hy0 h0, fProd_isInf hx1 hy1 h1, infTerm,
    Bool.or_eq_true, beq_iff_eq, or_assoc]

theorem terms_any_inf (n : Bool) :
    ([(fProd x0 y0).1, (fProd x1 y1).1, z].any fun t => t.isInf && t.sign == n) = infTerm x0 y0 x1 y1 z n := by
  rw [Bool.eq_iff_iff, ← inf_mem_terms hnan h0 h1, List.any_eq_true]
  constructor
  · rintro ⟨t, ht, hinf⟩
    rw [Bool.and_eq_true, beq_iff_eq] at hinf
    obtain ⟨k, rfl⟩ := FVal.isInf_iff.1 hinf.1
    exact hinf.2 ▸ ht
  · exact fun h => ⟨_, h, by simp [FVal.isInf, FVal.sign]⟩

/-- A dot product of numbers without 0 × ∞, as far as infinities settle it. -/
theorem fDot2_numbers : (infTerm x0 y0 x1 y1 z true = true → infTerm x0 y0 x1 y1 z false = true → fDot2 f r x0 y0 x1 y1 z = (f.nan, ffNV)) ∧
    ((infTerm x0 y0 x1 y1 z true && infTerm x0 y0 x1 y1 z false) = false → ∀ t,
      [(fProd x0 y0).1, (fProd x1 y1).1, z].find? FVal.isInf = some t → fDot2 f r x0 y0 x1 y1 z = (withSign f t.sign f.infBits, 0)) := by
  have hany : [x0, y0, x1, y1, z].any FVal.isNan = false := List.any_eq_false.2 fun x hx => by simp [hnan x hx]
  have ht := terms_any_inf hnan h0 h1 true
  have hf := terms_any_inf hnan h0 h1 false
  simp only [beq_true, beq_false] at ht hf
  refine ⟨fun hpos hneg => ?_, fun hboth t hfind => ?_⟩
  · simp only [fDot2, fProd_no_flag h0, fProd_no_flag h1, hany, ht, hf, hpos, hneg]
    rfl
  · simp only [fDot2, fProd_no_flag h0, fProd_no_flag h1, hany, ht, hf, hboth, hfind]
    rfl

theorem fDot2_infinity (hn : infTerm x0 y0 x1 y1 z n = true) (hother : infTerm x0 y0 x1 y1 z (!n) = false) :
    fDot2 f r x0 y0 x1 y1 z = (withSign f n f.infBits, 0) := by
  have hmem := (inf_mem_terms hnan h0 h1 n).2 hn
  have hnot : .inf (!n) ∉ [(fProd x0 y0).1, (fProd x1 y1).1, z] := fun h => by
    rw [(inf_mem_terms hnan h0 h1 _).1 h] at hother
    cases hother
  obtain ⟨t, hfind⟩ := Option.isSome_iff_exists.1 (List.find?_isSome.2 ⟨_, hmem, rfl⟩ :
    ([(fProd x0 y0).1, (fProd x1 y1).1, z].find? FVal.isInf).isSome = true)
  obtain ⟨k, rfl⟩ := FVal.isInf_iff.1 (List.find?_some hfind)
  have hk : k = n := FVal.inf_eq_of_ne fun h => hnot (h ▸ List.mem_of_find?_eq_some hfind)
  rw [(fDot2_numbers hnan h0 h1).2 (by cases n <;> simp_all) _ hfind, hk]
  rfl

end

end Sys2Proof.Machine
end

section
/-! PROOF of O4 and O6. Rounding sees the magnitude alone; magnitudes that are numbers of the format, or beyond its ends (R60, R61). -/

namespace Sys2Proof.Machine
open Sys2Proof

variable {f : Fmt} {r : Rnd} {neg : Bool} {m m' : Nat} {e e' : Int} {t : ℝ} {n n' c : Nat} {x x' : Bool}

/-! ## Units -/

theorem RoundsUnits.of_nat (h : RoundsUnits r neg t n x) (hc : t = c) : n = c ∧ x = false := by
  subst hc
  obtain ⟨h, hx⟩ | ⟨lo, hlo, hhi, -⟩ := h
  · exact ⟨by exact_mod_cast h.symm, hx⟩
  · norm_cast at hlo hhi
    omega

theorem RoundsUnits.unique (h : RoundsUnits r neg t n x) (h' : RoundsUnits r neg t n' x') : n = n' ∧ x = x' := by
  obtain ⟨ht, rfl⟩ | ⟨lo, hlo, hhi, rfl, hn⟩ := h
  · obtain ⟨rfl, rfl⟩ := h'.of_nat ht
    exact ⟨rfl, rfl⟩
  · obtain ⟨ht', rfl⟩ | ⟨lo', hlo', hhi', rfl, hn'⟩ := h'
    · subst ht'
      norm_cast at hlo hhi
      omega
    · obtain rfl : lo = lo' := by
        have h1 : lo < lo' + 1 := by exact_mod_cast hlo.trans hhi'
        have h2 : lo' < lo + 1 := by exact_mod_cast hlo'.trans hhi
        omega
      by_cases hu : takesUpper r neg lo t
      · exact ⟨(hn.resolve_right fun h => h.1 hu).2.trans (hn'.resolve_right fun h => h.1 hu).2.symm, rfl⟩
      · exact ⟨(hn.resolve_left fun h => hu h.1).2.trans (hn'.resolve_left fun h => hu h.1).2.symm, rfl⟩

/-- Less than half a unit is rounded to a whole one only away from zero. -/
theorem RoundsUnits.of_lt_half (h : RoundsUnits r neg t n x) (h0 : 0 < t) (h1 : t < 1 / 2) :
    n = (if (r = .rup ∧ neg = false) ∨ (r = .rdn ∧ neg = true) then 1 else 0) ∧ x = true := by
  obtain ⟨rfl, -⟩ | ⟨lo, hlo, -, rfl, hn⟩ := h
  · have : (n : ℝ) < 1 := by linarith
    norm_cast at h0 this
    omega
  · obtain rfl : lo = 0 := by
      have : (lo : ℝ) < 1 := by linarith
      exact_mod_cast Nat.lt_one_iff.1 (by exact_mod_cast this)
    have hup : takesUpper r neg 0 t ↔ (r = .rup ∧ neg = false) ∨ (r = .rdn ∧ neg = true) := by
      cases r <;> simp [takesUpper]
      linarith
    rw [hup] at hn
    refine ⟨?_, rfl⟩
    obtain ⟨hu, rfl⟩ | ⟨hu, rfl⟩ := hn
    · rw [if_pos hu]
    · rw [if_neg hu]

/-! ## The magnitude alone -/

theorem leading_place_eq (hm : m ≠ 0) (hm' : m' ≠ 0) (h : (m * 2 ^ e : ℝ) = m' * 2 ^ e') : (Nat.log2 m : Int) + e = Nat.log2 m' + e' := by
  obtain ⟨hl, hu⟩ := two_zpow_le_magnitude (K := ℝ) hm e
  obtain ⟨hl', hu'⟩ := two_zpow_le_magnitude (K := ℝ) hm' e'
  have h1 := (zpow_lt_zpow_iff_right₀ one_lt_two).1 (hl.trans_lt (h ▸ hu'))
  have h2 := (zpow_lt_zpow_iff_right₀ one_lt_two).1 (hl'.trans_lt (h ▸ hu))
  omega

theorem magBits_congr (hm : m ≠ 0) (hm' : m' ≠ 0) (h : (m * 2 ^ e : ℝ) = m' * 2 ^ e') :
    magBits f r neg m e false = magBits f r neg m' e' false := by
  obtain ⟨j, n, hb, hn, hj⟩ := magBits_spec f r neg m e
  obtain ⟨j', n', hb', hn', hj'⟩ := magBits_spec f r neg m' e'
  have hplace := leading_place_eq hm hm' h
  obtain rfl : j = j' := by omega
  rw [h] at hn
  obtain ⟨rfl, hx⟩ := hn.unique hn'
  exact Prod.ext (hb.trans hb'.symm) hx

/-- Two ways of writing one magnitude are rounded alike. -/
theorem roundFin_congr (f : Fmt) (r : Rnd) (neg : Bool) (h : (m * 2 ^ e : ℝ) = m' * 2 ^ e') :
    roundFin f r neg m e false = roundFin f r neg m' e' false := by
  have hpow : ∀ d : Int, (2 : ℝ) ^ d ≠ 0 := fun d => zpow_ne_zero _ two_ne_zero
  by_cases hm : m = 0
  · have hm' : m' = 0 := by simpa [hm, hpow] using h
    rw [hm, hm', roundFin_zero, roundFin_zero]
  · have hm' : m' ≠ 0 := by
      rintro rfl
      simp [hm, hpow] at h
    have htiny : isTiny f r neg m e false = isTiny f r neg m' e' false := by rw [Bool.eq_iff_iff, isTiny_iff hm, isTiny_iff hm', h]
    simp only [roundFin, hm, hm', magBits_congr (f := f) (r := r) (neg := neg) hm hm' h, htiny]

/-! ## Numbers of the format -/

theorem cast_signed (neg : Bool) (m : Nat) (e : Int) : ((signOf Rat neg * m * 2 ^ e : Rat) : ℝ) = signOf ℝ neg * (m * 2 ^ e) := by
  cases neg <;> simp

theorem Fmt.Proper.six_le_infBits (hf : f.Proper) : 6 ≤ f.infBits := by
  rw [hf.infBits_eq]
  have h1 := hf.two_le_half
  have h2 : 2 ^ 1 ≤ 2 ^ f.fbits := Nat.pow_le_pow_right two_pos hf.one_le_fbits
  calc 6 = 3 * 2 ^ 1 := rfl
    _ ≤ (2 * f.half - 1) * 2 ^ f.fbits := Nat.mul_le_mul (by omega) h2

/-- A number of the format is rounded to itself, and raises no flag. -/
theorem roundFin_exact (hf : f.Proper) (hm : m < 2 * 2 ^ f.fbits) (he : f.emin - f.fbits ≤ e) (hlt : (m * 2 ^ e : ℝ) < 2 ^ (f.bias + 1)) :
    (roundFin f r neg m e false).2 = 0 ∧ (unpack f (roundFin f r neg m e false).1).sign = neg ∧
      (unpack f (roundFin f r neg m e false).1).value = some (signOf Rat neg * m * 2 ^ e) := by
  by_cases hm0 : m = 0
  · subst hm0
    rw [roundFin_zero, unpack_withSign neg (lt_of_lt_of_le (by decide) hf.six_le_infBits), Nat.zero_div, if_pos rfl, Nat.zero_mod]
    exact ⟨rfl, rfl, by simp [FVal.value]⟩
  have hlog : Nat.log2 m ≤ f.fbits := by
    rw [← pow_succ'] at hm
    exact Nat.lt_succ_iff.1 ((Nat.log2_lt hm0).2 hm)
  have hunits : ∀ q, q ≤ e → ((m * 2 ^ (e - q).toNat : Nat) : ℝ) = m * 2 ^ e / 2 ^ q := fun q hq => by
    obtain ⟨k, hk⟩ := Int.eq_ofNat_of_zero_le (sub_nonneg.2 hq)
    rw [mul_div_assoc, ← zpow_sub₀ two_ne_zero, hk, Int.toNat_natCast, zpow_natCast]
    push_cast
    rfl
  obtain ⟨hl, hl'⟩ := two_zpow_le_magnitude (K := ℝ) hm0 e
  have hT := (zpow_lt_zpow_iff_right₀ one_lt_two).1 (hl.trans_lt hlt)
  have hfin : (magBits f r neg m e false).1 < f.infBits := by
    rw [← not_le, infBits_le_magBits_iff hf hm0, show f.bias - f.fbits = f.bias + 1 - 1 - f.fbits by ring,
      (roundAt_rounds r neg m e _).reachesTop_iff hl hl']
    rw [((roundAt_rounds r neg m e _).of_nat (hunits ((Nat.log2 m : Int) + e - f.fbits) (by omega)).symm).1]
    have hlt : m * 2 ^ (e - ((Nat.log2 m : Int) + e - f.fbits)).toNat < 2 * 2 ^ f.fbits := by
      obtain ⟨d, hd⟩ := Nat.exists_eq_add_of_le hlog
      rw [show (e - ((Nat.log2 m : Int) + e - f.fbits)).toNat = d by omega, hd, pow_add, ← mul_assoc, ← pow_succ']
      exact Nat.mul_lt_mul_of_pos_right Nat.lt_log2_self (by positivity)
    omega
  obtain ⟨q, hval, hsign, -, hexact⟩ := magBits_takes (r := r) (neg := neg) (e := e) hf hm0 hfin
  have hnx : (magBits f r neg m e false).2 = false := by
    obtain ⟨j, n, -, hn, hj⟩ := magBits_spec f r neg m e
    exact (hn.of_nat (hunits _ (by omega)).symm).2
  rw [roundFin_finite hm0 hfin, hnx]
  refine ⟨by simp, hsign, hval.trans (congrArg some ?_)⟩
  have hq : (q : ℝ) = signOf ℝ neg * (m * 2 ^ e) := by simpa [hnx] using hexact
  exact Rat.cast_injective (α := ℝ) (hq.trans (cast_signed neg m e).symm)

/-! ## Beyond the ends -/

theorem roundFin_beyond (hf : f.Proper) (h : (2 : ℝ) ^ (f.bias + 1) ≤ m * 2 ^ e) :
    roundFin f r neg m e false = (withSign f neg (overflowBits f r neg), ffOF ||| ffNX) := by
  have hm : m ≠ 0 := by
    rintro rfl
    rw [Nat.cast_zero, zero_mul] at h
    exact (zpow_pos two_pos _).not_ge h
  exact roundFin_overflow hm ((infBits_le_magBits_iff hf hm).2 (reachesTop_of_le r neg (zpow_pos two_pos _) h))

/-- A magnitude below half the least number is rounded to zero or to the least number, whatever it is. -/
theorem roundFin_below (hf : f.Proper) (hm : m ≠ 0) (h : (m * 2 ^ e : ℝ) < 2 ^ (f.emin - f.fbits - 1)) :
    roundFin f r neg m e false =
      (withSign f neg (if (r = .rup ∧ neg = false) ∨ (r = .rdn ∧ neg = true) then 1 else 0), ffNX ||| ffUF) := by
  have hpos : (0 : ℝ) < m * 2 ^ e := mul_pos (by exact_mod_cast Nat.pos_of_ne_zero hm) (zpow_pos two_pos e)
  obtain ⟨j, n, hb, hn, hj⟩ := magBits_spec f r neg m e
  have hl := (zpow_lt_zpow_iff_right₀ one_lt_two).1 ((two_zpow_le_magnitude (K := ℝ) hm e).1.trans_lt h)
  obtain rfl : j = 0 := by omega
  have hu : (0 : ℝ) < 2 ^ (f.emin - f.fbits + (0 : Nat)) := zpow_pos two_pos _
  obtain ⟨rfl, hx⟩ := hn.of_lt_half (by positivity) (by
    rw [div_lt_iff₀ hu, one_div, ← zpow_neg_one, ← zpow_add₀ two_ne_zero]
    exact h.trans_eq (by congr 1; push_cast; ring))
  have htiny : isTiny f r neg m e false = true := by
    refine (isTiny_iff hm).2 (not_reachesTop_of_lt r neg (zpow_pos two_pos _) ?_)
    have h1 : (2 : ℝ) ^ (f.emin - f.fbits - 1) ≤ 2 ^ (f.emin - 1) := zpow_le_zpow_right₀ one_le_two (by omega)
    have h2 : (2 : ℝ) ^ (f.emin - 1 - f.fbits) ≤ 2 ^ (f.emin - 1) := zpow_le_zpow_right₀ one_le_two (by omega)
    have h3 : (2 : ℝ) ^ f.emin = 2 * 2 ^ (f.emin - 1) := by rw [← zpow_one_add₀ two_ne_zero, add_sub_cancel]
    linarith
  have hb' : (magBits f r neg m e false).1 = if (r = .rup ∧ neg = false) ∨ (r = .rdn ∧ neg = true) then 1 else 0 := by rw [hb]; simp
  have hlt : (magBits f r neg m e false).1 < f.infBits := by
    rw [hb']
    have := hf.six_le_infBits
    split <;> omega
  rw [roundFin_finite hm hlt, hb', hx, htiny]
  rfl

end Sys2Proof.Machine
end

section
/-! PROOF of O4 and O6. The operands of f32, f16 and bf16, and FSCALE (R58, R103, R108). -/

namespace Sys2Proof.Machine
open Sys2Proof

theorem fmtF32_proper : fmtF32.Proper := ⟨by decide, by decide⟩
theorem fmtF16_proper : fmtF16.Proper := ⟨by decide, by decide⟩
theorem fmtBf16_proper : fmtBf16.Proper := ⟨by decide, by decide⟩

/-! ## Modifiers (R103) -/

theorem FVal.modify_eq_fin {x : FVal} {neg abs n : Bool} {m : Nat} {e : Int} (h : x.modify neg abs = .fin n m e) :
    ∃ k, x = .fin k m e := by
  cases x with
  | nan => cases h
  | inf => cases h
  | fin k m' e' =>
    cases h
    exact ⟨k, rfl⟩

/-- The integer and the exponent of an f32 operand. -/
structure IsF32 (m : Nat) (e : Int) : Prop where
  lt : m < 2 ^ 24
  le : -149 ≤ e
  ge : e ≤ 104

theorem isF32_of_unpack {b : Nat} {n : Bool} {m : Nat} {e : Int} (h : unpack fmtF32 b = .fin n m e) : IsF32 m e := by
  obtain ⟨-, hm, rfl⟩ | ⟨j, -, hj, -, hm, rfl⟩ := unpack_eq_fin h
  · exact ⟨hm.trans (by decide), by decide, by decide⟩
  · have hj' : j + 2 < 256 := hj
    have he : fmtF32.emin - fmtF32.fbits = -149 := by decide
    rw [he]
    exact ⟨hm, by omega, by omega⟩

theorem isF32_of_modify {b : Nat} {neg abs n : Bool} {m : Nat} {e : Int} (h : (unpack fmtF32 b).modify neg abs = .fin n m e) : IsF32 m e := by
  obtain ⟨k, hk⟩ := FVal.modify_eq_fin h
  exact isF32_of_unpack hk

/-! ## FSCALE -/

/-- Beyond ±2,000 a factor's exponent no longer matters to an f32 operand. -/
theorem roundFin_clamped {r : Rnd} {s : Bool} {m : Nat} {e : Int} (h : IsF32 m e) (n : Int) :
    roundFin fmtF32 r s m (e + max (-2000) (min 2000 n)) false = roundFin fmtF32 r s m (e + n) false := by
  obtain ⟨hm, hle, hge⟩ := h
  by_cases hm0 : m = 0
  · rw [hm0, roundFin_zero, roundFin_zero]
  have hbeyond : ∀ k : Int, 2000 ≤ k → (2 : ℝ) ^ (fmtF32.bias + 1) ≤ m * 2 ^ (e + k) := fun k hk => by
    have h1 : (1 : ℝ) ≤ m := by exact_mod_cast Nat.pos_of_ne_zero hm0
    have h2 : (2 : ℝ) ^ (fmtF32.bias + 1) ≤ 2 ^ (e + k) := zpow_le_zpow_right₀ one_le_two (by
      rw [show fmtF32.bias = 127 by decide]
      omega)
    exact h2.trans (le_mul_of_one_le_left (zpow_pos two_pos _).le h1)
  have hbelow : ∀ k : Int, k ≤ -2000 → (m * 2 ^ (e + k) : ℝ) < 2 ^ (fmtF32.emin - fmtF32.fbits - 1) := fun k hk => by
    have h1 : (m : ℝ) < 2 ^ (24 : Int) := by exact_mod_cast hm
    calc (m * 2 ^ (e + k) : ℝ) < 2 ^ (24 : Int) * 2 ^ (e + k) := mul_lt_mul_of_pos_right h1 (zpow_pos two_pos _)
      _ = 2 ^ (24 + (e + k)) := (zpow_add₀ two_ne_zero _ _).symm
      _ ≤ 2 ^ (fmtF32.emin - fmtF32.fbits - 1) := zpow_le_zpow_right₀ one_le_two (by
        rw [show fmtF32.emin - fmtF32.fbits - 1 = -150 by decide]
        omega)
  obtain hn | hn | hn : n < -2000 ∨ 2000 < n ∨ max (-2000) (min 2000 n) = n := by omega
  · rw [show max (-2000) (min 2000 n) = -2000 by omega, roundFin_below fmtF32_proper hm0 (hbelow _ le_rfl),
      roundFin_below fmtF32_proper hm0 (hbelow n hn.le)]
  · rw [show max (-2000) (min 2000 n) = 2000 by omega, roundFin_beyond fmtF32_proper (hbeyond _ le_rfl),
      roundFin_beyond fmtF32_proper (hbeyond n hn.le)]
  · rw [hn]

theorem fScale_roundsOnce {r : Rnd} {b : Nat} {neg abs : Bool} {p : Rat} (n : Int) (h : ((unpack fmtF32 b).modify neg abs).value = some p) :
    roundsOnce fmtF32 r (p * 2 ^ n) ((unpack fmtF32 b).modify neg abs).sign (fScale r ((unpack fmtF32 b).modify neg abs) n) := by
  obtain ⟨s, m, e, hx⟩ := FVal.exists_fin h
  rw [hx] at h ⊢
  obtain rfl := Option.some.inj h
  rw [fScale, roundFin_clamped (isF32_of_modify hx)]
  refine roundFin_roundsOnce ?_ fmtF32 r
  rw [FVal.value, zpow_add₀ two_ne_zero, ← mul_assoc]
  rfl

end Sys2Proof.Machine
end

section
/-! PROOF of O4. FCMP: the order of exact values (R39, R109). -/

namespace Sys2Proof.Machine
open Sys2Proof

theorem Dy.val_neg (x : Dy) : x.neg.val = -x.val := by
  rw [Dy.val, Dy.val, Dy.neg, Int.cast_neg, neg_mul]

theorem Dy.val_sub (x y : Dy) : (x.sub y).val = x.val - y.val := by
  rw [Dy.sub, Dy.val_add, Dy.val_neg, sub_eq_add_neg]

theorem Dy.lt_iff (x y : Dy) : x.lt y = true ↔ x.val < y.val := by
  rw [Dy.lt, decide_eq_true_iff, ← sub_neg (a := x.val), ← Dy.val_sub, Dy.val, ← neg_pos (a := _ * _), ← neg_mul,
    mul_pos_iff_of_pos_right (zpow_pos two_pos _), neg_pos, Int.cast_lt_zero]

theorem Dy.le_iff (x y : Dy) : x.le y = true ↔ x.val ≤ y.val := by
  rw [Dy.le, decide_eq_true_iff, ← sub_nonpos (a := x.val), ← Dy.val_sub, Dy.val, ← neg_nonneg (a := _ * _), ← neg_mul,
    mul_nonneg_iff_of_pos_right (zpow_pos two_pos _), neg_nonneg, Int.cast_nonpos]

/-- Of two finite values the lesser is the one whose number is. -/
theorem fLess_finite {x y : FVal} {p q : Rat} (hx : x.value = some p) (hy : y.value = some q) :
    fLess false x y = true ↔ p < q := by
  obtain ⟨hxv, -, -, hxz⟩ := FVal.value_eq_some hx
  obtain ⟨hyv, -, -, hyz⟩ := FVal.value_eq_some hy
  have h : fLess false x y = if x.isZero && y.isZero then false else x.dy.lt y.dy := by
    obtain ⟨_, _, _, rfl⟩ := FVal.exists_fin hx
    obtain ⟨_, _, _, rfl⟩ := FVal.exists_fin hy
    simp only [fLess, Bool.false_and]
  rw [h]
  split
  · rename_i hz
    rw [Bool.and_eq_true, hxz, hyz] at hz
    simp [hz]
  · rw [Dy.lt_iff, hxv, hyv]

/-- Two operands are unordered, or in one of the three orders, which the model's comparisons tell. -/
theorem order_cases (x y : FVal) : (floatCompares.order x y = none ∧ (x.isNan || y.isNan) = true) ∨
    ∃ o, floatCompares.order x y = some o ∧ (x.isNan || y.isNan) = false ∧ fLess false x y = (o == .lt) ∧ fLess false y x = (o == .gt) := by
  cases x with
  | nan => exact .inl ⟨rfl, rfl⟩
  | inf a =>
    cases y with
    | nan => exact .inl ⟨rfl, rfl⟩
    | inf b => exact .inr ⟨_, rfl, rfl, by cases a <;> cases b <;> rfl, by cases a <;> cases b <;> rfl⟩
    | fin => exact .inr ⟨_, rfl, rfl, by cases a <;> rfl, by cases a <;> rfl⟩
  | fin n m e =>
    cases y with
    | nan => exact .inl ⟨rfl, rfl⟩
    | inf b => exact .inr ⟨_, rfl, rfl, by cases b <;> rfl, by cases b <;> rfl⟩
    | fin n' m' e' =>
      refine .inr ⟨_, rfl, rfl, ?_, ?_⟩
      · rw [Bool.eq_iff_iff, fLess_finite rfl rfl, beq_iff_eq, compare_lt_iff_lt]
      · rw [Bool.eq_iff_iff, fLess_finite rfl rfl, beq_iff_eq, compare_gt_iff_gt]

theorem fcmpHolds_eq (c : FCond) (x y : FVal) : fcmpHolds c x y = floatCompares c x y := by
  obtain ⟨ho, hun⟩ | ⟨o, ho, hun, hlt, hgt⟩ := order_cases x y
  · simp only [fcmpHolds, floatCompares, ho, hun]
    cases c <;> rfl
  · simp only [fcmpHolds, floatCompares, ho, hun, hlt, hgt]
    cases c <;> cases o <;> rfl

theorem fcmp_completes {s : State} {i : Iss} {md : MCode} {c : FCond} {a b : VCode} {p : MCode} {na nb aa ab : Bool}
    (h : Executes s i { vs := [vsrc a, vsrc b], ms := [p.toNat], mdst := [md.toNat] }) :
    ∃ g', exec (.fcmp md c a b p na nb aa ab) s = .next (putGroup s i.gid g') ∧
      (∀ l, l < 32 → laneIn (mGet g' md.toNat) l =
        if laneIn (i.active p) l then floatCompares c (i.f32 a na aa l) (i.f32 b nb ab l) else laneIn (mGet i.g md.toNat) l) ∧
      gathersFlags i.g.fflags g'.fflags (i.active p)
        (fun l => if (i.f32 a na aa l).isSNan ∨ (i.f32 b nb ab l).isSNan then ffNV else 0) ∧
      RegisterEffect s i g' nowhere nowhere (· = md.toNat) i.slot.path.codes g'.fflags := by
  have hexec : exec (.fcmp md c a b p na nb aa ab) s = falu s { vs := [vsrc a, vsrc b], mdst := [md.toNat] } p fun i l =>
      ([.maskLane md.toNat l (floatCompares c (i.f32 a na aa l) (i.f32 b nb ab l))],
        if (i.f32 a na aa l).isSNan ∨ (i.f32 b nb ab l).isSNan then ffNV else 0) := by
    refine congrArg (falu s _ p) (funext₂ fun i l => ?_)
    simp only [← fcmpHolds_eq, ← Bool.or_eq_true]
    rfl
  rw [hexec]
  exact falu_mask h (List.mem_singleton_self _)

end Sys2Proof.Machine
end

section
/-! PROOF of O4 and O6. The number of a grid that a mode takes, and the integers (R60, R62, R111). -/

namespace Sys2Proof.Machine
open Sys2Proof

variable {grid : Rat → Prop} {r : Rnd} {neg : Bool} {a lo hi c g u : Rat} {n : Nat} {x : Bool}

/-! ## Between two neighbours -/

/-- No number of the grid has a magnitude between lo and hi. -/
def GridGap (grid : Rat → Prop) (lo hi : Rat) : Prop := ∀ q, grid q → |q| ≤ lo ∨ hi ≤ |q|

/-- c is the end of the gap from lo to hi that the mode takes for a magnitude a within it; at a tie to nearest, either. -/
def takesEnd (r : Rnd) (neg : Bool) (lo hi a c : Rat) : Prop :=
  match r with
  | .rne => (c = lo ∧ 2 * a ≤ lo + hi) ∨ (c = hi ∧ lo + hi ≤ 2 * a)
  | .rtz => c = lo
  | .rup => c = if neg then lo else hi
  | .rdn => c = if neg then hi else lo

theorem takesNearest_self (hg : grid g) : takesNearest grid r g g := by
  refine ⟨hg, ?_⟩
  cases r with
  | rne => exact fun q _ => by simp
  | rtz => exact ⟨le_rfl, mul_self_nonneg g, fun _ _ h => h⟩
  | rup => exact ⟨le_rfl, fun _ _ h => h⟩
  | rdn => exact ⟨le_rfl, fun _ _ h => h⟩

theorem abs_signOf (neg : Bool) (q : Rat) : |signOf Rat neg * q| = |q| := by cases neg <;> simp

theorem abs_sub_signOf (neg : Bool) (q a : Rat) : |q - signOf Rat neg * a| = |signOf Rat neg * q - a| := by
  cases neg
  · simp
  · rw [signOf_true, neg_one_mul, neg_one_mul, ← abs_neg]
    congr 1
    ring

theorem signOf_signOf (neg : Bool) (q : Rat) : signOf Rat neg * (signOf Rat neg * q) = q := by cases neg <;> simp

section
variable (hgap : GridGap grid lo hi) (h0 : 0 ≤ lo) (hlo : lo < a) (hhi : a < hi)
include hgap h0 hlo hhi

theorem GridGap.signed {q : Rat} (hq : grid q) (neg : Bool) : signOf Rat neg * q ≤ lo ∨ hi ≤ signOf Rat neg * q := by
  rcases hgap q hq with h | h <;> rw [← abs_signOf neg] at h
  · exact .inl ((le_abs_self _).trans h)
  · exact (le_abs'.1 h).imp_left fun h => by linarith

/-- Between two neighbours the grid's number is the end that the mode takes. -/
theorem takesNearest_end (hc : takesEnd r neg lo hi a c) (hg : grid (signOf Rat neg * c)) :
    takesNearest grid r (signOf Rat neg * a) (signOf Rat neg * c) := by
  refine ⟨hg, ?_⟩
  cases r with
  | rne =>
    intro q hq
    rw [abs_sub_signOf, abs_sub_signOf, signOf_signOf]
    have h1 := le_abs_self (signOf Rat neg * q - a)
    have h2 := neg_le_abs (signOf Rat neg * q - a)
    obtain ⟨rfl, hc⟩ | ⟨rfl, hc⟩ := hc
    · rw [abs_of_neg (by linarith : c - a < 0)]
      obtain h | h := hgap.signed h0 hlo hhi hq neg <;> linarith
    · rw [abs_of_pos (by linarith : 0 < c - a)]
      obtain h | h := hgap.signed h0 hlo hhi hq neg <;> linarith
  | rtz =>
    obtain rfl : c = lo := hc
    refine ⟨?_, ?_, fun q hq h => ?_⟩
    · rw [abs_signOf, abs_signOf, abs_of_nonneg h0, abs_of_nonneg (by linarith)]
      exact hlo.le
    · have : signOf Rat neg * c * (signOf Rat neg * a) = c * a := by cases neg <;> simp
      rw [this]
      exact mul_nonneg h0 (by linarith)
    · rw [abs_signOf, abs_of_nonneg (by linarith : 0 ≤ a)] at h
      rw [abs_signOf, abs_of_nonneg h0]
      exact (hgap q hq).resolve_right fun h' => by linarith
  | rup =>
    have hs := fun q hq => hgap.signed h0 hlo hhi (q := q) hq neg
    cases neg with
    | false =>
      obtain rfl : c = hi := hc
      simp only [signOf_false, one_mul] at hs ⊢
      exact ⟨hhi.le, fun q hq h => (hs q hq).resolve_left fun h' => by linarith⟩
    | true =>
      obtain rfl : c = lo := hc
      simp only [signOf_true, neg_one_mul] at hs ⊢
      exact ⟨neg_le_neg hlo.le, fun q hq h => neg_le.1 ((hs q hq).resolve_right fun h' => by linarith)⟩
  | rdn =>
    have hs := fun q hq => hgap.signed h0 hlo hhi (q := q) hq neg
    cases neg with
    | false =>
      obtain rfl : c = lo := hc
      simp only [signOf_false, one_mul] at hs ⊢
      exact ⟨hlo.le, fun q hq h => (hs q hq).resolve_right fun h' => by linarith⟩
    | true =>
      obtain rfl : c = hi := hc
      simp only [signOf_true, neg_one_mul] at hs ⊢
      exact ⟨neg_le_neg hhi.le, fun q hq h => le_neg.1 ((hs q hq).resolve_left fun h' => by linarith)⟩

/-- Another number of the grid is as near as the one taken only from the middle of the gap. -/
theorem middle_of_tie (hc : takesEnd .rne neg lo hi a c) {q : Rat} (hq : grid q) (hne : q ≠ signOf Rat neg * c)
    (htie : |q - signOf Rat neg * a| = |signOf Rat neg * c - signOf Rat neg * a|) : 2 * a = lo + hi := by
  rw [abs_sub_signOf, abs_sub_signOf, signOf_signOf] at htie
  have hne' : signOf Rat neg * q ≠ c := fun h => hne (by rw [← h, signOf_signOf])
  obtain h | h := hgap.signed h0 hlo hhi hq neg
  · rw [abs_of_neg (by linarith : signOf Rat neg * q - a < 0)] at htie
    obtain ⟨rfl, hc⟩ | ⟨rfl, hc⟩ := hc
    · rw [abs_of_neg (by linarith : c - a < 0)] at htie
      exact absurd (by linarith) hne'
    · rw [abs_of_pos (by linarith : 0 < c - a)] at htie
      linarith
  · rw [abs_of_pos (by linarith : 0 < signOf Rat neg * q - a)] at htie
    obtain ⟨rfl, hc⟩ | ⟨rfl, hc⟩ := hc
    · rw [abs_of_neg (by linarith : c - a < 0)] at htie
      linarith
    · rw [abs_of_pos (by linarith : 0 < c - a)] at htie
      exact absurd (by linarith) hne'

end

/-! ## Units -/

/-- Rounded units: nothing was lost, or the mode took an end of the gap between two whole numbers of units, an even one at a tie. -/
theorem RoundsUnits.takesEnd (hu : 0 < u) (h : RoundsUnits r neg ((a / u : Rat) : ℝ) n x) :
    (a = n * u ∧ x = false) ∨ ∃ k : Nat, k * u < a ∧ a < (k + 1) * u ∧ x = true ∧ takesEnd r neg (k * u) ((k + 1) * u) a (n * u) ∧
      (r = .rne → 2 * a = k * u + (k + 1) * u → n % 2 = 0) := by
  obtain ⟨ht, hx⟩ | ⟨k, hlo, hhi, hx, hn⟩ := h
  · have ht : a / u = n := by exact_mod_cast ht
    exact .inl ⟨(div_eq_iff hu.ne').1 ht, hx⟩
  · have hlo : (k : Rat) < a / u := by exact_mod_cast hlo
    have hhi : a / u < (k : Rat) + 1 := by exact_mod_cast hhi
    have hcast : ((k + 1 / 2 : Rat) : ℝ) = k + 1 / 2 := by push_cast; rfl
    have hmid : ((k : ℝ) + 1 / 2 < (a / u : Rat)) ↔ k * u + (k + 1) * u < 2 * a := by
      rw [← hcast, Rat.cast_lt, lt_div_iff₀ hu]
      constructor <;> intro h <;> linarith
    have hmid' : (((a / u : Rat) : ℝ) = k + 1 / 2) ↔ 2 * a = k * u + (k + 1) * u := by
      rw [← hcast, Rat.cast_inj, div_eq_iff hu.ne']
      constructor <;> intro h <;> linarith
    rw [lt_div_iff₀ hu] at hlo
    rw [div_lt_iff₀ hu] at hhi
    refine .inr ⟨k, hlo, hhi, hx, ?_⟩
    obtain ⟨hup, rfl⟩ | ⟨hup, rfl⟩ := hn
    · push_cast
      cases r with
      | rne =>
        rw [takesUpper, hmid, hmid'] at hup
        exact ⟨.inr ⟨rfl, hup.elim (fun h => h.le) fun h => h.1.ge⟩, fun _ htie => by have := (hup.resolve_left htie.not_gt).2; omega⟩
      | rtz => exact hup.elim
      | rup => exact ⟨by rw [show neg = false from hup]; rfl, nofun⟩
      | rdn => exact ⟨by rw [show neg = true from hup]; rfl, nofun⟩
    · cases r with
      | rne =>
        rw [takesUpper, hmid, hmid', not_or, not_lt] at hup
        exact ⟨.inl ⟨rfl, hup.1⟩, fun _ htie => Nat.mod_two_ne_one.1 fun h => hup.2 ⟨htie, h⟩⟩
      | rtz => exact ⟨rfl, nofun⟩
      | rup => exact ⟨by rw [show neg = true from Bool.eq_true_of_not_eq_false hup]; rfl, nofun⟩
      | rdn => exact ⟨by rw [show neg = false from Bool.eq_false_of_not_eq_true hup]; rfl, nofun⟩

/-- Rounded units are the grid's number that the mode takes, where the grid has none between two whole numbers of units. -/
theorem RoundsUnits.takesNearest (hu : 0 < u) (h : RoundsUnits r neg ((a / u : Rat) : ℝ) n x)
    (hgap : ∀ k : Nat, k * u < a → a < (k + 1) * u → GridGap grid (k * u) ((k + 1) * u)) (hg : grid (signOf Rat neg * (n * u))) :
    takesNearest grid r (signOf Rat neg * a) (signOf Rat neg * (n * u)) ∧ (x = true ↔ signOf Rat neg * (n * u) ≠ signOf Rat neg * a) ∧
      (r = .rne → ∀ q, grid q → q ≠ signOf Rat neg * (n * u) →
        |q - signOf Rat neg * a| = |signOf Rat neg * (n * u) - signOf Rat neg * a| → n % 2 = 0) := by
  obtain ⟨rfl, rfl⟩ | ⟨k, hlo, hhi, rfl, hend, heven⟩ := h.takesEnd hu
  · refine ⟨takesNearest_self hg, by simp, fun _ q _ hne htie => absurd ?_ hne⟩
    rwa [sub_self, abs_zero, abs_eq_zero, sub_eq_zero] at htie
  · have h0 : 0 ≤ k * u := by positivity
    refine ⟨takesNearest_end (hgap k hlo hhi) h0 hlo hhi hend hg, iff_of_true rfl fun heq => ?_, fun hr q hq hne htie => ?_⟩
    · have heq : n * u = a := by rw [← signOf_signOf neg a, ← heq, signOf_signOf]
      rw [← heq, mul_lt_mul_iff_left₀ hu] at hlo hhi
      norm_cast at hlo hhi
      omega
    · subst hr
      exact heven rfl (middle_of_tie (hgap k hlo hhi) h0 hlo hhi hend hq hne htie)

end Sys2Proof.Machine
end

section
/-! PROOF of O4 and O6. Rounding to an integer (R62, R111). -/

namespace Sys2Proof.Machine
open Sys2Proof

variable {r : Rnd} {neg : Bool} {m : Nat} {e : Int}

theorem integers_gap (k : Nat) : GridGap (fun q => ∃ n : Int, q = n) k (k + 1) := by
  rintro _ ⟨n, rfl⟩
  have h := le_or_gt |n| k
  exact h.imp (fun h => by exact_mod_cast h) fun h => by exact_mod_cast h

/-- The integer with a sign and a magnitude. -/
def signedInt (neg : Bool) (k : Nat) : Int := if neg then -(k : Int) else k

theorem cast_signedInt (neg : Bool) (k : Nat) : (signedInt neg k : Rat) = signOf Rat neg * (k * 1) := by
  cases neg <;> simp [signedInt]

theorem signedInt_mod_two (neg : Bool) (k : Nat) : signedInt neg k % 2 = 0 ↔ k % 2 = 0 := by
  rw [signedInt]
  split <;> omega

/-- A magnitude cut at the unit place and rounded is the integer that the mode takes, an even one at a tie. -/
theorem roundAt_takesInteger (r : Rnd) (neg : Bool) (m : Nat) (e : Int) :
    takesNearest (fun q => ∃ n : Int, q = n) r (signOf Rat neg * (m * 2 ^ e)) (signedInt neg (roundAt r neg m e 0 false).1) ∧
    (r = .rne → |(signedInt neg (roundAt r neg m e 0 false).1 : Rat) - signOf Rat neg * (m * 2 ^ e)| = 1 / 2 →
      signedInt neg (roundAt r neg m e 0 false).1 % 2 = 0) ∧
    ((roundAt r neg m e 0 false).2 = true ↔ (signedInt neg (roundAt r neg m e 0 false).1 : Rat) ≠ signOf Rat neg * (m * 2 ^ e)) := by
  have h := roundAt_rounds r neg m e 0
  rw [show (m * 2 ^ e / 2 ^ (0 : Int) : ℝ) = ((m * 2 ^ e / 1 : Rat) : ℝ) by push_cast; simp] at h
  obtain ⟨htakes, hexact, -⟩ := h.takesNearest (grid := fun q => ∃ n : Int, q = n) one_pos
    (fun k _ _ => by simpa using integers_gap k) ⟨_, (cast_signedInt neg _).symm⟩
  rw [cast_signedInt]
  refine ⟨htakes, fun hr h2 => ?_, hexact⟩
  rw [signedInt_mod_two]
  rw [← mul_sub, abs_signOf] at h2
  obtain ⟨ha, -⟩ | ⟨k, hlo, hhi, -, hend, heven⟩ := h.takesEnd one_pos
  · rw [ha, sub_self, abs_zero] at h2
    norm_num at h2
  · subst hr
    refine heven rfl ?_
    obtain ⟨hc, -⟩ | ⟨hc, -⟩ := hend
    · rw [hc, abs_of_neg (by linarith)] at h2
      linarith
    · rw [hc, abs_of_pos (by linarith)] at h2
      linarith

/-! ## ICVT to an integer type -/

theorem tyMin_le_tyMax (t : Ty) : tyMin t ≤ tyMax t := by cases t <;> decide

theorem clampTo_of_outside {t : Ty} {k : Int} (h : k < tyMin t ∨ tyMax t < k) : clampTo t k = if k < tyMin t then tyMin t else tyMax t := by
  have := tyMin_le_tyMax t
  unfold clampTo
  split <;> omega

theorem floatToInt_finite {t src : Ty} {x : Nat} (h : floatValue src x 127 = .fin neg m e) :
    floatToInt t src r x = if tyMin t ≤ signedInt neg (roundAt r neg m e 0 false).1 ∧ signedInt neg (roundAt r neg m e 0 false).1 ≤ tyMax t
      then (wrapBits (tyWidth t) (signedInt neg (roundAt r neg m e 0 false).1), if (roundAt r neg m e 0 false).2 then ffNX else 0)
      else (wrapBits (tyWidth t) (if signedInt neg (roundAt r neg m e 0 false).1 < tyMin t then tyMin t else tyMax t), ffNV) := by
  cases hk : roundAt r neg m e 0 false with
  | mk k nx =>
    simp only [floatToInt, h, hk]
    change (if signedInt neg k < tyMin t ∨ tyMax t < signedInt neg k then _ else _) = _
    by_cases hout : signedInt neg k < tyMin t ∨ tyMax t < signedInt neg k
    · refine (if_pos hout).trans (.trans ?_ (if_neg (by omega)).symm)
      exact congrArg (fun k => (wrapBits (tyWidth t) k, ffNV)) (clampTo_of_outside hout)
    · exact (if_neg hout).trans (if_pos (by omega)).symm

theorem floatToInt_takes {t src : Ty} {x : Nat} {p : Rat} (h : (floatValue src x 127).value = some p) :
    ∃ k : Int, takesNearest (fun q => ∃ n : Int, q = n) r p k ∧ (r = .rne → |(k : Rat) - p| = 1 / 2 → k % 2 = 0) ∧
      floatToInt t src r x = if tyMin t ≤ k ∧ k ≤ tyMax t then (wrapBits (tyWidth t) k, if (k : Rat) = p then 0 else ffNX)
        else (wrapBits (tyWidth t) (if k < tyMin t then tyMin t else tyMax t), ffNV) := by
  obtain ⟨neg, m, e, hx⟩ := FVal.exists_fin h
  rw [hx] at h
  obtain rfl : signOf Rat neg * (m * 2 ^ e) = p := (mul_assoc _ _ _).symm.trans (Option.some.inj h)
  obtain ⟨htakes, htie, hnx⟩ := roundAt_takesInteger r neg m e
  refine ⟨_, htakes, htie, ?_⟩
  have hflag : (if (signedInt neg (roundAt r neg m e 0 false).1 : Rat) = signOf Rat neg * (m * 2 ^ e) then (0 : FFlags) else ffNX) =
      if (roundAt r neg m e 0 false).2 then ffNX else 0 := by
    rw [← ite_not]
    exact if_congr hnx.symm rfl rfl
  rw [floatToInt_finite hx, hflag]

end Sys2Proof.Machine
end

section
/-! PROOF of O4. Conversions to e4m3 (R63, R64, R115). -/

namespace Sys2Proof.Machine
open Sys2Proof

variable {r : Rnd} {neg : Bool} {m : Nat} {e : Int}

/-! ## The numbers of e4m3 -/

/-- e4m3's fields in a format of one exponent bit more, which has the numbers beyond 448 too; its numbers are e4m3's over 2^8. -/
def fmtWide : Fmt := ⟨5, 3⟩

theorem unpackE4m3_withSign (neg : Bool) {b : Nat} (hb : b < 127) : unpackE4m3 (withSign fmtE4m3 neg b) =
    if b / 8 = 0 then .fin neg (b % 8) (-9) else .fin neg (b % 8 + 8) (-9 + (b / 8 - 1 : Nat)) := by
  have hs : b < fmtE4m3.signBit := lt_of_lt_of_le hb (by decide)
  obtain ⟨hex, hfr⟩ := withSign_fields neg hs
  have hsign := testBit_withSign hs neg
  have hmod : withSign fmtE4m3 neg b % 128 = b := by
    cases neg <;> simp [withSign, fmtE4m3, Fmt.signBit] <;> omega
  have hex : withSign fmtE4m3 neg b / 8 % 16 = b / 8 := hex
  have hfr : withSign fmtE4m3 neg b % 8 = b % 8 := hfr
  have hsign : (withSign fmtE4m3 neg b).testBit 7 = neg := hsign
  simp only [unpackE4m3, hmod, hex, hfr, hsign, if_neg hb.ne]

/-- A number of e4m3 is that of the wide format with the same fields, times 2^8. -/
theorem value_unpackE4m3 (neg : Bool) {b : Nat} (hb : b < 127) :
    (unpackE4m3 (withSign fmtE4m3 neg b)).value = (unpack fmtWide (withSign fmtWide neg b)).value.map (· * 2 ^ (8 : Int)) := by
  have hE : fmtWide.emin - fmtWide.fbits = -17 := by decide
  have hscale : ∀ (k : Nat) (d : Int), (FVal.fin neg k (8 + d)).value = (FVal.fin neg k d).value.map (· * 2 ^ (8 : Int)) := fun k d => by
    rw [FVal.value, add_comm, zpow_add₀ two_ne_zero, ← mul_assoc]
    rfl
  rw [unpackE4m3_withSign neg hb, unpack_withSign neg (lt_trans hb (by decide)), hE]
  change (if b / 8 = 0 then _ else _ : FVal).value = Option.map _ (if b / 8 = 0 then _ else _ : FVal).value
  split
  · exact hscale (b % 8) (-17)
  · have h := hscale (b % 8 + 8) (-17 + (b / 8 - 1 : Nat))
    rwa [← add_assoc] at h

theorem e4m3Grid_iff (q : Rat) : e4m3Grid q ↔ |q| = 512 ∨ ∃ neg b, b < 127 ∧ (unpackE4m3 (withSign fmtE4m3 neg b)).value = some q := by
  rw [e4m3Grid, ← or_assoc, ← abs_eq (by norm_num : (0 : Rat) ≤ 512)]
  refine or_congr_right ⟨fun ⟨b, hb, hv⟩ => ?_, fun ⟨neg, b, hb, hv⟩ => ⟨_, ?_, hv⟩⟩
  · have hne : b % 128 ≠ 127 := fun h => by
      rw [unpackE4m3, if_pos h] at hv
      cases hv
    refine ⟨decide (128 ≤ b), b % 128, by omega, ?_⟩
    have : withSign fmtE4m3 (decide (128 ≤ b)) (b % 128) = b := by
      by_cases h : 128 ≤ b
      · rw [withSign, if_pos (decide_eq_true h), show fmtE4m3.signBit = 128 by decide]
        omega
      · rw [withSign, if_neg (by simpa using h)]
        omega
    rwa [this]
  · exact (withSign_lt (lt_of_lt_of_le hb (by decide))).trans_eq (by decide)

/-- Between two whole numbers of units there is no number of e4m3. -/
theorem e4m3_gap {j k : Nat} (hj : j = 0 ∨ 8 ≤ k) : GridGap e4m3Grid (k * 2 ^ (-9 + j : Int)) ((k + 1) * 2 ^ (-9 + j : Int)) := by
  have hwide : ∀ q, e4m3Grid q → ∃ x y, (unpack fmtWide x).value = some y ∧ |q| = |y| * 2 ^ (8 : Int) := fun q hq => by
    obtain hq | ⟨neg, b, hb, hv⟩ := (e4m3Grid_iff q).1 hq
    · exact ⟨128, 2, by rw [show unpack fmtWide 128 = .fin false 8 (-2) by decide]; norm_num [FVal.value, zpow_neg], by rw [hq]; norm_num⟩
    · rw [value_unpackE4m3 neg hb, Option.map_eq_some_iff] at hv
      obtain ⟨y, hy, rfl⟩ := hv
      exact ⟨_, y, hy, by rw [abs_mul, abs_of_pos (zpow_pos (two_pos : (0 : Rat) < 2) 8)]⟩
  intro q hq
  obtain ⟨x, y, hy, hqy⟩ := hwide q hq
  have hgap := gap_units (f := fmtWide) hj x y hy
  have hE : fmtWide.emin - fmtWide.fbits = -17 := by decide
  have hpos : (0 : Rat) < 2 ^ (8 : Int) := zpow_pos two_pos _
  have hsplit : (2 : Rat) ^ (-9 + j : Int) = 2 ^ (fmtWide.emin - fmtWide.fbits + j) * 2 ^ (8 : Int) := by
    rw [← zpow_add₀ two_ne_zero, hE]
    congr 1
    ring
  rw [hqy, hsplit, ← mul_assoc, ← mul_assoc, mul_le_mul_iff_left₀ hpos, mul_le_mul_iff_left₀ hpos]
  have hcast : ∀ i : Nat, (i * 2 ^ (fmtWide.emin - fmtWide.fbits + j) : ℝ) = ((i * 2 ^ (fmtWide.emin - fmtWide.fbits + j) : Rat) : ℝ) :=
    fun i => by push_cast; rfl
  rw [← Nat.cast_succ, hcast, hcast, ← Rat.cast_abs, Rat.cast_le, Rat.cast_le, Nat.cast_succ] at hgap
  exact hgap

theorem abs_value_unpackE4m3 {neg : Bool} {b : Nat} {q : Rat} (hb : b < 127) (h : (unpackE4m3 (withSign fmtE4m3 neg b)).value = some q) :
    |q| ≤ 448 := by
  rw [unpackE4m3_withSign neg hb] at h
  split at h
  · rw [abs_value_fin h]
    have h1 : ((b % 8 : Nat) : Rat) ≤ 7 := by exact_mod_cast (by omega : b % 8 ≤ 7)
    calc _ ≤ (7 : Rat) * 2 ^ (-9 : Int) := mul_le_mul_of_nonneg_right h1 (by positivity)
      _ ≤ 448 := by norm_num [zpow_neg]
  · rw [abs_value_fin h]
    obtain ⟨c, hc⟩ : ∃ c, b / 8 = c + 1 := ⟨b / 8 - 1, by omega⟩
    rw [hc, Nat.add_sub_cancel]
    obtain ⟨h1, h2⟩ | ⟨h1, h2⟩ : (c ≤ 13 ∧ b % 8 + 8 ≤ 15) ∨ (c ≤ 14 ∧ b % 8 + 8 ≤ 14) := by omega
    · calc _ ≤ (15 : Rat) * 2 ^ (4 : Int) := mul_le_mul (by exact_mod_cast h2) (zpow_le_zpow_right₀ one_le_two (by omega)) (by positivity) (by norm_num)
        _ ≤ 448 := by norm_num
    · calc _ ≤ (14 : Rat) * 2 ^ (5 : Int) := mul_le_mul (by exact_mod_cast h2) (zpow_le_zpow_right₀ one_le_two (by omega)) (by positivity) (by norm_num)
        _ ≤ 448 := by norm_num

theorem e4m3_gap_top : GridGap e4m3Grid 448 512 := fun q hq =>
  ((e4m3Grid_iff q).1 hq).symm.imp (fun ⟨_, _, hb, h⟩ => abs_value_unpackE4m3 hb h) fun h => h.ge

/-! ## What a conversion delivers -/

/-- The magnitudes that a mode takes beyond 448 (log entry 63). -/
def leavesE4m3 (r : Rnd) (neg : Bool) (a : Rat) : Prop :=
  match r, neg with
  | .rne, _ => 480 < a
  | .rtz, _ | .rup, true | .rdn, false => 512 ≤ a
  | .rup, false | .rdn, true => 448 < a

theorem e4m3Over_iff (r : Rnd) (neg : Bool) (m : Nat) (e : Int) : e4m3Over r neg m e = true ↔ leavesE4m3 r neg (m * 2 ^ e) := by
  have hofInt : ∀ i : Int, (Dy.ofInt i).val = i := fun i => by simp [Dy.val, Dy.ofInt]
  have hval : (⟨(m : Int), e⟩ : Dy).val = m * 2 ^ e := by simp [Dy.val]
  have hlt : ∀ i : Int, (Dy.ofInt i).lt ⟨(m : Int), e⟩ = true ↔ (i : Rat) < m * 2 ^ e := fun i => by rw [Dy.lt_iff, hofInt, hval]
  have hle : ∀ i : Int, (Dy.ofInt i).le ⟨(m : Int), e⟩ = true ↔ (i : Rat) ≤ m * 2 ^ e := fun i => by rw [Dy.le_iff, hofInt, hval]
  cases r with
  | rne => exact hlt 480
  | rtz => exact hle 512
  | rup =>
    cases neg with
    | false => exact hlt 448
    | true => exact hle 512
  | rdn =>
    cases neg with
    | false => exact hle 512
    | true => exact hlt 448

theorem leavesE4m3_of_lt {a : Rat} (h : 512 < a) : leavesE4m3 r neg a := by
  have h448 : 448 < a := lt_trans (by norm_num) h
  have h480 : 480 < a := lt_trans (by norm_num) h
  cases r with
  | rne => exact h480
  | rtz => exact h.le
  | rup =>
    cases neg with
    | false => exact h448
    | true => exact h.le
  | rdn =>
    cases neg with
    | false => exact h.le
    | true => exact h448

theorem toE4m3_over {s : Nat} (hs : s < 255) (hm : m ≠ 0) (h : leavesE4m3 r neg (m * 2 ^ (e - ((s : Int) - 127)))) :
    toE4m3 r (.fin neg m e) s = (if neg then 0xFE else 0x7E, ffOF ||| ffNX) := by
  simp only [toE4m3, hs.ne, hm, (e4m3Over_iff _ _ _ _).2 h, if_true, if_false]

theorem toE4m3_saturates {s : Nat} (hs : s < 255) (hm : m ≠ 0) (h : ¬ leavesE4m3 r neg (m * 2 ^ (e - ((s : Int) - 127))))
    (hb : 126 < (magBits fmtE4m3 r neg m (e - ((s : Int) - 127)) false).1) :
    toE4m3 r (.fin neg m e) s = (if neg then 0xFE else 0x7E, ffNX) := by
  simp only [toE4m3, hs.ne, hm, mt (e4m3Over_iff _ _ _ _).1 h, hb, if_true, if_false]
  rfl

theorem toE4m3_rounds {s : Nat} (hs : s < 255) (hm : m ≠ 0) (h : ¬ leavesE4m3 r neg (m * 2 ^ (e - ((s : Int) - 127))))
    (hb : (magBits fmtE4m3 r neg m (e - ((s : Int) - 127)) false).1 ≤ 126) :
    toE4m3 r (.fin neg m e) s = (withSign fmtE4m3 neg (magBits fmtE4m3 r neg m (e - ((s : Int) - 127)) false).1,
      (if (magBits fmtE4m3 r neg m (e - ((s : Int) - 127)) false).2 then ffNX else 0) |||
        if (magBits fmtE4m3 r neg m (e - ((s : Int) - 127)) false).2 && isTiny fmtE4m3 r neg m (e - ((s : Int) - 127)) false then ffUF else 0) := by
  simp only [toE4m3, hs.ne, hm, mt (e4m3Over_iff _ _ _ _).1 h, hb.not_gt, if_false]
  rfl

end Sys2Proof.Machine
end

section
/-! PROOF of O4. The number of e4m3 that a conversion takes (R63). -/

namespace Sys2Proof.Machine
open Sys2Proof

variable {r : Rnd} {neg : Bool} {m : Nat} {e : Int}

theorem RoundsUnits.le_of_le_nat {t : ℝ} {n : Nat} {x : Bool} (h : RoundsUnits r neg t n x) {c : Nat} (hc : t ≤ c) : n ≤ c := by
  obtain ⟨rfl, -⟩ | ⟨lo, hlo, -, -, hn⟩ := h
  · exact_mod_cast hc
  · have : lo < c := by exact_mod_cast hlo.trans_le hc
    omega

/-- The units of a magnitude at or below 448 stay below the NaN's pattern. -/
theorem magBits_e4m3_le (hm : m ≠ 0) (h : (m * 2 ^ e : ℝ) ≤ 448) : ∃ j n : Nat,
    (magBits fmtE4m3 r neg m e false).1 = j * 8 + n ∧ j * 8 + n ≤ 126 ∧ n ≤ 16 ∧ (j = 0 ∨ 8 ≤ n) ∧
      (∀ k : Nat, (m * 2 ^ e / 2 ^ (-9 + j : Int) : ℝ) < k + 1 → j = 0 ∨ 8 ≤ k) ∧
      RoundsUnits r neg (m * 2 ^ e / 2 ^ (-9 + j : Int)) n (magBits fmtE4m3 r neg m e false).2 := by
  obtain ⟨j, n, hb, hn, hj⟩ := magBits_spec fmtE4m3 r neg m e
  obtain ⟨htop, hlow⟩ := units_bounds fmtE4m3 hm hj
  have hE : fmtE4m3.emin - fmtE4m3.fbits = -9 := by decide
  have hF : 2 ^ fmtE4m3.fbits = 8 := by decide
  have hemin : fmtE4m3.emin = -6 := by decide
  rw [hE] at hn htop hlow
  rw [hF] at hb htop hlow
  have hl := (zpow_lt_zpow_iff_right₀ (one_lt_two (α := ℝ))).1
    ((two_zpow_le_magnitude (K := ℝ) hm e).1.trans_lt (h.trans_lt (by norm_num : (448 : ℝ) < 2 ^ (9 : Int))))
  have hn16 : n ≤ 16 := hn.le_of_lt (c := 16) (by exact_mod_cast htop)
  refine ⟨j, n, hb, ?_, hn16, hlow.imp_right hn.le_of_le, fun k hk => hlow.imp_right fun h => ?_, hn⟩
  · obtain hj14 | rfl : j ≤ 13 ∨ j = 14 := by omega
    · omega
    · have : n ≤ 14 := hn.le_of_le_nat (by
        rw [div_le_iff₀ (zpow_pos two_pos _)]
        exact h.trans (by norm_num))
      omega
  · have : ((8 : Nat) : ℝ) < ((k + 1 : Nat) : ℝ) := by push_cast; exact_mod_cast h.trans_lt hk
    exact Nat.lt_succ_iff.1 (by exact_mod_cast this)

/-- A magnitude between 448 and 512 has 14 of its units or more, and more exactly where nothing was lost. -/
theorem magBits_e4m3_ge (hm : m ≠ 0) (h : (448 : ℝ) < m * 2 ^ e) (h' : (m * 2 ^ e : ℝ) < 512) :
    126 < (magBits fmtE4m3 r neg m e false).1 ∨
      ((magBits fmtE4m3 r neg m e false).1 = 126 ∧ (magBits fmtE4m3 r neg m e false).2 = true) := by
  obtain ⟨j, n, hb, hn, hj⟩ := magBits_spec fmtE4m3 r neg m e
  rw [show fmtE4m3.emin - fmtE4m3.fbits = -9 by decide] at hn
  rw [show 2 ^ fmtE4m3.fbits = 8 by decide] at hb
  have hemin : fmtE4m3.emin = -6 := by decide
  obtain ⟨hl, hl'⟩ := two_zpow_le_magnitude (K := ℝ) hm e
  have h1 := (zpow_lt_zpow_iff_right₀ (one_lt_two (α := ℝ))).1 (hl.trans_lt (h'.trans_eq (by norm_num : (512 : ℝ) = 2 ^ (9 : Int))))
  have h2 := (zpow_lt_zpow_iff_right₀ (one_lt_two (α := ℝ))).1 (((by norm_num : (2 : ℝ) ^ (8 : Int) < 448).trans h).trans hl')
  obtain rfl : j = 14 := by omega
  have ht : (14 : ℝ) < m * 2 ^ e / 2 ^ (-9 + (14 : Nat) : Int) := by
    rw [lt_div_iff₀ (zpow_pos two_pos _)]
    exact (by norm_num : (14 : ℝ) * 2 ^ (-9 + (14 : Nat) : Int) = 448).trans_lt h
  have hn14 : 14 ≤ n := hn.le_of_le (by exact_mod_cast ht.le)
  obtain h14 | h14 := hn14.lt_or_eq
  · left
    omega
  · obtain ⟨heq, -⟩ | ⟨-, -, -, hx, -⟩ := hn
    · rw [heq, ← h14] at ht
      norm_num at ht
    · exact .inr ⟨by omega, hx⟩

/-! ## The statement's clauses -/

/-- What a conversion to e4m3 of an exact quotient v delivers (R63). -/
def deliversE4m3 (r : Rnd) (v : Rat) (res top : Nat × FFlags) : Prop :=
  (512 < |v| → res = top) ∧
    (|v| ≤ 512 → ∃ g, takesNearest e4m3Grid r v g ∧ (|g| = 512 → res = top) ∧
      (|g| < 512 → (unpackE4m3 res.1).value = some g ∧ (res.2.getLsbD 0 = true ↔ g ≠ v) ∧ res.2 &&& (ffNV ||| ffDZ ||| ffOF) = 0 ∧
        (res.2.getLsbD 1 = true ↔ g ≠ v ∧ tinyAfter fmtE4m3 r v) ∧
        (r = .rne → ∀ q, e4m3Grid q → q ≠ g → |q - v| = |g - v| → res.1 % 2 = 0)))

/-- Between 448 and 512 a mode that leaves e4m3's numbers takes 512. -/
theorem leavesE4m3_takesEnd {a : Rat} (h : leavesE4m3 r neg a) (ha : a < 512) : 448 < a ∧ takesEnd r neg 448 512 a 512 := by
  cases r with
  | rne =>
    have h : 480 < a := h
    exact ⟨by linarith, .inr ⟨rfl, by linarith⟩⟩
  | rtz => exact absurd ha (not_lt.2 h)
  | rup =>
    cases neg with
    | false => exact ⟨h, rfl⟩
    | true => exact absurd ha (not_lt.2 h)
  | rdn =>
    cases neg with
    | false => exact absurd ha (not_lt.2 h)
    | true => exact ⟨h, rfl⟩

/-- Beyond 448 a mode that stays takes 448. -/
theorem not_leavesE4m3_takesEnd {a : Rat} (h : ¬ leavesE4m3 r neg a) (ha : 448 < a) : a < 512 ∧ takesEnd r neg 448 512 a 448 := by
  cases r with
  | rne =>
    have h : a ≤ 480 := not_lt.1 h
    exact ⟨by linarith, .inl ⟨rfl, by linarith⟩⟩
  | rtz => exact ⟨not_le.1 h, rfl⟩
  | rup =>
    cases neg with
    | false => exact absurd ha h
    | true => exact ⟨not_le.1 h, rfl⟩
  | rdn =>
    cases neg with
    | false => exact ⟨not_le.1 h, rfl⟩
    | true => exact absurd ha h

section
variable {a : Rat} {top : Nat × FFlags} (h0 : 0 < a)
include h0

theorem deliversE4m3_top (h : leavesE4m3 r neg a) : deliversE4m3 r (signOf Rat neg * a) top top := by
  refine ⟨fun _ => rfl, fun ha => ⟨signOf Rat neg * 512, ?_, fun _ => rfl, fun hlt => ?_⟩⟩
  · rw [abs_signOf, abs_of_pos h0] at ha
    have hg : e4m3Grid (signOf Rat neg * 512) := (e4m3Grid_iff _).2 (.inl (by rw [abs_signOf]; norm_num))
    obtain rfl | hlt := ha.eq_or_lt
    · exact takesNearest_self hg
    · obtain ⟨hlo, hend⟩ := leavesE4m3_takesEnd h hlt
      exact takesNearest_end e4m3_gap_top (by norm_num) hlo hlt hend hg
  · rw [abs_signOf] at hlt
    norm_num at hlt

theorem deliversE4m3_saturated (h : ¬ leavesE4m3 r neg a) (ha : 448 < a) :
    deliversE4m3 r (signOf Rat neg * a) (if neg then 0xFE else 0x7E, ffNX) top := by
  obtain ⟨hhi, hend⟩ := not_leavesE4m3_takesEnd h ha
  have hval : (unpackE4m3 (if neg then 0xFE else 0x7E)).value = some (signOf Rat neg * 448) := by
    cases neg
    · rw [show unpackE4m3 (if false = true then 0xFE else 0x7E) = .fin false 14 5 by decide]
      norm_num [FVal.value]
    · rw [show unpackE4m3 (if true = true then 0xFE else 0x7E) = .fin true 14 5 by decide]
      norm_num [FVal.value]
  have hg : e4m3Grid (signOf Rat neg * 448) := .inr (.inr ⟨_, by cases neg <;> decide, hval⟩)
  have hne : signOf Rat neg * 448 ≠ signOf Rat neg * a := fun heq => by
    rw [← signOf_signOf neg a, ← heq, signOf_signOf] at ha
    exact lt_irrefl _ ha
  have htiny : ¬ tinyAfter fmtE4m3 r ((signOf Rat neg * a : Rat) : ℝ) := by
    have ha' : (448 : ℝ) < a := by exact_mod_cast ha
    rw [show ((signOf Rat neg * a : Rat) : ℝ) = signOf ℝ neg * a by cases neg <;> simp,
      tinyAfter_iff_not_reachesTop (by linarith : (0 : ℝ) < a), not_not]
    refine reachesTop_of_le r neg (zpow_pos two_pos _) ?_
    rw [show fmtE4m3.emin = -6 by decide]
    exact (by norm_num [zpow_neg] : (2 : ℝ) ^ (-6 : Int) ≤ 448).trans ha'.le
  refine ⟨fun h512 => ?_, fun _ => ⟨signOf Rat neg * 448, takesNearest_end e4m3_gap_top (by norm_num) ha hhi hend hg, fun h512 => ?_,
    fun _ => ⟨hval, iff_of_true (by simp [ffNX]) hne, (by decide : ffNX &&& (ffNV ||| ffDZ ||| ffOF) = 0), iff_of_false (by simp [ffNX]) fun h => htiny h.2,
      fun _ _ _ _ _ => by cases neg <;> rfl⟩⟩⟩
  · rw [abs_signOf, abs_of_pos h0] at h512
    linarith
  · rw [abs_signOf] at h512
    norm_num at h512

end

/-- A zero is converted to e4m3's zero of its sign. -/
theorem deliversE4m3_zero {top : Nat × FFlags} : deliversE4m3 r 0 (if neg then 0x80 else 0, 0) top := by
  have hval : (unpackE4m3 (if neg then 0x80 else 0)).value = some 0 := by
    cases neg
    · rw [show unpackE4m3 (if false = true then 0x80 else 0) = .fin false 0 (-9) by decide]
      norm_num [FVal.value]
    · rw [show unpackE4m3 (if true = true then 0x80 else 0) = .fin true 0 (-9) by decide]
      norm_num [FVal.value]
  refine ⟨fun h => ?_, fun _ => ⟨0, takesNearest_self (.inr (.inr ⟨_, by cases neg <;> decide, hval⟩)), fun h => ?_,
    fun _ => ⟨hval, by simp, (by decide : (0 : FFlags) &&& (ffNV ||| ffDZ ||| ffOF) = 0), by simp, fun _ _ _ hne htie => absurd ?_ hne⟩⟩⟩
  · norm_num at h
  · norm_num at h
  · simpa using htie

/-- A magnitude at or below 448 is rounded as into a format with subnormals. -/
theorem deliversE4m3_rounded {top : Nat × FFlags} (hm : m ≠ 0) (ha : (m * 2 ^ e : Rat) ≤ 448) :
    deliversE4m3 r (signOf Rat neg * (m * 2 ^ e)) (withSign fmtE4m3 neg (magBits fmtE4m3 r neg m e false).1,
      (if (magBits fmtE4m3 r neg m e false).2 then ffNX else 0) |||
        if (magBits fmtE4m3 r neg m e false).2 && isTiny fmtE4m3 r neg m e false then ffUF else 0) top := by
  have ha' : ((m * 2 ^ e : Rat) : ℝ) ≤ (448 : Rat) := Rat.cast_le.2 ha
  push_cast at ha'
  obtain ⟨j, n, hb, h126, hn16, hj, hgap, hn⟩ := magBits_e4m3_le (r := r) (neg := neg) hm ha'
  have hu : (0 : Rat) < 2 ^ (-9 + j : Int) := zpow_pos two_pos _
  have hcast : (m * 2 ^ e / 2 ^ (-9 + j : Int) : ℝ) = ((m * 2 ^ e / 2 ^ (-9 + j : Int) : Rat) : ℝ) := by push_cast; rfl
  have hval : (unpackE4m3 (withSign fmtE4m3 neg (j * 8 + n))).value = some (signOf Rat neg * (n * 2 ^ (-9 + j : Int))) := by
    obtain ⟨k, d, hk, hkd⟩ := unpack_units (f := fmtWide) neg hn16 hj (lt_of_le_of_lt h126 (by decide))
    have hE : fmtWide.emin - fmtWide.fbits + j + 8 = -9 + j := by
      rw [show fmtWide.emin - fmtWide.fbits = -17 by decide]
      ring
    rw [value_unpackE4m3 neg (by omega), ← hE, zpow_add₀ two_ne_zero, ← mul_assoc (n : Rat), ← hkd]
    change (unpack fmtWide (withSign fmtWide neg (j * 2 ^ fmtWide.fbits + n))).value.map _ = _
    rw [hk, ← mul_assoc, ← mul_assoc]
    rfl
  have h448 : |signOf Rat neg * (n * 2 ^ (-9 + j : Int))| ≤ 448 := abs_value_unpackE4m3 (by omega) hval
  have hgrid : e4m3Grid (signOf Rat neg * (n * 2 ^ (-9 + j : Int))) := (e4m3Grid_iff _).2 (.inr ⟨_, _, by omega, hval⟩)
  obtain ⟨htakes, hexact, htie⟩ := RoundsUnits.takesNearest hu (hcast ▸ hn)
    (fun k _ hk => e4m3_gap (hgap k (by rw [hcast]; exact_mod_cast (div_lt_iff₀ hu).2 hk))) hgrid
  obtain ⟨hother, hnx, huf⟩ := inexact_flags (magBits fmtE4m3 r neg m e false).2
    ((magBits fmtE4m3 r neg m e false).2 && isTiny fmtE4m3 r neg m e false)
  rw [hb]
  refine ⟨fun h => ?_, fun _ => ⟨_, htakes, fun h => ?_, fun _ => ⟨hval, by rw [hnx, hexact], hother, ?_, fun hr q hq hne heq => ?_⟩⟩⟩
  · rw [abs_signOf, abs_of_nonneg (by positivity)] at h
    linarith
  · linarith
  · have hpos : (0 : ℝ) < m * 2 ^ e := mul_pos (by exact_mod_cast Nat.pos_of_ne_zero hm) (zpow_pos two_pos e)
    have hv : ((signOf Rat neg * (m * 2 ^ e) : Rat) : ℝ) = signOf ℝ neg * (m * 2 ^ e) := by rw [← mul_assoc, cast_signed]
    rw [huf, Bool.and_eq_true, hexact, hv, tinyAfter_iff_not_reachesTop hpos, ← isTiny_iff hm]
  · rw [withSign_mod_two ⟨by decide, by decide⟩]
    have := htie hr q hq hne heq
    omega

theorem fCvt_e4m3 {src : Ty} {x s : Nat} {p : Rat} (h : (floatValue src x s).value = some p) (hs : s < 255) :
    deliversE4m3 r (p * 2 ^ ((127 : Int) - s)) (fCvt .e4m3 src r x s) (if p < 0 then 0xFE else 0x7E, ffOF ||| ffNX) := by
  obtain ⟨neg, m, e, hx⟩ := FVal.exists_fin h
  rw [hx] at h
  rw [show fCvt .e4m3 src r x s = toE4m3 r (.fin neg m e) s from congrArg (toE4m3 r · s) hx]
  obtain rfl : signOf Rat neg * (m * 2 ^ e) = p := (mul_assoc _ _ _).symm.trans (Option.some.inj h)
  have hv : signOf Rat neg * (m * 2 ^ e) * 2 ^ ((127 : Int) - s) = signOf Rat neg * (m * 2 ^ (e - ((s : Int) - 127))) := by
    rw [show e - ((s : Int) - 127) = e + (127 - s) by ring, zpow_add₀ two_ne_zero]
    ring
  rw [hv]
  obtain rfl | hm := Nat.eq_zero_or_pos m
  · rw [show toE4m3 r (.fin neg 0 e) s = (if neg then 0x80 else 0, 0) by simp [toE4m3, hs.ne]]
    simpa using deliversE4m3_zero
  · have hm' : m ≠ 0 := hm.ne'
    have hpos : (0 : Rat) < m * 2 ^ (e - ((s : Int) - 127)) := mul_pos (by exact_mod_cast hm) (zpow_pos two_pos _)
    have hneg : signOf Rat neg * (m * 2 ^ e) < 0 ↔ neg = true := by
      have : (0 : Rat) < m * 2 ^ e := mul_pos (by exact_mod_cast hm) (zpow_pos two_pos _)
      cases neg <;> simp [this, this.le]
    rw [if_congr hneg rfl rfl]
    by_cases hover : leavesE4m3 r neg (m * 2 ^ (e - ((s : Int) - 127)))
    · rw [toE4m3_over hs hm' hover]
      exact deliversE4m3_top hpos hover
    · obtain h448 | h448 := le_or_gt ((m : Rat) * 2 ^ (e - ((s : Int) - 127))) 448
      · have : ((m * 2 ^ (e - ((s : Int) - 127)) : Rat) : ℝ) ≤ (448 : Rat) := Rat.cast_le.2 h448
        push_cast at this
        obtain ⟨j, n, hb, h126, -⟩ := magBits_e4m3_le (r := r) (neg := neg) hm' this
        rw [toE4m3_rounds hs hm' hover (hb ▸ h126)]
        exact deliversE4m3_rounded hm' h448
      · have hsat : toE4m3 r (.fin neg m e) s = (if neg then 0xFE else 0x7E, ffNX) := by
          have h1 : ((448 : Rat) : ℝ) < (m * 2 ^ (e - ((s : Int) - 127)) : Rat) := Rat.cast_lt.2 h448
          have h2 : ((m * 2 ^ (e - ((s : Int) - 127)) : Rat) : ℝ) < (512 : Rat) := Rat.cast_lt.2 (not_leavesE4m3_takesEnd hover h448).1
          push_cast at h1 h2
          obtain h126 | ⟨hb, hnx⟩ := magBits_e4m3_ge (r := r) (neg := neg) hm' h1 h2
          · exact toE4m3_saturates hs hm' hover h126
          · have htiny : isTiny fmtE4m3 r neg m (e - ((s : Int) - 127)) false = false := by
              rw [Bool.eq_false_iff, Ne, isTiny_iff hm', not_not]
              refine reachesTop_of_le r neg (zpow_pos two_pos _) ?_
              rw [show fmtE4m3.emin = -6 by decide]
              exact (by norm_num [zpow_neg] : (2 : ℝ) ^ (-6 : Int) ≤ 448).trans h1.le
            rw [toE4m3_rounds hs hm' hover hb.le, hb, hnx, htiny]
            cases neg <;> rfl
        rw [hsat]
        exact deliversE4m3_saturated hpos hover h448

end Sys2Proof.Machine
end

section
/-! PROOF of O4. Conversions, and the statement (R59 to R63, R101, R106 to R119). -/

namespace Sys2Proof.Machine
open Sys2Proof

variable {f : Fmt} {r : Rnd} {t src : Ty} {x s : Nat}

/-! ## FCVT and ICVT -/

theorem fCvt_fin (hf : fmtOf t = some f) {n : Bool} {m : Nat} {e : Int} (h : floatValue src x s = .fin n m e) :
    fCvt t src r x s = roundFin f r n m e false := by
  rw [fCvt, h]
  cases t <;> cases hf <;> rfl

theorem fCvt_nan (hf : fmtOf t = some f) {sg : Bool} (h : floatValue src x s = .nan sg) :
    fCvt t src r x s = (f.nan, if sg then ffNV else 0) := by
  rw [fCvt, h]
  cases t <;> cases hf <;> rfl

theorem fCvt_inf (hf : fmtOf t = some f) {n : Bool} (h : floatValue src x s = .inf n) : fCvt t src r x s = (withSign f n f.infBits, 0) := by
  rw [fCvt, h]
  cases t <;> cases hf <;> rfl

theorem fCvt_e4m3_nan (hs : s ≠ 255) {sg : Bool} (h : floatValue src x s = .nan sg) : fCvt .e4m3 src r x s = (0x7F, if sg then ffNV else 0) := by
  rw [fCvt, h]
  exact if_neg hs

theorem fCvt_e4m3_inf (hs : s ≠ 255) {n : Bool} (h : floatValue src x s = .inf n) :
    fCvt .e4m3 src r x s = (if n then 0xFE else 0x7E, ffOF ||| ffNX) := by
  rw [fCvt, h]
  exact if_neg hs

theorem floatToInt_nan {sg : Bool} (h : floatValue src x 127 = .nan sg) : floatToInt t src r x = (0, ffNV) := by
  rw [floatToInt, h]

theorem floatToInt_inf {n : Bool} (h : floatValue src x 127 = .inf n) :
    floatToInt t src r x = (wrapBits (tyWidth t) (if n then tyMin t else tyMax t), ffNV) := by
  rw [floatToInt, h]

theorem fCvt_roundsOnce {p : Rat} (hf : fmtOf t = some f) (h : (floatValue src x s).value = some p) :
    roundsOnce f r p (floatValue src x s).sign (fCvt t src r x s) := by
  obtain ⟨n, m, e, hx⟩ := FVal.exists_fin h
  rw [fCvt_fin hf hx, hx]
  exact roundFin_roundsOnce (hx ▸ h) f r

theorem intToFloat_roundsOnce (hf : fmtOf t = some f) : roundsOnce f r (tyVal src x : Int) false (intToFloat t src r x) := by
  have hval : ((tyVal src x : Int) : Rat) = (Dy.ofInt (tyVal src x)).val := by simp [Dy.val, Dy.ofInt]
  rw [intToFloat, hf, hval]
  exact roundDy_roundsOnce f r _ _

/-! ## The statement's parts -/

theorem finite_results (f : Fmt) (r : Rnd) : (∀ x y z p q w, x.value = some p → y.value = some q → z.value = some w →
      roundsOnce f r (p + q) (zeroSumSign r [(p, x.sign), (q, y.sign)]) (fAdd f r x y) ∧
      roundsOnce f r (p * q) (x.sign != y.sign) (fMul f r x y) ∧
      roundsOnce f r (p * q + w) (zeroSumSign r [(p * q, x.sign != y.sign), (w, z.sign)]) (fFma f r x y z) ∧
      ∀ x' y' p' q', x'.value = some p' → y'.value = some q' → roundsOnce f r (p * q + p' * q' + w)
        (zeroSumSign r [(p * q, x.sign != y.sign), (p' * q', x'.sign != y'.sign), (w, z.sign)]) (fDot2 f r x y x' y' z)) :=
  fun _ _ _ _ _ _ hx hy hz => ⟨fAdd_roundsOnce hx hy, fMul_roundsOnce hx hy, fFma_roundsOnce hx hy hz,
    fun _ _ _ _ hx' hy' => fDot2_roundsOnce hx hy hx' hy' hz⟩

theorem fMul_comm (f : Fmt) (r : Rnd) (x y : FVal) : fMul f r x y = fMul f r y x := by
  rw [fMul, fMul, fProd_comm]

theorem zeroTimesInf_inf_left {n : Bool} {y : FVal} : zeroTimesInf (.inf n) y ↔ y.isZero = true := by
  simp [zeroTimesInf, FVal.isInf, FVal.isZero]

/-- An infinite operand of a sum, a product or a fused multiply-add (R106). -/
theorem infinite_operand (f : Fmt) (r : Rnd) (n : Bool) (y z : FVal) :
    (y = .inf (!n) → fAdd f r (.inf n) y = (f.nan, ffNV)) ∧
    (y.isNan = false → y ≠ .inf (!n) → fAdd f r (.inf n) y = (withSign f n f.infBits, 0)) ∧
    (y.isZero = true → fMul f r (.inf n) y = (f.nan, ffNV) ∧ fFma f r (.inf n) y z = (f.nan, ffNV)) ∧
    (y.isNan = false → y.isZero = false → fMul f r (.inf n) y = (withSign f (n != y.sign) f.infBits, 0) ∧
      (z = .inf (n == y.sign) → fFma f r (.inf n) y z = (f.nan, ffNV)) ∧
      (z.isNan = false → z ≠ .inf (n == y.sign) → fFma f r (.inf n) y z = (withSign f (n != y.sign) f.infBits, 0))) := by
  refine ⟨fun hy => hy ▸ fAdd_opposite_infinities f r n, fAdd_infinity, fun hy => ?_, fun hy hz => ?_⟩
  · exact ⟨fMul_zeroTimesInf (zeroTimesInf_inf_left.2 hy), fFma_zeroTimesInf (zeroTimesInf_inf_left.2 hy)⟩
  · have hvoid : ¬ zeroTimesInf (.inf n) y := by rw [zeroTimesInf_inf_left, hz]; exact Bool.false_ne_true
    have hopp : (n == y.sign) = !(n != y.sign) := by rw [bne, Bool.not_not]
    rw [hopp]
    refine ⟨fMul_inf rfl hy hvoid (.inl rfl), fun hz => ?_, fun hzn hne => ?_⟩
    · rw [hz, fFma_inf rfl hy hvoid (.inl rfl) rfl]
      exact fAdd_opposite_infinities f r _
    · rw [fFma_inf rfl hy hvoid (.inl rfl) hzn]
      exact fAdd_infinity hzn hne

/-- Settles O4: the table's instructions and FCMP complete with their results, which are the exact ones rounded once. -/
theorem floatResults : Obligations.FloatResults := by
  refine ⟨fun s ins L hL hwf i h => valuFloat_completes hL hwf h, fun s i md c a b p na nb aa ab h => fcmp_completes h,
    ⟨fun f r _ => ⟨finite_results f r, fun t src x s p hf h => fCvt_roundsOnce hf h, fun t src x hf => intToFloat_roundsOnce hf⟩,
      fun r b na aa n p h => fScale_roundsOnce n h, fun r src x s p h hs => fCvt_e4m3 h hs, fun r t src x p h => floatToInt_takes h⟩,
    fun f r x y z => ?_, fun f r x0 y0 x1 y1 z => ?_, fun r n => ⟨fun _ => rfl, fun _ => rfl⟩, fun t src r x s => ?_⟩
  · refine ⟨fun h => ⟨?_, ?_⟩, fun n hx => hx ▸ infinite_operand f r n y z, fMul_comm f r x y, fAdd_comm f r x y, fFma_comm f r x y z,
      fun h => ?_, fun hx hy n hz => hz ▸ fFma_finite_inf hx hy⟩
    · simpa using fAdd_nan h
    · simpa using fMul_nan h
    · simpa [or_assoc] using fFma_nan (h.imp_right (Or.imp_right (And.imp_right fun hv => not_or.2 hv)))
  · refine ⟨fDot2_zeroTimesInf, fun h0 h1 h => fDot2_nan h0 h1 h, fun hnan h0 h1 => ?_⟩
    exact ⟨(fDot2_numbers hnan h0 h1).1, fun n => fDot2_infinity hnan h0 h1⟩
  · exact ⟨fun f sg hf h => fCvt_nan hf h, fun f n hf h => fCvt_inf hf h, rfl, fun hs => ⟨fun sg h => fCvt_e4m3_nan hs h, fun n h => fCvt_e4m3_inf hs h⟩,
      fun sg h => floatToInt_nan h, fun n h => floatToInt_inf h⟩

end Sys2Proof.Machine
end

section
/-! PROOF of O6. FMIN and FMAX (R107). -/

namespace Sys2Proof.Machine
open Sys2Proof

/-! ## The pattern of a modified operand (R103) -/

/-- Unpacking a pattern of a sign and a magnitude. -/
theorem unpack_modifyBits (f : Fmt) (neg abs : Bool) (x : Nat) : unpack f (modifyBits f neg abs x) = (unpack f x).modify neg abs := by
  have hlt : x % f.signBit < f.signBit := Nat.mod_lt _ (by unfold Fmt.signBit; positivity)
  obtain ⟨hex, hfr⟩ := withSign_fields ((x.testBit (f.ebits + f.fbits) && !abs) != neg) hlt
  have hex' : x % f.signBit / 2 ^ f.fbits = x / 2 ^ f.fbits % 2 ^ f.ebits := by
    rw [Fmt.signBit, Nat.add_comm, pow_add, Nat.mod_mul_right_div_self]
  have hfr' : x % f.signBit % 2 ^ f.fbits = x % 2 ^ f.fbits := by
    rw [Fmt.signBit, Nat.add_comm, pow_add, Nat.mod_mul_right_mod]
  simp only [unpack, modifyBits, testBit_withSign hlt, hex, hfr, hex', hfr']
  split
  · split <;> rfl
  · split <;> rfl

/-! ## Order -/

theorem FVal.isFin_of_number {x : FVal} (h : x.isNan = false) : (∃ n, x = .inf n) ∨ ∃ p, x.value = some p := by
  cases x with
  | nan => cases h
  | inf n => exact .inl ⟨n, rfl⟩
  | fin n m e => exact .inr ⟨_, rfl⟩

theorem atMost_refl {x : FVal} (h : x.isNan = false) : atMost x x := by
  refine ⟨h, h, ?_⟩
  obtain ⟨n, rfl⟩ | ⟨p, hp⟩ := FVal.isFin_of_number h
  · cases n
    · exact .inr (.inl rfl)
    · exact .inl rfl
  · exact .inr (.inr ⟨p, p, hp, hp, le_rfl⟩)

theorem fLess_finite_le {x y : FVal} {p q : Rat} (hx : x.value = some p) (hy : y.value = some q) :
    if fLess true x y then p ≤ q else q ≤ p := by
  obtain ⟨hxv, -, -, hxz⟩ := FVal.value_eq_some hx
  obtain ⟨hyv, -, -, hyz⟩ := FVal.value_eq_some hy
  by_cases hz : x.isZero = true ∧ y.isZero = true
  · rw [hxz.1 hz.1, hyz.1 hz.2, ite_self]
  · have h : fLess true x y = x.dy.lt y.dy := by
      obtain ⟨_, _, _, rfl⟩ := FVal.exists_fin hx
      obtain ⟨_, _, _, rfl⟩ := FVal.exists_fin hy
      exact if_neg (by rwa [Bool.and_eq_true])
    have hlt : fLess true x y = true ↔ p < q := by rw [h, Dy.lt_iff, hxv, hyv]
    split
    · exact (hlt.1 ‹_›).le
    · exact not_lt.1 (mt hlt.2 ‹_›)

/-- The model's order, with −0 below +0, tells which of two numbers is at most the other. -/
theorem fLess_atMost {x y : FVal} (hx : x.isNan = false) (hy : y.isNan = false) :
    if fLess true x y then atMost x y else atMost y x := by
  cases x with
  | nan => cases hx
  | inf a =>
    cases y with
    | nan => cases hy
    | inf b => cases a <;> cases b <;> simp [fLess, atMost, FVal.isNan]
    | fin => cases a <;> simp [fLess, atMost, FVal.isNan]
  | fin n m e =>
    cases y with
    | nan => cases hy
    | inf b => cases b <;> simp [fLess, atMost, FVal.isNan]
    | fin n' m' e' =>
      have h := fLess_finite_le (x := .fin n m e) (y := .fin n' m' e') rfl rfl
      split at h
      · rw [if_pos ‹_›]
        exact ⟨rfl, rfl, .inr (.inr ⟨_, _, rfl, rfl, h⟩)⟩
      · rw [if_neg ‹_›]
        exact ⟨rfl, rfl, .inr (.inr ⟨_, _, rfl, rfl, h⟩)⟩

theorem fLess_zeros {x y : FVal} (hx : x.isZero = true) (hy : y.isZero = true) : fLess true x y = (x.sign && !y.sign) := by
  cases x with
  | fin n m e =>
    cases y with
    | fin n' m' e' => exact if_pos (Bool.and_eq_true_iff.2 ⟨hx, hy⟩)
    | _ => cases hy
  | _ => cases hx

/-! ## FMIN and FMAX -/

variable {f : Fmt} {mx : Bool} {x y : FVal} {a b : Nat}

theorem fMinMax_nans (hx : x.isNan = true) (hy : y.isNan = true) :
    fMinMax f mx x y a b = (f.nan, if x.isSNan || y.isSNan then ffNV else 0) := by
  simp [fMinMax, hx, hy]

theorem FVal.isSNan_of_number (h : x.isNan = false) : x.isSNan = false := by
  cases x with
  | nan => cases h
  | _ => rfl

theorem fMinMax_nan_left (hx : x.isNan = true) (hy : y.isNan = false) : fMinMax f mx x y a b = (b, if x.isSNan then ffNV else 0) := by
  simp [fMinMax, hx, hy, FVal.isSNan_of_number hy]

theorem fMinMax_nan_right (hx : x.isNan = false) (hy : y.isNan = true) : fMinMax f mx x y a b = (a, if y.isSNan then ffNV else 0) := by
  simp [fMinMax, hx, hy, FVal.isSNan_of_number hx]

theorem fMinMax_numbers (hx : x.isNan = false) (hy : y.isNan = false) :
    fMinMax f mx x y a b = (if (if mx then fLess true x y else fLess true y x) then b else a, 0) := by
  cases mx <;> simp [fMinMax, hx, hy]

/-- FMIN and FMAX of two numbers: the pattern of the lesser or the greater, of −0 and +0 by their signs (R107). -/
theorem fMinMax_chooses (hx : x.isNan = false) (hy : y.isNan = false) (ha : unpack f a = x) (hb : unpack f b = y) :
    let res := fMinMax f mx x y a b
    res.2 = 0 ∧ (res.1 = a ∨ res.1 = b) ∧ unpack f a = x ∧ unpack f b = y ∧
      let v := unpack f res.1
      (if mx then atMost x v ∧ atMost y v else atMost v x ∧ atMost v y) ∧
      (x.isZero = true → y.isZero = true → v.sign = if mx then x.sign && y.sign else x.sign || y.sign) := by
  rw [fMinMax_numbers hx hy]
  refine ⟨rfl, (ite_eq_or_eq _ _ _).symm, ha, hb, ?_, fun hxz hyz => ?_⟩
  · cases mx with
    | true =>
      have h := fLess_atMost hx hy
      simp only [if_true]
      split at h
      · rw [if_pos ‹_›, hb]
        exact ⟨h, atMost_refl hy⟩
      · rw [if_neg ‹_›, ha]
        exact ⟨atMost_refl hx, h⟩
    | false =>
      have h := fLess_atMost hy hx
      simp only [Bool.false_eq_true, if_false]
      split at h
      · rw [if_pos ‹_›, hb]
        exact ⟨h, atMost_refl hy⟩
      · rw [if_neg ‹_›, ha]
        exact ⟨atMost_refl hx, h⟩
  · simp only [fLess_zeros hxz hyz, fLess_zeros hyz hxz, apply_ite (unpack f), ha, hb, apply_ite FVal.sign]
    generalize x.sign = c, y.sign = d
    revert mx c d
    decide

end Sys2Proof.Machine
end

section
/-! PROOF of O6. FRINT (R111). -/

namespace Sys2Proof.Machine
open Sys2Proof

variable {r : Rnd} {x : FVal} {raw : Nat} {s : Bool} {m : Nat} {e : Int}

/-- A number at or above the unit place is an integer. -/
theorem value_integer (h : 0 ≤ e ∨ m = 0) : ∃ k : Int, signOf Rat s * (m * 2 ^ e) = k := by
  obtain h | rfl := h
  · obtain ⟨d, rfl⟩ := Int.eq_ofNat_of_zero_le h
    refine ⟨signedInt s (m * 2 ^ d), ?_⟩
    rw [cast_signedInt]
    push_cast
    rw [zpow_natCast, mul_one]
  · exact ⟨0, by simp⟩

theorem fRint_integer (h : 0 ≤ e ∨ m = 0) : fRint r (.fin s m e) raw = (raw, 0) := if_pos h

theorem fRint_fraction (h : ¬ (0 ≤ e ∨ m = 0)) :
    fRint r (.fin s m e) raw = ((roundFin fmtF32 .rne s (roundAt r s m e 0 false).1 0 false).1, 0) := if_neg h

/-- Below 2^23 the rounded integer is a number of f32. -/
theorem roundFin_integer (r : Rnd) {n : Nat} (hn : n ≤ 2 ^ 23) : (roundFin fmtF32 r s n 0 false).2 = 0 ∧
    (unpack fmtF32 (roundFin fmtF32 r s n 0 false).1).sign = s ∧
    (unpack fmtF32 (roundFin fmtF32 r s n 0 false).1).value = some ((signedInt s n : Int) : Rat) := by
  have hn' : (n : ℝ) ≤ 2 ^ 23 := by exact_mod_cast hn
  obtain ⟨hfl, hs, hv⟩ := roundFin_exact (r := r) (neg := s) fmtF32_proper (m := n) (e := 0) (hn.trans_lt (by decide)) (by decide) (by
    rw [show fmtF32.bias = 127 by decide, zpow_zero, mul_one]
    exact hn'.trans_lt (by norm_num))
  refine ⟨hfl, hs, hv.trans (congrArg some ?_)⟩
  rw [cast_signedInt, zpow_zero, mul_assoc]

/-- FRINT of a number: the integer that the mode takes, with the operand's sign and no flag. -/
theorem fRint_number {p : Rat} (hx : x.value = some p) (hraw : unpack fmtF32 raw = x) :
    (fRint r x raw).2 = 0 ∧ (p = 0 ∨ 2 ^ 23 ≤ |p| → (fRint r x raw).1 = raw) ∧ (unpack fmtF32 (fRint r x raw).1).sign = x.sign ∧
      ∃ k : Int, (unpack fmtF32 (fRint r x raw).1).value = some (k : Rat) ∧ takesNearest (fun q => ∃ n : Int, q = n) r p k ∧
        (r = .rne → |(k : Rat) - p| = 1 / 2 → k % 2 = 0) := by
  obtain ⟨s, m, e, rfl⟩ := FVal.exists_fin hx
  obtain rfl : signOf Rat s * (m * 2 ^ e) = p := (mul_assoc _ _ _).symm.trans (Option.some.inj hx)
  by_cases hint : 0 ≤ e ∨ m = 0
  · obtain ⟨k, hk⟩ := value_integer (s := s) hint
    rw [fRint_integer hint, hraw, hx]
    refine ⟨rfl, fun _ => rfl, rfl, k, congrArg some hk, hk ▸ takesNearest_self ⟨k, hk⟩, fun _ h => ?_⟩
    rw [hk, sub_self, abs_zero] at h
    norm_num at h
  · obtain ⟨he, hm⟩ := not_or.1 hint
    obtain ⟨hlt, -, -⟩ := isF32_of_unpack hraw
    have h23 : (m * 2 ^ e : Rat) < 2 ^ 23 := by
      have h1 : (m : Rat) < 2 ^ 24 := by exact_mod_cast hlt
      have h2 : (2 : Rat) ^ e ≤ 2 ^ (-1 : Int) := zpow_le_zpow_right₀ one_le_two (by omega)
      calc (m * 2 ^ e : Rat) ≤ m * 2 ^ (-1 : Int) := mul_le_mul_of_nonneg_left h2 (by positivity)
        _ < 2 ^ 24 * 2 ^ (-1 : Int) := mul_lt_mul_of_pos_right h1 (by positivity)
        _ = 2 ^ 23 := by norm_num [zpow_neg]
    have hn : (roundAt r s m e 0 false).1 ≤ 2 ^ 23 := (roundAt_rounds r s m e 0).le_of_lt (by
      rw [zpow_zero, div_one]
      have := Rat.cast_lt (K := ℝ) |>.2 h23
      push_cast at this
      exact this.trans_eq (by norm_num))
    obtain ⟨-, hsign, hval⟩ := roundFin_integer (s := s) .rne hn
    obtain ⟨htakes, htie, -⟩ := roundAt_takesInteger r s m e
    rw [fRint_fraction hint]
    refine ⟨rfl, fun h => ?_, hsign, _, hval, htakes, htie⟩
    have hpos : (0 : Rat) < m * 2 ^ e := mul_pos (by exact_mod_cast Nat.pos_of_ne_zero hm) (zpow_pos two_pos e)
    rw [← abs_eq_zero, abs_signOf, abs_of_pos hpos] at h
    exact (h.elim hpos.ne' fun h => h23.not_ge h).elim

end Sys2Proof.Machine
end

section
/-! PROOF of O6. Rounding a real number from its leading places and what lies below them (R112). -/

namespace Sys2Proof.Machine
open Sys2Proof

variable {f : Fmt} {r : Rnd} {neg : Bool} {m k K : Nat} {e q : Int}

/-! ## Something below the last place -/

/-- A number strictly between m and m + 1, in units of 2^−k. -/
structure Within (m k K : Nat) : Prop where
  lower : m * 2 ^ k < K
  upper : K < (m + 1) * 2 ^ k

theorem Within.log2 (h : Within m k K) (hm : m ≠ 0) : Nat.log2 K = Nat.log2 m + k := by
  obtain ⟨hlo, hhi⟩ := h
  rw [Nat.log2_eq_iff (by omega)]
  constructor
  · rw [pow_add]
    exact (Nat.mul_le_mul_right _ (Nat.log2_self_le hm)).trans hlo.le
  · rw [add_right_comm, pow_add]
    exact hhi.trans_le (Nat.mul_le_mul_right _ Nat.lt_log2_self)

/-- The parts of a number within a last place: what lies above a cut, and below it. -/
theorem Within.parts (h : Within m k K) (u : Nat) :
    K / (2 ^ k * u) = m / u ∧ ∃ t, 0 < t ∧ t < 2 ^ k ∧ K % (2 ^ k * u) = t + 2 ^ k * (m % u) := by
  obtain ⟨hlo, hhi⟩ := h
  rw [add_mul, one_mul] at hhi
  have hdiv : K / 2 ^ k = m := Nat.div_eq_of_lt_le hlo.le (by rw [add_mul, one_mul]; exact hhi)
  have hmod := Nat.div_add_mod' K (2 ^ k)
  rw [hdiv] at hmod
  refine ⟨by rw [← Nat.div_div_eq_div_mul, hdiv], K % 2 ^ k, by omega, Nat.mod_lt _ (by positivity), ?_⟩
  rw [Nat.mod_mul, hdiv]

/-- The mode's choice does not see how much lies below the last place, only that something does. -/
theorem roundsUp_within (r : Rnd) (neg odd : Bool) (rem : Nat) {v t P : Nat} (hv : 0 < v) (h0 : 0 < t) (ht : t < P) :
    roundsUp r neg odd rem (2 * v) true = roundsUp r neg odd (t + P * rem) (P * (2 * v)) false := by
  cases r with
  | rne =>
    obtain h | h := le_or_gt v rem
    · have := Nat.mul_le_mul_left P h
      have h1 : P * (2 * v) < 2 * (t + P * rem) := by rw [mul_left_comm]; omega
      have h2 : 2 * v < 2 * rem ∨ (2 * rem = 2 * v ∧ 0 < rem) := by omega
      simpa [roundsUp, h1] using h2
    · have := Nat.mul_le_mul_left P (Nat.succ_le_of_lt h)
      rw [Nat.mul_succ] at this
      have h1 : ¬ P * (2 * v) < 2 * (t + P * rem) := by rw [mul_left_comm]; omega
      have h2 : ¬ 2 * (t + P * rem) = P * (2 * v) := by rw [mul_left_comm]; omega
      have h3 : ¬ 2 * v < 2 * rem ∧ ¬ 2 * rem = 2 * v := by omega
      simp only [roundsUp, decide_eq_false h1, decide_eq_false h2, decide_eq_false h3.1, decide_eq_false h3.2, Bool.false_and]
  | rtz => rfl
  | rup => simp [roundsUp, h0]
  | rdn => simp [roundsUp, h0]

/-- With something below its last place, a magnitude is rounded as any number between it and the next. -/
theorem roundAt_within (h : Within m k K) (hq : e < q) : roundAt r neg m e q true = roundAt r neg K (e - k) q false := by
  obtain ⟨d, hd⟩ : ∃ d : Nat, q = e + (d + 1) := ⟨(q - e - 1).toNat, by omega⟩
  obtain ⟨hdiv, t, h0, ht, hmod⟩ := h.parts (2 * 2 ^ d)
  have hu : (2 : Nat) ^ (q - e).toNat = 2 * 2 ^ d := by rw [← pow_succ']; congr 1; omega
  have hu' : (2 : Nat) ^ (q - (e - k)).toNat = 2 ^ k * (2 * 2 ^ d) := by rw [← pow_succ', ← pow_add]; congr 1; omega
  have hrem : t + 2 ^ k * (m % (2 * 2 ^ d)) ≠ 0 := by omega
  rw [roundAt, roundAt, if_neg (by omega), if_neg (by omega)]
  simp only [hu, hu', hdiv, hmod, roundsUp_within r neg _ (m % (2 * 2 ^ d)) (v := 2 ^ d) (by positivity) h0 ht, decide_eq_true hrem, Bool.true_or,
    Bool.false_or]

theorem roundFin_within (h : Within m k K) (hm : 2 * 2 ^ f.fbits ≤ m) : roundFin f r neg m e true = roundFin f r neg K (e - k) false := by
  have hm0 : m ≠ 0 := by
    rintro rfl
    simp at hm
  have hK0 : K ≠ 0 := by have := h.lower; omega
  have hlog : f.fbits + 1 ≤ Nat.log2 m := by rwa [Nat.le_log2 hm0, pow_succ']
  have hplace : (Nat.log2 K : Int) + (e - k) = Nat.log2 m + e := by
    rw [h.log2 hm0]
    push_cast
    ring
  have hmag : magBits f r neg m e true = magBits f r neg K (e - k) false := by
    simp only [magBits, hplace, roundAt_within h (show e < max ((Nat.log2 m : Int) + e - f.fbits) (f.emin - f.fbits) by omega)]
  have htiny : isTiny f r neg m e true = isTiny f r neg K (e - k) false := by
    simp only [isTiny, hplace, roundAt_within h (show e < (Nat.log2 m : Int) + e - f.fbits by omega)]
  simp only [roundFin, hm0, hK0, if_false, hmag, htiny]

/-! ## Between two numbers that are rounded alike -/

variable {a a1 a2 : ℝ} {res : Nat × FFlags}

theorem reachesTop_mono {top step : ℝ} (h : a1 ≤ a2) (h1 : reachesTop r neg top step a1) : reachesTop r neg top step a2 := by
  cases r with
  | rne => exact le_trans h1 h
  | rtz => exact le_trans h1 h
  | rup =>
    cases neg with
    | false => exact lt_of_lt_of_le h1 h
    | true => exact le_trans h1 h
  | rdn =>
    cases neg with
    | false => exact le_trans h1 h
    | true => exact lt_of_lt_of_le h1 h

/-- A number that two magnitudes are nearest to is nearer to those between them than any other number is. -/
theorem nearer_between {q y : ℝ} (h1 : |q - a1| ≤ |y - a1|) (h2 : |q - a2| ≤ |y - a2|) (h : a1 < a) (h' : a < a2) (hne : y ≠ q) :
    |q - a| < |y - a| := by
  rw [← sq_le_sq] at h1 h2
  rw [← sq_lt_sq]
  obtain hlt | hlt := lt_or_gt_of_ne hne
  · nlinarith
  · nlinarith

theorem takesRepresentable_between {b : Nat} {q : Rat} (h1 : takesRepresentable f r (signOf ℝ neg * a1) b q)
    (h2 : takesRepresentable f r (signOf ℝ neg * a2) b q) (h0 : 0 < a1) (h : a1 < a) (h' : a < a2) :
    takesRepresentable f r (signOf ℝ neg * a) b q := by
  cases r with
  | rne =>
    intro x y hy
    obtain rfl | hne := eq_or_ne y q
    · exact ⟨le_rfl, fun _ hne => absurd rfl hne⟩
    have h1 := (h1 x y hy).1
    have h2 := (h2 x y hy).1
    rw [abs_sub_signOf_mul, abs_sub_signOf_mul] at h1 h2 ⊢
    have hne' : signOf ℝ neg * y ≠ signOf ℝ neg * q := fun heq => hne (by
      have := congrArg (signOf ℝ neg * ·) heq
      simp only [signOf_mul_self_mul] at this
      exact_mod_cast this)
    have hlt := nearer_between h1 h2 h h' hne'
    exact ⟨hlt.le, fun heq => absurd heq hlt.ne⟩
  | rtz =>
    obtain ⟨hq, -⟩ := h1
    obtain ⟨-, hy⟩ := h2
    have ha : 0 < a := h0.trans h
    rw [abs_signOf_mul, abs_of_pos h0] at hq
    rw [abs_signOf_mul, abs_of_pos (ha.trans h')] at hy
    rw [takesRepresentable, abs_signOf_mul, abs_of_pos ha]
    exact ⟨by linarith, fun x y hv h => hy x y hv (by linarith)⟩
  | rup =>
    obtain ⟨hq1, hy1⟩ := h1
    obtain ⟨hq2, hy2⟩ := h2
    cases neg <;> simp only [signOf_true, signOf_false, one_mul, neg_one_mul] at hq1 hy1 hq2 hy2 ⊢
    · exact ⟨by linarith, fun x y hv h => hy1 x y hv (by linarith)⟩
    · exact ⟨by linarith, fun x y hv h => hy2 x y hv (by linarith)⟩
  | rdn =>
    obtain ⟨hq1, hy1⟩ := h1
    obtain ⟨hq2, hy2⟩ := h2
    cases neg <;> simp only [signOf_true, signOf_false, one_mul, neg_one_mul] at hq1 hy1 hq2 hy2 ⊢
    · exact ⟨by linarith, fun x y hv h => hy2 x y hv (by linarith)⟩
    · exact ⟨by linarith, fun x y hv h => hy1 x y hv (by linarith)⟩

theorem signOf_mul_neg_iff (ha : 0 < a) : signOf ℝ neg * a < 0 ↔ neg = true := by cases neg <;> simp [ha, ha.le]
theorem signOf_mul_pos_iff (ha : 0 < a) : 0 < signOf ℝ neg * a ↔ neg = false := by cases neg <;> simp [ha, ha.le]

/-- What two magnitudes are correctly rounded to is so for every magnitude between them that it is not itself. -/
theorem correctlyRounded_between (h1 : correctlyRounded f r (signOf ℝ neg * a1) res) (h2 : correctlyRounded f r (signOf ℝ neg * a2) res)
    (h0 : 0 < a1) (h : a1 < a) (h' : a < a2) (hne : ∀ q : Rat, (unpack f res.1).value = some q → (q : ℝ) ≠ signOf ℝ neg * a) :
    correctlyRounded f r (signOf ℝ neg * a) res := by
  have ha : 0 < a := h0.trans h
  have ha2 : 0 < a2 := ha.trans h'
  rw [correctlyRounded, overflows_iff_reachesTop h0, signOf_mul_neg_iff h0, signOf_mul_pos_iff h0, tinyAfter_iff_not_reachesTop h0] at h1
  rw [correctlyRounded, overflows_iff_reachesTop ha2, signOf_mul_neg_iff ha2, signOf_mul_pos_iff ha2, tinyAfter_iff_not_reachesTop ha2] at h2
  rw [correctlyRounded, overflows_iff_reachesTop ha, signOf_mul_neg_iff ha, signOf_mul_pos_iff ha, tinyAfter_iff_not_reachesTop ha]
  obtain ⟨hover1, hfin1⟩ := h1
  obtain ⟨hover2, hfin2⟩ := h2
  refine ⟨fun hover => hover2 (reachesTop_mono h'.le hover), fun hfin => ?_⟩
  obtain ⟨q, hq, htakes1, hlt, hsign, hother, hnx1, huf1⟩ := hfin1 (mt (reachesTop_mono h.le) hfin)
  have hfin2' : ¬ reachesTop r neg (2 ^ (f.bias + 1)) (2 ^ (f.bias - f.fbits)) a2 := fun hover => by
    rw [(hover2 hover).1] at hother
    revert hother
    decide
  obtain ⟨q2, hq2, htakes2, -, -, -, hnx2, huf2⟩ := hfin2 hfin2'
  obtain rfl : q = q2 := Option.some.inj (hq.symm.trans hq2)
  have hnx : res.2.getLsbD 0 = true := by
    by_contra hx
    have h12 : signOf ℝ neg * a1 ≠ signOf ℝ neg * a2 := fun heq =>
      (h.trans h').ne ((signOf_mul_self_mul neg a1).symm.trans ((congrArg (signOf ℝ neg * ·) heq).trans (signOf_mul_self_mul neg a2)))
    exact h12 ((not_not.1 (mt hnx1.2 hx)).symm.trans (not_not.1 (mt hnx2.2 hx)))
  have hq := hne q hq
  refine ⟨q, hq2, takesRepresentable_between htakes1 htakes2 h0 h h', hlt, hsign, hother, iff_of_true hnx hq, ?_⟩
  constructor
  · intro hx
    exact ⟨hq, mt (reachesTop_mono h'.le) (huf2.1 hx).2⟩
  · intro hx
    exact huf1.2 ⟨hnx1.1 hnx, mt (reachesTop_mono h.le) hx.2⟩

/-! ## A real number -/

theorem within_iff (m k K : Nat) (e : Int) : Within m k K ↔ (m * 2 ^ e : ℝ) < K * 2 ^ (e - k) ∧ (K * 2 ^ (e - k) : ℝ) < (m + 1) * 2 ^ e := by
  have hu : (0 : ℝ) < 2 ^ (e - k) := zpow_pos two_pos _
  have he : (2 : ℝ) ^ e = (2 ^ k : Nat) * 2 ^ (e - k) := by
    rw [Nat.cast_pow, Nat.cast_ofNat, ← zpow_natCast, ← zpow_add₀ two_ne_zero]
    congr 1
    ring
  rw [he, ← mul_assoc, ← mul_assoc, mul_lt_mul_iff_left₀ hu, mul_lt_mul_iff_left₀ hu]
  norm_cast
  exact ⟨fun h => ⟨h.lower, h.upper⟩, fun h => ⟨h.1, h.2⟩⟩

/-- Between m and m + 1 of a unit there are dyadic numbers on both sides of every other number. -/
theorem exists_within_around (hlo : m * 2 ^ e < a) (hhi : a < (m + 1) * 2 ^ e) :
    ∃ k K K', Within m k K ∧ Within m k K' ∧ (K * 2 ^ (e - k : Int) : ℝ) < a ∧ a < K' * 2 ^ (e - k : Int) := by
  have he : (0 : ℝ) < 2 ^ e := zpow_pos two_pos e
  have hgap : 0 < min (a - m * 2 ^ e) ((m + 1) * 2 ^ e - a) / 2 ^ e := div_pos (lt_min (by linarith) (by linarith)) he
  obtain ⟨k, hk⟩ := exists_pow_lt_of_lt_one hgap (show (1 / 2 : ℝ) < 1 by norm_num)
  have hunit : (2 : ℝ) ^ (e - k) = (1 / 2) ^ k * 2 ^ e := by
    rw [zpow_sub₀ two_ne_zero, zpow_natCast, div_pow, one_pow]
    ring
  have hall : (2 ^ k * 2 ^ (e - k : Int) : ℝ) = 2 ^ e := by
    rw [hunit, ← mul_assoc, ← mul_pow]
    norm_num
  rw [lt_div_iff₀ he, lt_min_iff, ← hunit] at hk
  obtain ⟨hkl, hkh⟩ := hk
  have hpos : (0 : ℝ) < 2 ^ (e - k : Int) := zpow_pos two_pos _
  obtain ⟨K', hK'⟩ : ∃ K', K' + 1 = (m + 1) * 2 ^ k := ⟨(m + 1) * 2 ^ k - 1, Nat.sub_add_cancel (Nat.mul_pos m.succ_pos (by positivity))⟩
  have hlow : ((m * 2 ^ k + 1 : Nat) * 2 ^ (e - k : Int) : ℝ) = m * 2 ^ e + 2 ^ (e - k : Int) := by
    rw [← hall]
    push_cast
    ring
  have hhigh : (K' * 2 ^ (e - k : Int) : ℝ) = (m + 1) * 2 ^ e - 2 ^ (e - k : Int) := by
    rw [eq_sub_of_add_eq (by exact_mod_cast hK' : (K' + 1 : ℝ) = (m + 1) * 2 ^ k), ← hall]
    ring
  refine ⟨k, m * 2 ^ k + 1, K', (within_iff _ _ _ e).2 ?_, (within_iff _ _ _ e).2 ?_, ?_, ?_⟩
  · rw [hlow]
    exact ⟨by linarith, by linarith⟩
  · rw [hhigh]
    exact ⟨by linarith, by linarith⟩
  · rw [hlow]
    linarith
  · rw [hhigh]
    linarith

/-- A number of a format that lies between m and m + 1 of a unit is a dyadic number within it. -/
theorem exists_within_of_value {b : Nat} {p : Rat} (hp : (unpack f b).value = some p) (hpa : (p : ℝ) = signOf ℝ neg * a)
    (hlo : m * 2 ^ e < a) (hhi : a < (m + 1) * 2 ^ e) : ∃ k K : Nat, a = K * 2 ^ (e - k : Int) ∧ Within m k K := by
  have ha : 0 < a := (show (0 : ℝ) ≤ m * 2 ^ e by positivity).trans_lt hlo
  obtain ⟨n, c, d, hfin⟩ := FVal.exists_fin hp
  rw [hfin] at hp
  have hval : |(p : ℝ)| = c * 2 ^ d := by
    obtain rfl : signOf Rat n * c * 2 ^ d = p := Option.some.inj hp
    rw [cast_signed, abs_signOf_mul]
    exact abs_of_nonneg (by positivity)
  rw [hpa, abs_signOf_mul, abs_of_pos ha] at hval
  obtain ⟨j, hj⟩ : ∃ j : Nat, d = e - (e - d).toNat + j := ⟨(d - e).toNat, by omega⟩
  have heq : a = (c * 2 ^ j : Nat) * 2 ^ (e - ((e - d).toNat : Nat) : Int) := by
    rw [hval]
    push_cast
    rw [mul_assoc, ← zpow_natCast, ← zpow_add₀ two_ne_zero, add_comm, ← hj]
  exact ⟨_, _, heq, (within_iff ..).2 (by rw [← heq]; exact ⟨hlo, hhi⟩)⟩

/-- A real number given by its leading places, and by whether anything lies below them, is rounded correctly. -/
theorem roundFin_real (hf : f.Proper) {sticky : Bool} (hm : 2 * 2 ^ f.fbits ≤ m) (hlo : m * 2 ^ e ≤ a) (hhi : a < (m + 1) * 2 ^ e)
    (hs : sticky = true ↔ a ≠ m * 2 ^ e) : correctlyRounded f r (signOf ℝ neg * a) (roundFin f r neg m e sticky) := by
  have hm0 : m ≠ 0 := by
    rintro rfl
    simp at hm
  cases sticky with
  | false =>
    rw [Bool.false_eq_true, false_iff, not_not] at hs
    rw [hs]
    exact roundFin_correctlyRounded hf hm0
  | true =>
    have hlo : m * 2 ^ e < a := lt_of_le_of_ne hlo (hs.1 rfl).symm
    have hdyadic : ∀ k K, Within m k K → correctlyRounded f r (signOf ℝ neg * (K * 2 ^ (e - k))) (roundFin f r neg m e true) := fun k K h => by
      rw [roundFin_within h hm]
      exact roundFin_correctlyRounded hf (by have := h.lower; omega)
    by_cases ha : ∃ k K : Nat, a = K * 2 ^ (e - k : Int) ∧ Within m k K
    · obtain ⟨k, K, rfl, h⟩ := ha
      exact hdyadic k K h
    · obtain ⟨k, K, K', hK, hK', hlow, hhigh⟩ := exists_within_around hlo hhi
      refine correctlyRounded_between (hdyadic k K hK) (hdyadic k K' hK') ?_ hlow hhigh fun p hp hpa =>
        ha (exists_within_of_value hp hpa hlo hhi)
      exact (show (0 : ℝ) ≤ m * 2 ^ e by positivity).trans_lt ((within_iff ..).1 hK).1

end Sys2Proof.Machine
end

section
/-! PROOF of O6. FRCP, FSQRT and FRSQ (R112). -/

namespace Sys2Proof.Machine
open Sys2Proof

variable {f : Fmt} {r : Rnd} {neg : Bool} {x : FVal} {m : Nat} {e k : Int}

/-! ## Rounding a quotient, and the square root of one -/

/-- A quotient is rounded correctly from its whole part and whether there is a remainder. -/
theorem roundFin_quotient (hf : f.Proper) {N D : Nat} (hD : 0 < D) (h : 2 * 2 ^ f.fbits ≤ N / D) :
    correctlyRounded f r (signOf ℝ neg * (N / D * 2 ^ k)) (roundFin f r neg (N / D) k (decide (N % D ≠ 0))) := by
  have hD' : (0 : ℝ) < D := by exact_mod_cast hD
  have hk : (0 : ℝ) < 2 ^ k := zpow_pos two_pos k
  have hN : (N : ℝ) = (N / D : Nat) * D + (N % D : Nat) := by exact_mod_cast (Nat.div_add_mod' N D).symm
  have hmod : ((N % D : Nat) : ℝ) < D := by exact_mod_cast Nat.mod_lt N hD
  refine roundFin_real hf h ?_ ?_ ?_
  · exact mul_le_mul_of_nonneg_right Nat.cast_div_le hk.le
  · refine mul_lt_mul_of_pos_right ?_ hk
    rw [div_lt_iff₀ hD']
    linarith
  · rw [decide_eq_true_iff, not_iff_not, mul_left_inj' hk.ne', div_eq_iff hD'.ne', hN, add_eq_left]
    exact Nat.cast_eq_zero.symm

/-- The square root of a quotient is rounded correctly from its whole part and whether that is all of it. -/
theorem roundFin_sqrt (hf : f.Proper) {N D : Nat} (hD : 0 < D) (h : 2 * 2 ^ f.fbits ≤ Nat.sqrt (N / D)) :
    correctlyRounded f r (√(N / D : ℝ) * 2 ^ k)
      (roundFin f r false (Nat.sqrt (N / D)) k (decide (Nat.sqrt (N / D) * Nat.sqrt (N / D) * D ≠ N))) := by
  generalize hq : Nat.sqrt (N / D) = q at h ⊢
  obtain ⟨hlow, hhigh⟩ := Nat.eq_sqrt.1 hq.symm
  rw [Nat.le_div_iff_mul_le hD] at hlow
  rw [Nat.div_lt_iff_lt_mul hD] at hhigh
  have hD' : (0 : ℝ) < D := by exact_mod_cast hD
  have hk : (0 : ℝ) < 2 ^ k := zpow_pos two_pos k
  have hquot : (0 : ℝ) ≤ N / D := by positivity
  rw [← one_mul (√_ * _), ← signOf_false]
  refine roundFin_real hf h ?_ ?_ ?_
  · refine mul_le_mul_of_nonneg_right (Real.le_sqrt_of_sq_le ?_) hk.le
    rw [le_div_iff₀ hD', sq]
    exact_mod_cast hlow
  · refine mul_lt_mul_of_pos_right ((Real.sqrt_lt' (by positivity)).2 ?_) hk
    rw [div_lt_iff₀ hD', sq]
    exact_mod_cast hhigh
  · rw [decide_eq_true_iff, not_iff_not, mul_left_inj' hk.ne', Real.sqrt_eq_iff_mul_self_eq hquot (by positivity), div_eq_iff hD'.ne',
      eq_comm]
    exact_mod_cast Iff.rfl

theorem isqrtFrom_eq {y : Nat} : ∀ {n q : Nat}, q * q ≤ y → y < (q + 2 ^ n) * (q + 2 ^ n) → isqrtFrom y n q = Nat.sqrt y
  | 0, _, hlow, hhigh => Nat.eq_sqrt.2 ⟨hlow, hhigh⟩
  | n + 1, q, hlow, hhigh => by
    rw [isqrtFrom]
    split_ifs with h
    · exact isqrtFrom_eq h (by rw [add_assoc, ← mul_two, ← pow_succ]; exact hhigh)
    · exact isqrtFrom_eq hlow (not_le.1 h)

/-- The model's integer square root is the library's. -/
theorem isqrt_eq (y : Nat) : isqrt y = Nat.sqrt y := by
  refine isqrtFrom_eq (Nat.zero_le y) ?_
  rw [zero_add, ← pow_add]
  exact Nat.lt_log2_self.trans_le (Nat.pow_le_pow_right two_pos (by omega))

theorem sqrt_mul_zpow (y : ℝ) (k : Int) : √y * 2 ^ k = √(y * 2 ^ (2 * k)) := by
  have hk : (0 : ℝ) ≤ 2 ^ k := zpow_nonneg zero_le_two k
  rw [two_mul, zpow_add₀ two_ne_zero, Real.sqrt_mul' y (mul_nonneg hk hk), Real.sqrt_mul_self hk]

/-! ## The functions -/

theorem fRcp_fin (hm : m ≠ 0) : fRcp r (.fin neg m e) =
    roundFin fmtF32 r neg (2 ^ (Nat.log2 m + 64) / m) (-e - (Nat.log2 m + 64 : Nat)) (decide (2 ^ (Nat.log2 m + 64) % m ≠ 0)) := by
  have hsign : decide ((if neg then -(m : Int) else m) < 0) = neg := by
    cases neg with
    | false => simp
    | true => simpa using Nat.pos_of_ne_zero hm
  have habs : (if neg then -(m : Int) else m).natAbs = m := by cases neg <;> simp
  simp [fRcp, roundQuot, hm, hsign, habs]

theorem fRcp_correctlyRounded (hm : m ≠ 0) : correctlyRounded fmtF32 r (signOf ℝ neg * (m * 2 ^ e))⁻¹ (fRcp r (.fin neg m e)) := by
  have hquot : 2 * 2 ^ fmtF32.fbits ≤ 2 ^ (Nat.log2 m + 64) / m := by
    rw [Nat.le_div_iff_mul_le (Nat.pos_of_ne_zero hm)]
    calc 2 * 2 ^ 23 * m ≤ 2 ^ 63 * 2 ^ (Nat.log2 m + 1) := Nat.mul_le_mul (by norm_num) Nat.lt_log2_self.le
      _ = 2 ^ (Nat.log2 m + 64) := by rw [← pow_add]; congr 1; omega
  have h := roundFin_quotient (r := r) (neg := neg) (k := -e - (Nat.log2 m + 64 : Nat)) fmtF32_proper (Nat.pos_of_ne_zero hm) hquot
  have hval : (signOf ℝ neg * (m * 2 ^ e))⁻¹ =
      signOf ℝ neg * ((2 ^ (Nat.log2 m + 64) : Nat) / m * 2 ^ (-e - (Nat.log2 m + 64 : Nat))) := by
    rw [mul_inv, mul_inv, zpow_sub₀ two_ne_zero, zpow_neg, zpow_natCast, Nat.cast_pow, Nat.cast_ofNat,
      show (signOf ℝ neg)⁻¹ = signOf ℝ neg by cases neg <;> simp]
    field_simp
  rw [fRcp_fin hm, hval]
  exact h

/-- The parity that FSQRT and FRSQ take out of the exponent. -/
theorem exponent_parity (e : Int) : ∃ d : Nat, d ≤ 1 ∧ (if e % 2 = 0 then (0 : Nat) else 1) = d ∧ 2 * ((e - d) / 2) = e - d := by
  split_ifs with h
  · exact ⟨0, by omega, rfl, by omega⟩
  · exact ⟨1, by omega, rfl, by omega⟩

theorem fSqrt_correctlyRounded (hm : m ≠ 0) : correctlyRounded fmtF32 r √(m * 2 ^ e) (fSqrt r (.fin false m e)) := by
  obtain ⟨d, -, hd, heven⟩ := exponent_parity e
  have hval : √(m * 2 ^ e : ℝ) = √((m * 2 ^ (d + 128) : Nat) / (1 : Nat) : ℝ) * 2 ^ ((e - d) / 2 - 64) := by
    rw [sqrt_mul_zpow, mul_sub, heven]
    congr 1
    push_cast
    rw [div_one, mul_assoc, ← zpow_natCast, ← zpow_add₀ two_ne_zero]
    congr 2
    push_cast
    ring
  have hroot : 2 * 2 ^ fmtF32.fbits ≤ Nat.sqrt (m * 2 ^ (d + 128) / 1) := by
    rw [Nat.div_one, Nat.le_sqrt]
    calc 2 * 2 ^ 23 * (2 * 2 ^ 23) ≤ 1 * 2 ^ 128 := by norm_num
      _ ≤ m * 2 ^ (d + 128) := Nat.mul_le_mul (Nat.pos_of_ne_zero hm) (Nat.pow_le_pow_right two_pos (by omega))
  have h := roundFin_sqrt (r := r) (k := (e - d) / 2 - 64) fmtF32_proper one_pos hroot
  rw [Nat.div_one, mul_one] at h
  simp only [fSqrt, hm, if_false, Bool.false_eq_true, isqrt_eq, hd]
  rw [hval]
  exact h

theorem fRsq_correctlyRounded (hm : m ≠ 0) (hlt : m < 2 ^ 24) : correctlyRounded fmtF32 r (√(m * 2 ^ e))⁻¹ (fRsq r (.fin false m e)) := by
  obtain ⟨d, hd1, hd, heven⟩ := exponent_parity e
  have hpos : 0 < m * 2 ^ d := Nat.mul_pos (Nat.pos_of_ne_zero hm) (by positivity)
  have hval : (√(m * 2 ^ e : ℝ))⁻¹ = √((2 ^ 256 : Nat) / (m * 2 ^ d : Nat) : ℝ) * 2 ^ (-128 - (e - d) / 2) := by
    rw [sqrt_mul_zpow, mul_sub, heven, ← Real.sqrt_inv]
    congr 1
    have hc : (2 : ℝ) ^ 256 ≠ 0 := by positivity
    rw [show (2 * -128 - (e - d) : Int) = -(256 : Nat) + (-e + d) by push_cast; ring, zpow_add₀ two_ne_zero, zpow_add₀ two_ne_zero, zpow_neg,
      zpow_neg, zpow_natCast, zpow_natCast, Nat.cast_mul, Nat.cast_pow, Nat.cast_pow, Nat.cast_ofNat]
    generalize (2 : ℝ) ^ 256 = c at hc ⊢
    field_simp
  have hroot : 2 * 2 ^ fmtF32.fbits ≤ Nat.sqrt (2 ^ 256 / (m * 2 ^ d)) := by
    rw [Nat.le_sqrt, Nat.le_div_iff_mul_le hpos]
    calc 2 * 2 ^ 23 * (2 * 2 ^ 23) * (m * 2 ^ d) ≤ 2 * 2 ^ 23 * (2 * 2 ^ 23) * (2 ^ 24 * 2 ^ 1) :=
          Nat.mul_le_mul_left _ (Nat.mul_le_mul hlt.le (Nat.pow_le_pow_right two_pos hd1))
      _ ≤ 2 ^ 256 := by norm_num
  have h := roundFin_sqrt (r := r) (k := -128 - (e - d) / 2) fmtF32_proper hpos hroot
  simp only [fRsq, hm, if_false, Bool.false_eq_true, isqrt_eq, hd]
  rw [hval]
  exact h

end Sys2Proof.Machine
end

section
/-! PROOF of O6. FEXP2 of integers and from 128 on, FLOG2 of powers of two (R112). -/

namespace Sys2Proof.Machine
open Sys2Proof

variable {r : Rnd} {s : Bool} {m : Nat} {e n : Int} {p : Rat}

/-! ## FEXP2 -/

/-- What R60 delivers of an f32 magnitude beyond the largest number. -/
def overflowsUp (r : Rnd) : Nat × FFlags := (if r = .rne ∨ r = .rup then 0x7F800000 else 0x7F7FFFFF, ffOF ||| ffNX)

theorem correctlyRounded_beyond {a : ℝ} {res : Nat × FFlags} (h : correctlyRounded fmtF32 r a res) (ha : 2 ^ 128 ≤ a) : res = overflowsUp r := by
  have h0 : 0 < a := (by norm_num : (0 : ℝ) < 2 ^ 128).trans_le ha
  have hover : overflows fmtF32 r a := by
    have htop := reachesTop_of_le r false (step := 2 ^ (fmtF32.bias - fmtF32.fbits)) (zpow_pos two_pos _) (show (2 : ℝ) ^ (fmtF32.bias + 1) ≤ a by
      rw [show fmtF32.bias + 1 = (128 : Nat) by decide, zpow_natCast]
      exact ha)
    have := (overflows_iff_reachesTop (f := fmtF32) (r := r) (neg := false) h0).2 htop
    rwa [signOf_false, one_mul] at this
  obtain ⟨hflags, hbits, -⟩ := h.1 hover
  exact Prod.ext (hbits h0) hflags

/-- The integer v and the divisor d of a number: v / d, with d a power of two. -/
theorem value_eq_div (he : e < 0) : signOf Rat s * m * 2 ^ e = (signedInt s m : Int) / ((2 ^ (-e).toNat : Nat) : Rat) := by
  obtain ⟨d, rfl⟩ : ∃ d : Nat, e = -d := ⟨(-e).toNat, by omega⟩
  rw [cast_signedInt, neg_neg, Int.toNat_natCast, zpow_neg, zpow_natCast, mul_one, div_eq_mul_inv]
  push_cast
  rfl

/-- FEXP2 of an integer n rounds 2^n, which is exact where f32 has it. -/
theorem fExp2_integer (h : signOf Rat s * m * 2 ^ e = n) : fExp2 r (.fin s m e) = roundFin fmtF32 r false 1 n false := by
  have hclamp : roundFin fmtF32 r false 1 (max (-2000) (min 2000 n)) false = roundFin fmtF32 r false 1 n false := by
    have := roundFin_clamped (r := r) (s := false) ⟨by decide, by decide, by decide⟩ n (m := 1) (e := 0)
    rwa [zero_add, zero_add] at this
  by_cases hm : m = 0
  · subst hm
    obtain rfl : n = 0 := by simpa [eq_comm] using h
    rw [fExp2, if_pos rfl]
    cases r <;> decide
  obtain he | he := le_or_gt 0 e
  · obtain ⟨d, rfl⟩ := Int.eq_ofNat_of_zero_le he
    obtain rfl : signedInt s (m * 2 ^ d) = n := by
      rw [← Int.cast_inj (α := Rat), ← h, cast_signedInt]
      push_cast
      rw [mul_one, zpow_natCast, mul_assoc]
    simp only [fExp2, hm, if_false, he, if_true]
    exact hclamp
  · have hD : ((2 ^ (-e).toNat : Nat) : Int) ≠ 0 := by positivity
    have hv : signedInt s m = n * (2 ^ (-e).toNat : Nat) := by
      rw [value_eq_div he, div_eq_iff (by exact_mod_cast hD)] at h
      exact_mod_cast h
    have hk : signedInt s m / (2 ^ (-e).toNat : Nat) = n := by rw [hv, Int.mul_ediv_cancel _ hD]
    have hg : signedInt s m % (2 ^ (-e).toNat : Nat) = 0 := by rw [hv, Int.mul_emod_left]
    simp only [signedInt] at hk hg
    simp only [fExp2, hm, if_false, not_le.2 he, hk, hg, Int.toNat_zero, if_true]
    exact hclamp

theorem le_expTerms (t k term : Nat) {n : Nat} : term ≤ expTerms t (n + 1) k term := Nat.le_add_right ..

/-- The fixed-point 2^g is at least 1. -/
theorem le_exp2Fix (g : Nat) : 2 ^ fixBits ≤ exp2Fix g := le_expTerms _ _ _ (n := 109)

/-- With its exponent at 128 or more, and something below its places, a result overflows. -/
theorem roundFin_sticky_beyond (hm : 2 ^ 24 ≤ m) (h : (2 : ℝ) ^ 128 ≤ m * 2 ^ e) : roundFin fmtF32 r false m e true = overflowsUp r := by
  have he : (0 : ℝ) < 2 ^ e := zpow_pos two_pos e
  have hlow : m * 2 ^ e < (m + 1 / 2 : ℝ) * 2 ^ e := mul_lt_mul_of_pos_right (by linarith) he
  have hhigh : (m + 1 / 2 : ℝ) * 2 ^ e < (m + 1) * 2 ^ e := mul_lt_mul_of_pos_right (by linarith) he
  have hround := roundFin_real (r := r) (neg := false) fmtF32_proper hm hlow.le hhigh (iff_of_true (rfl : true = true) hlow.ne')
  rw [signOf_false, one_mul] at hround
  exact correctlyRounded_beyond hround (h.trans hlow.le)

/-- FEXP2 of a number that is no integer, from its whole part k. -/
theorem fExp2_fraction {k : Int} (hint : ¬ ∃ n : Int, signOf Rat s * m * 2 ^ e = n) (hk : ⌊signOf Rat s * m * 2 ^ e⌋ = k) :
    ∃ g, fExp2 r (.fin s m e) = if 200 < k then roundFin fmtF32 r false (2 ^ 40) 300 true
      else if k < -200 then roundFin fmtF32 r false (2 ^ 40) (-300) true
      else roundFin fmtF32 r false (exp2Fix g) (k - fixBits) true := by
  have hm : m ≠ 0 := by
    rintro rfl
    exact hint ⟨0, by simp⟩
  have he : e < 0 := by
    by_contra he
    obtain ⟨k, hk⟩ := value_integer (s := s) (m := m) (Or.inl (not_lt.1 he))
    exact hint ⟨k, (mul_assoc _ _ _).trans hk⟩
  have hD : (0 : Int) < (2 ^ (-e).toNat : Nat) := by positivity
  have hg : (signedInt s m % (2 ^ (-e).toNat : Nat)).toNat ≠ 0 := fun hg => by
    have hmod := Int.emod_nonneg (signedInt s m) hD.ne'
    have hdvd : ((2 ^ (-e).toNat : Nat) : Int) ∣ signedInt s m := Int.dvd_of_emod_eq_zero (by omega)
    refine hint ⟨signedInt s m / (2 ^ (-e).toNat : Nat), ?_⟩
    rw [value_eq_div he, Int.cast_div hdvd (by exact_mod_cast hD.ne'), Int.cast_natCast]
  rw [value_eq_div he, Rat.floor_intCast_div_natCast] at hk
  simp only [signedInt] at hg hk
  simp only [fExp2, hm, if_false, not_le.2 he, hg, hk]
  exact ⟨_, rfl⟩

theorem exp2Fix_beyond {k : Int} (g : Nat) (hk : 128 ≤ k) : (2 : ℝ) ^ 128 ≤ exp2Fix g * 2 ^ (k - fixBits) := by
  have hfix : (2 : ℝ) ^ (fixBits : Int) ≤ exp2Fix g := by exact_mod_cast le_exp2Fix g
  calc (2 : ℝ) ^ 128 = 2 ^ (128 : Int) := by norm_cast
    _ ≤ 2 ^ k := zpow_le_zpow_right₀ one_le_two hk
    _ = 2 ^ (fixBits : Int) * 2 ^ (k - fixBits) := by rw [← zpow_add₀ two_ne_zero, add_sub_cancel]
    _ ≤ _ := mul_le_mul_of_nonneg_right hfix (zpow_pos two_pos _).le

theorem fExp2_beyond (h : (FVal.fin s m e).value = some p) (hp : 128 ≤ p) : fExp2 r (.fin s m e) = overflowsUp r := by
  obtain rfl : signOf Rat s * m * 2 ^ e = p := Option.some.inj h
  by_cases hint : ∃ n : Int, signOf Rat s * m * 2 ^ e = n
  · obtain ⟨n, hn⟩ := hint
    rw [hn] at hp
    have hn128 : 128 ≤ n := by exact_mod_cast hp
    have hbeyond : (2 : ℝ) ^ (fmtF32.bias + 1) ≤ (1 : Nat) * 2 ^ n := by
      rw [Nat.cast_one, one_mul]
      exact zpow_le_zpow_right₀ one_le_two ((by decide : fmtF32.bias + 1 ≤ 128).trans hn128)
    rw [fExp2_integer hn, roundFin_beyond fmtF32_proper hbeyond]
    cases r <;> decide
  · have hk : 128 ≤ ⌊signOf Rat s * m * 2 ^ e⌋ := Int.le_floor.2 hp
    generalize hfloor : ⌊signOf Rat s * m * 2 ^ e⌋ = k at hk
    obtain ⟨g, hres⟩ := fExp2_fraction (r := r) hint hfloor
    rw [hres]
    split_ifs with h200 hlow
    · have hbig : (2 : ℝ) ^ 128 ≤ 2 ^ (300 : Int) := by exact_mod_cast pow_le_pow_right₀ (one_le_two (α := ℝ)) (by norm_num : 128 ≤ 300)
      exact roundFin_sticky_beyond (by norm_num) (hbig.trans (le_mul_of_one_le_left (zpow_pos two_pos _).le (by norm_num)))
    · omega
    · have hplaces : 24 ≤ fixBits := by decide
      have hlarge : 2 ^ 24 ≤ exp2Fix g := le_trans (Nat.pow_le_pow_right two_pos hplaces) (le_exp2Fix g)
      exact roundFin_sticky_beyond hlarge (exp2Fix_beyond g hk)

/-! ## FLOG2 -/

/-- A magnitude that is a power of two has a leading bit and nothing else. -/
theorem eq_two_pow_log2 (h : (m * 2 ^ e : Rat) = 2 ^ n) : m = 2 ^ Nat.log2 m ∧ e + Nat.log2 m = n := by
  have hm : (m : Rat) = 2 ^ (n - e) := by rw [zpow_sub₀ two_ne_zero, ← h, mul_div_cancel_right₀ _ (zpow_ne_zero _ two_ne_zero)]
  have hm0 : m ≠ 0 := by
    rintro rfl
    exact (zpow_pos two_pos _).ne hm
  obtain ⟨k, hk⟩ : ∃ k : Nat, n - e = k := by
    refine ⟨(n - e).toNat, (Int.toNat_of_nonneg (not_lt.1 fun hlt => ?_)).symm⟩
    have h1 : (1 : Rat) ≤ m := by exact_mod_cast Nat.pos_of_ne_zero hm0
    rw [hm] at h1
    exact h1.not_gt (zpow_lt_one_of_neg₀ one_lt_two hlt)
  obtain rfl : m = 2 ^ k := by
    rw [hk, zpow_natCast] at hm
    exact_mod_cast hm
  rw [Nat.log2_two_pow]
  exact ⟨rfl, by omega⟩

/-- FLOG2 of a power of two is its exponent, exactly. -/
theorem fLog2_power (hf : IsF32 m e) (h : signOf Rat s * m * 2 ^ e = 2 ^ n) :
    (fLog2 r (.fin s m e)).2 = 0 ∧ (unpack fmtF32 (fLog2 r (.fin s m e)).1).value = some (n : Rat) ∧ (n = 0 → (fLog2 r (.fin s m e)).1 = 0) := by
  have hpos : (0 : Rat) < 2 ^ n := zpow_pos two_pos n
  obtain rfl : s = false := by
    cases s with
    | false => rfl
    | true =>
      have : (0 : Rat) ≤ m * 2 ^ e := by positivity
      rw [signOf_true, mul_assoc, neg_one_mul] at h
      linarith
  rw [signOf_false, one_mul] at h
  obtain ⟨hm, hn⟩ := eq_two_pow_log2 h
  have hm0 : m ≠ 0 := by
    rintro rfl
    rw [Nat.cast_zero, zero_mul] at h
    exact hpos.ne h
  have hlog : Nat.log2 m < 24 := (Nat.log2_lt hm0).2 hf.lt
  rw [fLog2, if_neg hm0, if_neg Bool.false_ne_true, if_pos hm, hn, roundDy]
  by_cases h0 : n = 0
  · rw [if_pos h0, h0]
    exact ⟨rfl, by simp [show unpack fmtF32 (withSign fmtF32 false 0) = .fin false 0 (-149) by decide, FVal.value], fun _ => rfl⟩
  · rw [if_neg h0]
    obtain ⟨hflags, -, hval⟩ := roundFin_integer (s := decide (n < 0)) r (n := n.natAbs) (by have := hf.le; have := hf.ge; omega)
    refine ⟨hflags, hval.trans ?_, fun h => absurd h h0⟩
    congr 2
    rw [signedInt]
    split_ifs with hneg
    · rw [decide_eq_true_iff] at hneg
      omega
    · rw [decide_eq_true_iff] at hneg
      omega

end Sys2Proof.Machine
end

section
/-! PROOF of O6. Values taken as f32, and conversions to lns6 (R66 to R68, R115). -/

namespace Sys2Proof.Machine
open Sys2Proof

variable {n : Bool} {m c : Nat} {e : Int} {x w : FVal} {p : Rat}

/-! ## What f32 has -/

/-- The integer and the exponent of a number of f32. -/
structure FitsF32 (m : Nat) (e : Int) : Prop where
  lt : m < 2 ^ 24
  le : -149 ≤ e
  below : (m * 2 ^ e : ℝ) < 2 ^ 128

theorem FitsF32.of_lt {k : Nat} (hm : m < 2 ^ k) (hk : k ≤ 24) (he : -149 ≤ e) (h : k + e ≤ 128) : FitsF32 m e := by
  refine ⟨hm.trans_le (Nat.pow_le_pow_right two_pos hk), he, ?_⟩
  have hm' : (m : ℝ) < 2 ^ k := by exact_mod_cast hm
  calc (m * 2 ^ e : ℝ) < 2 ^ k * 2 ^ e := mul_lt_mul_of_pos_right hm' (zpow_pos two_pos e)
    _ = 2 ^ (k + e) := by rw [zpow_add₀ two_ne_zero, zpow_natCast]
    _ ≤ 2 ^ (128 : Int) := zpow_le_zpow_right₀ one_le_two h
    _ = 2 ^ 128 := by norm_cast

/-- The numbers of a format within f32's ends are numbers of f32. -/
theorem FitsF32.of_unpack {f : Fmt} {b : Nat} (h : unpack f b = .fin n m e) (hb : f.fbits ≤ 23) (hle : -149 ≤ f.emin - f.fbits)
    (hge : f.emin ≤ 0) (htop : f.emin + 2 ^ f.ebits ≤ 130) : FitsF32 m e := by
  obtain ⟨-, hm, rfl⟩ | ⟨j, -, hj, -, hm, rfl⟩ := unpack_eq_fin h
  · exact .of_lt hm (by omega) hle (by omega)
  · have hj' : (j : Int) + 2 < 2 ^ f.ebits := by exact_mod_cast hj
    rw [← pow_succ'] at hm
    exact .of_lt hm (by omega) (by omega) (by push_cast; omega)

theorem lnsF_lt : ∀ i, lnsF i < 2 ^ 9
  | 0 => by decide
  | 1 => by decide
  | 2 => by decide
  | _ + 3 => show 431 < 2 ^ 9 by decide

/-- What is read exactly from f32, f16, bf16 or lns6 is a number of f32. -/
theorem FitsF32.of_floatValue {src : Ty} {b s : Nat} (hsrc : src ≠ .e4m3) (h : floatValue src b s = .fin n m e) : FitsF32 m e := by
  cases src with
  | f32 => exact .of_unpack h (by decide) (by decide) (by decide) (by decide)
  | f16 => exact .of_unpack h (by decide) (by decide) (by decide) (by decide)
  | bf16 => exact .of_unpack h (by decide) (by decide) (by decide) (by decide)
  | e4m3 => exact absurd rfl hsrc
  | lns6 =>
    simp only [floatValue, lnsValue] at h
    have hc : b % 32 < 32 := Nat.mod_lt _ (by decide)
    split_ifs at h
    · cases h
      exact .of_lt (k := 9) (by decide) (by decide) (by decide) (by decide)
    · cases h
      exact .of_lt (lnsF_lt _) (by decide) (by omega) (by omega)
  | _ => cases h

/-- A number of f32 stays itself. -/
theorem FVal.asF32_value (h : FitsF32 m e) : (FVal.fin n m e).asF32.value = (FVal.fin n m e).value :=
  (roundFin_exact fmtF32_proper (h.lt.trans_eq (by decide)) h.le
    (by rw [show fmtF32.bias + 1 = (128 : Nat) by decide, zpow_natCast]; exact h.below)).2.2

theorem unpack_zero (neg : Bool) : unpack fmtF32 (withSign fmtF32 neg 0) = .fin neg 0 (-149) := by cases neg <;> decide

/-- A number that roundsTo rounds to nearest is what the model takes it as. -/
theorem asF32_of_roundsTo (h : roundsTo .rne (.fin n m e) w) :
    (w.isInf = true → (FVal.fin n m e).asF32.isInf = true) ∧ ∀ p, w.value = some p → (FVal.fin n m e).asF32.value = some p := by
  obtain ⟨z, b, fl, ⟨hzero, hround⟩, rfl⟩ := h.2.2 _ rfl
  by_cases hm : m = 0
  · subst hm
    obtain ⟨rfl, -⟩ := Prod.ext_iff.1 (hzero (by simp))
    rw [FVal.asF32, roundFin_zero, unpack_zero, unpack_zero]
    exact ⟨id, fun p hp => by simpa [FVal.value] using hp⟩
  · have hv := value_fin_eq_zero (n := n) (m := m) (e := e) rfl
    obtain ⟨neg, m', e', hval, hres⟩ := hround (mt hv.1 hm)
    have hmag : (m * 2 ^ e : Rat) = m' * 2 ^ e' := by rw [← abs_signed n m e, ← abs_signed neg m' e', ← hval]
    have hpos : (0 : Rat) < m * 2 ^ e := mul_pos (by exact_mod_cast Nat.pos_of_ne_zero hm) (zpow_pos two_pos e)
    have hneg : neg = n := by
      rw [mul_assoc, mul_assoc, ← hmag, mul_left_inj' hpos.ne'] at hval
      revert hval
      cases neg <;> cases n <;> norm_num
    have hmag' : (m * 2 ^ e : ℝ) = m' * 2 ^ e' := by
      have := congrArg (Rat.cast : Rat → ℝ) hmag
      push_cast at this
      exact this
    subst hneg
    rw [← roundFin_congr fmtF32 .rne neg hmag'] at hres
    obtain ⟨rfl, -⟩ := Prod.ext_iff.1 hres
    exact ⟨id, fun _ => id⟩

theorem e4m3Value_ne_inf (b s : Nat) (neg : Bool) : e4m3Value b s ≠ .inf neg := by
  rw [e4m3Value]
  split
  · exact FVal.noConfusion
  · cases h : unpackE4m3 b with
    | inf k => exact absurd h (unpackE4m3_ne_inf b k)
    | nan => exact FVal.noConfusion
    | fin => exact FVal.noConfusion

/-- A source as R67 takes it: itself, or an e4m3 element's scaled value rounded to f32. -/
theorem asF32_of_source {src : Ty} {b s : Nat} (hnan : (floatValue src b s).isNan = false)
    (hw : if src = .e4m3 then roundsTo .rne (floatValue src b s) w else w = floatValue src b s) :
    (w.isInf = true → (floatValue src b s).asF32.isInf = true) ∧ ∀ p, w.value = some p → (floatValue src b s).asF32.value = some p := by
  cases hx : floatValue src b s with
  | nan => rw [hx] at hnan; cases hnan
  | inf k =>
    rw [hx] at hw
    have hsrc : src ≠ .e4m3 := by
      rintro rfl
      exact e4m3Value_ne_inf _ _ _ hx
    rw [if_neg hsrc] at hw
    subst hw
    exact ⟨id, fun _ => id⟩
  | fin n m e =>
    rw [hx] at hw
    split_ifs at hw with hsrc
    · exact asF32_of_roundsTo hw
    · subst hw
      exact ⟨fun h => Bool.noConfusion h, fun p hp => (FVal.asF32_value (.of_floatValue hsrc hx)).trans hp⟩

/-! ## The decoded values and the thresholds -/

theorem lnsValue_value (h : 0 < c) (h' : c < 32) :
    (lnsValue c).value = some (lnsDecoded c) ∧ (lnsValue (32 + c)).value = some (-lnsDecoded c) := by
  have hexp : (2 : Rat) ^ (((c : Int) - 16) / 4 - 8) = 2 ^ (((c : Int) - 16) / 4) / 256 := by
    rw [zpow_sub₀ two_ne_zero]
    norm_num
  have h1 : c % 32 = c ∧ (32 + c) % 32 = c ∧ c / 32 % 2 = 0 ∧ (32 + c) / 32 % 2 = 1 := by omega
  obtain ⟨hc, hc', hs, hs'⟩ := h1
  simp only [lnsValue, hc, hc', h.ne', if_false, testBit_five, hs, hs', FVal.value, lnsDecoded, lnsF_eq, show (c + 16) % 4 = c % 4 by omega, hexp]
  exact ⟨by simp; ring, by simp; ring⟩

theorem lnsValue_mod (b : Nat) : lnsValue b = lnsValue (b % 64) := by
  have h : b % 64 % 32 = b % 32 ∧ b % 64 / 32 % 2 = b / 32 % 2 := by omega
  simp only [lnsValue, testBit_five, h.1, h.2]

/-- The value of each threshold's pattern, as R67 writes it. -/
theorem threshold_dy : ∀ i, i < 31 → (unpack fmtF32 (lnsThresholds.getD i 0)).dy =
    ⟨([0x8B95C2, 0xA5FED7, 0xC5672A, 0xEAC0C7].getD (i % 4) 0 : Nat), (i / 4 : Nat) - 27⟩ := by decide

theorem threshold_val {i : Nat} (h : i < 31) : (unpack fmtF32 (lnsThresholds.getD i 0)).dy.val = lnsThreshold i := by
  rw [threshold_dy i h, Dy.val, lnsThreshold, Int.cast_natCast]

theorem last_threshold_val : (unpack fmtF32 0x416AC0C7).dy.val = lnsThreshold 31 := by
  rw [show (unpack fmtF32 0x416AC0C7).dy = ⟨(0xEAC0C7 : Nat), (7 : Nat) - 27⟩ by decide]
  rfl

theorem thresholds_ascend : lnsThresholds.Pairwise fun a b => (unpack fmtF32 a).dy.le (unpack fmtF32 b).dy = true := by decide

/-- Where a property holds of the first members of a list and of no other, their number tells of which. -/
theorem getD_iff_lt_filter_length {α : Type} {d : α} {P : α → Bool} : ∀ {l : List α}, l.Pairwise (fun a b => P b = true → P a = true) →
    ∀ i, i < l.length → (P (l.getD i d) = true ↔ i < (l.filter P).length)
  | [], _, i, hi => absurd hi (Nat.not_lt_zero i)
  | a :: l, h, i, hi => by
    obtain ⟨ha, hl⟩ := List.pairwise_cons.1 h
    by_cases hPa : P a = true
    · rw [List.filter_cons_of_pos hPa, List.length_cons]
      cases i with
      | zero => exact iff_of_true hPa (Nat.succ_pos _)
      | succ i =>
        rw [List.getD_cons_succ, Nat.succ_lt_succ_iff]
        exact getD_iff_lt_filter_length hl i (Nat.lt_of_succ_lt_succ hi)
    · have hnone : ∀ b ∈ a :: l, ¬ P b = true := List.forall_mem_cons.2 ⟨hPa, fun b hb => mt (ha b hb) hPa⟩
      rw [List.filter_eq_nil_iff.2 hnone, List.getD_eq_getElem _ _ hi]
      exact iff_of_false (hnone _ (List.getElem_mem hi)) (Nat.not_lt_zero i)

/-- How many thresholds a magnitude reaches (R67). -/
def reached (v : Dy) : Nat := (lnsThresholds.filter fun t => (unpack fmtF32 t).dy.le v).length

theorem reached_lt (v : Dy) : reached v < 32 := Nat.lt_succ_of_le (List.length_filter_le ..)

theorem lt_reached_iff (v : Dy) {i : Nat} (hi : i < 31) : lnsThreshold i ≤ v.val ↔ i < reached v := by
  rw [← threshold_val hi, ← Dy.le_iff]
  refine getD_iff_lt_filter_length (P := fun t => (unpack fmtF32 t).dy.le v) (thresholds_ascend.imp fun {a b} hab hb => ?_) i hi
  rw [Dy.le_iff] at hab hb ⊢
  exact hab.trans hb

/-! ## The conversion -/

theorem toLns6_inf (h : x.asF32.isInf = true) : toLns6 x = (0x20, ffNV) := by
  rw [toLns6]
  cases hx : x.asF32 with
  | inf => rfl
  | nan => rw [hx] at h; cases h
  | fin => rw [hx] at h; cases h

theorem toLns6_zero (h : x.asF32.value = some 0) : toLns6 x = (0, 0) := by
  obtain ⟨n, m, e, hx⟩ := FVal.exists_fin h
  rw [toLns6, hx]
  exact if_pos ((value_fin_eq_zero (hx ▸ h)).1 rfl)

theorem toLns6_fin (hx : x.asF32 = .fin n m e) (hm : m ≠ 0) (hc : reached ⟨m, e⟩ = c) :
    (c = 0 → toLns6 x = (0, ffUF ||| ffNX)) ∧
    (c ≠ 0 → toLns6 x = ((if n then 32 else 0) + c,
      if (unpack fmtF32 0x416AC0C7).dy.le ⟨m, e⟩ then ffOF ||| ffNX else if ((lnsValue c).dy.sub ⟨m, e⟩).isZero then 0 else ffNX)) := by
  rw [reached] at hc
  rw [toLns6, hx]
  simp only [hm, if_false, hc]
  refine ⟨fun h => if_pos h, fun h => ?_⟩
  rw [if_neg h, show (if n = true then c + 32 else c) = (if n = true then 32 else 0) + c by cases n <;> simp [add_comm]]
  split_ifs <;> rfl

/-- A number other than 0 takes the code of the thresholds that its magnitude reaches. -/
theorem toLns6_number (h : x.asF32.value = some p) (hp : p ≠ 0) :
    ∃ c, c < 32 ∧ (∀ i, i < 31 → (lnsThreshold i ≤ |p| ↔ i < c)) ∧ (c = 0 → toLns6 x = (0, ffUF ||| ffNX)) ∧
      (c ≠ 0 → toLns6 x = ((if p < 0 then 32 else 0) + c,
        if lnsThreshold 31 ≤ |p| then ffOF ||| ffNX else if |p| = lnsDecoded c then 0 else ffNX)) := by
  obtain ⟨n, m, e, hx⟩ := FVal.exists_fin h
  rw [hx] at h
  have hm : m ≠ 0 := mt (value_fin_eq_zero h).2 hp
  have habs : |p| = (⟨m, e⟩ : Dy).val := (abs_value_fin h).trans (by rw [Dy.val, Int.cast_natCast])
  have hneg : p < 0 ↔ n = true := by
    have hpos : (0 : Rat) < m * 2 ^ e := mul_pos (by exact_mod_cast Nat.pos_of_ne_zero hm) (zpow_pos two_pos e)
    obtain rfl : signOf Rat n * m * 2 ^ e = p := Option.some.inj h
    cases n with
    | false => simpa using hpos.le
    | true => simpa using hpos
  obtain ⟨hnone, hcode⟩ := toLns6_fin hx hm rfl
  refine ⟨reached ⟨m, e⟩, reached_lt _, fun i hi => habs ▸ lt_reached_iff _ hi, hnone, fun h0 => (hcode h0).trans ?_⟩
  obtain ⟨hdec, -⟩ := lnsValue_value (Nat.pos_of_ne_zero h0) (reached_lt ⟨m, e⟩)
  simp only [hneg, habs, Dy.le_iff, last_threshold_val, Dy.isZero, decide_eq_true_iff, ← Dy.val_eq_zero, Dy.val_sub,
    (FVal.value_eq_some hdec).1, sub_eq_zero, eq_comm (a := (⟨m, e⟩ : Dy).val)]

theorem toLns6_lnsValue : ∀ c, c < 64 → toLns6 (lnsValue c) = (c, 0) := by decide

end Sys2Proof.Machine
end

section
/-! PROOF of O6. LMUL and LSUM's products, R112's table, and the statement. -/

namespace Sys2Proof.Machine
open Sys2Proof

/-! ## LMUL and LSUM (R69, R118, R119) -/

variable {x y : Nat}

theorem lnsMul_nar (h : x % 64 = 32 ∨ y % 64 = 32) : lnsMul x y = (0x20, 0) := by
  rw [lnsMul]
  exact if_pos (by simpa using h)

theorem lnsMul_zero (hx : x % 64 ≠ 32) (hy : y % 64 ≠ 32) (h : x % 32 = 0 ∨ y % 32 = 0) : lnsMul x y = (0, 0) := by
  have hnar : ¬ (x % 64 == 32 || y % 64 == 32) = true := by simp [hx, hy]
  exact (if_neg hnar).trans (if_pos h)

/-- The product of two numbers adds their codes. -/
theorem lnsMul_numbers (hx : x % 64 ≠ 32) (hy : y % 64 ≠ 32) (hx0 : x % 32 ≠ 0) (hy0 : y % 32 ≠ 0) :
    let k : Int := (x % 32 : Nat) + (y % 32 : Nat) - 16
    let sign := if x.testBit 5 != y.testBit 5 then 32 else 0
    lnsMul x y = if k ≤ 0 then (0, ffUF ||| ffNX) else if 32 ≤ k then (sign + 31, ffOF ||| ffNX) else (sign + k.toNat, 0) := by
  have hlow : x % 32 + y % 32 ≤ 16 ↔ ((x % 32 : Nat) + (y % 32 : Nat) - 16 : Int) ≤ 0 := by omega
  have hhigh : 48 ≤ x % 32 + y % 32 ↔ (32 : Int) ≤ (x % 32 : Nat) + (y % 32 : Nat) - 16 := by omega
  have hcode : x % 32 + y % 32 - 16 = ((x % 32 : Nat) + (y % 32 : Nat) - 16 : Int).toNat := by omega
  have htop (s : Bool) : (if s then 63 else 31) = (if s then 32 else 0) + 31 := by cases s <;> rfl
  have hnar : ¬ (x % 64 == 32 || y % 64 == 32) = true := by simp [hx, hy]
  refine (if_neg hnar).trans ((if_neg (not_or.2 ⟨hx0, hy0⟩)).trans ?_)
  simp only [hlow, hhigh, hcode, htop]

theorem lnsProduct_isSNan (x y : Nat) : (lnsProduct x y).isSNan = false := by
  simp only [lnsProduct]
  split_ifs <;> rfl

/-! ## Special operands of the functions (R112) -/

section
variable (r : Rnd)

theorem functions_of_zero (n : Bool) (e : Int) : fRcp r (.fin n 0 e) = (withSign fmtF32 n fmtF32.infBits, ffDZ) ∧
    fSqrt r (.fin n 0 e) = (withSign fmtF32 n 0, 0) ∧ fRsq r (.fin n 0 e) = (withSign fmtF32 n fmtF32.infBits, ffDZ) ∧
    fExp2 r (.fin n 0 e) = (0x3F800000, 0) ∧ fLog2 r (.fin n 0 e) = (0xFF800000, ffDZ) :=
  ⟨rfl, rfl, rfl, rfl, rfl⟩

theorem roots_of_negative {m : Nat} (e : Int) (hm : 0 < m) : fSqrt r (.fin true m e) = (0x7FC00000, ffNV) ∧
    fRsq r (.fin true m e) = (0x7FC00000, ffNV) ∧ fLog2 r (.fin true m e) = (0x7FC00000, ffNV) :=
  ⟨if_neg hm.ne', if_neg hm.ne', if_neg hm.ne'⟩

theorem functions_of_nan (sg : Bool) (f : FVal → Nat × FFlags) (hf : f = fRcp r ∨ f = fSqrt r ∨ f = fRsq r ∨ f = fExp2 r ∨ f = fLog2 r) :
    f (.nan sg) = (0x7FC00000, if sg then ffNV else 0) := by
  obtain rfl | rfl | rfl | rfl | rfl := hf <;> rfl

end

/-! ## Numbers -/

section
variable {r : Rnd} {a : Nat} {na aa : Bool} {p : Rat}

/-- The functions of a number: the exact value rounded once, and the exact cases of FEXP2 and FLOG2. -/
theorem functions_of_number {x : FVal} (hx : x = (unpack fmtF32 a).modify na aa) (h : x.value = some p) :
    (p ≠ 0 → correctlyRounded fmtF32 r ((p : ℝ)⁻¹) (fRcp r x)) ∧
    (0 < p → correctlyRounded fmtF32 r (Real.sqrt p) (fSqrt r x) ∧ correctlyRounded fmtF32 r (Real.sqrt p)⁻¹ (fRsq r x)) ∧
    (∀ n : Int, p = n → n < 128 → -149 ≤ n → (fExp2 r x).2 = 0 ∧ (unpack fmtF32 (fExp2 r x).1).value = some ((2 : Rat) ^ n)) ∧
    (128 ≤ p → fExp2 r x = overflowsUp r) ∧
    ∀ n : Int, p = (2 : Rat) ^ n → (fLog2 r x).2 = 0 ∧ (unpack fmtF32 (fLog2 r x).1).value = some (n : Rat) ∧ (n = 0 → (fLog2 r x).1 = 0) := by
  obtain ⟨s, m, e, rfl⟩ := FVal.exists_fin h
  have hf32 : IsF32 m e := isF32_of_modify hx.symm
  have hm : p ≠ 0 → m ≠ 0 := mt (value_fin_eq_zero h).2
  have hval := h
  obtain rfl : signOf Rat s * m * 2 ^ e = p := Option.some.inj h
  refine ⟨fun h0 => ?_, fun h0 => ?_, fun n hn hlt hge => ?_, fExp2_beyond hval, fun n hn => fLog2_power hf32 hn⟩
  · rw [cast_signed]
    exact fRcp_correctlyRounded (hm h0)
  · obtain rfl : s = false := by
      cases s with
      | false => rfl
      | true =>
        have : (0 : Rat) ≤ m * 2 ^ e := by positivity
        rw [signOf_true, mul_assoc, neg_one_mul] at h0
        linarith
    rw [cast_signed, signOf_false, one_mul]
    exact ⟨fSqrt_correctlyRounded (hm h0.ne'), fRsq_correctlyRounded (hm h0.ne') hf32.lt⟩
  · rw [fExp2_integer hn]
    obtain ⟨hflags, -, hv⟩ := roundFin_exact (r := r) (neg := false) (m := 1) (e := n) fmtF32_proper (by decide) hge (by
      rw [Nat.cast_one, one_mul]
      exact zpow_lt_zpow_right₀ one_lt_two (hlt.trans_eq (by decide)))
    exact ⟨hflags, hv.trans (by simp)⟩

end

theorem fRint_inf (r : Rnd) {x : FVal} (raw : Nat) (h : x.isInf = true) : fRint r x raw = (raw, 0) := by
  cases x with
  | inf => rfl
  | nan => cases h
  | fin => cases h

/-- Settles O6: FMIN, FMAX and FRINT; the functions' special operands and numbers; the conversions and products of lns6. -/
theorem functionAndLnsResults : Obligations.FunctionAndLnsResults := by
  refine ⟨⟨fun mx a b na aa nb ab => ?_, fun r a na aa => ?_⟩, fun r => ?_, fun r a na aa p h => functions_of_number rfl h,
    ⟨fun c h h' => lnsValue_value h h', rfl, rfl, lnsValue_mod, fun src r b s w => ?_, fun x y => ?_,
      fun x y => ⟨lnsProduct_lnsProductOf x y, lnsProduct_isSNan x y⟩⟩, toLns6_lnsValue⟩
  · exact ⟨fMinMax_nans, fMinMax_nan_left, fMinMax_nan_right,
      fun hx hy => fMinMax_chooses hx hy (unpack_modifyBits ..) (unpack_modifyBits ..)⟩
  · exact ⟨fun sg hx => by rw [hx]; rfl, fRint_inf r _, fun p hp => fRint_number hp (unpack_modifyBits ..)⟩
  · exact ⟨functions_of_zero r, fun _ => rfl, rfl, rfl, rfl, rfl, rfl, rfl, rfl, rfl, fun m e hm => roots_of_negative r e hm, functions_of_nan r⟩
  · refine ⟨fun sg hx => ?_, fun hnan hw => ?_⟩
    · rw [fCvt, hx]
      rfl
    · obtain ⟨hinf, hval⟩ := asF32_of_source hnan hw
      exact ⟨fun h => toLns6_inf (hinf h), fun p hp => ⟨fun h0 => toLns6_zero ((hval p hp).trans (congrArg some h0)), toLns6_number (hval p hp)⟩⟩
  · exact ⟨lnsMul_nar, fun hx hy => ⟨lnsMul_zero hx hy, lnsMul_numbers hx hy⟩⟩

end Sys2Proof.Machine
end
